-- ==== Sys2Proof/Word.lean ====
section
/-! DEFINITION. The machine's words: registers, lanes, bytes and operand codes (R3, R4, R63). -/

namespace Sys2Proof

/-- A 64-bit register, address or DRAM word (R4, R124). -/
abbrev Word := BitVec 64

/-- One 32-bit vector lane (R144). -/
abbrev Lane := BitVec 32

/-- The smallest addressable unit (R4). -/
abbrev Byte := BitVec 8

/-- A 6-bit operand code of an instruction field (R63, R67). -/
abbrev Code := BitVec 6

end Sys2Proof
end

