-- ==== Sys2Proof/Machine/Cipher.lean ====
section
/-! DEFINITION. The published algorithms that the spec names: AES-256 (FIPS 197) and its XTS mode (IEEE 1619) for R424, SHA-256 (FIPS 180-4) and the
verification of LMS signatures (RFC 8554) for R428 and R429. -/

namespace Sys2Proof.Machine

/-! AES-256. -/

/-- The product of a byte with x in the field of AES. -/
def xtime (b : Byte) : Byte := (b <<< 1) ^^^ (if b.getLsbD 7 then 0x1B#8 else 0#8)
/-- The product of two bytes in the field of AES, from n bits of the first. -/
def gmulFrom : Nat → Byte → Byte → Byte
  | 0, _, _ => 0
  | n + 1, a, b => (if a.getLsbD 0 then b else 0#8) ^^^ gmulFrom n (a >>> 1) (xtime b)
/-- The product of two bytes in the field of AES. -/
def gmul (a b : Byte) : Byte := gmulFrom 8 a b
/-- The inverse of a byte in the field of AES, its 254th power; that of 0 is 0. -/
def ginv (a : Byte) : Byte :=
  let a2 := gmul a a
  let a3 := gmul a2 a
  let a6 := gmul a3 a3
  let a12 := gmul a6 a6
  let a15 := gmul a12 a3
  let a30 := gmul a15 a15
  let a60 := gmul a30 a30
  let a120 := gmul a60 a60
  let a126 := gmul a120 a6
  let a127 := gmul a126 a
  gmul a127 a127
/-- The S-box. -/
def sbox (b : Byte) : Byte :=
  let i := ginv b
  i ^^^ i.rotateLeft 1 ^^^ i.rotateLeft 2 ^^^ i.rotateLeft 3 ^^^ i.rotateLeft 4 ^^^ 0x63#8
/-- The inverse S-box. -/
def invSbox (b : Byte) : Byte := ginv (b.rotateLeft 1 ^^^ b.rotateLeft 3 ^^^ b.rotateLeft 6 ^^^ 0x05#8)

/-- Four bytes. -/
structure Col where
  (a b c d : Byte)
  deriving DecidableEq, Repr
/-- A block of 16 bytes, column by column. -/
structure Block where
  (w x y z : Col)
  deriving DecidableEq, Repr

/-- The bitwise sum of two columns. -/
def Col.xor (p q : Col) : Col := ⟨p.a ^^^ q.a, p.b ^^^ q.b, p.c ^^^ q.c, p.d ^^^ q.d⟩
/-- A byte function on a column. -/
def Col.map (f : Byte → Byte) (p : Col) : Col := ⟨f p.a, f p.b, f p.c, f p.d⟩
/-- The bitwise sum of two blocks. -/
def Block.xor (p q : Block) : Block := ⟨p.w.xor q.w, p.x.xor q.x, p.y.xor q.y, p.z.xor q.z⟩
/-- A column function on a block. -/
def Block.map (f : Col → Col) (p : Block) : Block := ⟨f p.w, f p.x, f p.y, f p.z⟩
/-- ShiftRows. -/
def Block.shift (p : Block) : Block :=
  ⟨⟨p.w.a, p.x.b, p.y.c, p.z.d⟩, ⟨p.x.a, p.y.b, p.z.c, p.w.d⟩, ⟨p.y.a, p.z.b, p.w.c, p.x.d⟩, ⟨p.z.a, p.w.b, p.x.c, p.y.d⟩⟩
/-- InvShiftRows. -/
def Block.unshift (p : Block) : Block :=
  ⟨⟨p.w.a, p.z.b, p.y.c, p.x.d⟩, ⟨p.x.a, p.w.b, p.z.c, p.y.d⟩, ⟨p.y.a, p.x.b, p.w.c, p.z.d⟩, ⟨p.z.a, p.y.b, p.x.c, p.w.d⟩⟩
/-- The product of a column with the circulant matrix of four coefficients. -/
def Col.times (k0 k1 k2 k3 : Byte) (p : Col) : Col :=
  ⟨gmul k0 p.a ^^^ gmul k1 p.b ^^^ gmul k2 p.c ^^^ gmul k3 p.d, gmul k3 p.a ^^^ gmul k0 p.b ^^^ gmul k1 p.c ^^^ gmul k2 p.d,
   gmul k2 p.a ^^^ gmul k3 p.b ^^^ gmul k0 p.c ^^^ gmul k1 p.d, gmul k1 p.a ^^^ gmul k2 p.b ^^^ gmul k3 p.c ^^^ gmul k0 p.d⟩
/-- MixColumns on a column. -/
def Col.mix (p : Col) : Col := p.times 2 3 1 1
/-- InvMixColumns on a column. -/
def Col.unmix (p : Col) : Col := p.times 14 11 13 9

/-- One step of the key schedule: the next four columns of the expanded key from the eight before them; `odd` is a step that only substitutes. -/
def nextKey (odd : Bool) (rcon : Byte) (p q : Block) : Block :=
  let t := q.z
  let g : Col := if odd then t.map sbox else ⟨sbox t.b ^^^ rcon, sbox t.c, sbox t.d, sbox t.a⟩
  let w := p.w.xor g
  let x := p.x.xor w
  let y := p.y.xor x
  ⟨w, x, y, p.z.xor y⟩
/-- The round keys after the two given, n more. -/
def moreKeys : Nat → Bool → Byte → Block → Block → List Block
  | 0, _, _, _, _ => []
  | n + 1, odd, rcon, p, q =>
    let r := nextKey odd rcon p q
    r :: moreKeys n (!odd) (if odd then xtime rcon else rcon) q r
/-- The 15 round keys of a 256-bit key given as two blocks: the first, the thirteen between, and the last. -/
def roundKeys (p q : Block) : List Block := p :: q :: moreKeys 13 false 1 p q

/-- The rounds of the cipher after the first key has been added: the last key ends it without MixColumns. -/
def encryptRounds : List Block → Block → Block
  | [], s => s
  | [k], s => ((s.map (Col.map sbox)).shift).xor k
  | k :: t, s => encryptRounds t ((((s.map (Col.map sbox)).shift).map Col.mix).xor k)
/-- The same rounds backwards. -/
def decryptRounds : List Block → Block → Block
  | [], s => s
  | [k], s => ((s.xor k).unshift).map (Col.map invSbox)
  | k :: t, s => ((((decryptRounds t s).xor k).map Col.unmix).unshift).map (Col.map invSbox)
/-- AES-256 encrypts a block. -/
def aesEncrypt (p q s : Block) : Block := encryptRounds ((roundKeys p q).drop 1) (s.xor p)
/-- AES-256 decrypts a block. -/
def aesDecrypt (p q s : Block) : Block := (decryptRounds ((roundKeys p q).drop 1) s).xor p

/-! XTS on a data unit of 32 bytes: two blocks, no remainder (R424). -/

/-- Byte i of a number, the least significant first. -/
def byteAt (n i : Nat) : Byte := BitVec.ofNat 8 (n / 2 ^ (8 * i))
/-- The block of 16 bytes from byte i of a number. -/
def blockAt (n i : Nat) : Block :=
  let c := fun (j : Nat) => Col.mk (byteAt n j) (byteAt n (j + 1)) (byteAt n (j + 2)) (byteAt n (j + 3))
  ⟨c i, c (i + 4), c (i + 8), c (i + 12)⟩
/-- The bytes of a column. -/
def Col.bytes (c : Col) : List Byte := [c.a, c.b, c.c, c.d]
/-- The bytes of a block. -/
def Block.bytes (p : Block) : List Byte := p.w.bytes ++ p.x.bytes ++ p.y.bytes ++ p.z.bytes
/-- The number whose bytes are given, the least significant first. -/
def leNat : List Byte → Nat
  | [] => 0
  | b :: t => b.toNat + 256 * leNat t
/-- The product of a block, taken as a number, with alpha in the field of XTS. -/
def Block.alpha (p : Block) : Block :=
  let n := leNat p.bytes
  blockAt ((2 * n % 2 ^ 128) ^^^ (if n / 2 ^ 127 % 2 = 1 then 0x87 else 0)) 0
/-- The two tweak blocks of a data unit: byte i of the key is bits [8i+7:8i], its first 32 bytes are the data key and the others the tweak key (log 89). -/
def xtsTweaks (key : BitVec 512) (tweak : Nat) : Block × Block :=
  let t := aesEncrypt (blockAt key.toNat 32) (blockAt key.toNat 48) (blockAt tweak 0)
  (t, t.alpha)
/-- The two blocks of a data unit, encrypted. -/
def xtsEncrypt (key : BitVec 512) (tweak : Nat) (d : Block × Block) : Block × Block :=
  let t := xtsTweaks key tweak
  let e := fun (b t : Block) => (aesEncrypt (blockAt key.toNat 0) (blockAt key.toNat 16) (b.xor t)).xor t
  (e d.1 t.1, e d.2 t.2)
/-- The two blocks of a data unit, decrypted. -/
def xtsDecrypt (key : BitVec 512) (tweak : Nat) (d : Block × Block) : Block × Block :=
  let t := xtsTweaks key tweak
  let e := fun (b t : Block) => (aesDecrypt (blockAt key.toNat 0) (blockAt key.toNat 16) (b.xor t)).xor t
  (e d.1 t.1, e d.2 t.2)

/-! SHA-256. -/

/-- The first 32 bits of the fractional parts of the cube roots of the first 64 primes. -/
def sha256K : List (BitVec 32) :=
  [0x428a2f98, 0x71374491, 0xb5c0fbcf, 0xe9b5dba5, 0x3956c25b, 0x59f111f1, 0x923f82a4, 0xab1c5ed5,
   0xd807aa98, 0x12835b01, 0x243185be, 0x550c7dc3, 0x72be5d74, 0x80deb1fe, 0x9bdc06a7, 0xc19bf174,
   0xe49b69c1, 0xefbe4786, 0x0fc19dc6, 0x240ca1cc, 0x2de92c6f, 0x4a7484aa, 0x5cb0a9dc, 0x76f988da,
   0x983e5152, 0xa831c66d, 0xb00327c8, 0xbf597fc7, 0xc6e00bf3, 0xd5a79147, 0x06ca6351, 0x14292967] ++
  [0x27b70a85, 0x2e1b2138, 0x4d2c6dfc, 0x53380d13, 0x650a7354, 0x766a0abb, 0x81c2c92e, 0x92722c85,
   0xa2bfe8a1, 0xa81a664b, 0xc24b8b70, 0xc76c51a3, 0xd192e819, 0xd6990624, 0xf40e3585, 0x106aa070,
   0x19a4c116, 0x1e376c08, 0x2748774c, 0x34b0bcb5, 0x391c0cb3, 0x4ed8aa4a, 0x5b9cca4f, 0x682e6ff3,
   0x748f82ee, 0x78a5636f, 0x84c87814, 0x8cc70208, 0x90befffa, 0xa4506ceb, 0xbef9a3f7, 0xc67178f2]

/-- The eight working words. -/
structure Sha where
  (a b c d e f g h : BitVec 32)
  deriving DecidableEq, Repr
/-- The initial value: the first 32 bits of the fractional parts of the square roots of the first 8 primes. -/
def Sha.init : Sha := ⟨0x6a09e667, 0xbb67ae85, 0x3c6ef372, 0xa54ff53a, 0x510e527f, 0x9b05688c, 0x1f83d9ab, 0x5be0cd19⟩

/-- The number whose bytes are given, the most significant first. -/
def beNat (l : List Byte) : Nat := l.foldl (fun n b => n * 256 + b.toNat) 0
/-- The n bytes of a number, the most significant first. -/
def beBytes (n v : Nat) : List Byte := (List.range n).map (fun i => BitVec.ofNat 8 (v / 256 ^ (n - 1 - i)))

/-- The message schedule: the words so far, the newest first, and n more. -/
def shaSchedule : Nat → List (BitVec 32) → List (BitVec 32)
  | 0, w => w.reverse
  | n + 1, w =>
    let x := w.getD 14 0
    let y := w.getD 1 0
    let s0 := x.rotateRight 7 ^^^ x.rotateRight 18 ^^^ (x >>> 3)
    let s1 := y.rotateRight 17 ^^^ y.rotateRight 19 ^^^ (y >>> 10)
    shaSchedule n ((w.getD 15 0 + s0 + w.getD 6 0 + s1) :: w)
/-- One round. -/
def Sha.round (s : Sha) (kw : BitVec 32 × BitVec 32) : Sha :=
  let t1 := s.h + (s.e.rotateRight 6 ^^^ s.e.rotateRight 11 ^^^ s.e.rotateRight 25) + ((s.e &&& s.f) ^^^ (~~~s.e &&& s.g)) + kw.1 + kw.2
  let t2 := (s.a.rotateRight 2 ^^^ s.a.rotateRight 13 ^^^ s.a.rotateRight 22) + ((s.a &&& s.b) ^^^ (s.a &&& s.c) ^^^ (s.b &&& s.c))
  ⟨t1 + t2, s.a, s.b, s.c, s.d + t1, s.e, s.f, s.g⟩
/-- One 64-byte block. -/
def Sha.block (s : Sha) (b : List Byte) : Sha :=
  let w := shaSchedule 48 (((List.range 16).map (fun i => BitVec.ofNat 32 (beNat ((b.drop (4 * i)).take 4)))).reverse)
  let t := (sha256K.zip w).foldl Sha.round s
  ⟨s.a + t.a, s.b + t.b, s.c + t.c, s.d + t.d, s.e + t.e, s.f + t.f, s.g + t.g, s.h + t.h⟩
/-- The first n blocks of a padded message. -/
def Sha.blocks : Nat → List Byte → Sha → Sha
  | 0, _, s => s
  | n + 1, m, s => Sha.blocks n (m.drop 64) (s.block (m.take 64))
/-- A message with its padding. -/
def shaPad (m : List Byte) : List Byte :=
  m ++ 0x80#8 :: (List.replicate ((119 - m.length % 64) % 64) 0#8) ++ beBytes 8 (8 * m.length)
/-- SHA-256 of a message: 32 bytes. -/
def sha256 (m : List Byte) : List Byte :=
  let p := shaPad m
  let s := Sha.blocks (p.length / 64) p Sha.init
  [s.a, s.b, s.c, s.d, s.e, s.f, s.g, s.h].flatMap (fun w => beBytes 4 w.toNat)

/-! LMS with the parameter sets LMS_SHA256_M32_H10 and LMOTS_SHA256_N32_W4 (R428). -/

/-- Digit i of a byte string in base 16. -/
def lmsDigit (q : List Byte) (i : Nat) : Nat := (q.getD (i / 2) 0).toNat / (if i % 2 = 0 then 16 else 1) % 16
/-- The 67 digits that a signature covers: those of the hash and of its checksum. -/
def lmsDigits (q : List Byte) : List Nat :=
  let d := (List.range 64).map (lmsDigit q)
  let sum := d.foldl (fun n x => n + (15 - x)) 0 * 16
  d ++ (List.range 3).map (lmsDigit (beBytes 2 sum))
/-- A chain from step j, n steps on. -/
def lmsChain (ident : List Byte) (q i : Nat) : Nat → Nat → List Byte → List Byte
  | 0, _, x => x
  | n + 1, j, x => lmsChain ident q i n (j + 1) (sha256 (ident ++ beBytes 4 q ++ beBytes 2 i ++ beBytes 1 j ++ x))
/-- The way up from a node of the tree: its number, its value, and the path. -/
def lmsClimb (ident : List Byte) : Nat → Nat → List Byte → List Byte → List Byte
  | 0, _, x, _ => x
  | n + 1, node, x, path =>
    let p := path.take 32
    let both := if node % 2 = 1 then p ++ x else x ++ p
    lmsClimb ident n (node / 2) (sha256 (ident ++ beBytes 4 (node / 2) ++ beBytes 2 0x8383 ++ both)) (path.drop 32)
/-- Whether a signature verifies a message under a public key (RFC 8554, 5.4.2). -/
def lmsVerify (key msg sig : List Byte) : Bool :=
  let ident := (key.drop 8).take 16
  let q := beNat (sig.take 4)
  let c := (sig.drop 8).take 32
  let y := sig.drop 40
  let tail := sig.drop (40 + 67 * 32)
  let h := sha256 (ident ++ beBytes 4 q ++ beBytes 2 0x8181 ++ c ++ msg)
  let z := ((lmsDigits h).zip (List.range 67)).flatMap (fun d => lmsChain ident q d.2 (15 - d.1) d.1 ((y.drop (32 * d.2)).take 32))
  let leaf := sha256 (ident ++ beBytes 4 (1024 + q) ++ beBytes 2 0x8282 ++ sha256 (ident ++ beBytes 4 q ++ beBytes 2 0x8080 ++ z))
  decide (key.length = 56) && decide (key.take 8 = beBytes 4 6 ++ beBytes 4 3) && decide (sig.length = 40 + 67 * 32 + 4 + 320) &&
    decide (q < 1024) && decide ((sig.drop 4).take 4 = beBytes 4 3) && decide (tail.take 4 = beBytes 4 6) &&
    decide (lmsClimb ident 10 (1024 + q) leaf (tail.drop 4) = key.drop 24)

end Sys2Proof.Machine
end

