-- ==== Sys2Proof/Formats.lean ====
section
/-! DEFINITION. The operand fields of each encoding format (R58, R59, R72, R73), one structure per
set of fields that a form uses. A field that a form leaves unused has no place here (R62). -/

namespace Sys2Proof

/-- Format A, two sources and a destination: y is the y bit of b, x that of a. -/
structure FmtA where
  (y : Bool) (b : Code) (x : Bool) (a d : Code)
  deriving DecidableEq, Repr

/-- Format A, one source: `x a d`. -/
structure FmtUn where
  (x : Bool) (a d : Code)
  deriving DecidableEq, Repr

/-- Format A, one source and no destination. -/
structure FmtSrc where
  (x : Bool) (a : Code)
  deriving DecidableEq, Repr

/-- Format A, two sources and no destination. -/
structure FmtTwo where
  (y : Bool) (b : Code) (x : Bool) (a : Code)
  deriving DecidableEq, Repr

/-- Format A, a destination only. -/
structure FmtDst where
  (d : Code)
  deriving DecidableEq, Repr

/-- Format I with a signed 11-bit immediate. -/
structure FmtI where
  (i : BitVec 11) (x : Bool) (a d : Code)
  deriving DecidableEq, Repr

/-- Format I of `shi`: a shift count. -/
structure FmtSh where
  (n : BitVec 6) (x : Bool) (a d : Code)
  deriving DecidableEq, Repr

/-- Format I of `ldi` and `ldih`. -/
structure FmtLi where
  (i : BitVec 18) (d : Code)
  deriving DecidableEq, Repr

/-- `mfs`: a system register number and a destination. -/
structure FmtMfs where
  (i : BitVec 11) (d : Code)
  deriving DecidableEq, Repr

/-- `mts`: a system register number and a source. -/
structure FmtMts where
  (i : BitVec 11) (x : Bool) (a : Code)
  deriving DecidableEq, Repr

/-- Format B (R60: no y bits). -/
structure FmtB where
  (p : BitVec 9) (b a : Code)
  deriving DecidableEq, Repr

/-- Format Z. -/
structure FmtZ where
  (p : BitVec 15) (a : Code)
  deriving DecidableEq, Repr

/-- Format J. -/
structure FmtJ where
  (p : BitVec 24)
  deriving DecidableEq, Repr

/-- `loop` and `iloop`: body length, count or descriptor, `.rn`. -/
structure FmtLoop where
  (i : BitVec 11) (x : Bool) (a : Code) (r : Bool)
  deriving DecidableEq, Repr

/-- Format P: sat, rnd, scale register, fmt_d, fmt_b, fmt_a. -/
structure FmtP where
  (t : Bool) (r : BitVec 2) (s g h k : BitVec 4)
  deriving DecidableEq, Repr

/-- The `trap` major: the 9-bit code. -/
structure FmtTrap where
  (c : BitVec 9)
  deriving DecidableEq, Repr

/-- Format M: offset, scope/order code, size, base, d. -/
structure FmtM where
  (o : BitVec 6) (c : BitVec 3) (sz : BitVec 2) (x : Bool) (a d : Code)
  deriving DecidableEq, Repr

/-- `ldx`. -/
structure FmtLdx where
  (u : Bool) (sz : BitVec 2) (y : Bool) (b : Code) (x : Bool) (a d : Code)
  deriving DecidableEq, Repr

/-- `ldfe` and `stfe`. -/
structure FmtFe where
  (o : BitVec 6) (x : Bool) (a d : Code)
  deriving DecidableEq, Repr

/-- Format Y of `red`. In format Y bits [26:21] are b and the layout has no y bit of b. -/
structure FmtRed where
  (k : BitVec 2) (b : Code) (x : Bool) (a : Code)
  deriving DecidableEq, Repr

/-- Format Y of `amo` and `amo2`. -/
structure FmtAmo where
  (k : BitVec 2) (b : Code) (x : Bool) (a d : Code)
  deriving DecidableEq, Repr

/-- `fence` with a scope. -/
structure FmtFence where
  (k : BitVec 2)
  deriving DecidableEq, Repr

/-- `lda`. -/
structure FmtLda where
  (u : Bool) (sz k : BitVec 2) (b : Code) (x : Bool) (a d : Code)
  deriving DecidableEq, Repr

/-- `stl`. -/
structure FmtStl where
  (sz k : BitVec 2) (b : Code) (x : Bool) (a d : Code)
  deriving DecidableEq, Repr

/-- `ldb`: sign extension and width less one. -/
structure FmtLdb where
  (e : Bool) (w : BitVec 6) (x : Bool) (a d : Code)
  deriving DecidableEq, Repr

/-- `stb`. -/
structure FmtStb where
  (w : BitVec 6) (x : Bool) (a d : Code)
  deriving DecidableEq, Repr

/-- `pref`. -/
structure FmtPref where
  (o : BitVec 6) (sz : BitVec 2) (x : Bool) (a : Code)
  deriving DecidableEq, Repr

/-- `send`: traffic class, data, target. -/
structure FmtSend where
  (t : BitVec 2) (y : Bool) (b : Code) (x : Bool) (a : Code)
  deriving DecidableEq, Repr

/-- `put` and `mput`. -/
structure FmtPut where
  (t : BitVec 2) (y : Bool) (b : Code) (x : Bool) (a d : Code)
  deriving DecidableEq, Repr

/-- Vector format A, maskable (y), two sources. -/
structure FmtV where
  (y : Bool) (b a d : Code)
  deriving DecidableEq, Repr

/-- Vector format A, maskable, one source b. -/
structure FmtVUn where
  (y : Bool) (b d : Code)
  deriving DecidableEq, Repr

/-- Vector format A, not maskable, two sources. -/
structure FmtVV where
  (b a d : Code)
  deriving DecidableEq, Repr

/-- Vector format A, not maskable, one source a. -/
structure FmtVA where
  (a d : Code)
  deriving DecidableEq, Repr

/-- Vector format A, not maskable, one source b. -/
structure FmtVB where
  (b d : Code)
  deriving DecidableEq, Repr

/-- `vcvt`: destination format g, source format h. -/
structure FmtCvt where
  (g : BitVec 4) (y : Bool) (b : Code) (h : BitVec 4) (d : Code)
  deriving DecidableEq, Repr

/-- Plain `vred`: maskable, one source a. -/
structure FmtVRed where
  (y : Bool) (a d : Code)
  deriving DecidableEq, Repr

/-- `vld` and `vst`. -/
structure FmtVM where
  (o : BitVec 6) (c : BitVec 3) (sz : BitVec 2) (a d : Code)
  deriving DecidableEq, Repr

/-- `vldb` and `vstb`: element width less one. -/
structure FmtVBit where
  (w : BitVec 4) (y : Bool) (a d : Code)
  deriving DecidableEq, Repr

/-- Format N. -/
structure FmtN where
  (m : Bool) (b d : BitVec 5)
  deriving DecidableEq, Repr

/-- `copy`: bit [27] is the follow-on flag, so b has no y bit (R210). -/
structure FmtCopy where
  (b : Code) (x : Bool) (a d : Code)
  deriving DecidableEq, Repr

/-- `mmrun`: overwrite and energy class. -/
structure FmtRun where
  (w : Bool) (e : BitVec 2) (y : Bool) (b : Code) (x : Bool) (a d : Code)
  deriving DecidableEq, Repr

end Sys2Proof
end

