-- ==== Sys2Proof/Records.lean ====
section
/-! DEFINITION. Records that software, the host and the compositors hand to the device: images, graphs,
launch packets, saggar records, boot inputs, fabric messages (R196 to R204, R371 to R373, R396, R412,
R427). They are the operands of the device events. -/

namespace Sys2Proof

/-- Names one strand slot of the device. -/
structure StrandRef where
  (core slot : Nat)
  deriving DecidableEq, Repr

/-- A lease: base, length, and whether it grants writes (R49). -/
structure Lease where
  (base len : Nat) (rw : Bool)
  deriving DecidableEq, Repr

/-- A commutativity table: kinds loaded, the pairs' values row by row, the miss setting (R51, R241). -/
structure CommuteTable where
  (size : Nat) (vals : List Nat) (missTrap : Bool)
  deriving DecidableEq, Repr

/-- A kernel of an image: its launch descriptor (R47 to R51, R371) and the privileged attribute (R400). `entry` is an address already (log 128). DESIGN
CHOICE (log 127): the miss setting stands in the commutativity table, so that a kernel without a table has none. -/
structure KernelRec where
  (handle entry quota prio table : Nat) (leases : List Lease) (commute : Option CommuteTable) (priv : Bool)
  deriving DecidableEq, Repr

/-- One page mapping: virtual address, whether 2 MiB, and the leaf entry (R386, R387). -/
structure PageRec where
  (va : Nat) (big : Bool) (leaf : Word)
  deriving DecidableEq, Repr

/-- A relocatable `.dword`: its section (true for `.text`) and byte offset there, the section of its label and the offset there (R40, R371). -/
structure RelocRec where
  (at_ : Nat) (inText : Bool) (text : Bool) (off : Nat)
  deriving DecidableEq, Repr

/-- A `.lease` whose base is an offset in a section (true for `.text`) until the image is placed: kernel and lease, by place (R49, R371). -/
structure LeaseReloc where
  (kernel lease : Nat) (text : Bool)
  deriving DecidableEq, Repr

/-- An assembled image and where system software places it (R371). `tables` are the frames it gives to new page tables. -/
structure ImageRec where
  (sag base : Nat) (text data : List Byte) (textPa dataPa : Nat) (key : Nat) (relocs : List RelocRec)
  (kernels : List KernelRec) (leaseRelocs : List LeaseReloc) (tables : List Nat)
  deriving DecidableEq, Repr

/-- A node of a task graph (R372): its fields, the successor list that SUCC points at, SUCC itself, and the must-be-0 bytes. -/
structure NodeRec where
  (kern param w h cores quota : Nat) (bands : Word) (npred : Nat) (succ : List Nat) (succAt rest : Nat)
  deriving DecidableEq, Repr

/-- A task graph as it is uploaded: its handle, nodes and parameter block (R372). -/
structure GraphRec where
  (handle : Nat) (nodes : List NodeRec) (params : List Byte)
  deriving DecidableEq, Repr

/-- A launch record or trigger packet with its patch list read (R204, R373): GRAPH, PRIO, PATCH, NPATCH, the must-be-0 bytes, SIG, and whether SIG is a
host address. -/
structure LaunchRec where
  (graph prio patch npatch rest : Nat) (sig : Word) (hostSig : Bool) (patches : List (Nat × Word))
  deriving DecidableEq, Repr

/-- A configured task queue: number, spill entries and the HBM address of its spill segment (R381, R396). -/
structure QueueRec where
  (q spill seg : Nat)
  deriving DecidableEq, Repr

/-- A saggar record (R396). A partition word of 0 leaves the division to the word the compositors hold (R276). The undo region holds `undoAreas` areas,
of which each launch's speculation domain is given up to `undoEach` (R337). -/
structure SaggarRec where
  (id x0 y0 w h root grantBase grantLen : Nat) (heapb heapl heapo : Word) (ctbase ctlim : Nat)
  (part : Word) (galleyGib cellGib : Nat) (queues : List QueueRec) (spillMib schedKib : Nat)
  (dlog ptrap : Bool) (noAccess : List (Nat × Nat)) (undoVa undoPa undoAreas undoEach : Nat)
  deriving DecidableEq, Repr

/-- A firmware image (R427, R428): the LMS public key, and each stage with its signature. -/
structure FirmImage where
  (key stage1 sig1 stage2 sig2 : List Byte)
  deriving DecidableEq, Repr

/-- What a turn of the boot ROM or of stage 1 finds (R427 to R430): whether the ROM tries its sources now, the flash image and the network's, absent or not, the
parts that have become ready, the repair tables of each stack, the ROM version, the Ethernet server's address, and the key policy that the firmware
carries (R425). -/
structure BootRec where
  (rom : Bool) (flash net : Option FirmImage) (tables : List (Nat × List (Nat × Word))) (hbm : BitVec 12) (lps lpn : Bool) (dies : BitVec 4) (eth host : Bool)
  (version server : Nat) (policy : List (Nat × Nat))
  deriving DecidableEq, Repr

/-- An error that strikes the word an access reads (R417). -/
structure EccRec where
  (correctable uncorrectable : Bool)
  deriving DecidableEq, Repr

/-- Which operation a home applies next (R275): the message at place k of those in flight, or (engine)
byte write i of the job at place k of cluster cl, with the error that strikes the word, if any. -/
structure HomeSel where
  (engine : Bool) (cl k i : Nat) (ecc : EccRec)
  deriving DecidableEq, Repr

/-- A host access: a configuration request, or a write of bytes or a read, at an HBM range exposed to the host or at host memory itself (R411, R431). -/
structure HostAccess where
  (config write hdm : Bool) (addr : Nat) (bytes : List Byte) (len : Nat)
  deriving DecidableEq, Repr

/-- What a peer asks of this device's memory: a write or a read. An atomic of a peer is applied at the peer's own north port, so that it comes as a read and
a write (R292, log 138). -/
inductive FabricBody where
  | write (bytes : List Byte)
  | read (len : Nat)
  deriving DecidableEq, Repr

/-- A sequenced Itric message: port, peer, sequence number, generation, address, and what it asks (R412, R414). -/
structure FabricMsg where
  (port peer seq gen addr : Nat) (body : FabricBody)
  deriving DecidableEq, Repr

/-- Bytes that a message touches. -/
def FabricMsg.size (m : FabricMsg) : Nat := match m.body with | .write bs => bs.length | .read n => n

/-- How far a running matrix job of a core got before it is withdrawn: job id, first row not yet entered, rows caught after it (R367, R368). -/
structure WithdrawRec where
  (job row caught : Nat)
  deriving DecidableEq, Repr

/-- A page migrated before a dispatch: virtual address and new HBM frame (R393). -/
structure MigrateRec where
  (va frame : Nat)
  deriving DecidableEq, Repr

end Sys2Proof
end

