-- ==== Sys2Proof/Syntax.lean ====
section
/-! DEFINITION. The instructions and device events of spec/opcode_table.json, one constructor a row.
An encoded instruction carries the fields of its format. A device event (spec/95) carries what the outside
world or a free choice of the device supplies: which message, which core, which word. -/

namespace Sys2Proof

/-- One constructor for each row of spec/opcode_table.json. -/
inductive Instr where
  /-- R111: Writes a + b to d, modulo 2^64. -/
  | aluAdd (o : FmtA)
  /-- R111: Writes a - b to d. -/
  | aluSub (o : FmtA)
  /-- R111: Writes a & b to d. -/
  | aluAnd (o : FmtA)
  /-- R111: Writes a | b to d. -/
  | aluOr (o : FmtA)
  /-- R111: Writes a ^ b to d. -/
  | aluXor (o : FmtA)
  /-- R111: Writes a shifted left by b[5:0] to d. -/
  | aluShl (o : FmtA)
  /-- R111: Writes a shifted right logically by b[5:0] to d. -/
  | aluShr (o : FmtA)
  /-- R111: Writes a shifted right arithmetically by b[5:0] to d. -/
  | aluSar (o : FmtA)
  /-- R111: Writes 1 when a < b signed, else 0. -/
  | aluSlt (o : FmtA)
  /-- R111: Writes 1 when a < b unsigned, else 0. -/
  | aluSltu (o : FmtA)
  /-- R111: Writes the signed minimum of a and b. -/
  | aluMin (o : FmtA)
  /-- R111: Writes the signed maximum of a and b. -/
  | aluMax (o : FmtA)
  /-- R111: Writes the unsigned minimum of a and b. -/
  | aluMinu (o : FmtA)
  /-- R111: Writes the unsigned maximum of a and b. -/
  | aluMaxu (o : FmtA)
  /-- R111: Writes a & ~b to d. -/
  | aluAndn (o : FmtA)
  /-- R111: Writes a | ~b to d. -/
  | aluOrn (o : FmtA)
  /-- R112: Writes the sign-extended 32-bit sum of a and b. -/
  | aluwAddw (o : FmtA)
  /-- R112: Writes the sign-extended 32-bit difference of a and b. -/
  | aluwSubw (o : FmtA)
  /-- R112: Writes the sign-extended 32-bit left shift of a by b[4:0]. -/
  | aluwShlw (o : FmtA)
  /-- R112: Writes the sign-extended 32-bit logical right shift of a by b[4:0]. -/
  | aluwShrw (o : FmtA)
  /-- R112: Writes the sign-extended 32-bit arithmetic right shift of a by b[4:0]. -/
  | aluwSarw (o : FmtA)
  /-- R113: Long-latency low 64 bits of a × b. -/
  | mulMul (o : FmtA)
  /-- R113: Long-latency high 64 bits of the signed product. -/
  | mulMulh (o : FmtA)
  /-- R113: Long-latency high 64 bits of the unsigned product. -/
  | mulMulhu (o : FmtA)
  /-- R113: Long-latency signed quotient with defined results for zero and overflow. -/
  | mulDiv (o : FmtA)
  /-- R113: Long-latency unsigned quotient. -/
  | mulDivu (o : FmtA)
  /-- R113: Long-latency signed remainder. -/
  | mulRem (o : FmtA)
  /-- R113: Long-latency unsigned remainder. -/
  | mulRemu (o : FmtA)
  /-- R114: Counts the leading zero bits of a. -/
  | bitsClz (o : FmtUn)
  /-- R114: Counts the trailing zero bits of a. -/
  | bitsCtz (o : FmtUn)
  /-- R114: Counts the one bits of a. -/
  | bitsPopc (o : FmtUn)
  /-- R114: Reverses the bits of a. -/
  | bitsBrev (o : FmtUn)
  /-- R114: Extracts the bits of a selected by b into the low bits of d. -/
  | bitsBext (o : FmtA)
  /-- R114: Deposits the low bits of a at the positions selected by b. -/
  | bitsBdep (o : FmtA)
  /-- R114: Sign-extends a from bit b[5:0]. -/
  | bitsSext (o : FmtA)
  /-- R115: Adds the sign-extended imm11 to a. -/
  | addi (o : FmtI)
  /-- R115: ANDs a with the sign-extended imm11. -/
  | andi (o : FmtI)
  /-- R115: ORs a with the sign-extended imm11. -/
  | ori (o : FmtI)
  /-- R115: XORs a with the sign-extended imm11. -/
  | xori (o : FmtI)
  /-- R115: Shifts a left by an immediate count. -/
  | shli (o : FmtSh)
  /-- R115: Shifts a right logically by an immediate count. -/
  | shri (o : FmtSh)
  /-- R115: Shifts a right arithmetically by an immediate count. -/
  | sari (o : FmtSh)
  /-- R115: Rotates a right by an immediate count. -/
  | roti (o : FmtSh)
  /-- R115: Writes 1 when a is below the immediate, signed. -/
  | slti (o : FmtI)
  /-- R115: Writes 1 when a is below the sign-extended immediate, unsigned. -/
  | sltiu (o : FmtI)
  /-- R116: Writes the sign-extended imm18 to d. -/
  | ldi (o : FmtLi)
  /-- R116: Shifts d left by 18 and ORs in the unsigned imm18. -/
  | ldih (o : FmtLi)
  /-- R117: Builds a mesh-local address from fields in a and offset b. -/
  | addrMkloc (o : FmtA)
  /-- R117: Builds a coordinate-relative address from fields in a and offset b. -/
  | addrMkrel (o : FmtA)
  /-- R118: Returns the x coordinate named by a, or the own x. -/
  | addrGetx (o : FmtUn)
  /-- R118: Returns the y coordinate named by a, or the own y. -/
  | addrGety (o : FmtUn)
  /-- R118: Returns the core field named by a, or the own c. -/
  | addrGetc (o : FmtUn)
  /-- R118: Returns the die of the coordinates named by a, or -1. -/
  | addrGetdie (o : FmtUn)
  /-- R119: Scalar FP32 (or prefixed) addition rounded once. -/
  | sfpFaddS (o : FmtA)
  /-- R119: Scalar FP32 subtraction. -/
  | sfpFsubS (o : FmtA)
  /-- R119: Scalar FP32 multiplication. -/
  | sfpFmulS (o : FmtA)
  /-- R119: Long-latency scalar FP32 division. -/
  | sfpFdivS (o : FmtA)
  /-- R119: Long-latency scalar FP32 square root. -/
  | sfpFsqrtS (o : FmtUn)
  /-- R119: Scalar FP32 minimum by R84. -/
  | sfpFminS (o : FmtA)
  /-- R119: Scalar FP32 maximum by R84. -/
  | sfpFmaxS (o : FmtA)
  /-- R119: Scalar FP64 addition. -/
  | sfpFaddD (o : FmtA)
  /-- R119: Scalar FP64 subtraction. -/
  | sfpFsubD (o : FmtA)
  /-- R119: Scalar FP64 multiplication. -/
  | sfpFmulD (o : FmtA)
  /-- R119: Long-latency scalar FP64 division. -/
  | sfpFdivD (o : FmtA)
  /-- R119: Long-latency scalar FP64 square root. -/
  | sfpFsqrtD (o : FmtUn)
  /-- R119: Scalar FP64 minimum. -/
  | sfpFminD (o : FmtA)
  /-- R119: Scalar FP64 maximum. -/
  | sfpFmaxD (o : FmtA)
  /-- R121: Fused a × b + d in FP32, rounded once. -/
  | sfmaFmaS (o : FmtA)
  /-- R121: Fused a × b - d in FP32, rounded once. -/
  | sfmaFmsS (o : FmtA)
  /-- R121: Fused a × b + d in FP64. -/
  | sfmaFmaD (o : FmtA)
  /-- R121: Fused a × b - d in FP64. -/
  | sfmaFmsD (o : FmtA)
  /-- R122: Converts FP32 to FP64 exactly. -/
  | scvtDS (o : FmtUn)
  /-- R122: Converts FP64 to FP32 with one rounding. -/
  | scvtSD (o : FmtUn)
  /-- R122: Converts signed 64-bit integer to FP32. -/
  | scvtSL (o : FmtUn)
  /-- R122: Converts signed 64-bit integer to FP64. -/
  | scvtDL (o : FmtUn)
  /-- R122: Converts FP32 to signed 64-bit integer, saturating. -/
  | scvtLS (o : FmtUn)
  /-- R122: Converts FP64 to signed 64-bit integer, saturating. -/
  | scvtLD (o : FmtUn)
  /-- R122: Converts unsigned 64-bit integer to FP32. -/
  | scvtSLu (o : FmtUn)
  /-- R122: Converts unsigned 64-bit integer to FP64. -/
  | scvtDLu (o : FmtUn)
  /-- R122: Converts FP32 to unsigned 64-bit integer, saturating. -/
  | scvtLuS (o : FmtUn)
  /-- R122: Converts FP64 to unsigned 64-bit integer, saturating. -/
  | scvtLuD (o : FmtUn)
  /-- R122: Converts FP32 to BF16. -/
  | scvtBfS (o : FmtUn)
  /-- R122: Converts BF16 to FP32 exactly. -/
  | scvtSBf (o : FmtUn)
  /-- R122: Converts FP32 to FP16. -/
  | scvtHS (o : FmtUn)
  /-- R122: Converts FP16 to FP32 exactly. -/
  | scvtSH (o : FmtUn)
  /-- R123: FP32 equality compare into d. -/
  | scmpFeqS (o : FmtA)
  /-- R123: FP32 less-than compare into d. -/
  | scmpFltS (o : FmtA)
  /-- R123: FP32 less-or-equal compare into d. -/
  | scmpFleS (o : FmtA)
  /-- R123: FP32 unordered test into d. -/
  | scmpFunordS (o : FmtA)
  /-- R123: FP64 equality compare into d. -/
  | scmpFeqD (o : FmtA)
  /-- R123: FP64 less-than compare into d. -/
  | scmpFltD (o : FmtA)
  /-- R123: FP64 less-or-equal compare into d. -/
  | scmpFleD (o : FmtA)
  /-- R123: FP64 unordered test into d. -/
  | scmpFunordD (o : FmtA)
  /-- R125: Reads a system register into d. -/
  | mfs (o : FmtMfs)
  /-- R125: Writes a to a system register after the write-class check. -/
  | mts (o : FmtMts)
  /-- R128: Branches when a = b. -/
  | brEq (o : FmtB)
  /-- R128: Branches when a ≠ b. -/
  | brNe (o : FmtB)
  /-- R128: Branches when a < b signed. -/
  | brLt (o : FmtB)
  /-- R128: Branches when a ≥ b signed. -/
  | brGe (o : FmtB)
  /-- R128: Branches when a < b unsigned. -/
  | brLtu (o : FmtB)
  /-- R128: Branches when a ≥ b unsigned. -/
  | brGeu (o : FmtB)
  /-- R128: Branches when a = 0. -/
  | bzEq0 (o : FmtZ)
  /-- R128: Branches when a ≠ 0. -/
  | bzNe0 (o : FmtZ)
  /-- R128: Branches when a < 0. -/
  | bzLt0 (o : FmtZ)
  /-- R128: Branches when a ≥ 0. -/
  | bzGe0 (o : FmtZ)
  /-- R128: Branches when a > 0. -/
  | bzGt0 (o : FmtZ)
  /-- R128: Branches when a ≤ 0. -/
  | bzLe0 (o : FmtZ)
  /-- R129: Jumps by disp24 halfwords. -/
  | jmp (o : FmtJ)
  /-- R129: Writes lk ← pc + 4 and jumps by disp24. -/
  | call (o : FmtJ)
  /-- R130: Jumps to the address in a. -/
  | jr (o : FmtSrc)
  /-- R130: Writes lk and jumps to the address in a. -/
  | callr (o : FmtSrc)
  /-- R130: Jumps to lk. -/
  | ret
  /-- R131: Takes a hardware loop level with count a, or skips the body when a = 0. -/
  | loop (o : FmtLoop)
  /-- R134: Reads a nest descriptor and claims a chunk of iterations from the shared counter. -/
  | iloop (o : FmtLoop)
  /-- R134: A claim's reply arrives at the strand, loading the level and unpacking the index or freeing the level. -/
  | iloopClaimReply (r : StrandRef)
  /-- R136: Fills the prefix latch FMT and sets ST.PP. -/
  | pfx (o : FmtP)
  /-- R137: Starts a helper strand in the lowest free slot at pc a with argument b. -/
  | strandStart (o : FmtA)
  /-- R138: Releases the lane claim, frees the slot and discards loop state. -/
  | strandHalt
  /-- R139: Writes the own slot and live-slot bitmap to d. -/
  | strandSlot (o : FmtDst)
  /-- R139: Binds a queue to writer and reader slots and discards its entries. -/
  | strandQbind (o : FmtTwo)
  /-- R140: Raises SOFTWARE_TRAP with a 9-bit code. -/
  | trap (o : FmtTrap)
  /-- R140: Raises BREAKPOINT, or stops the core when breakpoint halting is enabled. -/
  | brk (o : FmtTrap)
  /-- R140: Raises SYSTEM_CALL with a 9-bit code. -/
  | sysc (o : FmtTrap)
  /-- R141: Clears ST.TRAP and returns to EPC. -/
  | eret
  /-- R142: Invalidates the saggar's translations of a range and waits for completion. -/
  | sysopTlbinv (o : FmtTwo)
  /-- R142: Stops a named core as a debug stop. -/
  | sysopStopcore (o : FmtUn)
  /-- R142: Resumes a stopped core. -/
  | sysopResumecore (o : FmtUn)
  /-- R435: Schedules the chip-wide sampling pulse and returns its TIME. -/
  | sysopSample (o : FmtDst)
  /-- R408: Writes the dump record of a stopped core to memory. -/
  | sysopDump (o : FmtA)
  /-- R179: Sign-extending load at base + off6 × size with the sc ordering. -/
  | ld (o : FmtM)
  /-- R179: Zero-extending load. -/
  | ldu (o : FmtM)
  /-- R179: Store of d's low bytes with the sc ordering. -/
  | st (o : FmtM)
  /-- R181: Relaxed load as if in the context tag b. -/
  | ldx (o : FmtLdx)
  /-- R184: Waits until the word is full and reads it. -/
  | ldfeLeave (o : FmtFe)
  /-- R184: Waits until the word is full, reads it and empties it. -/
  | ldfeTake (o : FmtFe)
  /-- R184: Reads the full and poison bits without waiting. -/
  | ldfeState (o : FmtFe)
  /-- R184: Waits until the word is empty, writes it and fills it. -/
  | stfeFill (o : FmtFe)
  /-- R184: Writes the word and sets it full. -/
  | stfeForce (o : FmtFe)
  /-- R184: Sets the word empty, leaving its data. -/
  | stfeEmpty (o : FmtFe)
  /-- R185: A full/empty operation arrives at its home and is served, listed or returned for retry, then the list settles. -/
  | feOpAtHome (k : Nat)
  /-- R185: A retried full/empty or signal waiter is re-sent after its backoff expires. -/
  | waiterRetryBackoff (k : Nat)
  /-- R186: Atomic swap returning the old dword. -/
  | amoSwap (o : FmtAmo)
  /-- R186: Atomic compare-and-swap with d as compare value. -/
  | amoCas (o : FmtAmo)
  /-- R186: Atomic add returning the old value. -/
  | amoAdd (o : FmtAmo)
  /-- R186: Atomic AND returning the old value. -/
  | amoAnd (o : FmtAmo)
  /-- R186: Atomic OR returning the old value. -/
  | amoOr (o : FmtAmo)
  /-- R186: Atomic XOR returning the old value. -/
  | amoXor (o : FmtAmo)
  /-- R186: Atomic signed maximum returning the old value. -/
  | amoMax (o : FmtAmo)
  /-- R186: Atomic signed minimum returning the old value. -/
  | amoMin (o : FmtAmo)
  /-- R186: Atomic unsigned maximum. -/
  | amo2Maxu (o : FmtAmo)
  /-- R186: Atomic unsigned minimum. -/
  | amo2Minu (o : FmtAmo)
  /-- R186: Atomic FP32 add rounded RNE at the home. -/
  | amo2FaddS (o : FmtAmo)
  /-- R186: Atomic BF16 add at the home. -/
  | amo2FaddBf (o : FmtAmo)
  /-- R189: Non-returning atomic add counted in PEND. -/
  | redAdd (o : FmtRed)
  /-- R189: Non-returning atomic AND. -/
  | redAnd (o : FmtRed)
  /-- R189: Non-returning atomic OR. -/
  | redOr (o : FmtRed)
  /-- R189: Non-returning atomic XOR. -/
  | redXor (o : FmtRed)
  /-- R189: Non-returning atomic signed maximum. -/
  | redMax (o : FmtRed)
  /-- R189: Non-returning atomic signed minimum. -/
  | redMin (o : FmtRed)
  /-- R189: Non-returning FP32 add at the home. -/
  | redFaddS (o : FmtRed)
  /-- R189: Non-returning BF16 add at the home. -/
  | redFaddBf (o : FmtRed)
  /-- R191: Holds later accesses until earlier loads have their values. -/
  | fenceAcq (o : FmtFence)
  /-- R191: Holds later stores until earlier accesses are performed at scope and the replay queue is empty. -/
  | fenceRel (o : FmtFence)
  /-- R191: Both fence conditions; at system scope also drains the die's pending-write buffer. -/
  | fenceFull (o : FmtFence)
  /-- R191: Holds later instructions until PEND = 0. -/
  | fenceWred
  /-- R191: Holds later instructions until the replay queue is empty. -/
  | fenceWrep
  /-- R180: Acquire load at address a + b. -/
  | lda (o : FmtLda)
  /-- R180: Release store at address a + b. -/
  | stl (o : FmtStl)
  /-- R182: Loads a bit field of 1–64 bits at a bit address. -/
  | ldb (o : FmtLdb)
  /-- R182: Stores a bit field with masked word writes. -/
  | stb (o : FmtStb)
  /-- R183: Asks the home channel to read an atom into its buffer. -/
  | pref (o : FmtPref)
  /-- R193: Sends a dword to a mailbox in a traffic class. -/
  | send (o : FmtSend)
  /-- R194: Takes the oldest message of an own mailbox, parking while empty. -/
  | recv (o : FmtUn)
  /-- R194: Returns the message counts of the four mailboxes. -/
  | rprobe (o : FmtDst)
  /-- R195: Writes a dword to a mesh address then increments a counter. -/
  | put (o : FmtPut)
  /-- R196: Multicasts a dword and counter increment to a window of clusters. -/
  | mput (o : FmtPut)
  /-- R193: A message reaches its target mailbox, or waits under backpressure. -/
  | messageArrival (k : Nat)
  /-- R195: A put's data and then its counter increment are performed at the destination. -/
  | putDelivery (k : Nat)
  /-- R196: The multicast packet writes data and counter at one cluster in snake order. -/
  | mputVisit (k : Nat)
  /-- R198: Arms a barrier with count N and wakes waiters with 1. -/
  | barInit (o : FmtTwo)
  /-- R198: Counts an arrival and returns the phase. -/
  | barArrive (o : FmtUn)
  /-- R198: Waits for a phase to pass. -/
  | barWait (o : FmtA)
  /-- R198: Arrives and waits on the returned phase. -/
  | barArrwait (o : FmtUn)
  /-- R198: Invalidates a barrier and wakes waiters with 1. -/
  | barInval (o : FmtSrc)
  /-- R198: Returns a snapshot of a barrier's state. -/
  | barQuery (o : FmtUn)
  /-- R266: A bar operation from another core arrives at the barrier unit and is applied. -/
  | remoteBarOp (k : Nat)
  /-- R199: Waits until any masked copy tag is ready. -/
  | tagwWaitany (o : FmtUn)
  /-- R199: Waits until all masked copy tags are ready. -/
  | tagwWaitall (o : FmtUn)
  /-- R199: Returns the lowest ready masked tag. -/
  | tagwFfr (o : FmtUn)
  /-- R199: Clears ready bits of idle masked tags. -/
  | tagwClr (o : FmtSrc)
  /-- R200: Asks a target core to start a helper strand from a record. -/
  | spawn (o : FmtA)
  /-- R200: A spawn arrives at its target, takes a free slot or bounces, and answers. -/
  | spawnRequest (k : Nat)
  /-- R201: Appends a 32-byte entry to a task queue and returns a status. -/
  | qpush (o : FmtA)
  /-- R202: Takes the oldest queue entry, parking while empty. -/
  | qpop (o : FmtUn)
  /-- R202: Takes the oldest queue entry or returns zeros. -/
  | qpopNb (o : FmtUn)
  /-- R203: Takes entries with one pc into lane groups, parking while empty. -/
  | qpopv (o : FmtA)
  /-- R203: Takes same-pc entries into lane groups, or returns empty. -/
  | qpopvNb (o : FmtA)
  /-- R381: The queue home moves the spill head into the ring. -/
  | queueRefill (sag q : Nat)
  /-- R204: Places a task-graph instance into the pending-launch pool. -/
  | launch (o : FmtUn)
  /-- R206: Adds b to a completion signal as a release. -/
  | signal (o : FmtTwo)
  /-- R207: Waits until a completion signal reaches a bound. -/
  | swait (o : FmtA)
  /-- R153: Lane FP addition. -/
  | vfAdd (o : FmtV)
  /-- R153: Lane FP subtraction. -/
  | vfSub (o : FmtV)
  /-- R153: Lane FP multiplication. -/
  | vfMul (o : FmtV)
  /-- R153: Lane FP division. -/
  | vfDiv (o : FmtV)
  /-- R153: Lane FP minimum. -/
  | vfMin (o : FmtV)
  /-- R153: Lane FP maximum. -/
  | vfMax (o : FmtV)
  /-- R153: Lane FP absolute value. -/
  | vfAbs (o : FmtVUn)
  /-- R153: Lane FP negation. -/
  | vfNeg (o : FmtVUn)
  /-- R153: Lane |a| with the sign of b. -/
  | vfCopysign (o : FmtV)
  /-- R154: Lane fused a × b + d. -/
  | vfmaFma (o : FmtV)
  /-- R154: Lane fused a × b - d. -/
  | vfmaFms (o : FmtV)
  /-- R154: Lane fused -(a × b) + d. -/
  | vfmaFnma (o : FmtV)
  /-- R154: Lane fused -(a × b) - d. -/
  | vfmaFnms (o : FmtV)
  /-- R156: Lane round to integer, nearest even. -/
  | vfxFrintN (o : FmtVUn)
  /-- R156: Lane round to integer toward zero. -/
  | vfxFrintZ (o : FmtVUn)
  /-- R156: Lane round to integer upward. -/
  | vfxFrintU (o : FmtVUn)
  /-- R156: Lane round to integer downward. -/
  | vfxFrintD (o : FmtVUn)
  /-- R157: Lane 2^x for x in [-1, 1], correctly rounded. -/
  | vfxFexpf (o : FmtVUn)
  /-- R158: Lane a × 2^b with one rounding. -/
  | vfxFscale (o : FmtV)
  /-- R156: Lane exponent of x as a value. -/
  | vfxFgetexp (o : FmtVUn)
  /-- R156: Lane mantissa of x in [1, 2). -/
  | vfxFgetman (o : FmtVUn)
  /-- R156: Lane correctly rounded reciprocal. -/
  | vfxFrcp (o : FmtVUn)
  /-- R156: Lane correctly rounded reciprocal square root. -/
  | vfxFrsq (o : FmtVUn)
  /-- R156: Lane class bit of x. -/
  | vfxFclass (o : FmtVUn)
  /-- R156: Lane square root. -/
  | vfxFsqrt (o : FmtVUn)
  /-- R159: Lane 32-bit add. -/
  | viAdd (o : FmtV)
  /-- R159: Lane 32-bit subtract. -/
  | viSub (o : FmtV)
  /-- R159: Lane 32-bit multiply low. -/
  | viMul (o : FmtV)
  /-- R159: Lane 32-bit signed multiply high. -/
  | viMulh (o : FmtV)
  /-- R159: Lane signed minimum. -/
  | viMin (o : FmtV)
  /-- R159: Lane signed maximum. -/
  | viMax (o : FmtV)
  /-- R159: Lane unsigned minimum. -/
  | viMinu (o : FmtV)
  /-- R159: Lane unsigned maximum. -/
  | viMaxu (o : FmtV)
  /-- R159: Lane bitwise AND. -/
  | viAnd (o : FmtV)
  /-- R159: Lane bitwise OR. -/
  | viOr (o : FmtV)
  /-- R159: Lane bitwise XOR. -/
  | viXor (o : FmtV)
  /-- R159: Lane shift left. -/
  | viShl (o : FmtV)
  /-- R159: Lane logical shift right. -/
  | viShr (o : FmtV)
  /-- R159: Lane arithmetic shift right. -/
  | viSar (o : FmtV)
  /-- R159: Lane a & ~b. -/
  | viAndn (o : FmtV)
  /-- R160: Lane FP equal into a mask. -/
  | vcmpFeq (o : FmtV)
  /-- R160: Lane FP not-equal into a mask. -/
  | vcmpFne (o : FmtV)
  /-- R160: Lane FP less-than into a mask. -/
  | vcmpFlt (o : FmtV)
  /-- R160: Lane FP less-or-equal into a mask. -/
  | vcmpFle (o : FmtV)
  /-- R160: Lane FP unordered into a mask. -/
  | vcmpFunord (o : FmtV)
  /-- R160: Lane integer equal into a mask. -/
  | vcmpIeq (o : FmtV)
  /-- R160: Lane integer not-equal into a mask. -/
  | vcmpIne (o : FmtV)
  /-- R160: Lane signed less-than into a mask. -/
  | vcmpIlt (o : FmtV)
  /-- R160: Lane signed less-or-equal into a mask. -/
  | vcmpIle (o : FmtV)
  /-- R160: Lane unsigned less-than into a mask. -/
  | vcmpIltu (o : FmtV)
  /-- R161: Selects a or b per lane by m0. -/
  | vmskSel (o : FmtVV)
  /-- R161: ANDs two masks. -/
  | vmskMand (o : FmtVV)
  /-- R161: ORs two masks. -/
  | vmskMor (o : FmtVV)
  /-- R161: XORs two masks. -/
  | vmskMxor (o : FmtVV)
  /-- R161: Inverts a mask below vl. -/
  | vmskMnot (o : FmtVA)
  /-- R161: Counts the set bits of a mask into a scalar. -/
  | vmskMpop (o : FmtVA)
  /-- R161: Returns the lowest set lane of a mask. -/
  | vmskMfirst (o : FmtVA)
  /-- R161: Sets mask bits below a scalar count. -/
  | vmskMset (o : FmtVA)
  /-- R162: Converts each lane between the named formats. -/
  | vcvt (o : FmtCvt)
  /-- R163: Broadcasts lane s of a. -/
  | vpermBcast (o : FmtVV)
  /-- R163: Shifts lanes up by s. -/
  | vpermShup (o : FmtVV)
  /-- R163: Shifts lanes down by s. -/
  | vpermShdn (o : FmtVV)
  /-- R163: Permutes lanes by an index vector. -/
  | vpermPerm (o : FmtVV)
  /-- R163: Compresses m0-selected lanes. -/
  | vpermComp (o : FmtVA)
  /-- R163: Expands lanes into m0-selected positions. -/
  | vpermExpd (o : FmtVA)
  /-- R163: Reverses the lanes below vl. -/
  | vpermRev (o : FmtVB)
  /-- R165: Pairwise-tree FP sum of lanes into a scalar. -/
  | vredFsum (o : FmtVRed)
  /-- R165: Tree FP maximum of lanes. -/
  | vredFmax (o : FmtVRed)
  /-- R165: Tree FP minimum of lanes. -/
  | vredFmin (o : FmtVRed)
  /-- R165: Tree integer sum of lanes. -/
  | vredIsum (o : FmtVRed)
  /-- R165: Tree signed maximum of lanes. -/
  | vredImax (o : FmtVRed)
  /-- R165: Tree signed minimum of lanes. -/
  | vredImin (o : FmtVRed)
  /-- R166: FP sum of n queue entries in pop order, resumable via ISTATE. -/
  | vredFsumQ (o : FmtVV)
  /-- R166: FP maximum of n queue entries. -/
  | vredFmaxQ (o : FmtVV)
  /-- R166: FP minimum of n queue entries. -/
  | vredFminQ (o : FmtVV)
  /-- R166: Integer sum of n queue entries. -/
  | vredIsumQ (o : FmtVV)
  /-- R166: Signed maximum of n queue entries. -/
  | vredImaxQ (o : FmtVV)
  /-- R166: Signed minimum of n queue entries. -/
  | vredIminQ (o : FmtVV)
  /-- R164: Copies one lane to a scalar. -/
  | vmovVtos (o : FmtVV)
  /-- R164: Copies a scalar into one lane. -/
  | vmovStov (o : FmtVV)
  /-- R164: Copies a vector register. -/
  | vmovVmv (o : FmtVB)
  /-- R149: Claims, grows or shrinks the strand's lane groups. -/
  | laneClaim (o : FmtVA)
  /-- R150: Returns all lane groups to the pool. -/
  | laneRel
  /-- R150: Re-negotiation point where a pending shrink takes effect. -/
  | laneSync
  /-- R150: Returns claim and pool status. -/
  | laneQuery (o : FmtDst)
  /-- R261: A freed group is granted to the head of the pool's waiter list. -/
  | laneGrant (cl : Nat)
  /-- R151: A pending shrink returns groups while the holder is parked at a re-negotiation point. -/
  | shrinkTakesEffect (r : StrandRef)
  /-- R168: Contiguous lane load. -/
  | vld (o : FmtVM)
  /-- R168: Contiguous lane store. -/
  | vst (o : FmtVM)
  /-- R169: Strided lane load of words. -/
  | vlds (o : FmtV)
  /-- R169: Strided lane store of words. -/
  | vsts (o : FmtV)
  /-- R169: Indexed lane gather of words. -/
  | vgat (o : FmtV)
  /-- R169: Indexed lane scatter of words. -/
  | vsca (o : FmtV)
  /-- R170: Loads packed elements of 1–16 bits at a bit address. -/
  | vldb (o : FmtVBit)
  /-- R170: Stores packed elements of 1–16 bits at a bit address. -/
  | vstb (o : FmtVBit)
  /-- R155: 16-bit form of vf.add. -/
  | vaddF32 (o : FmtN)
  /-- R155: 16-bit form of vf.sub. -/
  | vsubF32 (o : FmtN)
  /-- R155: 16-bit form of vf.mul. -/
  | vmulF32 (o : FmtN)
  /-- R155: 16-bit form of vf.max. -/
  | vmaxF32 (o : FmtN)
  /-- R155: 16-bit form of vf.min. -/
  | vminF32 (o : FmtN)
  /-- R155: 16-bit form of vi.add. -/
  | vaddI32 (o : FmtN)
  /-- R155: 16-bit form of vi.sub. -/
  | vsubI32 (o : FmtN)
  /-- R155: 16-bit form of vi.and. -/
  | vand (o : FmtN)
  /-- R155: 16-bit form of vi.or. -/
  | vor (o : FmtN)
  /-- R155: 16-bit form of vi.xor. -/
  | vxor (o : FmtN)
  /-- R155: 16-bit form of vi.shl. -/
  | vshlI32 (o : FmtN)
  /-- R155: 16-bit form of vi.shr. -/
  | vshrI32 (o : FmtN)
  /-- R155: 16-bit vector move, masked copies only m0 lanes. -/
  | vmv (o : FmtN)
  /-- R155: 16-bit form of vf.abs. -/
  | vabsF32 (o : FmtN)
  /-- R155: 16-bit form of vf.neg. -/
  | vnegF32 (o : FmtN)
  /-- R155: 16-bit form of vi.mul. -/
  | vmulI32 (o : FmtN)
  /-- R216: Places a copy job for a descriptor. -/
  | copy (o : FmtCopy)
  /-- R217: Places a copy job with a reserved follow-on mmrun. -/
  | copyFo (o : FmtCopy)
  /-- R223: Places a job loading weights into band shadow planes. -/
  | mmld (o : FmtA)
  /-- R223: Places a job swapping shadow and active planes of masked bands. -/
  | mmsw (o : FmtA)
  /-- R224: Places a matrix run job debiting the energy budget. -/
  | mmrun (o : FmtRun)
  /-- R225: Places a job converting and storing accumulator rows. -/
  | mmst (o : FmtA)
  /-- R215: Returns a job's status without waiting. -/
  | jwaitPoll (o : FmtUn)
  /-- R215: Waits until a job is not pending. -/
  | jwaitSleep (o : FmtUn)
  /-- R215: Waits until some job of an id range is not pending. -/
  | jwaitAny (o : FmtA)
  /-- R218: Places a gather job. -/
  | gath (o : FmtA)
  /-- R219: Places a collective job joining a round. -/
  | coll (o : FmtA)
  /-- R211: A waiting engine instruction's job is placed once queue entry, quoin entries and budget are available. -/
  | enginePlacement (r : StrandRef)
  /-- R212: An engine starts a placed job once the jobs it waits for complete. -/
  | jobStart (cl k : Nat)
  /-- R213: A job's writes are performed, ranges released, tag count lowered and status recorded. -/
  | jobCompletion (cl k : Nat)
  /-- R217: The follow-on mmrun is placed after the copy's last byte is performed. -/
  | followonPlacement (cl k : Nat)
  /-- R219: The last participant's job closes the round and results are written. -/
  | collRoundClose (sag grp : Nat)
  /-- R363: Every microsecond of TIME each core adds RATE to its energy balance. -/
  | ebudRefill
  /-- R226: Asks the Galley home for a key's entry and waits for the status. -/
  | tcall (o : FmtUn)
  /-- R229: Adds an answer to an evaluating entry. -/
  | tans (o : FmtA)
  /-- R230: Ends a producer body and decrements its group count. -/
  | tret (o : FmtSrc)
  /-- R232: Reads one answer of a complete pinned entry. -/
  | tnextNext (o : FmtA)
  /-- R232: Removes one pin from an entry. -/
  | tnextClose (o : FmtSrc)
  /-- R232: Waits until an entry is complete or failed. -/
  | twait (o : FmtUn)
  /-- R231: Ends a continuation invocation and frees its slot. -/
  | tend
  /-- R232: Abolishes a table space, evicting its entries. -/
  | tabol (o : FmtUn)
  /-- R232: Returns an entry's state or a saggar Galley counter. -/
  | tstat (o : FmtA)
  /-- R307: A tabled-call request arrives at its home and moves the entry's state. -/
  | galleyHomeRequest (k blk ser : Nat)
  /-- R228: A queued continuation invocation starts in a helper slot. -/
  | continuationInvocation (sag k core : Nat)
  /-- R310: A group activity increment or decrement arrives at the Cone. -/
  | coneCountUpdate (k : Nat)
  /-- R311: Two group roots are locked and joined at the Cones. -/
  | groupMerge (k : Nat)
  /-- R312: A home makes the group's entries complete and wakes twait waiters. -/
  | completionNotice (k : Nat)
  /-- R315: A root and its groups become failed at their Cone. -/
  | groupFailure (k : Nat)
  /-- R315: A home fails the group's entries, invokes error continuations and wakes waiters. -/
  | failureNotice (k : Nat)
  /-- R307: An uncorrectable soft error fails or evicts a Galley entry. -/
  | galleySoftError (sag k : Nat) (record : Bool)
  /-- R233: Allocates a context tag, parking while none is free. -/
  | ctalloc (o : FmtA)
  /-- R233: Allocates a context tag or returns 0. -/
  | ctallocNb (o : FmtA)
  /-- R233: Sets CTX. -/
  | ctenter (o : FmtSrc)
  /-- R233: Retires a context for commit, writing phase-0 cells into the parent. -/
  | ctretireCommit (o : FmtSrc)
  /-- R233: Frees a context and drops its cells. -/
  | ctretireDiscard (o : FmtSrc)
  /-- R334: Commits retired siblings of a parent and phase in index order. -/
  | ctphase (o : FmtA)
  /-- R235: Returns a context record or a saggar context counter. -/
  | ctq (o : FmtA)
  /-- R327: A freed tag goes to the head of the allocator's waiter list. -/
  | tagGrant (sag : Nat)
  /-- R236: Queues an ordered speculative task. -/
  | sspawnOrdered (o : FmtA)
  /-- R236: Queues an unordered speculative task. -/
  | sspawnUnordered (o : FmtA)
  /-- R237: Checks abstract locks, takes a lock and pushes an undo record. -/
  | bop (o : FmtTwo)
  /-- R238: Restores the strand's accesses to CTX. -/
  | bopend
  /-- R238: Ends the task body and halts the strand. -/
  | sdone
  /-- R240: Aborts or cancels the issuing speculative task. -/
  | sabort (o : FmtSrc)
  /-- R239: Ends an inverse routine as a release. -/
  | uend
  /-- R241: Loads the saggar's commutativity table from an image. -/
  | cload (o : FmtSrc)
  /-- R236: A queued speculative task is dispatched into a fresh context. -/
  | specTaskDispatch (sag inst seq core : Nat)
  /-- R349: A done task commits its cells, releases locks and frees its tag. -/
  | specTaskCommit (sag inst seq : Nat)
  /-- R345: The abort unit stops, settles and discards a task, then requeues it. -/
  | specAbort (sag inst seq : Nat)
  /-- R345: A helper runs the next undo record's inverse routine. -/
  | undoReplay (sag inst seq core : Nat)
  /-- R252: A parked strand becomes eligible and continues its parked instruction. -/
  | strandWake (r : StrandRef)
  /-- R110: A long-latency or lane scalar result is written and sets the full bit. -/
  | longLatencyResult (r : StrandRef) (k : Nat)
  /-- R176: Load data returns and fills its destination. -/
  | loadDataReturn (r : StrandRef) (k : Nat)
  /-- R189: A returning operation's reply arrives and its destination is written. -/
  | homeReply (k : Nat)
  /-- R190: A reduction, put, signal or z-destination tans is applied and PEND falls. -/
  | nonreturningUpdateApplied (k : Nat)
  /-- R275: An access or atomic arrives at its home and is applied in arrival order. -/
  | homeAccess (h : HomeSel)
  /-- R175: A parked replay entry retries once its condition clears. -/
  | replayRetry (core k : Nat)
  /-- R292: A fabric port drains the oldest write of a die's pending-write buffer to the target. -/
  | pendingWriteDrain (die : Nat)
  /-- R427: Device reset clears state and starts the boot ROM. -/
  | deviceReset
  /-- R428: Verified stage 1 trains memory and loads the repair tables. -/
  | bootStage1 (b : BootRec)
  /-- R428: Verified stage 2 writes defaults and starts the scheduler. -/
  | bootStage2 (kr : List Nat) (reporting : BitVec 8)
  /-- R428: A compositor that does not report within 100 ms stays in reset. -/
  | compositorReportTimeout (c : Nat)
  /-- R371: System software loads an image and resolves its relocations. -/
  | imageLoad (b : ImageRec)
  /-- R372: A task graph is checked and uploaded into scheduler memory. -/
  | graphUpload (sag : Nat) (g : GraphRec)
  /-- R372: An uploaded graph is freed once no instance remains. -/
  | graphFree (sag h : Nat)
  /-- R373: A host write of the trigger register starts an instance. -/
  | trigger (sag : Nat) (p : LaunchRec)
  /-- R374: An instance leaves the pool with its patched parameter copy. -/
  | instanceLeavesPool (sag : Nat)
  /-- R393: The scheduler makes a task's lease pages resident before dispatch. -/
  | leaseResidency (sag : Nat) (m : List MigrateRec)
  /-- R377: The head task is placed on a rectangle and its strands seeded. -/
  | taskDispatch (sag : Nat)
  /-- R379: A task completes and its outgoing edges fire. -/
  | taskCompletion (sag task : Nat)
  /-- R380: An ended instance adds its status to SIG and frees its parameter copy. -/
  | instanceEnd (sag inst : Nat)
  /-- R394: The compositors move a page inside a live lease. -/
  | pageMove (comp sag va part frame : Nat)
  /-- R396: The compositors form a saggar from a record. -/
  | saggarForm (b : SaggarRec)
  /-- R398: A saggar is dissolved and its state reset. -/
  | saggarDissolve (sag : Nat)
  /-- R397: A router drops a message of a foreign tenant and the issuing saggar is stopped. -/
  | tenantDrop (k : Nat)
  /-- R406: The compositors pre-empt a core and save its state. -/
  | preemptSave (core : Nat) (ws : List WithdrawRec)
  /-- R407: A saved core's bands, claims, replay entries and strands are restored. -/
  | preemptResume (core : Nat)
  /-- R433: Writing DCTL.REQ = 1 stops the core's strands. -/
  | debugStop (core : Nat)
  /-- R432: Writing DCTL.REQ = 0 resumes the core, or issues one step. -/
  | debugResume (core : Nat)
  /-- R435: At the pulse TIME every core latches pc and state and a record is written. -/
  | samplePulse
  /-- R411: A host CXL.mem or PCIe access is performed at the device's homes. -/
  | hostPortAccess (h : HostAccess)
  /-- R412: A port receives a sequenced Itric message, performing, holding or dropping it. -/
  | fabricMessageReceive (m : FabricMsg)
  /-- R412: An acknowledgement from a peer port arrives: bits [31:0] of `seq` hold the number it answers, bit 32 is set for an error completion (R414). -/
  | fabricAck (port peer seq : Nat)
  /-- R413: A link fails and unacknowledged messages are re-sent or completed with error. -/
  | linkFailure (link : Nat)
  /-- R430: An Itric link comes up and its BRINGUP bit is set. -/
  | linkUp (link port peer : Nat)
  /-- R414: The compositors retire a peer channel and advance its generation. -/
  | peerChannelRetire (comp sag port peer : Nat) (pages : List Nat)
  /-- R415: Each microsecond a core's NI gains one class-3 credit up to 4. -/
  | class3CreditRefill
  /-- R419: A pseudo-channel reloads its repair table from the shadow after an uncorrectable error. -/
  | repairTableReload (stack pch : Nat) (shadow : Bool)
  /-- R425: A verifier delivers an encryption key over a secured SPDM session. -/
  | keyLoad (id : Nat) (key : BitVec 512)
  /-- R429: The responder reports signed measurement blocks. -/
  | spdmMeasurement
  /-- R440: A write of the die clock word starts a relock and rescales CYC. -/
  | frequencyStep (die mult : Nat)
  /-- R440: 1,500 ns after the step the clock resumes and CYC catches up. -/
  | relockEnd (die : Nat)
  /-- R442: A core or die enters the deepest allowed idle state. -/
  | powerStateEntry (unit : Nat) (isCore : Bool)
  /-- R442: A waking event brings a unit back to running. -/
  | powerStateExit (unit : Nat) (isCore : Bool)
  /-- R276: The compositors write the slice partition word, refused if limits break. -/
  | partitionWordWrite (sag : Nat) (w : Word)
  /-- R364: The compositors write the energy class word for later debits. -/
  | energyClassWrite (sag : Nat) (w : Word)
  /-- R6: A write to a register with no row of its own, per its access codes. -/
  | registerWrite (reg unit : Nat) (w : Word)
  /-- R79: A strand issues the halfword 0x0000, a reserved major, form or sub-field code, or a non-zero must-be-zero field, and ILLEGAL_INSTRUCTION is raised. -/
  | nonInstruction (w : Word)
  /-- R403: An instruction fetch, of the first or second halfword, faults and is reported as PERMISSION or BAD_ADDRESS against the fetch address. -/
  | fetchFault (bad : Bool) (addr : Word)
  /-- R177: The acknowledgement of a plain store, lane store, stb or stfe reaches its core, which frees a one-word request slot and lets waiting fences and releases go on. -/
  | storeAcknowledgement (k : Nat)
  /-- R310: The Cone's acknowledgement of an activity increment reaches the home or strand that sent it, which may then queue the invocation or send a held decrement. -/
  | coneAcknowledgement (k : Nat)
  /-- R388: On a dirty-log fault the compositors record the page, set D and wake the replay queue. -/
  | dirtyLogService (comp sag va : Nat)
  /-- R395: The compositors edit a page-table entry, for example mapping a page for a waiting dispatch or upgrading W, invalidate and log the edit. -/
  | pageTableEdit (comp sag : Nat) (p : PageRec)
  deriving DecidableEq, Repr

end Sys2Proof
end

