-- ==== Sys2Proof/WellFormed.lean ====
section
/-! DEFINITION. Which instruction terms have an encoding or name parts of the device: the reserved values of R59, R61,
R71, R75, R124 and R168, and the cores and slots of R13 and R16. -/

namespace Sys2Proof

/-- The assigned system register numbers (R124). -/
def assignedSysreg (n : Nat) : Bool :=
  decide (n ≤ 6) || (decide (0x10 ≤ n) && decide (n ≤ 0x12)) || (decide (0x14 ≤ n) && decide (n ≤ 0x16)) ||
  (decide (0x18 ≤ n) && decide (n ≤ 0x1A)) || decide (n = 0x20) || decide (n = 0x21) || (decide (0x30 ≤ n) && decide (n ≤ 0x32)) ||
  decide (n = 0x40) || decide (n = 0x41) || (decide (0x48 ≤ n) && decide (n ≤ 0x4A)) || decide (n = 0x50) ||
  (decide (0x58 ≤ n) && decide (n ≤ 0x5A)) || (decide (0x60 ≤ n) && decide (n ≤ 0x62)) || (decide (0x70 ≤ n) && decide (n ≤ 0x72)) ||
  decide (n = 0x78) || decide (n = 0x79)

/-- The format codes that `vcvt` may name (R75). -/
def vcvtFormat (n : Nat) : Bool := decide (n ≤ 6) || decide (n = 9)

/-- Whether a strand reference names a slot of the device (R13, R16). -/
def StrandRef.ok (r : StrandRef) : Bool := decide (r.core < 3840) && decide (r.slot < 16)

/-- Whether a term is a well-formed instruction. -/
def wellFormed : Instr → Bool
  | .ld o => decide (o.c.toNat ≤ 5)
  | .ldu o => decide (o.c.toNat ≤ 5)
  | .st o => decide (o.c.toNat ≤ 5)
  | .vld o => decide (o.c.toNat ≤ 5) && decide (o.sz.toNat ≤ 2)
  | .vst o => decide (o.c.toNat ≤ 5) && decide (o.sz.toNat ≤ 2)
  | .pfx o => decide (o.k.toNat ≤ 10) && decide (o.h.toNat ≤ 10) && decide (o.g.toNat ≤ 10)
  | .loop o => decide (o.i.toNat ≠ 0)
  | .iloop o => decide (o.i.toNat ≠ 0)
  | .mfs o => assignedSysreg o.i.toNat
  | .mts o => assignedSysreg o.i.toNat
  | .vcvt o => vcvtFormat o.g.toNat && vcvtFormat o.h.toNat && decide (o.g ≠ o.h)
  | .vaddF32 o => o.m || decide (o.b.toNat ≠ 0) || decide (o.d.toNat ≠ 0)
  | .iloopClaimReply r => r.ok
  | .laneGrant cl => decide (cl < 480)
  | .shrinkTakesEffect r => r.ok
  | .enginePlacement r => r.ok
  | .jobStart cl _ => decide (cl < 480)
  | .jobCompletion cl _ => decide (cl < 480)
  | .followonPlacement cl _ => decide (cl < 480)
  | .continuationInvocation _ _ core => decide (core < 3840)
  | .specTaskDispatch _ _ _ core => decide (core < 3840)
  | .undoReplay _ _ _ core => decide (core < 3840)
  | .strandWake r => r.ok
  | .longLatencyResult r _ => r.ok
  | .loadDataReturn r _ => r.ok
  | .replayRetry core _ => decide (core < 3840)
  | .pendingWriteDrain die => decide (die < 4)
  | .preemptSave core _ => decide (core < 3840)
  | .preemptResume core => decide (core < 3840)
  | .debugStop core => decide (core < 3840)
  | .debugResume core => decide (core < 3840)
  | .linkFailure link => decide (link < 24)
  | .linkUp link _ _ => decide (link < 24)
  | .repairTableReload stack _ _ => decide (stack < 12)
  | .frequencyStep die _ => decide (die < 4)
  | .relockEnd die => decide (die < 4)
  | _ => true

end Sys2Proof
end

