-- ==== Sys2Proof/Decode.lean ====
section
/-! DEFINITION. Decoding and encoding (R55 to R79): total on any bytes, refusing by name, with the encoder
written from the same tables. -/

namespace Sys2Proof

/-- Why a word is not an instruction (R79). -/
inductive Reject where
  /-- The halfword 0x0000 (R57). -/
  | zeroHalfword
  /-- A reserved major opcode (R73). -/
  | reservedMajor
  /-- A form code that the opcode map does not list (R73). -/
  | reservedForm
  /-- A non-zero unused field or forbidden y bit (R62, R68). -/
  | unusedField
  /-- A field value that the instruction's entry reserves (R59, R61, R71, R75, R124, R168). -/
  | reservedValue
  /-- Too few bytes. -/
  | truncated
  deriving DecidableEq, Repr

/-- One bit of a word. -/
def bitAt (w lo : Nat) : Bool := decide (w / 2 ^ lo % 2 = 1)

/-- The n bits of a word from bit lo up. -/
def fieldAt (n w lo : Nat) : BitVec n := BitVec.ofNat n (w / 2 ^ lo)

/-- The fields of FmtA in a word (R58). -/
def FmtA.read (w : Nat) : FmtA :=
  ⟨bitAt w 27, fieldAt 6 w 21, bitAt w 20, fieldAt 6 w 14, fieldAt 6 w 8⟩

/-- FmtA as bits of a word. -/
def FmtA.bits (o : FmtA) : Nat :=
  o.y.toNat * 2 ^ 27 + o.b.toNat * 2 ^ 21 + o.x.toNat * 2 ^ 20 + o.a.toNat * 2 ^ 14 + o.d.toNat * 2 ^ 8

/-- The fields of FmtUn in a word (R58). -/
def FmtUn.read (w : Nat) : FmtUn :=
  ⟨bitAt w 20, fieldAt 6 w 14, fieldAt 6 w 8⟩

/-- FmtUn as bits of a word. -/
def FmtUn.bits (o : FmtUn) : Nat :=
  o.x.toNat * 2 ^ 20 + o.a.toNat * 2 ^ 14 + o.d.toNat * 2 ^ 8

/-- The fields of FmtSrc in a word (R58). -/
def FmtSrc.read (w : Nat) : FmtSrc :=
  ⟨bitAt w 20, fieldAt 6 w 14⟩

/-- FmtSrc as bits of a word. -/
def FmtSrc.bits (o : FmtSrc) : Nat :=
  o.x.toNat * 2 ^ 20 + o.a.toNat * 2 ^ 14

/-- The fields of FmtTwo in a word (R58). -/
def FmtTwo.read (w : Nat) : FmtTwo :=
  ⟨bitAt w 27, fieldAt 6 w 21, bitAt w 20, fieldAt 6 w 14⟩

/-- FmtTwo as bits of a word. -/
def FmtTwo.bits (o : FmtTwo) : Nat :=
  o.y.toNat * 2 ^ 27 + o.b.toNat * 2 ^ 21 + o.x.toNat * 2 ^ 20 + o.a.toNat * 2 ^ 14

/-- The fields of FmtDst in a word (R58). -/
def FmtDst.read (w : Nat) : FmtDst :=
  ⟨fieldAt 6 w 8⟩

/-- FmtDst as bits of a word. -/
def FmtDst.bits (o : FmtDst) : Nat :=
  o.d.toNat * 2 ^ 8

/-- The fields of FmtI in a word (R58). -/
def FmtI.read (w : Nat) : FmtI :=
  ⟨fieldAt 11 w 21, bitAt w 20, fieldAt 6 w 14, fieldAt 6 w 8⟩

/-- FmtI as bits of a word. -/
def FmtI.bits (o : FmtI) : Nat :=
  o.i.toNat * 2 ^ 21 + o.x.toNat * 2 ^ 20 + o.a.toNat * 2 ^ 14 + o.d.toNat * 2 ^ 8

/-- The fields of FmtSh in a word (R58). -/
def FmtSh.read (w : Nat) : FmtSh :=
  ⟨fieldAt 6 w 21, bitAt w 20, fieldAt 6 w 14, fieldAt 6 w 8⟩

/-- FmtSh as bits of a word. -/
def FmtSh.bits (o : FmtSh) : Nat :=
  o.n.toNat * 2 ^ 21 + o.x.toNat * 2 ^ 20 + o.a.toNat * 2 ^ 14 + o.d.toNat * 2 ^ 8

/-- The fields of FmtLi in a word (R58). -/
def FmtLi.read (w : Nat) : FmtLi :=
  ⟨fieldAt 18 w 14, fieldAt 6 w 8⟩

/-- FmtLi as bits of a word. -/
def FmtLi.bits (o : FmtLi) : Nat :=
  o.i.toNat * 2 ^ 14 + o.d.toNat * 2 ^ 8

/-- The fields of FmtMfs in a word (R58). -/
def FmtMfs.read (w : Nat) : FmtMfs :=
  ⟨fieldAt 11 w 21, fieldAt 6 w 8⟩

/-- FmtMfs as bits of a word. -/
def FmtMfs.bits (o : FmtMfs) : Nat :=
  o.i.toNat * 2 ^ 21 + o.d.toNat * 2 ^ 8

/-- The fields of FmtMts in a word (R58). -/
def FmtMts.read (w : Nat) : FmtMts :=
  ⟨fieldAt 11 w 21, bitAt w 20, fieldAt 6 w 14⟩

/-- FmtMts as bits of a word. -/
def FmtMts.bits (o : FmtMts) : Nat :=
  o.i.toNat * 2 ^ 21 + o.x.toNat * 2 ^ 20 + o.a.toNat * 2 ^ 14

/-- The fields of FmtB in a word (R58). -/
def FmtB.read (w : Nat) : FmtB :=
  ⟨fieldAt 9 w 23, fieldAt 6 w 17, fieldAt 6 w 11⟩

/-- FmtB as bits of a word. -/
def FmtB.bits (o : FmtB) : Nat :=
  o.p.toNat * 2 ^ 23 + o.b.toNat * 2 ^ 17 + o.a.toNat * 2 ^ 11

/-- The fields of FmtZ in a word (R58). -/
def FmtZ.read (w : Nat) : FmtZ :=
  ⟨fieldAt 15 w 17, fieldAt 6 w 11⟩

/-- FmtZ as bits of a word. -/
def FmtZ.bits (o : FmtZ) : Nat :=
  o.p.toNat * 2 ^ 17 + o.a.toNat * 2 ^ 11

/-- The fields of FmtJ in a word (R58). -/
def FmtJ.read (w : Nat) : FmtJ :=
  ⟨fieldAt 24 w 8⟩

/-- FmtJ as bits of a word. -/
def FmtJ.bits (o : FmtJ) : Nat :=
  o.p.toNat * 2 ^ 8

/-- The fields of FmtLoop in a word (R58). -/
def FmtLoop.read (w : Nat) : FmtLoop :=
  ⟨fieldAt 11 w 21, bitAt w 20, fieldAt 6 w 14, bitAt w 8⟩

/-- FmtLoop as bits of a word. -/
def FmtLoop.bits (o : FmtLoop) : Nat :=
  o.i.toNat * 2 ^ 21 + o.x.toNat * 2 ^ 20 + o.a.toNat * 2 ^ 14 + o.r.toNat * 2 ^ 8

/-- The fields of FmtP in a word (R58). -/
def FmtP.read (w : Nat) : FmtP :=
  ⟨bitAt w 26, fieldAt 2 w 24, fieldAt 4 w 20, fieldAt 4 w 16, fieldAt 4 w 12, fieldAt 4 w 8⟩

/-- FmtP as bits of a word. -/
def FmtP.bits (o : FmtP) : Nat :=
  o.t.toNat * 2 ^ 26 + o.r.toNat * 2 ^ 24 + o.s.toNat * 2 ^ 20 + o.g.toNat * 2 ^ 16 + o.h.toNat * 2 ^ 12 + o.k.toNat * 2 ^ 8

/-- The fields of FmtTrap in a word (R58). -/
def FmtTrap.read (w : Nat) : FmtTrap :=
  ⟨fieldAt 9 w 21⟩

/-- FmtTrap as bits of a word. -/
def FmtTrap.bits (o : FmtTrap) : Nat :=
  o.c.toNat * 2 ^ 21

/-- The fields of FmtM in a word (R58). -/
def FmtM.read (w : Nat) : FmtM :=
  ⟨fieldAt 6 w 26, fieldAt 3 w 23, fieldAt 2 w 21, bitAt w 20, fieldAt 6 w 14, fieldAt 6 w 8⟩

/-- FmtM as bits of a word. -/
def FmtM.bits (o : FmtM) : Nat :=
  o.o.toNat * 2 ^ 26 + o.c.toNat * 2 ^ 23 + o.sz.toNat * 2 ^ 21 + o.x.toNat * 2 ^ 20 + o.a.toNat * 2 ^ 14 + o.d.toNat * 2 ^ 8

/-- The fields of FmtLdx in a word (R58). -/
def FmtLdx.read (w : Nat) : FmtLdx :=
  ⟨bitAt w 30, fieldAt 2 w 28, bitAt w 27, fieldAt 6 w 21, bitAt w 20, fieldAt 6 w 14, fieldAt 6 w 8⟩

/-- FmtLdx as bits of a word. -/
def FmtLdx.bits (o : FmtLdx) : Nat :=
  o.u.toNat * 2 ^ 30 + o.sz.toNat * 2 ^ 28 + o.y.toNat * 2 ^ 27 + o.b.toNat * 2 ^ 21 + o.x.toNat * 2 ^ 20 + o.a.toNat * 2 ^ 14 + o.d.toNat * 2 ^ 8

/-- The fields of FmtFe in a word (R58). -/
def FmtFe.read (w : Nat) : FmtFe :=
  ⟨fieldAt 6 w 26, bitAt w 20, fieldAt 6 w 14, fieldAt 6 w 8⟩

/-- FmtFe as bits of a word. -/
def FmtFe.bits (o : FmtFe) : Nat :=
  o.o.toNat * 2 ^ 26 + o.x.toNat * 2 ^ 20 + o.a.toNat * 2 ^ 14 + o.d.toNat * 2 ^ 8

/-- The fields of FmtRed in a word (R58). -/
def FmtRed.read (w : Nat) : FmtRed :=
  ⟨fieldAt 2 w 27, fieldAt 6 w 21, bitAt w 20, fieldAt 6 w 14⟩

/-- FmtRed as bits of a word. -/
def FmtRed.bits (o : FmtRed) : Nat :=
  o.k.toNat * 2 ^ 27 + o.b.toNat * 2 ^ 21 + o.x.toNat * 2 ^ 20 + o.a.toNat * 2 ^ 14

/-- The fields of FmtAmo in a word (R58). -/
def FmtAmo.read (w : Nat) : FmtAmo :=
  ⟨fieldAt 2 w 27, fieldAt 6 w 21, bitAt w 20, fieldAt 6 w 14, fieldAt 6 w 8⟩

/-- FmtAmo as bits of a word. -/
def FmtAmo.bits (o : FmtAmo) : Nat :=
  o.k.toNat * 2 ^ 27 + o.b.toNat * 2 ^ 21 + o.x.toNat * 2 ^ 20 + o.a.toNat * 2 ^ 14 + o.d.toNat * 2 ^ 8

/-- The fields of FmtFence in a word (R58). -/
def FmtFence.read (w : Nat) : FmtFence :=
  ⟨fieldAt 2 w 28⟩

/-- FmtFence as bits of a word. -/
def FmtFence.bits (o : FmtFence) : Nat :=
  o.k.toNat * 2 ^ 28

/-- The fields of FmtLda in a word (R58). -/
def FmtLda.read (w : Nat) : FmtLda :=
  ⟨bitAt w 31, fieldAt 2 w 29, fieldAt 2 w 27, fieldAt 6 w 21, bitAt w 20, fieldAt 6 w 14, fieldAt 6 w 8⟩

/-- FmtLda as bits of a word. -/
def FmtLda.bits (o : FmtLda) : Nat :=
  o.u.toNat * 2 ^ 31 + o.sz.toNat * 2 ^ 29 + o.k.toNat * 2 ^ 27 + o.b.toNat * 2 ^ 21 + o.x.toNat * 2 ^ 20 + o.a.toNat * 2 ^ 14 + o.d.toNat * 2 ^ 8

/-- The fields of FmtStl in a word (R58). -/
def FmtStl.read (w : Nat) : FmtStl :=
  ⟨fieldAt 2 w 29, fieldAt 2 w 27, fieldAt 6 w 21, bitAt w 20, fieldAt 6 w 14, fieldAt 6 w 8⟩

/-- FmtStl as bits of a word. -/
def FmtStl.bits (o : FmtStl) : Nat :=
  o.sz.toNat * 2 ^ 29 + o.k.toNat * 2 ^ 27 + o.b.toNat * 2 ^ 21 + o.x.toNat * 2 ^ 20 + o.a.toNat * 2 ^ 14 + o.d.toNat * 2 ^ 8

/-- The fields of FmtLdb in a word (R58). -/
def FmtLdb.read (w : Nat) : FmtLdb :=
  ⟨bitAt w 27, fieldAt 6 w 21, bitAt w 20, fieldAt 6 w 14, fieldAt 6 w 8⟩

/-- FmtLdb as bits of a word. -/
def FmtLdb.bits (o : FmtLdb) : Nat :=
  o.e.toNat * 2 ^ 27 + o.w.toNat * 2 ^ 21 + o.x.toNat * 2 ^ 20 + o.a.toNat * 2 ^ 14 + o.d.toNat * 2 ^ 8

/-- The fields of FmtStb in a word (R58). -/
def FmtStb.read (w : Nat) : FmtStb :=
  ⟨fieldAt 6 w 21, bitAt w 20, fieldAt 6 w 14, fieldAt 6 w 8⟩

/-- FmtStb as bits of a word. -/
def FmtStb.bits (o : FmtStb) : Nat :=
  o.w.toNat * 2 ^ 21 + o.x.toNat * 2 ^ 20 + o.a.toNat * 2 ^ 14 + o.d.toNat * 2 ^ 8

/-- The fields of FmtPref in a word (R58). -/
def FmtPref.read (w : Nat) : FmtPref :=
  ⟨fieldAt 6 w 26, fieldAt 2 w 21, bitAt w 20, fieldAt 6 w 14⟩

/-- FmtPref as bits of a word. -/
def FmtPref.bits (o : FmtPref) : Nat :=
  o.o.toNat * 2 ^ 26 + o.sz.toNat * 2 ^ 21 + o.x.toNat * 2 ^ 20 + o.a.toNat * 2 ^ 14

/-- The fields of FmtSend in a word (R58). -/
def FmtSend.read (w : Nat) : FmtSend :=
  ⟨fieldAt 2 w 28, bitAt w 27, fieldAt 6 w 21, bitAt w 20, fieldAt 6 w 14⟩

/-- FmtSend as bits of a word. -/
def FmtSend.bits (o : FmtSend) : Nat :=
  o.t.toNat * 2 ^ 28 + o.y.toNat * 2 ^ 27 + o.b.toNat * 2 ^ 21 + o.x.toNat * 2 ^ 20 + o.a.toNat * 2 ^ 14

/-- The fields of FmtPut in a word (R58). -/
def FmtPut.read (w : Nat) : FmtPut :=
  ⟨fieldAt 2 w 28, bitAt w 27, fieldAt 6 w 21, bitAt w 20, fieldAt 6 w 14, fieldAt 6 w 8⟩

/-- FmtPut as bits of a word. -/
def FmtPut.bits (o : FmtPut) : Nat :=
  o.t.toNat * 2 ^ 28 + o.y.toNat * 2 ^ 27 + o.b.toNat * 2 ^ 21 + o.x.toNat * 2 ^ 20 + o.a.toNat * 2 ^ 14 + o.d.toNat * 2 ^ 8

/-- The fields of FmtV in a word (R58). -/
def FmtV.read (w : Nat) : FmtV :=
  ⟨bitAt w 27, fieldAt 6 w 21, fieldAt 6 w 14, fieldAt 6 w 8⟩

/-- FmtV as bits of a word. -/
def FmtV.bits (o : FmtV) : Nat :=
  o.y.toNat * 2 ^ 27 + o.b.toNat * 2 ^ 21 + o.a.toNat * 2 ^ 14 + o.d.toNat * 2 ^ 8

/-- The fields of FmtVUn in a word (R58). -/
def FmtVUn.read (w : Nat) : FmtVUn :=
  ⟨bitAt w 27, fieldAt 6 w 21, fieldAt 6 w 8⟩

/-- FmtVUn as bits of a word. -/
def FmtVUn.bits (o : FmtVUn) : Nat :=
  o.y.toNat * 2 ^ 27 + o.b.toNat * 2 ^ 21 + o.d.toNat * 2 ^ 8

/-- The fields of FmtVV in a word (R58). -/
def FmtVV.read (w : Nat) : FmtVV :=
  ⟨fieldAt 6 w 21, fieldAt 6 w 14, fieldAt 6 w 8⟩

/-- FmtVV as bits of a word. -/
def FmtVV.bits (o : FmtVV) : Nat :=
  o.b.toNat * 2 ^ 21 + o.a.toNat * 2 ^ 14 + o.d.toNat * 2 ^ 8

/-- The fields of FmtVA in a word (R58). -/
def FmtVA.read (w : Nat) : FmtVA :=
  ⟨fieldAt 6 w 14, fieldAt 6 w 8⟩

/-- FmtVA as bits of a word. -/
def FmtVA.bits (o : FmtVA) : Nat :=
  o.a.toNat * 2 ^ 14 + o.d.toNat * 2 ^ 8

/-- The fields of FmtVB in a word (R58). -/
def FmtVB.read (w : Nat) : FmtVB :=
  ⟨fieldAt 6 w 21, fieldAt 6 w 8⟩

/-- FmtVB as bits of a word. -/
def FmtVB.bits (o : FmtVB) : Nat :=
  o.b.toNat * 2 ^ 21 + o.d.toNat * 2 ^ 8

/-- The fields of FmtCvt in a word (R58). -/
def FmtCvt.read (w : Nat) : FmtCvt :=
  ⟨fieldAt 4 w 28, bitAt w 27, fieldAt 6 w 21, fieldAt 4 w 14, fieldAt 6 w 8⟩

/-- FmtCvt as bits of a word. -/
def FmtCvt.bits (o : FmtCvt) : Nat :=
  o.g.toNat * 2 ^ 28 + o.y.toNat * 2 ^ 27 + o.b.toNat * 2 ^ 21 + o.h.toNat * 2 ^ 14 + o.d.toNat * 2 ^ 8

/-- The fields of FmtVRed in a word (R58). -/
def FmtVRed.read (w : Nat) : FmtVRed :=
  ⟨bitAt w 27, fieldAt 6 w 14, fieldAt 6 w 8⟩

/-- FmtVRed as bits of a word. -/
def FmtVRed.bits (o : FmtVRed) : Nat :=
  o.y.toNat * 2 ^ 27 + o.a.toNat * 2 ^ 14 + o.d.toNat * 2 ^ 8

/-- The fields of FmtVM in a word (R58). -/
def FmtVM.read (w : Nat) : FmtVM :=
  ⟨fieldAt 6 w 26, fieldAt 3 w 23, fieldAt 2 w 21, fieldAt 6 w 14, fieldAt 6 w 8⟩

/-- FmtVM as bits of a word. -/
def FmtVM.bits (o : FmtVM) : Nat :=
  o.o.toNat * 2 ^ 26 + o.c.toNat * 2 ^ 23 + o.sz.toNat * 2 ^ 21 + o.a.toNat * 2 ^ 14 + o.d.toNat * 2 ^ 8

/-- The fields of FmtVBit in a word (R58). -/
def FmtVBit.read (w : Nat) : FmtVBit :=
  ⟨fieldAt 4 w 28, bitAt w 27, fieldAt 6 w 14, fieldAt 6 w 8⟩

/-- FmtVBit as bits of a word. -/
def FmtVBit.bits (o : FmtVBit) : Nat :=
  o.w.toNat * 2 ^ 28 + o.y.toNat * 2 ^ 27 + o.a.toNat * 2 ^ 14 + o.d.toNat * 2 ^ 8

/-- The fields of FmtN in a word (R58). -/
def FmtN.read (w : Nat) : FmtN :=
  ⟨bitAt w 15, fieldAt 5 w 10, fieldAt 5 w 5⟩

/-- FmtN as bits of a word. -/
def FmtN.bits (o : FmtN) : Nat :=
  o.m.toNat * 2 ^ 15 + o.b.toNat * 2 ^ 10 + o.d.toNat * 2 ^ 5

/-- The fields of FmtCopy in a word (R58). -/
def FmtCopy.read (w : Nat) : FmtCopy :=
  ⟨fieldAt 6 w 21, bitAt w 20, fieldAt 6 w 14, fieldAt 6 w 8⟩

/-- FmtCopy as bits of a word. -/
def FmtCopy.bits (o : FmtCopy) : Nat :=
  o.b.toNat * 2 ^ 21 + o.x.toNat * 2 ^ 20 + o.a.toNat * 2 ^ 14 + o.d.toNat * 2 ^ 8

/-- The fields of FmtRun in a word (R58). -/
def FmtRun.read (w : Nat) : FmtRun :=
  ⟨bitAt w 30, fieldAt 2 w 28, bitAt w 27, fieldAt 6 w 21, bitAt w 20, fieldAt 6 w 14, fieldAt 6 w 8⟩

/-- FmtRun as bits of a word. -/
def FmtRun.bits (o : FmtRun) : Nat :=
  o.w.toNat * 2 ^ 30 + o.e.toNat * 2 ^ 28 + o.y.toNat * 2 ^ 27 + o.b.toNat * 2 ^ 21 + o.x.toNat * 2 ^ 20 + o.a.toNat * 2 ^ 14 + o.d.toNat * 2 ^ 8

/-- Forms of major 0x01 (R73). -/
def decodeMajor01 (w : Nat) : Except Reject Instr :=
  match w / 2 ^ 28 % 2 ^ 4 with
  | 0 => .ok (.aluAdd (FmtA.read w))
  | 1 => .ok (.aluSub (FmtA.read w))
  | 2 => .ok (.aluAnd (FmtA.read w))
  | 3 => .ok (.aluOr (FmtA.read w))
  | 4 => .ok (.aluXor (FmtA.read w))
  | 5 => .ok (.aluShl (FmtA.read w))
  | 6 => .ok (.aluShr (FmtA.read w))
  | 7 => .ok (.aluSar (FmtA.read w))
  | 8 => .ok (.aluSlt (FmtA.read w))
  | 9 => .ok (.aluSltu (FmtA.read w))
  | 10 => .ok (.aluMin (FmtA.read w))
  | 11 => .ok (.aluMax (FmtA.read w))
  | 12 => .ok (.aluMinu (FmtA.read w))
  | 13 => .ok (.aluMaxu (FmtA.read w))
  | 14 => .ok (.aluAndn (FmtA.read w))
  | 15 => .ok (.aluOrn (FmtA.read w))
  | _ => .error .reservedForm

/-- Forms of major 0x02 (R73). -/
def decodeMajor02 (w : Nat) : Except Reject Instr :=
  match w / 2 ^ 28 % 2 ^ 4 with
  | 0 => .ok (.aluwAddw (FmtA.read w))
  | 1 => .ok (.aluwSubw (FmtA.read w))
  | 2 => .ok (.aluwShlw (FmtA.read w))
  | 3 => .ok (.aluwShrw (FmtA.read w))
  | 4 => .ok (.aluwSarw (FmtA.read w))
  | _ => .error .reservedForm

/-- Forms of major 0x03 (R73). -/
def decodeMajor03 (w : Nat) : Except Reject Instr :=
  match w / 2 ^ 28 % 2 ^ 4 with
  | 0 => .ok (.mulMul (FmtA.read w))
  | 1 => .ok (.mulMulh (FmtA.read w))
  | 2 => .ok (.mulMulhu (FmtA.read w))
  | 3 => .ok (.mulDiv (FmtA.read w))
  | 4 => .ok (.mulDivu (FmtA.read w))
  | 5 => .ok (.mulRem (FmtA.read w))
  | 6 => .ok (.mulRemu (FmtA.read w))
  | _ => .error .reservedForm

/-- Forms of major 0x04 (R73). -/
def decodeMajor04 (w : Nat) : Except Reject Instr :=
  match w / 2 ^ 28 % 2 ^ 4 with
  | 0 => if w / 2 ^ 21 % 2 ^ 7 = 0 then .ok (.bitsClz (FmtUn.read w)) else .error .unusedField
  | 1 => if w / 2 ^ 21 % 2 ^ 7 = 0 then .ok (.bitsCtz (FmtUn.read w)) else .error .unusedField
  | 2 => if w / 2 ^ 21 % 2 ^ 7 = 0 then .ok (.bitsPopc (FmtUn.read w)) else .error .unusedField
  | 3 => if w / 2 ^ 21 % 2 ^ 7 = 0 then .ok (.bitsBrev (FmtUn.read w)) else .error .unusedField
  | 4 => .ok (.bitsBext (FmtA.read w))
  | 5 => .ok (.bitsBdep (FmtA.read w))
  | 6 => .ok (.bitsSext (FmtA.read w))
  | _ => .error .reservedForm

/-- Forms of major 0x09 (R73). -/
def decodeMajor09 (w : Nat) : Except Reject Instr :=
  match w / 2 ^ 27 % 2 ^ 5 with
  | 0 => .ok (.shli (FmtSh.read w))
  | 1 => .ok (.shri (FmtSh.read w))
  | 2 => .ok (.sari (FmtSh.read w))
  | 3 => .ok (.roti (FmtSh.read w))
  | _ => .error .reservedForm

/-- Forms of major 0x0E (R73). -/
def decodeMajor0E (w : Nat) : Except Reject Instr :=
  match w / 2 ^ 28 % 2 ^ 4 with
  | 0 => .ok (.addrMkloc (FmtA.read w))
  | 1 => .ok (.addrMkrel (FmtA.read w))
  | 2 => if w / 2 ^ 21 % 2 ^ 7 = 0 then .ok (.addrGetx (FmtUn.read w)) else .error .unusedField
  | 3 => if w / 2 ^ 21 % 2 ^ 7 = 0 then .ok (.addrGety (FmtUn.read w)) else .error .unusedField
  | 4 => if w / 2 ^ 21 % 2 ^ 7 = 0 then .ok (.addrGetc (FmtUn.read w)) else .error .unusedField
  | 5 => if w / 2 ^ 21 % 2 ^ 7 = 0 then .ok (.addrGetdie (FmtUn.read w)) else .error .unusedField
  | _ => .error .reservedForm

/-- Forms of major 0x0F (R73). -/
def decodeMajor0F (w : Nat) : Except Reject Instr :=
  match w / 2 ^ 28 % 2 ^ 4 with
  | 0 => .ok (.sfpFaddS (FmtA.read w))
  | 1 => .ok (.sfpFsubS (FmtA.read w))
  | 2 => .ok (.sfpFmulS (FmtA.read w))
  | 3 => .ok (.sfpFdivS (FmtA.read w))
  | 4 => if w / 2 ^ 21 % 2 ^ 7 = 0 then .ok (.sfpFsqrtS (FmtUn.read w)) else .error .unusedField
  | 5 => .ok (.sfpFminS (FmtA.read w))
  | 6 => .ok (.sfpFmaxS (FmtA.read w))
  | 8 => .ok (.sfpFaddD (FmtA.read w))
  | 9 => .ok (.sfpFsubD (FmtA.read w))
  | 10 => .ok (.sfpFmulD (FmtA.read w))
  | 11 => .ok (.sfpFdivD (FmtA.read w))
  | 12 => if w / 2 ^ 21 % 2 ^ 7 = 0 then .ok (.sfpFsqrtD (FmtUn.read w)) else .error .unusedField
  | 13 => .ok (.sfpFminD (FmtA.read w))
  | 14 => .ok (.sfpFmaxD (FmtA.read w))
  | _ => .error .reservedForm

/-- Forms of major 0x10 (R73). -/
def decodeMajor10 (w : Nat) : Except Reject Instr :=
  match w / 2 ^ 28 % 2 ^ 4 with
  | 0 => .ok (.sfmaFmaS (FmtA.read w))
  | 1 => .ok (.sfmaFmsS (FmtA.read w))
  | 8 => .ok (.sfmaFmaD (FmtA.read w))
  | 9 => .ok (.sfmaFmsD (FmtA.read w))
  | _ => .error .reservedForm

/-- Forms of major 0x11 (R73). -/
def decodeMajor11 (w : Nat) : Except Reject Instr :=
  match w / 2 ^ 28 % 2 ^ 4 with
  | 0 => if w / 2 ^ 21 % 2 ^ 7 = 0 then .ok (.scvtDS (FmtUn.read w)) else .error .unusedField
  | 1 => if w / 2 ^ 21 % 2 ^ 7 = 0 then .ok (.scvtSD (FmtUn.read w)) else .error .unusedField
  | 2 => if w / 2 ^ 21 % 2 ^ 7 = 0 then .ok (.scvtSL (FmtUn.read w)) else .error .unusedField
  | 3 => if w / 2 ^ 21 % 2 ^ 7 = 0 then .ok (.scvtDL (FmtUn.read w)) else .error .unusedField
  | 4 => if w / 2 ^ 21 % 2 ^ 7 = 0 then .ok (.scvtLS (FmtUn.read w)) else .error .unusedField
  | 5 => if w / 2 ^ 21 % 2 ^ 7 = 0 then .ok (.scvtLD (FmtUn.read w)) else .error .unusedField
  | 6 => if w / 2 ^ 21 % 2 ^ 7 = 0 then .ok (.scvtSLu (FmtUn.read w)) else .error .unusedField
  | 7 => if w / 2 ^ 21 % 2 ^ 7 = 0 then .ok (.scvtDLu (FmtUn.read w)) else .error .unusedField
  | 8 => if w / 2 ^ 21 % 2 ^ 7 = 0 then .ok (.scvtLuS (FmtUn.read w)) else .error .unusedField
  | 9 => if w / 2 ^ 21 % 2 ^ 7 = 0 then .ok (.scvtLuD (FmtUn.read w)) else .error .unusedField
  | 10 => if w / 2 ^ 21 % 2 ^ 7 = 0 then .ok (.scvtBfS (FmtUn.read w)) else .error .unusedField
  | 11 => if w / 2 ^ 21 % 2 ^ 7 = 0 then .ok (.scvtSBf (FmtUn.read w)) else .error .unusedField
  | 12 => if w / 2 ^ 21 % 2 ^ 7 = 0 then .ok (.scvtHS (FmtUn.read w)) else .error .unusedField
  | 13 => if w / 2 ^ 21 % 2 ^ 7 = 0 then .ok (.scvtSH (FmtUn.read w)) else .error .unusedField
  | _ => .error .reservedForm

/-- Forms of major 0x12 (R73). -/
def decodeMajor12 (w : Nat) : Except Reject Instr :=
  match w / 2 ^ 28 % 2 ^ 4 with
  | 0 => .ok (.scmpFeqS (FmtA.read w))
  | 1 => .ok (.scmpFltS (FmtA.read w))
  | 2 => .ok (.scmpFleS (FmtA.read w))
  | 3 => .ok (.scmpFunordS (FmtA.read w))
  | 8 => .ok (.scmpFeqD (FmtA.read w))
  | 9 => .ok (.scmpFltD (FmtA.read w))
  | 10 => .ok (.scmpFleD (FmtA.read w))
  | 11 => .ok (.scmpFunordD (FmtA.read w))
  | _ => .error .reservedForm

/-- Forms of major 0x15 (R73). -/
def decodeMajor15 (w : Nat) : Except Reject Instr :=
  match w / 2 ^ 8 % 2 ^ 3 with
  | 0 => .ok (.brEq (FmtB.read w))
  | 1 => .ok (.brNe (FmtB.read w))
  | 2 => .ok (.brLt (FmtB.read w))
  | 3 => .ok (.brGe (FmtB.read w))
  | 4 => .ok (.brLtu (FmtB.read w))
  | 5 => .ok (.brGeu (FmtB.read w))
  | _ => .error .reservedForm

/-- Forms of major 0x16 (R73). -/
def decodeMajor16 (w : Nat) : Except Reject Instr :=
  match w / 2 ^ 8 % 2 ^ 3 with
  | 0 => .ok (.bzEq0 (FmtZ.read w))
  | 1 => .ok (.bzNe0 (FmtZ.read w))
  | 2 => .ok (.bzLt0 (FmtZ.read w))
  | 3 => .ok (.bzGe0 (FmtZ.read w))
  | 4 => .ok (.bzGt0 (FmtZ.read w))
  | 5 => .ok (.bzLe0 (FmtZ.read w))
  | _ => .error .reservedForm

/-- Forms of major 0x19 (R73). -/
def decodeMajor19 (w : Nat) : Except Reject Instr :=
  match w / 2 ^ 28 % 2 ^ 4 with
  | 0 => if w / 2 ^ 8 % 2 ^ 6 = 0 ∧ w / 2 ^ 21 % 2 ^ 7 = 0 then .ok (.jr (FmtSrc.read w)) else .error .unusedField
  | 1 => if w / 2 ^ 8 % 2 ^ 6 = 0 ∧ w / 2 ^ 21 % 2 ^ 7 = 0 then .ok (.callr (FmtSrc.read w)) else .error .unusedField
  | 2 => if w / 2 ^ 8 % 2 ^ 20 = 0 then .ok .ret else .error .unusedField
  | _ => .error .reservedForm

/-- Forms of major 0x1D (R73). -/
def decodeMajor1D (w : Nat) : Except Reject Instr :=
  match w / 2 ^ 28 % 2 ^ 4 with
  | 0 => .ok (.strandStart (FmtA.read w))
  | 1 => if w / 2 ^ 8 % 2 ^ 20 = 0 then .ok .strandHalt else .error .unusedField
  | 2 => if w / 2 ^ 14 % 2 ^ 14 = 0 then .ok (.strandSlot (FmtDst.read w)) else .error .unusedField
  | 3 => if w / 2 ^ 8 % 2 ^ 6 = 0 then .ok (.strandQbind (FmtTwo.read w)) else .error .unusedField
  | _ => .error .reservedForm

/-- Forms of major 0x1E (R73). -/
def decodeMajor1E (w : Nat) : Except Reject Instr :=
  match w / 2 ^ 30 % 2 ^ 2 with
  | 0 => if w / 2 ^ 8 % 2 ^ 13 = 0 then .ok (.trap (FmtTrap.read w)) else .error .unusedField
  | 1 => if w / 2 ^ 8 % 2 ^ 13 = 0 then .ok (.brk (FmtTrap.read w)) else .error .unusedField
  | 2 => if w / 2 ^ 8 % 2 ^ 13 = 0 then .ok (.sysc (FmtTrap.read w)) else .error .unusedField
  | 3 => if w / 2 ^ 8 % 2 ^ 22 = 0 then .ok .eret else .error .unusedField
  | _ => .error .reservedForm

/-- Forms of major 0x1F (R73). -/
def decodeMajor1F (w : Nat) : Except Reject Instr :=
  match w / 2 ^ 28 % 2 ^ 4 with
  | 0 => if w / 2 ^ 8 % 2 ^ 6 = 0 then .ok (.sysopTlbinv (FmtTwo.read w)) else .error .unusedField
  | 1 => if w / 2 ^ 21 % 2 ^ 7 = 0 then .ok (.sysopStopcore (FmtUn.read w)) else .error .unusedField
  | 2 => if w / 2 ^ 21 % 2 ^ 7 = 0 then .ok (.sysopResumecore (FmtUn.read w)) else .error .unusedField
  | 3 => if w / 2 ^ 14 % 2 ^ 14 = 0 then .ok (.sysopSample (FmtDst.read w)) else .error .unusedField
  | 4 => .ok (.sysopDump (FmtA.read w))
  | _ => .error .reservedForm

/-- Forms of major 0x24 (R73). -/
def decodeMajor24 (w : Nat) : Except Reject Instr :=
  match w / 2 ^ 21 % 2 ^ 5 with
  | 3 => .ok (.ldfeLeave (FmtFe.read w))
  | 7 => .ok (.ldfeTake (FmtFe.read w))
  | 11 => .ok (.ldfeState (FmtFe.read w))
  | _ => .error .reservedForm

/-- Forms of major 0x25 (R73). -/
def decodeMajor25 (w : Nat) : Except Reject Instr :=
  match w / 2 ^ 21 % 2 ^ 5 with
  | 3 => .ok (.stfeFill (FmtFe.read w))
  | 7 => .ok (.stfeForce (FmtFe.read w))
  | 11 => .ok (.stfeEmpty (FmtFe.read w))
  | _ => .error .reservedForm

/-- Forms of major 0x26 (R73). -/
def decodeMajor26 (w : Nat) : Except Reject Instr :=
  match w / 2 ^ 29 % 2 ^ 3 with
  | 0 => .ok (.amoSwap (FmtAmo.read w))
  | 1 => .ok (.amoCas (FmtAmo.read w))
  | 2 => .ok (.amoAdd (FmtAmo.read w))
  | 3 => .ok (.amoAnd (FmtAmo.read w))
  | 4 => .ok (.amoOr (FmtAmo.read w))
  | 5 => .ok (.amoXor (FmtAmo.read w))
  | 6 => .ok (.amoMax (FmtAmo.read w))
  | 7 => .ok (.amoMin (FmtAmo.read w))
  | _ => .error .reservedForm

/-- Forms of major 0x27 (R73). -/
def decodeMajor27 (w : Nat) : Except Reject Instr :=
  match w / 2 ^ 29 % 2 ^ 3 with
  | 0 => .ok (.amo2Maxu (FmtAmo.read w))
  | 1 => .ok (.amo2Minu (FmtAmo.read w))
  | 2 => .ok (.amo2FaddS (FmtAmo.read w))
  | 3 => .ok (.amo2FaddBf (FmtAmo.read w))
  | _ => .error .reservedForm

/-- Forms of major 0x28 (R73). -/
def decodeMajor28 (w : Nat) : Except Reject Instr :=
  match w / 2 ^ 29 % 2 ^ 3 with
  | 0 => if w / 2 ^ 8 % 2 ^ 6 = 0 then .ok (.redAdd (FmtRed.read w)) else .error .unusedField
  | 1 => if w / 2 ^ 8 % 2 ^ 6 = 0 then .ok (.redAnd (FmtRed.read w)) else .error .unusedField
  | 2 => if w / 2 ^ 8 % 2 ^ 6 = 0 then .ok (.redOr (FmtRed.read w)) else .error .unusedField
  | 3 => if w / 2 ^ 8 % 2 ^ 6 = 0 then .ok (.redXor (FmtRed.read w)) else .error .unusedField
  | 4 => if w / 2 ^ 8 % 2 ^ 6 = 0 then .ok (.redMax (FmtRed.read w)) else .error .unusedField
  | 5 => if w / 2 ^ 8 % 2 ^ 6 = 0 then .ok (.redMin (FmtRed.read w)) else .error .unusedField
  | 6 => if w / 2 ^ 8 % 2 ^ 6 = 0 then .ok (.redFaddS (FmtRed.read w)) else .error .unusedField
  | 7 => if w / 2 ^ 8 % 2 ^ 6 = 0 then .ok (.redFaddBf (FmtRed.read w)) else .error .unusedField
  | _ => .error .reservedForm

/-- Forms of major 0x29 (R73). -/
def decodeMajor29 (w : Nat) : Except Reject Instr :=
  match w / 2 ^ 28 % 2 ^ 4 with
  | 0 => if w / 2 ^ 8 % 2 ^ 20 = 0 then .ok (.fenceAcq (FmtFence.read w)) else .error .unusedField
  | 1 => if w / 2 ^ 8 % 2 ^ 20 = 0 then .ok (.fenceAcq (FmtFence.read w)) else .error .unusedField
  | 2 => if w / 2 ^ 8 % 2 ^ 20 = 0 then .ok (.fenceAcq (FmtFence.read w)) else .error .unusedField
  | 3 => if w / 2 ^ 8 % 2 ^ 20 = 0 then .ok (.fenceAcq (FmtFence.read w)) else .error .unusedField
  | 4 => if w / 2 ^ 8 % 2 ^ 20 = 0 then .ok (.fenceRel (FmtFence.read w)) else .error .unusedField
  | 5 => if w / 2 ^ 8 % 2 ^ 20 = 0 then .ok (.fenceRel (FmtFence.read w)) else .error .unusedField
  | 6 => if w / 2 ^ 8 % 2 ^ 20 = 0 then .ok (.fenceRel (FmtFence.read w)) else .error .unusedField
  | 7 => if w / 2 ^ 8 % 2 ^ 20 = 0 then .ok (.fenceRel (FmtFence.read w)) else .error .unusedField
  | 8 => if w / 2 ^ 8 % 2 ^ 20 = 0 then .ok (.fenceFull (FmtFence.read w)) else .error .unusedField
  | 9 => if w / 2 ^ 8 % 2 ^ 20 = 0 then .ok (.fenceFull (FmtFence.read w)) else .error .unusedField
  | 10 => if w / 2 ^ 8 % 2 ^ 20 = 0 then .ok (.fenceFull (FmtFence.read w)) else .error .unusedField
  | 11 => if w / 2 ^ 8 % 2 ^ 20 = 0 then .ok (.fenceFull (FmtFence.read w)) else .error .unusedField
  | 12 => if w / 2 ^ 8 % 2 ^ 20 = 0 then .ok .fenceWred else .error .unusedField
  | 13 => if w / 2 ^ 8 % 2 ^ 20 = 0 then .ok .fenceWrep else .error .unusedField
  | _ => .error .reservedForm

/-- Forms of major 0x35 (R73). -/
def decodeMajor35 (w : Nat) : Except Reject Instr :=
  match w / 2 ^ 28 % 2 ^ 4 with
  | 0 => if w / 2 ^ 8 % 2 ^ 6 = 0 then .ok (.barInit (FmtTwo.read w)) else .error .unusedField
  | 1 => if w / 2 ^ 21 % 2 ^ 7 = 0 then .ok (.barArrive (FmtUn.read w)) else .error .unusedField
  | 2 => .ok (.barWait (FmtA.read w))
  | 3 => if w / 2 ^ 21 % 2 ^ 7 = 0 then .ok (.barArrwait (FmtUn.read w)) else .error .unusedField
  | 4 => if w / 2 ^ 8 % 2 ^ 6 = 0 ∧ w / 2 ^ 21 % 2 ^ 7 = 0 then .ok (.barInval (FmtSrc.read w)) else .error .unusedField
  | 5 => if w / 2 ^ 21 % 2 ^ 7 = 0 then .ok (.barQuery (FmtUn.read w)) else .error .unusedField
  | _ => .error .reservedForm

/-- Forms of major 0x36 (R73). -/
def decodeMajor36 (w : Nat) : Except Reject Instr :=
  match w / 2 ^ 28 % 2 ^ 4 with
  | 0 => if w / 2 ^ 21 % 2 ^ 7 = 0 then .ok (.tagwWaitany (FmtUn.read w)) else .error .unusedField
  | 1 => if w / 2 ^ 21 % 2 ^ 7 = 0 then .ok (.tagwWaitall (FmtUn.read w)) else .error .unusedField
  | 2 => if w / 2 ^ 21 % 2 ^ 7 = 0 then .ok (.tagwFfr (FmtUn.read w)) else .error .unusedField
  | 3 => if w / 2 ^ 8 % 2 ^ 6 = 0 ∧ w / 2 ^ 21 % 2 ^ 7 = 0 then .ok (.tagwClr (FmtSrc.read w)) else .error .unusedField
  | _ => .error .reservedForm

/-- Forms of major 0x39 (R73). -/
def decodeMajor39 (w : Nat) : Except Reject Instr :=
  match w / 2 ^ 28 % 2 ^ 4 with
  | 0 => if w / 2 ^ 21 % 2 ^ 7 = 0 then .ok (.qpop (FmtUn.read w)) else .error .unusedField
  | 1 => if w / 2 ^ 21 % 2 ^ 7 = 0 then .ok (.qpopNb (FmtUn.read w)) else .error .unusedField
  | _ => .error .reservedForm

/-- Forms of major 0x3A (R73). -/
def decodeMajor3A (w : Nat) : Except Reject Instr :=
  match w / 2 ^ 28 % 2 ^ 4 with
  | 0 => .ok (.qpopv (FmtA.read w))
  | 1 => .ok (.qpopvNb (FmtA.read w))
  | _ => .error .reservedForm

/-- Forms of major 0x40 (R73). -/
def decodeMajor40 (w : Nat) : Except Reject Instr :=
  match w / 2 ^ 28 % 2 ^ 4 with
  | 0 => if w / 2 ^ 20 % 2 ^ 1 = 0 then .ok (.vfAdd (FmtV.read w)) else .error .unusedField
  | 1 => if w / 2 ^ 20 % 2 ^ 1 = 0 then .ok (.vfSub (FmtV.read w)) else .error .unusedField
  | 2 => if w / 2 ^ 20 % 2 ^ 1 = 0 then .ok (.vfMul (FmtV.read w)) else .error .unusedField
  | 3 => if w / 2 ^ 20 % 2 ^ 1 = 0 then .ok (.vfDiv (FmtV.read w)) else .error .unusedField
  | 4 => if w / 2 ^ 20 % 2 ^ 1 = 0 then .ok (.vfMin (FmtV.read w)) else .error .unusedField
  | 5 => if w / 2 ^ 20 % 2 ^ 1 = 0 then .ok (.vfMax (FmtV.read w)) else .error .unusedField
  | 6 => if w / 2 ^ 14 % 2 ^ 7 = 0 then .ok (.vfAbs (FmtVUn.read w)) else .error .unusedField
  | 7 => if w / 2 ^ 14 % 2 ^ 7 = 0 then .ok (.vfNeg (FmtVUn.read w)) else .error .unusedField
  | 8 => if w / 2 ^ 20 % 2 ^ 1 = 0 then .ok (.vfCopysign (FmtV.read w)) else .error .unusedField
  | _ => .error .reservedForm

/-- Forms of major 0x41 (R73). -/
def decodeMajor41 (w : Nat) : Except Reject Instr :=
  match w / 2 ^ 28 % 2 ^ 4 with
  | 0 => if w / 2 ^ 20 % 2 ^ 1 = 0 then .ok (.vfmaFma (FmtV.read w)) else .error .unusedField
  | 1 => if w / 2 ^ 20 % 2 ^ 1 = 0 then .ok (.vfmaFms (FmtV.read w)) else .error .unusedField
  | 2 => if w / 2 ^ 20 % 2 ^ 1 = 0 then .ok (.vfmaFnma (FmtV.read w)) else .error .unusedField
  | 3 => if w / 2 ^ 20 % 2 ^ 1 = 0 then .ok (.vfmaFnms (FmtV.read w)) else .error .unusedField
  | _ => .error .reservedForm

/-- Forms of major 0x42 (R73). -/
def decodeMajor42 (w : Nat) : Except Reject Instr :=
  match w / 2 ^ 28 % 2 ^ 4 with
  | 0 => if w / 2 ^ 14 % 2 ^ 7 = 0 then .ok (.vfxFrintN (FmtVUn.read w)) else .error .unusedField
  | 1 => if w / 2 ^ 14 % 2 ^ 7 = 0 then .ok (.vfxFrintZ (FmtVUn.read w)) else .error .unusedField
  | 2 => if w / 2 ^ 14 % 2 ^ 7 = 0 then .ok (.vfxFrintU (FmtVUn.read w)) else .error .unusedField
  | 3 => if w / 2 ^ 14 % 2 ^ 7 = 0 then .ok (.vfxFrintD (FmtVUn.read w)) else .error .unusedField
  | 4 => if w / 2 ^ 14 % 2 ^ 7 = 0 then .ok (.vfxFexpf (FmtVUn.read w)) else .error .unusedField
  | 5 => if w / 2 ^ 20 % 2 ^ 1 = 0 then .ok (.vfxFscale (FmtV.read w)) else .error .unusedField
  | 6 => if w / 2 ^ 14 % 2 ^ 7 = 0 then .ok (.vfxFgetexp (FmtVUn.read w)) else .error .unusedField
  | 7 => if w / 2 ^ 14 % 2 ^ 7 = 0 then .ok (.vfxFgetman (FmtVUn.read w)) else .error .unusedField
  | 8 => if w / 2 ^ 14 % 2 ^ 7 = 0 then .ok (.vfxFrcp (FmtVUn.read w)) else .error .unusedField
  | 9 => if w / 2 ^ 14 % 2 ^ 7 = 0 then .ok (.vfxFrsq (FmtVUn.read w)) else .error .unusedField
  | 10 => if w / 2 ^ 14 % 2 ^ 7 = 0 then .ok (.vfxFclass (FmtVUn.read w)) else .error .unusedField
  | 11 => if w / 2 ^ 14 % 2 ^ 7 = 0 then .ok (.vfxFsqrt (FmtVUn.read w)) else .error .unusedField
  | _ => .error .reservedForm

/-- Forms of major 0x43 (R73). -/
def decodeMajor43 (w : Nat) : Except Reject Instr :=
  match w / 2 ^ 28 % 2 ^ 4 with
  | 0 => if w / 2 ^ 20 % 2 ^ 1 = 0 then .ok (.viAdd (FmtV.read w)) else .error .unusedField
  | 1 => if w / 2 ^ 20 % 2 ^ 1 = 0 then .ok (.viSub (FmtV.read w)) else .error .unusedField
  | 2 => if w / 2 ^ 20 % 2 ^ 1 = 0 then .ok (.viMul (FmtV.read w)) else .error .unusedField
  | 3 => if w / 2 ^ 20 % 2 ^ 1 = 0 then .ok (.viMulh (FmtV.read w)) else .error .unusedField
  | 4 => if w / 2 ^ 20 % 2 ^ 1 = 0 then .ok (.viMin (FmtV.read w)) else .error .unusedField
  | 5 => if w / 2 ^ 20 % 2 ^ 1 = 0 then .ok (.viMax (FmtV.read w)) else .error .unusedField
  | 6 => if w / 2 ^ 20 % 2 ^ 1 = 0 then .ok (.viMinu (FmtV.read w)) else .error .unusedField
  | 7 => if w / 2 ^ 20 % 2 ^ 1 = 0 then .ok (.viMaxu (FmtV.read w)) else .error .unusedField
  | 8 => if w / 2 ^ 20 % 2 ^ 1 = 0 then .ok (.viAnd (FmtV.read w)) else .error .unusedField
  | 9 => if w / 2 ^ 20 % 2 ^ 1 = 0 then .ok (.viOr (FmtV.read w)) else .error .unusedField
  | 10 => if w / 2 ^ 20 % 2 ^ 1 = 0 then .ok (.viXor (FmtV.read w)) else .error .unusedField
  | 11 => if w / 2 ^ 20 % 2 ^ 1 = 0 then .ok (.viShl (FmtV.read w)) else .error .unusedField
  | 12 => if w / 2 ^ 20 % 2 ^ 1 = 0 then .ok (.viShr (FmtV.read w)) else .error .unusedField
  | 13 => if w / 2 ^ 20 % 2 ^ 1 = 0 then .ok (.viSar (FmtV.read w)) else .error .unusedField
  | 14 => if w / 2 ^ 20 % 2 ^ 1 = 0 then .ok (.viAndn (FmtV.read w)) else .error .unusedField
  | _ => .error .reservedForm

/-- Forms of major 0x44 (R73). -/
noncomputable def decodeMajor44 (w : Nat) : Except Reject Instr :=
  match w / 2 ^ 28 % 2 ^ 4 with
  | 0 => if w / 2 ^ 20 % 2 ^ 1 = 0 then .ok (.vcmpFeq (FmtV.read w)) else .error .unusedField
  | 1 => if w / 2 ^ 20 % 2 ^ 1 = 0 then .ok (.vcmpFne (FmtV.read w)) else .error .unusedField
  | 2 => if w / 2 ^ 20 % 2 ^ 1 = 0 then .ok (.vcmpFlt (FmtV.read w)) else .error .unusedField
  | 3 => if w / 2 ^ 20 % 2 ^ 1 = 0 then .ok (.vcmpFle (FmtV.read w)) else .error .unusedField
  | 4 => if w / 2 ^ 20 % 2 ^ 1 = 0 then .ok (.vcmpFunord (FmtV.read w)) else .error .unusedField
  | 5 => if w / 2 ^ 20 % 2 ^ 1 = 0 then .ok (.vcmpIeq (FmtV.read w)) else .error .unusedField
  | 6 => if w / 2 ^ 20 % 2 ^ 1 = 0 then .ok (.vcmpIne (FmtV.read w)) else .error .unusedField
  | 7 => if w / 2 ^ 20 % 2 ^ 1 = 0 then .ok (.vcmpIlt (FmtV.read w)) else .error .unusedField
  | 8 => if w / 2 ^ 20 % 2 ^ 1 = 0 then .ok (.vcmpIle (FmtV.read w)) else .error .unusedField
  | 9 => if w / 2 ^ 20 % 2 ^ 1 = 0 then .ok (.vcmpIltu (FmtV.read w)) else .error .unusedField
  | _ => .error .reservedForm

/-- Forms of major 0x45 (R73). -/
noncomputable def decodeMajor45 (w : Nat) : Except Reject Instr :=
  match w / 2 ^ 28 % 2 ^ 4 with
  | 0 => if w / 2 ^ 20 % 2 ^ 1 = 0 ∧ w / 2 ^ 27 % 2 ^ 1 = 0 then .ok (.vmskSel (FmtVV.read w)) else .error .unusedField
  | 1 => if w / 2 ^ 20 % 2 ^ 1 = 0 ∧ w / 2 ^ 27 % 2 ^ 1 = 0 then .ok (.vmskMand (FmtVV.read w)) else .error .unusedField
  | 2 => if w / 2 ^ 20 % 2 ^ 1 = 0 ∧ w / 2 ^ 27 % 2 ^ 1 = 0 then .ok (.vmskMor (FmtVV.read w)) else .error .unusedField
  | 3 => if w / 2 ^ 20 % 2 ^ 1 = 0 ∧ w / 2 ^ 27 % 2 ^ 1 = 0 then .ok (.vmskMxor (FmtVV.read w)) else .error .unusedField
  | 4 => if w / 2 ^ 20 % 2 ^ 8 = 0 then .ok (.vmskMnot (FmtVA.read w)) else .error .unusedField
  | 5 => if w / 2 ^ 20 % 2 ^ 8 = 0 then .ok (.vmskMpop (FmtVA.read w)) else .error .unusedField
  | 6 => if w / 2 ^ 20 % 2 ^ 8 = 0 then .ok (.vmskMfirst (FmtVA.read w)) else .error .unusedField
  | 7 => if w / 2 ^ 20 % 2 ^ 8 = 0 then .ok (.vmskMset (FmtVA.read w)) else .error .unusedField
  | _ => .error .reservedForm

/-- Forms of major 0x47 (R73). -/
noncomputable def decodeMajor47 (w : Nat) : Except Reject Instr :=
  match w / 2 ^ 28 % 2 ^ 4 with
  | 0 => if w / 2 ^ 20 % 2 ^ 1 = 0 ∧ w / 2 ^ 27 % 2 ^ 1 = 0 then .ok (.vpermBcast (FmtVV.read w)) else .error .unusedField
  | 1 => if w / 2 ^ 20 % 2 ^ 1 = 0 ∧ w / 2 ^ 27 % 2 ^ 1 = 0 then .ok (.vpermShup (FmtVV.read w)) else .error .unusedField
  | 2 => if w / 2 ^ 20 % 2 ^ 1 = 0 ∧ w / 2 ^ 27 % 2 ^ 1 = 0 then .ok (.vpermShdn (FmtVV.read w)) else .error .unusedField
  | 3 => if w / 2 ^ 20 % 2 ^ 1 = 0 ∧ w / 2 ^ 27 % 2 ^ 1 = 0 then .ok (.vpermPerm (FmtVV.read w)) else .error .unusedField
  | 4 => if w / 2 ^ 20 % 2 ^ 8 = 0 then .ok (.vpermComp (FmtVA.read w)) else .error .unusedField
  | 5 => if w / 2 ^ 20 % 2 ^ 8 = 0 then .ok (.vpermExpd (FmtVA.read w)) else .error .unusedField
  | 6 => if w / 2 ^ 14 % 2 ^ 7 = 0 ∧ w / 2 ^ 27 % 2 ^ 1 = 0 then .ok (.vpermRev (FmtVB.read w)) else .error .unusedField
  | _ => .error .reservedForm

/-- Forms of major 0x48 (R73). -/
noncomputable def decodeMajor48 (w : Nat) : Except Reject Instr :=
  match w / 2 ^ 28 % 2 ^ 4 with
  | 0 => if w / 2 ^ 20 % 2 ^ 7 = 0 then .ok (.vredFsum (FmtVRed.read w)) else .error .unusedField
  | 1 => if w / 2 ^ 20 % 2 ^ 7 = 0 then .ok (.vredFmax (FmtVRed.read w)) else .error .unusedField
  | 2 => if w / 2 ^ 20 % 2 ^ 7 = 0 then .ok (.vredFmin (FmtVRed.read w)) else .error .unusedField
  | 3 => if w / 2 ^ 20 % 2 ^ 7 = 0 then .ok (.vredIsum (FmtVRed.read w)) else .error .unusedField
  | 4 => if w / 2 ^ 20 % 2 ^ 7 = 0 then .ok (.vredImax (FmtVRed.read w)) else .error .unusedField
  | 5 => if w / 2 ^ 20 % 2 ^ 7 = 0 then .ok (.vredImin (FmtVRed.read w)) else .error .unusedField
  | 8 => if w / 2 ^ 20 % 2 ^ 1 = 0 ∧ w / 2 ^ 27 % 2 ^ 1 = 0 then .ok (.vredFsumQ (FmtVV.read w)) else .error .unusedField
  | 9 => if w / 2 ^ 20 % 2 ^ 1 = 0 ∧ w / 2 ^ 27 % 2 ^ 1 = 0 then .ok (.vredFmaxQ (FmtVV.read w)) else .error .unusedField
  | 10 => if w / 2 ^ 20 % 2 ^ 1 = 0 ∧ w / 2 ^ 27 % 2 ^ 1 = 0 then .ok (.vredFminQ (FmtVV.read w)) else .error .unusedField
  | 11 => if w / 2 ^ 20 % 2 ^ 1 = 0 ∧ w / 2 ^ 27 % 2 ^ 1 = 0 then .ok (.vredIsumQ (FmtVV.read w)) else .error .unusedField
  | 12 => if w / 2 ^ 20 % 2 ^ 1 = 0 ∧ w / 2 ^ 27 % 2 ^ 1 = 0 then .ok (.vredImaxQ (FmtVV.read w)) else .error .unusedField
  | 13 => if w / 2 ^ 20 % 2 ^ 1 = 0 ∧ w / 2 ^ 27 % 2 ^ 1 = 0 then .ok (.vredIminQ (FmtVV.read w)) else .error .unusedField
  | _ => .error .reservedForm

/-- Forms of major 0x49 (R73). -/
noncomputable def decodeMajor49 (w : Nat) : Except Reject Instr :=
  match w / 2 ^ 28 % 2 ^ 4 with
  | 0 => if w / 2 ^ 20 % 2 ^ 1 = 0 ∧ w / 2 ^ 27 % 2 ^ 1 = 0 then .ok (.vmovVtos (FmtVV.read w)) else .error .unusedField
  | 1 => if w / 2 ^ 20 % 2 ^ 1 = 0 ∧ w / 2 ^ 27 % 2 ^ 1 = 0 then .ok (.vmovStov (FmtVV.read w)) else .error .unusedField
  | 2 => if w / 2 ^ 14 % 2 ^ 7 = 0 ∧ w / 2 ^ 27 % 2 ^ 1 = 0 then .ok (.vmovVmv (FmtVB.read w)) else .error .unusedField
  | _ => .error .reservedForm

/-- Forms of major 0x4A (R73). -/
noncomputable def decodeMajor4A (w : Nat) : Except Reject Instr :=
  match w / 2 ^ 28 % 2 ^ 4 with
  | 0 => if w / 2 ^ 20 % 2 ^ 8 = 0 then .ok (.laneClaim (FmtVA.read w)) else .error .unusedField
  | 1 => if w / 2 ^ 8 % 2 ^ 20 = 0 then .ok .laneRel else .error .unusedField
  | 2 => if w / 2 ^ 8 % 2 ^ 20 = 0 then .ok .laneSync else .error .unusedField
  | 3 => if w / 2 ^ 14 % 2 ^ 14 = 0 then .ok (.laneQuery (FmtDst.read w)) else .error .unusedField
  | _ => .error .reservedForm

/-- Forms of major 0x58 (R73). -/
noncomputable def decodeMajor58 (w : Nat) : Except Reject Instr :=
  match w / 2 ^ 27 % 2 ^ 5 with
  | 0 => .ok (.copy (FmtCopy.read w))
  | 1 => .ok (.copyFo (FmtCopy.read w))
  | _ => .error .reservedForm

/-- Forms of major 0x5D (R73). -/
noncomputable def decodeMajor5D (w : Nat) : Except Reject Instr :=
  match w / 2 ^ 28 % 2 ^ 4 with
  | 0 => if w / 2 ^ 21 % 2 ^ 7 = 0 then .ok (.jwaitPoll (FmtUn.read w)) else .error .unusedField
  | 1 => if w / 2 ^ 21 % 2 ^ 7 = 0 then .ok (.jwaitSleep (FmtUn.read w)) else .error .unusedField
  | 2 => .ok (.jwaitAny (FmtA.read w))
  | _ => .error .reservedForm

/-- Forms of major 0x63 (R73). -/
noncomputable def decodeMajor63 (w : Nat) : Except Reject Instr :=
  match w / 2 ^ 28 % 2 ^ 4 with
  | 0 => .ok (.tnextNext (FmtA.read w))
  | 1 => if w / 2 ^ 8 % 2 ^ 6 = 0 ∧ w / 2 ^ 21 % 2 ^ 7 = 0 then .ok (.tnextClose (FmtSrc.read w)) else .error .unusedField
  | _ => .error .reservedForm

/-- Forms of major 0x68 (R73). -/
noncomputable def decodeMajor68 (w : Nat) : Except Reject Instr :=
  match w / 2 ^ 28 % 2 ^ 4 with
  | 0 => .ok (.ctalloc (FmtA.read w))
  | 1 => .ok (.ctallocNb (FmtA.read w))
  | _ => .error .reservedForm

/-- Forms of major 0x6A (R73). -/
noncomputable def decodeMajor6A (w : Nat) : Except Reject Instr :=
  match w / 2 ^ 28 % 2 ^ 4 with
  | 0 => if w / 2 ^ 8 % 2 ^ 6 = 0 ∧ w / 2 ^ 21 % 2 ^ 7 = 0 then .ok (.ctretireCommit (FmtSrc.read w)) else .error .unusedField
  | 1 => if w / 2 ^ 8 % 2 ^ 6 = 0 ∧ w / 2 ^ 21 % 2 ^ 7 = 0 then .ok (.ctretireDiscard (FmtSrc.read w)) else .error .unusedField
  | _ => .error .reservedForm

/-- Forms of major 0x6D (R73). -/
noncomputable def decodeMajor6D (w : Nat) : Except Reject Instr :=
  match w / 2 ^ 28 % 2 ^ 4 with
  | 0 => .ok (.sspawnOrdered (FmtA.read w))
  | 1 => .ok (.sspawnUnordered (FmtA.read w))
  | _ => .error .reservedForm

/-- The 32-bit instruction of a word whose major lies below 0x40 (R73). -/
def decodeLow (w : Nat) : Except Reject Instr :=
  match w / 2 % 128 with
  | 0x01 => decodeMajor01 w
  | 0x02 => decodeMajor02 w
  | 0x03 => decodeMajor03 w
  | 0x04 => decodeMajor04 w
  | 0x05 => .ok (.addi (FmtI.read w))
  | 0x06 => .ok (.andi (FmtI.read w))
  | 0x07 => .ok (.ori (FmtI.read w))
  | 0x08 => .ok (.xori (FmtI.read w))
  | 0x09 => decodeMajor09 w
  | 0x0A => .ok (.slti (FmtI.read w))
  | 0x0B => .ok (.sltiu (FmtI.read w))
  | 0x0C => .ok (.ldi (FmtLi.read w))
  | 0x0D => .ok (.ldih (FmtLi.read w))
  | 0x0E => decodeMajor0E w
  | 0x0F => decodeMajor0F w
  | 0x10 => decodeMajor10 w
  | 0x11 => decodeMajor11 w
  | 0x12 => decodeMajor12 w
  | 0x13 => if w / 2 ^ 14 % 2 ^ 7 = 0 then (if wellFormed (.mfs (FmtMfs.read w)) then .ok (.mfs (FmtMfs.read w)) else .error .reservedValue) else .error .unusedField
  | 0x14 => if w / 2 ^ 8 % 2 ^ 6 = 0 then (if wellFormed (.mts (FmtMts.read w)) then .ok (.mts (FmtMts.read w)) else .error .reservedValue) else .error .unusedField
  | 0x15 => decodeMajor15 w
  | 0x16 => decodeMajor16 w
  | 0x17 => .ok (.jmp (FmtJ.read w))
  | 0x18 => .ok (.call (FmtJ.read w))
  | 0x19 => decodeMajor19 w
  | 0x1A => if w / 2 ^ 9 % 2 ^ 5 = 0 then (if wellFormed (.loop (FmtLoop.read w)) then .ok (.loop (FmtLoop.read w)) else .error .reservedValue) else .error .unusedField
  | 0x1B => if w / 2 ^ 9 % 2 ^ 5 = 0 then (if wellFormed (.iloop (FmtLoop.read w)) then .ok (.iloop (FmtLoop.read w)) else .error .reservedValue) else .error .unusedField
  | 0x1C => if w / 2 ^ 27 % 2 ^ 5 = 0 then (if wellFormed (.pfx (FmtP.read w)) then .ok (.pfx (FmtP.read w)) else .error .reservedValue) else .error .unusedField
  | 0x1D => decodeMajor1D w
  | 0x1E => decodeMajor1E w
  | 0x1F => decodeMajor1F w
  | 0x20 => (if wellFormed (.ld (FmtM.read w)) then .ok (.ld (FmtM.read w)) else .error .reservedValue)
  | 0x21 => (if wellFormed (.ldu (FmtM.read w)) then .ok (.ldu (FmtM.read w)) else .error .reservedValue)
  | 0x22 => (if wellFormed (.st (FmtM.read w)) then .ok (.st (FmtM.read w)) else .error .reservedValue)
  | 0x23 => if w / 2 ^ 31 % 2 ^ 1 = 0 then .ok (.ldx (FmtLdx.read w)) else .error .unusedField
  | 0x24 => decodeMajor24 w
  | 0x25 => decodeMajor25 w
  | 0x26 => decodeMajor26 w
  | 0x27 => decodeMajor27 w
  | 0x28 => decodeMajor28 w
  | 0x29 => decodeMajor29 w
  | 0x2A => .ok (.lda (FmtLda.read w))
  | 0x2B => if w / 2 ^ 31 % 2 ^ 1 = 0 then .ok (.stl (FmtStl.read w)) else .error .unusedField
  | 0x2C => if w / 2 ^ 28 % 2 ^ 4 = 0 then .ok (.ldb (FmtLdb.read w)) else .error .unusedField
  | 0x2D => if w / 2 ^ 27 % 2 ^ 5 = 0 then .ok (.stb (FmtStb.read w)) else .error .unusedField
  | 0x2E => if w / 2 ^ 8 % 2 ^ 6 = 0 ∧ w / 2 ^ 23 % 2 ^ 3 = 0 then .ok (.pref (FmtPref.read w)) else .error .unusedField
  | 0x30 => if w / 2 ^ 8 % 2 ^ 6 = 0 ∧ w / 2 ^ 30 % 2 ^ 2 = 0 then .ok (.send (FmtSend.read w)) else .error .unusedField
  | 0x31 => if w / 2 ^ 21 % 2 ^ 11 = 0 then .ok (.recv (FmtUn.read w)) else .error .unusedField
  | 0x32 => if w / 2 ^ 14 % 2 ^ 18 = 0 then .ok (.rprobe (FmtDst.read w)) else .error .unusedField
  | 0x33 => if w / 2 ^ 30 % 2 ^ 2 = 0 then .ok (.put (FmtPut.read w)) else .error .unusedField
  | 0x34 => if w / 2 ^ 30 % 2 ^ 2 = 0 then .ok (.mput (FmtPut.read w)) else .error .unusedField
  | 0x35 => decodeMajor35 w
  | 0x36 => decodeMajor36 w
  | 0x37 => if w / 2 ^ 28 % 2 ^ 4 = 0 then .ok (.spawn (FmtA.read w)) else .error .unusedField
  | 0x38 => if w / 2 ^ 28 % 2 ^ 4 = 0 then .ok (.qpush (FmtA.read w)) else .error .unusedField
  | 0x39 => decodeMajor39 w
  | 0x3A => decodeMajor3A w
  | 0x3B => if w / 2 ^ 21 % 2 ^ 11 = 0 then .ok (.launch (FmtUn.read w)) else .error .unusedField
  | 0x3C => if w / 2 ^ 8 % 2 ^ 6 = 0 ∧ w / 2 ^ 28 % 2 ^ 4 = 0 then .ok (.signal (FmtTwo.read w)) else .error .unusedField
  | 0x3D => if w / 2 ^ 28 % 2 ^ 4 = 0 then .ok (.swait (FmtA.read w)) else .error .unusedField
  | _ => .error .reservedMajor

/-- The 32-bit instruction of a word whose major lies at or above 0x40 (R73). -/
noncomputable def decodeHigh (w : Nat) : Except Reject Instr :=
  match w / 2 % 128 with
  | 0x40 => decodeMajor40 w
  | 0x41 => decodeMajor41 w
  | 0x42 => decodeMajor42 w
  | 0x43 => decodeMajor43 w
  | 0x44 => decodeMajor44 w
  | 0x45 => decodeMajor45 w
  | 0x46 => if w / 2 ^ 18 % 2 ^ 3 = 0 then (if wellFormed (.vcvt (FmtCvt.read w)) then .ok (.vcvt (FmtCvt.read w)) else .error .reservedValue) else .error .unusedField
  | 0x47 => decodeMajor47 w
  | 0x48 => decodeMajor48 w
  | 0x49 => decodeMajor49 w
  | 0x4A => decodeMajor4A w
  | 0x4B => if w / 2 ^ 20 % 2 ^ 1 = 0 then (if wellFormed (.vld (FmtVM.read w)) then .ok (.vld (FmtVM.read w)) else .error .reservedValue) else .error .unusedField
  | 0x4D => if w / 2 ^ 20 % 2 ^ 1 = 0 then (if wellFormed (.vst (FmtVM.read w)) then .ok (.vst (FmtVM.read w)) else .error .reservedValue) else .error .unusedField
  | 0x4C => if w / 2 ^ 20 % 2 ^ 1 = 0 ∧ w / 2 ^ 28 % 2 ^ 4 = 0 then .ok (.vlds (FmtV.read w)) else .error .unusedField
  | 0x4E => if w / 2 ^ 20 % 2 ^ 1 = 0 ∧ w / 2 ^ 28 % 2 ^ 4 = 0 then .ok (.vsts (FmtV.read w)) else .error .unusedField
  | 0x4F => if w / 2 ^ 20 % 2 ^ 1 = 0 ∧ w / 2 ^ 28 % 2 ^ 4 = 0 then .ok (.vgat (FmtV.read w)) else .error .unusedField
  | 0x50 => if w / 2 ^ 20 % 2 ^ 1 = 0 ∧ w / 2 ^ 28 % 2 ^ 4 = 0 then .ok (.vsca (FmtV.read w)) else .error .unusedField
  | 0x51 => if w / 2 ^ 20 % 2 ^ 7 = 0 then .ok (.vldb (FmtVBit.read w)) else .error .unusedField
  | 0x52 => if w / 2 ^ 20 % 2 ^ 7 = 0 then .ok (.vstb (FmtVBit.read w)) else .error .unusedField
  | 0x58 => decodeMajor58 w
  | 0x59 => if w / 2 ^ 28 % 2 ^ 4 = 0 then .ok (.mmld (FmtA.read w)) else .error .unusedField
  | 0x5A => if w / 2 ^ 28 % 2 ^ 4 = 0 then .ok (.mmsw (FmtA.read w)) else .error .unusedField
  | 0x5B => if w / 2 ^ 31 % 2 ^ 1 = 0 then .ok (.mmrun (FmtRun.read w)) else .error .unusedField
  | 0x5C => if w / 2 ^ 28 % 2 ^ 4 = 0 then .ok (.mmst (FmtA.read w)) else .error .unusedField
  | 0x5D => decodeMajor5D w
  | 0x5E => if w / 2 ^ 28 % 2 ^ 4 = 0 then .ok (.gath (FmtA.read w)) else .error .unusedField
  | 0x5F => if w / 2 ^ 28 % 2 ^ 4 = 0 then .ok (.coll (FmtA.read w)) else .error .unusedField
  | 0x60 => if w / 2 ^ 21 % 2 ^ 11 = 0 then .ok (.tcall (FmtUn.read w)) else .error .unusedField
  | 0x61 => if w / 2 ^ 28 % 2 ^ 4 = 0 then .ok (.tans (FmtA.read w)) else .error .unusedField
  | 0x62 => if w / 2 ^ 8 % 2 ^ 6 = 0 ∧ w / 2 ^ 21 % 2 ^ 11 = 0 then .ok (.tret (FmtSrc.read w)) else .error .unusedField
  | 0x63 => decodeMajor63 w
  | 0x64 => if w / 2 ^ 21 % 2 ^ 11 = 0 then .ok (.twait (FmtUn.read w)) else .error .unusedField
  | 0x65 => if w / 2 ^ 8 % 2 ^ 24 = 0 then .ok .tend else .error .unusedField
  | 0x66 => if w / 2 ^ 21 % 2 ^ 11 = 0 then .ok (.tabol (FmtUn.read w)) else .error .unusedField
  | 0x67 => if w / 2 ^ 28 % 2 ^ 4 = 0 then .ok (.tstat (FmtA.read w)) else .error .unusedField
  | 0x68 => decodeMajor68 w
  | 0x69 => if w / 2 ^ 8 % 2 ^ 6 = 0 ∧ w / 2 ^ 21 % 2 ^ 11 = 0 then .ok (.ctenter (FmtSrc.read w)) else .error .unusedField
  | 0x6A => decodeMajor6A w
  | 0x6B => if w / 2 ^ 28 % 2 ^ 4 = 0 then .ok (.ctphase (FmtA.read w)) else .error .unusedField
  | 0x6C => if w / 2 ^ 28 % 2 ^ 4 = 0 then .ok (.ctq (FmtA.read w)) else .error .unusedField
  | 0x6D => decodeMajor6D w
  | 0x6E => if w / 2 ^ 8 % 2 ^ 6 = 0 ∧ w / 2 ^ 28 % 2 ^ 4 = 0 then .ok (.bop (FmtTwo.read w)) else .error .unusedField
  | 0x6F => if w / 2 ^ 8 % 2 ^ 24 = 0 then .ok .bopend else .error .unusedField
  | 0x70 => if w / 2 ^ 8 % 2 ^ 24 = 0 then .ok .sdone else .error .unusedField
  | 0x71 => if w / 2 ^ 8 % 2 ^ 6 = 0 ∧ w / 2 ^ 21 % 2 ^ 11 = 0 then .ok (.sabort (FmtSrc.read w)) else .error .unusedField
  | 0x72 => if w / 2 ^ 8 % 2 ^ 24 = 0 then .ok .uend else .error .unusedField
  | 0x73 => if w / 2 ^ 8 % 2 ^ 6 = 0 ∧ w / 2 ^ 21 % 2 ^ 11 = 0 then .ok (.cload (FmtSrc.read w)) else .error .unusedField
  | _ => .error .reservedMajor

/-- The 32-bit instruction of a word with bit 0 set (R73, R77). -/
noncomputable def decodeWord (w : Nat) : Except Reject Instr := if w / 2 % 128 < 0x40 then decodeLow w else decodeHigh w

/-- The 16-bit instruction of a halfword with bit 0 clear (R69, R79). -/
noncomputable def decodeHalf (w : Nat) : Except Reject Instr :=
  if w = 0 then .error .zeroHalfword else
  match w / 2 % 16 with
  | 0 => .ok (.vaddF32 (FmtN.read w))
  | 1 => .ok (.vsubF32 (FmtN.read w))
  | 2 => .ok (.vmulF32 (FmtN.read w))
  | 3 => .ok (.vmaxF32 (FmtN.read w))
  | 4 => .ok (.vminF32 (FmtN.read w))
  | 5 => .ok (.vaddI32 (FmtN.read w))
  | 6 => .ok (.vsubI32 (FmtN.read w))
  | 7 => .ok (.vand (FmtN.read w))
  | 8 => .ok (.vor (FmtN.read w))
  | 9 => .ok (.vxor (FmtN.read w))
  | 10 => .ok (.vshlI32 (FmtN.read w))
  | 11 => .ok (.vshrI32 (FmtN.read w))
  | 12 => .ok (.vmv (FmtN.read w))
  | 13 => .ok (.vabsF32 (FmtN.read w))
  | 14 => .ok (.vnegF32 (FmtN.read w))
  | 15 => .ok (.vmulI32 (FmtN.read w))
  | _ => .error .reservedForm

/-- The instruction at the head of a list of bytes, and the bytes after it (R55). -/
noncomputable def decode : List Byte → Except Reject (Instr × List Byte)
  | b0 :: b1 :: t =>
    if b0.toNat % 2 = 0 then (decodeHalf (b0.toNat + 256 * b1.toNat)).map (fun i => (i, t))
    else match t with
      | b2 :: b3 :: u => (decodeWord (b0.toNat + 256 * b1.toNat + 65536 * b2.toNat + 16777216 * b3.toNat)).map (fun i => (i, u))
      | _ => .error .truncated
  | _ => .error .truncated

/-- The word of an instruction (R58, R73); 0 for a device event, which has no encoding. -/
def encode : Instr → Nat
  | .aluAdd o => 0x00000003 + o.bits
  | .aluSub o => 0x10000003 + o.bits
  | .aluAnd o => 0x20000003 + o.bits
  | .aluOr o => 0x30000003 + o.bits
  | .aluXor o => 0x40000003 + o.bits
  | .aluShl o => 0x50000003 + o.bits
  | .aluShr o => 0x60000003 + o.bits
  | .aluSar o => 0x70000003 + o.bits
  | .aluSlt o => 0x80000003 + o.bits
  | .aluSltu o => 0x90000003 + o.bits
  | .aluMin o => 0xA0000003 + o.bits
  | .aluMax o => 0xB0000003 + o.bits
  | .aluMinu o => 0xC0000003 + o.bits
  | .aluMaxu o => 0xD0000003 + o.bits
  | .aluAndn o => 0xE0000003 + o.bits
  | .aluOrn o => 0xF0000003 + o.bits
  | .aluwAddw o => 0x00000005 + o.bits
  | .aluwSubw o => 0x10000005 + o.bits
  | .aluwShlw o => 0x20000005 + o.bits
  | .aluwShrw o => 0x30000005 + o.bits
  | .aluwSarw o => 0x40000005 + o.bits
  | .mulMul o => 0x00000007 + o.bits
  | .mulMulh o => 0x10000007 + o.bits
  | .mulMulhu o => 0x20000007 + o.bits
  | .mulDiv o => 0x30000007 + o.bits
  | .mulDivu o => 0x40000007 + o.bits
  | .mulRem o => 0x50000007 + o.bits
  | .mulRemu o => 0x60000007 + o.bits
  | .bitsClz o => 0x00000009 + o.bits
  | .bitsCtz o => 0x10000009 + o.bits
  | .bitsPopc o => 0x20000009 + o.bits
  | .bitsBrev o => 0x30000009 + o.bits
  | .bitsBext o => 0x40000009 + o.bits
  | .bitsBdep o => 0x50000009 + o.bits
  | .bitsSext o => 0x60000009 + o.bits
  | .addi o => 0x0000000B + o.bits
  | .andi o => 0x0000000D + o.bits
  | .ori o => 0x0000000F + o.bits
  | .xori o => 0x00000011 + o.bits
  | .shli o => 0x00000013 + o.bits
  | .shri o => 0x08000013 + o.bits
  | .sari o => 0x10000013 + o.bits
  | .roti o => 0x18000013 + o.bits
  | .slti o => 0x00000015 + o.bits
  | .sltiu o => 0x00000017 + o.bits
  | .ldi o => 0x00000019 + o.bits
  | .ldih o => 0x0000001B + o.bits
  | .addrMkloc o => 0x0000001D + o.bits
  | .addrMkrel o => 0x1000001D + o.bits
  | .addrGetx o => 0x2000001D + o.bits
  | .addrGety o => 0x3000001D + o.bits
  | .addrGetc o => 0x4000001D + o.bits
  | .addrGetdie o => 0x5000001D + o.bits
  | .sfpFaddS o => 0x0000001F + o.bits
  | .sfpFsubS o => 0x1000001F + o.bits
  | .sfpFmulS o => 0x2000001F + o.bits
  | .sfpFdivS o => 0x3000001F + o.bits
  | .sfpFsqrtS o => 0x4000001F + o.bits
  | .sfpFminS o => 0x5000001F + o.bits
  | .sfpFmaxS o => 0x6000001F + o.bits
  | .sfpFaddD o => 0x8000001F + o.bits
  | .sfpFsubD o => 0x9000001F + o.bits
  | .sfpFmulD o => 0xA000001F + o.bits
  | .sfpFdivD o => 0xB000001F + o.bits
  | .sfpFsqrtD o => 0xC000001F + o.bits
  | .sfpFminD o => 0xD000001F + o.bits
  | .sfpFmaxD o => 0xE000001F + o.bits
  | .sfmaFmaS o => 0x00000021 + o.bits
  | .sfmaFmsS o => 0x10000021 + o.bits
  | .sfmaFmaD o => 0x80000021 + o.bits
  | .sfmaFmsD o => 0x90000021 + o.bits
  | .scvtDS o => 0x00000023 + o.bits
  | .scvtSD o => 0x10000023 + o.bits
  | .scvtSL o => 0x20000023 + o.bits
  | .scvtDL o => 0x30000023 + o.bits
  | .scvtLS o => 0x40000023 + o.bits
  | .scvtLD o => 0x50000023 + o.bits
  | .scvtSLu o => 0x60000023 + o.bits
  | .scvtDLu o => 0x70000023 + o.bits
  | .scvtLuS o => 0x80000023 + o.bits
  | .scvtLuD o => 0x90000023 + o.bits
  | .scvtBfS o => 0xA0000023 + o.bits
  | .scvtSBf o => 0xB0000023 + o.bits
  | .scvtHS o => 0xC0000023 + o.bits
  | .scvtSH o => 0xD0000023 + o.bits
  | .scmpFeqS o => 0x00000025 + o.bits
  | .scmpFltS o => 0x10000025 + o.bits
  | .scmpFleS o => 0x20000025 + o.bits
  | .scmpFunordS o => 0x30000025 + o.bits
  | .scmpFeqD o => 0x80000025 + o.bits
  | .scmpFltD o => 0x90000025 + o.bits
  | .scmpFleD o => 0xA0000025 + o.bits
  | .scmpFunordD o => 0xB0000025 + o.bits
  | .mfs o => 0x00000027 + o.bits
  | .mts o => 0x00000029 + o.bits
  | .brEq o => 0x0000002B + o.bits
  | .brNe o => 0x0000012B + o.bits
  | .brLt o => 0x0000022B + o.bits
  | .brGe o => 0x0000032B + o.bits
  | .brLtu o => 0x0000042B + o.bits
  | .brGeu o => 0x0000052B + o.bits
  | .bzEq0 o => 0x0000002D + o.bits
  | .bzNe0 o => 0x0000012D + o.bits
  | .bzLt0 o => 0x0000022D + o.bits
  | .bzGe0 o => 0x0000032D + o.bits
  | .bzGt0 o => 0x0000042D + o.bits
  | .bzLe0 o => 0x0000052D + o.bits
  | .jmp o => 0x0000002F + o.bits
  | .call o => 0x00000031 + o.bits
  | .jr o => 0x00000033 + o.bits
  | .callr o => 0x10000033 + o.bits
  | .ret => 0x20000033
  | .loop o => 0x00000035 + o.bits
  | .iloop o => 0x00000037 + o.bits
  | .iloopClaimReply _ => 0
  | .pfx o => 0x00000039 + o.bits
  | .strandStart o => 0x0000003B + o.bits
  | .strandHalt => 0x1000003B
  | .strandSlot o => 0x2000003B + o.bits
  | .strandQbind o => 0x3000003B + o.bits
  | .trap o => 0x0000003D + o.bits
  | .brk o => 0x4000003D + o.bits
  | .sysc o => 0x8000003D + o.bits
  | .eret => 0xC000003D
  | .sysopTlbinv o => 0x0000003F + o.bits
  | .sysopStopcore o => 0x1000003F + o.bits
  | .sysopResumecore o => 0x2000003F + o.bits
  | .sysopSample o => 0x3000003F + o.bits
  | .sysopDump o => 0x4000003F + o.bits
  | .ld o => 0x00000041 + o.bits
  | .ldu o => 0x00000043 + o.bits
  | .st o => 0x00000045 + o.bits
  | .ldx o => 0x00000047 + o.bits
  | .ldfeLeave o => 0x00600049 + o.bits
  | .ldfeTake o => 0x00E00049 + o.bits
  | .ldfeState o => 0x01600049 + o.bits
  | .stfeFill o => 0x0060004B + o.bits
  | .stfeForce o => 0x00E0004B + o.bits
  | .stfeEmpty o => 0x0160004B + o.bits
  | .feOpAtHome _ => 0
  | .waiterRetryBackoff _ => 0
  | .amoSwap o => 0x0000004D + o.bits
  | .amoCas o => 0x2000004D + o.bits
  | .amoAdd o => 0x4000004D + o.bits
  | .amoAnd o => 0x6000004D + o.bits
  | .amoOr o => 0x8000004D + o.bits
  | .amoXor o => 0xA000004D + o.bits
  | .amoMax o => 0xC000004D + o.bits
  | .amoMin o => 0xE000004D + o.bits
  | .amo2Maxu o => 0x0000004F + o.bits
  | .amo2Minu o => 0x2000004F + o.bits
  | .amo2FaddS o => 0x4000004F + o.bits
  | .amo2FaddBf o => 0x6000004F + o.bits
  | .redAdd o => 0x00000051 + o.bits
  | .redAnd o => 0x20000051 + o.bits
  | .redOr o => 0x40000051 + o.bits
  | .redXor o => 0x60000051 + o.bits
  | .redMax o => 0x80000051 + o.bits
  | .redMin o => 0xA0000051 + o.bits
  | .redFaddS o => 0xC0000051 + o.bits
  | .redFaddBf o => 0xE0000051 + o.bits
  | .fenceAcq o => 0x00000053 + o.bits
  | .fenceRel o => 0x40000053 + o.bits
  | .fenceFull o => 0x80000053 + o.bits
  | .fenceWred => 0xC0000053
  | .fenceWrep => 0xD0000053
  | .lda o => 0x00000055 + o.bits
  | .stl o => 0x00000057 + o.bits
  | .ldb o => 0x00000059 + o.bits
  | .stb o => 0x0000005B + o.bits
  | .pref o => 0x0000005D + o.bits
  | .send o => 0x00000061 + o.bits
  | .recv o => 0x00000063 + o.bits
  | .rprobe o => 0x00000065 + o.bits
  | .put o => 0x00000067 + o.bits
  | .mput o => 0x00000069 + o.bits
  | .messageArrival _ => 0
  | .putDelivery _ => 0
  | .mputVisit _ => 0
  | .barInit o => 0x0000006B + o.bits
  | .barArrive o => 0x1000006B + o.bits
  | .barWait o => 0x2000006B + o.bits
  | .barArrwait o => 0x3000006B + o.bits
  | .barInval o => 0x4000006B + o.bits
  | .barQuery o => 0x5000006B + o.bits
  | .remoteBarOp _ => 0
  | .tagwWaitany o => 0x0000006D + o.bits
  | .tagwWaitall o => 0x1000006D + o.bits
  | .tagwFfr o => 0x2000006D + o.bits
  | .tagwClr o => 0x3000006D + o.bits
  | .spawn o => 0x0000006F + o.bits
  | .spawnRequest _ => 0
  | .qpush o => 0x00000071 + o.bits
  | .qpop o => 0x00000073 + o.bits
  | .qpopNb o => 0x10000073 + o.bits
  | .qpopv o => 0x00000075 + o.bits
  | .qpopvNb o => 0x10000075 + o.bits
  | .queueRefill _ _ => 0
  | .launch o => 0x00000077 + o.bits
  | .signal o => 0x00000079 + o.bits
  | .swait o => 0x0000007B + o.bits
  | .vfAdd o => 0x00000081 + o.bits
  | .vfSub o => 0x10000081 + o.bits
  | .vfMul o => 0x20000081 + o.bits
  | .vfDiv o => 0x30000081 + o.bits
  | .vfMin o => 0x40000081 + o.bits
  | .vfMax o => 0x50000081 + o.bits
  | .vfAbs o => 0x60000081 + o.bits
  | .vfNeg o => 0x70000081 + o.bits
  | .vfCopysign o => 0x80000081 + o.bits
  | .vfmaFma o => 0x00000083 + o.bits
  | .vfmaFms o => 0x10000083 + o.bits
  | .vfmaFnma o => 0x20000083 + o.bits
  | .vfmaFnms o => 0x30000083 + o.bits
  | .vfxFrintN o => 0x00000085 + o.bits
  | .vfxFrintZ o => 0x10000085 + o.bits
  | .vfxFrintU o => 0x20000085 + o.bits
  | .vfxFrintD o => 0x30000085 + o.bits
  | .vfxFexpf o => 0x40000085 + o.bits
  | .vfxFscale o => 0x50000085 + o.bits
  | .vfxFgetexp o => 0x60000085 + o.bits
  | .vfxFgetman o => 0x70000085 + o.bits
  | .vfxFrcp o => 0x80000085 + o.bits
  | .vfxFrsq o => 0x90000085 + o.bits
  | .vfxFclass o => 0xA0000085 + o.bits
  | .vfxFsqrt o => 0xB0000085 + o.bits
  | .viAdd o => 0x00000087 + o.bits
  | .viSub o => 0x10000087 + o.bits
  | .viMul o => 0x20000087 + o.bits
  | .viMulh o => 0x30000087 + o.bits
  | .viMin o => 0x40000087 + o.bits
  | .viMax o => 0x50000087 + o.bits
  | .viMinu o => 0x60000087 + o.bits
  | .viMaxu o => 0x70000087 + o.bits
  | .viAnd o => 0x80000087 + o.bits
  | .viOr o => 0x90000087 + o.bits
  | .viXor o => 0xA0000087 + o.bits
  | .viShl o => 0xB0000087 + o.bits
  | .viShr o => 0xC0000087 + o.bits
  | .viSar o => 0xD0000087 + o.bits
  | .viAndn o => 0xE0000087 + o.bits
  | .vcmpFeq o => 0x00000089 + o.bits
  | .vcmpFne o => 0x10000089 + o.bits
  | .vcmpFlt o => 0x20000089 + o.bits
  | .vcmpFle o => 0x30000089 + o.bits
  | .vcmpFunord o => 0x40000089 + o.bits
  | .vcmpIeq o => 0x50000089 + o.bits
  | .vcmpIne o => 0x60000089 + o.bits
  | .vcmpIlt o => 0x70000089 + o.bits
  | .vcmpIle o => 0x80000089 + o.bits
  | .vcmpIltu o => 0x90000089 + o.bits
  | .vmskSel o => 0x0000008B + o.bits
  | .vmskMand o => 0x1000008B + o.bits
  | .vmskMor o => 0x2000008B + o.bits
  | .vmskMxor o => 0x3000008B + o.bits
  | .vmskMnot o => 0x4000008B + o.bits
  | .vmskMpop o => 0x5000008B + o.bits
  | .vmskMfirst o => 0x6000008B + o.bits
  | .vmskMset o => 0x7000008B + o.bits
  | .vcvt o => 0x0000008D + o.bits
  | .vpermBcast o => 0x0000008F + o.bits
  | .vpermShup o => 0x1000008F + o.bits
  | .vpermShdn o => 0x2000008F + o.bits
  | .vpermPerm o => 0x3000008F + o.bits
  | .vpermComp o => 0x4000008F + o.bits
  | .vpermExpd o => 0x5000008F + o.bits
  | .vpermRev o => 0x6000008F + o.bits
  | .vredFsum o => 0x00000091 + o.bits
  | .vredFmax o => 0x10000091 + o.bits
  | .vredFmin o => 0x20000091 + o.bits
  | .vredIsum o => 0x30000091 + o.bits
  | .vredImax o => 0x40000091 + o.bits
  | .vredImin o => 0x50000091 + o.bits
  | .vredFsumQ o => 0x80000091 + o.bits
  | .vredFmaxQ o => 0x90000091 + o.bits
  | .vredFminQ o => 0xA0000091 + o.bits
  | .vredIsumQ o => 0xB0000091 + o.bits
  | .vredImaxQ o => 0xC0000091 + o.bits
  | .vredIminQ o => 0xD0000091 + o.bits
  | .vmovVtos o => 0x00000093 + o.bits
  | .vmovStov o => 0x10000093 + o.bits
  | .vmovVmv o => 0x20000093 + o.bits
  | .laneClaim o => 0x00000095 + o.bits
  | .laneRel => 0x10000095
  | .laneSync => 0x20000095
  | .laneQuery o => 0x30000095 + o.bits
  | .laneGrant _ => 0
  | .shrinkTakesEffect _ => 0
  | .vld o => 0x00000097 + o.bits
  | .vst o => 0x0000009B + o.bits
  | .vlds o => 0x00000099 + o.bits
  | .vsts o => 0x0000009D + o.bits
  | .vgat o => 0x0000009F + o.bits
  | .vsca o => 0x000000A1 + o.bits
  | .vldb o => 0x000000A3 + o.bits
  | .vstb o => 0x000000A5 + o.bits
  | .vaddF32 o => 0x00000000 + o.bits
  | .vsubF32 o => 0x00000002 + o.bits
  | .vmulF32 o => 0x00000004 + o.bits
  | .vmaxF32 o => 0x00000006 + o.bits
  | .vminF32 o => 0x00000008 + o.bits
  | .vaddI32 o => 0x0000000A + o.bits
  | .vsubI32 o => 0x0000000C + o.bits
  | .vand o => 0x0000000E + o.bits
  | .vor o => 0x00000010 + o.bits
  | .vxor o => 0x00000012 + o.bits
  | .vshlI32 o => 0x00000014 + o.bits
  | .vshrI32 o => 0x00000016 + o.bits
  | .vmv o => 0x00000018 + o.bits
  | .vabsF32 o => 0x0000001A + o.bits
  | .vnegF32 o => 0x0000001C + o.bits
  | .vmulI32 o => 0x0000001E + o.bits
  | .copy o => 0x000000B1 + o.bits
  | .copyFo o => 0x080000B1 + o.bits
  | .mmld o => 0x000000B3 + o.bits
  | .mmsw o => 0x000000B5 + o.bits
  | .mmrun o => 0x000000B7 + o.bits
  | .mmst o => 0x000000B9 + o.bits
  | .jwaitPoll o => 0x000000BB + o.bits
  | .jwaitSleep o => 0x100000BB + o.bits
  | .jwaitAny o => 0x200000BB + o.bits
  | .gath o => 0x000000BD + o.bits
  | .coll o => 0x000000BF + o.bits
  | .enginePlacement _ => 0
  | .jobStart _ _ => 0
  | .jobCompletion _ _ => 0
  | .followonPlacement _ _ => 0
  | .collRoundClose _ _ => 0
  | .ebudRefill => 0
  | .tcall o => 0x000000C1 + o.bits
  | .tans o => 0x000000C3 + o.bits
  | .tret o => 0x000000C5 + o.bits
  | .tnextNext o => 0x000000C7 + o.bits
  | .tnextClose o => 0x100000C7 + o.bits
  | .twait o => 0x000000C9 + o.bits
  | .tend => 0x000000CB
  | .tabol o => 0x000000CD + o.bits
  | .tstat o => 0x000000CF + o.bits
  | .galleyHomeRequest _ _ _ => 0
  | .continuationInvocation _ _ _ => 0
  | .coneCountUpdate _ => 0
  | .groupMerge _ => 0
  | .completionNotice _ => 0
  | .groupFailure _ => 0
  | .failureNotice _ => 0
  | .galleySoftError _ _ _ => 0
  | .ctalloc o => 0x000000D1 + o.bits
  | .ctallocNb o => 0x100000D1 + o.bits
  | .ctenter o => 0x000000D3 + o.bits
  | .ctretireCommit o => 0x000000D5 + o.bits
  | .ctretireDiscard o => 0x100000D5 + o.bits
  | .ctphase o => 0x000000D7 + o.bits
  | .ctq o => 0x000000D9 + o.bits
  | .tagGrant _ => 0
  | .sspawnOrdered o => 0x000000DB + o.bits
  | .sspawnUnordered o => 0x100000DB + o.bits
  | .bop o => 0x000000DD + o.bits
  | .bopend => 0x000000DF
  | .sdone => 0x000000E1
  | .sabort o => 0x000000E3 + o.bits
  | .uend => 0x000000E5
  | .cload o => 0x000000E7 + o.bits
  | .specTaskDispatch _ _ _ _ => 0
  | .specTaskCommit _ _ _ => 0
  | .specAbort _ _ _ => 0
  | .undoReplay _ _ _ _ => 0
  | .strandWake _ => 0
  | .longLatencyResult _ _ => 0
  | .loadDataReturn _ _ => 0
  | .homeReply _ => 0
  | .nonreturningUpdateApplied _ => 0
  | .homeAccess _ => 0
  | .replayRetry _ _ => 0
  | .pendingWriteDrain _ => 0
  | .deviceReset => 0
  | .bootStage1 _ => 0
  | .bootStage2 _ _ => 0
  | .compositorReportTimeout _ => 0
  | .imageLoad _ => 0
  | .graphUpload _ _ => 0
  | .graphFree _ _ => 0
  | .trigger _ _ => 0
  | .instanceLeavesPool _ => 0
  | .leaseResidency _ _ => 0
  | .taskDispatch _ => 0
  | .taskCompletion _ _ => 0
  | .instanceEnd _ _ => 0
  | .pageMove _ _ _ _ _ => 0
  | .saggarForm _ => 0
  | .saggarDissolve _ => 0
  | .tenantDrop _ => 0
  | .preemptSave _ _ => 0
  | .preemptResume _ => 0
  | .debugStop _ => 0
  | .debugResume _ => 0
  | .samplePulse => 0
  | .hostPortAccess _ => 0
  | .fabricMessageReceive _ => 0
  | .fabricAck _ _ _ => 0
  | .linkFailure _ => 0
  | .linkUp _ _ _ => 0
  | .peerChannelRetire _ _ _ _ _ => 0
  | .class3CreditRefill => 0
  | .repairTableReload _ _ _ => 0
  | .keyLoad _ _ => 0
  | .spdmMeasurement => 0
  | .frequencyStep _ _ => 0
  | .relockEnd _ => 0
  | .powerStateEntry _ _ => 0
  | .powerStateExit _ _ => 0
  | .partitionWordWrite _ _ => 0
  | .energyClassWrite _ _ => 0
  | .registerWrite _ _ _ => 0
  | .nonInstruction _ => 0
  | .fetchFault _ _ => 0
  | .storeAcknowledgement _ => 0
  | .coneAcknowledgement _ => 0
  | .dirtyLogService _ _ _ => 0
  | .pageTableEdit _ _ _ => 0

/-- Whether an instruction takes 16 bits (R55, R69). -/
def isShort : Instr → Bool
  | .vaddF32 _ => true
  | .vsubF32 _ => true
  | .vmulF32 _ => true
  | .vmaxF32 _ => true
  | .vminF32 _ => true
  | .vaddI32 _ => true
  | .vsubI32 _ => true
  | .vand _ => true
  | .vor _ => true
  | .vxor _ => true
  | .vshlI32 _ => true
  | .vshrI32 _ => true
  | .vmv _ => true
  | .vabsF32 _ => true
  | .vnegF32 _ => true
  | .vmulI32 _ => true
  | _ => false

/-- Length of an instruction in bytes (R55). -/
def Instr.len (i : Instr) : Nat := if isShort i then 2 else 4

/-- The bytes of an instruction as the hardware stores them (R55). -/
def encodeBytes (i : Instr) : List Byte :=
  if isShort i then [BitVec.ofNat 8 (encode i), BitVec.ofNat 8 (encode i / 256)]
  else [BitVec.ofNat 8 (encode i), BitVec.ofNat 8 (encode i / 256), BitVec.ofNat 8 (encode i / 65536), BitVec.ofNat 8 (encode i / 16777216)]

/-- The instruction the decoder reads from a word of the opcode table, with zeros above its bits. -/
noncomputable def decodeTableWord (nbits w : Nat) : Option Instr :=
  let v := w % 2 ^ nbits
  match decode [BitVec.ofNat 8 v, BitVec.ofNat 8 (v / 256), BitVec.ofNat 8 (v / 65536), BitVec.ofNat 8 (v / 16777216)] with
  | .ok (i, _) => some i
  | .error _ => none

end Sys2Proof
end

