-- ==== Sys2Proof/Config.lean ====
section
/-! DEFINITION. What the device fixes (counts and sizes of R10 to R16) and the FREE VALUES: constants
without a body, of which nothing can be evaluated or proved (log 1, log 2). -/

namespace Sys2Proof.Config

/-- A value the manual does not state, drawn by a counter of State (log 1). -/
opaque freeValue : Nat → Word

/-- How far a die's reading of TIME lags the device's TIME, 0 to 2 ns (R438, log 2). -/
opaque timeSkew : Nat → Fin 3

/-- The port and the peer through which a frame of tier peer is reached: the spec gives no map (R387, R414, log 1). -/
opaque peerOf : Nat → Nat × Nat

/-- Cores of the device (R13). -/
def cores : Nat := 3840
/-- Clusters of the device (R12). -/
def clusters : Nat := 480
/-- Strand slots of a core (R16). -/
def slots : Nat := 16
/-- Lane groups of a pool (R14). -/
def laneGroups : Nat := 16
/-- Entries of a queue register (R256). -/
def queueDepth : Nat := 8
/-- Messages of a mailbox (R193). -/
def mailboxDepth : Nat := 8
/-- Entries of a replay queue (R175). -/
def replayDepth : Nat := 16
/-- One-word requests of a core in flight (R177). -/
def requestLimit : Nat := 48
/-- Non-returning updates of a strand outstanding (R189). -/
def pendLimit : Nat := 16
/-- Entries of a cluster's job queue (R356). -/
def jobQueueDepth : Nat := 16
/-- Entries of a quoin table (R282). -/
def quoinDepth : Nat := 32
/-- Listed waiters of a home's word (R185). -/
def waiterDepth : Nat := 8
/-- Bytes of a scratchpad (R274). -/
def scratchBytes : Nat := 192 * 1024
/-- Bytes of a shared slice (R275). -/
def sliceBytes : Nat := 1536 * 1024
/-- Bytes of one HBM stack (R280). -/
def stackBytes : Nat := 36 * 2 ^ 30
/-- Bytes of HBM (R20). -/
def hbmBytes : Nat := 432 * 2 ^ 30
/-- Bytes of LPDDR6 (R20). -/
def lpddrBytes : Nat := 1024 * 2 ^ 30
/-- Group records of one Cone (R309). -/
def coneRecords : Nat := 262144
/-- Entries of a cluster TLB (R390). -/
def tlbEntries : Nat := 256
/-- Entries of a die's second-level TLB (R390). -/
def tlb2Entries : Nat := 16384
/-- Entries of a task queue's ring (R381). -/
def ringEntries : Nat := 512
/-- Instances and tasks the pending-launch pool holds on chip (R375). -/
def poolEntries : Nat := 16384
/-- Records of a core's trace memory (R434). -/
def traceRecords : Nat := 2048
/-- The signature of a list of measurement blocks under the device identity key, as numbers: index and content of each (R429). No rule gives the key. -/
opaque signature : List (Nat × List Nat) → Nat
/-- EBUD as firmware writes it: RATE 10,000, CAP 65,536, BAL 65,536 (R362). -/
def ebudReset : Word := BitVec.ofNat 64 (10000 * 2 ^ 48 + 65536 * 2 ^ 24 + 65536)
/-- The band map at reset (R358). -/
def bandMapReset : Word := 0xFEDCBA98#64
/-- The slice partition word as firmware writes it: PLAIN 8, GALLEY 6, CELL 6, QRING 2, LOCK 2 (R276). -/
def partitionReset : Word := BitVec.ofNat 64 (8 + 6 * 2 ^ 5 + 6 * 2 ^ 10 + 2 * 2 ^ 15 + 2 * 2 ^ 20)
/-- The energy class word as firmware writes it: 8, 4, 2, 1 (R364). -/
def energyReset : Word := 0x08040201#64
/-- LATTOL at reset (R443). -/
def lattolReset : Word := 0xFFFFFFFF#64
/-- The core multiplier after reset (R18). -/
def multReset : Nat := 18
/-- Length of a relock in ns (R440). -/
def relockNs : Nat := 1500

end Sys2Proof.Config
end

