-- ==== Sys2Proof/Machine/Map.lean ====
section
/-! DEFINITION. Sparse tables: lists of (key, value) pairs with strictly rising keys. Memory, register files and
every numbered piece of state are such tables. -/

namespace Sys2Proof.Tbl

/-- The value listed under key k. -/
def find {α : Type} : List (Nat × α) → Nat → Option α
  | [], _ => none
  | (j, v) :: t, k => if j = k then some v else find t k

/-- The value under key k, or d where none is listed. -/
def get {α : Type} (t : List (Nat × α)) (k : Nat) (d : α) : α := (find t k).getD d

/-- Lists v under key k, replacing what was there. -/
def put {α : Type} : List (Nat × α) → Nat → α → List (Nat × α)
  | [], k, v => [(k, v)]
  | (j, w) :: t, k, v =>
    if k < j then (k, v) :: (j, w) :: t else if j = k then (k, v) :: t else (j, w) :: put t k v

/-- Removes key k. -/
def del {α : Type} : List (Nat × α) → Nat → List (Nat × α)
  | [], _ => []
  | (j, w) :: t, k => if j = k then t else (j, w) :: del t k

/-- Writes v under key k in a table whose unlisted keys read d: writing d removes the entry. -/
def set {α : Type} [DecidableEq α] (t : List (Nat × α)) (k : Nat) (v d : α) : List (Nat × α) :=
  if v = d then del t k else put t k v

/-- Applies f to the value under key k. -/
def upd {α : Type} (t : List (Nat × α)) (k : Nat) (d : α) (f : α → α) : List (Nat × α) := put t k (f (get t k d))

/-- Keys at or above b, and each at least one above the last. -/
def sortedFrom {α : Type} : Nat → List (Nat × α) → Bool
  | _, [] => true
  | b, (j, _) :: t => decide (b ≤ j) && sortedFrom (j + 1) t

/-- The canonical form of a table whose unlisted keys read d: keys strictly rise and no entry holds d. -/
def wf {α : Type} [DecidableEq α] (d : α) (t : List (Nat × α)) : Bool :=
  sortedFrom 0 t && t.all (fun e => decide (e.2 ≠ d))

end Sys2Proof.Tbl

namespace Sys2Proof

/-- Replaces the element at place k of a list. -/
def setAt {α : Type} : List α → Nat → α → List α
  | [], _, _ => []
  | _ :: t, 0, v => v :: t
  | x :: t, k + 1, v => x :: setAt t k v

/-- Removes the element at place k of a list. -/
def dropAt {α : Type} : List α → Nat → List α
  | [], _ => []
  | _ :: t, 0 => t
  | x :: t, k + 1 => x :: dropAt t k

/-- Applies f to every element that p picks. -/
def modIf {α : Type} (l : List α) (p : α → Bool) (f : α → α) : List α := l.map (fun x => if p x then f x else x)

/-- The place of the first element that p picks. -/
def placeOf {α : Type} (p : α → Bool) : List α → Option Nat
  | [] => none
  | x :: t => if p x then some 0 else (placeOf p t).map (· + 1)

end Sys2Proof
end

