-- ==== Sys2Proof/Machine/Parts.lean ====
section
/-! DEFINITION. The parts of the state: strands, cores, clusters, dies, saggars and what travels between them, as
plain data. Each field cites the rule of spec/ that gives it. -/

namespace Sys2Proof.Machine

/-- Named waits of R252, each with what it waits for. -/
inductive Wait where
  /-- An empty register, by operand code (R65, R253). -/
  | reg (code : Nat)
  /-- A full out-window register as destination (R254). -/
  | room (code : Nat)
  /-- A pop from an empty queue (R256). -/
  | pop (q : Nat)
  /-- A push to a full queue (R256). -/
  | push (q : Nat)
  /-- A full/empty operation at its home (R185). -/
  | fullEmpty
  /-- `recv` of an empty mailbox (R194). -/
  | recv (m : Nat)
  /-- A barrier phase (R198). -/
  | barrier
  /-- `tagw` (R199). -/
  | tag (mask : Word) (all : Bool)
  /-- `jwait` over the ids from a to b along the cycle (R215). -/
  | job (a b : Nat)
  /-- `twait` (R232). -/
  | twait
  /-- A task queue's ring is empty (R202, R203). -/
  | ring (q : Nat)
  /-- Context-tag allocation (R233). -/
  | ctalloc
  /-- A completion signal (R207). -/
  | signal
  /-- A lane claim (R261). -/
  | lane
  deriving DecidableEq, Repr

/-- Whether a strand may issue (R251). -/
inductive Status where
  | ready
  | parked (w : Wait)
  /-- Out of the barrel rotation, awaiting the reply or result of an operation already sent (R405, first row). -/
  | out
  /-- Out of the barrel rotation before its instruction can be sent (R405, second row): rechecked at each cycle. -/
  | held
  deriving DecidableEq, Repr

/-- How a source read is undone (R449). -/
inductive ReadUndo where
  | nothing
  | bit (code : Nat)
  | head (q : Nat) (bad : Bool)
  deriving DecidableEq, Repr

/-- A source the instruction in progress has read. -/
structure Read where
  (val : Word) (undo : ReadUndo)
  deriving DecidableEq, Repr

/-- What a home or unit answers to the instruction in progress: a value, further words, and a cause raised
from the reply (0 for none), R403. -/
structure Reply where
  (val : Word) (more : List Word) (cause : Nat)
  deriving DecidableEq, Repr

/-- The formats, rounding mode, sat and scale value an instruction captures (R99). -/
structure Gov where
  (on : Bool) (fa fb fd rm : Nat) (sat : Bool) (scale : Word)
  deriving DecidableEq, Repr

/-- A result still to be written (R110, R176, R147): destination code, value so far, parts still out, and how a load's
bits are extended, whether it is a load, whether it is an acquire, the location of the first poisoned byte it has met, and the address and
location of its first byte (R178). -/
structure Pend where
  (id d : Nat) (val : Word) (parts width : Nat) (sx load acq : Bool) (bad : Option Nat) (addr : Word) (loc : Nat)
  deriving DecidableEq, Repr

/-- Element-wise floating operations (R153, R156). -/
inductive FOp where
  | add | sub | mul | div | min | max | abs | neg | copysign
  | frintN | frintZ | frintU | frintD | fexpf | fscale | fgetexp | fgetman | frcp | frsq | fclass | fsqrt
  | fma | fms | fnma | fnms
  deriving DecidableEq, Repr

/-- Integer lane operations (R159). -/
inductive IOp where
  | add | sub | mul | mulh | min | max | minu | maxu | and | or | xor | shl | shr | sar | andn
  deriving DecidableEq, Repr

/-- Compares (R160). -/
inductive COp where
  | feq | fne | flt | fle | funord | ieq | ine | ilt | ile | iltu
  deriving DecidableEq, Repr

/-- Reductions (R104, R165). -/
inductive ROp where
  | fsum | fmax | fmin | isum | imax | imin
  deriving DecidableEq, Repr

/-- What a lane instruction does to the lanes. -/
inductive LaneFn where
  | fp (f : FOp) | int (f : IOp) | cmp (f : COp) | red (f : ROp)
  | sel | mand | mor | mxor | mnot | mset | mpop | mfirst
  | cvt (src dst : Nat)
  | bcast | shup | shdn | perm | comp | expd | rev
  | vtos | stov | vmv
  deriving DecidableEq, Repr

/-- A lane instruction with its scalar sources and formats captured (R146, R147): `sb` is a broadcast b or scalar b,
`sa` a scalar a, `pend` the scalar result it owes. -/
structure LaneOp where
  (fn : LaneFn) (masked : Bool) (d a b : Nat) (sb sa : Option Word) (gov : Gov) (pend : Nat)
  deriving DecidableEq, Repr

/-- The iteration fetcher (R134, R135); `cnt` is the address of CNT. -/
structure Fetcher where
  (level i total cnt f minc p n0 n1 n2 n3 : Nat)
  deriving DecidableEq, Repr

/-- A Galley group (R304). Serial 0 is no group. -/
structure Grp where
  (die ser : Nat)
  deriving DecidableEq, Repr

/-- The Galley invocation a strand runs (R228): its group (serial 0 when it counts in none) and the failed entry that
owes it a failure pin (R316). -/
structure Invocation where
  (grp : Grp) (errorOf : Option Nat)
  deriving DecidableEq, Repr

/-- The speculative task a strand belongs to (R338): instance and sequence number. -/
structure SpecRef where
  (inst seq : Nat)
  deriving DecidableEq, Repr

/-- What has come of one element of a lane load (R167): its bits, whether it met poison, its address. -/
structure LaneIn where
  (val : Lane) (bad : Bool) (addr : Word)
  deriving DecidableEq, Repr

/-- A strand slot (R16, R246) and, while it is live, its strand. `laneIn` holds the elements of the lane load in progress, keyed as v; `jammed`: a
store of it stands at a home that it must leave for the core's full replay queue (R175); `heldOn` names the addresses of the parked stores, or of the store
without room in the replay queue, for which it was held last (R175, R192, R395). -/
structure Strand where
  (live : Bool) (dying : Bool) (uid : Nat) (pc : Word)
  (s : List (Nat × Word)) (sFull : BitVec 32) (wo : List (Nat × Word)) (woFull : BitVec 8)
  (st epc ecause eaddr istate0 istate1 tvec : Word)
  (lc lb le : List (Nat × Word)) (fetcher : Option Fetcher)
  (ctx : Nat) (grp : Grp) (tspace seq : Nat) (undob undop heapb heapl heapo : Word)
  (pend : Nat) (priv : Bool)
  (g : Nat) (v : List (Nat × Lane)) (m : List (Nat × BitVec 256)) (shrink : Option Nat)
  (laneQ : List LaneOp) (laneLoads : Nat) (laneAcq : Bool) (laneIn : List (Nat × LaneIn)) (jammed : Bool) (heldOn : List Nat)
  (status : Status) (cur : Option Instr) (stage : Nat) (reads : List Read) (work : List Nat) (reply : Option Reply)
  (pending : List Pend) (nextIssue : Nat)
  (sag : Nat) (task : Option Nat) (bodies : List Nat) (invoc : Option Invocation) (spec : Option SpecRef)
  (inverse : Bool) (bop : Bool) (rnWait : Bool)
  deriving DecidableEq, Repr

/-- A free slot at device reset. -/
def Strand.empty : Strand where
  live := false
  dying := false
  uid := 0
  pc := 0
  s := []
  sFull := BitVec.allOnes 32
  wo := []
  woFull := 0
  st := 0
  epc := 0
  ecause := 0
  eaddr := 0
  istate0 := 0
  istate1 := 0
  tvec := 0
  lc := []
  lb := []
  le := []
  fetcher := none
  ctx := 0
  grp := ⟨0, 0⟩
  tspace := 0
  seq := 0
  undob := 0
  undop := 0
  heapb := 0
  heapl := 0
  heapo := 0
  pend := 0
  priv := false
  g := 0
  v := []
  m := []
  shrink := none
  laneQ := []
  laneLoads := 0
  laneAcq := false
  laneIn := []
  jammed := false
  heldOn := []
  status := .ready
  cur := none
  stage := 0
  reads := []
  work := []
  reply := none
  pending := []
  nextIssue := 0
  sag := 0
  task := none
  bodies := []
  invoc := none
  spec := none
  inverse := false
  bop := false
  rnWait := false

/-- A queue register q0 to q7 (R256, R257): entries oldest first, writer and reader slot when bound, slots
parked on it oldest first, and which entries are poisoned (R417): an entry without a mark is not. -/
structure Queue where
  (entries : List Word) (bound : Option (Nat × Nat)) (poppers pushers : List Nat) (marks : List Bool)
  deriving DecidableEq, Repr

/-- A named barrier (R197) and the strands waiting on its current phase, each with its uid. -/
structure Bar where
  (st n a ph : Nat) (waiters : List (StrandRef × Nat))
  deriving DecidableEq, Repr

/-- Which home serves a location (R279). -/
inductive HomeKind where
  | scratch | slice | hbm | lpddr | fabric | core | galley
  deriving DecidableEq, Repr

/-- A home: its kind, the unit and the bank or channel. -/
structure Home where
  (kind : HomeKind) (unit bank : Nat)
  deriving DecidableEq, Repr

/-- Atomic operations (R186). -/
inductive AOp where
  | swap | cas | add | and | or | xor | max | min | maxu | minu | faddS | faddBf
  deriving DecidableEq, Repr

/-- Full/empty operations (R184). -/
inductive FeOp where
  | leave | take | state | fill | force | empty
  deriving DecidableEq, Repr

/-- Barrier operations that travel to another core (R198, R265). -/
inductive BarOp where
  | init (n : Nat) | arrive | wait (p : Nat) | arrwait | inval | query
  deriving DecidableEq, Repr

/-- Where a load's data goes: bits of a pending result (shifted), a lane, or the iteration fetcher. -/
inductive LoadDst where
  | reg (pend shift bits lo : Nat)
  | lane (reg lane shift bits lo : Nat)
  deriving DecidableEq, Repr

/-- A registered continuation (R227, R228): the registrant's core, pc, saved words, group and inherited state. -/
structure Cont where
  (core : Nat) (kpc : Word) (saves : List Word) (grp : Grp) (ctx tspace : Nat) (tvec heapb heapl heapo : Word)
  (rm : Word) (priv : Bool) (task : Option Nat)
  deriving DecidableEq, Repr

/-- What a message asks of its home. -/
inductive Body where
  /-- Read of the bytes (R179); `direct` reads take base memory. -/
  | load (dst : LoadDst)
  /-- Write of the bytes (R179). -/
  | store (bytes : List Byte)
  /-- Masked write of one 32-bit bank word (R182, R170), which may be the second word of its element. -/
  | bits (val mask : Lane) (second : Bool)
  /-- Atomic or reduction (R186); `ret` says whether a reply is due. -/
  | atomic (op : AOp) (b cmp : Word) (ret : Bool)
  /-- Full/empty operation (R184). -/
  | fe (op : FeOp) (data : Word)
  /-- `swait` (R207). -/
  | swait (bound : Word)
  /-- Claim of an iteration fetcher (R134). -/
  | claim (total f minc p : Nat)
  /-- `put` of a dword with the counter that follows, by location (R195). -/
  | put (data : Word) (counter : Option Nat)
  /-- `mput`: location pairs of the destinations still to visit (R196). -/
  | mput (data : Word) (dests : List (Nat × Option Nat))
  /-- Mailbox message (R193). -/
  | mail (m : Nat) (data : Word)
  /-- Barrier operation at another core (R198). -/
  | bar (k : Nat) (op : BarOp)
  /-- `spawn` at the target core (R200): pc, arg0, arg1, and the spawner's ST.RM, TSPACE and mode. -/
  | spawn (pc a0 a1 : Word) (rm tspace : Nat) (priv : Bool)
  /-- `tcall` (R226): table space, pc, argument words, their number, answer words, and the continuation it may register. -/
  | tcall (space : Nat) (pc : Word) (args : List Word) (nargs aw : Nat) (cont : Cont)
  /-- `tans` (R229). -/
  | tans (handle : Nat) (w0 w1 : Word) (grp : Grp) (ret : Bool)
  /-- Byte of a cell of the retiring context `src` (R333). -/
  | commit (src : Nat) (b : Byte)
  deriving DecidableEq, Repr

/-- An access or message in flight to its home (R286, R287): who issued it, when (id), its context, its
virtual or mesh address, its location, size and home, the first message of its instruction (op), and the TIME its NI accepted it (R415). -/
structure Msg where
  (id core slot uid sag : Nat) (task : Option Nat) (spec : Option SpecRef) (tc ctx : Nat) (va loc size : Nat) (home : Home) (body : Body) (op time : Nat)
  deriving DecidableEq, Repr

/-- What an applied message sends back: a load's bits come with the location of the first poisoned byte they met. -/
inductive AckBody where
  | data (dst : LoadDst) (val : Word) (poison : Option Nat)
  | reply (r : Reply)
  | store
  | update
  deriving DecidableEq, Repr

/-- A reply, acknowledgement or result in flight to its strand, and whether it still holds one of the core's requests (R177). -/
structure Ack where
  (id core slot uid : Nat) (body : AckBody) (req : Bool)
  deriving DecidableEq, Repr

/-- Why a store is parked in the replay queue (R410). -/
inductive ReplayWhy where
  | writeProtect | dirtyLog | cellFull
  deriving DecidableEq, Repr

/-- An entry of a core's replay queue (R175): the access, or the elements of a lane store to one page (R167), and the heap registers its
strand had. -/
structure Replay where
  (msgs : List Msg) (why : ReplayWhy) (heap : Word × Word × Word)
  deriving DecidableEq, Repr

/-- A listed waiter of a home's word (R185, R207), and whether it was returned to its NI for a retry. -/
structure Waiter where
  (msg : Msg) (retry : Bool)
  deriving DecidableEq, Repr

/-- Kinds of engine job (R211). -/
inductive JobKind where
  | copy | mmld | mmsw | mmrun | mmst | gath | coll
  deriving DecidableEq, Repr

/-- A descriptor as an engine instruction read it. Fields that a kind lacks are 0. -/
structure JobDesc where
  (kind : JobKind) (src dst len pitch rows acc0 bands : Nat) (flag : Bool) (n esz isz group op fmt npart scope : Nat) (base : Bool)
  (follow : Nat)
  deriving DecidableEq, Repr

/-- A registered range (R282): resolved addresses of its first and last byte, role, job and core. -/
structure Range where
  (first last : Nat) (dst : Bool) (job core : Nat)
  deriving DecidableEq, Repr

/-- Progress of a job. `reserved` is a follow-on whose copy has not finished (R217). -/
inductive JobState where
  | reserved | waiting | running | withdrawn
  deriving DecidableEq, Repr

/-- A byte that a job has still to write (R213): the row it belongs to, the address that names it, its location and value. -/
structure EWrite where
  (row named loc : Nat) (val : Byte)
  deriving DecidableEq, Repr

/-- A job in a cluster's queue (R356): placement serial, issuer and its speculative task, id, tag, formats, next row, rows read and not yet used, writes still to be
performed, destination words it covers wholly (with whether they become poisoned, R216), and failure status. A `coll` whose round has
closed stands at the row that numbers the round: the serial of its oldest participant. `replayed`: the rows below it were caught at an earlier withdrawal and are
replayed from the spill ring (R368). -/
structure Job where
  (seq core slot uid id tag sag : Nat) (task : Option Nat) (spec : Option SpecRef) (ctx : Nat) (heap : Word × Word × Word) (desc : JobDesc) (gov : Gov) (state : JobState)
  (row : Nat) (caught : List (Nat × List Byte)) (writes : List EWrite) (covers : List (Nat × Bool)) (fail : Word) (replayed : Nat)
  deriving DecidableEq, Repr

/-- A weight plane (R220): codes keyed k * 16 + n, and their recorded format. -/
structure Plane where
  (codes : List (Nat × Nat)) (fmt : Nat)
  deriving DecidableEq, Repr

/-- A matrix band (R220): planes, accumulators keyed row * 16 + n, and whether they hold INT32. -/
structure Band where
  (shadow active : Plane) (acc : List (Nat × Lane)) (intMode : Bool)
  deriving DecidableEq, Repr

/-- A band after reset (R359): code 0 with format M8, +0, FP32. -/
def Band.clear : Band := ⟨⟨[], 3⟩, ⟨[], 3⟩, [], false⟩

/-- A TLB entry (R390): saggar, first virtual address, page size as a power of two, leaf entry. -/
structure Tlb where
  (sag va bits : Nat) (leaf : Word)
  deriving DecidableEq, Repr

/-- A claimant parked in `lane.claim`, with the arithmetic cycle in which its claim reached the pool (R261). -/
structure Claimant where
  (who : StrandRef) (n cycle : Nat)
  deriving DecidableEq, Repr

/-- A claim joins the waiters of its pool: in order of arrival, those of one arithmetic cycle by core number, then slot (R261). -/
def Claimant.join (x : Claimant) : List Claimant → List Claimant
  | [] => [x]
  | y :: t =>
    if decide (x.cycle = y.cycle) && (decide (x.who.core < y.who.core) || (decide (x.who.core = y.who.core) && decide (x.who.slot < y.who.slot))) then x :: y :: t
    else y :: Claimant.join x t

/-- Who waits at the tag allocator (R327): a strand's `ctalloc` or a dispatch. -/
inductive TagReq where
  | strand (r : StrandRef) (uid parent phase index : Nat)
  | task (inst seq : Nat)
  deriving DecidableEq, Repr

/-- What a pre-emption takes out of its cluster and off the homes (R208, R367, R406); the rest of the core stays in its slots until the
resume: claims by slot, uid and groups, withdrawn jobs and their ranges, bands, waiters at homes, barrier waits (slot, core, barrier, phase), allocator requests,
task-queue waits (slot, queue), `twait` waits (slot, handle), claimants at the pool. -/
structure CoreSave where
  (claims : List (Nat × Nat × Nat)) (jobs : List Job) (ranges : List Range) (bands : List (Nat × Band)) (waits : List Waiter)
  (bars : List (Nat × Nat × Nat × Nat)) (tags : List TagReq) (rings : List (Nat × Nat)) (twaits : List (Nat × Nat)) (lanes : List Claimant)
  deriving DecidableEq, Repr

/-- What a saved core takes along when it leaves its saggar (R267, R281, R367, R406): its strands, queues and bindings, barriers, mailboxes (R208), replay entries,
tags, and the pending statuses of its withdrawn jobs. -/
structure CoreImage where
  (slots : List (Nat × Strand)) (queues : List (Nat × Queue)) (bars : List (Nat × Bar)) (mail : List (Nat × List Word)) (replay : List Replay) (tags : Word)
  (tagCount : List (Nat × Nat)) (ring : List (Nat × Word))
  deriving DecidableEq, Repr

/-- A compute core (R16). `cycle` is the next core cycle of its die that it has not used (R17), `grantNext` the first that may grant a slot (R249),
`barLast` the cycle and sender of the last remote barrier operation (R266). `halting`: a pre-emption has begun to stop it, or, while it is saved, a resume waits (R406, R407). `credit` is the
class-3 credit as of refill number `creditAt` (R415). `away` holds what was saved of it in saggars that it has left, by their ids (R267). -/
structure Core where
  (cycle lastSlot grantNext : Nat) (barLast : Nat × Nat) (slots : List (Nat × Strand)) (queues : List (Nat × Queue)) (bars : List (Nat × Bar))
  (tags : Word) (tagCount : List (Nat × Nat)) (mail : List (Nat × List Word)) (replay : List Replay)
  (jobNext jobsPlaced : Nat) (jobRing : List (Nat × Word)) (ebud : Word) (tenant : Option Nat)
  (dctl : Word) (stopped : Bool) (stopTime : Nat) (brkPc brkCode : Word) (trace : List Word) (traceWrap : Nat)
  (credit creditAt : Nat) (gated halting : Bool) (saved : Option CoreSave) (away : List (Nat × CoreSave × CoreImage)) (sampled : List (Nat × Word × Nat)) (endRec : List (Nat × Word × Nat × Word))
  deriving DecidableEq, Repr

/-- A core at device reset. -/
def Core.init : Core where
  cycle := 0
  lastSlot := 15
  grantNext := 0
  barLast := (0, 0)
  slots := []
  queues := []
  bars := []
  tags := BitVec.allOnes 64
  tagCount := []
  mail := []
  replay := []
  jobNext := 1
  jobsPlaced := 0
  jobRing := []
  ebud := Config.ebudReset
  tenant := none
  dctl := 0
  stopped := false
  stopTime := 0
  brkPc := 0
  brkCode := 0
  trace := []
  traceWrap := 0
  credit := 0
  creditAt := 0
  gated := false
  halting := false
  saved := none
  away := []
  sampled := []
  endRec := []

/-- A cluster (R14); `lastClaim` is the last claim that reached its pool: arithmetic cycle and rank (R261). -/
structure Cluster where
  (claimants : List Claimant) (lastClaim : Nat × Nat) (jobs : List Job) (waiting : List StrandRef) (lastGrant : Nat) (ranges : List Range)
  (bands : List (Nat × Band)) (bandMap : Word) (tlb : List Tlb)
  deriving DecidableEq, Repr

/-- A cluster at device reset. -/
def Cluster.init : Cluster := ⟨[], (0, 0), [], [], 7, [], [], Config.bandMapReset, []⟩

/-- State of a Galley group or entry. -/
inductive GState where
  | evaluating | complete | failed
  deriving DecidableEq, Repr

/-- A group record of a Cone (R309). -/
structure Group where
  (parent : Grp) (count : Nat) (st : GState)
  deriving DecidableEq, Repr

/-- A write in a die's pending-write buffer (R292): its serial, address, location, bytes, and who issued it. -/
structure PendWrite where
  (id va loc : Nat) (bytes : List Byte) (core slot uid : Nat)
  deriving DecidableEq, Repr

/-- A compute die (R12, R439): multiplier, CYC and the number of core cycles since reset at TIME `from_`, how far its clock edges lie behind, in tenths of
a cycle (R438, log 115), FSTEP, end of a relock, held write, TLB, Cone, buffer, power state, and whether an entry to a
deeper state waits for the end of a relock (R444). -/
structure Die where
  (mult cyc beats from_ phase : Nat) (fstep : Word) (relock held : Option Nat) (tlb : List Tlb) (cone : List (Nat × Group)) (pwb : List PendWrite) (power : Nat) (deferred : Bool)
  deriving DecidableEq, Repr

/-- A die at device reset. -/
def Die.init : Die := ⟨Config.multReset, 0, 0, 0, 4, 0, none, none, [], [], [], 0, false⟩

/-- State of a context (R328). -/
inductive CtxState where
  | live | retired | releasing
  deriving DecidableEq, Repr

/-- A context record (R328); `spec` names the speculative task that owns it. -/
structure Ctx where
  (parent phase index depth : Nat) (st : CtxState) (spec : Option SpecRef)
  deriving DecidableEq, Repr

/-- A context cell (R330): the context, the block, the bytes written, keyed 0 to 63, and its poisoned 32-bit words, 0 to 15 (R417). -/
structure Cell where
  (ctx blk : Nat) (bytes : List (Nat × Byte)) (bad : List Nat)
  deriving DecidableEq, Repr

/-- A queued invocation (R228): its continuation, the answer, and the failed entry when it is an error invocation.
`counted` once its Cone has acknowledged the increment. -/
structure Invoke where
  (cont : Cont) (w0 w1 : Word) (errorOf : Option Nat) (entry : Nat) (counted : Bool)
  deriving DecidableEq, Repr

/-- A Galley entry (R303 to R316), named by its handle. `merging` counts the registrations that hold room while their groups merge, and
`due` the invocations that hold room while their Cone counts them (R319). -/
structure Entry where
  (handle : Nat) (space : Nat) (pc : Word) (nargs aw : Nat) (args : List Word) (st : GState) (grp caller : Grp) (producer : StrandRef) (uid : Nat)
  (answers : List (Word × Word)) (conts : List Cont) (pins failPins : Nat) (used merging due : Nat) (abolish : Bool) (waiters : List (StrandRef × Nat))
  deriving DecidableEq, Repr

/-- A message to or from a Cone (R310 to R315). `dec` and `inc` name the group; `inc` carries the invocation it counts
or none; notices go to a bank of a saggar and name the root; `merge` carries the call it decides. -/
inductive ConeMsg where
  | inc (grp : Grp) (sag : Nat) (inv : Invoke)
  | ack (sag : Nat) (inv : Invoke)
  | dec (grp : Grp) (uid : Nat)
  | merge (g e : Grp) (call : Msg) (entry : Nat)
  | complete (sag bank : Nat) (root : Grp)
  | fail (grp : Grp) (uid : Nat)
  | failed (sag bank : Nat) (root : Grp)
  deriving DecidableEq, Repr

/-- An abstract lock (R340). -/
structure Lock where
  (obj : Word) (inst seq kind : Nat) (key : Word)
  deriving DecidableEq, Repr

/-- An entry of a task queue (R201). -/
structure QEntry where
  (pc a0 a1 a2 : Word)
  deriving DecidableEq, Repr

/-- A configured task queue (R278, R381): its ring position in its slice, the first location of its spill segment, and the last operation that reached it:
arithmetic cycle and rank (R275, R382). -/
structure TaskQueue where
  (pos seg : Nat) (last : Nat × Nat) (ring spill : List QEntry) (spillSize : Nat) (waiters : List (StrandRef × Nat))
  deriving DecidableEq, Repr

/-- State of a speculative task (R338): `committing` while its cells are being written. A task that has committed, been cancelled or failed has
no record. -/
inductive SpecState where
  | queued | running | done | aborting | committing
  deriving DecidableEq, Repr

/-- A speculative task (R236, R337): instance, number, entry, mode, context, undo area, the task whose leases it uses, whether it runs solo,
what the abort under way ends in, whether `sdone` was issued, its cluster, what its strand inherits (rounding mode, table space, mode), the slot
held for its helper, its undo pointer and base, the TIME at which it became done, and the trap vector, heap registers and table space of its strand. -/
structure SpecTask where
  (inst seq : Nat) (pc a0 a1 a2 : Word) (ordered : Bool) (st : SpecState) (tag : Option Nat) (area : Option Nat) (task : Option Nat)
  (solo : Bool) (soloNext : Bool) (cancel : Bool) (fail : Bool) (sdone : Bool) (cluster : Nat) (rm tspace : Nat) (priv : Bool) (helper : Option StrandRef)
  (undop undob : Word) (order : Nat) (tvec heapb heapl heapo : Word) (space : Nat)
  deriving DecidableEq, Repr

/-- An instance of a task graph (R374, R380); SIG may be a host address (R373); `newest` is its speculation domain's newest committed ordered number
and `areas` the domain's undo areas (R337). -/
structure Instance where
  (id graph prio accept : Nat) (sig : Word) (hostSig : Bool) (params : List Byte) (left : List (Nat × Nat)) (started failed host : Bool) (patches : List (Nat × Word))
  (newest : Option Nat) (areas : List Nat)
  deriving DecidableEq, Repr

/-- State of a task (R376 to R380). -/
inductive TaskState where
  | ready | running | failed
  deriving DecidableEq, Repr

/-- A task: instance, node, the TIME at which it became ready, its leases and state. -/
structure Task where
  (id inst node since : Nat) (leases : List Lease) (st : TaskState) (resident : Bool)
  deriving DecidableEq, Repr

/-- A pool entry (R375): an accepted instance or a queued speculative task. -/
inductive PoolEntry where
  | instance_ (id : Nat)
  | spec (inst seq : Nat)
  deriving DecidableEq, Repr

/-- The counters of a saggar (R232, R235, R418). -/
structure Counters where
  (stray specMiss aborts soloRuns dropAns lruEvict softEvict fullCount poisoned droppedWrite roleLost : Nat)
  deriving DecidableEq, Repr

/-- A move of a page inside a live lease (R394): its first address, log2 of its size, the part done last, the new frame, and the core cycles that
strands have spent on it (R395). -/
structure PageMove where
  (lo bits part frame stall : Nat)
  deriving DecidableEq, Repr

/-- A `ctphase` that goes on at the allocator without the strand that issued it (R334, R405): the strand as a committer, the parent and phase, and the
siblings still to commit. -/
structure PhaseRun where
  (core slot uid : Nat) (task : Option Nat) (spec : Option SpecRef) (heapb heapl heapo : Word) (parent phase : Nat) (rest : List Nat)
  deriving DecidableEq, Repr

/-- A saggar (R396): its record and everything held for it; `lastLaunch` is the last arrival at its pending-launch pool: arithmetic cycle and rank (R375). -/
structure Saggar where
  (cfg : SaggarRec) (part energy ctbase ctlim lattol : Word)
  (ctxs : List (Nat × Ctx)) (tagWait : List TagReq) (phases : List PhaseRun) (cells : List Cell) (counters : Counters)
  (entries : List Entry) (invokes : List Invoke) (gens : List (Nat × Nat)) (stamp : Nat)
  (locks : List Lock) (commute : CommuteTable) (queues : List (Nat × TaskQueue))
  (kernels : List KernelRec) (graphs : List GraphRec) (freeing : List Nat)
  (pool : List PoolEntry) (lastLaunch : Nat × Nat) (accepts : Nat) (instances : List Instance) (tasks : List Task) (ready : List Nat) (nextTask : Nat) (specs : List SpecTask)
  (abortsNow : List (Nat × Nat)) (moves : List PageMove)
  deriving DecidableEq, Repr

/-- A record of the translation log (R395). -/
structure LogRec where
  (time va len comp sag kind stall : Nat)
  deriving DecidableEq, Repr

/-- A record of the sampling ring (R436): T and, for each core with a live slot, the body. -/
structure SampleRec where
  (time : Nat) (body : List (Nat × List Byte))
  deriving DecidableEq, Repr

/-- What a message sent to a peer and not yet acknowledged carries: a write from a die's buffer, or the access in flight of a serial (R292, R412). -/
inductive SentBody where
  | write (w : PendWrite)
  | access (id : Nat)
  deriving DecidableEq, Repr

/-- A message sent to a peer and not yet acknowledged: its number, its channel's generation, and what it carries (R412, R414). -/
structure Sent where
  (seq gen : Nat) (body : SentBody)
  deriving DecidableEq, Repr

/-- A (port, peer) pair of the fabric (R412 to R414): next number to send, number accepted last plus one, generation, messages held out
of order, messages sent and not yet acknowledged, oldest first, numbers acknowledged to the peer and numbers answered with an error completion, links to
it, writes dropped on arrival, updates that completed with an error, error completions told to the compositors, and the answers to the peer's reads: number and
bytes. -/
structure Peer where
  (port peer sendSeq recvSeq gen : Nat) (heldMsgs : List FabricMsg) (unacked : List Sent) (acked refused : List Nat) (links : List Nat)
  (dropped errors told : Nat) (answers : List (Nat × List Byte))
  deriving DecidableEq, Repr

/-- A measurement block as it is reported: its index and content (R425, R429). -/
structure MeasureRec where
  (index : Nat) (content : List Nat)
  deriving DecidableEq, Repr

/-- The one-time fuses (R428, R429): the SHA-256 digest of the public key, and the part of the certificate chain that they hold. -/
structure Fuses where
  (digest chain : List Byte)
  deriving DecidableEq, Repr

/-- Boot progress (R427 to R429): the stage that runs (3 when boot has stopped), the source (0 flash, 1 network), whether the flash image has failed, the image
that boots, when the compositors were released, which report and which have timed out, the boot status word's source and stage, measurement blocks 1 to 4, the
blocks last reported with their signature, whether blocks 16 to 18 were among them, the key policy, and the firmware's partition and energy defaults. -/
structure Boot where
  (stage : Nat) (source : Nat) (flashFailed : Bool) (image : Option FirmImage) (released : Nat) (reporting : BitVec 8) (timedOut : BitVec 8) (status : Nat × Nat)
  (measures : List MeasureRec) (report : List MeasureRec) (signature : Nat) (reported : Bool) (policy : List (Nat × Nat)) (part energy : Word)
  deriving DecidableEq, Repr

/-- Counters and repair state of a stack or LPDDR6 controller (R418 to R420): fenced pseudo-channels, the stale mark, the row-remap and swap tables by
entry, their shadow copy, and the pseudo-channels that have met an uncorrectable error in a table and wait for the reload. -/
structure Repair where
  (ce ue reloads fenced : Nat) (fence : List Nat) (stale : Bool) (tables shadow : List (Nat × Word)) (struck : List Nat)
  deriving DecidableEq, Repr

/-- A stack or controller at device reset. -/
def Repair.init : Repair := ⟨0, 0, 0, 0, [], false, [], [], []⟩

/-- Who moves next: a core cycle, a passing of TIME in ns, a device event (spec/95), or an error that arises in a memory word, in entry i of a queue
register, in 32-bit word w of the cell of a context and block, or in the repair-table entry that a pseudo-channel uses, of one bit or of two (R417,
R419). -/
inductive Turn where
  | cycle (core : Nat)
  | elapse (ns : Nat)
  | event (i : Instr)
  | upset (loc : Nat) (double : Bool)
  | upsetQueue (core q i : Nat) (double : Bool)
  | upsetCell (sag ctx blk w : Nat) (double : Bool)
  | upsetTable (stack pch : Nat) (double : Bool)
  deriving DecidableEq, Repr

end Sys2Proof.Machine
end

