-- ==== Sys2Proof/Machine/State.lean ====
section
/-! DEFINITION. The state of the machine as plain data, its faults and refusals, and the state right after device reset. -/

namespace Sys2Proof.Machine

/-- Why the machine stops. -/
inductive Fault where
  /-- Raised by translation when a page table entry names a frame beyond the memory of its tier: the spec gives such a frame
  no location and names no outcome. Safe: the machine stops where the hardware would do something unstated. -/
  | noSuchFrame (tier frame : Nat)
  deriving DecidableEq, Repr

/-- Why an instruction has no meaning. -/
inductive Refusal where
  /-- Raised by an arm of exec for an instruction this model does not give a meaning. Safe: nothing is claimed of it. -/
  | notModelled (mnemonic : String)
  deriving DecidableEq, Repr

/-- Memory: (location, byte) pairs, locations strictly rising, an unlisted location reads 0 (log 4). A location is the
physical address in HBM, or lies in one of the other spaces (Machine/Ops.lean). -/
abbrev Memory := List Host.Cell

/-- The whole machine. -/
structure State where
  /-- The turns still to come: the schedule, an input of the model (log 5). -/
  agenda : List Turn
  /-- The core and slot in focus. -/
  core : Nat
  slot : Nat
  /-- Draws of free values so far (log 1): the model's own field. -/
  free : Nat
  /-- The next message, strand and job serial: the model's own field. -/
  serial : Nat
  /-- TIME in ns since device reset (R437). -/
  time : Nat
  /-- TIME of the last energy refill and of the last credit refill (R363, R415). -/
  lastRefill : Nat
  lastCredit : Nat
  /-- Class-3 credit refills so far (R415). -/
  credits : Nat
  mem : Memory
  /-- Locations of DRAM words whose full/empty bit is 1 (R21). -/
  full : List (Nat × Unit)
  /-- Locations of DRAM words and 32-bit bank words that are poisoned (R21, R417). -/
  poison : List (Nat × Unit)
  /-- Words that hold an error no read has met yet, by location, and whether it is of two bits (R417). -/
  errs : List (Nat × Bool)
  /-- Single-bit errors of SRAM corrected so far (R417). -/
  sramCe : Nat
  cores : List (Nat × Core)
  clusters : List (Nat × Cluster)
  dies : List (Nat × Die)
  saggars : List (Nat × Saggar)
  /-- Slice partition words written for saggars that are not formed (R276). -/
  parts : List (Nat × Word)
  /-- Accesses and messages in flight, oldest first (R286, R287). -/
  net : List Msg
  /-- Replies, results and acknowledgements in flight. -/
  acks : List Ack
  /-- Messages to and from the Cones in flight (R310). -/
  cone : List ConeMsg
  /-- Waiters at homes, oldest first (R185, R207). -/
  waiters : List Waiter
  /-- The kernel-reserved map: frames of 64 KiB, with the tier in bit 50 and up (R389). -/
  krMap : List Nat
  /-- Key ids that hold a key, and the key (R424). -/
  keys : List (Nat × BitVec 512)
  /-- Atoms of DRAM (location / 32) and the key under which their bytes stand in `mem` (R424). -/
  sealed : List (Nat × BitVec 512)
  bringup : Word
  boot : Boot
  fuses : Fuses
  /-- The part of the certificate chain that flash holds (R429). -/
  flashChain : List Byte
  /-- Stacks 0 to 11 and LPDDR6 controllers 12 and 13 (R418). -/
  repair : List (Nat × Repair)
  /-- POISONED and DROPPED_WRITE of saggars that are not formed, by id (R418). -/
  kept : List (Nat × Nat × Nat)
  logRing : List LogRec
  sampleRing : List SampleRec
  /-- The time of a pending sampling pulse (R435). -/
  pulse : Option Nat
  /-- Fabric peers, in no order (R412). -/
  peers : List Peer
  /-- Messages that a router dropped (R397). -/
  routerDrops : Nat
  /-- Completions returned to the host: instance and whether it succeeded, BUSY and error completions (R373, R375, R380). -/
  completions : List (Nat × Nat)
  /-- Capability faults taken in the compositors (R276, R364, R373, R396, R439). -/
  capFaults : Nat
  deriving DecidableEq, Repr

/-- The machine right after device reset (R6, R427, R437): nothing runs, no saggar exists and memory lists nothing. -/
def State.reset : State where
  agenda := []
  core := 0
  slot := 0
  free := 0
  serial := 1
  time := 0
  lastRefill := 0
  lastCredit := 0
  credits := 0
  mem := []
  full := []
  poison := []
  errs := []
  sramCe := 0
  cores := []
  clusters := []
  dies := []
  saggars := []
  parts := []
  net := []
  acks := []
  cone := []
  waiters := []
  krMap := []
  keys := []
  sealed := []
  bringup := 0
  boot := ⟨0, 0, false, none, 0, 0, 0, (0, 0), [], [], 0, false, [], 0, 0⟩
  fuses := ⟨[], []⟩
  flashChain := []
  repair := []
  kept := []
  logRing := []
  sampleRing := []
  pulse := none
  peers := []
  routerDrops := 0
  completions := []
  capFaults := 0

end Sys2Proof.Machine
end

