-- ==== Sys2Proof/Machine/Ops.lean ====
section
/-! DEFINITION. The named operations on the state: geometry, memory, accessors, strands that end, taking a trap and
returning from one. -/

namespace Sys2Proof.Machine

/-- What a meaning answers. -/
abbrev Out := Host.Outcome State Fault Refusal

/-! Bit fields. -/

/-- Bits [lo+n-1:lo] of w as a number. -/
def bitsOf (w : Word) (lo n : Nat) : Nat := w.toNat / 2 ^ lo % 2 ^ n

/-- w with bits [lo+n-1:lo] replaced by v. -/
def withBits (w : Word) (lo n v : Nat) : Word :=
  BitVec.ofNat 64 (w.toNat % 2 ^ lo + v % 2 ^ n * 2 ^ lo + w.toNat / 2 ^ (lo + n) * 2 ^ (lo + n))

/-- The w low bits of v, sign-extended to 64. -/
def signExt (w v : Nat) : Word :=
  let x := v % 2 ^ w
  if 2 * x < 2 ^ w then BitVec.ofNat 64 x else BitVec.ofInt 64 ((x : Int) - 2 ^ w)

/-- The w low bits of v as a signed number. -/
def signed (w v : Nat) : Int :=
  let x := v % 2 ^ w
  if 2 * x < 2 ^ w then (x : Int) else (x : Int) - 2 ^ w

/-- A word from a number. -/
def word (n : Nat) : Word := BitVec.ofNat 64 n

/-- 64-bit left rotation (R305). -/
def rotl (w : Word) (n : Nat) : Word := w.rotateLeft n

/-! Geometry (R12, R13). -/

/-- The cluster of a core. -/
def clusterOf (c : Nat) : Nat := c / 8
/-- x of a cluster. -/
def xOf (cl : Nat) : Nat := cl % 20
/-- y of a cluster. -/
def yOf (cl : Nat) : Nat := cl / 20
/-- The compute die of coordinates (R12). -/
def dieAt (x y : Nat) : Nat := (if 10 ≤ x then 1 else 0) + (if 12 ≤ y then 2 else 0)
/-- The compute die of a cluster. -/
def dieOf (cl : Nat) : Nat := dieAt (xOf cl) (yOf cl)

/-! Locations: one number names every byte of the device. -/

/-- Where each space of memory begins among the locations: HBM 0, LPDDR6, host, peer, scratchpads, slices. -/
def spaceBase (k : Nat) : Nat := k * 2 ^ 60
/-- Location of an offset in the scratchpad of a core (R274). -/
def scratchLoc (core off : Nat) : Nat := spaceBase 4 + core * 2 ^ 18 + off
/-- Location of an offset in the slice of a cluster (R275). -/
def sliceLoc (cl off : Nat) : Nat := spaceBase 5 + cl * 2 ^ 21 + off
/-- Which space a location lies in. -/
def spaceOf (loc : Nat) : Nat := loc / 2 ^ 60
/-- Whether a location lies in DRAM, whose words are 64 bits (R21). -/
def inDram (loc : Nat) : Bool := decide (spaceOf loc < 4)
/-- Whether a location is reached through a fabric port: host or peer memory (R279). -/
def offDevice (loc : Nat) : Bool := decide (spaceOf loc = 2) || decide (spaceOf loc = 3)

/-- Stack of an HBM location (R280). -/
def stackOf (loc : Nat) : Nat := loc / Config.stackBytes
/-- Channel of an HBM location within its stack (R280). -/
def channelOf (loc : Nat) : Nat :=
  let g := loc % Config.stackBytes / 512
  (g % 32) ^^^ (g / 2 ^ 5 % 32) ^^^ (g / 2 ^ 10 % 32) ^^^ (g / 2 ^ 15 % 32) ^^^ (g / 2 ^ 20 % 32) ^^^ (g / 2 ^ 25 % 32)
/-- Pseudo-channel of an HBM location within its stack (R280). -/
def pseudoOf (loc : Nat) : Nat := 16 * channelOf loc + loc % Config.stackBytes / 32 % 16

/-- The home of a location (R279). -/
def homeOf (loc : Nat) : Home :=
  match spaceOf loc with
  | 0 => ⟨.hbm, stackOf loc, channelOf loc⟩
  | 1 => ⟨.lpddr, loc % 2 ^ 60 / (512 * 2 ^ 30), 0⟩
  | 4 => ⟨.scratch, loc % 2 ^ 60 / 2 ^ 18, loc / 4 % 16⟩
  | 5 => ⟨.slice, loc % 2 ^ 60 / 2 ^ 21, loc / 64 % 16⟩
  | _ => ⟨.fabric, 0, 0⟩

/-- The homes that an access of n bytes at a location touches: in a scratchpad every bank word has its own (R274). -/
def homesOf (loc n : Nat) : List Home :=
  if spaceOf loc = 4 then ((List.range (max n 1)).map (fun i => homeOf (loc + i))).eraseDups else [homeOf loc]

/-- The cluster a home lies in, for the on-chip homes. -/
def Home.cluster (h : Home) : Option Nat :=
  match h.kind with
  | .scratch | .core => some (clusterOf h.unit)
  | .slice | .galley => some h.unit
  | _ => none

/-! Accessors. -/

/-- Core c. -/
def State.coreAt (s : State) (c : Nat) : Core := Tbl.get s.cores c Core.init
/-- Changes core c. -/
def State.modCore (s : State) (c : Nat) (f : Core → Core) : State := { s with cores := Tbl.upd s.cores c Core.init f }
/-- Slot k of a core. -/
def Core.slotAt (c : Core) (k : Nat) : Strand := Tbl.get c.slots k Strand.empty
/-- Slot k of core c. -/
def State.strandAt (s : State) (c k : Nat) : Strand := (s.coreAt c).slotAt k
/-- Changes slot k of core c. -/
def State.modStrand (s : State) (c k : Nat) (f : Strand → Strand) : State :=
  s.modCore c (fun x => { x with slots := Tbl.upd x.slots k Strand.empty f })
/-- The strand in focus. -/
def State.me (s : State) : Strand := s.strandAt s.core s.slot
/-- Changes the strand in focus. -/
def State.modMe (s : State) (f : Strand → Strand) : State := s.modStrand s.core s.slot f
/-- The core in focus. -/
def State.myCore (s : State) : Core := s.coreAt s.core
/-- Changes the core in focus. -/
def State.modMyCore (s : State) (f : Core → Core) : State := s.modCore s.core f
/-- Cluster cl. -/
def State.clusterAt (s : State) (cl : Nat) : Cluster := Tbl.get s.clusters cl Cluster.init
/-- Changes cluster cl. -/
def State.modCluster (s : State) (cl : Nat) (f : Cluster → Cluster) : State :=
  { s with clusters := Tbl.upd s.clusters cl Cluster.init f }
/-- The cluster in focus. -/
def State.myCluster (s : State) : Nat := clusterOf s.core
/-- Die d. -/
def State.dieAt (s : State) (d : Nat) : Die := Tbl.get s.dies d Die.init
/-- Changes die d. -/
def State.modDie (s : State) (d : Nat) (f : Die → Die) : State := { s with dies := Tbl.upd s.dies d Die.init f }
/-- The die in focus. -/
def State.myDie (s : State) : Nat := dieOf s.myCluster
/-- A saggar that is formed. -/
def State.sagAt (s : State) (g : Nat) : Option Saggar := Tbl.find s.saggars g
/-- Changes saggar g, if it is formed. -/
def State.modSag (s : State) (g : Nat) (f : Saggar → Saggar) : State :=
  match s.sagAt g with
  | some x => { s with saggars := Tbl.put s.saggars g (f x) }
  | none => s
/-- The strand a reference names. -/
def State.strandOf (s : State) (r : StrandRef) : Strand := s.strandAt r.core r.slot
/-- The reference of the strand in focus. -/
def State.myRef (s : State) : StrandRef := ⟨s.core, s.slot⟩
/-- The jobs withdrawn from a core for its present saggar: those of its save, and those put away there until its resume (R267, R359, R367). -/
def Core.withdrawn (c : Core) : List Job :=
  (match c.saved with | some v => v.jobs | none => []) ++ (c.away.filter (fun a => some a.1 = c.tenant)).flatMap (·.2.1.jobs)
/-- The live slots of a core. -/
def Core.liveSlots (c : Core) : List Nat := (List.range 16).filter (fun k => (c.slotAt k).live)
/-- Every live strand of the device. -/
def State.liveStrands (s : State) : List StrandRef :=
  s.cores.flatMap (fun c => (c.2.slots.filter (fun e => e.2.live)).map (fun e => ⟨c.1, e.1⟩))
/-- Draws a free value (log 1). -/
def State.draw (s : State) : Word × State := (Config.freeValue s.free, { s with free := s.free + 1 })
/-- Takes the next serial. -/
def State.tick (s : State) : Nat × State := (s.serial, { s with serial := s.serial + 1 })
/-- Adds to a counter of a saggar. -/
def State.count (s : State) (g : Nat) (f : Counters → Counters) : State := s.modSag g (fun x => { x with counters := f x.counters })
/-- A counter that wraps modulo 2^64 (R232, R235). -/
def wrap1 (n : Nat) : Nat := (n + 1) % 2 ^ 64
/-- A counter that saturates at 2^64 - 1 (R418). -/
def sat1 (n : Nat) : Nat := if n + 1 < 2 ^ 64 then n + 1 else 2 ^ 64 - 1

/-- Whether cluster cl lies inside a saggar's rectangle (R396). -/
def Saggar.holds (g : Saggar) (cl : Nat) : Bool :=
  decide (g.cfg.x0 ≤ xOf cl) && decide (xOf cl < g.cfg.x0 + g.cfg.w) && decide (g.cfg.y0 ≤ yOf cl) && decide (yOf cl < g.cfg.y0 + g.cfg.h)
/-- Clusters of a saggar (K of R305). -/
def Saggar.size (g : Saggar) : Nat := g.cfg.w * g.cfg.h
/-- The device cluster that is a saggar's cluster number n, counted row by row from its lowest corner (R278). -/
def Saggar.clusterNo (g : Saggar) (n : Nat) : Nat := (g.cfg.y0 + n / g.cfg.w) * 20 + g.cfg.x0 + n % g.cfg.w
/-- Whether a cluster lies in the saggar numbered g. -/
def State.inSaggar (s : State) (g cl : Nat) : Bool := match s.sagAt g with | some x => x.holds cl | none => false

/-! TIME and CYC (R437 to R440). -/

/-- The number, since reset, of a die's first core cycle at or after TIME t (R17, R438). -/
def Die.beatAt (d : Die) (t : Nat) : Nat :=
  match d.relock with
  | some _ => d.beats
  | none => d.beats + (d.mult * (t - d.from_) - d.phase + 9) / 10
/-- The TIME of core cycle b of a die. -/
def Die.beatNs (d : Die) (b : Nat) : Nat := d.from_ + ((b - d.beats) * 10 + d.phase) / d.mult
/-- CYC of a die in its core cycle b. -/
def Die.cycAt (d : Die) (b : Nat) : Nat := d.cyc + (b - d.beats)
/-- The die of a core. -/
def State.coreDie (s : State) (c : Nat) : Die := s.dieAt (dieOf (clusterOf c))
/-- The first core cycle that core c has not yet used and that does not lie in the past (R17). -/
def State.nextBeat (s : State) (c : Nat) : Nat := max (s.coreAt c).cycle ((s.coreDie c).beatAt s.time)
/-- The first core cycle that does not lie in the past and in which core c grants no slot yet (R249). -/
def State.nextGrant (s : State) (c : Nat) : Nat := max (s.coreAt c).grantNext ((s.coreDie c).beatAt s.time)
/-- The core cycle, of those that lie in the present ns, in which core c may grant its next slot (R249); none where it has to wait. -/
def State.grantBeat (s : State) (c : Nat) : Option Nat :=
  let b := s.nextGrant c
  if (s.coreDie c).relock.isNone && decide ((s.coreDie c).beatNs b ≤ s.time) then some b else none
/-- Whether core c has done what it issues in its cycle b, or issues nothing there: a `strand.start` of that cycle is served before spawns, continuations,
speculative dispatches and undo helpers (R249). -/
def State.ranBeat (s : State) (c b : Nat) : Bool :=
  let x := s.coreAt c
  decide (b < x.cycle) || x.gated || x.stopped || x.liveSlots.isEmpty

/-- CYC of a die: its count at `from_`, and multiplier / 10 cycles for each ns since, unless it relocks. -/
def State.cyc (s : State) (d : Nat) : Nat :=
  let x := s.dieAt d
  match x.relock with
  | some _ => x.cyc
  | none => x.cyc + x.mult * (s.time - x.from_) / 10
/-- TIME as a die reads it: at most 2 ns behind (R438, log 2). -/
def State.timeRead (s : State) (d : Nat) : Nat := s.time - (Config.timeSkew d).val

/-- Whether a core's die relocks: replies, messages, spawns and continuations for it queue (R441). -/
def State.relocking (s : State) (c : Nat) : Bool := (s.dieAt (dieOf (clusterOf c))).relock.isSome

/-! Waking (R442). -/

/-- A die leaves a deeper power state. -/
def State.wakeDie (s : State) (d : Nat) : State := if (s.dieAt d).power = 0 then s else s.modDie d (fun x => { x with power := 0 })
/-- A message, reply, dispatch or spawn wakes a core and its die (R442). -/
def State.wakeUnit (s : State) (c : Nat) : State :=
  (if (s.coreAt c).gated then s.modCore c (fun x => { x with gated := false }) else s).wakeDie (dieOf (clusterOf c))
/-- An access that reaches a home wakes it: a scratchpad's core, a slice's die, or the die whose stack it is (R442). -/
def State.wakeHome (s : State) (h : Home) : State :=
  match h.kind with
  | .scratch | .core => s.wakeUnit h.unit
  | .slice | .galley => s.wakeDie (dieOf h.unit)
  | .hbm => s.wakeDie (h.unit / 3)
  | _ => s

/-! Memory, byte by byte. -/

/-- The byte at a location. -/
def State.byte (s : State) (loc : Nat) : Byte := Tbl.get s.mem loc 0
/-- Writes one byte of memory. -/
def State.setByte (s : State) (loc : Nat) (b : Byte) : State := { s with mem := Tbl.set s.mem loc b 0 }
/-- n bytes from a location. -/
def State.bytes (s : State) (loc n : Nat) : List Byte := (List.range n).map (fun i => s.byte (loc + i))
/-- Writes bytes from a location on, in ascending address. -/
def State.setBytes (s : State) (loc : Nat) : List Byte → State
  | [] => s
  | b :: t => (s.setByte loc b).setBytes (loc + 1) t
/-- The number whose little-endian bytes are given. -/
def ofBytes : List Byte → Nat
  | [] => 0
  | b :: t => b.toNat + 256 * ofBytes t
/-- The n little-endian bytes of a number. -/
def toBytes : Nat → Nat → List Byte
  | 0, _ => []
  | n + 1, v => BitVec.ofNat 8 v :: toBytes n (v / 256)

/-- First location of the word that carries the poison bit of a location: 8 bytes in DRAM, 4 in SRAM (R21, R417). -/
def poisonWord (loc : Nat) : Nat := if inDram loc then loc - loc % 8 else loc - loc % 4
/-- Whether a location lies in a poisoned word. -/
def State.poisoned (s : State) (loc : Nat) : Bool := (Tbl.find s.poison (poisonWord loc)).isSome
/-- Marks or clears the poison of a location's word. -/
def State.setPoison (s : State) (loc : Nat) (p : Bool) : State :=
  { s with poison := if p then Tbl.put s.poison (poisonWord loc) () else Tbl.del s.poison (poisonWord loc) }
/-- Whether any of n bytes from a location is poisoned. -/
def State.anyPoison (s : State) (loc n : Nat) : Bool := (List.range n).any (fun i => s.poisoned (loc + i))
/-- Whether n bytes from a location wholly cover a word. -/
def covers (loc n w : Nat) : Bool := decide (loc ≤ w) && decide (w + (if inDram w then 8 else 4) ≤ loc + n)
/-- Clears the poison of every word that n bytes from a location wholly cover (R178), and the errors that no read of them has met. -/
def State.clearPoison (s : State) (loc n : Nat) : State :=
  { s with poison := s.poison.filter (fun e => !covers loc n e.1), errs := s.errs.filter (fun e => !covers loc n e.1) }
/-- Whether a location lies on a fenced pseudo-channel (R420). -/
def State.fenced (s : State) (loc : Nat) : Bool :=
  decide (spaceOf loc = 0) && (Tbl.get s.repair (stackOf loc) Repair.init).fence.contains (pseudoOf loc)
/-- Whether n bytes from a location touch a pseudo-channel that waits for the reload of its repair table: requests to it wait (R419). -/
def State.tableWaits (s : State) (loc n : Nat) : Bool :=
  decide (spaceOf loc = 0) && s.repair.any (fun r => !r.2.struck.isEmpty && (List.range n).any (fun i => decide (stackOf (loc + i) = r.1) && r.2.struck.contains (pseudoOf (loc + i))))
/-- An error arises in the repair-table entry that a pseudo-channel uses: one bit is corrected in place at the next read, two make the pseudo-channel stop
until its table is reloaded (R419). -/
def State.upsetTable (s : State) (stack pch : Nat) (double : Bool) : State :=
  if !double || 12 ≤ stack || 512 ≤ pch then s
  else { s with repair := Tbl.upd s.repair stack Repair.init (fun r => if r.struck.contains pch || r.fence.contains pch then r else { r with struck := r.struck ++ [pch] }) }
/-- Counts poison met by a load or pop of strand (c, k) (R178, R418). -/
def State.countPoison (s : State) (c k sag : Nat) : State :=
  (s.modStrand c k (fun m => { m with st := withBits m.st 32 16 (min (bitsOf m.st 32 16 + 1) 65535) })).count sag (fun x => { x with poisoned := sat1 x.poisoned })
/-- Changes the counters of the stack or LPDDR6 controller of a location; SRAM has none (R418). -/
def State.bumpUnit (s : State) (loc : Nat) (f : Repair → Repair) : State :=
  match (match spaceOf loc with | 0 => some (stackOf loc) | 1 => some (12 + loc % 2 ^ 60 / (512 * 2 ^ 30)) | _ => none) with
  | some u => { s with repair := Tbl.upd s.repair u Repair.init f }
  | none => s
/-- An error arises in the word of a location (R417): where the word holds one already, it then holds two (log 113). -/
def State.upset (s : State) (loc : Nat) (double : Bool) : State :=
  if offDevice loc then s else { s with errs := Tbl.put s.errs (poisonWord loc) (double || (Tbl.find s.errs (poisonWord loc)).isSome) }
/-- A read meets the error of a location's word, if it holds one: one bit is corrected and counted, two poison the word (R417). -/
def State.meetWord (s : State) (loc : Nat) : State :=
  match Tbl.find s.errs (poisonWord loc) with
  | some double =>
    let t := { s with errs := Tbl.del s.errs (poisonWord loc) }
    if double then (t.setPoison loc true).bumpUnit loc (fun r => { r with ue := sat1 r.ue })
    else if inDram loc then t.bumpUnit loc (fun r => { r with ce := sat1 r.ce }) else { t with sramCe := sat1 t.sramCe }
  | none => s
/-- A read of n bytes meets the errors of their words (R417). -/
def State.meet (s : State) (loc n : Nat) : State :=
  if s.errs.isEmpty then s else (List.range n).foldl (fun (t : State) i => t.meetWord (loc + i)) s
/-- F of a DRAM word (R184). -/
def State.isFull (s : State) (loc : Nat) : Bool := (Tbl.find s.full loc).isSome
/-- Sets F of a DRAM word. -/
def State.setFull (s : State) (loc : Nat) (f : Bool) : State :=
  { s with full := if f then Tbl.put s.full loc () else Tbl.del s.full loc }

/-! Registers. -/

/-- s register i. -/
def Strand.sreg (m : Strand) (i : Nat) : Word := Tbl.get m.s i 0
/-- Writes s register i and its full bit. -/
def Strand.setS (m : Strand) (i : Nat) (v : Word) : Strand :=
  { m with s := Tbl.set m.s i v 0, sFull := m.sFull ||| BitVec.ofNat 32 (2 ^ i) }
/-- Makes s register i empty. -/
def Strand.emptyS (m : Strand) (i : Nat) : Strand := { m with sFull := m.sFull &&& ~~~ (BitVec.ofNat 32 (2 ^ i)) }
/-- Sets the full bit of s register i. -/
def Strand.fillS (m : Strand) (i : Nat) : Strand := { m with sFull := m.sFull ||| BitVec.ofNat 32 (2 ^ i) }
/-- Out-window register i. -/
def Strand.woreg (m : Strand) (i : Nat) : Word := Tbl.get m.wo i 0
/-- Writes out-window register i and its full bit (R253). -/
def Strand.setWo (m : Strand) (i : Nat) (v : Word) : Strand :=
  { m with wo := Tbl.set m.wo i v 0, woFull := m.woFull ||| BitVec.ofNat 8 (2 ^ i) }
/-- Sets or clears the full bit of out-window register i. -/
def Strand.markWo (m : Strand) (i : Nat) (f : Bool) : Strand :=
  { m with woFull := if f then m.woFull ||| BitVec.ofNat 8 (2 ^ i) else m.woFull &&& ~~~ (BitVec.ofNat 8 (2 ^ i)) }
/-- vl = 16 g (R144). -/
def Strand.vl (m : Strand) : Nat := 16 * m.g
/-- Lane i of vector register r. -/
def Strand.laneAt (m : Strand) (r i : Nat) : Lane := Tbl.get m.v (r * 256 + i) 0
/-- Writes lane i of vector register r. -/
def Strand.setLane (m : Strand) (r i : Nat) (x : Lane) : Strand := { m with v := Tbl.set m.v (r * 256 + i) x 0 }
/-- Mask register r. -/
def Strand.mask (m : Strand) (r : Nat) : BitVec 256 := Tbl.get m.m r 0
/-- Writes mask register r, whose bits at or above vl are discarded (R144). -/
def Strand.setMask (m : Strand) (r : Nat) (x : BitVec 256) : Strand :=
  { m with m := Tbl.set m.m r (x &&& BitVec.ofNat 256 (2 ^ m.vl - 1)) 0 }
/-- ST.TRAP (R87). -/
def Strand.inTrap (m : Strand) : Bool := m.st.getLsbD 29
/-- ST.PP as the checks see it: 0 while ST.TRAP = 1 (R101). -/
def Strand.prefixed (m : Strand) : Bool := m.st.getLsbD 8 && !m.inTrap
/-- Clears ST.PP. -/
def Strand.dropPrefix (m : Strand) : Strand := { m with st := withBits m.st 8 1 0 }

/-- Queue q of a core. -/
def Core.queue (c : Core) (q : Nat) : Queue := Tbl.get c.queues q ⟨[], none, [], [], []⟩
/-- Changes queue q. -/
def Core.modQueue (c : Core) (q : Nat) (f : Queue → Queue) : Core := { c with queues := Tbl.upd c.queues q ⟨[], none, [], [], []⟩ f }
/-- Barrier k of a core. -/
def Core.bar (c : Core) (k : Nat) : Bar := Tbl.get c.bars k ⟨0, 0, 0, 0, []⟩
/-- Replaces barrier k. -/
def Core.setBar (c : Core) (k : Nat) (b : Bar) : Core := { c with bars := Tbl.set c.bars k b ⟨0, 0, 0, 0, []⟩ }
/-- Mailbox k of a core. -/
def Core.mailbox (c : Core) (k : Nat) : List Word := Tbl.get c.mail k []
/-- Replaces mailbox k. -/
def Core.setMail (c : Core) (k : Nat) (l : List Word) : Core := { c with mail := Tbl.set c.mail k l [] }
/-- An error arises in entry i of queue q of core c: one bit is corrected and counted, two poison the entry (R417). -/
def State.upsetQueue (s : State) (c q i : Nat) (double : Bool) : State :=
  if (((s.coreAt c).queue q).entries.length ≤ i) then s
  else if double then s.modCore c (fun x => x.modQueue q (fun y => { y with marks := (List.range y.entries.length).map (fun j => y.marks.getD j false || decide (j = i)) }))
  else { s with sramCe := sat1 s.sramCe }
/-- An error arises in 32-bit word w of a context's cell: one bit is corrected and counted, two poison the word (R417, log 139). -/
def State.upsetCell (s : State) (sag ctx blk w : Nat) (double : Bool) : State :=
  let it := fun (c : Cell) => decide (c.ctx = ctx) && decide (c.blk = blk)
  if 16 ≤ w || !(match s.sagAt sag with | some g => g.cells.any it | none => false) then s
  else if double then s.modSag sag (fun g => { g with cells := modIf g.cells it (fun c => { c with bad := if c.bad.contains w then c.bad else c.bad ++ [w] }) })
  else { s with sramCe := sat1 s.sramCe }
/-- Records a transfer in the trace memory while tracing is on (R434): kind 0 transfer, 1 trap, 2 eret. -/
def State.traced (s : State) (kind : Nat) (target : Word) : State :=
  s.modMyCore (fun c =>
    if c.dctl.getLsbD 6 then
      let r := word (s.slot * 2 ^ 60 + kind * 2 ^ 58 + target.toNat / 2 % 2 ^ 56)
      if c.trace.length < Config.traceRecords then { c with trace := c.trace ++ [r] }
      else { c with trace := c.trace.drop 1 ++ [r], traceWrap := c.traceWrap + 1 }
    else c)

/-! The lane pool (R261 to R263): it forces no holder. -/

/-- The slots of a cluster, in order of core and slot. -/
def State.clusterSlots (s : State) (cl : Nat) : List StrandRef :=
  (List.range 8).flatMap (fun c => (s.coreAt (8 * cl + c)).slots.map (fun e => ⟨8 * cl + c, e.1⟩))
/-- Lane groups of a cluster that no strand holds. -/
def State.freeGroups (s : State) (cl : Nat) : Nat :=
  Config.laneGroups - ((s.clusterSlots cl).map (fun r => (s.strandOf r).g)).foldl (· + ·) 0
/-- The pool computes shrink targets (R262). -/
def State.poolEvent (s : State) (cl : Nat) : State :=
  let hs := (s.clusterSlots cl).filter (fun r => decide (0 < (s.strandOf r).g))
  let ws := (s.clusterAt cl).claimants
  if ws.isEmpty then
    hs.foldl (fun t r => t.modStrand r.core r.slot (fun m => { m with shrink := none })) s
  else if s.freeGroups cl = 0 then
    let share := max 1 (16 / (hs.length + ws.length))
    hs.foldl (fun t r => t.modStrand r.core r.slot (fun m => if 2 ≤ m.g then { m with shrink := some (min (m.g - 1) share) } else m)) s
  else s
/-- The arithmetic cycle in which a claim made now reaches its pool (R18, R261, log 125). -/
def State.poolCycle (s : State) : Nat := s.time * 5 / 4
/-- The place of the strand in focus among those whose operations reach a unit in one arithmetic cycle: by core, then slot; the host's triggers, of place 0,
come first (R261, R275, R375). -/
def State.myRank (s : State) : Nat := s.core * 16 + s.slot + 1
/-- Whether an operation of a place may not reach a unit in this arithmetic cycle any more, where one of a later place has reached it: it reaches it in a later
cycle (R261, R275, R375, R382, log 125). -/
def State.tooLate (s : State) (last : Nat × Nat) (rank : Nat) : Bool := decide (s.poolCycle = last.1) && decide (rank < last.2)
/-- Drops the lanes and mask bits of groups at and above n (R151 steps 2 and 3). -/
def Strand.dropGroups (m : Strand) (n : Nat) : Strand :=
  { m with g := n, v := m.v.filter (fun e => decide (e.1 % 256 < 16 * n)),
           m := (m.m.map (fun e => (e.1, e.2 &&& BitVec.ofNat 256 (2 ^ (16 * n) - 1)))).filter (fun e => decide (e.2 ≠ 0)) }
/-- A pending shrink of a strand takes effect (R151), once its lane instructions have completed. -/
def State.shrinkNow (s : State) (c k : Nat) : State :=
  let m := s.strandAt c k
  match m.shrink with
  | some n =>
    if n < m.g && m.laneQ.isEmpty && decide (m.laneLoads = 0) then
      (s.modStrand c k (fun x => { x.dropGroups n with shrink := none })).poolEvent (clusterOf c)
    else s
  | none => s

/-! The end of a strand. -/

/-- Removes a strand from the lists of those that wait (R208, R250). -/
def State.unlist (s : State) (c k : Nat) : State :=
  let u := (s.strandAt c k).uid
  let s1 := s.modCore c (fun x => { x with queues := x.queues.map (fun e =>
      (e.1, { e.2 with poppers := e.2.poppers.filter (· != k), pushers := e.2.pushers.filter (· != k) })) })
  let s2 := s1.modCluster (clusterOf c) (fun x => { x with
      claimants := x.claimants.filter (fun w => w.who != ⟨c, k⟩), waiting := x.waiting.filter (· != ⟨c, k⟩) })
  { s2 with waiters := s2.waiters.filter (fun w => w.msg.uid != u),
            cores := s2.cores.map (fun e => (e.1, { e.2 with bars := e.2.bars.map (fun b =>
              (b.1, { b.2 with waiters := b.2.waiters.filter (fun w => w.1 != ⟨c, k⟩) })) })),
            saggars := s2.saggars.map (fun g => (g.1, { g.2 with
              tagWait := g.2.tagWait.filter (fun t => match t with | .strand r _ _ _ _ => r != ⟨c, k⟩ | _ => true),
              queues := g.2.queues.map (fun q => (q.1, { q.2 with waiters := q.2.waiters.filter (fun w => w.1 != ⟨c, k⟩) })),
              entries := g.2.entries.map (fun e => { e with waiters := e.waiters.filter (fun w => w.1 != ⟨c, k⟩) }) })) }

/-- Whether a reply or result bound for strand u is still to come (R405). -/
def State.owed (s : State) (c k u : Nat) : Bool :=
  s.net.any (fun m => decide (m.uid = u) && (match m.body with
    | .fe .force _ | .fe .empty _ | .bar _ (.init _) | .bar _ .inval => false
    | .load .. | .fe .. | .swait .. | .claim .. | .tcall .. | .spawn .. | .bar .. => true
    | .atomic _ _ _ r => r
    | .tans _ _ _ _ r => r
    | _ => false)) ||
  s.acks.any (fun a => decide (a.uid = u) && (match a.body with | .data .. | .reply _ => true | _ => false)) ||
  (s.strandAt c k).pending.any (fun p => !p.load && decide (p.parts = 0))

/-- Frees the slot of a stopped strand once nothing is bound for it any more (R405). -/
def State.reap (s : State) (c k : Nat) : State :=
  let x := s.strandAt c k
  if x.dying && x.spec.isNone && !s.owed c k x.uid then s.modStrand c k (fun x => { x with live := false, dying := false, uid := 0, status := .ready }) else s

/-- An entry leaves its slot, whose generation advances (R306). -/
def Saggar.evict (g : Saggar) (h : Nat) : Saggar :=
  if g.entries.any (fun e => e.handle = h) then
    { g with entries := g.entries.filter (fun e => e.handle ≠ h), gens := Tbl.put g.gens (h / 256) ((h + 1) % 256) }
  else g

/-- The strand's parts in the Galley end (R230, R231, R314): each open body fails its group, an invocation is counted off. -/
def State.galleyEnd (s : State) (m : Strand) : State :=
  let fails := m.bodies.flatMap (fun h =>
    match s.sagAt m.sag with
    | some g => (g.entries.filter (fun e => e.handle = h && decide (e.st = .evaluating))).map (fun e => ConeMsg.fail e.grp m.uid)
    | none => [])
  let decs := match m.invoc with
    | some v => if v.grp.ser = 0 then [] else [ConeMsg.dec v.grp m.uid]
    | none => []
  let s1 := { s with cone := s.cone ++ fails ++ decs }
  match m.invoc.bind (·.errorOf) with
  | some h => s1.modSag m.sag (fun g =>
      let g1 := { g with entries := modIf g.entries (fun e => e.handle = h) (fun e => { e with failPins := e.failPins - 1 }) }
      if g1.entries.any (fun e => e.handle = h && decide (e.failPins = 0)) then g1.evict h else g1)
  | none => s1

/-- Marks an instance failed, and cancels its tasks that have not been dispatched, speculative ones too (R338, R380). -/
def State.failInstance (s : State) (sag inst : Nat) : State :=
  s.modSag sag (fun g =>
    let gone := (g.tasks.filter (fun t => t.inst = inst && decide (t.st = .ready))).map (·.id)
    { g with instances := modIf g.instances (fun i => i.id = inst) (fun i => { i with failed := true }),
             tasks := g.tasks.filter (fun t => !(gone.contains t.id)), ready := g.ready.filter (fun t => !(gone.contains t)),
             specs := g.specs.filter (fun t => t.inst ≠ inst || t.st ≠ .queued),
             tagWait := g.tagWait.filter (fun r => match r with | .task i _ => i ≠ inst | _ => true),
             ctxs := g.ctxs.filter (fun c => !(g.specs.any (fun t => t.inst = inst && t.st = .queued && t.tag = some c.1))),
             pool := g.pool.filter (fun e => match e with | .spec i _ => i ≠ inst | _ => true) })

/-- A task fails (R380). -/
def State.failTask (s : State) (sag : Nat) (task : Option Nat) : State :=
  match task with
  | none => s
  | some t =>
    match s.sagAt sag with
    | none => s
    | some g =>
      match g.tasks.find? (fun x => x.id = t) with
      | none => s
      | some x => (s.modSag sag (fun g => { g with tasks := modIf g.tasks (fun y => y.id = t) (fun y => { y with st := .failed }) })).failInstance sag x.inst

/-- Whether a speculative task is the one a reference names. -/
def SpecTask.is (t : SpecTask) (r : SpecRef) : Bool := decide (t.inst = r.inst) && decide (t.seq = r.seq)
/-- The registers of a task that the helper of its abort takes over, as its strand has them (R345 step 4). -/
def SpecTask.withRegs (t : SpecTask) (m : Strand) : SpecTask :=
  { t with tvec := m.tvec, heapb := m.heapb, heapl := m.heapl, heapo := m.heapo, space := m.tspace }
/-- Changes the speculative tasks of a saggar that a reference names. -/
def State.modSpec (s : State) (sag : Nat) (r : SpecRef) (f : SpecTask → SpecTask) : State :=
  s.modSag sag (fun g => { g with specs := modIf g.specs (fun t => t.is r) f })
/-- The speculative task a reference names. -/
def State.specAt (s : State) (sag : Nat) (r : SpecRef) : Option SpecTask :=
  (s.sagAt sag).bind (fun g => g.specs.find? (fun t => t.is r))

/-- The live strands of a speculative task. -/
def State.taskStrands (s : State) (sag : Nat) (r : SpecRef) : List StrandRef :=
  s.liveStrands.filter (fun x => decide ((s.strandOf x).sag = sag) && decide ((s.strandOf x).spec = some r))
/-- Sets UNDOB and UNDOP of a speculative task, in its record and in its strands (R237, R326). -/
def State.setUndo (s : State) (sag : Nat) (r : SpecRef) (b p : Word) : State :=
  (s.taskStrands sag r).foldl (fun (s : State) x => s.modStrand x.core x.slot (fun m => { m with undob := b, undop := p }))
    (s.modSpec sag r (fun t => { t with undob := b, undop := p }))

/-- Undoes one source read (R449). -/
def State.undoRead (s : State) (r : Read) : State :=
  match r.undo with
  | .nothing => s
  | .bit code =>
    if code < 32 then s.modMe (fun m => m.fillS code)
    else if code < 40 then s.modStrand s.core ((s.slot + 15) % 16) (fun m => m.markWo (code - 32) true)
    else s.modMe (fun m => m.markWo (code - 40) true)
  | .head q bad => s.modMyCore (fun c => c.modQueue q (fun x => { x with entries := r.val :: x.entries, marks := bad :: x.marks }))

/-- Undoes the source reads of the instruction in progress, last first (R449). -/
def State.undoReads (s : State) : State :=
  (s.me.reads.reverse.foldl State.undoRead s).modMe (fun m => { m with reads := [] })

/-- The instruction in progress is over. -/
def Strand.retire (m : Strand) : Strand :=
  { m with cur := none, stage := 0, reads := [], work := [], reply := none, status := .ready, heldOn := [] }

/-- What the allocator goes on with when a strand is stopped inside its `ctphase`: the siblings in `work` (R334, R405). -/
def Strand.phaseRun (m : Strand) (r : StrandRef) : Option PhaseRun :=
  match m.cur, m.work, m.reads with
  | some (.ctphase _), _ :: parent :: rest, _ :: b :: _ =>
    if m.stage = 1 then some ⟨r.core, r.slot, m.uid, m.task, m.spec, m.heapb, m.heapl, m.heapo, parent, bitsOf b.val 0 16, rest⟩ else none
  | _, _, _ => none

/-- The reads of strand (c, k) are undone, and it stops at its instruction boundary with its waits cancelled (R208, R345 step 1). Its
slot stays taken until its task's abort frees it. A `ctphase` that it has begun goes on at the allocator. -/
def State.stopForAbort (s : State) (r : StrandRef) : State :=
  let back := (s.core, s.slot)
  let s := match (s.strandOf r).phaseRun r with
    | some p => s.modSag (s.strandOf r).sag (fun g => { g with phases := g.phases ++ [p] })
    | none => s
  let t := { s with core := r.core, slot := r.slot }.undoReads
  let t := { t with core := back.1, slot := back.2 }.unlist r.core r.slot
  t.modStrand r.core r.slot (fun m => { m.retire with dying := true, status := .out, bop := false })

/-- A speculative task that runs or is done begins to abort: its strands stop (R338, R345 step 1), those of a relocking die at the relock's end (R441), and
the abort is counted (R235).
The helper's registers are those of the strand that runs the task, the first of its strands, as they are then. Afterwards it fails its launch, is cancelled, or is queued again. -/
def State.beginAbort (s : State) (sag : Nat) (r : SpecRef) (solo cancel fail : Bool) : State :=
  match s.specAt sag r with
  | some t =>
    if t.st = .running ∨ t.st = .done then
      let s1 := (s.modSpec sag r (fun t => { t with st := .aborting, soloNext := solo, cancel := cancel, fail := fail })).count sag
        (fun c => { c with aborts := wrap1 c.aborts })
      let mine := (s1.taskStrands sag r).filter (fun x => !(s1.strandOf x).inverse && !(s1.strandOf x).dying)
      let first := mine.find? (fun x => mine.all (fun y => decide ((s1.strandOf x).uid ≤ (s1.strandOf y).uid)))
      let s1 := match (if t.sdone then none else first) with
        | some x => s1.modSpec sag r (fun t => t.withRegs (s1.strandOf x))
        | none => s1
      (mine.filter (fun x => !s.relocking x.core)).foldl State.stopForAbort s1
    else s
  | none => s

/-- What a slot holds once its strand has ended (R138, R250): its claim, its loop and fetcher state and what it belonged to are gone, its registers
stay. While the slot is kept for a reply (R405), so are the results still to come. -/
def Strand.ended (x : Strand) (dying : Bool) : Strand :=
  { x.retire with
    live := dying, dying := dying, uid := if dying then x.uid else 0, status := if dying then .out else .ready, lc := [], lb := [], le := [], fetcher := none,
    g := 0, v := [], m := [], shrink := none, laneQ := [], laneLoads := 0, laneAcq := false, laneIn := [], jammed := false, rnWait := false, pend := 0,
    pending := if dying then x.pending.filter (fun p => !p.load && decide (p.parts = 0)) else [],
    task := none, bodies := [], invoc := none, spec := none, inverse := false, bop := false }

/-- A strand ends (R138, R250): its claim returns to the pool and its slot is free from the core's next cycle. A strand stopped while a reply is due
keeps its slot until the reply has come (R405). A strand of a running speculative task leaves the registers that the task's helper would take over (R345). -/
def State.endStrand (s : State) (c k : Nat) (killed : Bool) : State :=
  let m := s.strandAt c k
  let s1 := match m.spec with
    | some r => if m.inverse then s else s.modSpec m.sag r (fun (t : SpecTask) => if decide (t.st = SpecState.running) && !t.sdone then t.withRegs m else t)
    | none => s
  let s1 := (s1.unlist c k).galleyEnd m
  let dying := killed && s.owed c k m.uid
  let next := (s.coreAt c).cycle
  (s1.modStrand c k (fun x => { x.ended dying with nextIssue := next })).poolEvent (clusterOf c)

/-- After a strand of a speculative task or inverse routine has ended otherwise than by its own form (R338, R239): the launch
fails, unless other strands of the task still run. -/
def State.specEnded (s : State) (m : Strand) : State :=
  match m.spec with
  | none => s
  | some r =>
    if m.inverse then
      (s.modSpec m.sag r (fun t => { t with fail := true, helper := none, undop := m.undob })).failInstance m.sag r.inst
    else if (s.taskStrands m.sag r).any (fun x => !(s.strandOf x).dying) then s
    else
      match s.specAt m.sag r with
      | some t =>
        if t.sdone then
          if t.st = .running then s.modSpec m.sag r (fun t => { t with st := .done, order := s.time }) else s
        else s.beginAbort m.sag r false false true
      | none => s

/-! Traps (R401 to R404). -/

/-- Causes of R403. -/
inductive Cause where
  | illegalInstruction | illegalOperand | privileged | prefixMisuse | misalignedPc | misalignedAccess | badAddress
  | bitAddress | scopeAddress | feSpace | permission | leaseViolation | rangeLocked | poison | softwareTrap | breakpoint | systemCall
  | loopDepth | iloopDescriptor | strandRole | noLanes | laneRequest | queueInvalid | queueRole | barrierCount | launchRecord
  | tagOverflow | engineDescriptor | energyLimit | bandOwner | jobId | tableKey | tableRole | tableHandle | contextInvalid
  | contextDepth | contextIndex | contextBusy | specRole | specRecord | ctMiss | ctImage | mcastPartition
  deriving DecidableEq, Repr

/-- The code of a cause (R403). -/
def Cause.code : Cause → Nat
  | .illegalInstruction => 1
  | .illegalOperand => 2
  | .privileged => 3
  | .prefixMisuse => 4
  | .misalignedPc => 5
  | .misalignedAccess => 6
  | .badAddress => 7
  | .bitAddress => 8
  | .scopeAddress => 9
  | .feSpace => 10
  | .permission => 11
  | .leaseViolation => 12
  | .rangeLocked => 13
  | .poison => 14
  | .softwareTrap => 15
  | .breakpoint => 16
  | .systemCall => 17
  | .loopDepth => 18
  | .iloopDescriptor => 19
  | .strandRole => 20
  | .noLanes => 21
  | .laneRequest => 22
  | .queueInvalid => 23
  | .queueRole => 24
  | .barrierCount => 25
  | .launchRecord => 26
  | .tagOverflow => 27
  | .engineDescriptor => 28
  | .energyLimit => 29
  | .bandOwner => 30
  | .jobId => 31
  | .tableKey => 32
  | .tableRole => 33
  | .tableHandle => 34
  | .contextInvalid => 35
  | .contextDepth => 36
  | .contextIndex => 37
  | .contextBusy => 38
  | .specRole => 39
  | .specRecord => 40
  | .ctMiss => 41
  | .ctImage => 42
  | .mcastPartition => 43

/-- Takes a synchronous trap with cause code c and value v, EPC epc, of the strand in focus (R401). A nested trap,
a LEASE_VIOLATION and a trap without a vector end the strand and fail its task (R404). -/
def takeTrapCode (c : Nat) (epc v : Word) (s0 : State) : Out :=
  let s := s0.undoReads
  let m := s.me
  let nested := m.inTrap
  let saved := fun (nest : Bool) (x : Strand) => { x.retire with
    epc := withBits epc 0 1 0, ecause := word ((if nest then 2 ^ 16 else 0) + c % 256), eaddr := v }
  if nested || c == 12 || bitsOf m.tvec 1 63 == 0 then
    let t := s.modMe (saved nested)
    let t := t.modMyCore (fun x => { x with endRec := Tbl.put x.endRec s.slot (m.pc, c + (if nested then 2 ^ 16 else 0), v) })
    let t := t.endStrand s.core s.slot true
    let t := if m.spec.isSome then
        match m.spec with
        | some r => if m.inverse then t.specEnded m else t.beginAbort m.sag r false false true
        | none => t
      else t.failTask m.sag m.task
    .next t
  else
    let target := withBits m.tvec 0 1 0
    .next ((s.modMe (fun x => { saved false x with st := withBits x.st 29 1 1, pc := target })).traced 1 target)

/-- Takes a trap at the instruction in focus: EPC is its pc. -/
def trap (c : Cause) (v : Word) (s : State) : Out := takeTrapCode c.code s.me.pc v s

/-- Takes a trap whose value no rule names: a free value (log 1). -/
def trapFree (c : Cause) (s : State) : Out := trap c s.draw.1 s.draw.2

/-- The return from a trap (R141): ST.TRAP is cleared and the strand resumes at EPC. -/
def returnFromTrap (s : State) : Out :=
  let t := s.me.epc
  if t.getLsbD 0 then trap .misalignedPc t s
  else .next ((s.modMe (fun m => { m.retire with st := withBits m.st 29 1 0, pc := t })).traced 2 t)

end Sys2Proof.Machine
end

