-- ==== Sys2Proof/Machine/Operands.lean ====
section
/-! DEFINITION. Every operand form of R63 and R67: the checks of R77, source reads, destination writes, and the
end of an instruction with the hardware loops. -/

namespace Sys2Proof.Machine

/-! Checks (R77, R78). -/

/-- The encoding of the instruction in progress, zero-extended (R78). -/
def State.curWord (s : State) : Word := match s.me.cur with | some i => word (encode i) | none => 0

/-- Whether an operand code may be a scalar source, with its y bit (R63). -/
def srcOk (y : Bool) (c : Code) : Bool :=
  let n := c.toNat
  decide (n < 48) || (!y && (decide (n ≤ 57) || (decide (59 ≤ n) && decide (n ≤ 62))))

/-- Whether an operand code may be a scalar destination (R63). -/
def dstOk (c : Code) : Bool :=
  let n := c.toNat
  decide (n < 32) || (decide (40 ≤ n) && decide (n ≤ 56))

/-- Whether a code is one of v0 to v31 (class V of R67). -/
def vecOk (c : Code) : Bool := decide (c.toNat < 32)
/-- Whether a code is one of s0 to s31 broadcast (class BC of R67). -/
def bcOk (c : Code) : Bool := decide (32 ≤ c.toNat)
/-- Whether a code is one of m0 to m7 (class M of R67). -/
def maskOk (c : Code) : Bool := decide (c.toNat < 8)
/-- Whether a code is one of q0 to q7 (class Q of R67). -/
def queueOk (c : Code) : Bool := decide (48 ≤ c.toNat) && decide (c.toNat < 56)

/-- The checks of R77 after decoding, for an instruction that takes formats or not, may be privileged, and whose operand
codes are legal or not. Past its first step an instruction is not checked again. -/
def checked (privOk takes ok : Bool) (s : State) (k : State → Out) : Out :=
  let m := s.me
  if m.stage ≠ 0 then k s
  else if !privOk then trap .privileged s.curWord s
  else if m.prefixed && !takes then trap .prefixMisuse s.curWord (s.modMe Strand.dropPrefix)
  else if !ok then trap .illegalOperand s.curWord s
  else k s

/-- The checks of an instruction that is not privileged and takes no formats. -/
def plain (ok : Bool) (s : State) (k : State → Out) : Out := checked true false ok s k

/-! Waiting. -/

/-- Parks the strand in focus in a named wait (R252). -/
def park (w : Wait) (s : State) : Out := .next (s.modMe (fun m => { m with status := .parked w }))
/-- The strand in focus cannot send its instruction yet (R405, second row): it is rechecked. -/
def hold (s : State) : Out := .next (s.modMe (fun m => { m with status := .held }))
/-- The same, held on a parked store at a named address, or on a store there that finds no room in the replay queue (R175, R395). -/
def holdOn (named : Nat) (s : State) : Out := .next (s.modMe (fun m => { m with status := .held, heldOn := [named] }))
/-- The same, held until the core's replay queue is empty (R192, R395): on every store parked there. -/
def holdParked (s : State) : Out :=
  let l := (s.myCore.replay.flatMap (·.msgs)).map (·.va)
  .next (s.modMe (fun m => { m with status := .held, heldOn := l }))
/-- The strand in focus has sent its operation; its reply will be written to operand code d (stage 9). -/
def awaitReply (d : Nat) (s : State) : Out := .next (s.modMe (fun m => { m with status := .out, stage := 9, work := [d] }))

/-! Source reads (R65). -/

/-- ix0 to ix3 (R135). -/
def Strand.ix (m : Strand) (j : Nat) : Word :=
  match m.fetcher with
  | none => 0
  | some f =>
    let t3 := f.i
    let t2 := t3 / max f.n3 1
    let t1 := t2 / max f.n2 1
    let t0 := t1 / max f.n1 1
    match j with
    | 0 => word t0
    | 1 => word (t1 % max f.n1 1)
    | 2 => word (t2 % max f.n2 1)
    | _ => word (t3 % max f.n3 1)

/-- Records a source read of the instruction in progress. -/
def State.pushRead (s : State) (r : Read) : State := s.modMe (fun m => { m with reads := m.reads ++ [r] })

/-- Whether the binding of queue q admits the strand in focus as reader or writer (R257). -/
def Queue.admits (x : Queue) (slot : Nat) (writer : Bool) : Bool :=
  match x.bound with
  | none => true
  | some (w, r) => decide (slot = if writer then w else r)

/-- Reads the j-th source of the instruction in progress (R63, R65): a latched read is used again; an empty register or
queue parks the strand. -/
def readSrc (j : Nat) (c : Code) (y : Bool) (s : State) (k : Word → State → Out) : Out :=
  match s.me.reads[j]? with
  | some r => k r.val s
  | none =>
    let n := c.toNat
    let m := s.me
    if n < 32 then
      if m.sFull.getLsbD n then
        let s := s.pushRead ⟨m.sreg n, if y then .bit n else .nothing⟩
        k (m.sreg n) (if y then s.modMe (fun m => m.emptyS n) else s)
      else park (.reg n) s
    else if n < 40 then
      let p := (s.slot + 15) % 16
      let w := s.strandAt s.core p
      if w.woFull.getLsbD (n - 32) then
        let s := s.pushRead ⟨w.woreg (n - 32), if y then .bit n else .nothing⟩
        k (w.woreg (n - 32)) (if y then s.modStrand s.core p (fun m => m.markWo (n - 32) false) else s)
      else park (.reg n) s
    else if n < 48 then
      if m.woFull.getLsbD (n - 40) then
        let s := s.pushRead ⟨m.woreg (n - 40), if y then .bit n else .nothing⟩
        k (m.woreg (n - 40)) (if y then s.modMe (fun m => m.markWo (n - 40) false) else s)
      else park (.reg n) s
    else if n < 56 then
      let q := n - 48
      let x := s.myCore.queue q
      if !x.admits s.slot false then trap .queueRole (word q) s
      else
        match x.entries with
        | e :: t =>
          if x.poppers.isEmpty || x.poppers.head? == some s.slot then
            let bad := x.marks.headD false
            let s := s.modMyCore (fun c => c.modQueue q (fun x => { x with entries := t, poppers := x.poppers.filter (· != s.slot), marks := x.marks.drop 1 }))
            if bad then k 0 ((s.pushRead ⟨0, .head q true⟩).countPoison s.core s.slot s.me.sag) else k e (s.pushRead ⟨e, .head q false⟩)
          else park (.pop q) (s.modMyCore (fun c => c.modQueue q (fun x => { x with poppers := if x.poppers.contains s.slot then x.poppers else x.poppers ++ [s.slot] })))
        | [] => park (.pop q) (s.modMyCore (fun c => c.modQueue q (fun x => { x with poppers := if x.poppers.contains s.slot then x.poppers else x.poppers ++ [s.slot] })))
    else
      let v := if n = 57 then word m.vl else if 59 ≤ n then m.ix (n - 59) else 0
      k v (s.pushRead ⟨v, .nothing⟩)

/-! The end of an instruction: hardware loops (R131 to R134). -/

/-- LCk. -/
def Strand.lcAt (m : Strand) (k : Nat) : Word := Tbl.get m.lc k 0
/-- LBk. -/
def Strand.lbAt (m : Strand) (k : Nat) : Word := Tbl.get m.lb k 0
/-- LEk. -/
def Strand.leAt (m : Strand) (k : Nat) : Word := Tbl.get m.le k 0
/-- Writes LCk; a level that is freed takes an active fetcher with it (R135). -/
def Strand.setLc (m : Strand) (k : Nat) (v : Word) : Strand :=
  { m with lc := Tbl.set m.lc k v 0,
           fetcher := match m.fetcher with | some f => if f.level = k && v == 0 then none else some f | none => none }
/-- The innermost active level. -/
def Strand.innermost (m : Strand) : Option Nat :=
  if m.lcAt 2 ≠ 0 then some 2 else if m.lcAt 1 ≠ 0 then some 1 else if m.lcAt 0 ≠ 0 then some 0 else none
/-- The lowest free level. -/
def Strand.freeLevel (m : Strand) : Option Nat :=
  if m.lcAt 0 = 0 then some 0 else if m.lcAt 1 = 0 then some 1 else if m.lcAt 2 = 0 then some 2 else none
/-- An address with bit 0 cleared. -/
def even (w : Word) : Word := withBits w 0 1 0

/-- What the end rule of R132 decides: the next pc; the level whose back-edge was taken; the level whose
fetcher must claim again. -/
inductive LoopEnd where
  | go (m : Strand) (next : Word) (back : Option Nat)
  | claim (m : Strand) (next : Word)
  deriving Repr

/-- The end rule of R132, one level at a time from the innermost (`fuel` levels at most). -/
def loopEnd : Nat → Strand → Word → Word → Bool → LoopEnd
  | 0, m, _, next, _ => .go m next none
  | fuel + 1, m, pc, next, fell =>
    match m.innermost with
    | none => .go m next none
    | some k =>
      if next = even (m.leAt k) then
        let c := m.lcAt k - 1
        match m.fetcher with
        | some f =>
          if f.level = k then
            if c ≠ 0 then .go { m with lc := Tbl.set m.lc k c 0, fetcher := some { f with i := f.i + 1 } } (even (m.lbAt k)) (some k)
            else .claim { m with fetcher := some { f with i := f.i + 1 } } next
          else if c ≠ 0 then .go { m with lc := Tbl.set m.lc k c 0 } (even (m.lbAt k)) (some k)
          else loopEnd fuel (m.setLc k 0) pc next fell
        | none =>
          if c ≠ 0 then .go { m with lc := Tbl.set m.lc k c 0 } (even (m.lbAt k)) (some k)
          else loopEnd fuel (m.setLc k 0) pc next fell
      else if fell && pc.ult (even (m.leAt k)) && (even (m.leAt k)).ult next then loopEnd fuel (m.setLc k 0) pc next fell
      else .go m next none

/-- A taken branch frees the active levels whose body its target leaves, and every level inside them (R133). -/
def Strand.leaveLoops (m : Strand) (target : Word) : Strand :=
  let outside := fun (k : Nat) => m.lcAt k != 0 && !((even (m.lbAt k)).ule target && target.ult (even (m.leAt k)))
  if outside 0 then ((m.setLc 0 0).setLc 1 0).setLc 2 0
  else if outside 1 then (m.setLc 1 0).setLc 2 0
  else if outside 2 then m.setLc 2 0
  else m

/-- The instruction in progress ends with the pc that it would otherwise leave (R132): the loops are applied, and a
back-edge with RN set is a re-negotiation point (R151); a fetcher whose chunk is used up claims next (stage 13, R134). `fell` says it went on in sequence. -/
def completeTo (next : Word) (fell : Bool) (s : State) : Out :=
  let m := s.me.retire
  let s := s.modMe Strand.retire
  if m.inTrap then .next (s.modMe (fun m => { m with pc := next }))
  else
    match loopEnd 4 m m.pc next fell with
    | .go m' pc back =>
      let s := s.modMe (fun _ => { m' with pc := pc })
      match back with
      | none => .next s
      | some k =>
        let s := s.traced 0 pc
        if (m.lbAt k).getLsbD 0 then
          let s' := s.shrinkNow s.core s.slot
          .next (if s'.me.shrink.isSome then s'.modMe (fun m => { m with rnWait := true }) else s')
        else .next s
    | .claim m' pc => .next (s.modMe (fun _ => { m' with pc := pc, stage := 13 }))

/-- The instruction in progress ends and the strand goes on at the next address. -/
def complete (s : State) : Out :=
  completeTo (s.me.pc + word (match s.me.cur with | some i => i.len | none => 4)) true s

/-- A taken `br`, `bz`, `jmp` or `jr.jr` (R133): in a trap handler, whose loop registers are the interrupted code's, it frees no level (log 88). -/
def branchTo (target : Word) (s : State) : Out :=
  completeTo target false ((if s.me.inTrap then s else s.modMe (fun m => m.leaveLoops target)).traced 0 target)

/-- A `call`, `jr.callr` or `jr.ret`, which frees no level (R133). -/
def jumpTo (target : Word) (s : State) : Out := completeTo target false (s.traced 0 target)

/-! Destination writes (R63, R109). -/

/-- Whether register code d has a result still to be written (R110, R176). -/
def Strand.owes (m : Strand) (d : Nat) : Bool := m.pending.any (fun p => decide (p.d = d))

/-- Before an instruction acts: a destination with a pending result holds the strand (R110), and a queue that does not admit
the strand as writer raises QUEUE_ROLE (R257). -/
def withDst (d : Code) (s : State) (k : State → Out) : Out :=
  let n := d.toNat
  if s.me.stage ≠ 0 then k s
  else if n < 32 && s.me.owes n then hold s
  else if decide (48 ≤ n) && decide (n < 56) && !(s.myCore.queue (n - 48)).admits s.slot true then trap .queueRole (word (n - 48)) s
  else k s

/-- Writes v to the destination with operand code n (R63), without ending the instruction: none where the
write must wait, with the wait. DESIGN CHOICE (log 124): a value for a queue that others wait to push waits behind them, also where the instruction has itself
popped an entry of that queue (R256, R258). -/
def writeDst (n : Nat) (v : Word) (s : State) : Except Wait State :=
  if n < 32 then .ok (s.modMe (fun m => m.setS n v))
  else if n < 48 then
    if s.me.woFull.getLsbD (n - 40) then .error (.room n) else .ok (s.modMe (fun m => m.setWo (n - 40) v))
  else if n < 56 then
    let q := n - 48
    let x := s.myCore.queue q
    if x.entries.length < Config.queueDepth && (x.pushers.isEmpty || x.pushers.head? == some s.slot) then
      .ok (s.modMyCore (fun c => c.modQueue q (fun x => { x with entries := x.entries ++ [v], pushers := x.pushers.filter (· != s.slot) })))
    else .error (.push q)
  else .ok s

/-- Joins the pushers of a queue (R258). -/
def State.joinPush (s : State) (w : Wait) : State :=
  match w with
  | .push q => s.modMyCore (fun c => c.modQueue q (fun x => { x with pushers := if x.pushers.contains s.slot then x.pushers else x.pushers ++ [s.slot] }))
  | _ => s

/-- Writes v to destination code n and then goes on with k; where the write must wait, the strand parks holding the value (stage 9). -/
def deliverTo (n : Nat) (v : Word) (s : State) (k : State → Out) : Out :=
  match writeDst n v s with
  | .ok s' => k s'
  | .error w =>
    park w ((s.joinPush w).modMe (fun m => { m with stage := 9, work := n :: (if m.stage = 9 then m.work.drop 1 else []), reply := some ⟨v, [], 0⟩ }))

/-- Ends the instruction in progress by writing v to d (R109). -/
def finish (d : Code) (v : Word) (s : State) : Out := deliverTo d.toNat v s complete

/-- A strand that `strand.start` has put into slot k becomes ready once the starter's d is written (R137). -/
def State.startChild (s : State) (k : Nat) : State :=
  let next := s.myCore.cycle
  s.modStrand s.core k (fun x => if x.live && decide (x.stage = 12) then { x with stage := 0, status := .ready, nextIssue := next } else x)

/-- Whether an instruction is a `vred.q` (R166). -/
def isVredQ : Option Instr → Bool
  | some (.vredFsumQ _) | some (.vredFmaxQ _) | some (.vredFminQ _) | some (.vredIsumQ _) | some (.vredImaxQ _) | some (.vredIminQ _) => true
  | _ => false
/-- A `vred.q` completes: its running state and its prefix are over (R99, R166). -/
def Strand.wrapUp (m : Strand) : Strand :=
  if isVredQ m.cur then { (if m.prefixed then m.dropPrefix else m) with istate1 := 0 } else m

/-- Ends an instruction whose reply has come (stage 9): the cause of a reply is raised (R403), otherwise its value is written. `work` holds the
destination, and after it the slots of strands that this write makes ready. -/
def finishReply (s : State) : Out :=
  match s.me.reply, s.me.work with
  | some r, d :: started =>
    if r.cause ≠ 0 then takeTrapCode r.cause s.me.pc r.val s
    else if 48 ≤ d && d < 56 && !(s.myCore.queue (d - 48)).admits s.slot true then trap .queueRole (word (d - 48)) s
    else deliverTo d r.val s (fun s => complete ((started.foldl State.startChild s).modMe Strand.wrapUp))
  | _, _ => .next s

/-- A result that comes later (R110, R147, R176): an s register is emptied and the strand goes on; for any other
destination the strand leaves the rotation until the result is written. `p` is the result. -/
def later (p : Pend) (s : State) : Out :=
  if p.d < 32 then complete (s.modMe (fun m => { (m.emptyS p.d) with pending := m.pending ++ [p] }))
  else .next (s.modMe (fun m => { m with pending := m.pending ++ [p], status := .out, stage := 9, work := [p.d] }))

/-- The strand in focus owes result p from now on: an s register is empty until it comes (R110, R147). -/
def State.owe (s : State) (p : Pend) : State :=
  s.modMe (fun m => { (if p.d < 32 then m.emptyS p.d else m) with pending := m.pending ++ [p] })

/-- The instruction in progress has done its part, and its result is written to operand code d later (R110). -/
def awaitResult (d : Nat) (s : State) : Out :=
  if d < 32 then complete s else .next (s.modMe (fun m => { m with status := .out, stage := 9, work := [d] }))

/-- A load in a saggar that has elected poison traps: its strand awaits the data, so that POISON is precise (R178, log 94). -/
def awaitLoad (p : Pend) (s : State) : Out :=
  .next (s.modMe (fun m => { m with pending := m.pending ++ [p], status := .out, stage := 9, work := [p.d] }))

/-- A result of a long-latency form (R110). -/
def longLatency (d : Code) (v : Word) (s : State) : Out :=
  later ⟨s.serial, d.toNat, v, 0, 64, false, false, false, none, 0, 0⟩ { s with serial := s.serial + 1 }

/-- Writes a pending result that has come: an s register is filled; otherwise the strand becomes ready to write it (stage 9). -/
def State.fillResult (s : State) (c k : Nat) (p : Pend) : State :=
  s.modStrand c k (fun m =>
    let m := { m with pending := m.pending.filter (fun q => q.id != p.id) }
    if decide (p.d < 32) && !(decide (m.stage = 9) && m.work.head? == some p.d) then m.setS p.d p.val
    else { m with reply := some ⟨p.val, [], 0⟩, status := .ready })

/-! Reading several sources. -/

/-- Reads b and a of a two-source instruction in the order a, b (R65). -/
def two (o : FmtA) (s : State) (k : Word → Word → State → Out) : Out :=
  readSrc 0 o.a o.x s (fun a s => readSrc 1 o.b o.y s (fun b s => k a b s))

/-- A scalar instruction with sources a and b and destination d. -/
def binary (o : FmtA) (f : Word → Word → Word) (s : State) : Out :=
  plain (srcOk o.x o.a && srcOk o.y o.b && dstOk o.d) s (fun s => withDst o.d s (fun s => two o s (fun a b s => finish o.d (f a b) s)))

/-- A scalar instruction with source a and destination d. -/
def unary (o : FmtUn) (f : Word → Word) (s : State) : Out :=
  plain (srcOk o.x o.a && dstOk o.d) s (fun s => withDst o.d s (fun s => readSrc 0 o.a o.x s (fun a s => finish o.d (f a) s)))

end Sys2Proof.Machine
end

