-- ==== Sys2Proof/Machine/Access.lean ====
section
/-! DEFINITION. How an access is made: address kinds (R173), translation (R384 to R393), the quoin table (R283), context
cells (R273, R330), and putting the access in flight (R287). -/

namespace Sys2Proof.Machine

/-- A resolved address (R269). -/
inductive Addr where
  | global (va : Nat)
  | scratch (core off : Nat)
  | slice (cl off : Nat)
  deriving DecidableEq, Repr

/-- What an access does (R391, R283): fetch, load, plain write, atomic update, or `pref`. -/
inductive Acc where
  | fetch | load | store | update
  deriving DecidableEq, Repr

/-- Whether an access writes. -/
def Acc.writes : Acc → Bool
  | .store | .update => true
  | _ => false

/-- Resolves an address operand of a strand in cluster cl of saggar sag over n bytes (R173, R270, R271, R277). -/
def resolve (s : State) (cl sag : Nat) (a : Word) (n : Nat) : Option Addr :=
  let kind := bitsOf a 60 4
  if kind = 0 then
    if bitsOf a 57 3 = 0 && decide (a.toNat + n ≤ 2 ^ 57) then some (.global a.toNat) else none
  else if kind = 8 || kind = 9 then
    let x : Int := if kind = 8 then bitsOf a 55 5 else (xOf cl : Int) + signed 5 (bitsOf a 55 5)
    let y : Int := if kind = 8 then bitsOf a 50 5 else (yOf cl : Int) + signed 5 (bitsOf a 50 5)
    let off := bitsOf a 0 46
    if x < 0 || 19 < x || y < 0 || 23 < y then none
    else
      let t := y.toNat * 20 + x.toNat
      if !s.inSaggar sag t then none
      else if a.getLsbD 46 then
        let plainBytes := match s.sagAt sag with | some g => 65536 * bitsOf g.part 0 5 | none => 0
        if off + n ≤ Config.sliceBytes && decide (off + n ≤ plainBytes) then some (.slice t off) else none
      else if off + n ≤ Config.scratchBytes then some (.scratch (8 * t + bitsOf a 47 3) off) else none
  else none

/-- Whether an operand names n bytes of a shared slice, plain or not (R173). -/
def State.namesSlice (s : State) (cl sag : Nat) (a : Word) (n : Nat) : Bool :=
  match resolve (s.modSag sag (fun g => { g with part := 24 })) cl sag a n with
  | some (.slice ..) => true
  | _ => false

/-- The address that names a location for the quoin table and for cells: virtual, or mesh-local (R282, R330). -/
def Addr.named : Addr → Nat
  | .global va => va
  | .scratch c off => 8 * 2 ^ 60 + xOf (clusterOf c) * 2 ^ 55 + yOf (clusterOf c) * 2 ^ 50 + c % 8 * 2 ^ 47 + off
  | .slice cl off => 8 * 2 ^ 60 + xOf cl * 2 ^ 55 + yOf cl * 2 ^ 50 + 2 ^ 46 + off

/-- Whether an address is global. -/
def Addr.isGlobal : Addr → Bool
  | .global _ => true
  | _ => false

/-- The cluster of a mesh address. -/
def Addr.cluster : Addr → Option Nat
  | .global _ => none
  | .scratch c _ => some (clusterOf c)
  | .slice cl _ => some cl

/-! Translation. -/

/-- Who makes a global access: saggar, cluster, heap registers, leases of the task, and whether hardware outside the leases. -/
structure Issuer where
  (sag cl : Nat) (heapb heapl heapo : Word) (leases : Option (List Lease))
  deriving DecidableEq, Repr

/-- What translation answers; `waits` while a page table entry lies on a pseudo-channel that reloads its repair table (R419). -/
inductive Tr where
  | ok (loc : Nat)
  | waits
  | permission
  | lease (va : Nat)
  | replay (why : ReplayWhy) (loc : Nat)
  | broken (f : Fault)
  deriving DecidableEq, Repr

/-- Whether a location's word gives no data: it is poisoned or lies on a fenced pseudo-channel (R178, R420). -/
def State.dead (s : State) (loc : Nat) : Bool := s.poisoned loc || s.fenced loc
/-- Whether any of n bytes from a location lies in such a word. -/
def State.anyDead (s : State) (loc n : Nat) : Bool := (List.range n).any (fun i => s.dead (loc + i))
/-- A dword of physical HBM memory. -/
def State.dword (s : State) (loc : Nat) : Word := word (ofBytes (s.bytes loc 8))
/-- Writes a dword. -/
def State.setDword (s : State) (loc : Nat) (v : Word) : State := s.setBytes loc (toBytes 8 v.toNat)

/-- A page table entry as the walker reads it: a poisoned or fenced word reads as 0 (R178). -/
def State.pte (s : State) (loc : Nat) : Word := if s.dead loc then 0 else s.dword loc

/-- A walk's result: location of the leaf, the leaf, and log2 of the page size. -/
def walk (s : State) (root va : Nat) : Except Fault (Option (Nat × Word × Nat)) :=
  let at_ := fun (frame idx : Nat) => frame * 65536 + idx * 8
  let pointer := fun (e : Word) => e.getLsbD 0 && decide (bitsOf e 1 15 = 0) && decide (bitsOf e 56 8 = 0)
  let bad := fun (e : Word) => decide (Config.hbmBytes < (bitsOf e 16 40 + 1) * 65536)
  let e1 := s.pte (at_ root (va / 2 ^ 48 % 512))
  if !pointer e1 then .ok none else if bad e1 then .error (.noSuchFrame 0 (bitsOf e1 16 40))
  else
    let e2 := s.pte (at_ (bitsOf e1 16 40) (va / 2 ^ 39 % 512))
    if !pointer e2 then .ok none else if bad e2 then .error (.noSuchFrame 0 (bitsOf e2 16 40))
    else
      let l3 := at_ (bitsOf e2 16 40) (va / 2 ^ 30 % 512)
      let e3 := s.pte l3
      if e3.getLsbD 10 then .ok (some (l3, e3, 30))
      else if !pointer e3 then .ok none else if bad e3 then .error (.noSuchFrame 0 (bitsOf e3 16 40))
      else
        let l4 := at_ (bitsOf e3 16 40) (va / 2 ^ 16 % 2 ^ 14)
        let e4 := s.pte l4
        .ok (some (l4, e4, if e4.getLsbD 9 then 21 else 16))

/-- The walk's reads meet the errors of the words they take (R417). -/
def State.meetWalk (s : State) (root va : Nat) : State :=
  if s.errs.isEmpty then s
  else
    let at_ := fun (frame idx : Nat) => frame * 65536 + idx * 8
    let l1 := at_ root (va / 2 ^ 48 % 512)
    let s1 := s.meet l1 8
    let l2 := at_ (bitsOf (s1.pte l1) 16 40) (va / 2 ^ 39 % 512)
    let s2 := s1.meet l2 8
    let l3 := at_ (bitsOf (s2.pte l2) 16 40) (va / 2 ^ 30 % 512)
    let s3 := s2.meet l3 8
    if (s3.pte l3).getLsbD 10 then s3 else s3.meet (at_ (bitsOf (s3.pte l3) 16 40) (va / 2 ^ 16 % 2 ^ 14)) 8

/-- The locations of the entries that a walk reads. -/
def State.walkReads (s : State) (root va : Nat) : List Nat :=
  let at_ := fun (frame idx : Nat) => frame * 65536 + idx * 8
  let pointer := fun (e : Word) => e.getLsbD 0 && decide (bitsOf e 1 15 = 0) && decide (bitsOf e 56 8 = 0)
  let l1 := at_ root (va / 2 ^ 48 % 512)
  if !pointer (s.pte l1) then [l1]
  else
    let l2 := at_ (bitsOf (s.pte l1) 16 40) (va / 2 ^ 39 % 512)
    if !pointer (s.pte l2) then [l1, l2]
    else
      let l3 := at_ (bitsOf (s.pte l2) 16 40) (va / 2 ^ 30 % 512)
      if (s.pte l3).getLsbD 10 || !pointer (s.pte l3) then [l1, l2, l3]
      else [l1, l2, l3, at_ (bitsOf (s.pte l3) 16 40) (va / 2 ^ 16 % 2 ^ 14)]

/-- Whether a walk, or the write of an entry that it has found, must wait for the reload of a repair table (R419). -/
def State.walkBusy (s : State) (sag va : Nat) : Bool :=
  s.repair.any (fun r => !r.2.struck.isEmpty) && (match s.sagAt sag with | some g => (s.walkReads g.cfg.root va).any (fun l => s.tableWaits l 8) | none => false)

/-- The walk's reads wake the dies whose stacks they reach (R442). -/
def State.wakeWalk (s : State) (root va : Nat) : State :=
  if s.dies.all (fun d => decide (d.2.power = 0)) then s else (s.walkReads root va).foldl (fun (s : State) l => s.wakeHome (homeOf l)) s

/-- The page that holds a named address: log2 of its size and its number. Mesh-local addresses and addresses without a leaf count by 64 KiB
(R175, R386). -/
def State.pageOf (s : State) (sag named : Nat) : Nat × Nat :=
  let bits := if 2 ^ 57 ≤ named then 16 else
    match s.sagAt sag with
    | some g => (match walk s g.cfg.root named with | .ok (some (_, _, b)) => b | _ => 16)
    | none => 16
  (bits, named / 2 ^ bits)

/-- Location of va under a leaf of a page of 2^bits bytes. -/
def leafLoc (leaf : Word) (bits va : Nat) : Nat :=
  spaceBase (bitsOf leaf 6 2) + (bitsOf leaf 16 40 * 65536 / 2 ^ bits * 2 ^ bits + va % 2 ^ bits)

/-- Whether a location lies in the memory of its tier (R20). -/
def tierHas (loc : Nat) : Bool :=
  match spaceOf loc with
  | 0 => decide (loc < Config.hbmBytes)
  | 1 => decide (loc % 2 ^ 60 < Config.lpddrBytes)
  | _ => true

/-- A leaf with its KR bit replaced by the map's (R389). -/
def State.krLeaf (s : State) (leaf : Word) (bits va : Nat) : Word :=
  let loc := leafLoc leaf bits va
  withBits leaf 8 1 (if s.krMap.contains (spaceOf loc * 2 ^ 50 + loc % 2 ^ 60 / 65536) then 1 else 0)

/-- Puts a translation into the TLBs (R390); a full TLB drops the entry that a free value names (log 1). -/
def tlbAdd (cap : Nat) (t : List Tlb) (victim : Nat) (e : Tlb) : List Tlb :=
  if t.length < cap then t ++ [e] else dropAt t (victim % cap) ++ [e]

/-- Whether a TLB entry maps va for a saggar. -/
def Tlb.maps (e : Tlb) (sag va : Nat) : Bool := decide (e.sag = sag) && decide (e.va = va / 2 ^ e.bits * 2 ^ e.bits)

/-- Drops the TLB entries of a cluster and its die that map va (R392). -/
def State.tlbDrop (s : State) (cl sag va : Nat) : State :=
  (s.modCluster cl (fun c => { c with tlb := c.tlb.filter (fun e => !e.maps sag va) })).modDie (dieOf cl)
    (fun d => { d with tlb := d.tlb.filter (fun e => !e.maps sag va) })

/-- The translation of va for an issuer: the cluster TLB, the die's, or a walk that sets A (R386 to R390). -/
def lookup (s : State) (i : Issuer) (va : Nat) : Except Fault (Option (Word × Nat × State)) :=
  match (s.clusterAt i.cl).tlb.find? (fun e => e.maps i.sag va) with
  | some e => .ok (some (e.leaf, e.bits, s))
  | none =>
    let fill := fun (s : State) (e : Tlb) =>
      s.modCluster i.cl (fun c => { c with tlb := tlbAdd Config.tlbEntries c.tlb (Config.freeValue s.free).toNat e })
    match (s.dieAt (dieOf i.cl)).tlb.find? (fun e => e.maps i.sag va) with
    | some e => .ok (some (e.leaf, e.bits, { fill s e with free := s.free + 1 }))
    | none =>
      match s.sagAt i.sag with
      | none => .ok none
      | some g =>
        let s := (s.wakeWalk g.cfg.root va).meetWalk g.cfg.root va
        match walk s g.cfg.root va with
        | .error f => .error f
        | .ok none => .ok none
        | .ok (some (l, leaf, bits)) =>
          if leaf.getLsbD 0 && decide (bitsOf leaf 12 4 = 0) then
            let leaf := withBits leaf 5 1 1
            let e : Tlb := ⟨i.sag, va / 2 ^ bits * 2 ^ bits, bits, s.krLeaf leaf bits va⟩
            let s := s.setDword l leaf
            let s := s.modDie (dieOf i.cl) (fun d => { d with tlb := tlbAdd Config.tlb2Entries d.tlb (Config.freeValue (s.free + 1)).toNat e })
            .ok (some (e.leaf, bits, { fill s e with free := s.free + 2 }))
          else .ok none

/-- Sets the D bit of the leaf of va in the table and in the TLBs (R388). -/
def State.setDirty (s : State) (i : Issuer) (va : Nat) : State :=
  match s.sagAt i.sag with
  | none => s
  | some g =>
    match walk s g.cfg.root va with
    | .ok (some (l, leaf, _)) =>
      let s := s.setDword l (withBits leaf 4 1 1)
      let f := fun (t : List Tlb) => modIf t (fun e => e.maps i.sag va) (fun e => { e with leaf := withBits e.leaf 4 1 1 })
      (s.modCluster i.cl (fun c => { c with tlb := f c.tlb })).modDie (dieOf i.cl) (fun d => { d with tlb := f d.tlb })
    | _ => s

/-- Whether strands, of whatever saggar, may not touch a location: the undo areas, spill segments and regions of any saggar (R337, R381). -/
def State.noAccess (s : State) (loc : Nat) : Bool :=
  s.saggars.any (fun e =>
    e.2.cfg.noAccess.any (fun r => decide (r.1 ≤ loc) && decide (loc < r.1 + r.2)) ||
    e.2.cfg.queues.any (fun q => decide (q.seg ≤ loc) && decide (loc < q.seg + 32 * q.spill)) ||
    (decide (e.2.cfg.undoPa ≤ loc) && decide (loc < e.2.cfg.undoPa + 8192 * e.2.cfg.undoAreas)))

/-- The permission checks of R391 step 3 on a leaf. -/
def leafCheck (s : State) (kd : Acc) (leaf : Word) (bits va : Nat) : Tr :=
  let loc := leafLoc leaf bits va
  if leaf.getLsbD 8 || !(if kd = .fetch then leaf.getLsbD 3 else leaf.getLsbD 1) || (Tbl.find s.keys (bitsOf leaf 56 8)).isNone then .permission
  else if !tierHas loc then .broken (.noSuchFrame (bitsOf leaf 6 2) (bitsOf leaf 16 40))
  else if s.noAccess loc then .permission
  else if kd.writes && !leaf.getLsbD 2 then .replay .writeProtect loc
  else if kd.writes && !leaf.getLsbD 4 then .replay .dirtyLog loc
  else .ok loc

/-- The physical address of an atom, which is its tweak (R424): LPDDR6 is addressed from its own start (log 89). -/
def atomAddr (atom : Nat) : Nat := 32 * atom % 2 ^ 60

/-- The bytes of an atom as another key decrypts them (R424). -/
@[irreducible] def rekeyed (was now : BitVec 512) (atom : Nat) (bs : List Byte) : List Byte :=
  let d := xtsDecrypt now (atomAddr atom) (xtsEncrypt was (atomAddr atom) (blockAt (ofBytes bs) 0, blockAt (ofBytes bs) 16))
  d.1.bytes ++ d.2.bytes

/-- An atom comes under a key: what it holds is what that key decrypts. The first write to an atom that none has been written under seals it (log 89). -/
def State.sealAtom (k : BitVec 512) (write : Bool) (s : State) (atom : Nat) : State :=
  match Tbl.find s.sealed atom with
  | some was =>
    if was = k then s
    else { s.setBytes (32 * atom) (rekeyed was k atom ((List.range 32).map (fun i => s.byte (32 * atom + i)))) with sealed := Tbl.put s.sealed atom k }
  | none => if write then { s with sealed := Tbl.put s.sealed atom k } else s

/-- An access to n bytes of HBM or LPDDR6 is made with the key of an id (R424): memory holds them as that key decrypts them. -/
def State.underKey (s : State) (kd : Acc) (loc n id : Nat) : State :=
  if 2 ≤ spaceOf loc then s
  else
    match Tbl.find s.keys id with
    | some k => (List.range ((loc + n + 31) / 32 - loc / 32)).foldl (fun s j => s.sealAtom k kd.writes (loc / 32 + j)) s
    | none => s

/-- The sealed atoms among n bytes come under the key of an id. -/
def State.viewUnder (s : State) (lo n id : Nat) : State :=
  match Tbl.find s.keys id with
  | some k => (s.sealed.filter (fun e => decide (lo ≤ 32 * e.1) && decide (32 * e.1 < lo + n))).foldl (fun s e => s.sealAtom k false e.1) s
  | none => s

/-- Whether neither TLB of an issuer holds a translation of va (R390). -/
def State.tlbMiss (s : State) (i : Issuer) (va : Nat) : Bool :=
  !(s.clusterAt i.cl).tlb.any (fun e => e.maps i.sag va) && !(s.dieAt (dieOf i.cl)).tlb.any (fun e => e.maps i.sag va)

/-- The paged path (R391, R392, R424): a failing check drops the TLB entries and walks once more. -/
def paged (s : State) (i : Issuer) (kd : Acc) (va n : Nat) : Tr × State :=
  let once := fun (s : State) =>
    if s.walkBusy i.sag va && s.tlbMiss i va then (Tr.waits, s, 0)
    else match lookup s i va with
    | .error f => (Tr.broken f, s, 0)
    | .ok none => (Tr.permission, s, 0)
    | .ok (some (leaf, bits, s)) => (leafCheck s kd leaf bits va, s, bitsOf leaf 56 8)
  let settle := fun (r : Tr × State × Nat) =>
    match r.1 with
    | .ok loc => (r.1, r.2.1.underKey kd loc n r.2.2)
    | .replay .dirtyLog loc =>
      if (match r.2.1.sagAt i.sag with | some g => g.cfg.dlog | none => false) then (r.1, r.2.1)
      else if r.2.1.walkBusy i.sag va then (Tr.waits, r.2.1)
      else (Tr.ok loc, (r.2.1.setDirty i va).underKey kd loc n r.2.2)
    | _ => (r.1, r.2.1)
  let r := settle (once s)
  match r.1 with
  | .permission | .replay .writeProtect _ => settle (once (r.2.tlbDrop i.cl i.sag va))
  | _ => r

/-- Step 5 of R174 for n bytes at virtual address va (R385, R391): the heap window, or lease and paged path. -/
def translate (s : State) (i : Issuer) (kd : Acc) (va n : Nat) : Tr × State :=
  let base := bitsOf i.heapb 16 41 * 65536
  let off := (va + 2 ^ 64 - base) % 2 ^ 64
  if off < bitsOf i.heapl 16 41 * 65536 then
    let pa := bitsOf i.heapo 16 40 * 65536 + off
    let inGrant := match s.sagAt i.sag with
      | some g => decide (g.cfg.grantBase ≤ pa) && decide (pa + n ≤ g.cfg.grantBase + g.cfg.grantLen)
      | none => false
    if kd = .fetch || !inGrant || (Tbl.find s.keys (bitsOf i.heapo 56 8)).isNone || s.noAccess pa then (.permission, s)
    else (.ok pa, s.underKey kd pa n (bitsOf i.heapo 56 8))
  else
    let bad := match i.leases with
      | none => none
      | some ls => (List.range n).find? (fun j =>
          !(ls.any (fun l => decide (l.base ≤ va + j) && decide (va + j < l.base + l.len) && (!kd.writes || l.rw))))
    match bad with
    | some j => (.lease (va + j), s)
    | none => paged s i kd va n

/-- The leases of a task (R393). -/
def State.leasesOf (s : State) (sag : Nat) (task : Option Nat) : List Lease :=
  match s.sagAt sag, task with
  | some g, some t => match g.tasks.find? (fun x => x.id = t) with | some x => x.leases | none => []
  | _, _ => []

/-- The strand in focus as an issuer. -/
def State.issuer (s : State) : Issuer :=
  ⟨s.me.sag, s.myCluster, s.me.heapb, s.me.heapl, s.me.heapo, some (s.leasesOf s.me.sag s.me.task)⟩

/-! The checks of R174. -/

/-- Where an access that passed its checks goes: the address that names it, its location, and the replay-class fault it met. -/
structure Place where
  (addr : Addr) (named loc : Nat) (replay : Option ReplayWhy)
  deriving DecidableEq, Repr

/-- Whether the byte at a named address meets the quoin table for an access (R283). -/
def State.byteLocked (s : State) (kd : Acc) (named : Nat) : Bool :=
  (s.clusterAt s.myCluster).ranges.any (fun r => (r.dst || kd.writes) && decide (named ≤ r.last) && decide (r.first ≤ named))

/-- The first of n bytes at a named address that the quoin table locks (R174, R283). -/
def State.rangeLocked (s : State) (kd : Acc) (named n : Nat) : Option Nat :=
  (List.range n).find? (fun j => s.byteLocked kd (named + j))

/-- How an access reports and waits: an element of a lane instruction is named by its own address, any other access by its first failing byte (R167, R174);
and what the strand does while translation waits. -/
structure Way where
  (element : Bool) (wait : State → Out)
/-- A scalar access: its strand is held while translation waits. -/
def Way.byte : Way := ⟨false, hold⟩
/-- An element of a lane instruction (R167). -/
def Way.lane : Way := ⟨true, hold⟩

/-- The last step of R174: a locked granule traps, and otherwise the access goes on at its place. -/
def arrive (y : Way) (kd : Acc) (a : Word) (n : Nat) (ad : Addr) (loc : Nat) (why : Option ReplayWhy) (k : Place → State → Out) (s : State) : Out :=
  match s.rangeLocked kd ad.named n with
  | some j => trap .rangeLocked (if y.element then a else a + word j) s
  | none => k ⟨ad, ad.named, loc, why⟩ s

/-- How a global access goes on after its translation (R174). -/
def landed (y : Way) (kd : Acc) (a : Word) (n va : Nat) (k : Place → State → Out) (r : Tr × State) : Out :=
  match r.1 with
  | .ok loc => arrive y kd a n (.global va) loc none k r.2
  | .waits => y.wait r.2
  | .permission => trap .permission a r.2
  | .lease v => trap .leaseViolation (if y.element then a else word v) r.2
  | .replay why loc => arrive y kd a n (.global va) loc (some why) k r.2
  | .broken f => .fault f

/-- Where the checked address of an access leads: a mesh-local one arrives at once, a global one is translated (R174). -/
def goTo (y : Way) (kd : Acc) (a : Word) (n : Nat) (k : Place → State → Out) (s : State) : Addr → Out
  | .scratch c off => arrive y kd a n (.scratch c off) (scratchLoc c off) none k s
  | .slice cl off => arrive y kd a n (.slice cl off) (sliceLoc cl off) none k s
  | .global va => landed y kd a n va k (translate s s.issuer kd va n)

/-- Steps 2 to 6 of R174 for an access of n bytes at operand a, aligned to `al`; `pre` stands between alignment and translation (the
scope check of an atomic). -/
def accessBy (y : Way) (kd : Acc) (a : Word) (n al : Nat) (pre : Addr → Bool) (s : State) (k : Place → State → Out) : Out :=
  match resolve s s.myCluster s.me.sag a n with
  | none => trap .badAddress a s
  | some ad =>
    if a.toNat % al ≠ 0 then trap .misalignedAccess a s
    else if !pre ad then trap .scopeAddress a s
    else goTo y kd a n k s ad

/-- The same for a scalar access. -/
abbrev access (kd : Acc) (a : Word) (n al : Nat) (pre : Addr → Bool) (s : State) (k : Place → State → Out) : Out := accessBy .byte kd a n al pre s k

/-! Cells of contexts (R273, R330). -/

/-- The cluster and bank that hold a context's cell of a block (R330). -/
def cellHome (g : Saggar) (ctx blk : Nat) : Home :=
  let h := blk ^^^ (ctx * 65537)
  ⟨.slice, g.clusterNo (h % 2 ^ 32 % max g.size 1), h / 2 ^ 32 % 16⟩

/-- Whether a context is live or retired for commit. -/
def Saggar.ctxUsable (g : Saggar) (c : Nat) : Bool :=
  match Tbl.find g.ctxs c with
  | some x => decide (x.st ≠ .releasing)
  | none => false

/-- The byte that a context's chain gives for a named address, if any cell of it holds one (R273). -/
def Saggar.chainByte (g : Saggar) (named : Nat) : Nat → Nat → Option Byte
  | 0, _ => none
  | fuel + 1, c =>
    if c = 0 then none
    else
      match (g.cells.find? (fun x => x.ctx = c && x.blk = named / 64)).bind (fun x => Tbl.find x.bytes (named % 64)) with
      | some b => some b
      | none =>
        match Tbl.find g.ctxs c with
        | some x => g.chainByte named fuel x.parent
        | none => none

/-- Whether the byte that a context's chain gives for a named address lies in a poisoned word of its cell (R273, R417). -/
def Saggar.chainBad (g : Saggar) (named : Nat) : Nat → Nat → Bool
  | 0, _ => false
  | fuel + 1, c =>
    if c = 0 then false
    else
      match g.cells.find? (fun x => x.ctx = c && x.blk = named / 64 && (Tbl.find x.bytes (named % 64)).isSome) with
      | some x => x.bad.contains (named % 64 / 4)
      | none =>
        match Tbl.find g.ctxs c with
        | some x => g.chainBad named fuel x.parent
        | none => false

/-- One byte as a context sees it (R273): its own cells, its ancestors', base memory. A free or releasing tag reads as context 0 (R234, R329). -/
def State.ctxByte (s : State) (sag ctx named loc : Nat) : Byte :=
  match s.sagAt sag with
  | some g => if ctx = 0 || !g.ctxUsable ctx then s.byte loc else (g.chainByte named 6 ctx).getD (s.byte loc)
  | none => s.byte loc

/-- Writes one byte into a context's cell, creating it (R330). -/
def Saggar.putCell (g : Saggar) (ctx named : Nat) (b : Byte) : Saggar :=
  let blk := named / 64
  if g.cells.any (fun x => x.ctx = ctx && x.blk = blk) then
    { g with cells := modIf g.cells (fun x => x.ctx = ctx && x.blk = blk) (fun x => { x with bytes := Tbl.put x.bytes (named % 64) b }) }
  else { g with cells := g.cells ++ [⟨ctx, blk, [(named % 64, b)], []⟩] }

/-- Cells a bank of a saggar can hold (R331): its share of the slice partition and of the HBM region. -/
def Saggar.cellShare (g : Saggar) : Nat :=
  bitsOf g.part 10 5 * 65536 / 16 / 64 + g.cfg.cellGib * 2 ^ 30 / 64 / (16 * max g.size 1)

/-- Whether the bank of a context's block has no room for a new cell (R331). -/
def Saggar.cellFull (g : Saggar) (ctx blk : Nat) : Bool :=
  !(g.cells.any (fun x => x.ctx = ctx && x.blk = blk)) &&
  decide (g.cellShare ≤ (g.cells.filter (fun x => cellHome g x.ctx x.blk = cellHome g ctx blk)).length)

/-! Putting an access in flight. -/

/-- The strand's tag on a place: scratchpads carry none, an open `bop` forces 0 (R272, R237). -/
def State.tagFor (s : State) (p : Place) : Nat :=
  match p.addr with
  | .scratch .. => 0
  | _ => if s.me.bop then 0 else s.me.ctx

/-- The home of a place in a context: its cell's when the context is not 0 (R279). -/
def State.homeFor (s : State) (p : Place) (ctx : Nat) : Home :=
  if ctx = 0 then homeOf p.loc
  else match s.sagAt s.me.sag with | some g => cellHome g ctx (p.named / 64) | none => homeOf p.loc

/-- Puts a message of the strand in focus in flight, of the instruction whose first message is op. -/
def State.postOf (s : State) (op tc ctx va loc n : Nat) (home : Home) (body : Body) : State :=
  let m := s.me
  { s with net := s.net ++ [⟨s.serial, s.core, s.slot, m.uid, m.sag, m.task, m.spec, tc, ctx, va, loc, n, home, body, op, s.time⟩], serial := s.serial + 1 }
/-- Puts the one message of an instruction in flight. -/
def State.post (s : State) (tc ctx va loc n : Nat) (home : Home) (body : Body) : State := s.postOf s.serial tc ctx va loc n home body

/-- Whether a store to a page must go behind a parked store to it (R175). -/
def State.parkedPage (s : State) (named : Nat) : Option ReplayWhy :=
  (s.myCore.replay.find? (fun r => r.msgs.any (fun m => decide (m.sag = s.me.sag) && decide (s.pageOf m.sag m.va = s.pageOf m.sag named)))).map (·.why)

/-- Whether n bytes overlap a parked store of the core (R175). -/
def State.parkedOverlap (s : State) (named n : Nat) : Bool :=
  s.myCore.replay.any (fun r => r.msgs.any (fun m => decide (m.sag = s.me.sag) && decide (m.va < named + n) && decide (named < m.va + m.size)))

/-- Whether an earlier message of the strand in focus bars an access to n bytes at a location through a home (R287, R290): an access to them on its way
to another home, or, for a load, an update that is still outstanding. In a scratchpad two accesses to one byte share its bank. -/
def State.crosses (s : State) (load : Bool) (home : Home) (loc n : Nat) : Bool :=
  let meets := fun (l k : Nat) => decide (l < loc + n) && decide (loc < l + k)
  s.net.any (fun m => decide (m.uid = s.me.uid) && decide (m.core = s.core) &&
    match m.body with
    | .put _ c => load && (meets m.loc 8 || (match c with | some l => meets l 8 | none => false))
    | .mput _ ds => load && ds.any (fun d => meets d.1 8 || (match d.2 with | some l => meets l 8 | none => false))
    | .atomic _ _ _ false => meets m.loc m.size && (load || decide (m.home ≠ home))
    | _ => meets m.loc m.size && decide (m.home ≠ home) && decide (home.kind ≠ .scratch))

/-- Whether a message holds one of its core's requests: loads, stores, atomics, reductions, full/empty operations, puts, sends and signals, lane
elements too (R177, R284). -/
def Body.counts : Body → Bool
  | .commit .. | .bar .. | .spawn .. | .tcall .. | .tans .. => false
  | _ => true

/-- The requests of core c in flight: of the messages given, on their way; listed at homes; and not yet acknowledged (R177). -/
def State.requests (s : State) (c : Nat) (net : List Msg) : Nat :=
  (net.filter (fun m => decide (m.core = c) && m.body.counts)).length + (s.waiters.filter (fun w => decide (w.msg.core = c))).length +
    (s.acks.filter (fun a => decide (a.core = c) && a.req)).length

/-- Whether the core in focus has room for n more requests in flight (R177, R284). -/
def State.requestRoom (s : State) (n : Nat) : Bool := decide (s.requests s.core s.net + n ≤ Config.requestLimit)

/-- Whether the message at place k of those in flight still waits at its core for one of the core's requests: lane elements beyond the limit
do (R177, R284). -/
def State.unsent (s : State) (k : Nat) (m : Msg) : Bool :=
  m.body.counts && decide (Config.requestLimit ≤ s.requests m.core (s.net.take k))

/-- Whether a strand still has a message that waits for a request: it stays out of the rotation (R177). -/
def State.sending (s : State) (c k : Nat) : Bool :=
  decide (Config.requestLimit < s.requests c s.net) &&
  (List.range s.net.length).any (fun i => match s.net[i]? with | some m => decide (m.core = c) && decide (m.slot = k) && s.unsent i m | none => false)

/-- Sends a write-class message to a place, or parks it in the replay queue (R175); a full replay queue holds the strand. -/
def sendWrite (p : Place) (tc ctx n : Nat) (body : Body) (s : State) (k : State → Out) : Out :=
  if !s.requestRoom 1 then hold s
  else
    match (match p.replay with | some w => some w | none => s.parkedPage p.named) with
    | none => k (s.post tc ctx p.named p.loc n (s.homeFor p ctx) body)
    | some why =>
      if Config.replayDepth ≤ s.myCore.replay.length then holdOn p.named s
      else
        let m := s.me
        let msg : Msg := ⟨s.serial, s.core, s.slot, m.uid, m.sag, m.task, m.spec, tc, ctx, p.named, p.loc, n, s.homeFor p ctx, body, s.serial, s.time⟩
        k ({ s with serial := s.serial + 1 }.modMyCore (fun c => { c with replay := c.replay ++ [Replay.mk [msg] why (m.heapb, m.heapl, m.heapo)] }))

/-- Sends the writes of one instruction, each a place, a size and a body: those that meet a replay-class fault, or a page with a parked store, enter
the replay queue, one entry for each page (R167, R175). A replay queue without that room holds the strand, as does a core without a free request; the
other writes go out as requests come free (log 79). DESIGN CHOICE (log 121): the whole instruction waits until all its pages fit, so one that meets more
faulting pages than the queue has entries goes on only once enough of those faults have cleared. -/
def sendAll (ctx : Place → Nat) (tc : Nat) (ws : List (Place × Nat × Body)) (s : State) (k : State → Out) : Out :=
  let why := fun (p : Place) => match p.replay with | some w => some w | none => s.parkedPage p.named
  let parked := ws.filter (fun w => (why w.1).isSome)
  let pages := (parked.map (fun w => s.pageOf s.me.sag w.1.named)).eraseDups
  if !ws.isEmpty && !s.requestRoom 1 then hold s
  else if Config.replayDepth < s.myCore.replay.length + pages.length then holdOn ((parked.head?.map (fun w => w.1.named)).getD 0) s
  else
    let m := s.me
    let msg := fun (id : Nat) (w : Place × Nat × Body) =>
      Msg.mk id s.core s.slot m.uid m.sag m.task m.spec tc (ctx w.1) w.1.named w.1.loc w.2.1 (s.homeFor w.1 (ctx w.1)) w.2.2 s.serial s.time
    let all := (List.range ws.length).zip ws
    let out := (all.filter (fun x => (why x.2.1).isNone)).map (fun x => msg (s.serial + x.1) x.2)
    let entries := pages.map (fun pg =>
      let es := all.filter (fun x => (why x.2.1).isSome && decide (s.pageOf m.sag x.2.1.named = pg))
      Replay.mk (es.map (fun x => msg (s.serial + x.1) x.2)) ((es.head?.bind (fun x => why x.2.1)).getD .writeProtect) (m.heapb, m.heapl, m.heapo))
    k (State.modMyCore { s with net := s.net ++ out, serial := s.serial + ws.length } (fun c => { c with replay := c.replay ++ entries }))

/-! Records read at issue (R450). -/

/-- The homes that a message touches when it is next applied (R195, R196, R279). -/
def Msg.homes (m : Msg) : List Home :=
  let pair := fun (l : Nat) (c : Option Nat) => homesOf l 8 ++ (match c with | some x => homesOf x 8 | none => [])
  match m.body with
  | .put _ c => pair m.loc c
  | .mput _ (d :: _) => pair d.1 d.2
  | _ => if m.home.kind = .scratch then homesOf m.loc m.size else [m.home]

/-- The homes that a message has still to visit: for an `mput` those of all its destinations (R196, R294). -/
def Msg.route (m : Msg) : List Home :=
  match m.body with
  | .mput _ ds => ds.flatMap (fun d => homesOf d.1 8 ++ (match d.2 with | some x => homesOf x 8 | none => []))
  | _ => m.homes

/-- Whether a message is an access, which its NI delivers in order (R287): the byte writes of a commit are in no order (R297), and mailbox messages have
an order of their own (R193). -/
def Body.inOrder : Body → Bool
  | .commit .. | .mail .. => false
  | _ => true

/-- Whether an older access of the own cluster is still on its way to one of the homes: a synchronous read there would overtake it (R287). -/
def State.behind (s : State) (hs : List Home) : Bool :=
  s.net.any (fun m => decide (clusterOf m.core = s.myCluster) && m.body.inOrder && m.route.any (fun h => hs.contains h))

/-! Peers (R412, R413). -/

/-- Whether a (port, peer) pair is the one through which a location is reached. -/
def Peer.reaches (p : Peer) (loc : Nat) : Bool := decide (spaceOf loc = 3) && decide (Config.peerOf (loc % 2 ^ 60 / 65536) = (p.port, p.peer))

/-- Whether a location lies in peer memory that no path reaches (R413). -/
def State.cutOff (s : State) (loc : Nat) : Bool := decide (spaceOf loc = 3) && s.peers.all (fun p => !p.reaches loc || p.links.isEmpty)

/-- A message to peer memory takes the next number of its (port, peer) pair, with the generation of its channel, and stays unacknowledged (R412, R414). -/
def State.sendPeer (s : State) (loc : Nat) (b : SentBody) : State :=
  { s with peers := modIf s.peers (fun p => p.reaches loc) (fun p => { p with sendSeq := (p.sendSeq + 1) % 2 ^ 32, unacked := p.unacked ++ [Sent.mk p.sendSeq p.gen b] }) }

/-- An error completion at a peer is told to the compositors, and one of an update is counted (R413). -/
def State.peerError (s : State) (loc : Nat) (update : Bool) : State :=
  { s with peers := modIf s.peers (fun p => p.reaches loc) (fun p => { p with told := p.told + 1, errors := p.errors + (if update then 1 else 0) }) }

/-- A read made at once reaches the home of its location, which it wakes (R442): a peer answers it in the same turn, after all that was sent to it before, so that it
is never outstanding, or it completes there with an error (R412, R413). -/
def State.sendRead (s : State) (loc : Nat) : State :=
  if spaceOf loc ≠ 3 then s.wakeHome (homeOf loc)
  else if s.cutOff loc then s.peerError loc false
  else { s with peers := modIf s.peers (fun p => p.reaches loc) (fun p => { p with sendSeq := (p.sendSeq + 1) % 2 ^ 32 }) }

/-- Whether a message has been sent to the peer of a location and not been acknowledged: a read made at once waits for it (R287, R412). -/
def State.peerBusy (s : State) (loc : Nat) : Bool := s.peers.any (fun p => p.reaches loc && !p.unacked.isEmpty)

/-- Whether a read made at once must wait for its target: a scratchpad of a relocking die (R440), a busy peer, or a pseudo-channel that reloads its table
(R419). -/
def State.barsRead (s : State) (loc : Nat) : Bool :=
  (decide (spaceOf loc = 4) && s.relocking (loc % 2 ^ 60 / 2 ^ 18)) || s.peerBusy loc || s.tableWaits loc 8

/-- The writes of a die on their way to host and peer memory, oldest first: those sent to a peer and not yet acknowledged, and those in its buffer (R286,
R292). -/
def State.portWrites (s : State) (d : Nat) : List PendWrite :=
  s.peers.flatMap (fun p => p.unacked.filterMap (fun u => match u.body with | .write w => if dieOf (clusterOf w.core) = d then some w else none | _ => none)) ++
  (s.dieAt d).pwb

/-- Whether the saggar of the strand in focus has elected poison traps (R178). -/
def State.poisonTraps (s : State) : Bool := match s.sagAt s.me.sag with | some g => g.cfg.ptrap | none => false

/-- One byte as a die reads it: the youngest of its own writes on their way that covers it, else memory (R292); 0 where no path leads there (R413). -/
def State.dieByte (s : State) (die loc : Nat) : Byte :=
  if s.cutOff loc then 0
  else if offDevice loc then
    match ((s.portWrites die).reverse.find? (fun w => decide (w.loc ≤ loc) && decide (loc < w.loc + w.bytes.length))) with
    | some w => w.bytes.getD (loc - w.loc) 0
    | none => s.byte loc
  else s.byte loc

/-- One byte as a load of a die in a context reads it, and whether it met poison (R178, R273, R420): a cell of the context's chain, else base memory; a
free tag reads as context 0 (R234). -/
def State.readByteAs (s : State) (die sag ctx named loc : Nat) : Byte × Bool :=
  let own := if ctx = 0 then none else (s.sagAt sag).bind (fun g => if g.ctxUsable ctx then (g.chainByte named 6 ctx).map (fun b => (b, g.chainBad named 6 ctx)) else none)
  match own with
  | some (b, bad) => if bad then (0, true) else (b, false)
  | none => if s.dead loc then (0, true) else (s.dieByte die loc, false)

/-- n bytes as a load of a die in a context reads them, poisoned words as 0, and the location of the first poisoned byte (R178). -/
def State.readAs (s : State) (die sag ctx named loc n : Nat) : Nat × Option Nat :=
  (ofBytes ((List.range n).map (fun i => (s.readByteAs die sag ctx (named + i) (loc + i)).1)),
   ((List.range n).find? (fun i => (s.readByteAs die sag ctx (named + i) (loc + i)).2)).map (loc + ·))

/-- Counts an access in a tag that is free (R234). -/
def State.countStray (s : State) (sag ctx : Nat) : State :=
  if ctx ≠ 0 && !(match s.sagAt sag with | some g => g.ctxUsable ctx | none => false) then
    s.count sag (fun c => { c with stray := wrap1 c.stray })
  else s

/-- Whether a dword of a record at place p may not be read yet, as a load might not (R175, R177, R287, R440). -/
def State.recordWaits (s : State) (p : Place) : Bool :=
  let ctx := s.tagFor p
  !s.requestRoom 1 || s.parkedOverlap p.named 8 || s.behind (if ctx = 0 then homesOf p.loc 8 else [s.homeFor p ctx]) ||
    s.crosses true (s.homeFor p ctx) p.loc 8 || (decide (ctx = 0) && s.barsRead p.loc)

/-- Reads n dwords from address a in CTX as relaxed loads of the instruction in progress, at issue (R450): all of them or, where one must wait,
none yet, with the strand held in s0. -/
def readDwords (s0 : State) : Nat → Word → List Word → State → (List Word → State → Out) → Out
  | 0, _, acc, s, k => k acc.reverse s
  | n + 1, a, acc, s, k =>
    accessBy ⟨false, fun _ => hold s0⟩ .load a 8 1 (fun _ => true) s (fun p s =>
      let ctx := s.tagFor p
      if s.recordWaits p then (if s.parkedOverlap p.named 8 then holdOn p.named s0 else hold s0)
      else
        let s := ((s.meet p.loc 8).sendRead p.loc).countStray s.me.sag ctx
        let r := s.readAs s.myDie s.me.sag ctx p.named p.loc 8
        match r.2 with
        | none => readDwords s0 n (a + 8) (word r.1 :: acc) s k
        | some l =>
          if s.poisonTraps then trap .poison (a + word (l - p.loc)) s
          else readDwords s0 n (a + 8) (word r.1 :: acc) (s.countPoison s.core s.slot s.me.sag) k)

/-- Reads n dwords at address a, which must be dword-aligned, for an instruction with address operand op (R271, R450). The words are latched as sources j to
j + n - 1 of the instruction in progress, so that an instruction that waits afterwards does not read them again. -/
def readRecordOf (op : Word) (j : Nat) (a : Word) (n : Nat) (s : State) (k : List Word → State → Out) : Out :=
  if j + n ≤ s.me.reads.length then k (((s.me.reads.drop j).take n).map (·.val)) s
  else
    match resolve s s.myCluster s.me.sag a (8 * n) with
    | none => trap .badAddress op s
    | some _ =>
      if a.toNat % 8 ≠ 0 then trap .misalignedAccess a s
      else readDwords s n a [] s (fun r s => k r (r.foldl (fun (s : State) w => s.pushRead ⟨w, .nothing⟩) s))

/-- Reads the record of n dwords at an address operand (R450). Where the address itself was read from a record, DESIGN CHOICE (log 134): BAD_ADDRESS names the
address and not the operand that led to the record. -/
def readRecord (j : Nat) (a : Word) (n : Nat) (s : State) (k : List Word → State → Out) : Out := readRecordOf a j a n s k

/-- Byte j of a record of dwords. -/
def recBits (r : List Word) (byte n : Nat) : Nat := bitsOf (r.getD (byte / 8) 0) (byte % 8 * 8) (8 * n)

end Sys2Proof.Machine
end

