-- ==== Sys2Proof/Machine/Issue.lean ====
section
/-! DEFINITION. What a turn does around an instruction: the barrel (R251), fetching (R55, R77), the passing of TIME, and placing a word
where the next fetch finds it. -/

namespace Sys2Proof.Machine

/-- A halfword at an address, or why it cannot be fetched. -/
inductive Fetched where
  | half (h : Nat) (s : State)
  | bad
  | permission (s : State)
  | waits
  | broken (f : Fault)
  deriving Repr

/-- Where an instruction halfword at address a lies, for the strand in focus, with the state after its read (R391, R403, R412, R417). -/
def fetchLoc (a : Word) (s : State) : Except Fetched (Nat × State) :=
  match resolve s s.myCluster s.me.sag a 2 with
  | none => .error .bad
  | some (.scratch c off) => .ok (scratchLoc c off, s.meet (scratchLoc c off) 2)
  | some (.slice cl off) => .ok (sliceLoc cl off, s.meet (sliceLoc cl off) 2)
  | some (.global va) =>
    match translate s { s.issuer with leases := none } .fetch va 2 with
    | (.ok loc, s) => .ok (loc, (s.meet loc 2).sendRead loc)
    | (.broken f, _) => .error (.broken f)
    | (.waits, _) => .error .waits
    | (_, s) => .error (.permission s)

/-- Instruction bytes at a location, as the die of the strand in focus reads them (R292). -/
def State.codeBytes (s : State) (loc n : Nat) : List Byte := (List.range n).map (fun i => s.dieByte s.myDie (loc + i))

/-- Whether a halfword of the next instruction must wait: it lies in a scratchpad of a relocking die or at a busy peer, or it, or the entry that maps it, on a
pseudo-channel that reloads its table (R412, R419, R440). -/
def State.halfWaits (s : State) (a : Word) : Bool :=
  match fetchLoc a s with
  | .ok (loc, t) => t.barsRead loc
  | .error .waits => true
  | .error _ => false

/-- Whether the strand in focus must wait for its next instruction's bytes. -/
def State.fetchWaits (s : State) : Bool :=
  s.me.cur.isNone && decide (s.me.stage = 0) &&
  (s.halfWaits s.me.pc ||
    (match fetchLoc s.me.pc s with
     | .ok (loc, t) => decide (ofBytes (t.codeBytes loc 2) % 2 = 1) && t.halfWaits (s.me.pc + 2)
     | .error _ => false))

/-- fetch16 of R77. -/
def fetch16 (a : Word) (s : State) : Fetched :=
  match fetchLoc a s with
  | .ok (loc, s) => .half (ofBytes (s.codeBytes loc 2)) s
  | .error f => f

/-- What the strand in focus issues next: the instruction its pc names, or the event that stands for a fetch or decoding
that fails (R77), with the state after the fetch; or a fault. A strand whose fetch would wait is not eligible, so that no fetch waits here. -/
noncomputable def fetch (s : State) : Except Fault (Instr × State) :=
  let pc := s.me.pc
  match fetch16 pc s with
  | .bad => .ok (.fetchFault true pc, s)
  | .permission s => .ok (.fetchFault false pc, s)
  | .waits => .ok (.fetchFault false pc, s)
  | .broken f => .error f
  | .half h s =>
    if h % 2 = 0 then
      match decodeHalf h with
      | .ok i => .ok (i, s)
      | .error _ => .ok (.nonInstruction (word h), s)
    else
      match fetch16 (pc + 2) s with
      | .bad => .ok (.fetchFault true (pc + 2), s)
      | .permission s => .ok (.fetchFault false (pc + 2), s)
      | .waits => .ok (.fetchFault false (pc + 2), s)
      | .broken f => .error f
      | .half g s =>
        match decodeWord (h + 65536 * g) with
        | .ok i => .ok (i, s)
        | .error _ => .ok (.nonInstruction (word (h + 65536 * g)), s)

/-- Whether a core's clock runs: not relocking and no power state above C0 (R440, R442). -/
def State.clocked (s : State) (c : Nat) : Bool :=
  let d := s.dieAt (dieOf (clusterOf c))
  d.relock.isNone && decide (d.power < 2) && !(s.coreAt c).gated

/-- Whether a core issues nothing new: a debug stop, or a pre-emption that has begun (R406, R433). -/
def Core.halted (c : Core) : Bool := c.stopped || c.halting

/-- Whether a core may issue: clocked, not halted, not saved (R406, R433, R441). -/
def State.running (s : State) (c : Nat) : Bool :=
  s.clocked c && !(s.coreAt c).halted && (s.coreAt c).saved.isNone

/-- Whether an instruction commits cells or is a `sysop`: out of the rotation, it has begun (R405, first row). -/
def beginsOp (i : Option Instr) : Bool :=
  match i with
  | some (.ctretireCommit _) | some (.ctphase _) | some (.sysopStopcore _) | some (.sysopDump _) => true
  | _ => false

/-- Whether a strand waits in `bop` for the abort of a lock's holder (R237 step 4): it stands in a wait, as a stopped strand may. -/
def Strand.waitsBop (m : Strand) : Bool :=
  match m.cur with
  | some (.bop _) => decide (m.stage = 1)
  | _ => false

/-- Whether a strand awaits, or has still to write, the reply or result of an operation already sent or begun (R208, R405, first row). -/
def Strand.sent (m : Strand) : Bool :=
  match m.status with
  | .out => !m.waitsBop && decide (m.stage ≠ 12)
  | .held => decide (m.stage = 1) && beginsOp m.cur
  | .parked (.room _) | .parked (.push _) => false
  | .parked _ | .ready => m.reply.isSome

/-- Whether a strand can end what it has sent or begun: a reply that has come is written, and what has begun goes on (R110, R189, R405, R433). -/
def Strand.finishes (m : Strand) : Bool :=
  match m.status with
  | .out | .parked _ => false
  | _ => m.sent

/-- A strand held before its instruction was sent stands at its instruction boundary again, its source reads undone (R405, R449); one held before the claim at
a loop's end stands before that claim. -/
def State.backOff (s : State) (r : StrandRef) : State :=
  let m := s.strandOf r
  if m.live && decide (m.status = .held) && !m.sent then
    let t := State.undoReads { s with core := r.core, slot := r.slot }
    let t : State := { t with core := s.core, slot := s.slot }
    (t.modStrand r.core r.slot (fun m => if m.stage = 13 then { m with status := .ready, heldOn := [] } else m.retire)).modCluster (clusterOf r.core) (fun c => { c with waiting := c.waiting.filter (· != r) })
  else s

/-- The held strands of a core back off (R405). -/
def State.backOffAll (s : State) (c : Nat) : State := (List.range 16).foldl (fun (t : State) k => t.backOff ⟨c, k⟩) s

/-- A debug stop of a core (R433). While its die relocks, its strands keep their places until the relock ends (R441). -/
def State.stopCore (s : State) (c : Nat) : State :=
  if (s.coreAt c).stopped then s
  else (if s.relocking c then s else s.backOffAll c).modCore c (fun x => { x with stopped := true, stopTime := s.time })

/-- A core resumes from a debug stop; under STEP its next cycle stops it again (R432, R433). -/
def State.resumeCore (s : State) (c : Nat) : State := s.modCore c (fun x => { x with stopped := false })

/-- Whether every strand of a core stands at an instruction boundary or in a named wait (R143, R405): one that a relock keeps held does not yet (R441). -/
def State.quiet (s : State) (c : Nat) : Bool :=
  (List.range 16).all (fun k => let m := s.strandAt c k; !(m.live && !m.dying && (m.sent || (decide (m.status = .held) && s.relocking c))))

/-- Whether every strand of a core has stopped (R143, R432). -/
def State.isStopped (s : State) (c : Nat) : Bool := (s.coreAt c).stopped && s.quiet c

/-- Whether a mailbox takes a message now: it has room, and its core is neither stopped, saved nor relocking (R193, R415, R441). -/
def State.mailOpen (s : State) (c box : Nat) : Bool :=
  !s.relocking c && !(s.coreAt c).stopped && (s.coreAt c).saved.isNone && decide (((s.coreAt c).mailbox box).length < Config.mailboxDepth)

/-- Whether a message goes to a cluster outside its issuer's saggar: a router drops it (R397). -/
def State.misrouted (s : State) (m : Msg) : Bool := match m.home.cluster with | some cl => !s.inSaggar m.sag cl | none => false

/-- The TIMEs by which the class-3 messages that can be placed must be placed (R415). -/
def State.mailDue (s : State) : List Nat :=
  s.net.filterMap (fun m => match m.body with
    | .mail box _ => if decide (m.tc = 3) && !s.misrouted m && s.mailOpen m.home.unit box then some (max s.time (m.time + 250)) else none
    | _ => none)

/-- The latest TIME that may be reached before something due happens (R363, R415, R435, R440). -/
def State.horizon (s : State) : Nat :=
  let ds := (List.range 4).filterMap (fun d => (s.dieAt d).relock)
  let l := ds ++ s.mailDue ++ (match s.pulse with | some t => [t] | none => [])
  l.foldl min (min ((s.lastRefill / 1000 + 1) * 1000) ((s.lastCredit / 1000 + 1) * 1000))

/-- TIME passes by n ns, but not beyond what is due. -/
def State.elapse (s : State) (n : Nat) : State := { s with time := max s.time (min (s.time + n) s.horizon) }

/-- The state in which core c comes to its next core cycle, at the TIME of that cycle (R17, R18, R438); none where something due comes first. -/
def State.atBeat (s : State) (c : Nat) : Option State :=
  let b := s.nextBeat c
  let t := max s.time ((s.coreDie c).beatNs b)
  if t = s.time || decide (t ≤ s.horizon) then some (State.modCore { s with time := t } c (fun x => { x with cycle := b })) else none

/-- Whether slot k of a core may issue in the core's cycle (R251): live, neither waiting nor out of the rotation, no issue in the last three
cycles, and, at a re-negotiation point, its lane instructions completed (R151). -/
def Core.eligible (c : Core) (k : Nat) : Bool :=
  let m := c.slotAt k
  m.live && !m.dying && decide (m.status = .ready) && decide (m.nextIssue ≤ c.cycle) && !m.jammed &&
  !(m.rnWait && m.shrink.isSome && decide (m.laneLoads ≠ 0))

/-- The slots in ring order after the slot that issued last (R251). -/
def Core.ring (c : Core) : List Nat := (List.range 16).map (fun j => (c.lastSlot + 1 + j) % 16)

/-- The core's next cycle passes; with STEP it stops the core again (R432). -/
def Core.advance (x : Core) (time : Nat) : Core :=
  { x with cycle := x.cycle + 1, stopped := x.stopped || x.dctl.getLsbD 7, stopTime := if x.dctl.getLsbD 7 && !x.stopped then time else x.stopTime }

/-- A core cycle passes without an issue. -/
def State.idle (s : State) (c : Nat) : State := s.modCore c (fun x => x.advance s.time)

/-- Slot k of core c issues: it comes into focus, and may next issue four cycles later (R17, R251). -/
def State.focus (s : State) (c k : Nat) : State :=
  let s := { s with core := c, slot := k }
  let s := s.modCore c (fun x =>
    { x.advance s.time with lastSlot := k, slots := Tbl.upd x.slots k Strand.empty (fun m => { m with nextIssue := x.cycle + 4, status := .ready, heldOn := [] }) })
  if s.me.rnWait then (s.shrinkNow c k).modMe (fun m => { m with rnWait := false }) else s

/-- The saggar record of a machine with one cluster (used by State.withFetchWord alone, log 6). -/
def hostRecord : SaggarRec where
  id := 0
  x0 := 0
  y0 := 0
  w := 1
  h := 1
  root := 1
  grantBase := 2 ^ 20
  grantLen := 2 ^ 20
  heapb := 0
  heapl := 0
  heapo := 0
  ctbase := 1
  ctlim := 64
  part := Config.partitionReset
  galleyGib := 0
  cellGib := 0
  queues := []
  spillMib := 0
  schedKib := 64
  dlog := false
  ptrap := false
  noAccess := []
  undoVa := 0
  undoPa := 0
  undoAreas := 0
  undoEach := 0

/-- The queues of a record that find a ring position (R278, R381): each takes the lowest free one in its slice. -/
def placedQueues (r : SaggarRec) : List (Nat × TaskQueue) :=
  let k := max (r.w * r.h) 1
  r.queues.foldl (fun t q =>
    let n := (t.filter (fun e => decide (e.1 % k = q.q % k))).length
    if n < 4 * bitsOf r.part 15 5 then Tbl.put t q.q ⟨n, q.seg, (0, 0), [], [], q.spill, []⟩ else t) []

/-- A saggar as it is formed from a record (R396). -/
def Saggar.form (r : SaggarRec) : Saggar where
  cfg := r
  part := r.part
  energy := Config.energyReset
  ctbase := word r.ctbase
  ctlim := word r.ctlim
  lattol := Config.lattolReset
  ctxs := []
  tagWait := []
  phases := []
  cells := []
  counters := ⟨0, 0, 0, 0, 0, 0, 0, 0, 0, 0, 0⟩
  entries := []
  invokes := []
  gens := []
  stamp := 0
  locks := []
  commute := ⟨0, [], false⟩
  queues := placedQueues r
  kernels := []
  graphs := []
  freeing := []
  pool := []
  lastLaunch := (0, 0)
  accepts := 0
  instances := []
  tasks := []
  ready := []
  nextTask := 1
  specs := []
  abortsNow := []
  moves := []

/-- A state whose focused strand fetches at once: saggar 0 on cluster 0, key 0, a page of code at 0x1_0000 and a seeded strand in slot 0 of core 0, as
loading and launching a program would leave them (log 6). -/
def State.launched (s : State) : State :=
  let strand : Strand := { Strand.empty with live := true, uid := s.serial, pc := 0x10000, tvec := 0x10000, sag := 0, task := some 0 }
  let pool : Saggar := { Saggar.form hostRecord with tasks := [⟨0, 0, 0, 0, [], .running, true⟩] }
  let s : State := { s with agenda := [], core := 0, slot := 0, serial := s.serial + 1, keys := Tbl.put s.keys 0 0 }
  let s : State := { s with saggars := Tbl.put s.saggars 0 pool, dies := Tbl.put s.dies 0 Die.init, clusters := Tbl.put s.clusters 0 Cluster.init }
  let s : State := { s with cores := Tbl.put s.cores 0 { Core.init with slots := [(0, strand)], tenant := some 0 } }
  let s := s.setDword 0x10000 0x20001
  let s := s.setDword 0x20000 0x30001
  let s := s.setDword 0x30000 0x40001
  s.setDword 0x40008 0x6002B

/-- The state with bytes written where the strand in focus fetches. -/
def State.placeCode (s : State) (bs : List Byte) : State :=
  match fetchLoc s.me.pc s with
  | .ok (loc, _) => s.setBytes loc bs
  | .error _ => s

end Sys2Proof.Machine
end

