-- ==== Sys2Proof/Machine/Float.lean ====
section
/-! DEFINITION. Number formats and exact arithmetic (R80 to R96): a value is a NaN, an infinity or an exact signed
rational; every result is rounded once. -/

namespace Sys2Proof.Machine

/-- A floating-point datum: a NaN (signalling or not), an infinity, or the signed magnitude num / den. -/
inductive Val where
  | nan (sig : Bool)
  | inf (neg : Bool)
  | fin (neg : Bool) (num den : Nat)
  deriving DecidableEq, Repr

/-! Flags, at their bits of ST (R83, R87). -/

/-- NV. -/
def fNV : Nat := 4
/-- DZ. -/
def fDZ : Nat := 8
/-- OF. -/
def fOF : Nat := 16
/-- UF. -/
def fUF : Nat := 32
/-- NX. -/
def fNX : Nat := 64
/-- SV. -/
def fSV : Nat := 128
/-- A flag, when it is raised. -/
def raise (c : Bool) (f : Nat) : Nat := if c then f else 0

/-- Exponent width, fraction width and bias of an IEEE format code (R80). -/
def ieee (fmt : Nat) : Option (Nat × Nat × Nat) :=
  match fmt with
  | 0 => some (8, 23, 127)
  | 1 => some (8, 7, 127)
  | 2 => some (5, 10, 15)
  | 10 => some (11, 52, 1023)
  | _ => none

/-- Width of a marker format (R89 to R91). -/
def marker (fmt : Nat) : Option Nat :=
  match fmt with
  | 3 => some 8
  | 4 => some 6
  | 5 => some 4
  | _ => none

/-- Width and signedness of an integer format (R86). -/
def integer (fmt : Nat) : Option (Nat × Bool) :=
  match fmt with
  | 6 => some (8, true)
  | 7 => some (8, false)
  | 8 => some (4, true)
  | 9 => some (32, true)
  | _ => none

/-- Width of a format in bits (R61). -/
def fmtWidth (fmt : Nat) : Nat :=
  match ieee fmt, marker fmt, integer fmt with
  | some (e, f, _), _, _ => 1 + e + f
  | _, some n, _ => n
  | _, _, some (w, _) => w
  | _, _, _ => 0

/-! Reading a code. -/

/-- The datum of an IEEE encoding (R80). -/
def ieeeVal (e f b : Nat) (x : Nat) : Val :=
  let frac := x % 2 ^ f
  let ex := x / 2 ^ f % 2 ^ e
  let neg := x / 2 ^ (e + f) % 2 = 1
  if ex = 2 ^ e - 1 then
    if frac = 0 then .inf neg else .nan (decide (frac < 2 ^ (f - 1)))
  else
    let (m, p) := if ex = 0 then (frac, 1) else (2 ^ f + frac, ex)
    if b + f ≤ p then .fin neg (m * 2 ^ (p - (b + f))) 1 else .fin neg m (2 ^ (b + f - p))

/-- Leading zero bits of a body of n bits. -/
def leadZeros (n body : Nat) : Nat := if body = 0 then n else n - 1 - Nat.log2 body

/-- Exponent field width of row z of a marker format (R89 to R91). -/
def markerEw (n z : Nat) : Nat :=
  match n, z with
  | 8, 5 => 1
  | 8, 4 => 2
  | 8, 3 => 3
  | 8, 2 => 3
  | 8, 1 => 2
  | 8, 0 => 1
  | 6, 3 => 1
  | 6, 2 => 2
  | 6, 1 => 2
  | 6, 0 => 1
  | _, _ => 1

/-- Exponent values of row z, in ascending field (R89 to R91). -/
def markerExps (n z : Nat) : List Int :=
  match n, z with
  | 8, 5 => [-14, 13]
  | 8, 4 => [-13, -12, 11, 12]
  | 8, 3 => [-11, -10, -9, -8, 7, 8, 9, 10]
  | 8, 2 => [-7, -6, -5, -4, 3, 4, 5, 6]
  | 8, 1 => [-3, -2, 1, 2]
  | 8, 0 => [-1, 0]
  | 6, 3 => [-6, 5]
  | 6, 2 => [-5, -4, 3, 4]
  | 6, 1 => [-3, -2, 1, 2]
  | 6, 0 => [-1, 0]
  | 4, 1 => [-2, 1]
  | _, _ => [-1, 0]

/-- num / den times 10^e. -/
def scale10 (num den : Nat) (e : Int) : Nat × Nat :=
  match e with
  | .ofNat k => (num * 10 ^ k, den)
  | .negSucc k => (num, den * 10 ^ (k + 1))

/-- The datum of a marker code of n bits (R88). -/
def markerVal (n : Nat) (code : Nat) : Val :=
  let neg := code / 2 ^ (n - 1) % 2 = 1
  let body := code % 2 ^ (n - 1)
  if body = 0 then (if neg then .nan false else .fin false 0 1)
  else
    let z := leadZeros (n - 1) body
    let w := n - 2 - z
    if w = 0 then .inf neg
    else
      let ew := markerEw n z
      let fw := w - ew
      let e := (markerExps n z).getD (body / 2 ^ fw % 2 ^ ew) 0
      let (a, b) := scale10 (2 ^ fw + 9 * (body % 2 ^ fw)) (2 ^ fw) e
      .fin neg a b

/-- The datum of an integer code. -/
def intVal (w : Nat) (sgn : Bool) (x : Nat) : Val :=
  let v := x % 2 ^ w
  if sgn && decide (2 ^ w ≤ 2 * v) then .fin true (2 ^ w - v) 1 else .fin false v 1

/-- The datum that the low bits of x hold in a format (R85). -/
def valueOf (fmt x : Nat) : Val :=
  match ieee fmt, marker fmt, integer fmt with
  | some (e, f, b), _, _ => ieeeVal e f b x
  | _, some n, _ => markerVal n x
  | _, _, some (w, sg) => intVal w sg x
  | _, _, _ => .fin false 0 1

/-- A marker datum scaled by 10^e (R96). -/
def Val.scaled (v : Val) (fmt : Nat) (e : Int) : Val :=
  match v, marker fmt with
  | .fin n a b, some _ => let (p, q) := scale10 a b e; .fin n p q
  | v, _ => v

/-! Rounding (R82). -/

/-- Rounds num / den to an integer: (result, inexact). Modes: 0 RNE, 1 RTZ, 2 up, 3 down (R82). -/
def roundInt (neg : Bool) (num den rm : Nat) : Nat × Bool :=
  let q := num / den
  let r := num % den
  if r = 0 then (q, false)
  else
    let up := match rm with
      | 0 => decide (den < 2 * r) || (decide (2 * r = den) && decide (q % 2 = 1))
      | 1 => false
      | 2 => !neg
      | _ => neg
    (if up then q + 1 else q, true)

/-- num / den times 2^e. -/
def scale2 (num den : Nat) (e : Int) : Nat × Nat :=
  match e with
  | .ofNat k => (num * 2 ^ k, den)
  | .negSucc k => (num, den * 2 ^ (k + 1))

/-- floor(log2 (num / den)) for a positive rational. -/
def ilog (num den : Nat) : Int :=
  let e : Int := (Nat.log2 num : Int) - (Nat.log2 den : Int)
  let (a, b) := scale2 num den (-e)
  if a < b then e - 1 else e

/-- The canonical NaN of an IEEE format (R80). -/
def cnan (fmt : Nat) : Nat :=
  match ieee fmt, marker fmt with
  | some (e, f, _), _ => (2 ^ e - 1) * 2 ^ f + 2 ^ (f - 1)
  | _, some n => 2 ^ (n - 1)
  | _, _ => 0

/-- The code of an infinity. -/
def infCode (fmt : Nat) (neg : Bool) : Nat :=
  match ieee fmt, marker fmt with
  | some (e, f, _), _ => (if neg then 2 ^ (e + f) else 0) + (2 ^ e - 1) * 2 ^ f
  | _, some n => (if neg then 2 ^ (n - 1) else 0) + 1
  | _, _ => 0

/-- Rounds a finite magnitude into an IEEE format (R82, R83): code and flags. -/
def roundIeee (e f b : Nat) (neg : Bool) (num den rm : Nat) (sat : Bool) : Nat × Nat :=
  let sign := if neg then 2 ^ (e + f) else 0
  if num = 0 then (sign, 0)
  else
    let emin : Int := 1 - (b : Int)
    let ex := ilog num den
    let q := (if ex < emin then emin else ex) - (f : Int)
    let (a, c) := scale2 num den (-q)
    let (n, inexact) := roundInt neg a c rm
    -- tininess after rounding, as if the exponent had no lower bound
    let (a', c') := scale2 num den ((f : Int) - ex)
    let (n', _) := roundInt neg a' c' rm
    let tiny := decide (ex < emin - 1) || (decide (ex = emin - 1) && decide (n' < 2 ^ (f + 1)))
    let maxQ : Int := (2 ^ e - 2 : Nat) - (b : Int) - (f : Int)
    let tooBig := decide (maxQ < q) || (decide (q = maxQ) && decide (2 ^ (f + 1) ≤ n))
    if tooBig then
      let big := sign + (2 ^ e - 2) * 2 ^ f + (2 ^ f - 1)
      if sat then (big, fOF + fNX + fSV)
      else
        let toInf := match rm with
          | 0 => true
          | 1 => false
          | 2 => !neg
          | _ => neg
        (if toInf then sign + (2 ^ e - 1) * 2 ^ f else big, fOF + fNX)
    else
      -- n may have carried to 2^(f+1), which the sum below turns into the next exponent
      let pexp : Nat := (q + (b : Int) + (f : Int)).toNat
      let code := if n < 2 ^ f then n else (pexp - 1) * 2 ^ f + n
      (sign + code, raise inexact fNX + raise (tiny && inexact) fUF)

/-- Compares the rationals a / b and c / d. -/
def ratLt (a b c d : Nat) : Bool := decide (a * d < c * b)

/-- Every candidate magnitude of a marker format with its body, ∞ standing at ten times the largest (R93). -/
def markerCands (n : Nat) : List (Nat × Nat × Nat) :=
  (List.range (2 ^ (n - 1))).map (fun body =>
    match markerVal n body with
    | .fin _ a b => (body, a, b)
    | _ => (body, 10 * (if n = 8 then 10 ^ 13 else if n = 6 then 10 ^ 5 else 10), 1))

/-- Conversion of a finite magnitude into a marker format of n bits (R93). NX follows R93's pseudocode: a magnitude that equals the infinity
candidate sets OF alone (log 87). -/
def toMarker (n : Nat) (neg : Bool) (num den : Nat) (sat : Bool) : Nat × Nat :=
  if num = 0 then (0, 0)
  else
    let cs := markerCands n
    let sign := if neg then 2 ^ (n - 1) else 0
    let lo := cs.foldl (fun best c => if !ratLt num den c.2.1 c.2.2 && ratLt best.2.1 best.2.2 c.2.1 c.2.2 then c else best) (0, 0, 1)
    let top := (1, 10 * (if n = 8 then 10 ^ 13 else if n = 6 then 10 ^ 5 else 10), 1)
    let hi := cs.foldl (fun best c => if !ratLt c.2.1 c.2.2 num den && ratLt c.2.1 c.2.2 best.2.1 best.2.2 then c else best) top
    let c :=
      if ratLt top.2.1 top.2.2 num den then top
      else
        -- twice m against lo + hi
        let mid := (lo.2.1 * hi.2.2 + hi.2.1 * lo.2.2, lo.2.2 * hi.2.2)
        if ratLt (2 * num) den mid.1 mid.2 then lo
        else if ratLt mid.1 mid.2 (2 * num) den then hi
        else if lo.1 % 2 = 0 then lo else if hi.1 % 2 = 0 then hi else lo
    let nx := raise (decide (c.2.1 * den ≠ num * c.2.2)) fNX
    if c.1 = 0 then (0, nx + fUF)
    else if c.1 = 1 then
      if sat then (sign + 3, nx + fOF + fSV) else (sign + 1, nx + fOF)
    else (sign + c.1, nx)

/-- Conversion of a finite value to an integer of w bits (R95): code and flags. -/
def toInteger (w : Nat) (sgn : Bool) (neg : Bool) (num den rm : Nat) (fromInt : Bool) : Nat × Nat :=
  let (n, inexact) := roundInt neg num den rm
  let v : Int := if neg then -(n : Int) else n
  let lo : Int := if sgn then -(2 ^ (w - 1) : Nat) else 0
  let hi : Int := if sgn then (2 ^ (w - 1) : Nat) - 1 else (2 ^ w : Nat) - 1
  let bad := if fromInt then fSV else fNV + fSV
  if v < lo then ((lo % (2 ^ w : Nat)).toNat, bad)
  else if hi < v then (hi.toNat, bad)
  else ((v % (2 ^ w : Nat)).toNat, raise inexact fNX)

/-- Delivers a datum in a format (R81 to R95), with the decimal shift of R96 for a marker destination: code and flags. -/
def deliverVal (fmt rm : Nat) (sat : Bool) (shift : Int) (fromInt : Bool) (v : Val) : Nat × Nat :=
  match ieee fmt, marker fmt, integer fmt with
  | some (e, f, b), _, _ =>
    match v with
    | .nan sig => (cnan fmt, raise sig fNV)
    | .inf neg => (infCode fmt neg, 0)
    | .fin neg a c => roundIeee e f b neg a c rm sat
  | _, some n, _ =>
    match v with
    | .nan sig => (cnan fmt, raise sig fNV)
    | .inf neg => (infCode fmt neg, 0)
    | .fin neg a c => let (p, q) := scale10 a c shift; toMarker n neg p q sat
  | _, _, some (w, sg) =>
    match v with
    | .nan _ => (0, fNV + fSV)
    | .inf neg => (if neg then (if sg then 2 ^ (w - 1) else 0) else (if sg then 2 ^ (w - 1) - 1 else 2 ^ w - 1), fNV + fSV)
    | .fin neg a c => toInteger w sg neg a c rm fromInt
  | _, _, _ => (0, 0)

/-! Operations on exact data. -/

/-- An exact result: a datum and the flags the operation raises before rounding. -/
abbrev Exact := Val × Nat

/-- Whether a datum is a NaN. -/
def Val.isNan : Val → Bool
  | .nan _ => true
  | _ => false
/-- Whether a datum is a signalling NaN. -/
def Val.isSig : Val → Bool
  | .nan s => s
  | _ => false
/-- The sign of a datum. -/
def Val.neg? : Val → Bool
  | .nan _ => false
  | .inf n => n
  | .fin n _ _ => n
/-- Changes the sign of a datum. -/
def Val.flip : Val → Val
  | .nan s => .nan s
  | .inf n => .inf !n
  | .fin n a b => .fin (!n) a b
/-- Sets the sign of a datum. -/
def Val.withSign (v : Val) (n : Bool) : Val :=
  match v with
  | .nan s => .nan s
  | .inf _ => .inf n
  | .fin _ a b => .fin n a b
/-- Whether a datum is a zero. -/
def Val.isZero : Val → Bool
  | .fin _ a _ => decide (a = 0)
  | _ => false
/-- Whether a datum is an infinity. -/
def Val.isInf : Val → Bool
  | .inf _ => true
  | _ => false

/-- The quiet NaN result, with NV when it is raised. -/
def nanResult (nv : Bool) : Exact := (.nan false, raise nv fNV)

/-- a + b for data that are no NaN; an exact zero sum is -0 only in round down or when both are -0. -/
def addVal (a b : Val) (rm : Nat) : Exact :=
  match a, b with
  | .inf m, .inf n => if m = n then (.inf m, 0) else nanResult true
  | .inf m, _ => (.inf m, 0)
  | _, .inf n => (.inf n, 0)
  | .fin m p q, .fin n r t =>
    if p = 0 ∧ r = 0 then (.fin (if m = n then m else decide (rm = 3)) 0 1, 0)
    else
      let x : Int := (if m then -(p * t : Int) else (p * t : Int)) + (if n then -(r * q : Int) else (r * q : Int))
      if x = 0 then (.fin (decide (rm = 3)) 0 1, 0) else (.fin (decide (x < 0)) x.natAbs (q * t), 0)
  | _, _ => nanResult false

/-- a × b for data that are no NaN. -/
def mulVal (a b : Val) : Exact :=
  match a, b with
  | .fin m p q, .fin n r t => (.fin (m != n) (p * r) (q * t), 0)
  | .inf m, .inf n => (.inf (m != n), 0)
  | .inf m, .fin n p _ => if p = 0 then nanResult true else (.inf (m != n), 0)
  | .fin n p _, .inf m => if p = 0 then nanResult true else (.inf (m != n), 0)
  | _, _ => nanResult false

/-- a / b for data that are no NaN (R119, R153): DZ whenever b is 0 and the operation is valid, an infinite a too (log 86). -/
def divVal (a b : Val) : Exact :=
  match a, b with
  | .inf _, .inf _ => nanResult true
  | .inf m, .fin n r _ => (.inf (m != n), if r = 0 then fDZ else 0)
  | .fin m _ _, .inf n => (.fin (m != n) 0 1, 0)
  | .fin m p q, .fin n r t =>
    if r = 0 then (if p = 0 then nanResult true else (.inf (m != n), fDZ)) else (.fin (m != n) (p * t) (q * r), 0)
  | _, _ => nanResult false

/-- Integer square root, bit by bit from bit k - 1 down. -/
def isqrtGo : Nat → Nat → Nat → Nat
  | 0, _, r => r
  | k + 1, n, r => if (r + 2 ^ k) * (r + 2 ^ k) ≤ n then isqrtGo k n (r + 2 ^ k) else isqrtGo k n r
/-- floor of the square root. -/
def isqrt (n : Nat) : Nat := isqrtGo (Nat.log2 n / 2 + 1) n 0

/-- The square root of num / den with den a power of two, as a rational that rounds as the root does: at least 80 bits,
and an odd last bit when it is inexact. -/
def sqrtRat (num den : Nat) : Nat × Nat :=
  let n := num * den * 2 ^ 160
  let r := isqrt n
  (2 * r + (if r * r = n then 0 else 1), den * 2 ^ 81)

/-- √a (R119). -/
def sqrtVal (a : Val) : Exact :=
  match a with
  | .nan _ => nanResult false
  | .inf n => if n then nanResult true else (.inf false, 0)
  | .fin n p q =>
    if p = 0 then (.fin n 0 1, 0) else if n then nanResult true
    else let (x, y) := sqrtRat p q; (.fin false x y, 0)

/-- Whether a < b under R84, where -0 < +0. NaNs are not compared. -/
def ltVal (a b : Val) : Bool :=
  match a, b with
  | .inf m, .inf n => m && !n
  | .inf m, .fin .. => m
  | .fin .., .inf n => !n
  | .fin m p q, .fin n r t =>
    match m, n with
    | true, false => true
    | false, true => false
    | false, false => ratLt p q r t
    | true, true => ratLt r t p q
  | _, _ => false
/-- Whether a = b under R84. -/
def eqVal (a b : Val) : Bool := !a.isNan && !b.isNan && !ltVal a b && !ltVal b a

/-- a × b + c with one rounding still to come (R102, R121): 0 × ∞ is invalid even when c is a NaN. -/
def fmaVal (a b c : Val) (rm : Nat) : Exact :=
  let sig := a.isSig || b.isSig || c.isSig
  let bad := !a.isNan && !b.isNan && ((a.isInf && b.isZero) || (a.isZero && b.isInf))
  if bad then nanResult true
  else if a.isNan || b.isNan || c.isNan then nanResult sig
  else let p := (mulVal a b).1; addVal p c rm

/-- ln 2 times 2^192, below by less than 200 units. -/
def ln2Fixed : Nat := (List.range 200).foldl (fun s k => s + 2 ^ 192 / ((k + 1) * 2 ^ (k + 1))) 0

/-- Terms of the exponential series of t (fixed point of 192 bits), summed until `fuel` runs out. -/
def expSeries : Nat → Nat → Nat → Nat → Nat → Nat
  | 0, _, _, _, acc => acc
  | fuel + 1, k, t, term, acc =>
    let term' := term * t / 2 ^ 192 / k
    expSeries fuel (k + 1) t term' (acc + term')

/-- 2^x for 0 < x < 1, x = num / den, as a rational of 190 bits with an odd last bit: 2^x is irrational there (R157). -/
def exp2Frac (num den : Nat) : Nat × Nat :=
  let t := ln2Fixed * num / den
  (2 * expSeries 60 1 t (2 ^ 192) (2 ^ 192) + 1, 2 ^ 193)

/-- `fexpf` (R157). -/
def expVal (a : Val) : Exact :=
  match a with
  | .nan s => nanResult s
  | .inf _ => nanResult true
  | .fin n p q =>
    if p = 0 then (.fin false 1 1, 0)
    else if p = q then (if n then (.fin false 1 2, 0) else (.fin false 2 1, 0))
    else if q < p then nanResult true
    else if n then let (x, y) := exp2Frac (q - p) q; (.fin false x (2 * y), 0)
    else let (x, y) := exp2Frac p q; (.fin false x y, 0)

/-- Rounds a datum to an integer value in a given mode, raising nothing (R156). -/
def rintVal (rm : Nat) (a : Val) : Exact :=
  match a with
  | .fin n p q => (.fin n (roundInt n p q rm).1 1, 0)
  | .nan s => nanResult s
  | v => (v, 0)

/-- `fclass` (R156) of a datum in an IEEE format: one bit, by class. -/
def classOf (fmt : Nat) (a : Val) : Nat :=
  match a with
  | .nan s => if s then 2 ^ 8 else 2 ^ 9
  | .inf n => if n then 2 ^ 0 else 2 ^ 7
  | .fin n p q =>
    let emin : Int := match ieee fmt with | some (_, _, b) => 1 - (b : Int) | none => 0
    let sub := decide (ilog p q < emin)
    if p = 0 then (if n then 2 ^ 3 else 2 ^ 4)
    else if sub then (if n then 2 ^ 2 else 2 ^ 5)
    else (if n then 2 ^ 1 else 2 ^ 6)

/-- `min` and `max` of data (R84). -/
def minmaxVal (isMax : Bool) (a b : Val) : Exact :=
  if a.isNan || b.isNan then nanResult (a.isSig || b.isSig)
  else if isMax then (if ltVal a b then b else a, 0) else (if ltVal b a then b else a, 0)

/-- An operation of R119 and R153 on two data, with the mode in force for zero sums. -/
def binVal (f : FOp) (a b : Val) (rm : Nat) : Exact :=
  let sig := a.isSig || b.isSig
  match f with
  | .min => minmaxVal false a b
  | .max => minmaxVal true a b
  | .abs => if b.isNan then nanResult b.isSig else (b.withSign false, 0)
  | .neg => if b.isNan then nanResult b.isSig else (b.flip, 0)
  | _ =>
    if a.isNan || b.isNan then nanResult sig
    else match f with
      | .add => addVal a b rm
      | .sub => addVal a b.flip rm
      | .mul => mulVal a b
      | .div => divVal a b
      | _ => nanResult false

/-- The value of a datum's integer exponent, floor(log2 |x|), as a datum. -/
def expOf (p q : Nat) : Val :=
  let e := ilog p q
  .fin (decide (e < 0)) e.natAbs 1

/-- One-source operations of R156 and R157. -/
def unVal (f : FOp) (x : Val) : Exact :=
  match f with
  | .frintN => rintVal 0 x
  | .frintZ => rintVal 1 x
  | .frintU => rintVal 2 x
  | .frintD => rintVal 3 x
  | .fexpf => expVal x
  | .fgetexp =>
    match x with
    | .nan s => nanResult s
    | .inf _ => (.inf false, 0)
    | .fin _ p q => if p = 0 then (.inf true, fDZ) else (expOf p q, 0)
  | .fgetman =>
    match x with
    | .nan s => nanResult s
    | .inf _ => nanResult true
    | .fin n p q => if p = 0 then (.fin n 0 1, 0) else let (a, b) := scale2 p q (-(ilog p q)); (.fin n a b, 0)
  | .frcp =>
    match x with
    | .nan s => nanResult s
    | .inf n => (.fin n 0 1, 0)
    | .fin n p q => if p = 0 then (.inf n, fDZ) else (.fin n q p, 0)
  | .frsq =>
    match x with
    | .nan s => nanResult s
    | .inf n => if n then nanResult true else (.fin false 0 1, 0)
    | .fin n p q =>
      if p = 0 then (.inf n, fDZ) else if n then nanResult true
      else
        let (a, b) := sqrtRat p q
        (.fin false b a, 0)
  | .fsqrt => match x with | .nan s => nanResult s | v => sqrtVal v
  | _ => nanResult false

/-- a × 2^n (R158). -/
def fscaleVal (a : Val) (n : Int) : Exact :=
  match a with
  | .nan s => nanResult s
  | .inf m => (.inf m, 0)
  | .fin m p q => let (x, y) := scale2 p q n; (.fin m x y, 0)

/-- A relation of R123 and R160 on data: whether it holds, and NV. -/
def cmpVal (f : COp) (a b : Val) : Bool × Nat :=
  let nan := a.isNan || b.isNan
  let sig := raise (a.isSig || b.isSig) fNV
  match f with
  | .feq => (eqVal a b, sig)
  | .fne => (!eqVal a b, sig)
  | .flt => (!nan && ltVal a b, raise nan fNV)
  | .fle => (!nan && !ltVal b a, raise nan fNV)
  | .funord => (nan, sig)
  | _ => (false, 0)

/-- Delivers an exact result: code and all flags. -/
def deliver (fmt rm : Nat) (sat : Bool) (r : Exact) : Nat × Nat :=
  let (c, fl) := deliverVal fmt rm sat 0 false r.1
  (c, fl ||| r.2)

end Sys2Proof.Machine
end

