-- ==== Sys2Proof/Machine/Flags.lean ====
section
/-! DEFINITION. The sticky flags of ST, the formats, rounding mode and scales in force (R82, R83, R96, R99), and the checks
of the codes that each form accepts under a prefix (R120, R152, R221). -/

namespace Sys2Proof.Machine

/-- ORs flags into ST (R83). -/
def Strand.raiseFlags (m : Strand) (f : Nat) : Strand := { m with st := m.st ||| word f }

/-- What an instruction runs under: the latch when a prefix governs it, the given formats and ST.RM otherwise (R82, R99). -/
def Strand.gov (m : Strand) (fa fb fd : Nat) (scale : Word) : Gov :=
  if m.prefixed then ⟨true, bitsOf m.st 10 4, bitsOf m.st 14 4, bitsOf m.st 18 4, bitsOf m.st 26 2, m.st.getLsbD 28, scale⟩
  else ⟨false, fa, fb, fd, bitsOf m.st 0 2, false, 0⟩

/-- The scale fields of R96 as signed numbers: operand a, operand b, result. -/
def Gov.scaleA (g : Gov) : Int := signed 8 g.scale.toNat
/-- Field [15:8]. -/
def Gov.scaleB (g : Gov) : Int := signed 8 (g.scale.toNat / 2 ^ 8)
/-- Field [23:16]. -/
def Gov.scaleD (g : Gov) : Int := signed 8 (g.scale.toNat / 2 ^ 16)

/-- Reads the scale register of a pending prefix as the j-th source, after the others (R96). -/
def readScale (j : Nat) (s : State) (k : Word → State → Out) : Out :=
  if s.me.prefixed then readSrc j (BitVec.ofNat 6 (bitsOf s.me.st 22 4)) false s k else k 0 s

/-- Which codes a form accepts in a position (R120, R152, R221). -/
inductive Accept where
  /-- Codes 0 to 2. -/
  | low
  /-- Code 10. -/
  | double
  /-- Codes 1 to 8. -/
  | engine
  /-- Codes 0 to 9. -/
  | store
  /-- Every code of a format, 0 to 10: the field itself is not used. -/
  | any
  /-- A field that the form ignores altogether (R221). -/
  | ignored
  deriving DecidableEq, Repr

/-- Whether a code is accepted. -/
def Accept.admits (a : Accept) (c : Nat) : Bool :=
  match a with
  | .low => decide (c ≤ 2)
  | .double => decide (c = 10)
  | .engine => decide (1 ≤ c) && decide (c ≤ 8)
  | .store => decide (c ≤ 9)
  | .any => decide (c ≤ 10)
  | .ignored => true

/-- Whether the pending prefix, if any, names only accepted codes (R76). -/
def formatsOk (a b d : Accept) (s : State) : Bool :=
  let m := s.me
  !m.prefixed || (a.admits (bitsOf m.st 10 4) && b.admits (bitsOf m.st 14 4) && d.admits (bitsOf m.st 18 4))

/-- The prefix is consumed, unless a trap handler runs (R99, R101). -/
def State.consume (s : State) : State := if s.me.prefixed then s.modMe Strand.dropPrefix else s

end Sys2Proof.Machine
end

