-- ==== Sys2Proof/Machine/Sync.lean ====
section
/-! DEFINITION. Writes as homes apply them, releases and fences (R191, R192, R286), new strands (R137, R248), and power states (R442). -/

namespace Sys2Proof.Machine

/-! Applying a write (R178, R273, R292, R420). -/

/-- The words of a context's cells that n bytes from a named address wholly cover are poisoned no more (R178, R417). -/
def Saggar.cellClean (g : Saggar) (ctx named n : Nat) : Saggar :=
  { g with cells := g.cells.map (fun c =>
      if c.ctx = ctx then { c with bad := c.bad.filter (fun w => !(decide (named ≤ 64 * c.blk + 4 * w) && decide (64 * c.blk + 4 * w + 4 ≤ named + n))) } else c) }

/-- Writes bytes at a named address and location in a context, as the home does: through the die's pending-write buffer to host and
peer memory, into a cell for a context that is usable (otherwise dropped and counted, R234), and dropped on a fenced pseudo-channel. -/
def State.applyStore (s : State) (die core slot uid sag ctx named loc : Nat) (bs : List Byte) : State :=
  if ctx ≠ 0 then
    s.modSag sag (fun g =>
      if g.ctxUsable ctx then ((List.range bs.length).foldl (fun g i => g.putCell ctx (named + i) (bs.getD i 0)) g).cellClean ctx named bs.length
      else { g with counters := { g.counters with stray := wrap1 g.counters.stray } })
  else if s.fenced loc then s.count sag (fun c => { c with droppedWrite := sat1 c.droppedWrite })
  else if offDevice loc then State.modDie { s with serial := s.serial + 1 } die (fun d => { d with pwb := d.pwb ++ [PendWrite.mk s.serial named loc bs core slot uid] })
  else (s.setBytes loc bs).clearPoison loc bs.length

/-! Releases and fences. -/

/-- Whether a message is a plain store, full/empty store or returning atomic: what a release waits for; an earlier non-returning update is none of them
(R191, R294). -/
def Body.released : Body → Bool
  | .store _ | .bits .. => true
  | .fe op _ => decide (op ≠ .state)
  | .atomic _ _ _ r => r
  | _ => false

/-- Whether an access in flight is already performed at a scope (0 core, 1 cluster, 2 device, 3 system) (R286). -/
def Msg.performed (m : Msg) (scope : Nat) : Bool :=
  decide (scope < 2) && (match m.home.cluster with | some cl => decide (cl ≠ clusterOf m.core) | none => true)

/-- Whether the strand in focus has a load without its value: a pending load, lane load, or load in flight (R191). -/
def State.loadsOut (s : State) : Bool :=
  s.me.pending.any (·.load) || decide (s.me.laneLoads ≠ 0)

/-- The acquire condition of R191. -/
def State.acquireOk (s : State) : Bool := !s.loadsOut

/-- Whether the strand in focus has writes that are not performed at a scope (R191, R286). -/
def State.storesOut (s : State) (scope : Nat) : Bool :=
  s.net.any (fun m => decide (m.uid = s.me.uid) && decide (m.core = s.core) && m.body.released && !m.performed scope) ||
  (decide (scope = 3) && (s.portWrites s.myDie).any (fun w => decide (w.uid = s.me.uid) && decide (w.core = s.core)))

/-- The release condition of R191 and R192 at a scope; parked stores are waited for, also after a resume (R296, R299). -/
def State.releaseOk (s : State) (scope : Nat) : Bool :=
  s.myCore.replay.isEmpty && !s.loadsOut && !s.storesOut scope

/-- Holds the strand until a release at a scope may proceed (R192). -/
def releasing (scope : Nat) (s : State) (k : State → Out) : Out := if s.releaseOk scope then k s else holdParked s

/-- Whether an acquire of the strand in focus still waits for its value: later accesses are held (R191, R289). -/
def State.acquirePending (s : State) : Bool := s.me.pending.any (·.acq) || (s.me.laneAcq && decide (s.me.laneLoads ≠ 0))

/-- Holds a memory access while an acquire of the strand still waits for its value (R192, R289). -/
def ordered (s : State) (k : State → Out) : Out := if s.me.stage = 0 && s.acquirePending then hold s else k s

/-! New strands. -/

/-- The lowest slot of 1 to 15 of a core that is free in its cycle b (R248, R250). -/
def Core.freeHelper (c : Core) (b : Nat) : Option Nat :=
  ((List.range 15).map (· + 1)).find? (fun k => !(c.slotAt k).live && decide ((c.slotAt k).nextIssue ≤ b))

/-- A strand that enters a slot in cycle b of its core, the one slot that the core grants in that cycle (R249): fresh state with an empty window
(R137, R200); it may issue from the next cycle on. -/
def State.enter (s : State) (c k b : Nat) (f : Strand → Strand) : State :=
  let t := s.modStrand c k (fun _ => f { Strand.empty with live := true, uid := s.serial, nextIssue := b + 1 })
  State.modCore { t with serial := s.serial + 1 } c (fun x => { x with endRec := Tbl.del x.endRec k, grantNext := max x.grantNext (b + 1) })

/-- Whether a core of saggar g still has strands saved in it that a resume brings back before other work is placed there (R247, R267). -/
def Core.awaited (c : Core) (g : Nat) : Bool := c.away.any (fun e => decide (e.1 = g))

/-- The slot of core c that the abort unit may give its helper for a done task of saggar g (R345 step 4): the lowest free helper slot of a core of the
task's cluster, or, where that has none, of the lowest-numbered core of the saggar that has one. It is free by the cycle in which the core may grant it (R249,
R250), and its core is neither saved nor kept for strands that a resume brings back (R247). -/
def State.undoSlot (s : State) (g : Saggar) (t : SpecTask) (c : Nat) : Option Nat :=
  let free := fun (n : Nat) => if (s.coreAt n).saved.isSome || (s.coreAt n).awaited g.cfg.id then none else (s.coreAt n).freeHelper (s.nextGrant n)
  let own := (List.range 8).map (8 * t.cluster + ·)
  if own.contains c then free c
  else if own.any (fun n => (free n).isSome) then none
  else if ((List.range Config.cores).filter (fun n => g.holds (clusterOf n))).find? (fun n => (free n).isSome) = some c then free c
  else none

/-- Whether an abort waits in step 4 for a helper slot (R345). -/
def Saggar.awaitsHelper (g : Saggar) (t : SpecTask) : Bool :=
  decide (t.st = .aborting) && t.tag.isNone && t.helper.isNone && g.abortsNow.contains (t.inst, t.seq)

/-- Whether core c must first grant a slot to the undo helper of an abort (R249). -/
def State.helperDue (s : State) (c : Nat) : Bool :=
  s.saggars.any (fun g => g.2.specs.any (fun t => g.2.awaitsHelper t && (s.undoSlot g.2 t c).isSome))

/-- The helper slot that core c grants to a spawn, continuation or speculative dispatch of saggar g in a cycle of the present ns, and that cycle: behind
what the core itself issues there and the undo helpers, and never on a stopped, saved or relocking core or one whose strands wait for their resume (R247,
R249, R264, R441). -/
def State.grant (s : State) (g c : Nat) : Option (Nat × Nat) :=
  if (s.coreAt c).stopped || (s.coreAt c).saved.isSome || (s.coreAt c).awaited g || s.helperDue c then none
  else match s.grantBeat c with
    | some b => if s.ranBeat c b then ((s.coreAt c).freeHelper b).map (fun j => (j, b)) else none
    | none => none

/-! Power (R442, R443). -/

/-- The exit latency of a power state in ns. -/
def exitLatency (p : Nat) : Nat :=
  match p with
  | 0 => 0
  | 1 => 20
  | 2 => 100
  | 3 => 5000
  | _ => 20000

/-- The latency tolerance that governs a die (R443). -/
def State.dieTol (s : State) (d : Nat) : Nat :=
  let gs := s.saggars.filter (fun g => (List.range 480).any (fun cl => g.2.holds cl && decide (dieOf cl = d)))
  gs.foldl (fun t g => min t (bitsOf g.2.lattol 0 32)) (2 ^ 32 - 1)

/-- Units that are in a state deeper than their tolerance exit it (R443). -/
def State.relaxPower (s : State) : State :=
  let s1 := { s with dies := s.dies.map (fun (d : Nat × Die) => (d.1, if s.dieTol d.1 < exitLatency d.2.power then { d.2 with power := 0 } else d.2)) }
  { s1 with cores := s1.cores.map (fun (c : Nat × Core) => (c.1, if s.dieTol (dieOf (clusterOf c.1)) < 20 then { c.2 with gated := false } else c.2)) }

/-- A unit answers a strand that is parked: at once, or, while its die relocks, through the queue of replies (R252, R441). -/
def State.give (s : State) (r : StrandRef) (uid : Nat) (x : Reply) : State :=
  if s.relocking r.core then { s with acks := s.acks ++ [⟨s.serial, r.core, r.slot, uid, .reply x, false⟩], serial := s.serial + 1 }
  else s.modStrand r.core r.slot (fun m => { m with reply := some x })

end Sys2Proof.Machine
end

