-- ==== Sys2Proof/Machine/Control.lean ====
section
/-! DEFINITION. System registers, branches, hardware loops, the iteration fetcher, the prefix, strand slots and traps (R124 to R141). -/

namespace Sys2Proof.Machine

/-! System registers (R124 to R127). -/

/-- CORE (R126). -/
def coreReg (c : Nat) : Word :=
  let cl := clusterOf c
  word (c * 2 ^ 15 + dieOf cl * 2 ^ 13 + yOf cl * 2 ^ 8 + xOf cl * 2 ^ 3 + c % 8)

/-- GRP as a register (R304). -/
def Grp.reg (g : Grp) : Word := word (g.die * 2 ^ 30 + g.ser)

/-- The value of a system register (R124). -/
def readSys (n : Nat) (s : State) : Word :=
  let m := s.me
  let g := s.sagAt m.sag
  match n with
  | 0x000 => m.st
  | 0x001 => m.epc
  | 0x002 => m.ecause
  | 0x003 => m.eaddr
  | 0x004 => m.istate0
  | 0x005 => m.istate1
  | 0x006 => m.tvec
  | 0x010 => m.lcAt 0
  | 0x011 => m.lcAt 1
  | 0x012 => m.lcAt 2
  | 0x014 => m.lbAt 0
  | 0x015 => m.lbAt 1
  | 0x016 => m.lbAt 2
  | 0x018 => m.leAt 0
  | 0x019 => m.leAt 1
  | 0x01A => m.leAt 2
  | 0x020 => s.myCore.tags
  | 0x021 => word m.pend
  | 0x030 => word m.ctx
  | 0x031 => match g with | some g => g.ctbase | none => 0
  | 0x032 => match g with | some g => g.ctlim | none => 0
  | 0x040 => m.grp.reg
  | 0x041 => word m.tspace
  | 0x048 => word m.seq
  | 0x049 => m.undob
  | 0x04A => m.undop
  | 0x050 => s.myCore.ebud
  | 0x058 => m.heapb
  | 0x059 => m.heapl
  | 0x05A => m.heapo
  | 0x060 => word (s.myCore.tenant.getD 0)
  | 0x061 => word s.slot
  | 0x062 => coreReg s.core
  | 0x070 => word (s.timeRead s.myDie)
  | 0x071 => word ((s.dieAt s.myDie).cycAt (s.myCore.cycle - 1))
  | 0x072 => (s.dieAt s.myDie).fstep
  | 0x078 => match g with | some g => g.lattol | none => Config.lattolReset
  | 0x079 => s.bringup
  | _ => 0

/-- Whether a register's write class lets the strand write it without a PRIVILEGED trap (R124, R125). -/
def writeAllowed (n : Nat) (m : Strand) : Bool :=
  if (1 ≤ n && n ≤ 5) then m.priv || m.inTrap
  else if n = 0x30 || n = 0x31 || n = 0x32 || n = 0x49 || n = 0x4A || n = 0x50 || n = 0x58 || n = 0x59 || n = 0x5A || n = 0x78 then m.priv
  else true

/-- v in the bits of a mask, the old value elsewhere. -/
def mergeBits (old v mask : Word) : Word := (old &&& ~~~mask) ||| (v &&& mask)

/-- The writable bits of ST (R87): every field but TRAP and the reserved ones. -/
def stMask : Word := 0x0000FFFF1FFFFDFF

/-- EBUD with BAL at most CAP (R362). -/
def clampEbud (v : Word) : Word := if bitsOf v 24 24 < bitsOf v 0 24 then withBits v 0 24 (bitsOf v 24 24) else v

/-- Whether a new tag range of a saggar keeps the limits of R326. -/
def State.tagRangeOk (s : State) (sag base lim : Nat) : Bool :=
  decide (base ≠ 0) && decide (base ≤ lim) &&
  s.saggars.all (fun (g : Nat × Saggar) => decide (g.1 = sag) || decide (lim < bitsOf g.2.ctbase 0 16) || decide (bitsOf g.2.ctlim 0 16 < base)) &&
  (match s.sagAt sag with | some g => g.ctxs.all (fun c => decide (base ≤ c.1) && decide (c.1 ≤ lim)) | none => true)

/-- Writes UNDOB and UNDOP of the strand in focus: inside a speculative task they are the task's (R326). -/
def State.writeUndo (s : State) (b p : Word) : State :=
  match s.me.spec with
  | some r => s.setUndo s.me.sag r b p
  | none => s.modMe (fun m => { m with undob := b, undop := p })

/-- Writes a system register, each field by its access code (R6, R124). -/
def writeSys (n : Nat) (v : Word) (s : State) : State :=
  let g := s.me.sag
  match n with
  | 0x000 => s.modMe (fun m => { m with st := mergeBits m.st v stMask })
  | 0x001 => s.modMe (fun m => { m with epc := even v })
  | 0x002 => s.modMe (fun m => { m with ecause := mergeBits m.ecause v 0xFF })
  | 0x003 => s.modMe (fun m => { m with eaddr := v })
  | 0x004 => s.modMe (fun m => { m with istate0 := v })
  | 0x005 => s.modMe (fun m => { m with istate1 := v &&& 0x8000FFFFFFFFFFFF })
  | 0x006 => s.modMe (fun m => { m with tvec := even v })
  | 0x010 => s.modMe (fun m => m.setLc 0 v)
  | 0x011 => s.modMe (fun m => m.setLc 1 v)
  | 0x012 => s.modMe (fun m => m.setLc 2 v)
  | 0x014 => s.modMe (fun m => { m with lb := Tbl.set m.lb 0 v 0 })
  | 0x015 => s.modMe (fun m => { m with lb := Tbl.set m.lb 1 v 0 })
  | 0x016 => s.modMe (fun m => { m with lb := Tbl.set m.lb 2 v 0 })
  | 0x018 => s.modMe (fun m => { m with le := Tbl.set m.le 0 (even v) 0 })
  | 0x019 => s.modMe (fun m => { m with le := Tbl.set m.le 1 (even v) 0 })
  | 0x01A => s.modMe (fun m => { m with le := Tbl.set m.le 2 (even v) 0 })
  | 0x030 => s.modMe (fun m => { m with ctx := v.toNat % 65536 })
  | 0x031 =>
    if s.tagRangeOk g (v.toNat % 65536) (match s.sagAt g with | some x => bitsOf x.ctlim 0 16 | none => 0) then
      s.modSag g (fun x => { x with ctbase := v &&& 0xFFFF }) else s
  | 0x032 =>
    if s.tagRangeOk g (match s.sagAt g with | some x => bitsOf x.ctbase 0 16 | none => 0) (v.toNat % 65536) then
      s.modSag g (fun x => { x with ctlim := v &&& 0xFFFF }) else s
  | 0x041 => s.modMe (fun m => { m with tspace := v.toNat % 4096 })
  | 0x049 => s.writeUndo (withBits v 0 13 0) s.me.undop
  | 0x04A => s.writeUndo s.me.undob (withBits v 0 5 0)
  | 0x050 => s.modMyCore (fun c => { c with ebud := clampEbud v })
  | 0x058 => s.modMe (fun m => { m with heapb := word (bitsOf v 16 41 * 65536) })
  | 0x059 => s.modMe (fun m => { m with heapl := word (bitsOf v 16 41 * 65536) })
  | 0x05A => s.modMe (fun m => { m with heapo := withBits v 0 16 0 })
  | 0x078 => (s.modSag g (fun x => { x with lattol := v &&& 0xFFFFFFFF })).relaxPower
  | _ => s

/-- `mfs` (R125). -/
def execMfs (o : FmtMfs) (s : State) : Out :=
  plain (dstOk o.d) s (fun s => withDst o.d s (fun s => finish o.d (readSys o.i.toNat s) s))

/-- `mts` (R125): the class is checked where R77 checks privilege; a read-only register ignores the write. -/
def execMts (o : FmtMts) (s : State) : Out :=
  checked (writeAllowed o.i.toNat s.me) false (srcOk o.x o.a) s (fun s =>
    readSrc 0 o.a o.x s (fun v s => complete (writeSys o.i.toNat v s)))

/-! Branches and calls (R128 to R130). -/

/-- The target of a displacement of n bits. -/
def dispTarget {n : Nat} (pc : Word) (p : BitVec n) : Word := pc + 2 * p.signExtend 64

/-- A branch on two registers, read plainly (R60, R128). -/
def branch2 (o : FmtB) (f : Word → Word → Bool) (s : State) : Out :=
  plain (srcOk false o.a && srcOk false o.b) s (fun s =>
    readSrc 0 o.a false s (fun a s => readSrc 1 o.b false s (fun b s =>
      if f a b then branchTo (dispTarget s.me.pc o.p) s else complete s)))

/-- A branch on one register (R128). -/
def branch1 (o : FmtZ) (f : Word → Bool) (s : State) : Out :=
  plain (srcOk false o.a) s (fun s =>
    readSrc 0 o.a false s (fun a s => if f a then branchTo (dispTarget s.me.pc o.p) s else complete s))

/-- `br.eq` (R128). -/
def execBrEq (o : FmtB) (s : State) : Out := branch2 o (fun a b => a == b) s
/-- `br.ne` (R128). -/
def execBrNe (o : FmtB) (s : State) : Out := branch2 o (fun a b => a != b) s
/-- `br.lt` (R128). -/
def execBrLt (o : FmtB) (s : State) : Out := branch2 o (fun a b => a.slt b) s
/-- `br.ge` (R128). -/
def execBrGe (o : FmtB) (s : State) : Out := branch2 o (fun a b => !a.slt b) s
/-- `br.ltu` (R128). -/
def execBrLtu (o : FmtB) (s : State) : Out := branch2 o (fun a b => a.ult b) s
/-- `br.geu` (R128). -/
def execBrGeu (o : FmtB) (s : State) : Out := branch2 o (fun a b => !a.ult b) s
/-- `bz.eq0` (R128). -/
def execBzEq0 (o : FmtZ) (s : State) : Out := branch1 o (fun a => a == 0) s
/-- `bz.ne0` (R128). -/
def execBzNe0 (o : FmtZ) (s : State) : Out := branch1 o (fun a => a != 0) s
/-- `bz.lt0` (R128). -/
def execBzLt0 (o : FmtZ) (s : State) : Out := branch1 o (fun a => a.slt 0) s
/-- `bz.ge0` (R128). -/
def execBzGe0 (o : FmtZ) (s : State) : Out := branch1 o (fun a => !a.slt 0) s
/-- `bz.gt0` (R128). -/
def execBzGt0 (o : FmtZ) (s : State) : Out := branch1 o (fun a => (0 : Word).slt a) s
/-- `bz.le0` (R128). -/
def execBzLe0 (o : FmtZ) (s : State) : Out := branch1 o (fun a => !(0 : Word).slt a) s

/-- `jmp` (R129). -/
def execJmp (o : FmtJ) (s : State) : Out := plain true s (fun s => branchTo (dispTarget s.me.pc o.p) s)

/-- lk, s31 (R66). -/
def lk : Code := 31

/-- `call` (R129): lk first, then the branch. -/
def execCall (o : FmtJ) (s : State) : Out :=
  plain true s (fun s => withDst lk s (fun s =>
    jumpTo (dispTarget s.me.pc o.p) (s.modMe (fun m => m.setS 31 (m.pc + 4)))))

/-- A jump to a register target, MISALIGNED_PC for an odd one (R56, R130). -/
def toTarget (t : Word) (s : State) (k : State → Out) : Out := if t.getLsbD 0 then trap .misalignedPc t s else k s

/-- `jr.jr` (R130). -/
def execJr (o : FmtSrc) (s : State) : Out :=
  plain (srcOk o.x o.a) s (fun s => readSrc 0 o.a o.x s (fun t s => toTarget t s (branchTo t)))
/-- `jr.callr` (R130): the target is read before lk is written. -/
def execCallr (o : FmtSrc) (s : State) : Out :=
  plain (srcOk o.x o.a) s (fun s => withDst lk s (fun s => readSrc 0 o.a o.x s (fun t s =>
    toTarget t s (fun s => jumpTo t (s.modMe (fun m => m.setS 31 (m.pc + 4)))))))
/-- `jr.ret` (R130). -/
def execRet (s : State) : Out :=
  plain true s (fun s => readSrc 0 lk false s (fun t s => toTarget t s (jumpTo t)))

/-! Hardware loops (R131). -/

/-- Takes level k with a count, for a body of h halfwords after the instruction at pc (R131). -/
def Strand.takeLevel (m : Strand) (k : Nat) (n : Word) (h : Nat) (rn : Bool) : Strand :=
  { m with lc := Tbl.set m.lc k n 0, lb := Tbl.set m.lb k ((m.pc + 4) ||| flagBit rn) 0, le := Tbl.set m.le k (m.pc + 4 + word (2 * h)) 0 }
where
  /-- A bit as a word. -/
  flagBit (b : Bool) : Word := if b then 1 else 0

/-- `loop` (R131): LOOP_DEPTH's EADDR is stated by no rule (log 1). -/
def execLoop (o : FmtLoop) (s : State) : Out :=
  plain (srcOk o.x o.a) s (fun s => readSrc 0 o.a o.x s (fun n s =>
    if n = 0 then completeTo (s.me.pc + 4 + word (2 * o.i.toNat)) false s
    else
      match s.me.freeLevel with
      | none => trapFree .loopDepth s
      | some k => complete (s.modMe (fun m => m.takeLevel k n o.i.toNat o.r))))

/-! The iteration fetcher (R134, R135). -/

/-- Reads a nest descriptor: the fetcher without its counter's location, or a broken limit (R134). CNT is global or mesh-local with a shared-slice
space; a coordinate-relative one acts as the mesh-local address it resolves to (R270). -/
def nestOf (r : List Word) : Option Fetcher :=
  let depth := recBits r 8 1
  let n := fun k => (r.getD (2 + k) 0).toNat
  let total := n 0 * n 1 * n 2 * n 3
  let cnt := r.getD 0 0
  let p := recBits r 12 4
  if cnt.toNat % 8 = 0 && ((bitsOf cnt 60 4 = 0 && bitsOf cnt 57 3 = 0) || ((bitsOf cnt 60 4 = 8 || bitsOf cnt 60 4 = 9) && cnt.getLsbD 46)) &&
    1 ≤ depth && depth ≤ 4 && 1 ≤ p && p ≤ 3840 && (List.range 4).all (fun k => decide (k < depth) || decide (n k = 1)) && decide (total < 2 ^ 63) then
    some ⟨0, 0, total, 0, if recBits r 9 1 = 0 then 2 else recBits r 9 1, if recBits r 10 2 = 0 then 1 else recBits r 10 2, p, n 0, n 1, n 2, n 3⟩
  else none

/-- A claim of a fetcher at the address of CNT (R134): an atomic at device scope, whose address is checked and translated as any other's (R272, R391, R394).
It waits as an atomic does (R175, R287), and k follows once it is on its way. -/
def claimAt (f : Fetcher) (s : State) (k : Fetcher → State → Out) : Out :=
  access .update (word f.cnt) 8 8 (fun _ => true) s (fun p s =>
    if s.crosses false (homeOf p.loc) p.loc 8 then hold s
    else if s.parkedOverlap p.named 8 then holdOn p.named s
    else sendWrite p 1 0 8 (.claim f.total f.f f.minc f.p) s (k f))

/-- The claim at a loop's end (R134): an access of the strand after those of the body, so that it waits for an acquire among them (R289). DESIGN CHOICE (log
140): a trap that its check raises has the address after the body as its EPC. -/
def claimAgain (s : State) : Out :=
  match s.me.fetcher with
  | some f => if s.acquirePending then hold s else claimAt f s (fun _ s => .next (s.modMe (fun m => { m with status := .out, stage := 8 })))
  | none => .next (s.modMe (fun m => { m with stage := 0 }))

/-- `iloop` (R134): reads the descriptor in CTX, then claims at the home of CNT. DESIGN CHOICE (log 130): LOOP_DEPTH is decided before the descriptor is
read. -/
def execIloop (o : FmtLoop) (s : State) : Out :=
  plain (srcOk o.x o.a) s (fun s => ordered s (fun s => readSrc 0 o.a o.x s (fun a s =>
    if s.me.fetcher.isSome || s.me.freeLevel.isNone then trapFree .loopDepth s
    else readRecord 1 a 6 s (fun r s =>
      match nestOf r with
      | none => trapFree .iloopDescriptor s
      | some f => claimAt { f with level := 3, cnt := (r.getD 0 0).toNat } s (fun f s =>
          .next (s.modMe (fun m => { m with fetcher := some f, status := .out, stage := 7, work := [o.i.toNat, if o.r then 1 else 0] })))))))

/-- A claim's reply reaches its strand (R134): the first claim takes the lowest free level or skips the body; a later one goes on with
its chunk or frees the level. The last indexes reach ix0 to ix3 through the fetcher (R135). -/
def execIloopClaimReply (r : StrandRef) (s : State) : Out :=
  let s0 := s
  let m := s.strandOf r
  match s.acks.find? (fun a => a.core = r.core && a.slot = r.slot && a.uid = m.uid && (match a.body with | .reply _ => true | _ => false)), m.fetcher with
  | some ack, some f =>
    let s := { s with acks := s.acks.filter (fun a => a.id != ack.id), core := r.core, slot := r.slot }
    let (c, chunk) := match ack.body with | .reply x => (x.val.toNat, x.more.getD 0 0) | _ => (0, 0)
    if s.relocking r.core then .next s0
    else if m.dying then .next (s.reap r.core r.slot)
    else if m.stage = 7 then
      let h := m.work.getD 0 0
      let rn := decide (m.work.getD 1 0 = 1)
      if chunk = 0 then completeTo (m.pc + 4 + word (2 * h)) false (s.modMe (fun m => { m with fetcher := none }))
      else
        match m.freeLevel with
        | some k => complete (s.modMe (fun m => { (m.takeLevel k chunk h rn) with fetcher := some { f with level := k, i := c } }))
        | none => .next s
    else if m.stage = 8 then
      if chunk = 0 then completeTo m.pc false (s.modMe (fun m => m.setLc f.level 0))
      else
        let back := even (m.lbAt f.level)
        let s := (s.modMe (fun m => { m.retire with lc := Tbl.set m.lc f.level chunk 0, fetcher := some { f with i := c }, pc := back })).traced 0 back
        if (m.lbAt f.level).getLsbD 0 then
          let s' := s.shrinkNow s.core s.slot
          .next (if s'.me.shrink.isSome then s'.modMe (fun m => { m with rnWait := true }) else s')
        else .next s
    else .next s
  | _, _ => .next s

/-! The prefix (R99, R136). -/

/-- `pfx` (R136): bits [26:8] fill FMT and PP is set; in a trap handler it is no instruction (R101). -/
def execPfx (o : FmtP) (s : State) : Out :=
  if s.me.inTrap then trap .illegalInstruction s.curWord s
  else plain true s (fun s =>
    let fmt := o.k.toNat + o.h.toNat * 2 ^ 4 + o.g.toNat * 2 ^ 8 + o.s.toNat * 2 ^ 12 + o.r.toNat * 2 ^ 16 + o.t.toNat * 2 ^ 18
    complete (s.modMe (fun m => { m with st := withBits (withBits m.st 10 19 fmt) 8 1 1 })))

/-! Strand slots (R137 to R139). -/

/-- `strand.start` (R137): the child is ready in the core cycle after d is written; a core that has granted a slot in this cycle grants none (R249).
STRAND_ROLE's EADDR is stated by no rule (log 1). -/
def execStrandStart (o : FmtA) (s : State) : Out :=
  plain (srcOk o.x o.a && srcOk o.y o.b && dstOk o.d) s (fun s =>
    if s.slot ≠ 0 && (s.me.spec.isNone || s.me.inverse) then trapFree .strandRole s
    else withDst o.d s (fun s => two o s (fun t arg s =>
      toTarget t s (fun s =>
        let b := s.myCore.cycle - 1
        if b < s.myCore.grantNext then hold s
        else match s.myCore.freeHelper b with
        | none => finish o.d 0 s
        | some k =>
          let m := s.me
          let s := s.enter s.core k b (fun x => { x with
            status := .out, stage := 12, pc := t, s := Tbl.set [] 1 arg 0, st := m.st &&& 3, ctx := m.ctx, tspace := m.tspace, tvec := m.tvec,
            heapb := m.heapb, heapl := m.heapl, heapo := m.heapo, priv := m.priv, sag := m.sag, task := m.task,
            spec := m.spec, seq := m.seq, undob := m.undob, undop := m.undop })
          deliverTo o.d.toNat (word k) (s.modMe (fun m => { m with stage := 9, work := [o.d.toNat, k] })) (fun s => complete (s.startChild k))))))

/-- `strand.halt` (R138): the claim goes back once earlier lane instructions have completed; the slot is free. -/
def execStrandHalt (s : State) : Out :=
  plain true s (fun s =>
    if s.me.laneLoads ≠ 0 then hold s else .next ((s.endStrand s.core s.slot false).specEnded s.me))

/-- `strand.slot` (R139). -/
def execStrandSlot (o : FmtDst) (s : State) : Out :=
  plain (dstOk o.d) s (fun s => withDst o.d s (fun s =>
    finish o.d (word (s.slot + (s.myCore.liveSlots.foldl (fun n k => n + 2 ^ k) 0) * 2 ^ 16)) s))

/-- `strand.qbind` (R139, R258): the queue is emptied and bound, and every strand parked on it rechecks. -/
def execStrandQbind (o : FmtTwo) (s : State) : Out :=
  plain (srcOk o.x o.a && srcOk o.y o.b) s (fun s =>
    readSrc 0 o.a o.x s (fun a s => readSrc 1 o.b o.y s (fun b s =>
      let q := bitsOf a 0 3
      let woken := (s.myCore.queue q).poppers ++ (s.myCore.queue q).pushers
      let s := s.modMyCore (fun c => c.modQueue q (fun _ => ⟨[], some (bitsOf b 0 4, bitsOf b 4 4), [], [], []⟩))
      complete (woken.foldl (fun s k => s.modStrand s.core k (fun m => { m with status := .ready })) s))))

/-! Traps and returns (R140, R141). -/

/-- `trap` (R140): SOFTWARE_TRAP with EPC after the instruction. -/
def execTrap (o : FmtTrap) (s : State) : Out :=
  plain true s (fun s => takeTrapCode 15 (s.me.pc + 4) (o.c.setWidth 64) s)
/-- `brk` (R140): BREAKPOINT at the instruction, or a stop of the core when BRKEN is set. -/
def execBrk (o : FmtTrap) (s : State) : Out :=
  plain true s (fun s =>
    if s.myCore.dctl.getLsbD 5 then
      .next (((s.stopCore s.core).modMyCore (fun c => { c with brkPc := s.me.pc, brkCode := o.c.setWidth 64 })).modMe Strand.retire)
    else takeTrapCode 16 s.me.pc (o.c.setWidth 64) s)
/-- `sysc` (R140): SYSTEM_CALL with EPC after the instruction. -/
def execSysc (o : FmtTrap) (s : State) : Out :=
  plain true s (fun s => takeTrapCode 17 (s.me.pc + 4) (o.c.setWidth 64) s)
/-- `eret` (R141). -/
def execEret (s : State) : Out :=
  plain true s (fun s => if s.me.inTrap then returnFromTrap s else trap .illegalInstruction s.curWord s)

/-- A word that is no instruction (R55, R57, R62, R77 to R79): ILLEGAL_INSTRUCTION with the word in EADDR. -/
def execNonInstruction (w : Word) (s : State) : Out := trap .illegalInstruction w (s.modMe (fun m => { m with cur := none }))
/-- A fetch that fails (R77, R403): BAD_ADDRESS or PERMISSION against the fetch address. -/
def execFetchFault (bad : Bool) (addr : Word) (s : State) : Out :=
  trap (if bad then .badAddress else .permission) addr (s.modMe (fun m => { m with cur := none }))

end Sys2Proof.Machine
end

