-- ==== Sys2Proof/Machine/Memory.lean ====
section
/-! DEFINITION. Loads, stores, bit fields, full/empty words, atomics, reductions and fences (R172 to R192). -/

namespace Sys2Proof.Machine

/-- base + off6 × n (R179). -/
def baseOff (a : Word) (o : BitVec 6) (n : Nat) : Word := a + o.signExtend 64 * word n

/-- Whether a load at a place may be sent now: request room (R177), no overlap with a parked store (R175) or an outstanding update (R287). -/
def State.loadReady (s : State) (p : Place) (ctx n : Nat) : Bool :=
  s.requestRoom 1 && !s.parkedOverlap p.named n && !s.crosses true (s.homeFor p ctx) p.loc n

/-- A load whose parts are in flight: its result is pending from then on; where poison traps are elected the strand awaits it (R176, R178). -/
def loadSent (p : Pend) (s : State) : Out := if s.poisonTraps then awaitLoad p s else later p s

/-- Issues a load of n bytes at address a into d (R174 to R179). -/
def loadAt (d : Code) (a : Word) (n : Nat) (sx acq : Bool) (ctxOf : Place → State → Nat) (s : State) : Out :=
  access .load a n n (fun _ => true) s (fun p s =>
    let ctx := ctxOf p s
    if !s.loadReady p ctx n then (if s.parkedOverlap p.named n then holdOn p.named s else hold s)
    else
      let t := { s with serial := s.serial + 1 }.post 1 ctx p.named p.loc n (s.homeFor p ctx) (.load (.reg s.serial 0 (8 * n) 0))
      loadSent ⟨s.serial, d.toNat, 0, 1, 8 * n, sx, true, acq, none, a, p.loc⟩ t)

/-- The context of a plain access: CTX, or 0 under `.base` (R179). -/
def baseCtx (base : Bool) (p : Place) (s : State) : Nat := if base then 0 else s.tagFor p

/-- `ld` and `ldu` (R179). -/
def loadM (o : FmtM) (sx : Bool) (s : State) : Out :=
  plain (srcOk o.x o.a && dstOk o.d) s (fun s => ordered s (fun s => withDst o.d s (fun s => readSrc 0 o.a o.x s (fun a s =>
    loadAt o.d (baseOff a o.o (2 ^ o.sz.toNat)) (2 ^ o.sz.toNat) sx (decide (2 ≤ o.c.toNat)) (baseCtx (decide (o.c.toNat = 1))) s))))

/-- Stores the low n bytes of v at address a (R174, R175, R179), after a release when one is asked for (R192). -/
def storeAt (a v : Word) (n : Nat) (rel : Option Nat) (ctxOf : Place → State → Nat) (s : State) : Out :=
  access .store a n n (fun _ => true) s (fun p s =>
    let go := fun (s : State) =>
      if s.crosses false (s.homeFor p (ctxOf p s)) p.loc n then hold s
      else sendWrite p 1 (ctxOf p s) n (.store (toBytes n v.toNat)) s complete
    match rel with
    | some scope => releasing scope s go
    | none => go s)

/-- `ld` (R179). -/
def execLd (o : FmtM) (s : State) : Out := loadM o true s
/-- `ldu` (R179). -/
def execLdu (o : FmtM) (s : State) : Out := loadM o false s
/-- `st` (R179): d is the data, read after the base (R64). -/
def execSt (o : FmtM) (s : State) : Out :=
  plain (srcOk o.x o.a && srcOk false o.d) s (fun s => ordered s (fun s => readSrc 0 o.a o.x s (fun a s => readSrc 1 o.d false s (fun v s =>
    storeAt (baseOff a o.o (2 ^ o.sz.toNat)) v (2 ^ o.sz.toNat) (if 2 ≤ o.c.toNat then some (o.c.toNat - 2) else none)
      (baseCtx (decide (o.c.toNat = 1))) s))))

/-- `lda` (R180): an acquire at address a + b. -/
def execLda (o : FmtLda) (s : State) : Out :=
  plain (srcOk o.x o.a && srcOk false o.b && dstOk o.d) s (fun s => ordered s (fun s => withDst o.d s (fun s =>
    readSrc 0 o.a o.x s (fun a s => readSrc 1 o.b false s (fun b s =>
      loadAt o.d (a + b) (2 ^ o.sz.toNat) (!o.u) true (baseCtx false) s)))))
/-- `stl` (R180): a release at address a + b. -/
def execStl (o : FmtStl) (s : State) : Out :=
  plain (srcOk o.x o.a && srcOk false o.b && srcOk false o.d) s (fun s => ordered s (fun s =>
    readSrc 0 o.a o.x s (fun a s => readSrc 1 o.b false s (fun b s => readSrc 2 o.d false s (fun v s =>
      storeAt (a + b) v (2 ^ o.sz.toNat) (some o.k.toNat) (baseCtx false) s)))))

/-- Whether `ldx` may name tag t in a saggar (R181, R336). -/
def Saggar.ldxOk (g : Saggar) (t : Nat) : Bool :=
  decide (t = 0) || (decide (bitsOf g.ctbase 0 16 ≤ t) && decide (t ≤ bitsOf g.ctlim 0 16) && g.ctxUsable t)

/-- `ldx` (R181). -/
def execLdx (o : FmtLdx) (s : State) : Out :=
  plain (srcOk o.x o.a && srcOk o.y o.b && dstOk o.d) s (fun s => ordered s (fun s => withDst o.d s (fun s =>
    readSrc 0 o.a o.x s (fun a s => readSrc 1 o.b o.y s (fun b s =>
      let t := bitsOf b 0 16
      if !(match s.sagAt s.me.sag with | some g => g.ldxOk t | none => decide (t = 0)) then trap .contextInvalid (word t) s
      else loadAt o.d a (2 ^ o.sz.toNat) (!o.u) false (fun p _ => match p.addr with | .scratch .. => 0 | _ => t) s)))))

/-! Bit fields (R182). -/

/-- The byte address of a bit address (R97). -/
def byteOfBit (a : Word) : Word := withBits a 0 46 (bitsOf a 0 46 / 8)

/-- The bank words that a field of w bits from bit bo of byte address a touches, each with its bytes from a, the field's bit it starts with,
the bits it holds and where they lie in it (R98, R182). -/
def bankWords (bo w : Nat) : List (Nat × Nat × Nat × Nat) :=
  (List.range 3).filterMap (fun j =>
    let lo := bo / 32 + j
    let first := max bo (32 * lo)
    let last := min (bo + w) (32 * lo + 32)
    if first < last then some (4 * lo, first - bo, last - first, first - 32 * lo) else none)

/-- The checks of a bit-field access at bit address a of an instruction with address operand op (R182, R271), then k with the place of the bank word
that holds the field's first bit, and the bit offset. -/
def bitAccess (y : Way) (kd : Acc) (op a : Word) (w : Nat) (s : State) (k : Place → Nat → State → Out) : Out :=
  if bitsOf a 60 4 ≠ 8 && bitsOf a 60 4 ≠ 9 then trap .bitAddress a s
  else
    let b := byteOfBit a
    let n := (bitsOf a 0 3 + w + 7) / 8
    match resolve s s.myCluster s.me.sag b n with
    | none => trap .badAddress op s
    | some _ =>
      accessBy y kd b n 1 (fun _ => true) s (fun p s =>
        k { p with named := p.named - p.loc % 4, loc := p.loc - p.loc % 4 } (p.loc % 4 * 8 + bitsOf a 0 3) s)

/-- The masked write of one bank word of a field with value v (R182). -/
def Place.bitsOut (p : Place) (v : Nat) (x : Nat × Nat × Nat × Nat) : Place × Nat × Body :=
  ({ p with named := p.named + x.1, loc := p.loc + x.1 }, 4,
    .bits (BitVec.ofNat 32 (v / 2 ^ x.2.1 % 2 ^ x.2.2.1 * 2 ^ x.2.2.2)) (BitVec.ofNat 32 ((2 ^ x.2.2.1 - 1) * 2 ^ x.2.2.2)) (decide (0 < x.2.1)))

/-- `ldb` (R182): one read of each bank word. -/
def execLdb (o : FmtLdb) (s : State) : Out :=
  plain (srcOk o.x o.a && dstOk o.d) s (fun s => ordered s (fun s => withDst o.d s (fun s => readSrc 0 o.a o.x s (fun a s =>
    let w := o.w.toNat + 1
    bitAccess .byte .load a a w s (fun p bo s =>
      let ctx := s.tagFor p
      let ws := bankWords bo w
      let n := 4 * ws.length
      let at_ := fun (x : Nat × Nat × Nat × Nat) => { p with named := p.named + x.1, loc := p.loc + x.1 }
      if !s.requestRoom ws.length || s.parkedOverlap p.named n || ws.any (fun x => s.crosses true (s.homeFor (at_ x) ctx) (at_ x).loc 4) then
        (if s.parkedOverlap p.named n then holdOn p.named s else hold s)
      else
        let id := s.serial
        let t := ws.foldl (fun (t : State) (x : Nat × Nat × Nat × Nat) =>
          t.post 1 ctx (p.named + x.1) (p.loc + x.1) 4 (t.homeFor (at_ x) ctx)
            (.load (.reg id x.2.1 x.2.2.1 x.2.2.2))) { s with serial := s.serial + 1 }
        loadSent ⟨id, o.d.toNat, 0, ws.length, w, o.e, true, false, none, byteOfBit a, p.loc + bo / 8⟩ t)))))

/-- `stb` (R182). -/
def execStb (o : FmtStb) (s : State) : Out :=
  plain (srcOk o.x o.a && srcOk false o.d) s (fun s => ordered s (fun s => readSrc 0 o.a o.x s (fun a s => readSrc 1 o.d false s (fun v s =>
    let w := o.w.toNat + 1
    bitAccess .byte .store a a w s (fun p bo s =>
      let ws := bankWords bo w
      let out := ws.map (fun x => p.bitsOut v.toNat x)
      if !s.requestRoom ws.length || out.any (fun x => s.crosses false (s.homeFor x.1 (s.tagFor p)) x.1.loc 4) then hold s
      else sendAll (fun _ => s.tagFor p) 1 out s complete)))))

/-- `pref` (R183): a hint; an address that fails a check is dropped. What the walk has written and the TLBs have taken up stays (R388, R390). -/
def execPref (o : FmtPref) (s : State) : Out :=
  plain (srcOk o.x o.a) s (fun s => readSrc 0 o.a o.x s (fun a s =>
    match resolve s s.myCluster s.me.sag (baseOff a o.o (2 ^ o.sz.toNat)) 1 with
    | some (.global va) =>
      match translate s s.issuer .load va 1 with
      | (.broken _, _) => complete s
      | (_, t) => complete t
    | _ => complete s))

/-! Full/empty words (R184). -/

/-- The checks of a full/empty access, then k: FE_SPACE for an address that is not global. -/
def feAccess (kd : Acc) (a : Word) (s : State) (k : Place → State → Out) : Out :=
  if bitsOf a 60 4 = 8 || bitsOf a 60 4 = 9 then trap .feSpace a s else access kd a 8 8 (fun _ => true) s k

/-- An `ldfe` form (R184): the reply comes from the home, and with it POISON where poison traps are elected and the word served is poisoned (log 95). -/
def ldfe (o : FmtFe) (op : FeOp) (s : State) : Out :=
  plain (srcOk o.x o.a && dstOk o.d) s (fun s => ordered s (fun s => withDst o.d s (fun s => readSrc 0 o.a o.x s (fun a s =>
    let ea := baseOff a o.o 8
    feAccess .load ea s (fun p s =>
      if s.parkedOverlap p.named 8 then holdOn p.named s
      else if !s.requestRoom 1 || s.crosses true (homeOf p.loc) p.loc 8 then hold s
      else awaitReply o.d.toNat (s.post 1 0 p.named p.loc 8 (homeOf p.loc) (.fe op 0)))))))

/-- An `stfe` form (R184): a release at device scope. `fill` may wait at the home, and its strand with it; the others complete like stores. -/
def stfe (o : FmtFe) (op : FeOp) (s : State) : Out :=
  plain (srcOk o.x o.a && srcOk false o.d && (decide (op ≠ .empty) || decide (o.d.toNat = 56))) s (fun s => ordered s (fun s =>
    readSrc 0 o.a o.x s (fun a s => readSrc 1 o.d false s (fun v s =>
      feAccess .store (baseOff a o.o 8) s (fun p s => releasing 2 s (fun s =>
        if s.crosses false (homeOf p.loc) p.loc 8 then hold s
        else sendWrite p 1 0 8 (.fe op v) s (if op = .fill then awaitReply 56 else complete)))))))

/-- `ldfe.leave` (R184). -/
def execLdfeLeave (o : FmtFe) (s : State) : Out := ldfe o .leave s
/-- `ldfe.take` (R184). -/
def execLdfeTake (o : FmtFe) (s : State) : Out := ldfe o .take s
/-- `ldfe.state` (R184). -/
def execLdfeState (o : FmtFe) (s : State) : Out := ldfe o .state s
/-- `stfe.fill` (R184). -/
def execStfeFill (o : FmtFe) (s : State) : Out := stfe o .fill s
/-- `stfe.force` (R184). -/
def execStfeForce (o : FmtFe) (s : State) : Out := stfe o .force s
/-- `stfe.empty` (R184). -/
def execStfeEmpty (o : FmtFe) (s : State) : Out := stfe o .empty s

/-! Atomics and reductions (R186 to R190). -/

/-- The bytes an atomic acts on (R186). -/
def AOp.size : AOp → Nat
  | .faddS => 4
  | .faddBf => 2
  | _ => 8

/-- Whether a scope accepts an address (R188). -/
def State.scopeTakes (s : State) (scope : Nat) : Addr → Bool
  | .global _ => decide (2 ≤ scope)
  | .scratch c _ => match scope with | 0 => decide (c = s.core) | 1 => decide (clusterOf c = s.myCluster) | 2 => true | _ => false
  | .slice cl _ => match scope with | 1 => decide (cl = s.myCluster) | 2 => true | _ => false

/-- The checks of an atomic at address a (R174, R188), and the wait for overlapping parked stores (R175). -/
def atomicAccess (op : AOp) (scope : Nat) (a : Word) (s : State) (k : Place → State → Out) : Out :=
  access .update a op.size op.size (s.scopeTakes scope) s (fun p s =>
    if s.crosses false (homeOf p.loc) p.loc op.size then hold s else k p s)

/-- An `amo` or `amo2` form: the strand leaves the rotation until the old value comes (R186, R189). -/
def amo (op : AOp) (o : FmtAmo) (s : State) : Out :=
  let cas := decide (op = .cas)
  plain (srcOk o.x o.a && srcOk false o.b && dstOk o.d && (!cas || srcOk false o.d)) s (fun s => ordered s (fun s => withDst o.d s (fun s =>
    readSrc 0 o.a o.x s (fun a s => readSrc 1 o.b false s (fun b s =>
      let send := fun (c : Word) (s : State) =>
        atomicAccess op o.k.toNat a s (fun p s =>
          if s.parkedOverlap p.named op.size then holdOn p.named s
          else sendWrite p 1 0 op.size (.atomic op b c true) s (awaitReply o.d.toNat))
      if cas then readSrc 2 o.d false s send else send 0 s)))))

/-- Whether PEND leaves room for one more non-returning update (R189). -/
def State.pendRoom (s : State) : Bool := decide (s.me.pend < Config.pendLimit)
/-- Counts a non-returning update in PEND (R190). -/
def State.addPend (s : State) : State := s.modMe (fun m => { m with pend := m.pend + 1 })

/-- A `red` form: not returning, counted in PEND (R189). -/
def red (op : AOp) (o : FmtRed) (s : State) : Out :=
  plain (srcOk o.x o.a && srcOk false o.b) s (fun s => ordered s (fun s =>
    if !s.pendRoom then hold s
    else readSrc 0 o.a o.x s (fun a s => readSrc 1 o.b false s (fun b s =>
      atomicAccess op o.k.toNat a s (fun p s =>
        sendWrite p 1 0 op.size (.atomic op b 0 false) s (fun s => complete s.addPend))))))

/-- `amo.swap` (R186). -/
def execAmoSwap (o : FmtAmo) (s : State) : Out := amo .swap o s
/-- `amo.cas` (R186): d is read as the compare value. -/
def execAmoCas (o : FmtAmo) (s : State) : Out := amo .cas o s
/-- `amo.add` (R186). -/
def execAmoAdd (o : FmtAmo) (s : State) : Out := amo .add o s
/-- `amo.and` (R186). -/
def execAmoAnd (o : FmtAmo) (s : State) : Out := amo .and o s
/-- `amo.or` (R186). -/
def execAmoOr (o : FmtAmo) (s : State) : Out := amo .or o s
/-- `amo.xor` (R186). -/
def execAmoXor (o : FmtAmo) (s : State) : Out := amo .xor o s
/-- `amo.max` (R186). -/
def execAmoMax (o : FmtAmo) (s : State) : Out := amo .max o s
/-- `amo.min` (R186). -/
def execAmoMin (o : FmtAmo) (s : State) : Out := amo .min o s
/-- `amo2.maxu` (R186). -/
def execAmo2Maxu (o : FmtAmo) (s : State) : Out := amo .maxu o s
/-- `amo2.minu` (R186). -/
def execAmo2Minu (o : FmtAmo) (s : State) : Out := amo .minu o s
/-- `amo2.fadd.s` (R186). -/
def execAmo2FaddS (o : FmtAmo) (s : State) : Out := amo .faddS o s
/-- `amo2.fadd.bf` (R186). -/
def execAmo2FaddBf (o : FmtAmo) (s : State) : Out := amo .faddBf o s
/-- `red.add` (R186). -/
def execRedAdd (o : FmtRed) (s : State) : Out := red .add o s
/-- `red.and` (R186). -/
def execRedAnd (o : FmtRed) (s : State) : Out := red .and o s
/-- `red.or` (R186). -/
def execRedOr (o : FmtRed) (s : State) : Out := red .or o s
/-- `red.xor` (R186). -/
def execRedXor (o : FmtRed) (s : State) : Out := red .xor o s
/-- `red.max` (R186). -/
def execRedMax (o : FmtRed) (s : State) : Out := red .max o s
/-- `red.min` (R186). -/
def execRedMin (o : FmtRed) (s : State) : Out := red .min o s
/-- `red.fadd.s` (R186). -/
def execRedFaddS (o : FmtRed) (s : State) : Out := red .faddS o s
/-- `red.fadd.bf` (R186). -/
def execRedFaddBf (o : FmtRed) (s : State) : Out := red .faddBf o s

/-! Fences (R191): the strand is held until the condition is met. -/

/-- A fence with a condition. -/
def fence (cond : State → Bool) (s : State) : Out := plain true s (fun s => if cond s then complete s else hold s)
/-- A fence with a condition that the replay queue be empty (R395). -/
def fenceParked (cond : State → Bool) (s : State) : Out := plain true s (fun s => if cond s then complete s else holdParked s)

/-- `fence.acq` (R191). -/
def execFenceAcq (_o : FmtFence) (s : State) : Out := fence State.acquireOk s
/-- `fence.rel` (R191). -/
def execFenceRel (o : FmtFence) (s : State) : Out := fenceParked (fun s => s.releaseOk o.k.toNat) s
/-- `fence.full` (R191): at system scope it also waits for every write that its die's buffer held when it issued, those that a peer has still to acknowledge
among them (R286, R292), which it does once an earlier acquire has its value (R289). -/
def execFenceFull (o : FmtFence) (s : State) : Out :=
  plain true s (fun s => ordered s (fun s =>
    let s := if s.me.stage = 0 then s.modMe (fun m => { m with stage := 1, work := [s.serial] }) else s
    let drained := decide (o.k.toNat ≠ 3) || !((s.portWrites s.myDie).any (fun w => decide (w.id < s.me.work.headD 0)))
    if s.acquireOk && s.releaseOk o.k.toNat && drained then complete s else holdParked s))
/-- `fence.wred` (R191). -/
def execFenceWred (s : State) : Out := fence (fun s => decide (s.me.pend = 0)) s
/-- `fence.wrep` (R191). -/
def execFenceWrep (s : State) : Out := fenceParked (fun s => s.myCore.replay.isEmpty) s

end Sys2Proof.Machine
end

