-- ==== Sys2Proof/Machine/Homes.lean ====
section
/-! DEFINITION. What homes do (R178 to R192, R207, R275 to R292, R329 to R332, R417, R420), and how replies, results and
acknowledgements come back to strands (R110, R176, R189, R252). -/

namespace Sys2Proof.Machine

/-! Answers. -/

/-- The die of a message's issuer. -/
def Msg.die (m : Msg) : Nat := dieOf (clusterOf m.core)
/-- Sends an answer to a message's issuer. -/
def State.answer (s : State) (m : Msg) (b : AckBody) : State := { s with acks := s.acks ++ [⟨m.id, m.core, m.slot, m.uid, b, m.body.counts⟩] }
/-- Sends a reply of one word. -/
def State.replyTo (s : State) (m : Msg) (v : Word) : State := s.answer m (.reply ⟨v, [], 0⟩)
/-- Whether the strand that issued a message still runs in its slot. -/
def State.alive (s : State) (core slot uid : Nat) : Bool :=
  let x := s.strandAt core slot
  x.live && decide (x.uid = uid)
/-- Changes the strand that issued a message, if it still runs. -/
def State.modIssuer (s : State) (m : Msg) (f : Strand → Strand) : State :=
  if s.alive m.core m.slot m.uid then s.modStrand m.core m.slot f else s
/-- Removes the k-th message in flight. -/
def State.dropMsg (s : State) (k : Nat) : State := { s with net := dropAt s.net k }

/-- Whether one of the older messages given, of the same cluster, has still to visit a home that a message touches next (R287). Barrier and spawn messages
keep the same order at their core (log 92). -/
def Msg.follows (m : Msg) (older : List Msg) : Bool :=
  m.body.inOrder && older.any (fun x => decide (clusterOf x.core = clusterOf m.core) && x.body.inOrder && x.route.any (fun h => m.homes.contains h))
/-- Whether the message at place k of those in flight follows an older one that is still on its way (R287). -/
def State.overtakes (s : State) (k : Nat) (m : Msg) : Bool := m.follows (s.net.take k)

/-- Whether byte i of a message in a context comes from base memory: no cell of the context's chain holds it (R273). -/
def State.fallsToBase (s : State) (m : Msg) (i : Nat) : Bool :=
  match s.sagAt m.sag with | some g => !g.ctxUsable m.ctx || (g.chainByte (m.va + i) 6 m.ctx).isNone | none => true

/-- Whether a read in a context must fetch a byte of base memory from a pseudo-channel that reloads its table (R273, R419). -/
def State.baseWaits (s : State) (m : Msg) : Bool :=
  decide (m.ctx ≠ 0) && (match m.body with | .load _ | .bits .. => true | _ => false) &&
    (List.range m.size).any (fun i => s.tableWaits (m.loc + i) 1 && s.fallsToBase m i)

/-- Whether a home of a message lies behind the stalled crossing of a die that relocks, as its scratchpads and cores do (R18, R440, R441), or on a
pseudo-channel that reloads its table, as may what it reads of base memory (R419). -/
def State.stalled (s : State) (m : Msg) : Bool :=
  (decide (m.home.kind = .hbm) && s.tableWaits m.loc m.size) || s.baseWaits m || m.homes.any (fun h => (decide (h.kind = .scratch) || decide (h.kind = .core)) && s.relocking h.unit)
/-- Whether the message at place k may not be applied yet. -/
def State.barred (s : State) (k : Nat) (m : Msg) : Bool := s.misrouted m || s.overtakes k m || s.stalled m || s.unsent k m

/-! Reads at a home. -/

/-- Reads a message's bytes in its context as its die sees them, poisoned and fenced words as 0, and whether any was met (R178, R273, R420). -/
def State.readHome (s : State) (m : Msg) : Nat × Option Nat := s.readAs m.die m.sag m.ctx m.va m.loc m.size

/-- A read of n bytes at a location takes its words' errors, and one that strikes them now (R417). -/
def State.strike (s : State) (loc n : Nat) (e : EccRec) : State :=
  (if e.uncorrectable then s.upset loc true else if e.correctable then s.upset loc false else s).meet loc n

/-- Whether a saggar has elected poison traps (R178). -/
def State.elects (s : State) (sag : Nat) : Bool := match s.sagAt sag with | some g => g.cfg.ptrap | none => false

/-- A home answers a load form with value v; a poisoned word gives 0 and is counted, or POISON at the word's address where poison traps are elected
(R178). -/
def State.replyLoad (s : State) (m : Msg) (poison : Bool) (v : Word) : State :=
  if !poison then s.replyTo m v
  else if s.elects m.sag then s.answer m (.reply ⟨word m.va, [], 14⟩)
  else (if s.alive m.core m.slot m.uid then s.countPoison m.core m.slot m.sag else s.count m.sag (fun c => { c with poisoned := sat1 c.poisoned })).replyTo m 0

/-! Waiters (R185, R207). -/

/-- The value that a signal waiter observes: a poisoned word counts as 0 (R207, log 93). -/
def State.signalValue (s : State) (loc : Nat) : Word := if s.anyDead loc 8 then 0 else s.dword loc

/-- The signal waiters of a location whose bound is met are served; looking at the word is a read, which meets its error (R417). -/
def State.settleSignals (s : State) (loc : Nat) : State :=
  let s := s.meet loc 8
  let v := s.signalValue loc
  let met := fun (w : Waiter) => !w.retry && decide (w.msg.loc = loc) && (match w.msg.body with | .swait b => b.sle v | _ => false)
  let t := (s.waiters.filter met).foldl (fun (t : State) w => t.replyLoad w.msg (s.anyDead loc 8) v) s
  { t with waiters := t.waiters.filter (fun w => !met w) }

/-- After n bytes from a location have changed: signal waiters look again (R207). -/
def State.changed (s : State) (loc n : Nat) : State :=
  (s.waiters.filter (fun w => decide (w.msg.loc < loc + n) && decide (loc < w.msg.loc + 8))).foldl (fun (t : State) w => t.settleSignals w.msg.loc) s

/-- The full/empty form of a message and its data. -/
def Body.feOp : Body → Option (FeOp × Word)
  | .fe op d => some (op, d)
  | _ => none

/-- Serves a full/empty operation whose condition holds (R184, R420): its effect on the word and F, and the reply. On host and peer pages it acts on the
target itself, as an atomic does, once its die's buffer holds no write to the word (R292, log 96). -/
def State.serveFe (s : State) (m : Msg) : State :=
  match m.body with
  | .fe op d =>
    let poison := s.dead m.loc
    let load := fun (s : State) => s.replyLoad m poison (s.dword m.loc)
    let drop := fun (s : State) => s.count m.sag (fun c => { c with droppedWrite := sat1 c.droppedWrite })
    match op with
    | .leave => load s
    | .take => load (if s.fenced m.loc || (poison && s.elects m.sag) then s else s.setFull m.loc false)
    | .state => s.replyTo m (if s.fenced m.loc then 2 else word ((if s.isFull m.loc then 1 else 0) + (if poison then 2 else 0)))
    | .fill => (if s.fenced m.loc then drop s else (((s.setDword m.loc d).clearPoison m.loc 8).setFull m.loc true).changed m.loc 8).replyTo m 0
    | .force => (if s.fenced m.loc then drop s else (((s.setDword m.loc d).clearPoison m.loc 8).setFull m.loc true).changed m.loc 8).answer m .store
    | .empty => (if s.fenced m.loc then drop s else s.setFull m.loc false).answer m .store
  | _ => s

/-- The place of the oldest listed waiter of a word with a full/empty form. -/
def State.listedFe (s : State) (loc : Nat) (op : FeOp) : Option Nat :=
  placeOf (fun w => !w.retry && decide (w.msg.loc = loc) && (match w.msg.body with | .fe o _ => decide (o = op) | _ => false)) s.waiters

/-- Serves the waiter at place k of the list. -/
def State.serveWaiter (s : State) (k : Nat) : State :=
  match s.waiters[k]? with
  | some w => { s with waiters := dropAt s.waiters k }.serveFe w.msg
  | none => s

/-- settle of R185, one service at a time. -/
def State.settleFe : Nat → State → Nat → State
  | 0, s, _ => s
  | n + 1, s, loc =>
    if s.isFull loc then
      match s.listedFe loc .leave, s.listedFe loc .take with
      | some a, some b => State.settleFe n (s.serveWaiter (min a b)) loc
      | some a, none => State.settleFe n (s.serveWaiter a) loc
      | none, some b => State.settleFe n (s.serveWaiter b) loc
      | none, none => s
    else
      match s.listedFe loc .fill with
      | some a => State.settleFe n (s.serveWaiter a) loc
      | none => s

/-- Whether a home's list has room for one more waiter (R185, R280). -/
def State.listRoom (s : State) (h : Home) : Bool :=
  decide ((s.waiters.filter (fun w => !w.retry && decide (w.msg.home = h))).length < Config.waiterDepth)

/-- Lists a waiter, or returns it to its NI for a retry; its strand is parked under the wait (R185). -/
def State.listWaiter (s : State) (m : Msg) (w : Wait) : State :=
  State.modIssuer { s with waiters := s.waiters ++ [Waiter.mk m (!s.listRoom m.home)] } m (fun x => { x with status := .parked w })

/-- A full/empty operation arrives at its home (R185). -/
def State.feArrive (s : State) (m : Msg) : State :=
  match m.body.feOp with
  | some (op, _) =>
    let now := match op with
      | .state | .force | .empty => true
      | .leave | .take => s.isFull m.loc
      | .fill => !s.isFull m.loc
    if now || s.fenced m.loc then State.settleFe (s.waiters.length + 1) (s.serveFe m) m.loc else s.listWaiter m .fullEmpty
  | none => s

/-- An `swait` arrives at the signal's home (R207); no strand waits on a fenced word (R420). -/
def State.swaitArrive (s : State) (m : Msg) (bound : Word) : State :=
  let v := s.signalValue m.loc
  if s.fenced m.loc || bound.sle v then s.replyLoad m (s.anyDead m.loc 8) v else s.listWaiter m .signal

/-! Writes at a home. -/

/-- The new value of an atomic from the old value and the operand (R106, R186). -/
def AOp.new (op : AOp) (old b cmp : Word) : Nat :=
  match op with
  | .swap => b.toNat
  | .cas => if old = cmp then b.toNat else old.toNat
  | .add => (old + b).toNat
  | .and => (old &&& b).toNat
  | .or => (old ||| b).toNat
  | .xor => (old ^^^ b).toNat
  | .max => (if old.slt b then b else old).toNat
  | .min => (if b.slt old then b else old).toNat
  | .maxu => Nat.max old.toNat b.toNat
  | .minu => Nat.min old.toNat b.toNat
  | .faddS => (deliver 0 0 false (binVal .add (valueOf 0 old.toNat) (valueOf 0 b.toNat) 0)).1
  | .faddBf => (deliver 1 0 false (binVal .add (valueOf 1 old.toNat) (valueOf 1 b.toNat) 0)).1

/-- Whether an atomic to a location must still wait for its die's pending writes (R292). -/
def State.bufferHolds (s : State) (die loc n : Nat) : Bool :=
  offDevice loc && (s.dieAt die).pwb.any (fun w => decide (w.loc < loc + n) && decide (loc < w.loc + w.bytes.length))

/-- An atomic or reduction is applied (R178, R186, R187, R420). -/
def State.atomicApply (s : State) (m : Msg) (op : AOp) (b cmp : Word) (ret : Bool) : State :=
  let ans := fun (s : State) (v : Word) => if ret then s.replyTo m v else s.answer m .update
  if s.fenced m.loc then ans (s.count m.sag (fun c => { c with droppedWrite := sat1 c.droppedWrite })) 0
  else if s.anyPoison m.loc m.size then ans (s.count m.sag (fun c => { c with poisoned := sat1 c.poisoned })) 0
  else
    let old := word (ofBytes (s.bytes m.loc m.size))
    ans ((s.setBytes m.loc (toBytes m.size (op.new old b cmp))).changed m.loc m.size) old

/-- A claim of an iteration fetcher is applied (R134, R260): an atomic, which leaves a poisoned or fenced counter unchanged and reads it as 0
(R178, R420, log 97). -/
def State.claimApply (s : State) (m : Msg) (total f minc p : Nat) : State :=
  let dead := s.anyDead m.loc 8
  let c := if dead then 0 else ofBytes (s.bytes m.loc 8)
  let r := total - c
  let chunk := if r = 0 then 0 else min r (max minc ((r + f * p - 1) / (f * p)))
  if s.fenced m.loc then (s.count m.sag (fun c => { c with droppedWrite := sat1 c.droppedWrite })).answer m (.reply ⟨word c, [word chunk], 0⟩)
  else if dead then (s.count m.sag (fun c => { c with poisoned := sat1 c.poisoned })).answer m (.reply ⟨word c, [word chunk], 0⟩)
  else ((s.setBytes m.loc (toBytes 8 (c + chunk))).changed m.loc 8).answer m (.reply ⟨word c, [word chunk], 0⟩)

/-- The poisoned words of a message's cell are as they were in s. -/
def State.keepBad (s : State) (m : Msg) (t : State) : State :=
  if m.ctx = 0 then t
  else
    let it := fun (c : Cell) => decide (c.ctx = m.ctx) && decide (c.blk = m.va / 64)
    let bad := match (s.sagAt m.sag).bind (fun g => g.cells.find? it) with | some c => c.bad | none => []
    t.modSag m.sag (fun g => { g with cells := modIf g.cells it (fun c => { c with bad := bad }) })

/-- A masked write of a bank word, one write of the bytes that the mask touches: the unmasked bits keep what the context reads there (R182, R273). A mask
that leaves bits out does not cover the word, which stays poisoned if it was (R178, R417). -/
def State.bitsApply (s : State) (m : Msg) (v mask : Lane) : State :=
  let old := (List.range 4).map (fun i => s.ctxByte m.sag m.ctx (m.va + i) (m.loc + i))
  let new := toBytes 4 (((BitVec.ofNat 32 (ofBytes old)) &&& ~~~mask) ||| v).toNat
  let touched := (List.range 4).filter (fun i => decide (mask.toNat / 2 ^ (8 * i) % 256 ≠ 0))
  let t := match touched with
    | i :: _ => s.applyStore m.die m.core m.slot m.uid m.sag m.ctx (m.va + i) (m.loc + i) (touched.map (fun j => new.getD j 0))
    | [] => s
  if mask = BitVec.allOnes 32 then t else State.keepBad s m { t with poison := s.poison, errs := s.errs }

/-- Writes a put's dword and adds 1 to the counter that follows (R195): on a poisoned word the increment is dropped and counted like a reduction
(R178, R189, log 98). -/
def State.putAt (s : State) (sag : Nat) (data : Word) (loc : Nat) (counter : Option Nat) : State :=
  let s := ((s.setDword loc data).clearPoison loc 8).changed loc 8
  match counter with
  | some c =>
    let s := s.meet c 8
    if s.anyPoison c 8 then s.count sag (fun c => { c with poisoned := sat1 c.poisoned }) else (s.setDword c (s.dword c + 1)).changed c 8
  | none => s

/-! Cell space (R331, R332). -/

/-- The oldest uncommitted ordered task of a domain. -/
def Saggar.oldestOrdered (g : Saggar) (inst : Nat) : Option Nat :=
  ((g.specs.filter (fun t => decide (t.inst = inst) && t.ordered)).map (·.seq)).min?

/-- Whether context c is t or a descendant of t. -/
def Saggar.within (g : Saggar) (t : Nat) : Nat → Nat → Bool
  | 0, c => decide (c = t)
  | n + 1, c => decide (c = t) || (match Tbl.find g.ctxs c with | some x => decide (x.parent ≠ 0) && g.within t n x.parent | none => false)

/-- The cells a speculative task holds at a home. -/
def Saggar.holdsCellAt (g : Saggar) (t : SpecTask) (h : Home) : Bool :=
  match t.tag with
  | some tag => g.cells.any (fun c => decide (cellHome g c.ctx c.blk = h) && g.within tag 5 c.ctx)
  | none => false

/-- Space reclamation at a home (R332): one task at a time, the largest sequence number first. DESIGN CHOICE (log 136): of several such tasks, of different
domains, the first in the saggar's list. -/
def State.reclaim (s : State) (sag : Nat) (h : Home) : State :=
  match s.sagAt sag with
  | none => s
  | some g =>
    let at_ := g.specs.filter (fun t => g.holdsCellAt t h)
    if at_.any (fun t => decide (t.st = .aborting)) then s
    else
      let cand := at_.filter (fun t => (decide (t.st = .running) || decide (t.st = .done)) && !t.solo && !(t.ordered && decide (g.oldestOrdered t.inst = some t.seq)))
      match (cand.map (·.seq)).max? with
      | none => s
      | some q =>
        match cand.find? (fun t => t.seq = q) with
        | some t => s.beginAbort sag ⟨t.inst, t.seq⟩ false false false
        | none => s

/-- Puts a parked access into a replay queue in the order of issue. -/
def insertReplay (q : List Replay) (r : Replay) : List Replay :=
  let id := fun (x : Replay) => match x.msgs with | m :: _ => m.id | [] => 0
  q.takeWhile (fun x => id x < id r) ++ [r] ++ q.dropWhile (fun x => id x < id r)

/-- Whether a write needs a cell that its home has no room for (R331). -/
def State.cellLack (s : State) (m : Msg) : Bool :=
  match s.sagAt m.sag with
  | some g => decide (m.ctx ≠ 0) && g.ctxUsable m.ctx && g.cellFull m.ctx (m.va / 64)
  | none => false

/-- Whether a write must be parked at its home: its cell cannot be created, or an older store to its page is parked (R175, R331). -/
def State.mustPark (s : State) (m : Msg) : Bool :=
  s.cellLack m || (s.coreAt m.core).replay.any (fun r => r.msgs.any (fun x =>
    decide (x.sag = m.sag) && decide (x.id < m.id) && decide (s.pageOf x.sag x.va = s.pageOf m.sag m.va)))

/-- Whether an older parked store of its core overlaps a message (R175, R287). -/
def State.behindParked (s : State) (m : Msg) : Bool :=
  (s.coreAt m.core).replay.any (fun r => r.msgs.any (fun x =>
    decide (x.sag = m.sag) && decide (x.id < m.id) && decide (x.va < m.va + m.size) && decide (m.va < x.va + x.size)))

/-- A message takes its place among those of its entry by its serial (R167). -/
def insertMsg (q : List Msg) (m : Msg) : List Msg := q.takeWhile (fun x => x.id < m.id) ++ [m] ++ q.dropWhile (fun x => x.id < m.id)

/-- The heap registers under which a message was translated: its strand's, those of a `ctphase` that goes on without its strand, or those of the speculative task
for which hardware commits (R175, R334, R349). -/
def State.heapOf (s : State) (m : Msg) : Word × Word × Word :=
  let x := s.strandAt m.core m.slot
  match (s.sagAt m.sag).bind (fun g => g.phases.find? (fun p => p.uid = m.uid)), (if m.slot < 16 then none else m.spec.bind (s.specAt m.sag)) with
  | some p, _ => (p.heapb, p.heapl, p.heapo)
  | none, some t => (t.heapb, t.heapl, t.heapo)
  | none, none => (x.heapb, x.heapl, x.heapo)

/-- A write or commit byte that its home cannot take goes to its core's replay queue (R175, R333): into the entry that its instruction already has for
the page (R167), else into one of its own. While the queue is full the message waits, and its strand leaves the rotation; it also waits while the queue's die
relocks (R441). Space is reclaimed where the home is full (R332). -/
def State.parkAtHome (s : State) (k : Nat) (m : Msg) : State :=
  let s := if s.cellLack m then s.reclaim m.sag m.home else s
  let mine := fun (r : Replay) => r.msgs.any (fun x => decide (x.op = m.op) && decide (x.sag = m.sag) && decide (s.pageOf x.sag x.va = s.pageOf m.sag m.va))
  if s.relocking m.core then s
  else if (s.coreAt m.core).replay.any mine then
    (s.dropMsg k).modCore m.core (fun c => { c with replay := modIf c.replay mine (fun r => { r with msgs := insertMsg r.msgs m }) })
  else if Config.replayDepth ≤ (s.coreAt m.core).replay.length then s.modIssuer m (fun x => { x with jammed := true })
  else
    (s.dropMsg k).modCore m.core (fun c => { c with replay := insertReplay c.replay ⟨[m], .cellFull, s.heapOf m⟩ })

/-- Whether a byte of a block of a committing context is still to be performed, in flight or parked (R333). -/
def State.commitOut (s : State) (sag src blk : Nat) : Bool :=
  let mine := fun (m : Msg) => decide (m.sag = sag) && decide (m.va / 64 = blk) && (match m.body with | .commit x _ => decide (x = src) | _ => false)
  s.net.any mine || s.cores.any (fun c => c.2.replay.any (fun r => r.msgs.any mine) || c.2.away.any (fun a => a.2.2.replay.any (fun r => r.msgs.any mine)))

/-- The cells of a committing context whose bytes have all been performed or dropped are freed, and with the last one its tag (R328, R333). -/
def State.freeTag (s : State) (sag src : Nat) : State :=
  s.modSag sag (fun g =>
    match Tbl.find g.ctxs src with
    | some x =>
      if x.st ≠ .releasing then g
      else
        let cells := g.cells.filter (fun c => c.ctx ≠ src || s.commitOut sag src c.blk)
        { g with cells := cells, ctxs := if cells.any (fun c => c.ctx = src) then g.ctxs else Tbl.del g.ctxs src }
    | none => g)

/-- After a message has been performed or dropped: a commit byte may free its cell (R333). -/
def State.settled (s : State) (m : Msg) : State := match m.body with | .commit src _ => s.freeTag m.sag src | _ => s

/-- Whether two messages are elements of one lane load that read one place: they get the same word (R169). -/
def Msg.twin (m x : Msg) : Bool :=
  decide (x.op = m.op) && decide (x.uid = m.uid) && decide (x.va = m.va) && decide (x.loc = m.loc) && decide (x.size = m.size) &&
  (match m.body, x.body with | .load (.lane ..), .load (.lane ..) => true | _, _ => false)

/-- Answers a load with what its home read. -/
def State.answerLoad (s : State) (m : Msg) (v : Word) (bad : Option Nat) : State :=
  match m.body with
  | .load dst => s.answer m (.data dst v bad)
  | _ => s

/-- A home performs the operation of a message that has left the network (R275); e strikes the word it reads. Elements of one lane load that read one
place are read together (R169). -/
def State.perform (s : State) (m : Msg) (e : EccRec) : State :=
  match m.body with
  | .load _ =>
    let s := s.strike m.loc m.size e
    let r := s.readHome m
    (m :: s.net.filter m.twin).foldl (fun (t : State) x => (t.countStray x.sag x.ctx).answerLoad x (word r.1) r.2) { s with net := s.net.filter (fun x => !m.twin x) }
  | .store bs => ((s.applyStore m.die m.core m.slot m.uid m.sag m.ctx m.va m.loc bs).changed m.loc m.size).answer m .store
  | .bits v mask _ => (s.bitsApply m v mask).answer m .store
  | .atomic op b cmp ret => (s.strike m.loc m.size e).atomicApply m op b cmp ret
  | .claim t f mc p => (s.strike m.loc m.size e).claimApply m t f mc p
  | .swait b => (s.strike m.loc m.size e).swaitArrive m b
  | .fe .. => (s.strike m.loc m.size e).feArrive m
  | .put d c => (s.putAt m.sag d m.loc c).answer m .update
  | .commit _ b => ((s.applyStore m.die m.core m.slot m.uid m.sag m.ctx m.va m.loc [b]).changed m.loc 1).settled m
  | _ => s

/-- Whether a message writes without an answer that its strand awaits, so that its home may park it (R175, R331). -/
def Body.parks : Body → Bool
  | .store _ | .bits .. | .commit .. | .put .. | .atomic _ _ _ false | .fe .fill _ | .fe .force _ | .fe .empty _ => true
  | _ => false

/-- Whether an operation on host or peer memory waits for its die's pending writes (R292). -/
def State.awaitsBuffer (s : State) (m : Msg) : Bool :=
  match m.body with
  | .atomic .. | .claim .. | .swait _ | .fe .. => s.bufferHolds m.die m.loc m.size
  | _ => false

/-! Peers (R412, R413). -/

/-- Whether a message is a non-returning update. -/
def Body.updates (b : Body) : Bool := match b with | .atomic _ _ _ false | .put .. | .mput .. => true | _ => false

/-- A message to a peer that no path reaches completes with an error (R413): a returning operation returns 0, an update leaves PEND. -/
def State.failMsg (s : State) (m : Msg) : State :=
  let s := s.peerError m.loc m.body.updates
  match m.body with
  | .load dst => s.answer m (.data dst 0 none)
  | .atomic _ _ _ ret => if ret then s.replyTo m 0 else s.answer m .update
  | .put .. | .mput .. => s.answer m .update
  | .fe .force _ | .fe .empty _ | .store _ | .bits .. => s.answer m .store
  | .claim .. => s.answer m (.reply ⟨0, [0], 0⟩)
  | .commit .. => s.settled m
  | _ => s.replyTo m 0

/-- Whether a message goes to peer memory and is performed there only when the peer has acknowledged it: writes go through the die's buffer (R292, R412). -/
def Msg.toPeer (m : Msg) : Bool :=
  decide (m.home.kind = .fabric) && decide (spaceOf m.loc = 3) && (match m.body with | .store _ | .bits .. | .commit .. => false | _ => true)

/-- Whether an access has been sent to its peer and awaits its acknowledgement. -/
def State.sentAway (s : State) (m : Msg) : Bool := s.peers.any (fun p => p.unacked.any (fun u => decide (u.body = .access m.id)))

/-- A message that is next at its home is performed there; one to a peer stays in flight, numbered, until the peer acknowledges it (R412), and fails when
no path is left (R413). -/
def State.reach (s : State) (m : Msg) (e : EccRec) : State :=
  if m.home.kind = .fabric && s.cutOff m.loc then s.failMsg m
  else if m.toPeer then { s.sendPeer m.loc (.access m.id) with net := insertMsg s.net m }
  else s.perform m e

/-- The message at place k reaches its home (R275): a write that must be parked is (R175), a read behind an overlapping parked store waits, as does an
atomic for the pending-write buffer, and any other is performed. -/
def State.applyMsg (s : State) (k : Nat) (m : Msg) (e : EccRec) : State :=
  if m.body.parks && s.mustPark m then s.parkAtHome k m
  else if s.awaitsBuffer m || (!m.body.parks && s.behindParked m) || s.sentAway m then s
  else (s.dropMsg k).reach m e

/-- The context of a job's access to a location (R216, R272): scratchpads carry none, and BASE takes the others to base memory. -/
def Job.ctxAt (j : Job) (loc : Nat) : Nat := if spaceOf loc = 4 || j.desc.base then 0 else j.ctx

/-- Whether a job's write must wait for cell space (R331). -/
def State.jobCellFull (s : State) (j : Job) (w : EWrite) : Bool :=
  match s.sagAt j.sag with
  | some g => decide (j.ctxAt w.loc ≠ 0) && g.ctxUsable (j.ctxAt w.loc) && g.cellFull (j.ctxAt w.loc) (w.named / 64)
  | none => false

/-- The home of a job's write (R279). -/
def State.jobHome (s : State) (j : Job) (w : EWrite) : Home :=
  match s.sagAt j.sag with
  | some g => if j.ctxAt w.loc = 0 then homeOf w.loc else cellHome g (j.ctxAt w.loc) (w.named / 64)
  | none => homeOf w.loc

/-- Whether a job's write waits for a relocking die (R440) or for the reload of a repair table (R419). -/
def EWrite.barred (w : EWrite) (s : State) : Bool := s.tableWaits w.loc 1 || (decide (spaceOf w.loc = 4) && s.relocking (w.loc % 2 ^ 60 / 2 ^ 18))

/-- A job of cluster cl writes one byte, at a home that it wakes (R442). -/
def State.jobByteOut (s : State) (cl : Nat) (j : Job) (w : EWrite) : State :=
  ((s.wakeHome (s.jobHome j w)).applyStore (dieOf cl) j.core 16 j.seq j.sag (j.ctxAt w.loc) w.named w.loc [w.val]).changed w.loc 1

/-- Performs one byte write of the running job at place k of a cluster before its completion (R293, R370). -/
def State.engineWrite (s : State) (cl k i : Nat) : State :=
  match (s.clusterAt cl).jobs[k]? with
  | some j =>
    match (if j.state = .running then j.writes[i]? else none) with
    | some w =>
      if w.barred s then s
      else if s.jobCellFull j w then s.reclaim j.sag (s.jobHome j w)
      else (s.modCluster cl (fun c => { c with jobs := setAt c.jobs k { j with writes := dropAt j.writes i } })).jobByteOut cl j w
    | none => s
  | none => s

/-- The homes that a message reaches next wake (R442). -/
def State.wakeHomes (s : State) (m : Msg) : State := m.homes.foldl (fun (s : State) h => s.wakeHome h) s

/-- HOME_ACCESS (R275, R279, R286, R287, R442): the next operation a home applies, or one byte of an engine job's writes. -/
def execHomeAccess (h : HomeSel) (s : State) : Out :=
  if h.engine then .next (s.engineWrite h.cl h.k h.i)
  else
    match s.net[h.k]? with
    | some m =>
      let own := match m.body with | .load _ | .store _ | .bits .. | .atomic .. | .claim .. | .swait _ | .commit .. => true | _ => false
      if !own || s.barred h.k m then .next s else .next ((s.wakeHomes m).applyMsg h.k m h.ecc)
    | none => .next s

/-- FE_OP_AT_HOME (R185, R442). -/
def execFeOpAtHome (k : Nat) (s : State) : Out :=
  match s.net[k]? with
  | some m => if m.body.feOp.isNone || s.barred k m then .next s else .next ((s.wakeHomes m).applyMsg k m ⟨false, false⟩)
  | none => .next s

/-- A waiter arrives at its home once more (R185, R207): it wakes the home, and its read meets the errors of its word (R417, R442). -/
def State.waiterArrives (s : State) (m : Msg) : State :=
  let t := (s.wakeHomes m).meet m.loc 8
  match m.body with
  | .swait b => t.swaitArrive m b
  | _ => t.feArrive m

/-- WAITER_RETRY_BACKOFF (R185, R207, R419): a waiter returned for lack of room arrives again; while the word's pseudo-channel reloads its table it waits. -/
def execWaiterRetryBackoff (k : Nat) (s : State) : Out :=
  match s.waiters[k]? with
  | some w =>
    if !w.retry || s.stalled w.msg then .next s else .next (State.waiterArrives { s with waiters := dropAt s.waiters k } w.msg)
  | none => .next s

/-! Replies, results and acknowledgements. -/

/-- HOME_REPLY (R189, R208, R405): a reply reaches its strand, which may then go on; a reply for a strand that has been stopped is discarded. -/
def execHomeReply (k : Nat) (s : State) : Out :=
  match s.acks[k]? with
  | some ⟨_, core, slot, uid, .reply r, _⟩ =>
    let x := s.strandAt core slot
    let t := { s with acks := dropAt s.acks k }
    if s.relocking core then .next (s.wakeUnit core)
    else if !s.alive core slot uid then .next t
    else if x.dying then .next (t.reap core slot)
    else if x.stage = 7 || x.stage = 8 then .next s
    else .next ((t.modStrand core slot (fun m => { m with reply := some r, status := .ready })).wakeUnit core)
  | _ => .next s

/-- The bits of a load that have come (R176, R182). -/
def LoadDst.take (v : Word) (bits lo : Nat) : Nat := v.toNat / 2 ^ lo % 2 ^ bits

/-- A load's value, extended as the load asks (R179). -/
def Pend.extended (p : Pend) : Word := if p.sx then signExt p.width p.val.toNat else word (p.val.toNat % 2 ^ p.width)

/-- Data of a load reaches a pending result of a strand; poison is counted once, or raises POISON at its first byte where poison traps are
elected (R178). -/
def State.fillLoad (s : State) (c k id shift bits lo : Nat) (v : Word) (bad : Option Nat) : State :=
  match (s.strandAt c k).pending.find? (fun p => p.id = id) with
  | none => s
  | some p =>
    let p := { p with val := p.val ||| word (LoadDst.take v bits lo * 2 ^ shift), parts := p.parts - 1, bad := (p.bad.toList ++ bad.toList).min? }
    if p.parts = 0 then
      match p.bad with
      | none => s.fillResult c k { p with val := p.extended }
      | some l =>
        if s.elects (s.strandAt c k).sag then
          s.modStrand c k (fun m => { m with pending := m.pending.filter (fun q => q.id != id), status := .ready, reply := some ⟨p.addr + word (l - p.loc), [], 14⟩ })
        else (s.countPoison c k (s.strandAt c k).sag).fillResult c k { p with val := p.extended }
    else s.modStrand c k (fun m => { m with pending := modIf m.pending (fun q => q.id = id) (fun _ => p) })

/-- NONRETURNING_UPDATE_APPLIED (R189, R190): PEND falls, once a relock of the core's die is over (R441). -/
def execNonreturningUpdateApplied (k : Nat) (s : State) : Out :=
  match s.acks[k]? with
  | some ⟨_, core, slot, uid, .update, _⟩ =>
    let t := { s with acks := dropAt s.acks k }
    if s.relocking core then .next s
    else .next (if s.alive core slot uid then t.modStrand core slot (fun m => { m with pend := m.pend - 1 }) else t)
  | _ => .next s

/-- STORE_ACKNOWLEDGEMENT (R177, R286, R441): the request slot of a store is free again, once a relock of the core's die is over. -/
def execStoreAcknowledgement (k : Nat) (s : State) : Out :=
  match s.acks[k]? with
  | some ⟨_, core, _, _, .store, _⟩ => .next (if s.relocking core then s else { s with acks := dropAt s.acks k })
  | _ => .next s

/-- LONG_LATENCY_RESULT (R110, R147): the k-th result of a strand that is ready is written; a stopped strand's is discarded (R405), and
none is written while the core's die relocks (R441). -/
def execLongLatencyResult (r : StrandRef) (k : Nat) (s : State) : Out :=
  match ((s.strandOf r).pending.filter (fun p => !p.load && decide (p.parts = 0)))[k]? with
  | some p =>
    if s.relocking r.core then .next s
    else if (s.strandOf r).dying then
      .next ((s.modStrand r.core r.slot (fun m => { m with pending := m.pending.filter (fun q => q.id != p.id) })).reap r.core r.slot)
    else .next (s.fillResult r.core r.slot p)
  | none => .next s

/-- PENDING_WRITE_DRAIN (R292, R412, R413): the oldest write of a die's buffer goes to its target: host memory takes it; one to a peer takes a number and is
performed when the peer acknowledges it, or completes with an error when no path is left. -/
def execPendingWriteDrain (die : Nat) (s : State) : Out :=
  match (s.dieAt die).pwb with
  | w :: t =>
    let s := s.modDie die (fun d => { d with pwb := t })
    if s.cutOff w.loc then .next (s.peerError w.loc false)
    else if spaceOf w.loc = 3 then .next (s.sendPeer w.loc (.write w))
    else .next ((s.setBytes w.loc w.bytes).changed w.loc w.bytes.length)
  | [] => .next s

/-- A speculative task, or the task of a strand, fails (R338, R380): a running or done one is aborted first, and an abort under way ends in the
failure. -/
def State.failFor (s : State) (sag : Nat) (task : Option Nat) (spec : Option SpecRef) : State :=
  match spec with
  | none => s.failTask sag task
  | some r =>
    match s.specAt sag r with
    | some t =>
      if t.st = .aborting then (s.modSpec sag r (fun t => { t with fail := true })).failInstance sag r.inst
      else s.beginAbort sag r false false true
    | none => s

/-- What a retried access answers when it is removed (R175); a commit byte is dropped and counted, and its cell may be freed (R333). -/
def State.retryFailed (s : State) (m : Msg) : State :=
  let d := s.count m.sag (fun c => { c with droppedWrite := sat1 c.droppedWrite })
  let t := d.failFor m.sag m.task m.spec
  match m.body with
  | .commit .. => d.settled m
  | .atomic _ _ _ true | .fe .fill _ | .claim .. => t.replyTo m 0
  | .atomic _ _ _ false | .put .. | .mput .. => t.answer m .update
  | _ => t

/-- What the check of one parked access finds (R175, R335, R392). -/
inductive Retry where
  | go (m : Msg) | stays | dropped | failed
  deriving Repr

/-- Checks a parked access again from the start: the bytes of a commit, which hardware writes, outside the leases (R333, R392). -/
def State.recheck (s : State) (m : Msg) (heap : Word × Word × Word) : Except Fault (Retry × State) :=
  let usable := match s.sagAt m.sag with | some g => decide (m.ctx = 0) || g.ctxUsable m.ctx | none => false
  if !usable then .ok (.dropped, s)
  else
    let full := fun (m : Msg) (s : State) =>
      match s.sagAt m.sag with
      | some g => if m.ctx ≠ 0 && g.cellFull m.ctx (m.va / 64) then (Retry.stays, s.reclaim m.sag m.home) else (.go m, s)
      | none => (.stays, s)
    let commit := match m.body with | .commit .. => true | _ => false
    if 2 ^ 63 ≤ m.va || (commit && decide (m.ctx ≠ 0)) then .ok (full m s)
    else
      let i : Issuer := ⟨m.sag, clusterOf m.core, heap.1, heap.2.1, heap.2.2, if commit then none else some (s.leasesOf m.sag m.task)⟩
      match translate s i .store m.va m.size with
      | (.ok loc, s) => .ok (full { m with loc := loc, home := if m.ctx = 0 then homeOf loc else m.home } s)
      | (.replay .., s) | (.waits, s) => .ok (.stays, s)
      | (.broken f, _) => .error f
      | (_, s) => .ok (.failed, s)

/-- Removes the entries of a core's replay queue that hold no access any more; the strands that waited for room go on (R175). -/
def State.drainReplay (s : State) (core : Nat) : State :=
  s.modCore core (fun c => { c with replay := c.replay.filter (fun r => !r.msgs.isEmpty), slots := c.slots.map (fun e => (e.1, { e.2 with jammed := false })) })

/-- Whether a retried access may not be performed yet: an older access is still on its way to its home, or the home is out of reach (R287, R292,
R441). -/
def State.mustWait (s : State) (m : Msg) : Bool := m.follows (s.net.filter (fun x => x.id < m.id)) || s.stalled m || s.awaitsBuffer m

/-- Retries the accesses of one replay entry, in order: each that passes is performed at its home, and only then leaves the queue (R175, R296). -/
def State.retryAll (core : Nat) : List Msg → State → (Word × Word × Word) → Except Fault State
  | [], s, _ => .ok (s.drainReplay core)
  | m :: t, s, h =>
    let rest := fun (s : State) => s.modCore core (fun c => { c with replay := modIf c.replay (fun r => r.msgs = m :: t) (fun r => { r with msgs := t }) })
    match s.recheck m h with
    | .error f => .error f
    | .ok (.go m, s) => if s.mustWait m then .ok s else State.retryAll core t (((rest s).wakeHomes m).reach m ⟨false, false⟩) h
    | .ok (.dropped, s) => State.retryAll core t (((rest s).countStray m.sag m.ctx).settled m) h
    | .ok (.failed, s) => State.retryAll core t ((rest s).retryFailed m) h
    | .ok (.stays, s) => .ok s

/-- REPLAY_RETRY (R175, R331, R441): the k-th entry of a core's replay queue, behind no older entry of its page; not while the core's die relocks. -/
def execReplayRetry (core k : Nat) (s : State) : Out :=
  let q := (s.coreAt core).replay
  match q[k]? with
  | none => .next s
  | some r =>
    let page := fun (x : Replay) => x.msgs.map (fun m => (m.sag, s.pageOf m.sag m.va))
    if (s.coreAt core).saved.isSome || s.relocking core || (q.take k).any (fun x => (page x).any (fun p => (page r).contains p)) then .next s
    else
      match State.retryAll core r.msgs s r.heap with
      | .ok t => .next t
      | .error f => .fault f

end Sys2Proof.Machine
end

