-- ==== Sys2Proof/Machine/Messages.lean ====
section
/-! DEFINITION. Messages, puts and multicast (R193 to R196), named barriers (R197, R198, R265 to R268), copy tags (R199), spawn (R200),
task queues (R201 to R203, R381) and completion signals (R205 to R207). -/

namespace Sys2Proof.Machine

/-! Targets. -/

/-- The core that a mesh-local or coordinate-relative address names, its bits below [46:0] (or [46] too) ignored (R193, R197, R200). -/
def State.coreNamed (s : State) (a : Word) (slice : Bool) : Option Nat :=
  if slice && a.getLsbD 46 then none
  else
    match resolve s s.myCluster s.me.sag (withBits a 0 47 0) 1 with
    | some (.scratch c _) => some c
    | _ => none

/-- A core's class-3 credit after n refills in all: one for each, up to 4 (R415). -/
def Core.creditNow (c : Core) (n : Nat) : Nat := min 4 (c.credit + (n - c.creditAt))

/-- A class-3 message takes a credit of its core's NI, and waits for one (R415). -/
def withCredit (tc : Nat) (s : State) (k : State → Out) : Out :=
  if tc ≠ 3 then k s
  else if s.myCore.creditNow s.credits = 0 then hold s
  else
    let n := s.credits
    k (s.modMyCore (fun c => { c with credit := c.creditNow n - 1, creditAt := n }))

/-- A re-negotiation point (R151): a pending shrink takes effect as soon as the lane instructions before it have completed, also while the
strand is parked. -/
def State.renegotiate (s : State) (parks : Bool) : State :=
  let t := s.shrinkNow s.core s.slot
  t.modMe (fun m => { m with rnWait := parks || m.shrink.isSome })

/-! Mailboxes (R193, R194). -/

/-- `send` (R193): a release at device scope; the strand goes on once its NI has the message. -/
def execSend (o : FmtSend) (s : State) : Out :=
  plain (srcOk o.x o.a && srcOk o.y o.b) s (fun s => ordered s (fun s => readSrc 0 o.a o.x s (fun a s => readSrc 1 o.b o.y s (fun b s =>
    match s.coreNamed a true with
    | none => trap .badAddress a s
    | some c => releasing 2 s (fun s =>
        if !s.requestRoom 1 then hold s
        else withCredit o.t.toNat s (fun s => complete (s.post o.t.toNat 0 0 0 8 ⟨.core, c, 0⟩ (.mail (bitsOf a 0 2) b)))))))) 

/-- `recv` (R194): the oldest message, or the `recv` wait; a re-negotiation point. -/
def execRecv (o : FmtUn) (s : State) : Out :=
  plain (srcOk o.x o.a && dstOk o.d) s (fun s => ordered s (fun s => withDst o.d s (fun s => readSrc 0 o.a o.x s (fun a s =>
    let k := bitsOf a 0 2
    match s.myCore.mailbox k with
    | [] => park (.recv k) (s.renegotiate true)
    | v :: t => finish o.d v ((s.modMyCore (fun c => c.setMail k t)).renegotiate false)))))

/-- `rprobe` (R194). -/
def execRprobe (o : FmtDst) (s : State) : Out :=
  plain (dstOk o.d) s (fun s => withDst o.d s (fun s =>
    finish o.d (word ((List.range 4).foldl (fun n k => n + (s.myCore.mailbox k).length * 2 ^ (8 * k)) 0)) s))

/-- Whether an older message of one strand to one mailbox in one class is still on its way (R193). -/
def State.mailBehind (s : State) (k : Nat) (m : Msg) (box : Nat) : Bool :=
  (s.net.take k).any (fun x => decide (x.uid = m.uid) && decide (x.core = m.core) && decide (x.home = m.home) && decide (x.tc = m.tc) &&
    (match x.body with | .mail b _ => decide (b = box) | _ => false))

/-- MESSAGE_ARRIVAL (R193): a message enters its mailbox; it waits at a full mailbox and at a stopped or saved core. During a relock it queues and
wakes its unit (R441, R444). -/
def execMessageArrival (k : Nat) (s : State) : Out :=
  match s.net[k]? with
  | some m =>
    match m.body with
    | .mail box v =>
      if s.relocking m.home.unit then .next (s.wakeUnit m.home.unit)
      else if s.misrouted m || s.mailBehind k m box || s.unsent k m || !s.mailOpen m.home.unit box then .next s
      else .next (((s.dropMsg k).modCore m.home.unit (fun c => c.setMail box (c.mailbox box ++ [v]))).wakeUnit m.home.unit)
    | _ => .next s
  | none => .next s

/-! Puts (R195, R196). -/

/-- Step 2 of R174 for a target of a put: its kind and space, with the operand op in EADDR (R195, R196). -/
def putTarget (op a : Word) (s : State) (k : Addr → State → Out) : Out :=
  match resolve s s.myCluster s.me.sag a 8 with
  | none => trap .badAddress op s
  | some ad => if ad.isGlobal then trap .badAddress op s else k ad s

/-- Step 3 of R174 for a target of a put. -/
def putAligned (a : Word) (s : State) (k : State → Out) : Out := if a.toNat % 8 ≠ 0 then trap .misalignedAccess a s else k s

/-- The location of a mesh address. -/
def Addr.loc : Addr → Nat
  | .global va => va
  | .scratch c off => scratchLoc c off
  | .slice cl off => sliceLoc cl off

/-- The first byte of a dword that the quoin table of the own cluster locks against a put. -/
def State.putLocked (s : State) (ad : Addr) : Option Nat :=
  if ad.cluster = some s.myCluster then s.rangeLocked .store ad.named 8 else none

/-- `put` (R195): data, then the counter; z names no counter. -/
def execPut (o : FmtPut) (s : State) : Out :=
  plain (srcOk o.x o.a && srcOk o.y o.b && srcOk false o.d) s (fun s => ordered s (fun s =>
    if !s.pendRoom then hold s
    else readSrc 0 o.a o.x s (fun a s => readSrc 1 o.b o.y s (fun b s => readSrc 2 o.d false s (fun d s =>
      putTarget a a s (fun ad s =>
        let send := fun (cnt : Option Nat) (s : State) =>
          if (s.parkedPage ad.named).isSome && decide (Config.replayDepth ≤ s.myCore.replay.length) then holdOn ad.named s
          else if !s.requestRoom 1 then hold s
          else withCredit o.t.toNat s (fun s =>
            sendWrite ⟨ad, ad.named, ad.loc, none⟩ o.t.toNat 0 8 (.put b cnt) s (fun s => complete s.addPend))
        let go := fun (cnt : Option Addr) (s : State) =>
          match s.putLocked ad, cnt.bind s.putLocked with
          | some j, _ => trap .rangeLocked (a + word j) s
          | none, some j => trap .rangeLocked (d + word j) s
          | none, none => if s.crosses false (homeOf ad.loc) ad.loc 8 then hold s else send (cnt.map Addr.loc) s
        if o.d.toNat = 56 then putAligned a s (go none)
        else putTarget d d s (fun cd s =>
          if cd.cluster ≠ ad.cluster then trap .badAddress d s else putAligned a s (fun s => putAligned d s (go (some cd))))))))))

/-- The clusters a multicast mask names, in snake order, as offsets (i, j) from the origin (R196). -/
def snake (mask : Word) : List (Nat × Nat) :=
  (List.range 8).flatMap (fun j =>
    let row := (List.range 8).filter (fun i => mask.getLsbD (8 * j + i))
    (if j % 2 = 0 then row else row.reverse).map (fun i => (i, j)))

/-- A mesh-local address operand moved to cluster cl. -/
def atCluster (a : Word) (cl : Nat) : Word := word (8 * 2 ^ 60 + xOf cl * 2 ^ 55 + yOf cl * 2 ^ 50 + bitsOf a 0 50)

/-- The origin coordinates an address names, not yet checked against the mesh (R196, R270). -/
def State.originOf (s : State) (a : Word) : Int × Int :=
  if bitsOf a 60 4 = 8 then (bitsOf a 55 5, bitsOf a 50 5)
  else ((xOf s.myCluster : Int) + signed 5 (bitsOf a 55 5), (yOf s.myCluster : Int) + signed 5 (bitsOf a 50 5))

/-- The cluster at coordinates, if it lies in the mesh and the strand's saggar. -/
def State.meshCluster (s : State) (x y : Int) : Option Nat :=
  if x < 0 || 19 < x || y < 0 || 23 < y then none
  else
    let t := y.toNat * 20 + x.toNat
    if s.inSaggar s.me.sag t then some t else none

/-- `mput` (R196): the descriptor is read at issue, then one packet visits the named clusters; no quoin table is consulted (R416). MCAST_PARTITION's
EADDR is stated by no rule (log 1). DESIGN CHOICE (log 122): the descriptor's faults come first, then the kinds of DEST and d, the partition, the offsets of
DEST and d, and their alignment. -/
def execMput (o : FmtPut) (s : State) : Out :=
  plain (srcOk o.x o.a && srcOk o.y o.b && srcOk false o.d) s (fun s => ordered s (fun s =>
    readSrc 0 o.a o.x s (fun a s => readSrc 1 o.b o.y s (fun b s => readSrc 2 o.d false s (fun d s =>
      readRecord 3 a 2 s (fun r s =>
        let dest := r.getD 0 0
        let mask := r.getD 1 0
        if mask = 0 then complete s
        else if !s.pendRoom then hold s
        else if bitsOf dest 60 4 ≠ 8 && bitsOf dest 60 4 ≠ 9 then trap .badAddress dest s
        else if o.d.toNat ≠ 56 && bitsOf d 60 4 ≠ 8 && bitsOf d 60 4 ≠ 9 then trap .badAddress d s
        else
          let org := s.originOf dest
          let cls := (snake mask).map (fun p => s.meshCluster (org.1 + p.1) (org.2 + p.2))
          if cls.any Option.isNone then trapFree .mcastPartition s
          else
            let cls := cls.filterMap id
            let first := cls.headD 0
            putTarget dest (atCluster dest first) s (fun _ s =>
              let counter := fun (k : State → Out) =>
                if o.d.toNat = 56 then putAligned (atCluster dest first) s k
                else putTarget d (atCluster d first) s (fun _ s => putAligned (atCluster dest first) s (fun s => putAligned (atCluster d first) s k))
              counter (fun s =>
                let loc := fun (w : Word) (cl : Nat) => match resolve s s.myCluster s.me.sag (atCluster w cl) 8 with | some ad => ad.loc | none => 0
                let ds := cls.map (fun cl => (loc dest cl, if o.d.toNat = 56 then none else some (loc d cl)))
                if !s.requestRoom 1 || ds.any (fun x => s.crosses false (homeOf x.1) x.1 8) then hold s
                else withCredit o.t.toNat s (fun s =>
                  let l := (ds.headD (0, none)).1
                  complete (s.post o.t.toNat 0 0 l 8 (homeOf l) (.mput b ds)).addPend)))))))))

/-- PUT_DELIVERY (R195, R442). -/
def execPutDelivery (k : Nat) (s : State) : Out :=
  match s.net[k]? with
  | some m =>
    match m.body with
    | .put .. => if s.barred k m then .next s else .next ((s.wakeHomes m).applyMsg k m ⟨false, false⟩)
    | _ => .next s
  | none => .next s

/-- MPUT_VISIT (R196, R442): the packet writes at its next cluster; PEND falls after the last. -/
def execMputVisit (k : Nat) (s : State) : Out :=
  match s.net[k]? with
  | some m =>
    match m.body with
    | .mput d (x :: t) =>
      if s.barred k m then .next s
      else
        let s1 := (s.wakeHomes m).putAt m.sag d x.1 x.2
        match t with
        | [] => .next ((s1.dropMsg k).answer m .update)
        | y :: _ => .next { s1 with net := setAt s1.net k { m with loc := y.1, home := homeOf y.1, body := .mput d t } }
    | _ => .next s
  | none => .next s

/-! Named barriers (R197, R198, R265, R266). -/

/-- The core and number of the barrier an operand names (R197). -/
def State.barNamed (s : State) (a : Word) : Option (Nat × Nat) :=
  if bitsOf a 60 4 = 0 then some (s.core, bitsOf a 0 11) else (s.coreNamed a true).map (fun c => (c, bitsOf a 0 11))

/-- Wakes the waiters of a barrier with a status: those of its own core at once, others by a reply. -/
def State.wakeBar (s : State) (core : Nat) (ws : List (StrandRef × Nat)) (v : Word) : State :=
  ws.foldl (fun (t : State) w =>
    if !t.alive w.1.core w.1.slot w.2 then t
    else if w.1.core = core then t.modStrand w.1.core w.1.slot (fun m => { m with reply := some ⟨v, [], 0⟩ })
    else { t with acks := t.acks ++ [⟨t.serial, w.1.core, w.1.slot, w.2, .reply ⟨v, [], 0⟩, false⟩], serial := t.serial + 1 }) s

/-- A barrier operation is applied for a strand: its result, or none when the strand waits (R198). -/
def State.barApply (s : State) (core k : Nat) (op : BarOp) (who : StrandRef) (uid : Nat) : Option Word × State :=
  let b := (s.coreAt core).bar k
  let put := fun (s : State) (b : Bar) => s.modCore core (fun c => c.setBar k b)
  let waitOn := fun (s : State) (p : Nat) =>
    let b := (s.coreAt core).bar k
    if b.st ≠ 1 then (some 1, s)
    else if b.ph ≠ p then (some 0, s)
    else (none, put s { b with waiters := b.waiters ++ [(who, uid)] })
  let arrive := fun (s : State) =>
    if b.a + 1 = b.n then (put s { b with a := 0, ph := (b.ph + 1) % 65536, waiters := [] }).wakeBar core b.waiters 0 else put s { b with a := b.a + 1 }
  match op with
  | .init n => (some 0, (put s ⟨1, n, 0, 0, []⟩).wakeBar core b.waiters 1)
  | .inval => (some 0, (put s { b with st := 2, a := 0, waiters := [] }).wakeBar core b.waiters 1)
  | .query => (some (word (b.st * 2 ^ 48 + b.ph * 2 ^ 32 + b.n * 2 ^ 16 + b.a)), s)
  | .arrive => if b.st ≠ 1 then (some (word (2 ^ 63 + b.ph)), s) else (some (word b.ph), arrive s)
  | .wait p => waitOn s p
  | .arrwait => if b.st ≠ 1 then (some 1, s) else waitOn (arrive s) b.ph

/-- A `bar` form (R198) on the barrier that operand a names: at once on the own core, by a message elsewhere (R265). `d` is the destination's code,
none for forms without one; `waits` marks a re-negotiation point. -/
def barOp (a : Word) (op : BarOp) (d : Option Nat) (waits : Bool) (s : State) : Out :=
  match s.barNamed a with
  | none => trap .badAddress a s
  | some (c, k) =>
    let point := fun (s : State) (parks : Bool) => if waits then s.renegotiate parks else s
    if c = s.core then
      match s.barApply c k op s.myRef s.me.uid with
      | (some v, s) => match d with | some d => deliverTo d v (point s false) complete | none => complete (point s false)
      | (none, s) => park .barrier ((point s true).modMe (fun m => { m with stage := 9, work := [d.getD 56] }))
    else
      let s := s.post 1 0 0 0 0 ⟨.core, c, 0⟩ (.bar k op)
      match d with
      | some d => awaitReply d (point s true)
      | none => complete s

/-- `bar.init` (R198). BARRIER_COUNT's EADDR is stated by no rule (log 1). -/
def execBarInit (o : FmtTwo) (s : State) : Out :=
  plain (srcOk o.x o.a && srcOk o.y o.b) s (fun s => ordered s (fun s => readSrc 0 o.a o.x s (fun a s => readSrc 1 o.b o.y s (fun b s =>
    if (s.barNamed a).isSome && decide (bitsOf b 0 16 = 0) then trapFree .barrierCount s
    else barOp a (.init (bitsOf b 0 16)) none false s))))
/-- `bar.arrive` (R198): a release at device scope. -/
def execBarArrive (o : FmtUn) (s : State) : Out :=
  plain (srcOk o.x o.a && dstOk o.d) s (fun s => ordered s (fun s => withDst o.d s (fun s => readSrc 0 o.a o.x s (fun a s =>
    if (s.barNamed a).isNone then trap .badAddress a s
    else releasing 2 s (fun s => barOp a .arrive (some o.d.toNat) false s)))))
/-- `bar.wait` (R198). -/
def execBarWait (o : FmtA) (s : State) : Out :=
  plain (srcOk o.x o.a && srcOk o.y o.b && dstOk o.d) s (fun s => ordered s (fun s => withDst o.d s (fun s => two o s (fun a b s =>
    barOp a (.wait (bitsOf b 0 16)) (some o.d.toNat) true s))))
/-- `bar.arrwait` (R198): a release before its arrival. -/
def execBarArrwait (o : FmtUn) (s : State) : Out :=
  plain (srcOk o.x o.a && dstOk o.d) s (fun s => ordered s (fun s => withDst o.d s (fun s => readSrc 0 o.a o.x s (fun a s =>
    if (s.barNamed a).isNone then trap .badAddress a s
    else releasing 2 s (fun s => barOp a .arrwait (some o.d.toNat) true s)))))
/-- `bar.inval` (R198). -/
def execBarInval (o : FmtSrc) (s : State) : Out :=
  plain (srcOk o.x o.a) s (fun s => ordered s (fun s => readSrc 0 o.a o.x s (fun a s => barOp a .inval none false s)))
/-- `bar.query` (R198). -/
def execBarQuery (o : FmtUn) (s : State) : Out :=
  plain (srcOk o.x o.a && dstOk o.d) s (fun s => ordered s (fun s => withDst o.d s (fun s => readSrc 0 o.a o.x s (fun a s =>
    barOp a .query (some o.d.toNat) false s))))

/-- REMOTE_BAR_OP (R265, R266): a barrier operation from another core is applied in the core's last begun cycle, after the own strands' operations of
that cycle and after those of lower-numbered senders; a strand that must wait is parked. It is a message
for the core, which it wakes (R442). -/
def execRemoteBarOp (k : Nat) (s : State) : Out :=
  match s.net[k]? with
  | some m =>
    match m.body with
    | .bar b op =>
      let now := s.nextBeat m.home.unit - 1
      let last := (s.coreAt m.home.unit).barLast
      if s.relocking m.home.unit then .next (s.wakeUnit m.home.unit)
      else if s.barred k m || (decide (now = last.1) && decide (m.core < last.2)) then .next s
      else
        let noReply := match op with | .init _ | .inval => true | _ => false
        match ((s.wakeUnit m.home.unit).dropMsg k |>.modCore m.home.unit (fun c => { c with barLast := (now, m.core) })).barApply m.home.unit b op ⟨m.core, m.slot⟩ m.uid with
        | (some v, t) => .next (if noReply then t else t.replyTo m v)
        | (none, t) => .next (t.modIssuer m (fun x => { x with status := .parked .barrier }))
    | _ => .next s
  | none => .next s

/-! Copy tags (R199). -/

/-- Whether tag t of a core has no outstanding operation (R281). -/
def Core.tagIdle (c : Core) (t : Nat) : Bool := decide (Tbl.get c.tagCount t 0 = 0)

/-- `tagw.waitany` (R199). -/
def execTagwWaitany (o : FmtUn) (s : State) : Out :=
  plain (srcOk o.x o.a && dstOk o.d) s (fun s => withDst o.d s (fun s => readSrc 0 o.a o.x s (fun a s =>
    let r := s.myCore.tags &&& a
    if a = 0 || r ≠ 0 then finish o.d r s else park (.tag a false) s)))
/-- `tagw.waitall` (R199). -/
def execTagwWaitall (o : FmtUn) (s : State) : Out :=
  plain (srcOk o.x o.a && dstOk o.d) s (fun s => withDst o.d s (fun s => readSrc 0 o.a o.x s (fun a s =>
    if s.myCore.tags &&& a = a then finish o.d a s else park (.tag a true) s)))
/-- `tagw.ffr` (R199). -/
def execTagwFfr (o : FmtUn) (s : State) : Out :=
  plain (srcOk o.x o.a && dstOk o.d) s (fun s => withDst o.d s (fun s => readSrc 0 o.a o.x s (fun a s =>
    finish o.d (match (List.range 64).find? (fun t => (a &&& s.myCore.tags).getLsbD t) with | some t => word t | none => BitVec.allOnes 64) s)))
/-- `tagw.clr` (R199). -/
def execTagwClr (o : FmtSrc) (s : State) : Out :=
  plain (srcOk o.x o.a) s (fun s => readSrc 0 o.a o.x s (fun a s =>
    complete (s.modMyCore (fun c =>
      let idle := (List.range 64).foldl (fun n t => if a.getLsbD t && c.tagIdle t then n + 2 ^ t else n) 0
      { c with tags := c.tags &&& ~~~(word idle) }))))

/-! Spawn (R200, R264). -/

/-- `spawn` (R200): the record is read, then the target answers. -/
def execSpawn (o : FmtA) (s : State) : Out :=
  plain (srcOk o.x o.a && srcOk o.y o.b && dstOk o.d) s (fun s => ordered s (fun s => withDst o.d s (fun s => two o s (fun a b s =>
    if s.me.reads.length ≤ 2 && (resolve s s.myCluster s.me.sag a 24).isNone then trap .badAddress a s
    else
      match s.coreNamed b false with
      | none => trap .badAddress b s
      | some c =>
        readRecord 2 a 3 s (fun r s =>
          let pc := r.getD 0 0
          toTarget pc s (fun s => releasing 2 s (fun s =>
            let m := s.me
            awaitReply o.d.toNat (s.post 1 m.ctx 0 0 0 ⟨.core, c, 0⟩ (.spawn pc (r.getD 1 0) (r.getD 2 0) (bitsOf m.st 0 2) m.tspace m.priv)))))))))

/-- SPAWN_REQUEST (R200, R249, R264): the target core takes the lowest free helper slot, or bounces the request, once it has issued what it issues in that
cycle; a core that is stopped or saved, or whose strands are still put away, bounces it (R247, R267). During a relock the request queues and wakes its unit (R441, R444). -/
def execSpawnRequest (k : Nat) (s : State) : Out :=
  match s.net[k]? with
  | some m =>
    match m.body with
    | .spawn pc a0 a1 rm tspace priv =>
      let c := m.home.unit
      let x := s.coreAt c
      if s.relocking c then .next (s.wakeUnit c)
      else if s.barred k m then .next s
      else if x.stopped || x.saved.isSome || x.awaited m.sag then .next ((s.dropMsg k).replyTo m 0)
      else if s.helperDue c then .next s
      else match s.grantBeat c with
      | none => .next s
      | some b =>
        if !s.ranBeat c b then .next s
        else match x.freeHelper b with
        | none => .next ((s.dropMsg k).replyTo m 0)
        | some j =>
          let z := x.slotAt 0
          let t := (s.dropMsg k).enter c j b (fun n => { n with
            pc := pc, s := Tbl.set (Tbl.set (Tbl.set [] 1 a0 0) 2 a1 0) 3 (word (m.core * 16 + m.slot)) 0, st := word rm, ctx := m.ctx, tspace := tspace,
            tvec := z.tvec, heapb := z.heapb, heapl := z.heapl, heapo := z.heapo, priv := priv, sag := m.sag, task := m.task })
          .next ((t.wakeUnit c).replyTo m (word j))
    | _ => .next s
  | none => .next s

/-! Task queues (R201 to R203, R381, R382). -/

/-- The configured task queue that an operand names (R201). -/
def State.taskQueue (s : State) (a : Word) : Option TaskQueue :=
  if bitsOf a 8 56 ≠ 0 then none else (s.sagAt s.me.sag).bind (fun g => Tbl.find g.queues (bitsOf a 0 8))

/-- Changes a task queue. -/
def State.modQueue (s : State) (sag q : Nat) (f : TaskQueue → TaskQueue) : State :=
  s.modSag sag (fun g => { g with queues := match Tbl.find g.queues q with | some x => Tbl.put g.queues q (f x) | none => g.queues })

/-- The entries that a pop takes from a ring (R202, R203): the oldest and up to n - 1 younger ones with its pc among the oldest
64, with what stays. -/
def takeEntries (n : Nat) (ring : List QEntry) : List QEntry × List QEntry :=
  match ring with
  | [] => ([], [])
  | e :: _ =>
    let same := ((List.range (min 64 ring.length)).filter (fun i => match ring[i]? with | some x => decide (x.pc = e.pc) | none => false)).take n
    (same.filterMap (fun i => ring[i]?), ((List.range ring.length).filter (fun i => !same.contains i)).filterMap (fun i => ring[i]?))

/-- The words of popped entries. -/
def entryWords (es : List QEntry) : List Word := es.flatMap (fun e => [e.pc, e.a0, e.a1, e.a2])

/-- Serves the oldest strands parked on a task queue while its ring holds entries (R381, R382); each strand's `work` holds how many it may take. -/
def State.serveRing : Nat → State → Nat → Nat → State
  | 0, s, _, _ => s
  | fuel + 1, s, sag, q =>
    match (s.sagAt sag).bind (fun g => Tbl.find g.queues q) with
    | some x =>
      match x.waiters, x.ring with
      | w :: ws, _ :: _ =>
        let m := s.strandOf w.1
        let (es, rest) := takeEntries (m.work.headD 1) x.ring
        let s := s.modQueue sag q (fun x => { x with ring := rest, waiters := ws })
        State.serveRing fuel (s.give w.1 w.2 ⟨word es.length, entryWords es, 0⟩) sag q
      | _, _ => s
    | none => s

/-- `qpush` (R201, R381): a release whatever its result (R192). It reaches its queue in the order of its arithmetic cycle (R275, R382). QUEUE_INVALID's EADDR
is stated by no rule (log 1). -/
def execQpush (o : FmtA) (s : State) : Out :=
  plain (srcOk o.x o.a && srcOk o.y o.b && dstOk o.d) s (fun s => ordered s (fun s => withDst o.d s (fun s => two o s (fun a b s =>
    match s.taskQueue a with
    | none => trapFree .queueInvalid s
    | some x =>
      readRecord 2 b 4 s (fun r s =>
        let pc := r.getD 0 0
        releasing 2 s (fun s =>
          if pc = 0 || pc.getLsbD 0 then finish o.d 3 s
          else if s.tooLate x.last s.myRank then hold s else
          let now := (s.poolCycle, s.myRank)
          let e : QEntry := ⟨pc, r.getD 1 0, r.getD 2 0, r.getD 3 0⟩
          let sag := s.me.sag
          let q := bitsOf a 0 8
          if x.spill.isEmpty && decide (x.ring.length < Config.ringEntries) then
            finish o.d 0 (State.serveRing 1 (s.modQueue sag q (fun x => { x with ring := x.ring ++ [e], last := now })) sag q)
          else if x.spill.length < x.spillSize then finish o.d 1 (s.modQueue sag q (fun x => { x with spill := x.spill ++ [e], last := now }))
          else finish o.d 2 (s.modQueue sag q (fun x => { x with last := now }))))))))

/-- Takes entries from a task queue for the strand in focus, or parks it (R202, R203): k gets the number taken and their words. The operation reaches its queue
in the order of its arithmetic cycle (R275, R382). -/
def popRing (nb : Bool) (n : Nat) (a : Word) (s : State) (k : Nat → List Word → State → Out) : Out :=
  if s.me.stage = 10 then
    match s.me.reply with
    | some r => k r.val.toNat r.more s
    | none => .next s
  else
    match s.taskQueue a with
    | none => trapFree .queueInvalid s
    | some x =>
      let q := bitsOf a 0 8
      let now := (s.poolCycle, s.myRank)
      if s.tooLate x.last s.myRank then hold s else
      match x.ring with
      | _ :: _ =>
        let (es, rest) := takeEntries n x.ring
        k es.length (entryWords es) (s.modQueue s.me.sag q (fun x => { x with ring := rest, last := now }))
      | [] =>
        let s := s.modQueue s.me.sag q (fun x => { x with last := now })
        if nb then k 0 [] s
        else
          let who := s.myRef
          let uid := s.me.uid
          park (.ring q) ((s.modQueue s.me.sag q (fun x => { x with waiters := x.waiters ++ [(who, uid)] })).modMe
            (fun m => { m with stage := 10, work := [n] }))

/-- A `qpop` form (R202): pc, arg0, arg1 and arg2 go to d to d + 3, or four zeros. -/
def qpopForm (nb : Bool) (o : FmtUn) (s : State) : Out :=
  plain (srcOk o.x o.a && decide (o.d.toNat ≤ 28)) s (fun s => ordered s (fun s =>
    if s.me.stage = 0 && (List.range 4).any (fun i => s.me.owes (o.d.toNat + i)) then hold s
    else readSrc 0 o.a o.x s (fun a s => popRing nb 1 a s (fun _ ws s =>
      complete (s.modMe (fun m => (List.range 4).foldl (fun (m : Strand) i => m.setS (o.d.toNat + i) (ws.getD i 0)) m))))))

/-- `qpop` (R202). -/
def execQpop (o : FmtUn) (s : State) : Out := qpopForm false o s
/-- `qpop.nb` (R202). -/
def execQpopNb (o : FmtUn) (s : State) : Out := qpopForm true o s

/-- Writes popped entries into a vector register: entry j in lanes 16j to 16j + 7, every other lane 0 (R203). -/
def Strand.putEntries (m : Strand) (v : Nat) (ws : List Word) : Strand :=
  (List.range m.vl).foldl (fun (m : Strand) i =>
    m.setLane v i (if i % 16 < 8 then BitVec.ofNat 32 ((ws.getD (i / 16 * 4 + i % 16 / 2) 0).toNat / 2 ^ (i % 2 * 32)) else 0)) m

/-- A `qpopv` form (R203). -/
def qpopvForm (nb : Bool) (o : FmtA) (s : State) : Out :=
  plain (srcOk o.x o.a && srcOk o.y o.b && dstOk o.d) s (fun s => ordered s (fun s =>
    if s.me.stage = 0 && s.me.g = 0 then trapFree .noLanes s
    else if s.me.stage = 0 && (s.me.laneLoads ≠ 0 || !s.me.laneQ.isEmpty) then hold s
    else withDst o.d s (fun s => two o s (fun a b s => popRing nb s.me.g a s (fun n ws s =>
      finish o.d (word n) (s.modMe (fun m => m.putEntries (bitsOf b 0 5) ws)))))))

/-- `qpopv` (R203). -/
def execQpopv (o : FmtA) (s : State) : Out := qpopvForm false o s
/-- `qpopv.nb` (R203). -/
def execQpopvNb (o : FmtA) (s : State) : Out := qpopvForm true o s

/-- QUEUE_REFILL (R381): the head of the spill segment moves to the ring. -/
def execQueueRefill (sag q : Nat) (s : State) : Out :=
  match (s.sagAt sag).bind (fun g => Tbl.find g.queues q) with
  | some x =>
    match x.spill with
    | e :: t =>
      if x.ring.length < Config.ringEntries then
        .next (State.serveRing 1 (s.modQueue sag q (fun x => { x with ring := x.ring ++ [e], spill := t })) sag q)
      else .next s
    | [] => .next s
  | none => .next s

/-! Completion signals (R205 to R207). -/

/-- The checks of a signal operand: a dword-aligned global address (R205). -/
def signalAccess (kd : Acc) (a : Word) (s : State) (k : Place → State → Out) : Out :=
  if bitsOf a 60 4 ≠ 0 then trap .badAddress a s else access kd a 8 8 (fun _ => true) s k

/-- `signal` (R206): a release, then a non-returning add. -/
def execSignal (o : FmtTwo) (s : State) : Out :=
  plain (srcOk o.x o.a && srcOk o.y o.b) s (fun s => ordered s (fun s =>
    if !s.pendRoom then hold s
    else readSrc 0 o.a o.x s (fun a s => readSrc 1 o.b o.y s (fun b s =>
      signalAccess .update a s (fun p s => releasing (if offDevice p.loc then 3 else 2) s (fun s =>
        if s.crosses false (homeOf p.loc) p.loc 8 then hold s
        else sendWrite p 1 0 8 (.atomic .add b 0 false) s (fun s => complete s.addPend)))))))

/-- `swait` (R207): the home answers once the signal reaches the bound. -/
def execSwait (o : FmtA) (s : State) : Out :=
  plain (srcOk o.x o.a && srcOk o.y o.b && dstOk o.d) s (fun s => ordered s (fun s => withDst o.d s (fun s => two o s (fun a b s =>
    signalAccess .load a s (fun p s =>
      if s.parkedOverlap p.named 8 then holdOn p.named s
      else if !s.requestRoom 1 || s.crosses true (homeOf p.loc) p.loc 8 then hold s
      else awaitReply o.d.toNat (s.post 1 0 p.named p.loc 8 (homeOf p.loc) (.swait b)))))))

end Sys2Proof.Machine
end

