-- ==== Sys2Proof/Machine/Tables.lean ====
section
/-! DEFINITION. Page tables as the compositors and system software keep them (R386 to R395): edits, invalidations, the translation log, moves
and migration. -/

namespace Sys2Proof.Machine

/-! Entries and the log (R395). -/

/-- Logs an edit (0) or an invalidation (1) that a compositor made, with the cycles that strands spent on it (R395, log 1). -/
def State.logEdit (s : State) (sag va len comp kind stall : Nat) : State := { s with logRing := s.logRing ++ [⟨s.time, va, len, comp, sag, kind, stall⟩] }

/-- The compositors that run: those that have reported to stage 2 (R427, R428). -/
def State.compositors (s : State) : List Nat := if s.boot.stage = 2 then (List.range 8).filter (fun c => s.boot.reporting.getLsbD c) else []
/-- Whether a compositor runs. One that has not reported stays in reset and does nothing (R428). -/
def State.compUp (s : State) (comp : Nat) : Bool := s.compositors.contains (comp % 8)
/-- The compositor that acts where the spec names none: a free one of those that run (log 1). -/
def State.someCompositor (s : State) : Nat × State := (s.compositors.getD (bitsOf s.draw.1 0 32 % max s.compositors.length 1) 0, s.draw.2)

/-- Who edits a table, and for which saggar and address (R395). -/
structure Edit where
  (comp sag va : Nat)
  deriving DecidableEq, Repr

/-- Logs an edit of an entry that maps 2^bits bytes. -/
def Edit.log (e : Edit) (bits stall : Nat) (s : State) : State := s.logEdit e.sag (e.va / 2 ^ bits * 2 ^ bits) (2 ^ bits) e.comp 0 stall

/-- A write that is dropped counts in the saggar whose grant holds its place (R418, log 66). -/
def State.countDrop (s : State) (loc : Nat) : State :=
  { s with saggars := s.saggars.map (fun (g : Nat × Saggar) => (g.1,
      if g.2.cfg.grantBase ≤ loc && decide (loc < g.2.cfg.grantBase + g.2.cfg.grantLen) then
        { g.2 with counters := { g.2.counters with droppedWrite := sat1 g.2.counters.droppedWrite } } else g.2)) }

/-- Writes a table entry, at a home that it wakes (R442): a whole word, so it is no longer poisoned (R178); on a fenced pseudo-channel the write is dropped and
counted (R420). -/
def State.setPte (s : State) (loc : Nat) (v : Word) : State :=
  if s.fenced loc then s.countDrop loc else ((s.wakeHome (homeOf loc)).setDword loc v).clearPoison loc 8

/-- Whether an edit of the entries that map va must wait for the reload of a repair table (R419): those of a 2 MiB page lie in 256 bytes. -/
def State.editBusy (s : State) (sag va : Nat) : Bool :=
  s.repair.any (fun r => !r.2.struck.isEmpty) &&
    (match s.sagAt sag with | some g => (s.walkReads g.cfg.root va).any (fun l => s.tableWaits (l / 256 * 256) 256) | none => false)

/-- The table that the pointer entry at a location names (R387); where the entry is not valid and a frame is at hand, it is made to point at that, one edit
of the 2^bits bytes it maps. A valid 1 GiB leaf is not replaced by a table. -/
def State.pointerAt (s : State) (e : Edit) (bits loc : Nat) (frames : List Nat) : Option (Nat × State × List Nat) :=
  let w := s.pte loc
  if w.getLsbD 0 && decide (bitsOf w 1 15 = 0) && decide (bitsOf w 56 8 = 0) then some (bitsOf w 16 40, s, frames)
  else if bits = 30 && w.getLsbD 0 && w.getLsbD 10 && decide (bitsOf w 12 4 = 0) then none
  else
    match frames with
    | f :: t => some (f, e.log bits 0 (s.setPte loc (word (f * 65536 + 1))), t)
    | [] => none

/-- Writes the leaf entries of a page of 2^bits bytes (R386): one at level 3 or 4, or the 32 of a 2 MiB page; one edit. Missing tables take the given
frames. -/
def State.writeLeaf (s : State) (e : Edit) (root bits stall : Nat) (leaf : Word) (frames : List Nat) : Option (State × List Nat) :=
  match s.pointerAt e 48 (root * 65536 + e.va / 2 ^ 48 % 512 * 8) frames with
  | none => none
  | some (f2, s, frames) =>
    match s.pointerAt e 39 (f2 * 65536 + e.va / 2 ^ 39 % 512 * 8) frames with
    | none => none
    | some (f3, s, frames) =>
      let l3 := f3 * 65536 + e.va / 2 ^ 30 % 512 * 8
      if bits = 30 then some (e.log bits stall (s.setPte l3 (withBits leaf 10 1 1)), frames)
      else
        match s.pointerAt e 30 l3 frames with
        | none => none
        | some (f4, s, frames) =>
          let first := e.va / 2 ^ 16 % 2 ^ 14
          if bits = 21 then
            some (e.log bits stall ((List.range 32).foldl (fun (s : State) i => s.setPte (f4 * 65536 + (first / 32 * 32 + i) * 8) (withBits leaf 9 1 1)) s), frames)
          else some (e.log bits stall (s.setPte (f4 * 65536 + first * 8) leaf), frames)

/-- The leaf of va in a saggar and log2 of its page size, if the walk reaches a level that may hold one. -/
def State.leafOf (s : State) (sag va : Nat) : Option (Word × Nat) :=
  match s.sagAt sag with
  | some g => match walk s g.cfg.root va with | .ok (some (_, leaf, bits)) => some (leaf, bits) | _ => none
  | none => none

/-- Whether a leaf counts as valid (R387). -/
def leafValid (leaf : Word) : Bool := leaf.getLsbD 0 && decide (bitsOf leaf 12 4 = 0)

/-- Rewrites the leaf of a page (R386: every entry of it). -/
def State.setLeaf (s : State) (e : Edit) (stall : Nat) (f : Word → Word) : State :=
  match s.sagAt e.sag, s.leafOf e.sag e.va with
  | some g, some (leaf, bits) => match s.writeLeaf e g.cfg.root bits stall (f leaf) [] with | some (s, _) => s | none => s
  | _, _ => s

/-! Invalidation (R142, R390, R395). -/

/-- Drops every TLB entry of a saggar that maps a byte of [lo, hi). -/
def State.tlbInvalidate (s : State) (sag lo hi : Nat) : State :=
  let keep := fun (e : Tlb) => !(decide (e.sag = sag) && decide (e.va < hi) && decide (lo < e.va + 2 ^ e.bits))
  { s with clusters := s.clusters.map (fun (c : Nat × Cluster) => (c.1, { c.2 with tlb := c.2.tlb.filter keep })),
           dies := s.dies.map (fun (d : Nat × Die) => (d.1, { d.2 with tlb := d.2.tlb.filter keep })) }

/-- A compositor invalidates [lo, lo + n) of a saggar, and logs it. -/
def State.invalidate (s : State) (sag lo n comp : Nat) : State := (s.tlbInvalidate sag lo (lo + n)).logEdit sag lo n comp 1 0

/-! Edits (R386, R388, R393). -/

/-- Whether a lease reaches into [lo, lo + n). -/
def leaseMeets (l : Lease) (lo n : Nat) : Bool := decide (l.base < lo + n) && decide (lo < l.base + l.len)

/-- Whether a lease of a dispatched task holds a byte of [lo, lo + n) (R393). -/
def Saggar.leaseHolds (g : Saggar) (lo n : Nat) : Bool := g.tasks.any (fun t => decide (t.st ≠ .ready) && t.leases.any (fun l => leaseMeets l lo n))

/-- Whether a new leaf for a page of 2^bits bytes leaves every page of a live lease mapped and in its frame (R393, R394). -/
def State.keepsLeases (s : State) (g : Saggar) (sag lo bits : Nat) (leaf : Word) : Bool :=
  !g.leaseHolds lo (2 ^ bits) || (List.range (2 ^ bits / 65536)).all (fun i =>
    let va := lo + i * 65536
    !g.leaseHolds va 65536 || (match s.leafOf sag va with
      | some (old, b) => !leafValid old || (leafValid leaf && decide (leafLoc leaf bits va = leafLoc old b va))
      | none => true))

/-- Ready tasks with a lease in [lo, lo + n) have their residency looked at again (R393). -/
def Saggar.unsettle (g : Saggar) (lo n : Nat) : Saggar :=
  { g with tasks := modIf g.tasks (fun t => decide (t.st = .ready) && t.leases.any (fun l => leaseMeets l lo n)) (fun t => { t with resident := false }) }

/-- PAGE_TABLE_EDIT (R386, R393, R395): a compositor that runs writes a leaf entry; the tables above it exist. A leaf with PS = 1 is one of a 2 MiB page, all
of whose entries are written. The edit neither unmaps nor moves a page of a live lease. -/
def execPageTableEdit (comp sag : Nat) (p : PageRec) (s : State) : Out :=
  match s.sagAt sag with
  | some g =>
    let bits := if p.big || p.leaf.getLsbD 9 then 21 else if p.leaf.getLsbD 10 then 30 else 16
    let lo := p.va / 2 ^ bits * 2 ^ bits
    if !s.compUp comp || s.editBusy sag p.va || !s.keepsLeases g sag lo bits p.leaf then .next s
    else
      match s.writeLeaf ⟨comp % 8, sag, p.va⟩ g.cfg.root bits 0 p.leaf [] with
      | some (s, _) => .next (s.modSag sag (fun g => g.unsettle lo (2 ^ bits)))
      | none => .next s
  | none => .next s

/-- D is set in every TLB entry that maps va for a saggar, as the compositors set it in the table (R388). -/
def State.dirtyTlbs (s : State) (sag va : Nat) : State :=
  let f := fun (t : List Tlb) => modIf t (fun e => e.maps sag va) (fun e => { e with leaf := withBits e.leaf 4 1 1 })
  { s with clusters := s.clusters.map (fun (c : Nat × Cluster) => (c.1, { c.2 with tlb := f c.2.tlb })),
           dies := s.dies.map (fun (d : Nat × Die) => (d.1, { d.2 with tlb := f d.2.tlb })) }

/-- DIRTY_LOG_SERVICE (R388): a compositor that runs sets D of a page that took a dirty-log fault, and its parked stores may retry. -/
def execDirtyLogService (comp sag va : Nat) (s : State) : Out :=
  match s.leafOf sag va with
  | some (leaf, _) =>
    if s.compUp comp && !s.editBusy sag va && leafValid leaf && !leaf.getLsbD 4 then .next ((s.setLeaf ⟨comp % 8, sag, va⟩ 0 (fun w => withBits w 4 1 1)).dirtyTlbs sag va) else .next s
  | none => .next s

/-! Copies of frames (R393, R394). -/

/-- Moves the keys of [lo, lo + n) in a table to [to, to + n), replacing what was there. -/
def moveKeys {α : Type} (t : List (Nat × α)) (lo n dst : Nat) : List (Nat × α) :=
  (t.filter (fun e => decide (lo ≤ e.1) && decide (e.1 < lo + n))).foldl (fun t e => Tbl.put t (e.1 - lo + dst) e.2)
    (t.filter (fun e => !(decide (dst ≤ e.1) && decide (e.1 < dst + n))))

/-- A word of DRAM becomes poisoned, with F = 0. -/
def State.voidWord (s : State) (l : Nat) : State := ((s.setDword l 0).setPoison l true).setFull l false

/-- One atom of a copy on fenced pseudo-channels (R420), after the copy of the rest: a fenced source reads as poison, with F = 0; a write to a fenced destination is
dropped and counted, and what stood there stays. -/
def State.copyFenced (old : State) (lo dst : Nat) (s : State) (j : Nat) : State :=
  let a := lo + 32 * j
  let b := dst + 32 * j
  if s.fenced b then (s.setBytes b (old.bytes b 32)).countDrop b
  else if s.fenced a then
    (List.range 4).foldl (fun (s : State) i => s.voidWord (b + 8 * i)) s
  else s

/-- Copies n bytes of memory, read and written with the key of an id (R424), with their full/empty and poison bits: the reads of the copy meet the errors of
their words (R417), and atoms on fenced pseudo-channels are as R420 says. -/
def State.copyFrame (s : State) (lo n dst id : Nat) : State :=
  let s := s.viewUnder lo n id
  let s := (s.errs.filter (fun e => decide (lo ≤ e.1) && decide (e.1 < lo + n))).foldl (fun (s : State) e => s.meetWord e.1) s
  let t := { s with mem := moveKeys s.mem lo n dst, full := moveKeys s.full lo n dst, poison := moveKeys s.poison lo n dst, sealed := moveKeys s.sealed (lo / 32) (n / 32) (dst / 32),
                    errs := s.errs.filter (fun e => !(decide (dst ≤ e.1) && decide (e.1 < dst + n))) }
  if s.repair.all (fun r => r.2.fence.isEmpty) then t else (List.range (n / 32)).foldl (State.copyFenced s lo dst) t

/-- A leaf that names another frame, in a tier. -/
def leafAt (leaf : Word) (tier frame : Nat) : Word := withBits (withBits leaf 6 2 tier) 16 40 frame

/-- Whether a write to one of n bytes from a location is still on its way to them: in flight, in an engine job, or on its way through a port (R292, R394). -/
def State.writesTo (s : State) (loc n : Nat) : Bool :=
  s.net.any (fun m => decide (m.loc < loc + n) && decide (loc < m.loc + m.size) && (match m.body with | .load _ => false | _ => true)) ||
  s.clusters.any (fun c => c.2.jobs.any (fun j => j.writes.any (fun w => decide (loc ≤ w.loc) && decide (w.loc < loc + n)))) ||
  s.dies.any (fun d => (s.portWrites d.1).any (fun w => decide (w.loc < loc + n) && decide (loc < w.loc + w.bytes.length)))

/-- PAGE_MOVE (R394), by a compositor that runs: the four steps of a move inside a live lease, in order and with one frame; the copy waits for the writes that are on their way (log 103) and for the
reload of a repair table (R419), and the last step's record holds the stall of the move (R395). -/
def execPageMove (comp sag va part frame : Nat) (s : State) : Out :=
  match s.sagAt sag, s.leafOf sag va with
  | some g, some (leaf, bits) =>
    let lo := va / 2 ^ bits * 2 ^ bits
    let e : Edit := ⟨comp % 8, sag, va⟩
    let was := (g.moves.find? (fun m => m.lo = lo)).map (fun m => (m.part, m.frame, m.stall))
    if !s.compUp comp || (decide (part ≠ 2) && s.editBusy sag va) then .next s else
    let note := fun (s : State) (f : PageMove → PageMove) => s.modSag sag (fun g => { g with moves := modIf g.moves (fun m => m.lo = lo) f })
    match part, was with
    | 1, none =>
      if !leafValid leaf then .next s
      else .next (((s.setLeaf e 0 (fun w => withBits w 2 1 0)).invalidate sag lo (2 ^ bits) (comp % 8)).modSag sag (fun g => { g with moves := g.moves ++ [⟨lo, bits, 1, 0, 0⟩] }))
    | 2, some (1, _, _) =>
      let src := leafLoc leaf bits lo
      let dst := leafLoc (leafAt leaf (bitsOf leaf 6 2) frame) bits lo
      if s.writesTo src (2 ^ bits) || s.tableWaits src (2 ^ bits) || s.tableWaits dst (2 ^ bits) || !tierHas (dst + 2 ^ bits - 1) then .next s
      else .next (note (s.copyFrame src (2 ^ bits) dst (bitsOf leaf 56 8)) (fun m => { m with part := 2, frame := frame }))
    | 3, some (2, f, _) =>
      if frame ≠ f then .next s
      else .next (note ((s.setLeaf e 0 (fun w => withBits (leafAt w (bitsOf w 6 2) f) 2 1 0)).invalidate sag lo (2 ^ bits) (comp % 8)) (fun m => { m with part := 3 }))
    | 4, some (3, _, stall) =>
      .next ((s.setLeaf e stall (fun w => withBits w 2 1 1)).modSag sag (fun g => { g with moves := g.moves.filter (fun m => m.lo ≠ lo) }))
    | _, _ => .next s
  | _, _ => .next s

/-- Whether a strand is parked or out of the rotation on an access that a move holds: one behind a parked store, a store for which the replay queue has no
room, a release or fence that waits for the replay queue to empty, or a parked operation whose reply or performance it awaits (R175, R192, R394, R395). -/
def State.heldBy (s : State) (c k sag : Nat) (p : PageMove) : Bool :=
  let m := s.strandAt c k
  let meets := fun (va : Nat) => decide (p.lo ≤ va) && decide (va < p.lo + 2 ^ p.bits)
  let mine := fun (x : Msg) => decide (x.uid = m.uid) && decide (x.core = c) && meets x.va
  let returns := fun (x : Msg) => match x.body with | .atomic _ _ _ true | .fe .fill _ | .claim .. | .commit .. => true | _ => false
  m.live && decide (m.sag = sag) && (m.jammed || decide (m.status ≠ .ready)) &&
    ((decide (m.status = .held) && m.heldOn.any meets) ||
     s.net.any (fun x => mine x && (if x.body.parks then m.jammed && s.mustPark x else s.behindParked x)) ||
     (s.coreAt c).replay.any (fun r => r.msgs.any (fun x => mine x && returns x)))

/-- Core cycles pass for a core: the moves under way count those that its strands spend on them (R395). -/
def State.stallTick (s : State) (c cycles : Nat) : State :=
  { s with saggars := s.saggars.map (fun g => (g.1, { g.2 with moves := g.2.moves.map (fun p =>
      { p with stall := min (p.stall + cycles * ((List.range 16).filter (fun k => s.heldBy c k g.1 p)).length) (2 ^ 40 - 1) }) })) }

/-! Writes from outside (R371, R411, R412). -/

/-- Bytes written from outside the cores, at their homes: those on a fenced pseudo-channel are dropped, and the write is counted (R418, R420). -/
def State.outsideWrite (s : State) (loc : Nat) (bs : List Byte) : State :=
  match (List.range bs.length).find? (fun i => s.fenced (loc + i)) with
  | none => ((s.setBytes loc bs).clearPoison loc bs.length).changed loc bs.length
  | some i =>
    let t := (List.range bs.length).foldl (fun (t : State) j => if s.fenced (loc + j) then t else t.setByte (loc + j) (bs.getD j 0)) s
    ((t.clearPoison loc bs.length).countDrop (loc + i)).changed loc bs.length

/-! Residency of leases (R393). -/

/-- The first address of each 64 KiB granule of a lease. -/
def Lease.granules (l : Lease) : List Nat :=
  if l.len = 0 then [] else (List.range ((l.base + l.len - 1) / 65536 - l.base / 65536 + 1)).map (fun i => (l.base / 65536 + i) * 65536)

/-- Whether va lies in the default heap window of a saggar (R393, R396). -/
def Saggar.inHeap (g : Saggar) (va : Nat) : Bool :=
  let base := bitsOf g.cfg.heapb 16 41 * 65536
  decide (base ≤ va) && decide (va < base + bitsOf g.cfg.heapl 16 41 * 65536)
/-- The location of va in the default heap window of a saggar (R384). -/
def Saggar.heapLoc (g : Saggar) (va : Nat) : Nat := bitsOf g.cfg.heapo 16 40 * 65536 + (va - bitsOf g.cfg.heapb 16 41 * 65536)

/-- Makes one page resident (R393): none when the dispatch must wait, also for a stack that is not trained (R431). A page that a live lease holds is not
migrated. -/
def State.residePage (s : State) (sag va : Nat) (m : List MigrateRec) : Option State :=
  match s.sagAt sag with
  | none => none
  | some g =>
    let trained := fun (stack : Nat) => s.bringup.getLsbD (12 + stack)
    if g.inHeap va then (if trained (stackOf (g.heapLoc va)) then some s else none)
    else
      match s.leafOf sag va with
      | none => none
      | some (leaf, bits) =>
        let tier := bitsOf leaf 6 2
        if !leafValid leaf || (decide (tier = 0) && !trained (stackOf (leafLoc leaf bits va))) then none
        else if tier = 0 || tier = 3 || leaf.getLsbD 11 then some s
        else
          match m.find? (fun x => x.va / 2 ^ bits = va / 2 ^ bits) with
          | none => none
          | some x =>
            let lo := va / 2 ^ bits * 2 ^ bits
            let src := leafLoc leaf bits lo
            let dst := leafLoc (leafAt leaf 0 x.frame) bits lo
            if Config.hbmBytes < dst + 2 ^ bits || g.leaseHolds lo (2 ^ bits) || s.writesTo src (2 ^ bits) || !trained (stackOf dst) || s.editBusy sag va ||
              s.tableWaits dst (2 ^ bits) then none
            else
              let (comp, s) := s.someCompositor
              some (((s.copyFrame src (2 ^ bits) dst (bitsOf leaf 56 8)).setLeaf ⟨comp, sag, va⟩ 0 (fun w => leafAt w 0 x.frame)).invalidate sag lo (2 ^ bits) comp)

/-- Makes pages resident one by one. -/
def State.resideAll (sag : Nat) (m : List MigrateRec) : List Nat → State → Option State
  | [], s => some s
  | va :: t, s => match s.residePage sag va m with | some s => State.resideAll sag m t s | none => none

end Sys2Proof.Machine
end

