-- ==== Sys2Proof/Machine/Fabric.lean ====
section
/-! DEFINITION. The host port (R411), Itric links and peer channels (R412 to R414, R430). -/

namespace Sys2Proof.Machine

/-! Accesses from outside. -/

/-- Whether n bytes of HBM touch a kernel-reserved frame, which no fabric port reaches (R389). -/
def State.krTouched (s : State) (loc n : Nat) : Bool := s.krMap.any (fun f => decide (f * 65536 < loc + n) && decide (loc < (f + 1) * 65536))

/-- An access from outside to n bytes of HBM wakes every die whose stacks it reaches, from any power state (R442). -/
def State.wakeStacks (s : State) (loc n : Nat) : State :=
  (List.range 4).foldl (fun (s : State) d =>
    if decide ((s.dieAt d).power ≠ 0) && (List.range n).any (fun i => decide (stackOf (loc + i) / 3 = d)) then s.modDie d (fun d => { d with power := 0 }) else s) s

/-- HOST_PORT_ACCESS (R389, R411, R417, R431, R442): the host writes or reads a range of HBM exposed to it, once the port is up, or its own memory. A read
meets the errors of its words as a device-scope load does, answers the host and changes nothing else here; an access to a pseudo-channel that reloads its
repair table waits, and comes again (R419, R426). A configuration request before the port is up completes with a retry status (code 4). -/
def execHostPortAccess (h : HostAccess) (s : State) : Out :=
  if h.config then .next (if s.bringup.getLsbD 4 then s else { s with completions := s.completions ++ [(0, 4)] })
  else if h.hdm then
    let n := if h.write then h.bytes.length else h.len
    if !s.bringup.getLsbD 4 || decide (Config.hbmBytes < h.addr + n) || s.krTouched h.addr n || s.tableWaits h.addr n then .next s
    else
      let s := s.wakeStacks h.addr n
      .next (if h.write then s.outsideWrite h.addr h.bytes else s.meet h.addr n)
  else if h.write then .next ((s.setBytes (spaceBase 2 + h.addr % 2 ^ 56) h.bytes).changed (spaceBase 2 + h.addr % 2 ^ 56) h.bytes.length)
  else .next s

/-! Itric (R412). -/

/-- Changes the record of a (port, peer) pair. -/
def State.modPeer (s : State) (port peer : Nat) (f : Peer → Peer) : State :=
  { s with peers := modIf s.peers (fun p => decide (p.port = port) && decide (p.peer = peer)) f }

/-- The record of a (port, peer) pair. -/
def State.peerAt (s : State) (port peer : Nat) : Option Peer := s.peers.find? (fun p => decide (p.port = port) && decide (p.peer = peer))

/-- Whether a message may be performed: its channel's generation is the present one, and it may reach its place (R389, R414). -/
def State.acceptOk (s : State) (p : Peer) (m : FabricMsg) : Bool :=
  decide (m.gen = p.gen) && decide (m.addr + m.size ≤ Config.hbmBytes) && !s.krTouched m.addr m.size

/-- Whether a message in sequence waits for the reload of a repair table (R419, R426). -/
def State.acceptWaits (s : State) (p : Peer) (m : FabricMsg) : Bool := s.acceptOk p m && s.tableWaits m.addr m.size

/-- A message accepted in sequence is performed at its home. A read meets the errors of its words and is answered, dead words as 0 (R178, R417, R420). -/
def State.serveMsg (s : State) (p : Peer) (m : FabricMsg) : State :=
  let s := s.wakeStacks m.addr m.size
  match m.body with
  | .write bs => s.outsideWrite m.addr bs
  | .read n =>
    let s := s.meet m.addr n
    let bs := (List.range n).map (fun i => if s.dead (m.addr + i) then 0 else s.byte (m.addr + i))
    s.modPeer p.port p.peer (fun p => { p with answers := p.answers ++ [(m.seq, bs)] })

/-- A message accepted in sequence is performed and acknowledged (R412); one with another generation, or to a frame that it may not reach, is dropped and answered with
an error completion, a write among them counted (R389, R414, R418, log 66). -/
def State.acceptMsg (s : State) (p : Peer) (m : FabricMsg) : State :=
  let ok := s.acceptOk p m
  let write := match m.body with | .write _ => true | .read _ => false
  let s := s.modPeer p.port p.peer (fun p => { p with
    recvSeq := (p.recvSeq + 1) % 2 ^ 32, acked := if ok then p.acked ++ [m.seq] else p.acked, refused := if ok then p.refused else p.refused ++ [m.seq],
    dropped := if ok || !write then p.dropped else sat1 p.dropped })
  if ok then s.serveMsg p m else if write then s.countDrop m.addr else s

/-- Performs the held messages that have come into sequence, up to one that waits. -/
def State.acceptHeld (port peer : Nat) : Nat → State → State
  | 0, s => s
  | n + 1, s =>
    match s.peerAt port peer with
    | some p =>
      match p.heldMsgs.find? (fun m => decide (m.seq = p.recvSeq)) with
      | some m => if s.acceptWaits p m then s else State.acceptHeld port peer n ((s.modPeer port peer (fun p => { p with heldMsgs := p.heldMsgs.filter (fun x => decide (x.seq ≠ m.seq)) })).acceptMsg p m)
      | none => s
    | none => s

/-- FABRIC_MESSAGE_RECEIVE (R412, R414): in sequence it is performed; ahead of sequence, or while its place waits for a repair table (R419), it is held while fewer than
4,096 are; and one already accepted is dropped and answered again as before. -/
def execFabricMessageReceive (m : FabricMsg) (s : State) : Out :=
  match s.peerAt m.port m.peer with
  | none => .next s
  | some p =>
    let ahead := (m.seq + 2 ^ 32 - p.recvSeq) % 2 ^ 32
    let known := p.heldMsgs.any (fun x => decide (x.seq = m.seq))
    if ahead = 0 && !known && !s.acceptWaits p m then .next (State.acceptHeld m.port m.peer p.heldMsgs.length (s.acceptMsg p m))
    else if ahead < 2 ^ 31 then
      if known || decide (4096 ≤ p.heldMsgs.length) then .next s
      else .next (s.modPeer m.port m.peer (fun p => { p with heldMsgs := p.heldMsgs ++ [m] }))
    else .next (s.modPeer m.port m.peer (fun p =>
      if p.refused.contains m.seq then { p with refused := p.refused ++ [m.seq] } else { p with acked := p.acked ++ [m.seq] }))

/-- The k-th access sent to a peer leaves the network, performed by the peer or completed with an error (R412, R413). -/
def State.accessDone (s : State) (id : Nat) (ok : Bool) : State :=
  match s.net.find? (fun m => m.id = id) with
  | some m =>
    let t : State := { s with net := s.net.filter (fun x => x.id ≠ id) }
    if ok then t.perform m ⟨false, false⟩ else t.failMsg m
  | none => s

/-- An error completion is told to the compositors (R413). -/
def State.tell (s : State) (port peer : Nat) : State := s.modPeer port peer (fun p => { p with told := p.told + 1 })

/-- FABRIC_ACK (R412 to R414): a peer answers the oldest message that it has not answered: it has performed it, or it sends an error completion. A peer performs
messages in sequence, so that an answer to a later one comes later (log 106). -/
def execFabricAck (port peer seq : Nat) (s : State) : Out :=
  let ok := decide (seq / 2 ^ 32 % 2 = 0)
  match (s.peerAt port peer).map (·.unacked) with
  | some (u :: rest) =>
    if u.seq ≠ seq % 2 ^ 32 then .next s
    else
      let s := s.modPeer port peer (fun p => { p with unacked := rest })
      match u.body with
      | .write w => .next (if ok then (s.setBytes w.loc w.bytes).changed w.loc w.bytes.length else s.tell port peer)
      | .access id => .next (s.accessDone id ok)
  | _ => .next s

/-! Links (R413, R430). -/

/-- LINK_UP (R430): the link serves a (port, peer) pair, and its bit is set. -/
def execLinkUp (link port peer : Nat) (s : State) : Out :=
  if 24 ≤ link then .next s
  else
    let s : State := { s with bringup := s.bringup ||| word (2 ^ (24 + link)) }
    match s.peerAt port peer with
    | some _ => .next (s.modPeer port peer (fun p => { p with links := if p.links.contains link then p.links else p.links ++ [link] }))
    | none => .next { s with peers := s.peers ++ [⟨port, peer, 0, 0, 0, [], [], [], [], [link], 0, 0, 0, []⟩] }

/-- All paths to a peer have failed: what is outstanding to it completes with an error, of which the compositors are told (R413). -/
def State.failPeer (s : State) (p : Peer) : State :=
  let msgs := s.net.filter (fun m => p.reaches m.loc) ++ (s.waiters.filter (fun w => p.reaches w.msg.loc)).map (·.msg)
  let gone := (s.dies.map (fun d => (d.2.pwb.filter (fun w => p.reaches w.loc)).length)).foldl (· + ·) 0 +
    (p.unacked.filter (fun u => match u.body with | .access _ => false | _ => true)).length
  let s : State := { s with
    net := s.net.filter (fun m => !p.reaches m.loc), waiters := s.waiters.filter (fun w => !p.reaches w.msg.loc),
    dies := s.dies.map (fun (d : Nat × Die) => (d.1, { d.2 with pwb := d.2.pwb.filter (fun w => !p.reaches w.loc) })) }
  (msgs.foldl State.failMsg s).modPeer p.port p.peer (fun p => { p with unacked := [], told := p.told + gone })

/-- LINK_FAILURE (R413, R430): the link's bit clears. Unacknowledged messages go again over another link, with no effect that can be seen here; where no link
is left they complete with an error. -/
def execLinkFailure (link : Nat) (s : State) : Out :=
  if 24 ≤ link then .next s
  else
    let hit := s.peers.filter (fun p => p.links.contains link)
    let s : State := { s with
      bringup := withBits s.bringup (24 + link) 1 0,
      peers := s.peers.map (fun p => { p with links := p.links.filter (· ≠ link) }) }
    .next ((hit.filter (fun p => p.links.all (· = link))).foldl State.failPeer s)

/-- The locations of the valid entries among the first n of a table at a frame. -/
def State.validAt (s : State) (frame n : Nat) : List Nat :=
  (s.mem.filter (fun c => decide (frame * 65536 ≤ c.1) && decide (c.1 < frame * 65536 + 8 * n) && decide (c.1 % 8 = 0) && c.2.getLsbD 0)).map (·.1)

/-- The valid leaves of a table tree, each with log2 of its page size (R386, R387). -/
def State.leaves (s : State) (root : Nat) : List (Word × Nat) :=
  let pointer := fun (e : Word) => e.getLsbD 0 && decide (bitsOf e 1 15 = 0) && decide (bitsOf e 56 8 = 0)
  let down := fun (frame n : Nat) => (s.validAt frame n).map s.pte
  (down root 512).flatMap (fun e1 => if !pointer e1 then [] else (down (bitsOf e1 16 40) 512).flatMap (fun e2 => if !pointer e2 then [] else
    (down (bitsOf e2 16 40) 512).flatMap (fun e3 =>
      if e3.getLsbD 10 then (if leafValid e3 then [(e3, 30)] else [])
      else if !pointer e3 then [] else ((down (bitsOf e3 16 40) 16384).filter leafValid).map (fun e4 => (e4, if e4.getLsbD 9 then 21 else 16)))))

/-- Whether a page of some saggar lies on a peer channel (R414). -/
def State.channelMapped (s : State) (p : Peer) : Bool :=
  s.saggars.any (fun g => (s.leaves g.2.cfg.root).any (fun l =>
    decide (bitsOf l.1 6 2 = 3) && (List.range (2 ^ (l.2 - 16))).any (fun i => p.reaches (leafLoc l.1 l.2 (65536 * i)))))

/-- PEER_CHANNEL_RETIRE (R393, R414): by a compositor that runs. First the channel's pages are unmapped and invalidated, once no live lease holds one; then, once
no page of any saggar lies on it and nothing of it is outstanding, its generation advances. -/
def execPeerChannelRetire (comp sag port peer : Nat) (pages : List Nat) (s : State) : Out :=
  match (if s.compUp comp then s.sagAt sag else none), s.peerAt port peer with
  | some g, some p =>
    let mapped := pages.filterMap (fun va =>
      match s.leafOf sag va with
      | some (leaf, bits) => if leafValid leaf && p.reaches (leafLoc leaf bits va) then some (va, va / 2 ^ bits * 2 ^ bits, 2 ^ bits) else none
      | none => none)
    if mapped.any (fun x => g.leaseHolds x.2.1 x.2.2 || s.editBusy sag x.1) then .next s
    else if !mapped.isEmpty then
      .next (mapped.foldl (fun (s : State) x =>
        ((s.setLeaf ⟨comp % 8, sag, x.1⟩ 0 (fun w => withBits w 0 1 0)).invalidate sag x.2.1 x.2.2 (comp % 8)).modSag sag (fun g => g.unsettle x.2.1 x.2.2)) s)
    else if s.channelMapped p || !p.unacked.isEmpty || s.net.any (fun m => p.reaches m.loc) || s.dies.any (fun d => d.2.pwb.any (fun w => p.reaches w.loc)) then .next s
    else .next (s.modPeer port peer (fun p => { p with gen := (p.gen + 1) % 65536 }))
  | _, _ => .next s

end Sys2Proof.Machine
end

