-- ==== Sys2Proof/Machine/Boot.lean ====
section
/-! DEFINITION. Device reset and boot (R427 to R431), measurements and keys (R424, R425), repair tables (R419, R420). -/

namespace Sys2Proof.Machine

/-! Reset and boot. -/

/-- DEVICE_RESET (R6, R427): everything is as at reset but for the one-time fuses and the flash, which a reset does not touch (R428, R429); host and peer memory
lie outside the device, and the schedule is an input. -/
def execDeviceReset (s : State) : Out :=
  .next { State.reset with agenda := s.agenda, free := s.free, serial := s.serial, mem := s.mem.filter (fun c => offDevice c.1), fuses := s.fuses, flashChain := s.flashChain }

/-- A bit field of BRINGUP. -/
def bringBits (lo n v : Nat) : Word := word (v % 2 ^ n * 2 ^ lo)

/-- The BRINGUP bits of the units found ready (R430, R431): each is set once and stays, and none waits for another. Memory is trained by stage 1 (R428). -/
def bootReady (b : BootRec) (runs : Bool) : Word :=
  (if runs then bringBits 12 12 b.hbm.toNat ||| bringBits 11 1 b.lps.toNat ||| bringBits 10 1 b.lpn.toNat else 0) ||| bringBits 6 4 b.dies.toNat |||
    bringBits 5 1 b.eth.toNat ||| bringBits 4 1 b.host.toNat ||| bringBits 0 1 runs.toNat

/-- A unit found ready sets its bit, and a stack's repair tables are loaded with their shadow copy before its bit is set (R419, R428, R430). The units of R428's
stage 1 are brought up once a stage of the firmware runs. -/
def State.unitsUp (s : State) (b : BootRec) : State :=
  let runs := decide (s.boot.stage = 1) || decide (s.boot.stage = 2)
  let load := fun (r : List (Nat × Repair)) (e : Nat × List (Nat × Word)) =>
    if runs && decide (e.1 < 12) && b.hbm.getLsbD e.1 && !s.bringup.getLsbD (12 + e.1) then Tbl.upd r e.1 Repair.init (fun x => { x with tables := e.2, shadow := e.2 }) else r
  { s with repair := b.tables.foldl load s.repair, bringup := s.bringup ||| bootReady b runs }

/-- Whether a stage's signature verifies under a public key whose digest the fuses hold (R428). -/
@[irreducible] def State.verifies (s : State) (key stage sig : List Byte) : Bool := decide (sha256 key = s.fuses.digest) && lmsVerify key stage sig

/-- Whether stage 1 of an image verifies. -/
def State.image1Ok (s : State) (i : Option FirmImage) : Bool := match i with | some i => s.verifies i.key i.stage1 i.sig1 | none => false

/-- Whether stage 2 of the image that boots verifies. -/
def State.image2Ok (s : State) : Bool := match s.boot.image with | some i => s.verifies i.key i.stage2 i.sig2 | none => false

/-- A byte string as the content of a measurement block. -/
def blockOf (bs : List Byte) : List Nat := bs.map (·.toNat)

/-- The records of blocks 1, 2 and 4 that the ROM makes before it runs stage 1 (R429). -/
def State.romMeasures (s : State) (b : BootRec) (source : Nat) (stage1 : List Byte) : List MeasureRec :=
  [⟨1, b.version :: blockOf (s.fuses.digest ++ s.fuses.chain)⟩, ⟨2, blockOf (sha256 stage1)⟩, ⟨4, if source = 0 then [0] else [source, b.server]⟩]

/-- The ROM starts stage 1 of an image, which carries the key policy with it (log 116). -/
def State.runStage1 (s : State) (b : BootRec) (source : Nat) (image : Option FirmImage) : State :=
  let bytes := match image with | some i => i.stage1 | none => []
  { s with boot := { s.boot with stage := 1, source := source, image := image, measures := s.romMeasures b source bytes, policy := b.policy } }

/-- The ROM tries its sources (R427): the flash image unless it is absent or has failed R428, then the network's. When both fail boot stops, and the boot status
word holds the source tried last and stage 1 (log 116). -/
def State.romTries (s : State) (b : BootRec) : State :=
  if !s.boot.flashFailed && s.image1Ok b.flash then s.runStage1 b 0 b.flash
  else if s.image1Ok b.net then s.runStage1 b 1 b.net
  else { s with boot := { s.boot with stage := 3, source := 1, flashFailed := true, status := (1, 1) } }

/-- BOOT_STAGE_1 (R427 to R431): the ROM tries its sources, and each function that is ready sets its bit; one that becomes ready later sets its bit at a further
event. -/
def execBootStage1 (b : BootRec) (s : State) : Out :=
  .next ((if b.rom && decide (s.boot.stage = 0) then s.romTries b else s).unitsUp b)

/-- The image's stage 2 has failed R428: the ROM takes the second source where the flash image failed; else both have failed, and boot stops (R427, log 116). -/
def State.stage2Failed (s : State) : State :=
  if s.boot.source = 0 then { s with boot := { s.boot with stage := 0, flashFailed := true, image := none } }
  else { s with boot := { s.boot with stage := 3, status := (s.boot.source, 2) } }

/-- Block 3 stands between blocks 2 and 4 (R429): the digest of the stage 2 that runs. -/
def State.withBlock3 (s : State) : List MeasureRec :=
  let bytes := match s.boot.image with | some i => i.stage2 | none => []
  s.boot.measures.filter (fun m => decide (m.index < 3)) ++ ⟨3, blockOf (sha256 bytes)⟩ :: s.boot.measures.filter (fun m => decide (3 < m.index))

/-- BOOT_STAGE_2 (R276, R362, R364, R389, R425, R427 to R430): stage 2 runs only where its signature verifies. The compositors are released, the kernel-reserved map
is written and locked, the partition, EBUD and energy class defaults are written, and the scheduler starts. -/
def execBootStage2 (kr : List Nat) (reporting : BitVec 8) (s : State) : Out :=
  if s.boot.stage ≠ 1 then .next s
  else if !s.image2Ok then .next s.stage2Failed
  else
    .next { s with
      krMap := kr,
      cores := s.cores.map (fun (c : Nat × Core) => (c.1, { c.2 with ebud := Config.ebudReset })),
      bringup := s.bringup ||| 0xE,
      boot := { s.boot with
        stage := 2, released := s.time, reporting := reporting ||| 1, measures := s.withBlock3, part := Config.partitionReset, energy := Config.energyReset } }

/-- COMPOSITOR_REPORT_TIMEOUT (R428): a released compositor that has not reported within 100 ms of TIME stays in reset. -/
def execCompositorReportTimeout (c : Nat) (s : State) : Out :=
  if s.boot.stage = 2 && decide (c < 8) && !s.boot.reporting.getLsbD c && decide (s.boot.released + 100000000 ≤ s.time) then
    .next { s with boot := { s.boot with timedOut := s.boot.timedOut ||| BitVec.ofNat 8 (2 ^ c) } }
  else .next s

/-! Measurements and keys (R424, R425, R429). -/

/-- The stack and channel mapping of R280 as numbers: the bytes of a stack and of a granule, the lowest bits of the six fields of five bits that give the channel,
its channels and its pseudo-channels of a channel (log 116). -/
def addressMap : List Nat := [Config.stackBytes, 512, 0, 5, 10, 15, 20, 25, 32, 16]

/-- The measurement blocks as they stand (R425, R429): 1 to 4 from boot, and once stage 2 runs 16, the address map: the stack and channel mapping, the grants and
the kernel-reserved map; 17, each stack's stale bit and repair tables; 18, the key policy. -/
def State.measured (s : State) : List MeasureRec :=
  s.boot.measures ++
  (if s.boot.stage = 2 then
    [⟨16, addressMap ++ s.saggars.flatMap (fun g => [g.1, g.2.cfg.grantBase, g.2.cfg.grantLen]) ++ s.krMap⟩,
     ⟨17, (List.range 12).flatMap (fun k =>
       let r := Tbl.get s.repair k Repair.init
       (if r.stale then 1 else 0) :: r.tables.flatMap (fun e => [e.1, e.2.toNat]))⟩,
     ⟨18, s.boot.policy.flatMap (fun e => [e.1, e.2])⟩]
   else [])

/-- SPDM_MEASUREMENT (R425, R429): once stage 1 runs, the measurement blocks are reported and signed. What blocks 16 to 18 hold is measured once, before any
key is loaded: no measurement changes before the next device reset. -/
def execSpdmMeasurement (s : State) : Out :=
  if s.boot.reported || (s.boot.stage ≠ 1 && s.boot.stage ≠ 2) then .next s
  else
    .next { s with boot := { s.boot with
      report := s.measured, signature := Config.signature (s.measured.map (fun m => (m.index, m.content))), reported := decide (s.boot.stage = 2) } }

/-- Whether any stack's repair measurement is stale (R419, R425). -/
def State.stale (s : State) : Bool := s.repair.any (fun r => r.2.stale)

/-- KEY_LOAD (R424, R425): refused before the measurements are reported and while any stale bit is set. -/
def execKeyLoad (id : Nat) (key : BitVec 512) (s : State) : Out :=
  if s.bringup.getLsbD 2 && s.boot.reported && !s.stale && decide (id < 256) then .next { s with keys := Tbl.put s.keys id key } else .next s

/-! Repair tables (R419, R420). -/

/-- Serves every waiter of a fenced word (R420). -/
def State.serveFenced (s : State) : State :=
  let gone := fun (w : Waiter) => s.fenced w.msg.loc
  (s.waiters.filter gone).foldl (fun (t : State) w => match w.msg.body with | .swait b => t.swaitArrive w.msg b | _ => t.serveFe w.msg)
    { s with waiters := s.waiters.filter (fun w => !gone w) }

/-- REPAIR_TABLE_RELOAD (R418 to R420): an uncorrectable error in a table makes the pseudo-channel reload it from its shadow and resume; when the shadow
fails too, the pseudo-channel is fenced and the stack's measurement is stale. Messages of peers that waited for it are then performed in sequence (R412). -/
def execRepairTableReload (stack pch : Nat) (shadow : Bool) (s : State) : Out :=
  if 12 ≤ stack || 512 ≤ pch then .next s
  else
    let f := fun (r : Repair) =>
      let r := { r with struck := r.struck.filter (· ≠ pch) }
      if shadow then { r with reloads := sat1 r.reloads, tables := r.shadow }
      else if r.fence.contains pch then r
      else { r with fenced := sat1 r.fenced, fence := r.fence ++ [pch], stale := true }
    let t : State := { s with repair := Tbl.upd s.repair stack Repair.init f }
    let t := if shadow then t else t.serveFenced
    .next (t.peers.foldl (fun (t : State) p => State.acceptHeld p.port p.peer p.heldMsgs.length t) t)

end Sys2Proof.Machine
end

