-- ==== Sys2Proof/Machine/Clocks.lean ====
section
/-! DEFINITION. Frequency steps (R439 to R441, R444), power states (R442, R443), and the class-3 credit (R415). -/

namespace Sys2Proof.Machine

/-! Frequency steps. -/

/-- A step from the die's multiplier to n at TIME t (R440): FSTEP, the frozen and rescaled CYC, and the relock, in which the die's core cycles stand. -/
def State.startStep (s : State) (die n t : Nat) : State :=
  let c := s.cyc die
  s.modDie die (fun d => { d with
    fstep := word (t % 2 ^ 54 * 2 ^ 10 + n * 2 ^ 5 + d.mult), cyc := c * n / d.mult, beats := d.beatAt t, mult := n, relock := some (t + Config.relockNs), held := none })

/-- FREQUENCY_STEP (R6, R439, R440): a write of the die clock word, of which bits above 4 are reserved and ignored. A value outside 6 to 21 is refused, the current one starts nothing, and a write during a
relock is held. -/
def execFrequencyStep (die mult : Nat) (s : State) : Out :=
  let mult := mult % 32
  if 4 ≤ die then .next s
  else if mult < 6 || 21 < mult then .next { s with capFaults := s.capFaults + 1 }
  else if (s.dieAt die).relock.isSome then .next (s.modDie die (fun d => { d with held := some mult }))
  else if mult = (s.dieAt die).mult then .next s
  else .next (s.startStep die mult s.time)

/-! The depth of a die (R442, R443). -/

/-- Whether a core may enter C1: no live strand and no placed job (R442). -/
def State.coreIdle (s : State) (c : Nat) : Bool :=
  (s.coreAt c).liveSlots.isEmpty && !(s.clusterAt (clusterOf c)).jobs.any (fun j => decide (j.core = c))

/-- The clusters of a die. -/
def dieClusters (d : Nat) : List Nat := (List.range Config.clusters).filter (fun cl => decide (dieOf cl = d))

/-- The deepest state whose condition holds on a die (R442): C2 when every core is in C1 and no job is pending, C3 when no lane claim is live either, C4
when no request is pending to its stacks either, a job's write or a waiter's retry included. Stacks 3d to 3d + 2 are taken as those of die d. -/
def State.deepest (s : State) (d : Nat) : Nat :=
  let cls := dieClusters d
  if !cls.all (fun cl => (s.clusterAt cl).jobs.isEmpty && (List.range 8).all (fun i => (s.coreAt (8 * cl + i)).gated)) then 0
  else if !cls.all (fun cl => decide (s.freeGroups cl = Config.laneGroups)) then 2
  else if s.net.any (fun m => decide (m.home.kind = .hbm) && decide (m.home.unit / 3 = d)) ||
      s.waiters.any (fun w => w.retry && decide (w.msg.home.kind = .hbm) && decide (w.msg.home.unit / 3 = d)) ||
      s.clusters.any (fun c => c.2.jobs.any (fun j => j.writes.any (fun w => decide (spaceOf w.loc = 0) && decide (stackOf w.loc / 3 = d)))) then 3
  else 4

/-- A die enters the deepest state whose condition holds and whose exit latency its tolerance allows (R442, R443). -/
def State.enterDeepest (s : State) (die : Nat) : State :=
  match ((List.range 5).reverse).find? (fun p => decide (2 ≤ p) && decide (p ≤ s.deepest die) && decide (exitLatency p ≤ s.dieTol die)) with
  | some p => s.modDie die (fun d => { d with power := p })
  | none => s

/-- What a relock has kept of a die's strands happens at its end (R441): those of a stopped core back off, and those of aborting tasks stop (R345 step 1). -/
def State.stopAfterRelock (s : State) (die : Nat) : State :=
  let here := fun (c : Nat) => decide (dieOf (clusterOf c) = die)
  let s := s.cores.foldl (fun (s : State) c => if here c.1 && c.2.stopped then s.backOffAll c.1 else s) s
  s.saggars.foldl (fun (s : State) g => g.2.specs.foldl (fun (s : State) t =>
    if t.st = .aborting && t.tag.isSome then
      ((s.taskStrands g.1 ⟨t.inst, t.seq⟩).filter (fun x => here x.core && !(s.strandOf x).inverse && !(s.strandOf x).dying)).foldl State.stopForAbort s
    else s) s) s

/-- RELOCK_END (R439, R440, R441): 1,500 ns after the step the clock resumes, CYC catches up, and a held write starts its step; else an entry
to a deeper state that was deferred is made where its condition still holds (R444). -/
def execRelockEnd (die : Nat) (s : State) : Out :=
  match (s.dieAt die).relock with
  | some t =>
    if s.time < t then .next s
    else
      let held := (s.dieAt die).held
      let s := (s.modDie die (fun d => { d with cyc := d.cyc + 150 * d.mult, from_ := t, relock := none, held := none })).stopAfterRelock die
      let settle := fun (s : State) => if (s.dieAt die).deferred then (s.modDie die (fun d => { d with deferred := false })).enterDeepest die else s
      match held with
      | some m => .next (if m = (s.dieAt die).mult then settle s else s.startStep die m t)
      | none => .next (settle s)
  | none => .next s

/-! Power states (R442 to R444). -/

/-- POWER_STATE_ENTRY (R442, R443): a core enters C1, or a die its deepest state; during a relock the entry is deferred to its end (R444). -/
def execPowerStateEntry (unit : Nat) (isCore : Bool) (s : State) : Out :=
  if isCore then
    if decide (unit < Config.cores) && s.coreIdle unit && decide (exitLatency 1 ≤ s.dieTol (dieOf (clusterOf unit))) then
      .next (s.modCore unit (fun c => { c with gated := true }))
    else .next s
  else if 4 ≤ unit then .next s
  else if (s.dieAt unit).relock.isSome then .next (s.modDie unit (fun d => { d with deferred := true }))
  else .next (s.enterDeepest unit)

/-- POWER_STATE_EXIT (R442): a waking event brings a core or a die back to running. -/
def execPowerStateExit (unit : Nat) (isCore : Bool) (s : State) : Out :=
  if isCore then .next (s.modCore unit (fun c => { c with gated := false }))
  else .next (s.modDie unit (fun d => { d with power := 0 }))

/-! Class-3 credit (R415). -/

/-- CLASS3_CREDIT_REFILL (R415): each microsecond every core's NI gains one credit, up to 4. -/
def execClass3CreditRefill (s : State) : Out :=
  if s.time = (s.lastCredit / 1000 + 1) * 1000 then .next { s with lastCredit := s.time, credits := s.credits + 1 } else .next s

end Sys2Proof.Machine
end

