-- ==== Sys2Proof/Machine/Contexts.lean ====
section
/-! DEFINITION. Context tags (R233 to R235, R326 to R336): allocation, retirement, commits in phase order, and queries. -/

namespace Sys2Proof.Machine

/-! Tags and records (R327, R328). -/

/-- The record of a tag. -/
def Saggar.ctx (g : Saggar) (t : Nat) : Option Ctx := Tbl.find g.ctxs t
/-- Whether a tag is a live context. -/
def Saggar.ctxLive (g : Saggar) (t : Nat) : Bool := match g.ctx t with | some x => decide (x.st = .live) | none => false
/-- The tags of a saggar's range. -/
def Saggar.tagRange (g : Saggar) : List Nat := (List.range (bitsOf g.ctlim 0 16 + 1 - bitsOf g.ctbase 0 16)).map (bitsOf g.ctbase 0 16 + ·)
/-- The lowest free tag. -/
def Saggar.freeTag (g : Saggar) : Option Nat := g.tagRange.find? (fun t => (g.ctx t).isNone)
/-- Whether a context has children that are live or retired for commit (R328). -/
def Saggar.ctxBusy (g : Saggar) (t : Nat) : Bool := g.ctxs.any (fun c => decide (c.2.parent = t) && decide (c.2.st ≠ .releasing))
/-- Allocates a tag: its record is live and has no cells (R328). -/
def Saggar.takeTag (g : Saggar) (t parent phase index : Nat) (spec : Option SpecRef) : Saggar :=
  let depth := match g.ctx parent with | some x => x.depth + 1 | none => 1
  { g with ctxs := Tbl.put g.ctxs t ⟨parent, phase, index, depth, .live, spec⟩ }

/-- An access of a context that is gone names no context any more, so that it is dropped or reads base memory and is counted (R234, R335, R351). -/
def Msg.orphan (m : Msg) (sag t : Nat) : Msg := if m.sag = sag && m.ctx = t then { m with ctx := t + 65536 } else m

/-- A tag goes to a new context; what is still on its way for the context that had it stays outside (R328, R335, R351). -/
def State.giveTag (s : State) (sag t parent phase index : Nat) (spec : Option SpecRef) : State :=
  let o := fun (q : List Replay) => q.map (fun r => { r with msgs := r.msgs.map (·.orphan sag t) })
  let oj := fun (q : List Job) => q.map (fun j => if j.sag = sag && j.ctx = t then { j with ctx := t + 65536 } else j)
  State.modSag { s with
    net := s.net.map (·.orphan sag t),
    cores := s.cores.map (fun (c : Nat × Core) => (c.1, { c.2 with
      replay := o c.2.replay, saved := c.2.saved.map (fun v => { v with jobs := oj v.jobs }),
      away := c.2.away.map (fun a => (a.1, { a.2.1 with jobs := oj a.2.1.jobs }, { a.2.2 with replay := o a.2.2.replay })) })),
    clusters := s.clusters.map (fun (c : Nat × Cluster) => (c.1, { c.2 with jobs := oj c.2.jobs })) }
    sag (fun g => g.takeTag t parent phase index spec)

/-- The strand's saggar; a strand outside one does nothing. -/
def withSag (s : State) (k : Saggar → Out) : Out := match s.sagAt s.me.sag with | some g => k g | none => .next s

/-- A `ctalloc` form (R233, R327): a request that finds no free tag waits in the allocator's list, or gets 0 under `.nb`. -/
def ctallocForm (nb : Bool) (o : FmtA) (s : State) : Out :=
  plain (srcOk o.x o.a && srcOk o.y o.b && dstOk o.d) s (fun s => withDst o.d s (fun s => two o s (fun a b s => withSag s (fun g =>
    let parent := bitsOf a 0 16
    let phase := bitsOf b 0 16
    let index := bitsOf b 16 16
    if parent ≠ 0 && !g.ctxLive parent then trap .contextInvalid (word parent) s
    else if (match g.ctx parent with | some x => decide (4 ≤ x.depth) | none => false) then trap .contextDepth (word parent) s
    else if phase ≠ 0 && g.ctxs.any (fun c => decide (c.2.parent = parent) && decide (c.2.phase = phase) && decide (c.2.index = index) && decide (c.2.st ≠ .releasing)) then
      trap .contextIndex (word (bitsOf b 0 32)) s
    else
      match (if g.tagWait.isEmpty then g.freeTag else none) with
      | some t => finish o.d (word t) (s.giveTag s.me.sag t parent phase index none)
      | none =>
        if nb then finish o.d 0 s
        else
          let req := TagReq.strand s.myRef s.me.uid parent phase index
          park .ctalloc ((s.modSag s.me.sag (fun g => { g with tagWait := g.tagWait ++ [req] })).modMe (fun m => { m with stage := 9, work := [o.d.toNat] }))))))

/-- `ctalloc` (R233). -/
def execCtalloc (o : FmtA) (s : State) : Out := ctallocForm false o s
/-- `ctalloc.nb` (R233). -/
def execCtallocNb (o : FmtA) (s : State) : Out := ctallocForm true o s

/-- `ctenter` (R233, R339). SPEC_ROLE's EADDR is stated by no rule (log 1). -/
def execCtenter (o : FmtSrc) (s : State) : Out :=
  plain (srcOk o.x o.a) s (fun s => readSrc 0 o.a o.x s (fun a s => withSag s (fun g =>
    let t := bitsOf a 0 16
    let own := match s.me.spec with
      | some r => (match s.specAt s.me.sag r with | some x => (match x.tag with | some tag => g.within tag 5 t | none => false) | none => false)
      | none => true
    if t ≠ 0 && !own then trapFree .specRole s
    else if t ≠ 0 && !g.ctxLive t then trap .contextInvalid (word t) s
    else complete (s.modMe (fun m => { m with ctx := t })))))

/-! Commits (R233, R333, R334). -/

/-- The location a mesh-local slice address names. -/
def sliceNamed (named : Nat) : Nat := sliceLoc (named / 2 ^ 50 % 32 * 20 + named / 2 ^ 55 % 32) (named % 2 ^ 46)

/-- Who commits: the issuer for translation, and the core, slot, uid and speculative task on whose behalf the bytes travel. -/
structure Committer where
  (iss : Issuer) (core slot uid : Nat) (task : Option Nat) (spec : Option SpecRef)
  deriving DecidableEq, Repr

/-- Where the dirty bytes of a context go in its parent (R333): each with its location, or without one where its page is gone; none, when the page of a byte for
base memory must not be written yet. What the walks have written and the TLBs have taken up stays (R388, R392). -/
def State.commitPlaces (i : Issuer) (parent : Nat) : List (Nat × Byte) → State → Except Fault (Option (List (Nat × Option Nat × Byte)) × State)
  | [], s => .ok (some [], s)
  | (named, b) :: t, s =>
    let go := fun (loc : Option Nat) (s : State) =>
      match State.commitPlaces i parent t s with
      | .ok (some l, s) => .ok (some ((named, loc, b) :: l), s)
      | r => r
    if parent ≠ 0 then go (some 0) s
    else if 2 ^ 63 ≤ named then go (some (sliceNamed named)) s
    else
      match translate s i .store named 1 with
      | (.ok loc, s) => go (some loc) s
      | (.replay .., s) | (.waits, s) => .ok (none, s)
      | (.broken f, _) => .error f
      | (_, s) => go none s

/-- The message that writes a byte of a context into its parent (R333). A byte whose page is gone is dropped and counted. -/
def State.commitPost (c : Committer) (op src parent : Nat) (s : State) (b : Nat × Option Nat × Byte) : State :=
  match b.2.1 with
  | some loc =>
    let home := if parent = 0 then homeOf loc else match s.sagAt c.iss.sag with | some g => cellHome g parent (b.1 / 64) | none => homeOf loc
    { s with net := s.net ++ [⟨s.serial, c.core, c.slot, c.uid, c.iss.sag, c.task, c.spec, 1, parent, b.1, loc, 1, home, .commit src b.2.2, op, s.time⟩], serial := s.serial + 1 }
  | none => s.count c.iss.sag (fun x => { x with droppedWrite := sat1 x.droppedWrite })

/-- The dirty bytes of a context, by address: those of a poisoned word read as 0 (R333, R417, log 139). -/
def Saggar.dirtyBytes (g : Saggar) (src : Nat) : List (Nat × Byte) :=
  (g.cells.filter (fun x => x.ctx = src)).flatMap (fun x => x.bytes.map (fun b => (x.blk * 64 + b.1, if x.bad.contains (b.1 / 4) then 0 else b.2)))

/-- A context begins to release its cells into its parent (R328): their bytes travel to the parent, and each cell is freed once its bytes are written
(R333). Whether it has begun: it has not while a page must not be written yet. -/
def State.commitCtx (s : State) (c : Committer) (src : Nat) : Except Fault (Bool × State) :=
  match s.sagAt c.iss.sag with
  | none => .ok (true, s)
  | some g =>
    let parent := match g.ctx src with | some x => x.parent | none => 0
    match State.commitPlaces c.iss parent (g.dirtyBytes src) s with
    | .error f => .error f
    | .ok (none, s) => .ok (false, s)
    | .ok (some l, s) =>
      let s := s.modSag c.iss.sag (fun g => { g with ctxs := match g.ctx src with | some x => Tbl.put g.ctxs src { x with st := .releasing } | none => g.ctxs })
      .ok (true, (l.foldl (State.commitPost c s.serial src parent) s).freeTag c.iss.sag src)

/-- The strand in focus as a committer: hardware writes the bytes, outside the leases. -/
def State.committer (s : State) : Committer := ⟨{ s.issuer with leases := none }, s.core, s.slot, s.me.uid, s.me.task, s.me.spec⟩
/-- Whether a commit of strand u is still being performed; its bytes may be parked for cell space (R333). -/
def State.commitsOut (s : State) (u : Nat) : Bool :=
  let mine := fun (m : Msg) => decide (m.uid = u) && (match m.body with | .commit .. => true | _ => false)
  s.net.any mine || s.cores.any (fun c => c.2.replay.any (fun r => r.msgs.any mine))

/-- The checks of `ctretire` (R233), then k with the tag and its record. -/
def retireChecks (a : Word) (s : State) (k : Nat → Ctx → State → Out) : Out :=
  withSag s (fun g =>
    let t := bitsOf a 0 16
    match g.ctx t with
    | some x =>
      if t = 0 || x.st = .releasing then trap .contextInvalid (word t) s
      else k t x s
    | none => trap .contextInvalid (word t) s)

/-- SPEC_ROLE and CONTEXT_BUSY of `ctretire` (R233). -/
def retireRoles (t : Nat) (x : Ctx) (s : State) (k : State → Out) : Out :=
  withSag s (fun g => if x.spec.isSome then trap .specRole (word t) s else if g.ctxBusy t then trap .contextBusy (word t) s else k s)

/-- A strand whose CTX names a context it retires moves to the parent (R233). -/
def Strand.leaveCtx (m : Strand) (t parent : Nat) : Strand := if m.ctx = t then { m with ctx := parent } else m

/-- `ctretire.commit` (R233, R234): a release; the strand waits until every byte is performed. -/
def execCtretireCommit (o : FmtSrc) (s : State) : Out :=
  plain (srcOk o.x o.a) s (fun s =>
    if s.me.stage = 1 then (if s.commitsOut s.me.uid then hold s else complete s)
    else readSrc 0 o.a o.x s (fun a s => retireChecks a s (fun t x s =>
      if x.st ≠ .live then trap .contextInvalid (word t) s
      else retireRoles t x s (fun s => releasing 2 s (fun s =>
        if x.phase ≠ 0 then
          complete ((s.modSag s.me.sag (fun g => { g with ctxs := Tbl.put g.ctxs t { x with st := .retired } })).modMe (fun m => m.leaveCtx t x.parent))
        else
          match s.commitCtx s.committer t with
          | .error f => .fault f
          | .ok (false, s) => hold s
          | .ok (true, s) =>
            let s := s.modMe (fun m => m.leaveCtx t x.parent)
            if s.commitsOut s.me.uid then hold (s.modMe (fun m => { m with stage := 1 })) else complete s)))))

/-- A context is discarded: its cells are dropped and its tag is free (R328, R335). -/
def Saggar.discard (g : Saggar) (t : Nat) : Saggar := { g with cells := g.cells.filter (fun x => x.ctx ≠ t), ctxs := Tbl.del g.ctxs t }

/-- Drops a core's parked accesses that a test picks. -/
def Core.dropReplay (c : Core) (p : Msg → Bool) : Core :=
  { c with replay := (c.replay.map (fun r => { r with msgs := r.msgs.filter (fun m => !p m) })).filter (fun r => !r.msgs.isEmpty) }

/-- `ctretire.discard` (R233 to R235). -/
def execCtretireDiscard (o : FmtSrc) (s : State) : Out :=
  plain (srcOk o.x o.a) s (fun s => readSrc 0 o.a o.x s (fun a s => retireChecks a s (fun t x s => retireRoles t x s (fun s =>
    let sag := s.me.sag
    let gone := fun (m : Msg) => decide (m.sag = sag) && decide (m.ctx = t)
    let lost := (s.myCore.replay.flatMap (·.msgs)).filter gone
    complete ((lost.foldl State.settled ((s.modSag sag (fun g => g.discard t)).modMyCore (fun c => c.dropReplay gone))).modMe
      (fun m => m.leaveCtx t x.parent))))))

/-- The siblings of (parent, phase) that are retired for commit, in ascending index (R334). -/
def Saggar.retiredSiblings (g : Saggar) (parent phase : Nat) : List Nat :=
  let l := g.ctxs.filter (fun c => decide (c.2.parent = parent) && decide (c.2.phase = phase) && decide (c.2.st = .retired))
  (l.foldl (fun (t : List (Nat × Nat)) c => Tbl.put t c.2.index c.1) []).map (·.2)

/-- Commits the siblings that `work` lists, one after another, each performed before the next begins (R334). -/
def phaseStep (d : Code) (n : Nat) (parent : Nat) : List Nat → State → Out
  | [], s => if s.commitsOut s.me.uid then hold (s.modMe (fun m => { m with work := [n, parent] })) else finish d (word n) s
  | t :: ts, s =>
    if s.commitsOut s.me.uid then hold (s.modMe (fun m => { m with work := n :: parent :: t :: ts }))
    else
      match s.commitCtx s.committer t with
      | .error f => .fault f
      | .ok (false, s) => hold (s.modMe (fun m => { m with work := n :: parent :: t :: ts }))
      | .ok (true, s) => phaseStep d n parent ts (s.modMe (fun m => m.leaveCtx t parent))

/-- A `ctphase` that goes on without its strand, as a committer: hardware writes the bytes. -/
def PhaseRun.committer (p : PhaseRun) (sag : Nat) : Committer :=
  ⟨⟨sag, clusterOf p.core, p.heapb, p.heapl, p.heapo, none⟩, p.core, p.slot, p.uid, p.task, p.spec⟩

/-- Such a `ctphase` goes on by one sibling, once the one before it is performed, and is over after the last (R334). -/
def State.phaseOn (sag : Nat) (p : PhaseRun) (s : State) : Except Fault State :=
  if s.commitsOut p.uid then .ok s
  else
    match p.rest with
    | [] => .ok (s.modSag sag (fun g => { g with phases := g.phases.filter (fun x => decide (x ≠ p)) }))
    | t :: ts =>
      match s.commitCtx (p.committer sag) t with
      | .error f => .error f
      | .ok (false, s) => .ok s
      | .ok (true, s) => .ok (s.modSag sag (fun g => { g with phases := modIf g.phases (fun x => decide (x = p)) (fun x => { x with rest := ts }) }))

/-- All of a saggar's that go on without their strands. -/
def State.phasesOn (sag : Nat) : List PhaseRun → State → Except Fault State
  | [], s => .ok s
  | p :: t, s => match State.phaseOn sag p s with | .ok s => State.phasesOn sag t s | .error f => .error f

/-- The allocator grants a free tag to the head of its list (R327). -/
def State.grantTag (s : State) (sag : Nat) : State :=
  match s.sagAt sag with
  | some g =>
    match g.tagWait, g.freeTag with
    | .strand r uid parent phase index :: t, some tag =>
      let s1 := s.modSag sag (fun g => { g with tagWait := t })
      if !s.alive r.core r.slot uid then s1
      else (s1.giveTag sag tag parent phase index none).give r uid ⟨word tag, [], 0⟩
    | .task inst seq :: t, some tag =>
      ((s.giveTag sag tag 0 0 0 (some ⟨inst, seq⟩)).modSag sag (fun g => { g with tagWait := t })).modSpec sag ⟨inst, seq⟩ (fun x => { x with tag := some tag })
    | _, _ => s
  | none => s

/-- TAG_GRANT (R327, R334): the allocator goes on with the `ctphase`s whose strands have been stopped, and a free tag goes to the head of its list. -/
def execTagGrant (sag : Nat) (s : State) : Out :=
  match s.sagAt sag with
  | some g => match State.phasesOn sag g.phases s with | .ok s => .next (s.grantTag sag) | .error f => .fault f
  | none => .next s

/-- Whether another `ctphase` of the same parent and phase is under way (R334): a strand's, whose tag sources say which it is, or one that goes on without its
strand. -/
def State.phaseBusy (s : State) (parent phase : Nat) : Bool :=
  (match s.sagAt s.me.sag with
   | some g => g.phases.any (fun p => decide (p.parent = parent) && decide (p.phase = phase) && (!p.rest.isEmpty || s.commitsOut p.uid))
   | none => false) ||
  s.liveStrands.any (fun r =>
    let m := s.strandOf r
    decide (r ≠ s.myRef) && decide (m.sag = s.me.sag) && decide (m.stage = 1) && (match m.cur with | some (.ctphase _) => true | _ => false) &&
    (match m.reads with | a :: b :: _ => decide (bitsOf a.val 0 16 = parent) && decide (bitsOf b.val 0 16 = phase) | _ => false))

/-- `ctphase` (R233, R334): two of one parent and phase are applied one after the other. Where the parent is invalid and the phase is 0, the parent is
raised (log 100). -/
def execCtphase (o : FmtA) (s : State) : Out :=
  plain (srcOk o.x o.a && srcOk o.y o.b && dstOk o.d) s (fun s =>
    if s.me.stage = 1 then phaseStep o.d (s.me.work.getD 0 0) (s.me.work.getD 1 0) (s.me.work.drop 2) s
    else withDst o.d s (fun s => two o s (fun a b s => withSag s (fun g =>
      let parent := bitsOf a 0 16
      let phase := bitsOf b 0 16
      if parent ≠ 0 && !g.ctxLive parent then trap .contextInvalid (word parent) s
      else if phase = 0 then trap .contextInvalid (word phase) s
      else if s.phaseBusy parent phase then hold s
      else releasing 2 s (fun s =>
        let ts := g.retiredSiblings parent phase
        let s := s.modSag s.me.sag (fun g => { g with ctxs := g.ctxs.map (fun c => if ts.contains c.1 then (c.1, { c.2 with st := .releasing }) else c) })
        phaseStep o.d ts.length parent ts (s.modMe (fun m => { m with stage := 1 })))))))

/-- A context as `ctq` reports it (R235): one that is releasing reads as free in its state field (R328). -/
def Ctx.report (x : Ctx) : Nat :=
  x.parent + x.phase * 2 ^ 16 + x.index * 2 ^ 32 + x.depth * 2 ^ 48 + (match x.st with | .live => 1 | .retired => 2 | .releasing => 0) * 2 ^ 51

/-- `ctq` (R235). -/
def execCtq (o : FmtA) (s : State) : Out :=
  plain (srcOk o.x o.a && srcOk o.y o.b && dstOk o.d) s (fun s => withDst o.d s (fun s => two o s (fun a b s => withSag s (fun g =>
    match b.toNat with
    | 0 => finish o.d (word (match g.ctx (bitsOf a 0 16) with | some x => x.report | none => 0)) s
    | 1 => finish o.d (word (g.tagRange.filter (fun t => (g.ctx t).isNone)).length) s
    | 2 => finish o.d (word g.cells.length) s
    | 3 => finish o.d (word g.counters.stray) s
    | 4 => finish o.d (word g.counters.specMiss) s
    | 5 => finish o.d (word g.counters.aborts) s
    | 6 => finish o.d (word g.counters.soloRuns) s
    | _ => trap .illegalOperand s.curWord s))))

end Sys2Proof.Machine
end

