-- ==== Sys2Proof/Machine/Engines.lean ====
section
/-! DEFINITION. Engine instructions (R210 to R225): descriptors and their limits, the waits and the placement of a job (R211, R356, R357,
R362 to R366), `jwait` (R215) and the refill of the energy budget (R363). -/

namespace Sys2Proof.Machine

/-! Job ids and the status ring (R211, R215). -/

/-- The largest job id. -/
def jobCycle : Nat := 2 ^ 48 - 1
/-- The id that follows n along the cycle of R211. -/
def nextJob (n : Nat) : Nat := if n < jobCycle then n + 1 else 1
/-- The id k places before n along the cycle. -/
def jobBefore (n k : Nat) : Nat := (n + jobCycle - 1 - k) % jobCycle + 1
/-- The status of a job id (R214, R215): expired unless it is among the 64 newest. -/
def Core.jobStatus (c : Core) (id : Nat) : Word := (Tbl.find c.jobRing id).getD 3
/-- Whether an id is one that no job has had yet (R215). -/
def Core.jobFuture (c : Core) (id : Nat) : Bool := decide (c.jobsPlaced < jobCycle) && decide (c.jobsPlaced < id)
/-- Whether an id raises JOB_ID (R215). -/
def Core.jobBad (c : Core) (id : Nat) : Bool := decide (id = 0) || decide (jobCycle < id) || c.jobFuture id
/-- The ids from a to b along the cycle. -/
def jobIds (a b : Nat) : List Nat := (List.range ((b + jobCycle - a) % jobCycle + 1)).map (fun k => (a - 1 + k) % jobCycle + 1)

/-! Ranges (R212, R271, R282). -/

/-- The named address of the first byte of an engine range: a broken address kind, a range beyond its space, or the address. -/
inductive Span where
  | kind | beyond | at_ (named : Nat)
  deriving DecidableEq, Repr

/-- Resolves an engine range of n bytes at address a (R271). DESIGN CHOICE (log 119): a range that lies beyond the plain part of a slice (R277), or starts beyond
its space, is a range beyond its space and not a broken address: the length field is named. -/
def State.spanOf (s : State) (a : Word) (n : Nat) : Span :=
  let first := if bitsOf a 60 4 = 8 || bitsOf a 60 4 = 9 then withBits a 0 46 0 else a
  match resolve s s.myCluster s.me.sag first 1, resolve s s.myCluster s.me.sag a n with
  | none, _ => .kind
  | some _, none => .beyond
  | some _, some ad => .at_ ad.named

/-- A range to be registered: first and last byte and whether it is a destination. -/
abbrev PlanRange := Nat × Nat × Bool

/-- The ranges of spans with their lengths and roles. -/
def spanRange (x : Span) (n : Nat) (dst : Bool) : List PlanRange :=
  match x with
  | .at_ a => [(a, a + n - 1, dst)]
  | _ => []

/-! Descriptors. -/

/-- A job to be placed: descriptor, tag, formats and ranges. -/
structure JobPlan where
  (desc : JobDesc) (tag : Nat) (gov : Gov) (ranges : List PlanRange)
  deriving DecidableEq, Repr

/-- A descriptor with every field 0. -/
def JobDesc.zero (k : JobKind) : JobDesc := ⟨k, 0, 0, 0, 0, 0, 0, 0, false, 0, 0, 0, 0, 0, 0, 0, 1, false, 0⟩

/-- The first broken limit, by the offset of its field (R211). -/
def firstBroken (l : List (Bool × Nat)) : Option Nat := (l.find? (·.1)).map (·.2)

/-- The limits of a `copy` descriptor (R216, R217, R271). -/
def copyLimits (fo : Bool) (r : List Word) (x y : Span) : Option Nat :=
  let len := recBits r 16 8
  let flags := recBits r 24 4
  let f := recBits r 32 4
  firstBroken [(x = .kind, 0), (y = .kind, 8), (len = 0 || 2 ^ 30 < len || x = .beyond || y = .beyond, 16),
    (flags / 2 % 4 = 3 || flags / 8 ≠ 0, 24), (recBits r 28 4 ≠ 0, 28), (fo && (8 ≤ f % 16 || f / 2 ^ 10 ≠ 0), 32), (fo && recBits r 40 8 % 8 ≠ 0, 40)]

/-- The limits of an `mmld`, `mmrun` or `mmst` descriptor (R222, R271). -/
def matrixLimits (k : JobKind) (r : List Word) (x : Span) : Option Nat :=
  let rows := recBits r 16 2
  let acc0 := recBits r 18 2
  let ld := decide (k = .mmld)
  firstBroken [(recBits r 0 8 % 4 ≠ 0 || x = .kind || (ld && x = .beyond), 0), (recBits r 8 8 % 4 ≠ 0, 8),
    (if ld then rows ≠ 0 else rows = 0 || 512 < rows || 512 < acc0 + rows || x = .beyond, 16), (ld && acc0 ≠ 0, 18),
    (if k = .mmst then 2 ≤ recBits r 21 1 else recBits r 21 1 ≠ 0, 21), (recBits r 22 2 ≠ 0, 22)]

/-- The limits of a `gath` descriptor (R218): what a size that is not listed would decide is left alone, so the size is named. -/
def gathLimits (r : List Word) (x y : Span) : Option Nat :=
  let n := recBits r 24 4
  let esz := recBits r 28 1
  let isz := recBits r 29 1
  let index := decide (isz = 2) || decide (isz = 3)
  let element := decide (esz ≤ 12)
  firstBroken [(x = .kind || (index && recBits r 8 8 % 2 ^ isz ≠ 0), 8), (y = .kind || (element && recBits r 16 8 % 2 ^ esz ≠ 0), 16),
    (n = 0 || 2 ^ 24 < n || (index && x = .beyond) || (element && y = .beyond), 24), (!element, 28), (!index, 29), (recBits r 30 2 ≠ 0, 30)]

/-- The element size of a `coll` format. -/
def collSize (fmt : Nat) : Nat := if fmt = 1 then 2 else 4

/-- The limits of a `coll` descriptor (R219): what a format that is not listed would decide is left alone, so the format is named. -/
def collLimits (r : List Word) (x y : Span) : Option Nat :=
  let n := recBits r 24 4
  let fmt := recBits r 29 1
  let np := recBits r 30 2
  let grp := r.getD 2 0
  let known := decide (fmt = 0) || decide (fmt = 1) || decide (fmt = 9)
  firstBroken [(x = .kind || (known && recBits r 0 8 % collSize fmt ≠ 0), 0), (y = .kind || (known && recBits r 8 8 % collSize fmt ≠ 0), 8),
    (bitsOf grp 57 7 ≠ 0 || bitsOf grp 0 6 ≠ 0, 16), (n = 0 || 2 ^ 20 < n || (known && (x = .beyond || y = .beyond)), 24), (3 < recBits r 28 1, 28),
    (!known, 29), (np = 0 || 3840 < np, 30), (r.getD 4 0 ≠ 0 || r.getD 5 0 ≠ 0, 32)]

/-! Placement (R211). -/

/-- The bands of a mask. -/
def bandsOf (mask : Nat) : List Nat := (List.range 8).filter (fun b => (BitVec.ofNat 8 mask).getLsbD b)
/-- Whether the core in focus owns every band of a mask that is not 0 (R220, R358). -/
def State.ownsBands (s : State) (mask : Nat) : Bool :=
  decide (mask % 256 ≠ 0) && (bandsOf mask).all (fun b => decide (bitsOf (s.clusterAt s.myCluster).bandMap (4 * b) 4 = 8 + s.core % 8))
/-- The debit of an `mmrun` (R365). -/
def State.debitOf (s : State) (cls rows mask : Nat) : Nat :=
  rows * (match s.sagAt s.me.sag with | some g => bitsOf g.energy (8 * cls) 8 | none => 0) * (bandsOf mask).length

/-- The first tag that would count a sixteenth job. -/
def Core.fullTag (c : Core) : List Nat → Option Nat
  | [] => none
  | t :: ts => if 15 ≤ Tbl.get c.tagCount t 0 then some t else
      Core.fullTag { c with tagCount := Tbl.upd c.tagCount t 0 (· + 1) } ts

/-- Whether a core waits to have a withdrawn job placed again: its bands are back, and the quoin table has room for the job's ranges (R369). -/
def State.replacing (s : State) (core : Nat) : Bool :=
  match (s.coreAt core).saved with
  | some v =>
    match v.jobs with
    | j :: _ => (s.coreAt core).halting && v.bands.isEmpty &&
        decide ((s.clusterAt (clusterOf core)).ranges.length + (v.ranges.filter (fun r => decide (r.job = j.id))).length ≤ Config.quoinDepth)
    | [] => false
  | none => false

/-- The core of a cluster that gets the next queue entry (R356): the next in the ring that waits for one. -/
def State.entryCore (s : State) (cl : Nat) : Option Nat :=
  let c := s.clusterAt cl
  ((List.range 8).map (fun i => (c.lastGrant + 1 + i) % 8)).find? (fun k => c.waiting.any (fun r => decide (r.core % 8 = k)) || s.replacing (8 * cl + k))

/-- Whether the strand in focus is the one that R356 and R357 serve next for queue entries. -/
def State.entryTurn (s : State) : Bool :=
  let cl := s.clusterAt s.myCluster
  let order := fun (r : StrandRef) => ((s.strandOf r).work.headD 0)
  match s.entryCore s.myCluster with
  | some c => decide (c = s.core % 8) && cl.waiting.all (fun r => decide (r.core ≠ s.core) || decide (order s.myRef ≤ order r))
  | none => false

/-- Whether a job of a core is pending, here or in what has been saved of it for a saggar that it has left (R211, R367). -/
def Core.pendingJob (c : Core) (id : Nat) : Bool :=
  decide (Tbl.find c.jobRing id = some 0) || c.away.any (fun a => decide (Tbl.find a.2.2.ring id = some 0))

/-- The waits of R211 but for the queue entries: the job 64 before, quoin entries, the energy budget, and the release. -/
def State.placeable (s : State) (ps : List JobPlan) (debit : Nat) : Bool :=
  let c := s.myCore
  let old := (List.range ps.length).all (fun i => !c.pendingJob (jobBefore (c.jobNext + i) 64))
  old && decide ((s.clusterAt s.myCluster).ranges.length + (ps.map (fun p => p.ranges.length)).foldl (· + ·) 0 ≤ Config.quoinDepth) &&
  decide (debit ≤ bitsOf c.ebud 0 24) && s.releaseOk 2

/-- Places one job (R211): the first of an instruction waits for its start, a follow-on is reserved (R217). -/
def State.placeJob (s : State) (p : JobPlan) (st : JobState) : State :=
  let m := s.me
  let id := s.myCore.jobNext
  let job : Job := ⟨s.serial, s.core, s.slot, m.uid, id, p.tag, m.sag, m.task, m.spec, if m.bop then 0 else m.ctx, (m.heapb, m.heapl, m.heapo), p.desc, p.gov, st, 0, [], [], [], 0, 0⟩
  let regs := p.ranges.map (fun (r : PlanRange) => Range.mk r.1 r.2.1 r.2.2 id s.core)
  let s1 := State.modMyCore { s with serial := s.serial + 1 } (fun c => { c with
    tags := c.tags &&& ~~~(word (2 ^ p.tag)), tagCount := Tbl.upd c.tagCount p.tag 0 (· + 1), jobNext := nextJob id,
    jobsPlaced := min (c.jobsPlaced + 1) jobCycle, jobRing := Tbl.put (Tbl.del c.jobRing (jobBefore id 64)) id 0 })
  s1.modCluster s.myCluster (fun c => { c with jobs := c.jobs ++ [job], ranges := c.ranges ++ regs })

/-- The strand in focus no longer waits for queue entries: it traps (R356). -/
def State.leaveQueue (s : State) : State := s.modCluster s.myCluster (fun c => { c with waiting := c.waiting.filter (· != s.myRef) })

/-- The end of every engine instruction (R211): TAG_OVERFLOW, the waits, and the placement of its jobs; d receives the first id. DESIGN CHOICE (log 120): count(t)
is tested again whenever a waiting instruction is rechecked, so one whose tag others have filled meanwhile traps. -/
def place (d : Code) (ps : List JobPlan) (debit : Nat) (s : State) : Out :=
  match s.myCore.fullTag (ps.map (·.tag)) with
  | some t => trap .tagOverflow (word t) s.leaveQueue
  | none =>
    let s := if s.me.work.isEmpty then (s.modMe (fun m => { m with work := [s.serial] })).tick.2 else s
    let me := s.myRef
    if !s.placeable ps debit then hold s.leaveQueue
    else
      let s := s.modCluster s.myCluster (fun c => { c with waiting := if c.waiting.contains me then c.waiting else c.waiting ++ [me] })
      if s.entryTurn && decide ((s.clusterAt s.myCluster).jobs.length + ps.length ≤ Config.jobQueueDepth) then
        let n := s.myCore.jobNext
        let s := s.leaveQueue.modCluster s.myCluster (fun c => { c with lastGrant := s.core % 8 })
        let s := s.modMyCore (fun c => { c with ebud := withBits c.ebud 0 24 (bitsOf c.ebud 0 24 - debit) })
        let s := match ps with
          | [] => s
          | p :: t => t.foldl (fun (s : State) q => s.placeJob q .reserved) (s.placeJob p .waiting)
        finish d (word n) s.consume
      else hold s

/-- The format codes that an engine instruction takes in a prefix (R76), checked before it reads an operand (R77). -/
def engineCodes (k : JobKind) (s : State) : Bool :=
  formatsOk (if k = .mmrun then .engine else .ignored) (if k = .mmld then .engine else .ignored) (if k = .mmst then .store else .ignored) s

/-- The operands of an engine instruction: a, b and a pending prefix's scale register (R96). DESIGN CHOICE (log 132): an `mmld` too reads that register, and waits
on it while it is empty, though it uses only the prefix's format (R221). -/
def engineOps (takes codes : Bool) (o : FmtA) (s : State) (k : Word → Word → Word → State → Out) : Out :=
  checked true takes (srcOk o.x o.a && srcOk o.y o.b && dstOk o.d && codes) s (fun s => ordered s (fun s => withDst o.d s (fun s => two o s (fun a b s =>
    if takes then readScale 2 s (fun sc s => k a b sc s) else k a b 0 s))))

/-- The sources an engine instruction has read before its descriptor. -/
def State.engineSrcs (s : State) (takes : Bool) : Nat := if takes && s.me.prefixed then 3 else 2

/-- Raises ENGINE_DESCRIPTOR at the field of a broken limit (R211). -/
def limits (a : Word) (l : Option Nat) (s : State) (k : State → Out) : Out :=
  match l with
  | some off => trap .engineDescriptor (a + word off) s
  | none => k s

/-- The width in bits of an element of a matrix array. -/
def matrixWidth (k : JobKind) (g : Gov) : Nat :=
  match k with
  | .mmld => fmtWidth g.fb
  | .mmst => fmtWidth g.fd
  | _ => fmtWidth g.fa

/-- The span of a strided range (R212): its rows, each a full row of 128 columns (R222). -/
def stridedSpan (rows pitch width : Nat) : Nat := (rows - 1) * pitch + 16 * width

/-- The plan of an `mmld`, `mmrun` or `mmst` from its descriptor at a (R222 to R225): limits, the debit against CAP (R365), and band ownership. -/
def planMatrix (k : JobKind) (ow : Bool) (cls tag : Nat) (sc : Word) (a : Word) (r : List Word) (s : State) (go : JobPlan → Nat → State → Out) : Out :=
  let gov := s.me.gov 3 3 0 sc
  let base := r.getD 0 0
  let pitch := recBits r 8 8
  let rows := if k = .mmld then 128 else recBits r 16 2
  let span := stridedSpan rows pitch (matrixWidth k gov)
  let x := s.spanOf base span
  limits a (matrixLimits k r x) s (fun s =>
    let mask := recBits r 20 1
    let debit := if k = .mmrun then s.debitOf cls rows mask else 0
    if bitsOf s.myCore.ebud 24 24 < debit then trap .energyLimit (word debit) s.leaveQueue
    else if !s.ownsBands mask then trap .bandOwner (word mask) s.leaveQueue
    else
      let desc : JobDesc := { JobDesc.zero k with
        src := base.toNat, dst := base.toNat, pitch := pitch, rows := rows, acc0 := recBits r 18 2, bands := mask, flag := if k = .mmrun then ow else decide (recBits r 21 1 = 1) }
      go ⟨desc, tag, gov, spanRange x span (decide (k = .mmst))⟩ debit s)

/-- An `mmld`, `mmrun` or `mmst`. -/
def matrixForm (k : JobKind) (ow : Bool) (cls : Nat) (o : FmtA) (s : State) : Out :=
  engineOps true (engineCodes k s) o s (fun a b sc s => readRecord (s.engineSrcs true) a 3 s (fun r s =>
    planMatrix k ow cls (bitsOf b 0 6) sc a r s (fun p debit s => place o.d [p] debit s)))

/-- `mmld` (R223). -/
def execMmld (o : FmtA) (s : State) : Out := matrixForm .mmld false 0 o s
/-- `mmrun` (R224). -/
def execMmrun (o : FmtRun) (s : State) : Out := matrixForm .mmrun o.w o.e.toNat ⟨o.y, o.b, o.x, o.a, o.d⟩ s
/-- `mmst` (R225). -/
def execMmst (o : FmtA) (s : State) : Out := matrixForm .mmst false 0 o s
/-- `mmsw` (R223): a is the band mask; no descriptor and no range. -/
def execMmsw (o : FmtA) (s : State) : Out :=
  engineOps false true o s (fun a b _ s =>
    let mask := bitsOf a 0 8
    if !s.ownsBands mask then trap .bandOwner (word mask) s.leaveQueue
    else place o.d [⟨{ JobDesc.zero .mmsw with bands := mask }, bitsOf b 0 6, s.me.gov 3 3 0 0, []⟩] 0 s)

/-- A `copy` form (R216, R217). Under `.fo` the follow-on `mmrun` is checked and debited as if it were issued here. -/
def copyForm (fo : Bool) (o : FmtCopy) (s : State) : Out :=
  engineOps fo (!fo || engineCodes .mmrun s) ⟨false, o.b, o.x, o.a, o.d⟩ s (fun a b sc s =>
    let j := s.engineSrcs fo
    readRecord j a (if fo then 6 else 4) s (fun r s =>
      let len := recBits r 16 8
      let x := s.spanOf (r.getD 0 0) len
      let y := s.spanOf (r.getD 1 0) len
      limits a (copyLimits fo r x y) s (fun s =>
        let flags := recBits r 24 4
        let f := recBits r 32 4
        let desc : JobDesc := { JobDesc.zero .copy with
          src := recBits r 0 8, dst := recBits r 8 8, len := len, scope := flags / 2 % 4, base := decide (flags % 2 = 1), follow := if fo then 1 else 0 }
        let plan : JobPlan := ⟨desc, bitsOf b 0 6, s.me.gov 3 3 0 sc, spanRange x len false ++ spanRange y len true⟩
        if !fo then place o.d [plan] 0 s
        else
          let fod := r.getD 5 0
          readRecord (j + 6) fod 3 s (fun q s =>
            planMatrix .mmrun (decide (f / 4 % 2 = 1)) (f % 4) (f / 16 % 64) sc fod q s (fun p debit s => place o.d [plan, p] debit s)))))

/-- `copy` (R216). -/
def execCopy (o : FmtCopy) (s : State) : Out := copyForm false o s
/-- `copy.fo` (R217, R357, R366). -/
def execCopyFo (o : FmtCopy) (s : State) : Out := copyForm true o s

/-- `gath` (R218). -/
def execGath (o : FmtA) (s : State) : Out :=
  engineOps false true o s (fun a b _ s => readRecord 2 a 4 s (fun r s =>
    let n := recBits r 24 4
    let esz := recBits r 28 1
    let isz := recBits r 29 1
    let x := s.spanOf (r.getD 1 0) (if isz ≤ 3 then n * 2 ^ isz else 1)
    let y := s.spanOf (r.getD 2 0) (if esz ≤ 12 then n * 2 ^ esz else 1)
    limits a (gathLimits r x y) s (fun s =>
      let desc : JobDesc := { JobDesc.zero .gath with src := recBits r 0 8, dst := recBits r 16 8, pitch := recBits r 8 8, n := n, esz := esz, isz := isz }
      place o.d [⟨desc, bitsOf b 0 6, s.me.gov 3 3 0 0, spanRange x (n * 2 ^ isz) false ++ spanRange y (n * 2 ^ esz) true⟩] 0 s)))

/-- `coll` (R219). -/
def execColl (o : FmtA) (s : State) : Out :=
  engineOps false true o s (fun a b _ s => readRecord 2 a 6 s (fun r s =>
    let n := recBits r 24 4
    let fmt := recBits r 29 1
    let len := n * collSize fmt
    let x := s.spanOf (r.getD 0 0) len
    let y := s.spanOf (r.getD 1 0) len
    limits a (collLimits r x y) s (fun s =>
      let desc : JobDesc := { JobDesc.zero .coll with
        src := recBits r 0 8, dst := recBits r 8 8, group := recBits r 16 8, len := len, n := n, op := recBits r 28 1, fmt := fmt, npart := recBits r 30 2 }
      place o.d [⟨desc, bitsOf b 0 6, s.me.gov 3 3 0 0, spanRange x len false ++ spanRange y len true⟩] 0 s)))

/-- ENGINE_PLACEMENT (R211, R356): a strand whose engine instruction waits is rechecked, and its job placed once nothing holds it. -/
def execEnginePlacement (r : StrandRef) (s : State) : Out :=
  let m := s.strandOf r
  if m.live && !m.dying && decide (m.status = .held) && s.running r.core then
    let t : State := { s with core := r.core, slot := r.slot }
    match m.cur with
    | some (.copy o) => execCopy o t
    | some (.copyFo o) => execCopyFo o t
    | some (.mmld o) => execMmld o t
    | some (.mmsw o) => execMmsw o t
    | some (.mmrun o) => execMmrun o t
    | some (.mmst o) => execMmst o t
    | some (.gath o) => execGath o t
    | some (.coll o) => execColl o t
    | _ => .next s
  else .next s

/-- EBUD_REFILL (R363): at a multiple of 1,000 ns every core's balance rises by RATE up to CAP. -/
def execEbudRefill (s : State) : Out :=
  if s.time = (s.lastRefill / 1000 + 1) * 1000 then
    let f := fun (w : Word) => withBits w 0 24 (min (bitsOf w 24 24) (bitsOf w 0 24 + bitsOf w 48 16))
    .next { s with lastRefill := s.time, cores := s.cores.map (fun (c : Nat × Core) => (c.1, { c.2 with ebud := f c.2.ebud })) }
  else .next s

/-! `jwait` (R215). -/

/-- `jwait.poll` (R215). -/
def execJwaitPoll (o : FmtUn) (s : State) : Out :=
  plain (srcOk o.x o.a && dstOk o.d) s (fun s => withDst o.d s (fun s => readSrc 0 o.a o.x s (fun a s =>
    if s.myCore.jobBad a.toNat then trap .jobId a s else finish o.d (s.myCore.jobStatus a.toNat) s)))
/-- `jwait.sleep` (R215). -/
def execJwaitSleep (o : FmtUn) (s : State) : Out :=
  plain (srcOk o.x o.a && dstOk o.d) s (fun s => withDst o.d s (fun s => readSrc 0 o.a o.x s (fun a s =>
    if s.myCore.jobBad a.toNat then trap .jobId a s
    else
      let w := s.myCore.jobStatus a.toNat
      if w = 0 then park (.job a.toNat a.toNat) s else finish o.d w s)))
/-- `jwait.any` (R215). -/
def execJwaitAny (o : FmtA) (s : State) : Out :=
  plain (srcOk o.x o.a && srcOk o.y o.b && dstOk o.d) s (fun s => withDst o.d s (fun s => two o s (fun a b s =>
    let c := s.myCore
    if c.jobBad a.toNat then trap .jobId a s
    else if c.jobBad b.toNat then trap .jobId b s
    else if 64 ≤ (b.toNat + jobCycle - a.toNat) % jobCycle then trap .jobId a s
    else
      let ids := jobIds a.toNat b.toNat
      if ids.any c.jobFuture then trap .jobId a s
      else
        match ids.find? (fun i => decide (c.jobStatus i ≠ 0)) with
        | some i => finish o.d (word i) s
        | none => park (.job a.toNat b.toNat) s)))

end Sys2Proof.Machine
end

