-- ==== Sys2Proof/Machine/Waiting.lean ====
section
/-! DEFINITION. The end of a named wait (R65, R194, R199, R207, R215, R232, R251 to R254, R258, R261). -/

namespace Sys2Proof.Machine

/-- The row of a wait in R252, counted from 1. -/
def Wait.row : Wait → Nat
  | .reg _ | .room _ => 1
  | .pop _ | .push _ | .ring _ => 2
  | .fullEmpty => 3
  | .recv _ => 4
  | .barrier => 5
  | .tag .. => 6
  | .job .. => 7
  | .twait => 8
  | .ctalloc => 9
  | .signal => 10
  | .lane => 11

/-- Whether the wait of the strand in a slot has ended (R252). -/
def State.waitOver (s : State) (r : StrandRef) (w : Wait) : Bool :=
  let c := s.coreAt r.core
  let m := s.strandOf r
  match w with
  | .reg n =>
    if n < 32 then m.sFull.getLsbD n
    else if n < 40 then (c.slotAt ((r.slot + 15) % 16)).woFull.getLsbD (n - 32)
    else m.woFull.getLsbD (n - 40)
  | .room n => !m.woFull.getLsbD (n - 40)
  | .pop q => !(c.queue q).entries.isEmpty && ((c.queue q).poppers.isEmpty || (c.queue q).poppers.head? == some r.slot)
  | .push q => decide ((c.queue q).entries.length < Config.queueDepth) && ((c.queue q).pushers.isEmpty || (c.queue q).pushers.head? == some r.slot)
  | .recv k => !(c.mailbox k).isEmpty
  | .tag mask all => if all then c.tags &&& mask == mask else c.tags &&& mask != 0
  | .job a b => (jobIds a b).any (fun i => decide (c.jobStatus i ≠ 0))
  | .fullEmpty | .barrier | .twait | .ring _ | .ctalloc | .signal | .lane => m.reply.isSome

/-- STRAND_WAKE (R251, R252): a parked strand whose wait has ended becomes eligible and continues inside its parked instruction; strands of a relocking die
keep their waits (R441). -/
def execStrandWake (r : StrandRef) (s : State) : Out :=
  let m := s.strandOf r
  match m.status with
  | .parked w =>
    if m.live && !m.dying && (s.coreAt r.core).saved.isNone && !s.relocking r.core && s.waitOver r w then
      .next (s.modStrand r.core r.slot (fun x => { x with status := .ready }))
    else .next s
  | _ => .next s

end Sys2Proof.Machine
end

