-- ==== Sys2Proof/Machine/Debug.lean ====
section
/-! DEFINITION. Privileged system operations (R142, R143), debug stops (R432, R433), dumps (R408 to R410) and sampling (R435, R436). -/

namespace Sys2Proof.Machine

/-! Stops and resumes. -/

/-- The core that a `sysop` names, if it exists and lies in the strand's saggar (R142). -/
def State.sysopCore (s : State) (a : Word) : Option Nat :=
  if a.toNat < Config.cores && s.inSaggar s.me.sag (clusterOf a.toNat) then some a.toNat else none

/-- `sysop.tlbinv` (R142, R143, R395): at once in every TLB; logged with compositor 255. -/
def execSysopTlbinv (o : FmtTwo) (s : State) : Out :=
  checked s.me.priv false (srcOk o.x o.a && srcOk o.y o.b) s (fun s => readSrc 0 o.a o.x s (fun a s => readSrc 1 o.b o.y s (fun b s =>
    let g := s.me.sag
    let t := if b = 0 then s.tlbInvalidate g 0 (2 ^ 64) else s.tlbInvalidate g a.toNat (a.toNat + b.toNat)
    complete (t.logEdit g a.toNat b.toNat 255 1 0))))

/-- `sysop.stopcore` (R142, R143): it completes once the core is stopped at an instruction boundary of every strand. DESIGN CHOICE (log 112): a core whose
stop is still under way is waited for, and a resume that cancels the stop first completes the instruction with 0. -/
def execSysopStopcore (o : FmtUn) (s : State) : Out :=
  checked s.me.priv false (srcOk o.x o.a && dstOk o.d) s (fun s =>
    if s.me.stage = 1 then (if s.quiet (s.me.work.headD 0) || !(s.coreAt (s.me.work.headD 0)).stopped then finish o.d 0 s else hold s)
    else withDst o.d s (fun s => readSrc 0 o.a o.x s (fun a s =>
      match s.sysopCore a with
      | none => finish o.d 2 s
      | some c =>
        if c = s.core then finish o.d 3 s
        else if s.isStopped c then finish o.d 1 s
        else
          let t := s.stopCore c
          if t.quiet c then finish o.d 0 t else hold (t.modMe (fun m => { m with stage := 1, work := [c] })))))

/-- `sysop.resumecore` (R142). DESIGN CHOICE (log 112): of a core whose stop is still under way it cancels the stop and answers 0. -/
def execSysopResumecore (o : FmtUn) (s : State) : Out :=
  checked s.me.priv false (srcOk o.x o.a && dstOk o.d) s (fun s => withDst o.d s (fun s => readSrc 0 o.a o.x s (fun a s =>
    match s.sysopCore a with
    | none => finish o.d 2 s
    | some c => if (s.coreAt c).stopped then finish o.d 0 (s.resumeCore c) else finish o.d 1 s)))

/-- DEBUG_STOP (R432, R433): DCTL.REQ is written with 1. -/
def execDebugStop (core : Nat) (s : State) : Out := .next (s.stopCore core)

/-- DEBUG_RESUME (R432, R433): DCTL.REQ is written with 0. -/
def execDebugResume (core : Nat) (s : State) : Out := .next (s.resumeCore core)

/-- DCTL as the compositors read it: STOPPED once every strand is stopped, REQ as 0 (R6, R432). -/
def State.dctlRead (s : State) (c : Nat) : Word :=
  ((s.coreAt c).dctl &&& 0xFE0) ||| (if s.isStopped c then 2 else 0)

/-- REGISTER_WRITE (R6, R362, R432): register 0 is DCTL of core `unit`, register 1 its EBUD; every other is read-only to the writer, and the write
is ignored. -/
def execRegisterWrite (reg unit : Nat) (w : Word) (s : State) : Out :=
  if Config.cores ≤ unit then .next s
  else
    match reg with
    | 0 =>
      let t := s.modCore unit (fun c => { c with dctl := mergeBits c.dctl w 0xFE0 })
      .next (if w.getLsbD 0 then t.stopCore unit else t.resumeCore unit)
    | 1 => .next (s.modCore unit (fun c => { c with ebud := clampEbud w }))
    | _ => .next s

/-! Dumps (R408 to R410). -/

/-- The slots that a dump lists: live ones, and those whose last strand a trap has ended (R404, R409). -/
def Core.dumpSlots (c : Core) : List Nat := (List.range 16).filter (fun k => (c.slotAt k).live || (Tbl.find c.endRec k).isSome)

/-- A mask of slots. -/
def slotMask (l : List Nat) : Nat := l.foldl (fun n k => n + 2 ^ k) 0

/-- A queue in the core block. -/
def Queue.report (q : Queue) : Word :=
  let b := match q.bound with | some (w, r) => w * 2 ^ 4 + r * 2 ^ 8 + 2 ^ 12 | none => 0
  word (q.entries.length + b)

/-- The 80 dwords of the core block (R408). -/
def Core.dumpBlock (c : Core) (core nstore : Nat) : List Word :=
  let parked := c.liveSlots.filter (fun k => match (c.slotAt k).status with | .parked _ => true | _ => false)
  [word c.stopTime, coreReg core, word (slotMask c.dumpSlots + slotMask parked * 2 ^ 16), c.tags, word nstore, 0, 0, 0] ++
  (List.range 8).map (fun k => (c.queue k).report) ++
  (List.range 8).flatMap (fun k => (List.range 8).map (fun j => (c.queue k).entries.getD j 0))

/-- The status byte pair of a strand record; `out` says that a full replay queue or an unsent access keeps the strand out of the rotation (R175, R177, R409). -/
def Strand.dumpState (m : Strand) (out : Bool) : Nat :=
  match m.status with
  | .ready => if out then 2 * 2 ^ 4 else 0
  | .parked w => 2 ^ 4 + w.row * 2 ^ 8
  | .out | .held => 2 * 2 ^ 4

/-- Whether a strand that waits for nothing of its own is out of the rotation all the same: its access must enter a full replay queue (R175) or waits for a
request (R177), it stands at a re-negotiation point behind its lane loads (R151), or its next instruction cannot be fetched yet (R412, R419, R440). -/
def State.outside (s : State) (core k : Nat) : Bool :=
  let m := s.strandAt core k
  m.jammed || s.sending core k || (m.rnWait && m.shrink.isSome && decide (m.laneLoads ≠ 0)) || State.fetchWaits { s with core := core, slot := k }

/-- The 64 dwords of a strand record (R409). -/
def Strand.dumpRec (m : Strand) (slot : Nat) (out : Bool) : List Word :=
  let full := m.sFull.toNat + m.woFull.toNat * 2 ^ 32
  [m.pc, word (slot + m.dumpState out), m.st, m.epc, m.ecause, m.eaddr, m.istate0, m.istate1] ++ (List.range 32).map m.sreg ++ (List.range 8).map m.woreg ++
  [word full] ++ (List.range 3).map m.lcAt ++ (List.range 3).map m.lbAt ++ (List.range 3).map m.leAt ++
  [word m.ctx, word m.tspace, m.grp.reg, word m.seq, word m.pend, word m.vl]

/-- The mesh-local address of an on-chip location (R269). -/
def meshOf (loc : Nat) : Nat :=
  let off := loc % 2 ^ 60
  if spaceOf loc = 4 then Addr.named (.scratch (off / 2 ^ 18) (off % 2 ^ 18)) else Addr.named (.slice (off / 2 ^ 21) (off % 2 ^ 21))

/-- The writes a message stands for: address, data, log2 of the size, and whether it is a non-returning update. -/
def Msg.writes (m : Msg) : List (Nat × Nat × Nat × Bool) :=
  let log := fun (n : Nat) => if n = 1 then 0 else if n = 2 then 1 else if n = 4 then 2 else 3
  match m.body with
  | .store bs => [(m.va, ofBytes bs, log bs.length, false)]
  | .bits v _ _ => [(m.va, v.toNat, 2, false)]
  | .fe .fill d | .fe .force d => [(m.va, d.toNat, 3, false)]
  | .atomic _ b _ ret => if ret then [] else [(m.va, b.toNat % 2 ^ (8 * m.size), log m.size, true)]
  | .put d _ => [(m.va, d.toNat, 3, true)]
  | .mput d ds => ds.map (fun x => (meshOf x.1, d.toNat, 3, true))
  | _ => []

/-- A store record (R410). -/
def storeRec (m : Msg) (w : Nat × Nat × Nat × Bool) (parked : Option ReplayWhy) : List Word :=
  let kind := match parked with | some _ => 0 | none => if w.2.2.2 then 2 else 1
  let why := match parked with | some .writeProtect => 1 | some .dirtyLog => 2 | some .cellFull => 3 | none => 0
  [word w.1, word w.2.1, word (m.slot + w.2.2.1 * 2 ^ 8 + kind * 2 ^ 16 + m.ctx % 65536 * 2 ^ 32), word why]

/-- The store records of a list of messages: the two masked writes of one element have one (R410). -/
def storeRecsOf (ms : List Msg) (parked : Option ReplayWhy) : List (List Word) :=
  ms.flatMap (fun m =>
    match m.body with
    | .bits _ _ true =>
      if ms.any (fun x => decide (x.id + 1 = m.id) && (match x.body with | .bits _ _ b => !b | _ => false)) then [] else m.writes.map (fun w => storeRec m w parked)
    | .bits v _ false =>
      match ms.find? (fun x => decide (x.id = m.id + 1) && (match x.body with | .bits _ _ b => b | _ => false)) with
      | some x => [storeRec m (m.va, v.toNat + (match x.body with | .bits y _ _ => y.toNat | _ => 0) * 2 ^ 32, 3, false) parked]
      | none => m.writes.map (fun w => storeRec m w parked)
    | _ => m.writes.map (fun w => storeRec m w parked))

/-- The record of a write in a die's pending-write buffer (R292, R410). -/
def PendWrite.storeRec (w : PendWrite) : List Word :=
  let log := if w.bytes.length = 1 then 0 else if w.bytes.length = 2 then 1 else if w.bytes.length = 4 then 2 else 3
  [word w.va, word (ofBytes w.bytes), word (w.slot + log * 2 ^ 8 + 2 ^ 16), 0]

/-- The store records of a core: what its replay queue holds, then what is in flight, what waits at a home, and what is on its way through its die's buffer
or sent to a peer and not yet performed there (R286, R292, R410). -/
def State.storeRecs (s : State) (core : Nat) : List (List Word) :=
  (s.coreAt core).replay.flatMap (fun r => storeRecsOf r.msgs (some r.why)) ++
  storeRecsOf (s.net.filter (fun m => m.core = core)) none ++
  storeRecsOf ((s.waiters.filter (fun w => w.msg.core = core)).map (·.msg)) none ++
  ((s.portWrites (dieOf (clusterOf core))).filter (fun w => w.core = core && w.slot < 16)).map PendWrite.storeRec

/-- The whole dump of a core, dword by dword. -/
def State.dumpWords (s : State) (core : Nat) : List Word :=
  let c := s.coreAt core
  let recs := s.storeRecs core
  c.dumpBlock core recs.length ++ c.dumpSlots.flatMap (fun k => (c.slotAt k).dumpRec k (s.outside core k)) ++ recs.flatMap id

/-- Checks every dword of a run of stores before any is sent. -/
def storePlaces : List (Nat × Word) → Word → List (Place × Nat × Body) → State → (List (Place × Nat × Body) → State → Out) → Out
  | [], _, acc, s, k => k acc.reverse s
  | e :: t, a, acc, s, k =>
    access .store (a + word (8 * e.1)) 8 8 (fun _ => true) s (fun p s => storePlaces t a ((p, 8, .store (toBytes 8 e.2.toNat)) :: acc) s k)

/-- `sysop.dump` (R142, R143, R408): the record is stored dword by dword at b in the strand's context, after a release at device scope; the
instruction completes once it has been performed. A record that runs beyond the end of its space is a BAD_ADDRESS of b (R271). -/
def execSysopDump (o : FmtA) (s : State) : Out :=
  checked s.me.priv false (srcOk o.x o.a && srcOk o.y o.b && dstOk o.d) s (fun s =>
    if s.me.stage = 1 then releasing 2 s (finish o.d 0)
    else ordered s (fun s => withDst o.d s (fun s => two o s (fun a b s =>
      match s.sysopCore a with
      | none => finish o.d 2 s
      | some c =>
        if !s.isStopped c then finish o.d 1 s
        else releasing 2 s (fun s =>
          let ws := s.dumpWords c
          if (resolve s (clusterOf s.core) s.me.sag b (8 * ws.length)).isNone then trap .badAddress b s
          else storePlaces ((List.range ws.length).zip ws) b [] s (fun ps s =>
            sendAll s.tagFor 1 ps s (fun s => hold (s.modMe (fun m => { m with stage := 1 })))))))))

/-! Sampling (R435, R436). -/

/-- The first multiple of 100 at or above n. -/
def hundredUp (n : Nat) : Nat := (n + 99) / 100 * 100

/-- The state code of a slot in a sample (R435). -/
def State.sampleCode (s : State) (core k : Nat) : Nat :=
  if s.relocking core then 14
  else if s.isStopped core then 13
  else match (s.strandAt core k).status with | .ready => if s.outside core k then 12 else 0 | .parked w => w.row | .out | .held => 12

/-- The entries of a core's slots in a sample, given the last pc written before (R436). -/
def sampleSlots : Option Word → List (Word × Nat) → List Byte
  | _, [] => []
  | last, (pc, code) :: t =>
    if last = some pc then BitVec.ofNat 8 (code + 16) :: sampleSlots last t
    else BitVec.ofNat 8 code :: (toBytes 7 (bitsOf pc 1 56) ++ sampleSlots (some pc) t)

/-- A core's entry in a sample: live-slot mask and slots (R436). A pre-empted core has no live strand. -/
def State.sampleCore (s : State) (core : Nat) : List (Nat × Word × Nat) :=
  let c := s.coreAt core
  if c.saved.isSome then [] else c.liveSlots.map (fun k => (k, (c.slotAt k).pc, s.sampleCode core k))

/-- A record of the sampling ring as it is laid out (R436): T, the cores in the body, the body's length, and one entry per core; a core with no live slot
takes two bytes. -/
def SampleRec.bytes (r : SampleRec) : List Byte :=
  let body := (List.range Config.cores).flatMap (fun c => Tbl.get r.body c [0, 0])
  toBytes 8 r.time ++ toBytes 4 Config.cores ++ toBytes 4 body.length ++ body

/-- The pulse, once its TIME has come: every core latches its slots, and one record is written (R435, R436). Cores that the record does not list have no
live slot. -/
def State.latchPulse (s : State) : State :=
  match s.pulse with
  | some t =>
    if s.time < t then s
    else
      let latched := s.cores.map (fun c => (c.1, s.sampleCore c.1))
      let body := (latched.filter (fun c => !c.2.isEmpty)).map (fun c =>
        (c.1, toBytes 2 (slotMask (c.2.map (·.1))) ++ sampleSlots none (c.2.map (·.2))))
      { s with
        pulse := none, sampleRing := s.sampleRing ++ [⟨t, body⟩],
        cores := s.cores.map (fun c => (c.1, { c.2 with sampled := s.sampleCore c.1 })) }
  | none => s

/-- SAMPLE_PULSE (R435, R436). -/
def execSamplePulse (s : State) : Out := .next s.latchPulse

/-- `sysop.sample` (R142, R435): issued before the TIME of a pending pulse it returns that pulse's; at or after it the pulse has been, and a new one starts. -/
def execSysopSample (o : FmtDst) (s : State) : Out :=
  checked s.me.priv false (dstOk o.d) s (fun s => withDst o.d s (fun s =>
    let t := s.latchPulse
    match t.pulse with
    | some p => finish o.d (word p) t
    | none => finish o.d (word (hundredUp (t.time + 2000))) { t with pulse := some (hundredUp (t.time + 2000)) }))

end Sys2Proof.Machine
end

