-- ==== Sys2Proof/Machine/Galley.lean ====
section
/-! DEFINITION. The Galley and the Cones (R226 to R232, R303 to R321): tabled calls, answers, groups, merges, completion, failure and
continuation invocations. -/

namespace Sys2Proof.Machine

/-! Homes, handles and storage (R305, R306, R318, R319). -/

/-- The hash of a key (R305). -/
def keyHash (space : Nat) (pc : Word) (args : List Word) (nargs aw : Nat) : Word :=
  let a := fun i => if i < nargs then args.getD i 0 else 0
  word space ^^^ rotl pc 13 ^^^ rotl (a 0) 29 ^^^ rotl (a 1) 41 ^^^ rotl (a 2) 53 ^^^ word (nargs * 4 + aw)
/-- The saggar's cluster number and the bank that are a key's home. -/
def Saggar.keyHome (g : Saggar) (h : Word) : Nat × Nat := (bitsOf h 0 32 % max g.size 1, bitsOf h 32 4)
/-- The blocks of a bank's share (R306, R318). -/
def Saggar.galleyShare (g : Saggar) : Nat := bitsOf g.part 5 5 * 65536 / 16 / 64 + g.cfg.galleyGib * 2 ^ 30 / 64 / (16 * max g.size 1)
/-- The handle that an operand holds. -/
def handleOf (w : Word) : Nat := bitsOf w 24 40
/-- The cluster and bank of a handle, as one number. -/
def handleBank (h : Nat) : Nat := h / 2 ^ 27
/-- Whether a handle is malformed (R306). -/
def Saggar.badHandle (g : Saggar) (h : Nat) : Bool := decide (g.size ≤ h / 2 ^ 31) || decide (g.galleyShare ≤ h / 2 ^ 8 % 2 ^ 19)
/-- The entry a handle names. -/
def Saggar.entryAt (g : Saggar) (h : Nat) : Option Entry := g.entries.find? (fun e => e.handle = h)
/-- Changes the entry a handle names. -/
def Saggar.modEntry (g : Saggar) (h : Nat) (f : Entry → Entry) : Saggar := { g with entries := modIf g.entries (fun e => e.handle = h) f }
/-- Changes an entry of a saggar. -/
def State.modEntry (s : State) (sag h : Nat) (f : Entry → Entry) : State := s.modSag sag (fun g => g.modEntry h f)
/-- An entry is used (R319). -/
def Saggar.touch (g : Saggar) (h : Nat) : Saggar := { g.modEntry h (fun e => { e with used := g.stamp }) with stamp := g.stamp + 1 }

/-- Entries that a bank can name: its blocks, as far as SLOT reaches (R306, log 99). -/
def Saggar.slotLimit (g : Saggar) : Nat := min g.galleyShare (2 ^ 19)
/-- Entries of a bank. -/
def Saggar.bankEntries (g : Saggar) (bank : Nat) : List Entry := g.entries.filter (fun e => handleBank e.handle = bank)

/-- Invocations of an entry that are queued, or hold room until their Cone has counted them (R318, R319). -/
def Saggar.queuedOf (g : Saggar) (e : Entry) : Nat := (g.invokes.filter (fun i => i.entry = e.handle)).length + e.due
/-- Blocks of an entry with a number of answers, continuations and queued invocations (R318). -/
def blocksFor (aw answers conts queued : Nat) : Nat :=
  1 + (answers + (if aw = 2 then 3 else 7)) / (if aw = 2 then 4 else 8) + (conts + queued + 3) / 4
/-- Blocks an entry would take with a number of answers and of further registrations, those that wait for a merge among them (R318, R319). -/
def Saggar.blocksWith (g : Saggar) (e : Entry) (answers more : Nat) : Nat :=
  blocksFor e.aw answers (e.conts.length + e.merging + more) (g.queuedOf e + (e.merging + more) * answers + e.conts.length * (answers - e.answers.length))
/-- Blocks an entry takes. -/
def Saggar.blocksOf (g : Saggar) (e : Entry) : Nat := g.blocksWith e e.answers.length 0
/-- Blocks in use in a bank. -/
def Saggar.blocksUsed (g : Saggar) (bank : Nat) : Nat := ((g.bankEntries bank).map g.blocksOf).foldl (· + ·) 0

/-- Makes room for n more blocks in a bank (R319): complete entries that hold no pin go, least recently used first, until there is room or none is left;
and whether there is. -/
def Saggar.makeRoom (bank n : Nat) : Nat → Saggar → Bool × Saggar
  | 0, g => (decide (g.blocksUsed bank + n ≤ g.galleyShare), g)
  | fuel + 1, g =>
    if g.blocksUsed bank + n ≤ g.galleyShare then (true, g)
    else
      let cand := (g.bankEntries bank).filter (fun e => decide (e.st = .complete) && decide (e.pins = 0))
      match (cand.map (·.used)).min? with
      | none => (false, g)
      | some u =>
        match cand.find? (fun e => e.used = u) with
        | some e => Saggar.makeRoom bank n fuel { g.evict e.handle with counters := { g.counters with lruEvict := wrap1 g.counters.lruEvict } }
        | none => (false, g)

/-- Makes room in a bank of a saggar for n more blocks: whether there is, and the state after the evictions, which stand in either case (R319). -/
def State.roomFor (s : State) (sag bank n : Nat) : Bool × State :=
  match s.sagAt sag with
  | some g =>
    if n = 0 then (true, s) else
    let r := Saggar.makeRoom bank n (g.entries.length + 1) g
    (r.1, { s with saggars := Tbl.put s.saggars sag r.2 })
  | none => (false, s)

/-! Groups (R309 to R312). -/

/-- The record of a group. -/
def State.group (s : State) (g : Grp) : Option Group := Tbl.find (s.dieAt g.die).cone g.ser
/-- Changes the record of a group. -/
def State.modGroup (s : State) (g : Grp) (f : Group → Group) : State :=
  match s.group g with
  | some x => s.modDie g.die (fun d => { d with cone := Tbl.put d.cone g.ser (f x) })
  | none => s
/-- The groups of the device. -/
def State.allGroups (s : State) : List Grp := s.dies.flatMap (fun d => d.2.cone.map (fun e => ⟨d.1, e.1⟩))
/-- The root of a group, along its parents. -/
def State.rootGo (s : State) : Nat → Grp → Grp
  | 0, g => g
  | n + 1, g => match s.group g with | some x => if x.parent = g then g else s.rootGo n x.parent | none => g
/-- The root of a group. -/
def State.rootOf (s : State) (g : Grp) : Grp := s.rootGo (s.allGroups.length + 1) g
/-- Whether two groups have the same root; no group shares a root with none. -/
def State.sameRoot (s : State) (a b : Grp) : Bool := decide (a.ser ≠ 0) && decide (b.ser ≠ 0) && decide (s.rootOf a = s.rootOf b)
/-- Whether the root of a group is evaluating. -/
def State.groupOpen (s : State) (g : Grp) : Bool := match s.group (s.rootOf g) with | some x => decide (x.st = .evaluating) | none => false
/-- Whether (DIE, SER) of a is below that of b. -/
def Grp.before (a b : Grp) : Bool := decide (a.die < b.die) || (decide (a.die = b.die) && decide (a.ser < b.ser))

/-- The groups a Cone message names. -/
def ConeMsg.groups : ConeMsg → List Grp
  | .inc g _ v => [g, v.cont.grp]
  | .ack _ v => [v.cont.grp]
  | .dec g _ => [g]
  | .merge g e _ _ => [g, e]
  | .fail g _ => [g]
  | .complete _ _ g | .failed _ _ g => [g]
/-- Whether something but another group still names a group: a strand, an entry, a continuation, an invocation or a message (R309). -/
def State.groupUsed (s : State) (x : Grp) : Bool :=
  s.liveStrands.any (fun r => decide ((s.strandOf r).grp = x) || (match (s.strandOf r).invoc with | some v => decide (v.grp = x) | none => false)) ||
  s.saggars.any (fun g => g.2.entries.any (fun e => decide (e.grp = x) || decide (e.caller = x) || e.conts.any (fun c => decide (c.grp = x))) ||
    g.2.invokes.any (fun v => decide (v.cont.grp = x))) ||
  s.cone.any (fun m => m.groups.contains x) ||
  s.net.any (fun m => match m.body with | .tcall _ _ _ _ _ c => decide (c.grp = x) | .tans _ _ _ g _ => decide (g = x) | _ => false)
/-- Whether a group's record is still needed: it is named, or a record that is needed forwards to it (R309). -/
def State.groupNeeded (s : State) : Nat → Grp → Bool
  | 0, x => s.groupUsed x
  | n + 1, x => s.groupUsed x ||
    s.allGroups.any (fun g => decide (g ≠ x) && (match s.group g with | some y => decide (y.parent = x) | none => false) && s.groupNeeded n g)
/-- Whether a group's record may not be freed. -/
def State.groupNamed (s : State) (x : Grp) : Bool := s.groupNeeded s.allGroups.length x
/-- Frees the records of a die's Cone whose groups have ended and that nothing names (R309). -/
def State.freeGroups' (s : State) (die : Nat) : State :=
  s.modDie die (fun d => { d with cone := d.cone.filter (fun e => !(!s.groupOpen ⟨die, e.1⟩ && !s.groupNamed ⟨die, e.1⟩)) })

/-- The entries of a root that a bank of a saggar holds. -/
def State.entriesOf (s : State) (sag bank : Nat) (root : Grp) : List Entry :=
  match s.sagAt sag with
  | some g => (g.bankEntries bank).filter (fun e => decide (e.st = .evaluating) && decide (s.rootOf e.grp = root))
  | none => []
/-- Marks a root and every group under it, and sends a notice to every home that holds an evaluating entry of them (R312, R315). -/
def State.endGroup (s : State) (root : Grp) (st : GState) (note : Nat → Nat → Grp → ConeMsg) : State :=
  let under := s.allGroups.filter (fun g => decide (s.rootOf g = root))
  let notes := s.saggars.flatMap (fun g =>
    ((g.2.entries.filter (fun e => decide (e.st = .evaluating) && under.contains e.grp)).map (fun e => handleBank e.handle)).eraseDups.map (fun b => note g.1 b root))
  let t := under.foldl (fun (t : State) g => t.modGroup g (fun x => { x with st := st })) s
  { t with cone := t.cone ++ notes }

/-! Invocations (R228, R310). -/

/-- Counts an invocation for its group, and queues it once its Cone has acknowledged; one that counts in no group is queued at once. -/
def State.invoke (s : State) (sag : Nat) (v : Invoke) : State :=
  if v.counted then { s.modEntry sag v.entry (fun e => { e with due := e.due + 1 }) with cone := s.cone ++ [.inc v.cont.grp sag v] }
  else s.modSag sag (fun g => { g with invokes := g.invokes ++ [v] })
/-- An invocation no longer waits for its Cone: it is queued, or has been dropped. -/
def State.counted (s : State) (sag : Nat) (v : Invoke) : State := s.modEntry sag v.entry (fun e => { e with due := e.due - 1 })
/-- The invocation of a continuation for an answer. -/
def invokeOf (c : Cont) (h : Nat) (a : Word × Word) : Invoke := ⟨c, a.1, a.2, none, h, decide (c.grp.ser ≠ 0)⟩

/-- The state of a `tcall`'s registrant as its continuation inherits it. -/
def State.contOf (s : State) (kpc : Word) (saves : List Word) : Cont :=
  let m := s.me
  ⟨s.core, kpc, saves, m.grp, m.ctx, m.tspace, m.tvec, m.heapb, m.heapl, m.heapo, word (bitsOf m.st 0 2), m.priv, m.task⟩

/-! Instructions at the strand. -/

/-- Refuses an instruction inside a speculative task or an inverse routine (R339, R347). SPEC_ROLE's EADDR is stated by no rule there (log 1). -/
def outsideSpec (s : State) (k : State → Out) : Out := if s.me.stage = 0 && s.me.spec.isSome then trapFree .specRole s else k s

/-- The first broken limit of a call record (R226). -/
def callLimits (r : List Word) : Option Nat :=
  let pc := r.getD 0 0
  let narg := recBits r 32 1
  let aw := recBits r 33 1
  (([(pc = 0 || pc.getLsbD 0, 0), (narg = 0 || 3 < narg, 32), (aw = 0 || 2 < aw, 33), (recBits r 34 6 ≠ 0, 34), ((r.getD 5 0).getLsbD 0, 40)] : List (Bool × Nat)).find? (·.1)).map (·.2)

/-- `tcall` (R226). -/
def execTcall (o : FmtUn) (s : State) : Out :=
  plain (srcOk o.x o.a && dstOk o.d) s (fun s => outsideSpec s (fun s => ordered s (fun s => withDst o.d s (fun s => readSrc 0 o.a o.x s (fun a s =>
    readRecord 1 a 9 s (fun r s =>
      match callLimits r with
      | some off => trap .tableKey (a + word off) s
      | none =>
        let n := recBits r 32 1
        let aw := recBits r 33 1
        match s.sagAt s.me.sag with
        | none => .next s
        | some g =>
          let args := (List.range 3).map (fun i => if i < n then r.getD (1 + i) 0 else 0)
          let home := g.keyHome (keyHash s.me.tspace (r.getD 0 0) args n aw)
          let cont := s.contOf (r.getD 5 0) [r.getD 6 0, r.getD 7 0, r.getD 8 0]
          awaitReply o.d.toNat (s.post 1 0 0 0 0 ⟨.galley, g.clusterNo home.1, home.2⟩
            (.tcall s.me.tspace (r.getD 0 0) args n aw cont))))))))

/-- Whether a message is a `tans` of strand u. -/
def Msg.tansOf (m : Msg) (u : Nat) : Bool := decide (m.uid = u) && (match m.body with | .tans .. => true | _ => false)
/-- Whether a `tans` of strand u is not yet applied. -/
def State.tansOut (s : State) (u : Nat) : Bool := s.net.any (fun m => m.tansOf u)
/-- Whether an increment for a root has not been applied and acknowledged (R310). -/
def State.incOut (s : State) (root : Grp) : Bool :=
  s.cone.any (fun m => match m with | .inc g _ _ => decide (s.rootOf g = root) | .ack _ v => decide (s.rootOf v.cont.grp = root) | _ => false)

/-- Raises TABLE_HANDLE for a malformed handle (R232, R306). -/
def withHandle (w : Word) (s : State) (k : Saggar → Nat → State → Out) : Out :=
  match s.sagAt s.me.sag with
  | some g => if g.badHandle (handleOf w) then trap .tableHandle (word (handleOf w)) s else k g (handleOf w) s
  | none => .next s

/-- `tans` (R229). TABLE_ROLE's EADDR for a strand without a group is stated by no rule (log 1). DESIGN CHOICE (log 131):
TABLE_ROLE for such a strand comes before TABLE_HANDLE. -/
def execTans (o : FmtA) (s : State) : Out :=
  plain (srcOk o.x o.a && decide (o.b.toNat ≤ 30) && dstOk o.d) s (fun s => outsideSpec s (fun s => ordered s (fun s => withDst o.d s (fun s =>
    if o.d.toNat = 56 && !s.pendRoom then hold s
    else two o s (fun a b s => readSrc 2 (o.b + 1) o.y s (fun b1 s =>
      if s.me.grp.ser = 0 then trapFree .tableRole s
      else withHandle a s (fun g h s => releasing 2 s (fun s =>
        let ret := decide (o.d.toNat ≠ 56)
        let t := s.post 1 0 0 0 0 ⟨.galley, g.clusterNo (h / 2 ^ 31), h / 2 ^ 27 % 16⟩ (.tans h b b1 s.me.grp ret)
        if ret then awaitReply o.d.toNat t else complete t.addPend))))))))

/-- `tret` (R230). -/
def execTret (o : FmtSrc) (s : State) : Out :=
  plain (srcOk o.x o.a) s (fun s => outsideSpec s (fun s => readSrc 0 o.a o.x s (fun a s => withHandle a s (fun g h s =>
    match g.entryAt h with
    | some e =>
      if e.st ≠ .evaluating || e.uid ≠ s.me.uid then trapFree .tableRole s
      else if s.tansOut s.me.uid || s.incOut (s.rootOf e.grp) then hold s
      else
        let t := (s.modEntry s.me.sag h (fun e => { e with uid := 0 })).modMe (fun m => { m with grp := e.caller, bodies := m.bodies.filter (· ≠ h) })
        complete { t with cone := t.cone ++ [.dec e.grp s.me.uid] }
    | none => trapFree .tableRole s))))

/-- `tend` (R231): the decrement goes to the Cone with the end of the strand. -/
def execTend (s : State) : Out :=
  plain true s (fun s =>
    let m := s.me
    let open_ := match s.sagAt m.sag with | some g => g.entries.any (fun e => decide (e.st = .evaluating) && decide (e.uid = m.uid)) | none => false
    if m.invoc.isNone || open_ then trapFree .tableRole s
    else if m.laneLoads ≠ 0 || s.tansOut m.uid then hold s
    else .next (s.endStrand s.core s.slot false))

/-- The result of a completed entry for a caller that takes a pin: the count in [19:4]. -/
def Entry.countField (e : Entry) : Nat := e.answers.length % 65536 * 16

/-- `twait` (R232, R313). -/
def execTwait (o : FmtUn) (s : State) : Out :=
  plain (srcOk o.x o.a && dstOk o.d) s (fun s => ordered s (fun s => withDst o.d s (fun s => readSrc 0 o.a o.x s (fun a s =>
    withHandle a s (fun g h s =>
      match g.entryAt h with
      | none => finish o.d 3 s
      | some e =>
        let s := s.modSag s.me.sag (fun g => g.touch h)
        if s.sameRoot e.grp s.me.grp then finish o.d 2 s
        else
          match e.st with
          | .complete =>
            if 65535 ≤ e.pins then finish o.d 3 s
            else finish o.d (word e.countField) (s.modEntry s.me.sag h (fun e => { e with pins := e.pins + 1 }))
          | .failed => finish o.d 1 s
          | .evaluating =>
            let who := s.myRef
            let uid := s.me.uid
            park .twait ((s.modEntry s.me.sag h (fun e => { e with waiters := e.waiters ++ [(who, uid)] })).modMe (fun m => { m with stage := 9, work := [o.d.toNat] })))))))

/-- `tnext.next` (R232). -/
def execTnextNext (o : FmtA) (s : State) : Out :=
  plain (srcOk o.x o.a && srcOk o.y o.b && decide (o.d.toNat ≤ 29)) s (fun s =>
    if (List.range 3).any (fun i => s.me.owes (o.d.toNat + i)) then hold s
    else two o s (fun a b s => withHandle a s (fun g h s =>
      match g.entryAt h with
      | some e =>
        if e.st ≠ .complete || e.pins = 0 then trap .tableHandle (word h) s
        else
          let ans := match e.answers[b.toNat]? with | some x => [x.1, x.2, 1] | none => [0, 0, 0]
          complete ((s.modSag s.me.sag (fun g => g.touch h)).modMe (fun m =>
            (List.range 3).foldl (fun (m : Strand) i => m.setS (o.d.toNat + i) (ans.getD i 0)) m))
      | none => trap .tableHandle (word h) s)))

/-- An entry that is to be abolished goes once it is complete without a pin (R232). -/
def Saggar.sweep (g : Saggar) (h : Nat) : Saggar :=
  match g.entryAt h with
  | some e => if e.abolish && decide (e.st = .complete) && decide (e.pins = 0) then g.evict h else g
  | none => g

/-- `tnext.close` (R232). -/
def execTnextClose (o : FmtSrc) (s : State) : Out :=
  plain (srcOk o.x o.a) s (fun s => readSrc 0 o.a o.x s (fun a s => withHandle a s (fun g h s =>
    match g.entryAt h with
    | some e =>
      if e.st ≠ .complete || e.pins = 0 then trap .tableHandle (word h) s
      else complete (s.modSag s.me.sag (fun g => ((g.touch h).modEntry h (fun e => { e with pins := e.pins - 1 })).sweep h))
    | none => trap .tableHandle (word h) s)))

/-- `tabol` (R232). -/
def execTabol (o : FmtUn) (s : State) : Out :=
  plain (srcOk o.x o.a && dstOk o.d) s (fun s => withDst o.d s (fun s => readSrc 0 o.a o.x s (fun a s =>
    match s.sagAt s.me.sag with
    | none => .next s
    | some g =>
      let mine := fun (e : Entry) => decide (a = BitVec.allOnes 64) || decide (e.space = bitsOf a 0 12)
      let now := g.entries.filter (fun e => mine e && decide (e.st = .complete) && decide (e.pins = 0))
      let t := s.modSag s.me.sag (fun g =>
        now.foldl (fun (g : Saggar) e => g.evict e.handle) { g with entries := modIf g.entries mine (fun e => { e with abolish := true }) })
      finish o.d (word now.length) t)))

/-- `tstat` (R232, R316). -/
def execTstat (o : FmtA) (s : State) : Out :=
  plain (srcOk o.x o.a && srcOk o.y o.b && dstOk o.d) s (fun s => withDst o.d s (fun s => two o s (fun a b s =>
    match s.sagAt s.me.sag with
    | none => .next s
    | some g =>
      match b.toNat with
      | 0 => withHandle a s (fun g h s =>
          match g.entryAt h with
          | none => finish o.d 3 s
          | some e =>
            let st := match e.st with | .evaluating => 0 | .complete => 1 | .failed => 2
            finish o.d (word (st + e.countField + (e.pins + e.failPins) % 65536 * 2 ^ 20)) (s.modSag s.me.sag (fun g => g.touch h)))
      | 1 => finish o.d (word g.counters.dropAns) s
      | 2 => finish o.d (word g.counters.lruEvict) s
      | 3 => finish o.d (word g.counters.softEvict) s
      | 4 => finish o.d (word g.counters.fullCount) s
      | _ => trap .illegalOperand s.curWord s)))

/-! At the home (R227, R229, R307). -/

/-- The answer to a `tcall`: handle, count field and status. -/
def tcallReply (h count status : Nat) : Word := word (h * 2 ^ 24 + count + status)
/-- FULL is answered and counted (R232). -/
def State.answerFull (s : State) (m : Msg) (h : Nat) : State :=
  (s.count m.sag (fun c => { c with fullCount := wrap1 c.fullCount })).replyTo m (tcallReply h 0 3)

/-- A continuation is registered on an entry, and invoked for each answer already present (R227). -/
def State.register (s : State) (sag h : Nat) (c : Cont) : State :=
  match (s.sagAt sag).bind (fun g => g.entryAt h) with
  | some e => e.answers.foldl (fun (t : State) a => t.invoke sag (invokeOf c h a)) (s.modEntry sag h (fun e => { e with conts := e.conts ++ [c] }))
  | none => s

/-- Room in an entry's bank for one more continuation and the invocations it starts with (R319). -/
def State.registerRoom (s : State) (sag : Nat) (e : Entry) : Bool × State :=
  match s.sagAt sag with
  | some g => s.roomFor sag (handleBank e.handle) (g.blocksWith e e.answers.length 1 - g.blocksOf e)
  | none => (false, s)

/-- The home decides a `tcall` (R227, R307, R311). A caller whose own root has ended is answered PENDING, whatever became of the entry's root, the same root
included (log 118). `blk` is the block that a new entry would take, and `ser` the serial of its group. -/
def State.tcallAt (s : State) (k : Nat) (m : Msg) (space : Nat) (pc : Word) (args : List Word) (nargs aw : Nat) (c : Cont) (blk ser : Nat) : State :=
  match s.sagAt m.sag with
  | none => s
  | some g =>
    match g.entries.find? (fun e => decide (e.space = space) && decide (e.pc = pc) && decide (e.nargs = nargs) && decide (e.aw = aw) && decide (e.args = args)) with
    | some e =>
      let s := s.modSag m.sag (fun g => g.touch e.handle)
      match e.st with
      | .complete =>
        if 65535 ≤ e.pins then (s.dropMsg k).answerFull m e.handle
        else ((s.dropMsg k).modEntry m.sag e.handle (fun e => { e with pins := e.pins + 1 })).replyTo m (tcallReply e.handle e.countField 0)
      | .failed => (s.dropMsg k).replyTo m (tcallReply e.handle 0 4)
      | .evaluating =>
        if c.kpc = 0 then (s.dropMsg k).replyTo m (tcallReply e.handle 0 5)
        else if c.grp.ser ≠ 0 && !s.groupOpen c.grp then (s.dropMsg k).replyTo m (tcallReply e.handle 0 5)
        else if c.grp.ser ≠ 0 && !s.groupOpen e.grp then s
        else
          match s.registerRoom m.sag e with
          | (false, s) => (s.dropMsg k).answerFull m e.handle
          | (true, s) =>
            if c.grp.ser = 0 || s.sameRoot c.grp e.grp then ((s.dropMsg k).register m.sag e.handle c).replyTo m (tcallReply e.handle 0 2)
            else { (s.dropMsg k).modEntry m.sag e.handle (fun e => { e with merging := e.merging + 1 }) with cone := s.cone ++ [.merge c.grp e.grp m e.handle] }
    | none =>
      let home := g.keyHome (keyHash space pc args nargs aw)
      let bank := home.1 * 16 + home.2
      let die := dieOf m.home.unit
      let slot := bank * 2 ^ 19 + blk
      let s := s.freeGroups' die
      if decide (Config.coneRecords ≤ (s.dieAt die).cone.length) || decide (2 ^ 19 ≤ (g.bankEntries bank).length) then (s.dropMsg k).answerFull m 0
      else
        match s.roomFor m.sag bank 1 with
        | (false, s) => (s.dropMsg k).answerFull m 0
        | (true, s) =>
          let taken := match s.sagAt m.sag with | some g => g.entries.any (fun e => decide (e.handle / 256 = slot)) | none => true
          if g.slotLimit ≤ blk || taken || ser = 0 || 2 ^ 30 ≤ ser || (s.group ⟨die, ser⟩).isSome then s
          else
            let grp : Grp := ⟨die, ser⟩
            let h := slot * 256 + (match s.sagAt m.sag with | some g => Tbl.get g.gens slot 0 | none => 0)
            let e : Entry := ⟨h, space, pc, nargs, aw, args, .evaluating, grp, c.grp, ⟨m.core, m.slot⟩, m.uid, [], [], 0, 0, g.stamp, 0, 0, false, []⟩
            let t := ((s.dropMsg k).modSag m.sag (fun g => { g with entries := g.entries ++ [e], stamp := g.stamp + 1 })).modDie die
              (fun d => { d with cone := Tbl.put d.cone ser ⟨grp, 1, .evaluating⟩ })
            let t := if s.alive m.core m.slot m.uid && !(s.strandAt m.core m.slot).dying then
                t.modStrand m.core m.slot (fun x => { x with grp := grp, bodies := x.bodies ++ [h] })
              else { t with cone := t.cone ++ [.fail grp m.uid] }
            t.replyTo m (tcallReply h 0 1)

/-- The end of a `tans` at its home: its reply, or the count in PEND given back; a TABLE_ROLE without a reply is counted (R229). -/
def State.tansEnd (s : State) (m : Msg) (ret : Bool) (r : Option Nat) (h : Nat) : State :=
  match r, ret with
  | some v, true => s.replyTo m (word v)
  | some _, false => s.answer m .update
  | none, true => s.answer m (.reply ⟨word h, [], Cause.tableRole.code⟩)
  | none, false => (s.count m.sag (fun c => { c with roleLost := wrap1 c.roleLost })).answer m .update

/-- Whether a strand's producer body of an entry is still open at the strand: its group failed if the entry has gone (R317). -/
def State.bodyOpen (s : State) (m : Msg) (h : Nat) : Bool := s.alive m.core m.slot m.uid && (s.strandAt m.core m.slot).bodies.contains h

/-- The home decides a `tans` (R229, R307, R317). An answer for which there is no room fails the entry with its group. -/
def State.tansAt (s : State) (m : Msg) (h : Nat) (w0 w1 : Word) (grp : Grp) (ret : Bool) : State :=
  let dropped := fun (s : State) => (s.count m.sag (fun c => { c with dropAns := wrap1 c.dropAns })).tansEnd m ret (some 2) h
  match (s.sagAt m.sag).bind (fun g => g.entryAt h) with
  | none => if s.bodyOpen m h then dropped s else s.tansEnd m ret none h
  | some e =>
    match e.st with
    | .failed => dropped s
    | .complete => s.tansEnd m ret none h
    | .evaluating =>
      if !s.sameRoot e.grp grp then s.tansEnd m ret none h
      else
        let a := (w0, if e.aw = 2 then w1 else 0)
        if e.answers.contains a then s.tansEnd m ret (some 1) h
        else
          let n := match s.sagAt m.sag with | some g => g.blocksWith e (e.answers.length + 1) 0 - g.blocksOf e | none => 0
          match (if 65535 ≤ e.answers.length then (false, s) else s.roomFor m.sag (handleBank h) n) with
          | (false, s) => dropped { s with cone := s.cone ++ [.fail e.grp 0] }
          | (true, s) =>
            let t := s.modEntry m.sag h (fun e => { e with answers := e.answers ++ [a] })
            (e.conts.foldl (fun (t : State) c => t.invoke m.sag (invokeOf c h a)) t).tansEnd m ret (some 0) h

/-- GALLEY_HOME_REQUEST (R227, R229, R303, R307, R308): the request at place k is decided by its home. -/
def execGalleyHomeRequest (k blk ser : Nat) (s : State) : Out :=
  match s.net[k]? with
  | some m =>
    if s.barred k m then .next s
    else
      match m.body with
      | .tcall space pc args nargs aw c => .next ((s.wakeHomes m).tcallAt k m space pc args nargs aw c blk ser)
      | .tans h w0 w1 grp ret => .next (((s.wakeHomes m).dropMsg k).tansAt m h w0 w1 grp ret)
      | _ => .next s
  | none => .next s

/-! At the Cones (R310 to R316). -/

/-- Removes the k-th message of the Cones. -/
def State.dropCone (s : State) (k : Nat) : State := { s with cone := dropAt s.cone k }

/-- Whether a failure is on its way to the Cone of a root: no decrement overtakes it (R314). -/
def State.failOut (s : State) (root : Grp) : Bool := s.cone.any (fun m => match m with | .fail g _ => decide (s.rootOf g = root) | _ => false)

/-- CONE_COUNT_UPDATE (R310, R312): an increment is counted and acknowledged; a decrement, once nothing it must follow is outstanding, may
complete the root. -/
def execConeCountUpdate (k : Nat) (s : State) : Out :=
  match s.cone[k]? with
  | some (.inc g sag v) =>
    let root := s.rootOf g
    match s.group root with
    | some x =>
      if x.st ≠ .evaluating then .next ((s.dropCone k).counted sag v)
      else if 2 ^ 48 ≤ x.count + 1 then .next { (s.dropCone k).counted sag v with cone := (s.dropCone k).cone ++ [.fail root 0] }
      else .next { s.modGroup root (fun x => { x with count := x.count + 1 }) with cone := setAt s.cone k (.ack sag v) }
    | none => .next ((s.dropCone k).counted sag v)
  | some (.dec g uid) =>
    let root := s.rootOf g
    if s.tansOut uid || s.incOut root || s.failOut root then .next s
    else
      match s.group root with
      | some x =>
        let t := s.dropCone k
        if x.st ≠ .evaluating then .next t
        else
          let t := t.modGroup root (fun x => { x with count := x.count - 1 })
          .next (if x.count ≤ 1 then t.endGroup root .complete ConeMsg.complete else t)
      | none => .next (s.dropCone k)
  | _ => .next s

/-- CONE_ACKNOWLEDGEMENT (R310): a counted invocation is queued at its home, unless its entry has failed meanwhile (R315). -/
def execConeAcknowledgement (k : Nat) (s : State) : Out :=
  match s.cone[k]? with
  | some (.ack sag v) =>
    let failed := match (s.sagAt sag).bind (fun g => g.entryAt v.entry) with | some e => decide (e.st = .failed) | none => true
    let t := (s.dropCone k).counted sag v
    .next (if failed && v.errorOf.isNone && !s.groupOpen v.cont.grp then t
      else t.modSag sag (fun g => { g with invokes := g.invokes ++ [v] }))
  | _ => .next s

/-- GROUP_MERGE (R311): the two roots become one, or the merge is refused and the call waits at its home. DESIGN CHOICE (log 135): the count of the merged group is
the sum, of whatever size. -/
def execGroupMerge (k : Nat) (s : State) : Out :=
  match s.cone[k]? with
  | some (.merge g e call h) =>
    let t := (s.dropCone k).modEntry call.sag h (fun e => { e with merging := e.merging - 1 })
    match call.body with
    | .tcall _ _ _ _ _ c =>
      let rg := s.rootOf g
      let re := s.rootOf e
      let stands := fun (t : State) => (t.register call.sag h c).replyTo call (tcallReply h 0 2)
      if rg = re && s.groupOpen g then .next (stands t)
      else if !s.groupOpen g || !s.groupOpen e then .next { t with net := insertMsg t.net call }
      else
        let (w, l) := if rg.before re then (rg, re) else (re, rg)
        let n := match s.group l with | some x => x.count | none => 0
        .next (stands ((t.modGroup w (fun x => { x with count := x.count + n })).modGroup l (fun x => { x with parent := w })))
    | _ => .next t
  | _ => .next s

/-- Answers the strands parked in `twait` on an entry. -/
def State.wakeTwait (s : State) (ws : List (StrandRef × Nat)) (v : Nat → Word) : State :=
  ((ws.zip (List.range ws.length)).foldl (fun (t : State) w =>
    if t.alive w.1.1.core w.1.1.slot w.1.2 then t.give w.1.1 w.1.2 ⟨v w.2, [], 0⟩ else t) s)

/-- An entry becomes complete, and its waiters wake, each with a pin (R307, R312). -/
def State.completeEntry (s : State) (sag : Nat) (e : Entry) : State :=
  let n := min e.waiters.length 65535
  let t := s.modEntry sag e.handle (fun e => { e with st := .complete, conts := [], pins := n, waiters := [], uid := 0 })
  (t.wakeTwait e.waiters (fun i => if i < n then word e.countField else 3)).modSag sag (fun g => g.sweep e.handle)

/-- COMPLETION_NOTICE (R307, R312): a home makes its entries of an ended group complete, in one step. -/
def execCompletionNotice (k : Nat) (s : State) : Out :=
  match s.cone[k]? with
  | some (.complete sag bank root) => .next ((s.entriesOf sag bank root).foldl (fun (t : State) e => t.completeEntry sag e) (s.dropCone k))
  | _ => .next s

/-- GROUP_FAILURE (R314, R315): a failure reaches the Cone, after the outstanding `tans` of the strand that caused it. -/
def execGroupFailure (k : Nat) (s : State) : Out :=
  match s.cone[k]? with
  | some (.fail g uid) =>
    if s.tansOut uid then .next s
    else
      let root := s.rootOf g
      .next (if s.groupOpen g then (s.dropCone k).endGroup root .failed ConeMsg.failed else s.dropCone k)
  | _ => .next s

/-- An entry becomes failed (R315, R316): its queued answers are discarded, its continuations invoked once, and its waiters woken. -/
def State.failEntry (s : State) (sag : Nat) (e : Entry) : State :=
  let h := e.handle
  let errs := e.conts.map (fun c => Invoke.mk c 0 0 (some h) h false)
  let t := s.modSag sag (fun g =>
    let g := g.modEntry h (fun e => { e with st := .failed, conts := [], failPins := errs.length, waiters := [], uid := 0 })
    { g with invokes := g.invokes.filter (fun v => v.entry ≠ h || v.errorOf.isSome) ++ errs })
  let t := t.wakeTwait e.waiters (fun _ => 1)
  if errs.isEmpty then t.modSag sag (fun g => g.evict h) else t

/-- FAILURE_NOTICE (R315, R316): a home makes its entries of a failed group failed. -/
def execFailureNotice (k : Nat) (s : State) : Out :=
  match s.cone[k]? with
  | some (.failed sag bank root) => .next ((s.entriesOf sag bank root).foldl (fun (t : State) e => t.failEntry sag e) (s.dropCone k))
  | _ => .next s

/-- GALLEY_SOFT_ERROR (R307, R314, R320): an uncorrectable error strikes the k-th entry of a saggar, or the record of its group. An entry that still evaluates
at its home after its group has completed at the Cone fails alone there (log 54). -/
def execGalleySoftError (sag k : Nat) (record : Bool) (s : State) : Out :=
  match (s.sagAt sag).bind (fun g => g.entries[k]?) with
  | some e =>
    match e.st with
    | .evaluating =>
      match s.group (s.rootOf e.grp) with
      | some ⟨_, _, .complete⟩ => .next (if record then s else s.failEntry sag e)
      | _ => .next { s with cone := s.cone ++ [.fail e.grp 0] }
    | .complete =>
      if record then .next s
      else .next ((s.modSag sag (fun g => g.evict e.handle)).count sag (fun c => { c with softEvict := wrap1 c.softEvict }))
    | .failed => .next s
  | none => .next s

/-- CONTINUATION_INVOCATION (R228, R248): the k-th queued invocation starts on its registrant's core, or on another core of the cluster when
that has no free slot; a registrant's core that is stopped or saved counts as one without a free slot (log 117). During a relock it queues and wakes its
unit (R441, R444). -/
def execContinuationInvocation (sag k core : Nat) (s : State) : Out :=
  match (s.sagAt sag).bind (fun g => g.invokes[k]?) with
  | some v =>
    let c := v.cont
    let x := s.coreAt c.core
    let full := x.stopped || x.saved.isSome || (x.freeHelper (s.nextBeat c.core)).isNone
    match (if core = c.core || (clusterOf core = clusterOf c.core && full) then s.grant sag core else none) with
    | none => .next (if s.relocking core && clusterOf core = clusterOf c.core then s.wakeUnit core else s)
    | some (j, b) =>
      let err := v.errorOf.isSome
      let regs := [(1, v.w0), (2, v.w1), (3, c.saves.getD 0 0), (4, c.saves.getD 1 0), (5, c.saves.getD 2 0), (6, if err then (1 : Word) else 0)]
      let t := (s.modSag sag (fun g => { g with invokes := dropAt g.invokes k })).enter core j b (fun n => { n with
        pc := c.kpc, s := regs.foldl (fun t r => Tbl.set t r.1 r.2 0) [], st := c.rm, ctx := c.ctx, grp := c.grp, tspace := c.tspace, tvec := c.tvec,
        heapb := c.heapb, heapl := c.heapl, heapo := c.heapo, priv := c.priv, sag := sag, task := c.task,
        invoc := some ⟨if v.counted then c.grp else ⟨0, 0⟩, v.errorOf⟩ })
      .next (t.wakeUnit core)
  | none => .next s

end Sys2Proof.Machine
end

