-- ==== Sys2Proof/Machine/Jobs.lean ====
section
/-! DEFINITION. Engine jobs as they run (R103, R107, R212 to R225, R356 to R361, R366): their start, their effect on memory and bands, their
completion, follow-ons and collective rounds. -/

namespace Sys2Proof.Machine

/-! The accesses of a job (R214, R391). -/

/-- Why a job's access does not go on: a failing check with its cause, or a fault that leaves the job pending, each with the state after the walks; or a
fault of the machine. -/
inductive JobStop where
  | fail (cause : Nat) (s : State) | stay (s : State) | broken (f : Fault)
  deriving Repr

/-- Where the byte at address a lies for a job: the address that names it and its location. The scratchpads of a relocking die do not answer (R440), and a
read of a peer waits for what the target still owes (R287, R412, R419). -/
def State.jobPlace (s : State) (j : Job) (kd : Acc) (a : Word) : Except JobStop (Nat × Nat × State) :=
  match resolve s (clusterOf j.core) j.sag a 1 with
  | none => .error (.fail 1 s)
  | some (.scratch c off) => if s.relocking c then .error (.stay s) else .ok (Addr.named (.scratch c off), scratchLoc c off, s)
  | some (.slice cl off) => .ok (Addr.named (.slice cl off), sliceLoc cl off, s)
  | some (.global va) =>
    match translate s ⟨j.sag, clusterOf j.core, j.heap.1, j.heap.2.1, j.heap.2.2, some (s.leasesOf j.sag j.task)⟩ kd va 1 with
    | (.ok loc, s) => if decide (kd = .load) && s.barsRead loc then .error (.stay s) else .ok (va, loc, s)
    | (.waits, s) => .error (.stay s)
    | (.permission, s) => .error (.fail 2 s)
    | (.lease _, s) => .error (.fail 8 s)
    | (.replay .., s) => .error (.stay s)
    | (.broken f, _) => .error (.broken f)

/-- Whether a job's access to a location acts in a context that is free or releasing (R234). -/
def State.jobStray (s : State) (j : Job) (loc : Nat) : Bool :=
  decide (j.ctxAt loc ≠ 0) && !(match s.sagAt j.sag with | some g => g.ctxUsable (j.ctxAt loc) | none => false)

/-- One byte as a job reads it: its value, and the location of its word if that is poisoned, in memory or in a cell, or fenced (R214, R273, R417). -/
def State.jobByte (s : State) (j : Job) (named loc : Nat) : Byte × Option Nat :=
  let ctx := j.ctxAt loc
  match (if ctx = 0 || s.jobStray j loc then none else (s.sagAt j.sag).bind (fun g => (g.chainByte named 6 ctx).map (fun b => (b, g.chainBad named 6 ctx)))) with
  | some (b, bad) => if bad then (0, some (poisonWord loc)) else (b, none)
  | none => if s.dead loc then (0, some (poisonWord loc)) else (s.dieByte (dieOf (clusterOf j.core)) loc, none)

/-- Reads n bytes from address a for a job; also says whether one of them was a stray access. A read from another device takes a number for each 64-byte block, at
the first byte of the run and of each later block (R412, log 106). -/
def State.jobRead (j : Job) : Bool → Nat → Word → State → Except JobStop (List (Byte × Option Nat) × Bool × State)
  | _, 0, _, s => .ok ([], false, s)
  | first, n + 1, a, s =>
    match s.jobPlace j .load a with
    | .error e => .error e
    | .ok (named, loc, s) =>
      let s := if first || decide (loc % 64 = 0) then (s.meet loc 1).sendRead loc else s.meet loc 1
      match State.jobRead j false n (a + 1) s with
      | .error e => .error e
      | .ok (t, stray, s') => .ok (s.jobByte j named loc :: t, stray || s.jobStray j loc, s')

/-- Counts the poisoned words a job has read, or fails it when the saggar has elected poison traps (R214). -/
def State.jobPoison (s : State) (j : Job) (r : List (Byte × Option Nat)) : Except JobStop State :=
  let words := (r.filterMap (·.2)).eraseDups
  if words.isEmpty then .ok s
  else if s.elects j.sag then .error (.fail 3 s)
  else .ok (words.foldl (fun (s : State) _ => s.count j.sag (fun c => { c with poisoned := sat1 c.poisoned })) s)

/-- Reads n bytes, counts a stray read once (R234, log 104), and settles their poison. -/
def State.jobBytes (j : Job) (n : Nat) (a : Word) (s : State) : Except JobStop (List (Byte × Option Nat) × State) :=
  match State.jobRead j true n a s with
  | .error e => .error e
  | .ok (r, stray, s) =>
    match (if stray then s.count j.sag (fun c => { c with stray := wrap1 c.stray }) else s).jobPoison j r with
    | .error e => .error e
    | .ok s => .ok (r, s)

/-- Finds the places of bytes that a job will write, each with its row: those before the first failing check, and that check's cause. -/
def State.jobTargets (j : Job) : List (Nat × Word × Byte) → State → Except JobStop (List EWrite × Nat × State)
  | [], s => .ok ([], 0, s)
  | (row, a, b) :: t, s =>
    match s.jobPlace j .store a with
    | .error (.fail c s) => .ok ([], c, s)
    | .error e => .error e
    | .ok (named, loc, s) =>
      match State.jobTargets j t s with
      | .error e => .error e
      | .ok (ws, c, s) => .ok (⟨row, named, loc, b⟩ :: ws, c, s)

/-- The memory words that a run of writes wholly covers, each with whether it becomes poisoned (R216, R178). -/
def coversOf : List (EWrite × Bool) → List (Nat × Bool)
  | [] => []
  | (w, b) :: t =>
    let n := if inDram w.loc then 8 else 4
    let run := ((w, b) :: t).take n
    if w.loc % n = 0 && decide (run.map (·.1.loc) = (List.range n).map (w.loc + ·)) then
      (w.loc, inDram w.loc && run.any (·.2)) :: coversOf t
    else coversOf t

/-! Arithmetic of the bands (R103, R220 to R225). -/

/-- Element k of w bits of packed bytes (R97). -/
def packedAt (bs : List Byte) (w k : Nat) : Nat := ofBytes bs / 2 ^ (w * k) % 2 ^ w
/-- Packs elements of w bits, in order, into n bytes. -/
def packed (es : List Nat) (w n : Nat) : List Byte := toBytes n ((es.zip (List.range es.length)).foldl (fun t e => t + e.1 % 2 ^ w * 2 ^ (w * e.2)) 0)

/-- The exact sum of products of one block, with the rules for special values (R103). -/
def blockSum (ps : List (Val × Val)) : Val :=
  if ps.any (fun p => p.1.isNan || p.2.isNan) then .nan false
  else
    match ps.map (fun p => (mulVal p.1 p.2).1) with
    | [] => .fin false 0 1
    | x :: t => t.foldl (fun a b => if a.isNan || b.isNan then .nan false else (addVal a b 0).1) x

/-- One accumulator after one activation row (R103): activations and weights as codes, the old accumulator, formats and scales. -/
def accumulate (ow : Bool) (fa fw : Nat) (sa sb : Int) (as ws : List Nat) (acc : Lane) : Lane :=
  let pairs := as.zip ws
  if (integer fa).isSome then
    let n := fun (fmt x : Nat) => match integer fmt with | some (w, true) => signed w x | some (w, false) => ((x % 2 ^ w : Nat) : Int) | none => 0
    let sum := pairs.foldl (fun t p => t + n fa p.1 * n fw p.2) (0 : Int)
    (if ow then 0 else acc) + BitVec.ofInt 32 sum
  else
    (List.range 8).foldl (fun (acc : Lane) j =>
      let block := ((pairs.drop (16 * j)).take 16).map (fun p => ((valueOf fa p.1).scaled fa sa, (valueOf fw p.2).scaled fw sb))
      let p := (deliver 0 0 false (blockSum block, 0)).1
      if ow && decide (j = 0) then BitVec.ofNat 32 p
      else BitVec.ofNat 32 (deliver 0 0 false (binVal .add (valueOf 0 acc.toNat) (valueOf 0 p) 0)).1) acc

/-- The matrix effect of one activation row on one band (R224). -/
def Band.runRow (b : Band) (j : Job) (m : Nat) (row : List Byte) : Band :=
  let w := fmtWidth j.gov.fa
  let as := (List.range 128).map (packedAt row w)
  let out := (List.range 16).foldl (fun (acc : List (Nat × Lane)) n =>
    let ws := (List.range 128).map (fun k => Tbl.get b.active.codes (k * 16 + n) 0)
    let key := (j.desc.acc0 + m) * 16 + n
    Tbl.set acc key (accumulate j.desc.flag j.gov.fa b.active.fmt j.gov.scaleA j.gov.scaleB as ws (Tbl.get b.acc key 0)) 0) b.acc
  { b with acc := out, intMode := (integer j.gov.fa).isSome }

/-- A weight row enters the shadow plane of a band (R223). -/
def Band.loadRow (b : Band) (j : Job) (k : Nat) (cols : List Byte) : Band :=
  let w := fmtWidth j.gov.fb
  { b with shadow := ⟨(List.range 16).foldl (fun (t : List (Nat × Nat)) n => Tbl.set t (k * 16 + n) (packedAt cols w n) 0) b.shadow.codes, j.gov.fb⟩ }

/-- An accumulator row as `mmst` stores it (R225). -/
def Band.storeRow (b : Band) (j : Job) (r : Nat) : List Byte :=
  let g := j.gov
  let w := fmtWidth g.fd
  let src := if b.intMode then 9 else 0
  let one := fun n => (deliverVal g.fd g.rm g.sat (-g.scaleD) b.intMode (valueOf src (Tbl.get b.acc ((j.desc.acc0 + r) * 16 + n) 0).toNat)).1
  packed ((List.range 16).map one) w (2 * w)

/-- Clears an accumulator row (R225). -/
def Band.clearRow (b : Band) (j : Job) (r : Nat) : Band :=
  { b with acc := b.acc.filter (fun e => e.1 / 16 ≠ j.desc.acc0 + r) }

/-- Band b of a cluster. -/
def State.band (s : State) (cl b : Nat) : Band := Tbl.get (s.clusterAt cl).bands b Band.clear
/-- Changes band b of a cluster. -/
def State.modBand (s : State) (cl b : Nat) (f : Band → Band) : State :=
  s.modCluster cl (fun c => { c with bands := Tbl.set c.bands b (f (Tbl.get c.bands b Band.clear)) Band.clear })

/-- The effect of rows a to b - 1 of a matrix job on its bands (R223 to R225). -/
def State.matrixRows (s : State) (cl : Nat) (j : Job) (a b : Nat) : State :=
  let rows := (List.range (b - a)).map (a + ·)
  rows.foldl (fun (s : State) r => (bandsOf j.desc.bands).foldl (fun (s : State) bd =>
    s.modBand cl bd (fun x =>
      match j.desc.kind with
      | .mmld => x.loadRow j r (Tbl.get j.caught (8 * r + bd) [])
      | .mmrun => x.runRow j r (Tbl.get j.caught r [])
      | .mmst => if j.desc.flag then x.clearRow j r else x
      | _ => x)) s) s

/-- The effect of a matrix job that completes (R223 to R225). -/
def State.matrixDone (s : State) (cl : Nat) (j : Job) : State :=
  match j.desc.kind with
  | .mmsw => (bandsOf j.desc.bands).foldl (fun (s : State) bd => s.modBand cl bd (fun x => { x with shadow := x.active, active := x.shadow })) s
  | .mmld | .mmrun | .mmst => s.matrixRows cl j j.row j.desc.rows
  | _ => s

/-! Start order (R212). -/

/-- The unit that runs a kind of job. -/
def JobKind.unit : JobKind → Nat
  | .copy => 0
  | .gath => 1
  | .coll => 2
  | _ => 3

/-- Whether two jobs of a common band touch common state that one of them writes (R212, R360). -/
def bandConflict (a b : JobKind) : Bool :=
  match a, b with
  | .mmsw, _ | _, .mmsw => true
  | .mmld, .mmld => true
  | .mmld, _ | _, .mmld => false
  | _, _ => true

/-- Whether job j waits for the earlier job e of its cluster (R212). -/
def Cluster.jobBehind (c : Cluster) (j e : Job) : Bool :=
  let own := fun (x : Job) => c.ranges.filter (fun r => decide (r.job = x.id) && decide (r.core = x.core))
  let overlap := (own j).any (fun a => (own e).any (fun b => (a.dst || b.dst) && decide (a.first ≤ b.last) && decide (b.first ≤ a.last)))
  let both := decide (j.desc.kind.unit = 3) && decide (e.desc.kind.unit = 3) && (bandsOf j.desc.bands).any (bandsOf e.desc.bands).contains
  overlap || (decide (j.desc.kind.unit = e.desc.kind.unit) && decide (e.state = .waiting)) ||
  (both && (bandConflict j.desc.kind e.desc.kind || decide (e.state = .reserved)))

/-- The job at place k of a cluster that may start now. -/
def State.startable (s : State) (cl k : Nat) : Option Job :=
  match (s.clusterAt cl).jobs[k]? with
  | some j =>
    if decide (j.state = .waiting) && !((s.clusterAt cl).jobs.take k).any (fun e => (s.clusterAt cl).jobBehind j e) then some j else none
  | none => none

/-- Replaces the job at place k of a cluster. -/
def State.setJob (s : State) (cl k : Nat) (j : Job) : State := s.modCluster cl (fun c => { c with jobs := setAt c.jobs k j })

/-- A status word (R214): failed with a cause and a range. -/
def failStatus (cause range : Nat) : Word := word (range * 2 ^ 16 + cause * 2 ^ 8 + 2)

/-- A job that has begun: its writes with the poison each carries, or its failure. -/
def Job.started (j : Job) (ws : List (EWrite × Bool)) (cause range : Nat) : Job :=
  { j with state := .running, writes := ws.map (·.1), covers := coversOf (ws.filter (fun w => decide (j.ctxAt w.1.loc = 0))),
           fail := if cause = 0 then 0 else failStatus cause range }

/-- The consecutive bytes from an address, each in row r. -/
def rowBytes (r : Nat) (a : Word) (bs : List Byte) : List (Nat × Word × Byte) := (bs.zip (List.range bs.length)).map (fun x => (r, a + word x.2, x.1))

/-- Starts a job that writes bytes to its destination (range 1). -/
def State.startWrites (s : State) (cl k : Nat) (j : Job) (ts : List (Nat × Word × Byte)) (bad : List Bool) : Except JobStop State :=
  match State.jobTargets j ts s with
  | .error e => .error e
  | .ok (ws, c, s) => .ok (s.setJob cl k (j.started (ws.zip (bad ++ List.replicate ws.length false)) c 1))

/-- Reads rows of n bytes, each under a key, for a job. -/
def State.readRows (j : Job) (n : Nat) : List (Nat × Word) → State → Except JobStop (List (Nat × List Byte) × State)
  | [], s => .ok ([], s)
  | (key, a) :: t, s =>
    match State.jobBytes j n a s with
    | .error e => .error e
    | .ok (r, s) =>
      match State.readRows j n t s with
      | .error e => .error e
      | .ok (rows, s) => .ok ((key, r.map (·.1)) :: rows, s)

/-- The elements a gather takes, in order (R218). -/
def State.gatherAll (j : Job) : List Word → Nat → State → Except JobStop (List (Nat × Word × Byte) × State)
  | [], _, s => .ok ([], s)
  | x :: t, i, s =>
    let size := 2 ^ j.desc.esz
    let a := word j.desc.src + x * word size
    if a.toNat % size ≠ 0 then .error (.fail 7 s)
    else
      match State.jobBytes j size a s with
      | .error e => .error e
      | .ok (r, s) =>
        match State.gatherAll j t (i + 1) s with
        | .error e => .error e
        | .ok (ts, s) => .ok (rowBytes 0 (word j.desc.dst + word (i * size)) (r.map (·.1)) ++ ts, s)

/-- Whether the formats of an `mmrun` and of the active planes it uses do not mix (R224). -/
def State.mixedFormats (s : State) (cl : Nat) (j : Job) : Bool :=
  (bandsOf j.desc.bands).any (fun b => decide ((integer (s.band cl b).active.fmt).isSome ≠ (integer j.gov.fa).isSome))

/-- The job at place k of a cluster begins (R212 to R225): it reads its sources and finds where it will write. -/
def State.beginJob (s : State) (cl k : Nat) (j : Job) : Except JobStop State :=
  let failed := fun (e : JobStop) (range : Nat) =>
    match e with
    | .fail c s => Except.ok (s.setJob cl k (j.started [] c range))
    | e => .error e
  let d := j.desc
  match d.kind with
  | .copy =>
    match State.jobBytes j d.len (word d.src) s with
    | .error e => failed e 0
    | .ok (r, s) => s.startWrites cl k j (rowBytes 0 (word d.dst) (r.map (·.1))) (r.map (·.2.isSome))
  | .gath =>
    match State.jobBytes j (d.n * 2 ^ d.isz) (word d.pitch) s with
    | .error e => failed e 2
    | .ok (r, s) =>
      let size := 2 ^ d.isz
      let ix := (List.range d.n).map (fun i => signExt (8 * size) (ofBytes (((r.map (·.1)).drop (i * size)).take size)))
      match State.gatherAll j ix 0 s with
      | .error e => failed e 0
      | .ok (ts, s) => s.startWrites cl k j ts []
  | .coll =>
    match State.jobBytes j d.len (word d.src) s with
    | .error e => failed e 0
    | .ok (r, s) => .ok (s.setJob cl k { j with state := .running, caught := [(0, r.map (·.1))] })
  | .mmsw => .ok (s.setJob cl k { j with state := .running })
  | .mmld =>
    let w := fmtWidth j.gov.fb
    let rows := (List.range (128 - j.row)).map (j.row + ·)
    match State.readRows j (2 * w) (rows.flatMap (fun r => (bandsOf d.bands).map (fun b => (8 * r + b, word (d.src + r * d.pitch + 2 * b * w))))) s with
    | .error e => failed e 0
    | .ok (rows, s) => .ok (s.setJob cl k { j with state := .running, caught := rows })
  | .mmrun =>
    if s.mixedFormats cl j then .ok (s.setJob cl k (j.started [] 4 4))
    else
      let w := fmtWidth j.gov.fa
      let rows := ((List.range (d.rows - j.row)).map (j.row + ·)).filter (fun r => (Tbl.find j.caught r).isNone)
      match State.readRows j (16 * w) (rows.map (fun r => (r, word (d.src + r * d.pitch)))) s with
      | .error e => failed e 0
      | .ok (rows, s) => .ok (s.setJob cl k { j with state := .running, caught := j.caught ++ rows })
  | .mmst =>
    let w := fmtWidth j.gov.fd
    let rows := (List.range (d.rows - j.row)).map (j.row + ·)
    s.startWrites cl k j (rows.flatMap (fun r => (bandsOf d.bands).flatMap (fun b =>
      rowBytes r (word (d.dst + r * d.pitch + 2 * b * w)) ((s.band cl b).storeRow j r)))) []

/-- Whether a write that strands of a cluster issued before a job's placement is still on its way: the job's accesses follow it (R285, R289). -/
def State.jobAwaitsStores (s : State) (cl : Nat) (j : Job) : Bool := s.net.any (fun m => decide (clusterOf m.core = cl) && decide (m.id < j.seq) && m.body.released)

/-- JOB_START (R212, R214, R284, R289, R370). A job that meets a write-protect or dirty-log fault stays pending until it clears (R391). -/
def execJobStart (cl k : Nat) (s : State) : Out :=
  match s.startable cl k with
  | some j =>
    if s.jobAwaitsStores cl j then .next s
    else
      match s.beginJob cl k j with
      | .ok s => .next s
      | .error (.broken f) => .fault f
      | .error (.fail _ s) | .error (.stay s) => .next s
  | none => .next s

/-! Completion (R213). -/

/-- Performs a job's writes in order until one must wait, for a relocking die or for cell space: what is left, and the state. -/
def State.drainJob (cl : Nat) (j : Job) : List EWrite → State → List EWrite × State
  | [], s => ([], s)
  | w :: t, s => if w.barred s then (w :: t, s) else if s.jobCellFull j w then (w :: t, s.reclaim j.sag (s.jobHome j w)) else State.drainJob cl j t (s.jobByteOut cl j w)

/-- Sets or clears the poison of the words that a job has wholly written (R178, R216). -/
def State.settleCovers (s : State) (j : Job) : State :=
  j.covers.foldl (fun (s : State) c => if s.fenced c.1 then s else s.setPoison c.1 c.2) s

/-- Whether a job's writes to other devices are still in its die's buffer (R213, R292). -/
def State.jobBuffered (s : State) (cl : Nat) (j : Job) : Bool :=
  decide (j.desc.scope = 2) && (s.portWrites (dieOf cl)).any (fun w => decide (w.slot = 16) && decide (w.uid = j.seq))

/-- Releases what a job holds and records its status (R213 steps 2 to 4, R281); a lease failure ends its task (R214), and a failed copy
cancels its follow-on (R217). -/
def State.retireJob (s : State) (cl k : Nat) (j : Job) : State :=
  let s := s.modCluster cl (fun c => { c with jobs := dropAt c.jobs k, ranges := c.ranges.filter (fun r => r.job ≠ j.id || r.core ≠ j.core) })
  let n := Tbl.get (s.coreAt j.core).tagCount j.tag 0 - 1
  let st := if j.fail = 0 then (1 : Word) else j.fail
  let s := s.modCore j.core (fun c => { c with
    tagCount := Tbl.set c.tagCount j.tag n 0, tags := if n = 0 then c.tags ||| word (2 ^ j.tag) else c.tags,
    jobRing := if (Tbl.find c.jobRing j.id).isSome then Tbl.put c.jobRing j.id st else c.jobRing })
  let s := if j.desc.follow = 1 && j.fail ≠ 0 then
      s.modCluster cl (fun c => { c with jobs := modIf c.jobs (fun x => x.core = j.core && x.id = nextJob j.id) (fun x => { x with fail := failStatus 6 4 }) })
    else s
  if bitsOf j.fail 8 8 = 8 then s.failFor j.sag j.task j.spec else s

/-- Whether another participant of a `coll`'s closed round has still to write its result (R219). -/
def State.roundOpen (s : State) (j : Job) : Bool :=
  decide (j.desc.kind = .coll) && s.clusters.any (fun c => c.2.jobs.any (fun x => decide (x.desc.kind = .coll) && decide (x.sag = j.sag) &&
    decide (x.desc.group = j.desc.group) && decide (x.row = j.row) && (!x.writes.isEmpty || s.jobBuffered c.1 x)))

/-- JOB_COMPLETION (R213, R219): the remaining writes of the job at place k are performed; once they are, and those of its round, the job completes. DESIGN CHOICE
(log 133): a matrix job that has failed leaves its bands as they were, and an `mmst` that has failed clears no row. -/
def execJobCompletion (cl k : Nat) (s : State) : Out :=
  match (s.clusterAt cl).jobs[k]? with
  | some j =>
    if j.state ≠ .running || (decide (j.desc.kind = .coll) && decide (j.row = 0)) then .next s
    else
      let (left, s) := State.drainJob cl j j.writes s
      let s := s.setJob cl k { j with writes := left }
      if !left.isEmpty || s.jobBuffered cl j || s.roundOpen j then .next s
      else
        let s := s.settleCovers j
        .next ((if j.fail = 0 then s.matrixDone cl j else s).retireJob cl k j)
  | none => .next s

/-- FOLLOWON_PLACEMENT (R217, R366): the reserved follow-on at place k takes its place once its copy is complete; a cancelled one only
completes. -/
def execFollowonPlacement (cl k : Nat) (s : State) : Out :=
  match (s.clusterAt cl).jobs[k]? with
  | some j =>
    if j.state ≠ .reserved || (s.clusterAt cl).jobs.any (fun x => decide (x.core = j.core) && decide (nextJob x.id = j.id) && decide (x.desc.follow = 1)) then .next s
    else .next (s.setJob cl k { j with state := if j.fail = 0 then .waiting else .running })
  | none => .next s

/-! Collectives (R107, R219). -/

/-- Inserts a placed job in the order of placement. -/
def bySeq (x : Nat × Nat × Job) : List (Nat × Nat × Job) → List (Nat × Nat × Job)
  | [] => [x]
  | y :: t => if x.2.2.seq < y.2.2.seq then x :: y :: t else y :: bySeq x t

/-- The open `coll` jobs of a saggar that name a group, oldest placement first, each with its cluster and place. -/
def State.collJobs (s : State) (sag grp : Nat) : List (Nat × Nat × Job) :=
  (s.clusters.flatMap (fun c => (c.2.jobs.zip (List.range c.2.jobs.length)).filterMap (fun x =>
    if decide (x.1.desc.kind = .coll) && decide (x.1.desc.group = grp) && decide (x.1.sag = sag) && decide (x.1.row = 0) then some (c.1, x.2, x.1) else none))).foldl (fun t x => bySeq x t) []

/-- Combines the contributions of one element, in ascending core number (R107, R219). -/
def collCombine (op fmt : Nat) : List Nat → Nat
  | [] => 0
  | x :: t =>
    if op = 3 then x
    else if fmt = 9 then
      t.foldl (fun a b =>
        match op with
        | 0 => (a + b) % 2 ^ 32
        | 1 => if signed 32 a < signed 32 b then b else a
        | _ => if signed 32 b < signed 32 a then b else a) x
    else t.foldl (fun a b => (deliver fmt 0 false (binVal (match op with | 0 => .add | 1 => .max | _ => .min) (valueOf fmt a) (valueOf fmt b) 0)).1) x

/-- Finds where a round's result will be written for each participant, and what each then is: none of them is changed before all are found. -/
def State.collPlan (res : List Byte) (round : Nat) : List (Nat × Nat × Job) → State → Except JobStop (List (Nat × Nat × Job) × State)
  | [], s => .ok ([], s)
  | (cl, k, j) :: t, s =>
    match (if j.fail ≠ 0 then .ok ([], 0, s) else State.jobTargets j (rowBytes 0 (word j.desc.dst) res) s) with
    | .error e => .error e
    | .ok (ws, c, s) =>
      match State.collPlan res round t s with
      | .error e => .error e
      | .ok (l, s) =>
        let j := { j with row := round }
        .ok ((cl, k, if j.fail ≠ 0 then j else j.started (ws.zip (List.replicate ws.length false)) c 1) :: l, s)

/-- COLL_ROUND_CLOSE (R219): the first NPART jobs of a group have been placed and have read their contributions. A contribution that could not
be read makes a result that it enters a free value (log 1); a broadcast is the contribution of the lowest core alone. A write-protect or dirty-log fault
leaves the round open, with what the walks did (R388, R391, R392). -/
def execCollRoundClose (sag grp : Nat) (s : State) : Out :=
  let all := s.collJobs sag grp
  match all with
  | [] => .next s
  | (_, _, j0) :: _ =>
    let np := j0.desc.npart
    let round := all.take np
    if round.length < np || round.any (fun x => decide (x.2.2.state ≠ .running)) then .next s
    else
      let same := round.all (fun x => decide ((x.2.2.desc.n, x.2.2.desc.op, x.2.2.desc.fmt, x.2.2.desc.npart) = (j0.desc.n, j0.desc.op, j0.desc.fmt, j0.desc.npart)))
      let cores := round.map (·.2.2.core)
      if !same || cores.eraseDups.length ≠ cores.length then
        .next (round.foldl (fun (s : State) x => s.setJob x.1 x.2.1 { x.2.2 with row := j0.seq, fail := failStatus 5 4 }) s)
      else
        let size := collSize j0.desc.fmt
        let sorted := round.foldl (fun t x => bySeq (x.1, x.2.1, { x.2.2 with seq := x.2.2.core }) t) []
        let elem := fun (i : Nat) (j : Job) => ofBytes (((Tbl.get j.caught 0 []).drop (i * size)).take size)
        let open_ := (if j0.desc.op = 3 then sorted.take 1 else sorted).any (fun x => decide (x.2.2.fail ≠ 0))
        let res := (List.range j0.desc.n).flatMap (fun i =>
          toBytes size (if open_ then (Config.freeValue (s.free + i)).toNat else collCombine j0.desc.op j0.desc.fmt (sorted.map (fun x => elem i x.2.2))))
        match State.collPlan res j0.seq round s with
        | .ok (l, s) => .next (l.foldl (fun (s : State) x => s.setJob x.1 x.2.1 x.2.2) (if open_ then { s with free := s.free + j0.desc.n } else s))
        | .error (.broken f) => .fault f
        | .error (.fail _ s) | .error (.stay s) => .next s

end Sys2Proof.Machine
end

