-- ==== Sys2Proof/Machine/Scalar.lean ====
section
/-! DEFINITION. Integer arithmetic and address forms (R111 to R118). -/

namespace Sys2Proof.Machine

/-- 1 or 0. -/
def flag (b : Bool) : Word := if b then 1 else 0
/-- The shift count b[5:0]. -/
def count6 (b : Word) : Nat := b.toNat % 64
/-- Bit i of a moved to bit 63 - i (R114). -/
def brev64 (a : Word) : Word := a.reverse
/-- Leading zeros of a, 64 for 0 (R114). -/
def clz64 (a : Word) : Nat := if a = 0 then 64 else 63 - Nat.log2 a.toNat
/-- Trailing zeros of a, 64 for 0 (R114). -/
def ctz64 (a : Word) : Nat := ((List.range 64).find? (fun i => a.getLsbD i)).getD 64
/-- One bits of a (R114). -/
def popc64 (a : Word) : Nat := ((List.range 64).filter (fun i => a.getLsbD i)).length
/-- Number of one bits of b below position i. -/
def rankBelow (b : Word) (i : Nat) : Nat := ((List.range i).filter (fun j => b.getLsbD j)).length
/-- `bext` (R114): the bits of a where b has a 1, packed low. -/
def bext64 (a b : Word) : Word :=
  word (((List.range 64).filter (fun i => b.getLsbD i && a.getLsbD i)).foldl (fun n i => n + 2 ^ rankBelow b i) 0)
/-- `bdep` (R114): the low bits of a placed where b has a 1. -/
def bdep64 (a b : Word) : Word :=
  word (((List.range 64).filter (fun i => b.getLsbD i && a.getLsbD (rankBelow b i))).foldl (fun n i => n + 2 ^ i) 0)
/-- `sext` (R114). -/
def sext64 (a b : Word) : Word := signExt (b.toNat % 64 + 1) a.toNat
/-- Signed division truncated toward zero, with the results of R113. -/
def divS (a b : Word) : Word := if b = 0 then BitVec.allOnes 64 else BitVec.ofInt 64 (a.toInt.tdiv b.toInt)
/-- Unsigned division (R113). -/
def divU (a b : Word) : Word := if b = 0 then BitVec.allOnes 64 else word (a.toNat / b.toNat)
/-- Signed remainder with the sign of a (R113). -/
def remS (a b : Word) : Word := if b = 0 then a else BitVec.ofInt 64 (a.toInt.tmod b.toInt)
/-- Unsigned remainder (R113). -/
def remU (a b : Word) : Word := if b = 0 then a else word (a.toNat % b.toNat)

/-- `alu.add` (R111): a + b. -/
def execAluAdd (o : FmtA) (s : State) : Out := binary o (fun a b => a + b) s

/-- `alu.sub` (R111): a - b. -/
def execAluSub (o : FmtA) (s : State) : Out := binary o (fun a b => a - b) s

/-- `alu.and` (R111): a & b. -/
def execAluAnd (o : FmtA) (s : State) : Out := binary o (fun a b => a &&& b) s

/-- `alu.or` (R111): a | b. -/
def execAluOr (o : FmtA) (s : State) : Out := binary o (fun a b => a ||| b) s

/-- `alu.xor` (R111): a xor b. -/
def execAluXor (o : FmtA) (s : State) : Out := binary o (fun a b => a ^^^ b) s

/-- `alu.shl` (R111): a shifted left by b[5:0]. -/
def execAluShl (o : FmtA) (s : State) : Out := binary o (fun a b => a <<< count6 b) s

/-- `alu.shr` (R111): a shifted right by b[5:0], zeros in. -/
def execAluShr (o : FmtA) (s : State) : Out := binary o (fun a b => a >>> count6 b) s

/-- `alu.sar` (R111): a shifted right by b[5:0], sign in. -/
def execAluSar (o : FmtA) (s : State) : Out := binary o (fun a b => a.sshiftRight (count6 b)) s

/-- `alu.slt` (R111): 1 when a < b signed. -/
def execAluSlt (o : FmtA) (s : State) : Out := binary o (fun a b => flag (a.slt b)) s

/-- `alu.sltu` (R111): 1 when a < b unsigned. -/
def execAluSltu (o : FmtA) (s : State) : Out := binary o (fun a b => flag (a.ult b)) s

/-- `alu.min` (R111): signed minimum. -/
def execAluMin (o : FmtA) (s : State) : Out := binary o (fun a b => if b.slt a then b else a) s

/-- `alu.max` (R111): signed maximum. -/
def execAluMax (o : FmtA) (s : State) : Out := binary o (fun a b => if a.slt b then b else a) s

/-- `alu.minu` (R111): unsigned minimum. -/
def execAluMinu (o : FmtA) (s : State) : Out := binary o (fun a b => if b.ult a then b else a) s

/-- `alu.maxu` (R111): unsigned maximum. -/
def execAluMaxu (o : FmtA) (s : State) : Out := binary o (fun a b => if a.ult b then b else a) s

/-- `alu.andn` (R111): a & ~b. -/
def execAluAndn (o : FmtA) (s : State) : Out := binary o (fun a b => a &&& ~~~b) s

/-- `alu.orn` (R111): a | ~b. -/
def execAluOrn (o : FmtA) (s : State) : Out := binary o (fun a b => a ||| ~~~b) s

/-- `aluw.addw` (R112): the 32-bit result, sign-extended. -/
def execAluwAddw (o : FmtA) (s : State) : Out := binary o (fun a b => signExt 32 (a.toNat + b.toNat)) s

/-- `aluw.subw` (R112): the 32-bit result, sign-extended. -/
def execAluwSubw (o : FmtA) (s : State) : Out := binary o (fun a b => signExt 32 (a.toNat + (2 ^ 64 - b.toNat))) s

/-- `aluw.shlw` (R112): the 32-bit result, sign-extended. -/
def execAluwShlw (o : FmtA) (s : State) : Out := binary o (fun a b => signExt 32 (a.toNat * 2 ^ (b.toNat % 32))) s

/-- `aluw.shrw` (R112): the 32-bit result, sign-extended. -/
def execAluwShrw (o : FmtA) (s : State) : Out := binary o (fun a b => signExt 32 (a.toNat % 2 ^ 32 / 2 ^ (b.toNat % 32))) s

/-- `aluw.sarw` (R112): the 32-bit result, sign-extended. -/
def execAluwSarw (o : FmtA) (s : State) : Out := binary o (fun a b => signExt 32 (((BitVec.ofNat 32 a.toNat).sshiftRight (b.toNat % 32)).toNat)) s

/-- A long-latency form on a and b (R110, R113). -/
def longBinary (o : FmtA) (f : Word → Word → Word) (s : State) : Out :=
  plain (srcOk o.x o.a && srcOk o.y o.b && dstOk o.d) s (fun s =>
    withDst o.d s (fun s => two o s (fun a b s => longLatency o.d (f a b) s)))

/-- `mul.mul` (R113): low 64 bits of the product. -/
def execMulMul (o : FmtA) (s : State) : Out := longBinary o (fun a b => a * b) s

/-- `mul.mulh` (R113): high 64 bits of the signed product. -/
def execMulMulh (o : FmtA) (s : State) : Out := longBinary o (fun a b => BitVec.ofInt 64 (a.toInt * b.toInt / 2 ^ 64)) s

/-- `mul.mulhu` (R113): high 64 bits of the unsigned product. -/
def execMulMulhu (o : FmtA) (s : State) : Out := longBinary o (fun a b => word (a.toNat * b.toNat / 2 ^ 64)) s

/-- `mul.div` (R113): signed quotient. -/
def execMulDiv (o : FmtA) (s : State) : Out := longBinary o (fun a b => divS a b) s

/-- `mul.divu` (R113): unsigned quotient. -/
def execMulDivu (o : FmtA) (s : State) : Out := longBinary o (fun a b => divU a b) s

/-- `mul.rem` (R113): signed remainder. -/
def execMulRem (o : FmtA) (s : State) : Out := longBinary o (fun a b => remS a b) s

/-- `mul.remu` (R113): unsigned remainder. -/
def execMulRemu (o : FmtA) (s : State) : Out := longBinary o (fun a b => remU a b) s

/-- `bits.clz` (R114). -/
def execBitsClz (o : FmtUn) (s : State) : Out := unary o (fun a => word (clz64 a)) s

/-- `bits.ctz` (R114). -/
def execBitsCtz (o : FmtUn) (s : State) : Out := unary o (fun a => word (ctz64 a)) s

/-- `bits.popc` (R114). -/
def execBitsPopc (o : FmtUn) (s : State) : Out := unary o (fun a => word (popc64 a)) s

/-- `bits.brev` (R114). -/
def execBitsBrev (o : FmtUn) (s : State) : Out := unary o (fun a => brev64 a) s

/-- `bits.bext` (R114). -/
def execBitsBext (o : FmtA) (s : State) : Out := binary o (fun a b => bext64 a b) s

/-- `bits.bdep` (R114). -/
def execBitsBdep (o : FmtA) (s : State) : Out := binary o (fun a b => bdep64 a b) s

/-- `bits.sext` (R114). -/
def execBitsSext (o : FmtA) (s : State) : Out := binary o (fun a b => sext64 a b) s

/-- An immediate form (R115): i is the sign-extended imm11. -/
def immediate (o : FmtI) (f : Word → Word → Word) (s : State) : Out :=
  plain (srcOk o.x o.a && dstOk o.d) s (fun s =>
    withDst o.d s (fun s => readSrc 0 o.a o.x s (fun a s => finish o.d (f a (o.i.signExtend 64)) s)))

/-- A shift by an immediate count (R115). -/
def shiftImm (o : FmtSh) (f : Word → Nat → Word) (s : State) : Out :=
  plain (srcOk o.x o.a && dstOk o.d) s (fun s =>
    withDst o.d s (fun s => readSrc 0 o.a o.x s (fun a s => finish o.d (f a o.n.toNat) s)))

/-- `addi` (R115). -/
def execAddi (o : FmtI) (s : State) : Out := immediate o (fun a i => a + i) s

/-- `andi` (R115). -/
def execAndi (o : FmtI) (s : State) : Out := immediate o (fun a i => a &&& i) s

/-- `ori` (R115). -/
def execOri (o : FmtI) (s : State) : Out := immediate o (fun a i => a ||| i) s

/-- `xori` (R115). -/
def execXori (o : FmtI) (s : State) : Out := immediate o (fun a i => a ^^^ i) s

/-- `slti` (R115). -/
def execSlti (o : FmtI) (s : State) : Out := immediate o (fun a i => flag (a.slt i)) s

/-- `sltiu` (R115). -/
def execSltiu (o : FmtI) (s : State) : Out := immediate o (fun a i => flag (a.ult i)) s

/-- `shli` (R115). -/
def execShli (o : FmtSh) (s : State) : Out := shiftImm o (fun a n => a <<< n) s

/-- `shri` (R115). -/
def execShri (o : FmtSh) (s : State) : Out := shiftImm o (fun a n => a >>> n) s

/-- `sari` (R115). -/
def execSari (o : FmtSh) (s : State) : Out := shiftImm o (fun a n => a.sshiftRight n) s

/-- `roti` (R115). -/
def execRoti (o : FmtSh) (s : State) : Out := shiftImm o (fun a n => a.rotateRight n) s

/-- `ldi` (R116): sign-extends imm18 into d. -/
def execLdi (o : FmtLi) (s : State) : Out :=
  plain (dstOk o.d) s (fun s => withDst o.d s (fun s => finish o.d (o.i.signExtend 64) s))

/-- `ldih` (R116): d shifted left by 18 with imm18 in its low bits; d is s0 to s31 or z. -/
def execLdih (o : FmtLi) (s : State) : Out :=
  plain (decide (o.d.toNat < 32) || decide (o.d.toNat = 56)) s (fun s =>
    withDst o.d s (fun s => readSrc 0 o.d false s (fun v s => finish o.d ((v <<< 18) ||| o.i.setWidth 64) s)))

/-- The address that `mkloc` and `mkrel` build (R117). -/
def makeAddr (tag : Nat) (a b : Word) : Word :=
  word (tag * 2 ^ 60 + bitsOf a 0 5 * 2 ^ 55 + bitsOf a 5 5 * 2 ^ 50 + bitsOf a 10 3 * 2 ^ 47 + bitsOf a 13 1 * 2 ^ 46 + bitsOf b 0 46)

/-- x, y and core that an address names for the `get` forms (R118). -/
def addrCoords (core : Nat) (a : Word) : Int × Int × Nat :=
  let cl := clusterOf core
  if bitsOf a 60 4 = 8 then (bitsOf a 55 5, bitsOf a 50 5, bitsOf a 47 3)
  else if bitsOf a 60 4 = 9 then ((xOf cl : Int) + signed 5 (bitsOf a 55 5), (yOf cl : Int) + signed 5 (bitsOf a 50 5), bitsOf a 47 3)
  else (xOf cl, yOf cl, core % 8)

/-- The die of `getdie` (R118): -1 outside the mesh. -/
def addrDie (core : Nat) (a : Word) : Word :=
  let (x, y, _) := addrCoords core a
  if 0 ≤ x ∧ x ≤ 19 ∧ 0 ≤ y ∧ y ≤ 23 then word (dieAt x.toNat y.toNat) else BitVec.allOnes 64

/-- `addr.mkloc` (R117). -/
def execAddrMkloc (o : FmtA) (s : State) : Out := binary o (makeAddr 8) s

/-- `addr.mkrel` (R117). -/
def execAddrMkrel (o : FmtA) (s : State) : Out := binary o (makeAddr 9) s

/-- `addr.getx` (R118). -/
def execAddrGetx (o : FmtUn) (s : State) : Out := unary o (fun a => BitVec.ofInt 64 (addrCoords s.core a).1) s

/-- `addr.gety` (R118). -/
def execAddrGety (o : FmtUn) (s : State) : Out := unary o (fun a => BitVec.ofInt 64 (addrCoords s.core a).2.1) s

/-- `addr.getc` (R118). -/
def execAddrGetc (o : FmtUn) (s : State) : Out := unary o (fun a => word (addrCoords s.core a).2.2) s

/-- `addr.getdie` (R118). -/
def execAddrGetdie (o : FmtUn) (s : State) : Out := unary o (fun a => addrDie s.core a) s

end Sys2Proof.Machine
end

