-- ==== Sys2Proof/Machine/Lanes.lean ====
section
/-! DEFINITION. The lane instructions: element-wise forms, masks, permutes, reductions, the claim, and lane memory (R144 to R171). -/

namespace Sys2Proof.Machine

/-! What one lane instruction does (R146). -/

/-- Integer lane operations (R159). -/
def IOp.run (f : IOp) (a b : Lane) : Lane :=
  match f with
  | .add => a + b
  | .sub => a - b
  | .mul => a * b
  | .mulh => BitVec.ofInt 32 (a.toInt * b.toInt / 2 ^ 32)
  | .min => if b.slt a then b else a
  | .max => if a.slt b then b else a
  | .minu => if b.ult a then b else a
  | .maxu => if a.ult b then b else a
  | .and => a &&& b
  | .or => a ||| b
  | .xor => a ^^^ b
  | .shl => a <<< (b.toNat % 32)
  | .shr => a >>> (b.toNat % 32)
  | .sar => a.sshiftRight (b.toNat % 32)
  | .andn => a &&& ~~~b

/-- Integer relations (R160). -/
def COp.runInt (f : COp) (a b : Lane) : Bool :=
  match f with
  | .ieq => a == b
  | .ine => a != b
  | .ilt => a.slt b
  | .ile => !b.slt a
  | .iltu => a.ult b
  | _ => false

/-- Whether a relation is on integers. -/
def COp.isInt (f : COp) : Bool :=
  match f with
  | .ieq | .ine | .ilt | .ile | .iltu => true
  | _ => false

/-- The sign bit of a code in a format. -/
def signOf (fmt x : Nat) : Bool := decide (x / 2 ^ (fmtWidth fmt - 1) % 2 = 1)

/-- One lane of a floating form: code and flags (R153, R154, R156 to R158). -/
def FOp.run (f : FOp) (g : Gov) (a b d : Lane) : Nat × Nat :=
  let x := valueOf g.fa a.toNat
  let y := valueOf g.fb b.toNat
  let z := valueOf g.fd d.toNat
  match f with
  | .add | .sub | .mul | .div | .min | .max => deliver g.fd g.rm g.sat (binVal f x y g.rm)
  | .abs | .neg => deliver g.fd g.rm g.sat (binVal f (.fin false 0 1) y g.rm)
  | .copysign => deliver g.fd g.rm g.sat (if x.isNan then nanResult x.isSig else (x.withSign (signOf g.fb b.toNat), 0))
  | .fma => deliver g.fd g.rm g.sat (fmaVal x y z g.rm)
  | .fms => deliver g.fd g.rm g.sat (fmaVal x y z.flip g.rm)
  | .fnma => deliver g.fd g.rm g.sat (fmaVal x.flip y z g.rm)
  | .fnms => deliver g.fd g.rm g.sat (fmaVal x.flip y z.flip g.rm)
  | .fscale => deliver g.fd g.rm g.sat (fscaleVal x b.toInt)
  | .fclass => (classOf g.fb y, 0)
  | .fexpf => deliver g.fd 0 g.sat (unVal .fexpf y)
  | _ => deliver g.fd g.rm g.sat (unVal f y)

/-- One lane of `vcvt` (R162): the scale is added to the exponent of an M source and taken from an M result. -/
def cvtRun (src dst : Nat) (g : Gov) (b : Lane) : Nat × Nat :=
  deliverVal dst g.rm g.sat (-g.scaleD) (integer src).isSome ((valueOf src b.toNat).scaled src g.scaleB)

/-- One combination of R104 on data, delivered in fd. -/
def ROp.comb (f : ROp) (g : Gov) (x y : Val) : Nat × Nat :=
  deliver g.fd g.rm g.sat (match f with
    | .fmax => minmaxVal true x y
    | .fmin => minmaxVal false x y
    | _ => binVal .add x y g.rm)

/-- One combination of the integer forms. -/
def ROp.combInt (f : ROp) (x y : Lane) : Lane :=
  match f with
  | .imax => IOp.run .max x y
  | .imin => IOp.run .min x y
  | _ => x + y

/-- Whether a reduction is on integers. -/
def ROp.isInt (f : ROp) : Bool :=
  match f with
  | .isum | .imax | .imin => true
  | _ => false

/-- The result of no element at all (R104). -/
def ROp.empty (f : ROp) (g : Gov) : Word :=
  match f with
  | .fsum => 0
  | .fmax => word (infCode g.fd true)
  | .fmin => word (infCode g.fd false)
  | .isum => 0
  | .imax => signExt 32 (2 ^ 31)
  | .imin => word (2 ^ 31 - 1)

/-- One level of the tree of R104. -/
def treeLevel {α : Type} (comb : α → α → α × Nat) : List (Option α) → List (Option α) × Nat
  | some x :: some y :: t =>
    let r := treeLevel comb t
    let c := comb x y
    (some c.1 :: r.1, c.2 ||| r.2)
  | some x :: none :: t => let r := treeLevel comb t; (some x :: r.1, r.2)
  | none :: y :: t => let r := treeLevel comb t; (y :: r.1, r.2)
  | [x] => ([x], 0)
  | [] => ([], 0)

/-- The fixed tree of R104 over 256 lanes: eight levels. -/
def tree {α : Type} (comb : α → α → α × Nat) : Nat → List (Option α) → Option α × Nat
  | 0, l => (l.headD none, 0)
  | n + 1, l =>
    let r := treeLevel comb l
    let t := tree comb n r.1
    (t.1, t.2 ||| r.2)

/-- `vred` over the participating lanes (R104, R165): the result and its flags. -/
def ROp.reduce (f : ROp) (g : Gov) (l : List (Option Lane)) : Word × Nat :=
  if f.isInt then
    match tree (fun x y => (f.combInt x y, 0)) 8 l with
    | (some x, _) => (signExt 32 x.toNat, 0)
    | (none, _) => (f.empty g, 0)
  else
    match tree (fun x y => let r := f.comb g x y; (valueOf g.fd r.1, r.2)) 8 (l.map (fun x => x.map (fun x => valueOf g.fa x.toNat))) with
    | (some v, fl) => let r := deliver g.fd g.rm g.sat (v, if v.isSig then fNV else 0); (word r.1, r.2 ||| fl)
    | (none, _) => (f.empty g, 0)

/-- Lane i of a register, 0 at or above vl (R163). -/
def Strand.laneOr0 (m : Strand) (r i : Nat) : Lane := if i < m.vl then m.laneAt r i else 0

/-- Writes the lanes of a list of (lane, value) pairs. -/
def Strand.setLanes (m : Strand) (r : Nat) (l : List (Nat × Lane)) : Strand := l.foldl (fun m x => m.setLane r x.1 x.2) m

/-- The mask bits i below n with a property. -/
def maskOf (n : Nat) (p : Nat → Bool) : BitVec 256 := BitVec.ofNat 256 (((List.range n).filter p).foldl (fun x i => x + 2 ^ i) 0)

/-- The 1 bits of m0 below i. -/
def Strand.m0Below (m : Strand) (i : Nat) : Nat := ((List.range i).filter (fun j => (m.mask 0).getLsbD j)).length
/-- The lanes below vl where m0 is 1, ascending. -/
def Strand.m0Lanes (m : Strand) : List Nat := (List.range m.vl).filter (fun j => (m.mask 0).getLsbD j)

/-- Writes a lane result to a pending scalar result, ready to be delivered (R147). -/
def Strand.scalarOut (m : Strand) (id : Nat) (v : Word) : Strand :=
  { m with pending := modIf m.pending (fun p => p.id = id) (fun p => { p with val := v, parts := 0 }) }

/-- Element-wise results of an instruction written to the active lanes of d, with their flags (R146). -/
def Strand.elementwise (m : Strand) (o : LaneOp) (f : Nat → Nat × Nat) : Strand :=
  let act := (List.range m.vl).filter (fun i => !o.masked || (m.mask 0).getLsbD i)
  let rs := act.map (fun i => (i, f i))
  (m.setLanes o.d (rs.map (fun r => (r.1, BitVec.ofNat 32 r.2.1)))).raiseFlags (rs.foldl (fun n r => n ||| r.2.2) 0)

/-- A lane instruction takes effect, as a whole (R146, R147). -/
def Strand.runLane (m : Strand) (o : LaneOp) : Strand :=
  let b := fun (i : Nat) => match o.sb with | some w => w.setWidth 32 | none => m.laneAt o.b i
  let sc := (o.sb.getD 0).toNat
  let every := fun (f : Nat → Lane) => m.setLanes o.d ((List.range m.vl).map (fun i => (i, f i)))
  match o.fn with
  | .fp f => m.elementwise o (fun i => f.run o.gov (m.laneAt o.a i) (b i) (m.laneAt o.d i))
  | .int f => m.elementwise o (fun i => ((f.run (m.laneAt o.a i) (b i)).toNat, 0))
  | .cvt src dst => m.elementwise o (fun i => cvtRun src dst o.gov (m.laneAt o.b i))
  | .cmp f =>
    let act := (List.range m.vl).filter (fun i => !o.masked || (m.mask 0).getLsbD i)
    let rs := act.map (fun i => (i, if f.isInt then (f.runInt (m.laneAt o.a i) (b i), 0) else cmpVal f (valueOf o.gov.fa (m.laneAt o.a i).toNat) (valueOf o.gov.fb (b i).toNat)))
    let on := maskOf m.vl (fun i => rs.any (fun r => decide (r.1 = i) && r.2.1))
    let off := maskOf m.vl (fun i => rs.any (fun r => decide (r.1 = i) && !r.2.1))
    (m.setMask o.d ((m.mask o.d &&& ~~~off) ||| on)).raiseFlags (rs.foldl (fun n r => n ||| r.2.2) 0)
  | .red f =>
    let l := (List.range 256).map (fun i => if i < m.vl && (!o.masked || (m.mask 0).getLsbD i) then some (m.laneAt o.a i) else none)
    let r := f.reduce o.gov l
    (m.scalarOut o.pend r.1).raiseFlags r.2
  | .sel => every (fun i => if (m.mask 0).getLsbD i then m.laneAt o.a i else b i)
  | .mand => m.setMask o.d (m.mask o.a &&& m.mask o.b)
  | .mor => m.setMask o.d (m.mask o.a ||| m.mask o.b)
  | .mxor => m.setMask o.d (m.mask o.a ^^^ m.mask o.b)
  | .mnot => m.setMask o.d (~~~(m.mask o.a))
  | .mset => m.setMask o.d (maskOf m.vl (fun i => decide (i < (o.sa.getD 0).toNat)))
  | .mpop => m.scalarOut o.pend (word ((List.range m.vl).filter (fun i => (m.mask o.a).getLsbD i)).length)
  | .mfirst => m.scalarOut o.pend (match (List.range m.vl).find? (fun i => (m.mask o.a).getLsbD i) with | some i => word i | none => BitVec.allOnes 64)
  | .bcast => every (fun _ => m.laneOr0 o.a sc)
  | .shup => every (fun i => if sc ≤ i then m.laneAt o.a (i - sc) else 0)
  | .shdn => every (fun i => m.laneOr0 o.a (i + sc))
  | .perm => every (fun i => m.laneOr0 o.a (m.laneAt o.b i).toNat)
  | .comp => every (fun i => match m.m0Lanes[i]? with | some j => m.laneAt o.a j | none => 0)
  | .expd => every (fun i => if (m.mask 0).getLsbD i then m.laneAt o.a (m.m0Below i) else 0)
  | .rev => every (fun i => m.laneAt o.b (m.vl - 1 - i))
  | .vtos => m.scalarOut o.pend (if sc < m.vl then (m.laneAt o.a sc).setWidth 64 else 0)
  | .stov => if sc < m.vl then m.setLane o.d sc ((o.sa.getD 0).setWidth 32) else m
  | .vmv => m.elementwise o (fun i => ((m.laneAt o.b i).toNat, 0))

/-- Runs the queued lane instructions of a strand, in order (R147). -/
def Strand.drainLanes (m : Strand) : Strand := m.laneQ.foldl Strand.runLane { m with laneQ := [] }

/-- A lane instruction is issued: it takes effect at once when no earlier one is outstanding, else after them (R147). -/
def State.sendLane (s : State) (o : LaneOp) : State :=
  s.modMe (fun m => if m.laneQ.isEmpty && decide (m.laneLoads = 0) then m.runLane o else { m with laneQ := m.laneQ ++ [o] })

/-! Checks. -/

/-- The checks of R77 and the claim of R145. NO_LANES's EADDR is stated by no rule (log 1). -/
def laneChecked (takes ok : Bool) (s : State) (k : State → Out) : Out :=
  checked true takes ok s (fun s => if s.me.stage = 0 && s.me.g = 0 then trapFree .noLanes s else k s)

/-- Reads a broadcast b as the j-th source; a vector b is read when the instruction takes effect (R67, R146). -/
def readVB (j : Nat) (b : Code) (s : State) (k : Option Word → State → Out) : Out :=
  if bcOk b then readSrc j (b - 32) false s (fun w s => k (some w) s) else k none s

/-- An element-wise form with sources a and b (R146), under FP32 without a prefix. -/
def laneTwo (fn : LaneFn) (takes : Bool) (dOk : Code → Bool) (codes : State → Bool) (o : FmtV) (s : State) : Out :=
  laneChecked takes (vecOk o.a && dOk o.d && codes s) s (fun s => readVB 0 o.b s (fun sb s =>
    readScale 1 s (fun sc s =>
      complete ((s.consume).sendLane ⟨fn, o.y, o.d.toNat, o.a.toNat, o.b.toNat, sb, none, s.me.gov 0 0 0 sc, 0⟩))))

/-- An element-wise form with source b alone. -/
def laneOne (fn : LaneFn) (codes : State → Bool) (o : FmtVUn) (s : State) : Out :=
  laneChecked true (vecOk o.d && codes s) s (fun s => readVB 0 o.b s (fun sb s =>
    readScale 1 s (fun sc s =>
      complete ((s.consume).sendLane ⟨fn, o.y, o.d.toNat, 0, o.b.toNat, sb, none, s.me.gov 0 0 0 sc, 0⟩))))

/-- A form without masks, formats and scalar result. -/
def lanePlain (fn : LaneFn) (ok : Bool) (d a b : Nat) (s : State) (src : State → (Option Word → Option Word → State → Out) → Out) : Out :=
  laneChecked false ok s (fun s => src s (fun sb sa s => complete (s.sendLane ⟨fn, false, d, a, b, sb, sa, s.me.gov 0 0 0 0, 0⟩)))

/-- No scalar source. -/
def noScalar (s : State) (k : Option Word → Option Word → State → Out) : Out := k none none s

/-- Issues a lane instruction that writes scalar d later (R147): it takes its place among the lane instructions before the instruction ends, so that
a back-edge taken there shrinks nothing under it (R151, R171). -/
def laneScalar (fn : LaneFn) (masked : Bool) (d : Code) (a b : Nat) (sb : Option Word) (g : Gov) (s : State) : Out :=
  let id := s.serial
  let s := State.owe { s with serial := s.serial + 1 } ⟨id, d.toNat, 0, 1, 64, false, false, false, none, 0, 0⟩
  awaitResult d.toNat (s.sendLane ⟨fn, masked, 0, a, b, sb, none, g, id⟩)

/-! Floating point (R152 to R158). -/

/-- Codes of the two-source forms. -/
def vfCodes (s : State) : Bool := formatsOk .low .low .low s
/-- Codes of the one-source forms. -/
def vf1Codes (s : State) : Bool := formatsOk .any .low .low s
/-- Any code. -/
def anyCodes (s : State) : Bool := formatsOk .any .any .any s

/-- `vf.add` (R153). -/
def execVfAdd (o : FmtV) (s : State) : Out := laneTwo (.fp .add) true vecOk vfCodes o s
/-- `vf.sub` (R153). -/
def execVfSub (o : FmtV) (s : State) : Out := laneTwo (.fp .sub) true vecOk vfCodes o s
/-- `vf.mul` (R153). -/
def execVfMul (o : FmtV) (s : State) : Out := laneTwo (.fp .mul) true vecOk vfCodes o s
/-- `vf.div` (R153). -/
def execVfDiv (o : FmtV) (s : State) : Out := laneTwo (.fp .div) true vecOk vfCodes o s
/-- `vf.min` (R153). -/
def execVfMin (o : FmtV) (s : State) : Out := laneTwo (.fp .min) true vecOk vfCodes o s
/-- `vf.max` (R153). -/
def execVfMax (o : FmtV) (s : State) : Out := laneTwo (.fp .max) true vecOk vfCodes o s
/-- `vf.abs` (R153). -/
def execVfAbs (o : FmtVUn) (s : State) : Out := laneOne (.fp .abs) vf1Codes o s
/-- `vf.neg` (R153). -/
def execVfNeg (o : FmtVUn) (s : State) : Out := laneOne (.fp .neg) vf1Codes o s
/-- `vf.copysign` (R153). -/
def execVfCopysign (o : FmtV) (s : State) : Out := laneTwo (.fp .copysign) true vecOk vfCodes o s
/-- `vfma.fma` (R154). -/
def execVfmaFma (o : FmtV) (s : State) : Out := laneTwo (.fp .fma) true vecOk vfCodes o s
/-- `vfma.fms` (R154). -/
def execVfmaFms (o : FmtV) (s : State) : Out := laneTwo (.fp .fms) true vecOk vfCodes o s
/-- `vfma.fnma` (R154). -/
def execVfmaFnma (o : FmtV) (s : State) : Out := laneTwo (.fp .fnma) true vecOk vfCodes o s
/-- `vfma.fnms` (R154). -/
def execVfmaFnms (o : FmtV) (s : State) : Out := laneTwo (.fp .fnms) true vecOk vfCodes o s
/-- `vfx.frint.n` (R156). -/
def execVfxFrintN (o : FmtVUn) (s : State) : Out := laneOne (.fp .frintN) vf1Codes o s
/-- `vfx.frint.z` (R156). -/
def execVfxFrintZ (o : FmtVUn) (s : State) : Out := laneOne (.fp .frintZ) vf1Codes o s
/-- `vfx.frint.u` (R156). -/
def execVfxFrintU (o : FmtVUn) (s : State) : Out := laneOne (.fp .frintU) vf1Codes o s
/-- `vfx.frint.d` (R156). -/
def execVfxFrintD (o : FmtVUn) (s : State) : Out := laneOne (.fp .frintD) vf1Codes o s
/-- `vfx.fexpf` (R157). -/
def execVfxFexpf (o : FmtVUn) (s : State) : Out := laneOne (.fp .fexpf) vf1Codes o s
/-- `vfx.fscale` (R158): b is INT32. -/
def execVfxFscale (o : FmtV) (s : State) : Out := laneTwo (.fp .fscale) true vecOk (formatsOk .low .any .low) o s
/-- `vfx.fgetexp` (R156). -/
def execVfxFgetexp (o : FmtVUn) (s : State) : Out := laneOne (.fp .fgetexp) vf1Codes o s
/-- `vfx.fgetman` (R156). -/
def execVfxFgetman (o : FmtVUn) (s : State) : Out := laneOne (.fp .fgetman) vf1Codes o s
/-- `vfx.frcp` (R156). -/
def execVfxFrcp (o : FmtVUn) (s : State) : Out := laneOne (.fp .frcp) vf1Codes o s
/-- `vfx.frsq` (R156). -/
def execVfxFrsq (o : FmtVUn) (s : State) : Out := laneOne (.fp .frsq) vf1Codes o s
/-- `vfx.fclass` (R156). -/
def execVfxFclass (o : FmtVUn) (s : State) : Out := laneOne (.fp .fclass) (formatsOk .any .low .any) o s
/-- `vfx.fsqrt` (R156). -/
def execVfxFsqrt (o : FmtVUn) (s : State) : Out := laneOne (.fp .fsqrt) vf1Codes o s

/-! Integer lanes (R159). -/

/-- A `vi` form. -/
def vi (f : IOp) (o : FmtV) (s : State) : Out := laneTwo (.int f) false vecOk (fun _ => true) o s
/-- `vi.add` (R159). -/
def execViAdd (o : FmtV) (s : State) : Out := vi .add o s
/-- `vi.sub` (R159). -/
def execViSub (o : FmtV) (s : State) : Out := vi .sub o s
/-- `vi.mul` (R159). -/
def execViMul (o : FmtV) (s : State) : Out := vi .mul o s
/-- `vi.mulh` (R159). -/
def execViMulh (o : FmtV) (s : State) : Out := vi .mulh o s
/-- `vi.min` (R159). -/
def execViMin (o : FmtV) (s : State) : Out := vi .min o s
/-- `vi.max` (R159). -/
def execViMax (o : FmtV) (s : State) : Out := vi .max o s
/-- `vi.minu` (R159). -/
def execViMinu (o : FmtV) (s : State) : Out := vi .minu o s
/-- `vi.maxu` (R159). -/
def execViMaxu (o : FmtV) (s : State) : Out := vi .maxu o s
/-- `vi.and` (R159). -/
def execViAnd (o : FmtV) (s : State) : Out := vi .and o s
/-- `vi.or` (R159). -/
def execViOr (o : FmtV) (s : State) : Out := vi .or o s
/-- `vi.xor` (R159). -/
def execViXor (o : FmtV) (s : State) : Out := vi .xor o s
/-- `vi.shl` (R159). -/
def execViShl (o : FmtV) (s : State) : Out := vi .shl o s
/-- `vi.shr` (R159). -/
def execViShr (o : FmtV) (s : State) : Out := vi .shr o s
/-- `vi.sar` (R159). -/
def execViSar (o : FmtV) (s : State) : Out := vi .sar o s
/-- `vi.andn` (R159). -/
def execViAndn (o : FmtV) (s : State) : Out := vi .andn o s

/-! Compares (R160). -/

/-- A `vcmp` form. -/
def vcmp (f : COp) (o : FmtV) (s : State) : Out :=
  laneTwo (.cmp f) true maskOk (if f.isInt then anyCodes else formatsOk .low .low .any) o s
/-- `vcmp.feq` (R160). -/
def execVcmpFeq (o : FmtV) (s : State) : Out := vcmp .feq o s
/-- `vcmp.fne` (R160). -/
def execVcmpFne (o : FmtV) (s : State) : Out := vcmp .fne o s
/-- `vcmp.flt` (R160). -/
def execVcmpFlt (o : FmtV) (s : State) : Out := vcmp .flt o s
/-- `vcmp.fle` (R160). -/
def execVcmpFle (o : FmtV) (s : State) : Out := vcmp .fle o s
/-- `vcmp.funord` (R160). -/
def execVcmpFunord (o : FmtV) (s : State) : Out := vcmp .funord o s
/-- `vcmp.ieq` (R160). -/
def execVcmpIeq (o : FmtV) (s : State) : Out := vcmp .ieq o s
/-- `vcmp.ine` (R160). -/
def execVcmpIne (o : FmtV) (s : State) : Out := vcmp .ine o s
/-- `vcmp.ilt` (R160). -/
def execVcmpIlt (o : FmtV) (s : State) : Out := vcmp .ilt o s
/-- `vcmp.ile` (R160). -/
def execVcmpIle (o : FmtV) (s : State) : Out := vcmp .ile o s
/-- `vcmp.iltu` (R160). -/
def execVcmpIltu (o : FmtV) (s : State) : Out := vcmp .iltu o s

/-! Masks (R161). -/

/-- `vmsk.sel` (R161). -/
def execVmskSel (o : FmtVV) (s : State) : Out :=
  lanePlain .sel (vecOk o.a && vecOk o.d) o.d.toNat o.a.toNat o.b.toNat s (fun s k => readVB 0 o.b s (fun sb s => k sb none s))
/-- `vmsk.mand` (R161). -/
def execVmskMand (o : FmtVV) (s : State) : Out :=
  lanePlain .mand (maskOk o.a && maskOk o.b && maskOk o.d) o.d.toNat o.a.toNat o.b.toNat s noScalar
/-- `vmsk.mor` (R161). -/
def execVmskMor (o : FmtVV) (s : State) : Out :=
  lanePlain .mor (maskOk o.a && maskOk o.b && maskOk o.d) o.d.toNat o.a.toNat o.b.toNat s noScalar
/-- `vmsk.mxor` (R161). -/
def execVmskMxor (o : FmtVV) (s : State) : Out :=
  lanePlain .mxor (maskOk o.a && maskOk o.b && maskOk o.d) o.d.toNat o.a.toNat o.b.toNat s noScalar
/-- `vmsk.mnot` (R161). -/
def execVmskMnot (o : FmtVA) (s : State) : Out := lanePlain .mnot (maskOk o.a && maskOk o.d) o.d.toNat o.a.toNat 0 s noScalar
/-- `vmsk.mset` (R161). -/
def execVmskMset (o : FmtVA) (s : State) : Out :=
  lanePlain .mset (srcOk false o.a && maskOk o.d) o.d.toNat 0 0 s (fun s k => readSrc 0 o.a false s (fun a s => k none (some a) s))
/-- `vmsk.mpop` (R161). -/
def execVmskMpop (o : FmtVA) (s : State) : Out :=
  laneChecked false (maskOk o.a && dstOk o.d) s (fun s => withDst o.d s (fun s => laneScalar .mpop false o.d o.a.toNat 0 none (s.me.gov 0 0 0 0) s))
/-- `vmsk.mfirst` (R161). -/
def execVmskMfirst (o : FmtVA) (s : State) : Out :=
  laneChecked false (maskOk o.a && dstOk o.d) s (fun s => withDst o.d s (fun s => laneScalar .mfirst false o.d o.a.toNat 0 none (s.me.gov 0 0 0 0) s))

/-! Conversions, permutes and moves (R162 to R164). -/

/-- `vcvt` (R75, R162). -/
def execVcvt (o : FmtCvt) (s : State) : Out :=
  laneChecked true (vecOk o.b && vecOk o.d && anyCodes s) s (fun s => readScale 0 s (fun sc s =>
    complete (s.consume.sendLane ⟨.cvt o.h.toNat o.g.toNat, o.y, o.d.toNat, 0, o.b.toNat, none, none, s.me.gov 0 0 0 sc, 0⟩)))

/-- A permute with a scalar b. -/
def vpermS (fn : LaneFn) (o : FmtVV) (s : State) : Out :=
  lanePlain fn (vecOk o.a && bcOk o.b && vecOk o.d) o.d.toNat o.a.toNat 0 s (fun s k => readVB 0 o.b s (fun sb s => k sb none s))
/-- `vperm.bcast` (R163). -/
def execVpermBcast (o : FmtVV) (s : State) : Out := vpermS .bcast o s
/-- `vperm.shup` (R163). -/
def execVpermShup (o : FmtVV) (s : State) : Out := vpermS .shup o s
/-- `vperm.shdn` (R163). -/
def execVpermShdn (o : FmtVV) (s : State) : Out := vpermS .shdn o s
/-- `vperm.perm` (R163). -/
def execVpermPerm (o : FmtVV) (s : State) : Out :=
  lanePlain .perm (vecOk o.a && vecOk o.b && vecOk o.d) o.d.toNat o.a.toNat o.b.toNat s noScalar
/-- `vperm.comp` (R163). -/
def execVpermComp (o : FmtVA) (s : State) : Out := lanePlain .comp (vecOk o.a && vecOk o.d) o.d.toNat o.a.toNat 0 s noScalar
/-- `vperm.expd` (R163). -/
def execVpermExpd (o : FmtVA) (s : State) : Out := lanePlain .expd (vecOk o.a && vecOk o.d) o.d.toNat o.a.toNat 0 s noScalar
/-- `vperm.rev` (R163). -/
def execVpermRev (o : FmtVB) (s : State) : Out := lanePlain .rev (vecOk o.b && vecOk o.d) o.d.toNat 0 o.b.toNat s noScalar
/-- `vmov.vtos` (R164). -/
def execVmovVtos (o : FmtVV) (s : State) : Out :=
  laneChecked false (vecOk o.a && bcOk o.b && dstOk o.d) s (fun s => withDst o.d s (fun s => readVB 0 o.b s (fun sb s =>
    laneScalar .vtos false o.d o.a.toNat 0 sb (s.me.gov 0 0 0 0) s)))
/-- `vmov.stov` (R164). -/
def execVmovStov (o : FmtVV) (s : State) : Out :=
  lanePlain .stov (srcOk false o.a && bcOk o.b && vecOk o.d) o.d.toNat 0 0 s
    (fun s k => readSrc 0 o.a false s (fun a s => readVB 1 o.b s (fun sb s => k sb (some a) s)))
/-- `vmov.vmv` (R164). -/
def execVmovVmv (o : FmtVB) (s : State) : Out := lanePlain .vmv (vecOk o.b && vecOk o.d) o.d.toNat 0 o.b.toNat s noScalar

/-! Format N (R69, R155). -/

/-- A format-N form with a = d. `takes` says whether it accepts a prefix. -/
def laneN (fn : LaneFn) (takes : Bool) (codes : State → Bool) (o : FmtN) (s : State) : Out :=
  laneChecked takes (codes s) s (fun s => readScale 0 s (fun sc s =>
    complete (s.consume.sendLane ⟨fn, o.m, o.d.toNat, o.d.toNat, o.b.toNat, none, none, s.me.gov 0 0 0 sc, 0⟩)))

/-- `vadd.f32` (R155). -/
def execVaddF32 (o : FmtN) (s : State) : Out := laneN (.fp .add) true vfCodes o s
/-- `vsub.f32` (R155). -/
def execVsubF32 (o : FmtN) (s : State) : Out := laneN (.fp .sub) true vfCodes o s
/-- `vmul.f32` (R155). -/
def execVmulF32 (o : FmtN) (s : State) : Out := laneN (.fp .mul) true vfCodes o s
/-- `vmax.f32` (R155). -/
def execVmaxF32 (o : FmtN) (s : State) : Out := laneN (.fp .max) true vfCodes o s
/-- `vmin.f32` (R155). -/
def execVminF32 (o : FmtN) (s : State) : Out := laneN (.fp .min) true vfCodes o s
/-- `vadd.i32` (R155). -/
def execVaddI32 (o : FmtN) (s : State) : Out := laneN (.int .add) false (fun _ => true) o s
/-- `vsub.i32` (R155). -/
def execVsubI32 (o : FmtN) (s : State) : Out := laneN (.int .sub) false (fun _ => true) o s
/-- `vand` (R155). -/
def execVand (o : FmtN) (s : State) : Out := laneN (.int .and) false (fun _ => true) o s
/-- `vor` (R155). -/
def execVor (o : FmtN) (s : State) : Out := laneN (.int .or) false (fun _ => true) o s
/-- `vxor` (R155). -/
def execVxor (o : FmtN) (s : State) : Out := laneN (.int .xor) false (fun _ => true) o s
/-- `vshl.i32` (R155). -/
def execVshlI32 (o : FmtN) (s : State) : Out := laneN (.int .shl) false (fun _ => true) o s
/-- `vshr.i32` (R155). -/
def execVshrI32 (o : FmtN) (s : State) : Out := laneN (.int .shr) false (fun _ => true) o s
/-- `vmv` (R155): under m only the lanes whose m0 bit is 1. -/
def execVmv (o : FmtN) (s : State) : Out := laneN .vmv false (fun _ => true) o s
/-- `vabs.f32` (R155). -/
def execVabsF32 (o : FmtN) (s : State) : Out := laneN (.fp .abs) true vf1Codes o s
/-- `vneg.f32` (R155). -/
def execVnegF32 (o : FmtN) (s : State) : Out := laneN (.fp .neg) true vf1Codes o s
/-- `vmul.i32` (R155). -/
def execVmulI32 (o : FmtN) (s : State) : Out := laneN (.int .mul) false (fun _ => true) o s

/-! Reductions (R165, R166). -/

/-- Codes of a reduction (R152). -/
def redCodes (f : ROp) (s : State) : Bool := if f.isInt then anyCodes s else formatsOk .low .any .low s

/-- A plain `vred` (R165). -/
def vred (f : ROp) (o : FmtVRed) (s : State) : Out :=
  laneChecked true (vecOk o.a && dstOk o.d && redCodes f s) s (fun s => withDst o.d s (fun s => readScale 0 s (fun sc s =>
    let g := s.me.gov 0 0 0 sc
    laneScalar (.red f) o.y o.d o.a.toNat 0 none g s.consume)))

/-- `vred.fsum` (R165). -/
def execVredFsum (o : FmtVRed) (s : State) : Out := vred .fsum o s
/-- `vred.fmax` (R165). -/
def execVredFmax (o : FmtVRed) (s : State) : Out := vred .fmax o s
/-- `vred.fmin` (R165). -/
def execVredFmin (o : FmtVRed) (s : State) : Out := vred .fmin o s
/-- `vred.isum` (R165). -/
def execVredIsum (o : FmtVRed) (s : State) : Out := vred .isum o s
/-- `vred.imax` (R165). -/
def execVredImax (o : FmtVRed) (s : State) : Out := vred .imax o s
/-- `vred.imin` (R165). -/
def execVredImin (o : FmtVRed) (s : State) : Out := vred .imin o s

/-- Combines one popped entry into ISTATE0 and counts it (R105, R166). -/
def Strand.combine (m : Strand) (f : ROp) (g : Gov) (e : Word) : Strand :=
  let done := bitsOf m.istate1 0 48
  let x := valueOf g.fa e.toNat
  let r : Word × Nat :=
    if f.isInt then
      (if done = 0 then signExt 32 e.toNat else signExt 32 (f.combInt (m.istate0.setWidth 32) (e.setWidth 32)).toNat, 0)
    else
      let c := if done = 0 then deliver g.fd g.rm g.sat (x, if x.isSig then fNV else 0) else f.comb g (valueOf g.fd m.istate0.toNat) x
      (word c.1, c.2)
  { m.raiseFlags r.2 with istate0 := r.1, istate1 := withBits m.istate1 0 48 (done + 1) }

/-- The loop of R166 over the entries that a queue holds. -/
def Strand.combineAll (f : ROp) (g : Gov) (n : Nat) : List Word → Strand → Strand × List Word
  | [], m => (m, [])
  | e :: t, m => if bitsOf m.istate1 0 48 < n then Strand.combineAll f g n t (m.combine f g e) else (m, e :: t)

/-- A `vred.q` (R166): it consumes what the queue holds, and parks on the empty queue until n entries are consumed. DESIGN CHOICE (log 129): its scale register is
read after b, before any entry of the queue is popped. -/
def vredQ (f : ROp) (o : FmtVV) (s : State) : Out :=
  checked true true (queueOk o.a && bcOk o.b && dstOk o.d && redCodes f s) s (fun s => withDst o.d s (fun s => readSrc 0 (o.b - 32) false s (fun b s =>
    readScale 1 s (fun sc s =>
      let g := s.me.gov 0 0 0 sc
      let n := bitsOf b 0 48
      let q := o.a.toNat - 48
      let s := if s.me.istate1.getLsbD 63 then s else s.modMe (fun m => { m with istate1 := word (2 ^ 63), istate0 := f.empty g })
      let x := s.myCore.queue q
      if bitsOf s.me.istate1 0 48 < n && !x.admits s.slot false then trap .queueRole (word q) s
      else
        let mine := x.poppers.isEmpty || x.poppers.head? == some s.slot
        let vals := (List.range x.entries.length).map (fun i => if x.marks.getD i false then 0 else x.entries.getD i 0)
        let r := if mine then Strand.combineAll f g n vals s.me else (s.me, vals)
        let used := x.entries.length - r.2.length
        let s := s.modMe (fun _ => r.1)
        let done := decide (n ≤ bitsOf r.1.istate1 0 48)
        let s := s.modMyCore (fun c => c.modQueue q (fun x => { x with
          entries := x.entries.drop used, marks := x.marks.drop used,
          poppers := if done then x.poppers.filter (· != s.slot) else if x.poppers.contains s.slot then x.poppers else x.poppers ++ [s.slot] }))
        let s := ((x.marks.take used).filter id).foldl (fun (t : State) _ => t.countPoison t.core t.slot t.me.sag) s
        if done then deliverTo o.d.toNat r.1.istate0 s (fun s => complete (s.modMe Strand.wrapUp))
        else park (.pop q) s))))

/-- `vred.fsum.q` (R166). -/
def execVredFsumQ (o : FmtVV) (s : State) : Out := vredQ .fsum o s
/-- `vred.fmax.q` (R166). -/
def execVredFmaxQ (o : FmtVV) (s : State) : Out := vredQ .fmax o s
/-- `vred.fmin.q` (R166). -/
def execVredFminQ (o : FmtVV) (s : State) : Out := vredQ .fmin o s
/-- `vred.isum.q` (R166). -/
def execVredIsumQ (o : FmtVV) (s : State) : Out := vredQ .isum o s
/-- `vred.imax.q` (R166). -/
def execVredImaxQ (o : FmtVV) (s : State) : Out := vredQ .imax o s
/-- `vred.imin.q` (R166). -/
def execVredIminQ (o : FmtVV) (s : State) : Out := vredQ .imin o s

/-! The claim (R149 to R151, R261, R262). -/

/-- Whether every lane instruction of the strand has completed. -/
def Strand.lanesDone (m : Strand) : Bool := m.laneQ.isEmpty && decide (m.laneLoads = 0)

/-- Whether a core of a cluster waits to resume: free groups go to it first (R407). -/
def State.resumes (s : State) (cl : Nat) : Bool :=
  (List.range 8).any (fun i => (s.coreAt (8 * cl + i)).saved.isSome && (s.coreAt (8 * cl + i)).halting)

/-- `lane.claim` (R149): a strand without a claim parks only while others wait before it or no group is free (R244, R261). A claim that would come behind one of a
higher core or slot of the same arithmetic cycle arrives in a later one (log 125). -/
def execLaneClaim (o : FmtVA) (s : State) : Out :=
  plain (srcOk false o.a && dstOk o.d) s (fun s => withDst o.d s (fun s => readSrc 0 o.a false s (fun a s =>
    let n := a.toNat
    let g := s.me.g
    let claimed := fun (s : State) => s.modCluster s.myCluster (fun c => { c with lastClaim := (s.poolCycle, s.myRank) })
    if n < 1 || 16 < n then trap .laneRequest a s
    else if (g = 0 || g ≤ n) && s.tooLate (s.clusterAt s.myCluster).lastClaim s.myRank then hold s
    else if g = 0 && (s.clusterAt s.myCluster).claimants.isEmpty && !s.resumes s.myCluster && decide (0 < s.freeGroups s.myCluster) then
      let g' := min n (s.freeGroups s.myCluster)
      finish o.d (word g') (((claimed s).modMe (fun m => { m with g := g', v := [], m := [] })).poolEvent s.myCluster)
    else if g = 0 then
      let s := (claimed s).modCluster s.myCluster (fun c => { c with claimants := Claimant.join ⟨s.myRef, n, s.poolCycle⟩ c.claimants })
      park .lane ((s.poolEvent s.myCluster).modMe (fun m => { m with stage := 9, work := [o.d.toNat] }))
    else if !s.me.lanesDone then hold s
    else if n < g then
      let s := s.modMe (fun m => { m.dropGroups n with shrink := match m.shrink with | some t => if n ≤ t then none else some t | none => none })
      finish o.d a (s.poolEvent s.myCluster)
    else
      let free := if (s.clusterAt s.myCluster).claimants.isEmpty then s.freeGroups s.myCluster else 0
      let g' := g + min (n - g) free
      finish o.d (word g') ((claimed s).modMe (fun m => { m with g := g' })))))

/-- LANE_GRANT (R149, R261): the head of the pool's waiters receives min(n, free groups), with zeroed registers and masks. A core that waits to
resume comes first (R407). -/
def execLaneGrant (cl : Nat) (s : State) : Out :=
  match (s.clusterAt cl).claimants with
  | c :: t =>
    let free := s.freeGroups cl
    if free = 0 || s.resumes cl then .next s
    else
      let g := min c.n free
      let s := s.modCluster cl (fun x => { x with claimants := t })
      let s := s.modStrand c.who.core c.who.slot (fun m => { m with g := g, v := [], m := [] })
      .next ((s.give c.who (s.strandOf c.who).uid ⟨word g, [], 0⟩).poolEvent cl)
  | [] => .next s

/-- `lane.rel` (R150). -/
def execLaneRel (s : State) : Out :=
  plain true s (fun s =>
    if s.me.g = 0 then complete s
    else if !s.me.lanesDone then hold s
    else complete ((s.modMe (fun m => { m.dropGroups 0 with shrink := none })).poolEvent s.myCluster))

/-- `lane.sync` (R150, R151). -/
def execLaneSync (s : State) : Out :=
  plain true s (fun s =>
    if s.me.shrink.isSome && !s.me.lanesDone then hold s else complete (s.shrinkNow s.core s.slot))

/-- `lane.query` (R150). -/
def execLaneQuery (o : FmtDst) (s : State) : Out :=
  plain (dstOk o.d) s (fun s => withDst o.d s (fun s =>
    longLatency o.d (word ((if s.me.shrink.isSome then 2 ^ 24 else 0) + min 128 (s.clusterAt s.myCluster).claimants.length * 2 ^ 16 +
      s.freeGroups s.myCluster * 2 ^ 8 + s.me.g)) s))

/-- SHRINK_TAKES_EFFECT (R151): the pending shrink of a strand that waits at a re-negotiation point, once its lane instructions have completed. -/
def execShrinkTakesEffect (r : StrandRef) (s : State) : Out :=
  if (s.strandOf r).live && (s.strandOf r).rnWait then .next (s.shrinkNow r.core r.slot) else .next s

/-! Lane memory (R167 to R170). -/

/-- Checks every element, in ascending lane order, before any is performed (R167): each a lane, an address and its bit offset. -/
def laneElements (chk : Word → State → (Place → Nat → State → Out) → Out) :
    List (Nat × Word) → List (Nat × Place × Nat) → State → (List (Nat × Place × Nat) → State → Out) → Out
  | [], acc, s, k => k acc.reverse s
  | e :: t, acc, s, k => chk e.2 s (fun p bo s => laneElements chk t ((e.1, p, bo) :: acc) s k)

/-- The check of one element of n bytes at address a, of an instruction with address operand op: BAD_ADDRESS names the operand, and any other trap the element
(R167, R174, R271).
Poison is met when the element is performed, after every check of every element (log 90). -/
def elementCheck (kd : Acc) (n : Nat) (op a : Word) (s : State) (k : Place → Nat → State → Out) : Out :=
  match resolve s s.myCluster s.me.sag a n with
  | none => trap .badAddress op s
  | some _ => accessBy .lane kd a n n (fun _ => true) s (fun p s => k p 0 s)

/-- Sends the element reads of a lane load into register d (R167, R176): each element a place, and for each of its parts the byte offset, size,
destination shift, bits and low bit. `addr` gives an element's address. The reads are of one instruction, so that those of one place are made together
(R169). A core without a free request holds the strand; elements beyond the limit go out as requests come free (R177, R284). Where poison traps are elected the strand awaits the data (log 94). -/
def sendLoads (d : Nat) (acq : Bool) (ctxOf : Place → State → Nat) (parts : Nat → List (Nat × Nat × Nat × Nat × Nat))
    (addr : Nat → Word) (es : List (Nat × Place × Nat)) (s : State) : Out :=
  let reads := es.flatMap (fun e => (parts e.2.2).map (fun x =>
    let q : Place := { e.2.1 with named := e.2.1.named + x.1, loc := e.2.1.loc + x.1 }
    (q, x.2.1, LoadDst.lane d e.1 x.2.2.1 x.2.2.2.1 x.2.2.2.2)))
  match reads.find? (fun r => s.parkedOverlap r.1.named r.2.1) with
  | some r => holdOn r.1.named s
  | none =>
  if (!es.isEmpty && !s.requestRoom 1) || reads.any (fun r => s.crosses true (s.homeFor r.1 (ctxOf r.1 s)) r.1.loc r.2.1) then hold s
  else
    let op := s.serial
    let s := reads.foldl (fun (s : State) r =>
      let ctx := ctxOf r.1 s
      (s.postOf op 1 ctx r.1.named r.1.loc r.2.1 (s.homeFor r.1 ctx) (.load r.2.2)).modMe (fun m => { m with laneLoads := m.laneLoads + 1 })) s
    let s := s.modMe (fun m => { m with
      laneAcq := m.laneAcq || (acq && !es.isEmpty), laneIn := es.foldl (fun t e => Tbl.put t (d * 256 + e.1) (LaneIn.mk 0 false (addr e.1))) [] })
    if s.poisonTraps && !es.isEmpty then awaitReply 56 s else complete s

/-- The lanes of an instruction that are active, with an address for each (R167). -/
def Strand.activeLanes (m : Strand) (masked : Bool) (addr : Nat → Word) : List (Nat × Word) :=
  ((List.range m.vl).filter (fun i => !masked || (m.mask 0).getLsbD i)).map (fun i => (i, addr i))

/-- The common head of a lane memory instruction: checks, order, and the wait for earlier lane instructions (R167). -/
def laneMemory (ok : Bool) (s : State) (k : State → Out) : Out :=
  laneChecked false ok s (fun s => ordered s (fun s => if !s.me.lanesDone then hold s else k s))

/-- The address of lane i in a list of active lanes. -/
def elementAddr (es : List (Nat × Word)) (i : Nat) : Word := match es.find? (fun e => e.1 = i) with | some e => e.2 | none => 0

/-- A lane load of n-byte elements at the addresses of es, of an instruction with address operand op. -/
def laneLoad (d n : Nat) (acq base : Bool) (op : Word) (es : List (Nat × Word)) (s : State) : Out :=
  laneElements (elementCheck .load n op) es [] s (fun ps s => sendLoads d acq (baseCtx base) (fun _ => [(0, n, 0, 8 * n, 0)]) (elementAddr es) ps s)

/-- A lane store of the low n bytes of register d. -/
def laneStore (d n : Nat) (rel : Option Nat) (base : Bool) (op : Word) (es : List (Nat × Word)) (s : State) : Out :=
  laneElements (elementCheck .store n op) es [] s (fun ps s =>
    let go := fun (s : State) =>
      if ps.any (fun e => s.crosses false (s.homeFor e.2.1 (baseCtx base e.2.1 s)) e.2.1.loc n) then hold s
      else sendAll (fun p => baseCtx base p s) 1 (ps.map (fun e => (e.2.1, n, Body.store (toBytes n (s.me.laneAt d e.1).toNat)))) s complete
    match rel with
    | some scope => releasing scope s go
    | none => go s)

/-- `vld` (R168). -/
def execVld (o : FmtVM) (s : State) : Out :=
  laneMemory (srcOk false o.a && vecOk o.d) s (fun s => readSrc 0 o.a false s (fun a s =>
    let n := 2 ^ o.sz.toNat
    laneLoad o.d.toNat n (decide (2 ≤ o.c.toNat)) (decide (o.c.toNat = 1)) (baseOff a o.o n) (s.me.activeLanes false (fun i => baseOff a o.o n + word (i * n))) s))
/-- `vst` (R168). -/
def execVst (o : FmtVM) (s : State) : Out :=
  laneMemory (srcOk false o.a && vecOk o.d) s (fun s => readSrc 0 o.a false s (fun a s =>
    let n := 2 ^ o.sz.toNat
    laneStore o.d.toNat n (if 2 ≤ o.c.toNat then some (o.c.toNat - 2) else none) (decide (o.c.toNat = 1)) (baseOff a o.o n)
      (s.me.activeLanes false (fun i => baseOff a o.o n + word (i * n))) s))
/-- `vlds` (R169). -/
def execVlds (o : FmtV) (s : State) : Out :=
  laneMemory (srcOk false o.a && bcOk o.b && vecOk o.d) s (fun s => readSrc 0 o.a false s (fun a s => readSrc 1 (o.b - 32) false s (fun b s =>
    laneLoad o.d.toNat 4 false false a (s.me.activeLanes o.y (fun i => a + word i * b)) s)))
/-- `vsts` (R169). -/
def execVsts (o : FmtV) (s : State) : Out :=
  laneMemory (srcOk false o.a && bcOk o.b && vecOk o.d) s (fun s => readSrc 0 o.a false s (fun a s => readSrc 1 (o.b - 32) false s (fun b s =>
    laneStore o.d.toNat 4 none false a (s.me.activeLanes o.y (fun i => a + word i * b)) s)))
/-- `vgat` (R169). -/
def execVgat (o : FmtV) (s : State) : Out :=
  laneMemory (srcOk false o.a && vecOk o.b && vecOk o.d) s (fun s => readSrc 0 o.a false s (fun a s =>
    laneLoad o.d.toNat 4 false false a (s.me.activeLanes o.y (fun i => a + 4 * (s.me.laneAt o.b.toNat i).signExtend 64)) s))
/-- `vsca` (R169). -/
def execVsca (o : FmtV) (s : State) : Out :=
  laneMemory (srcOk false o.a && vecOk o.b && vecOk o.d) s (fun s => readSrc 0 o.a false s (fun a s =>
    laneStore o.d.toNat 4 none false a (s.me.activeLanes o.y (fun i => a + 4 * (s.me.laneAt o.b.toNat i).signExtend 64)) s))

/-- The check of one bit-packed element of w bits at bit address a, of an instruction with address operand op (R170, R182). -/
def bitElement (kd : Acc) (w : Nat) (op a : Word) (s : State) (k : Place → Nat → State → Out) : Out := bitAccess .lane kd op a w s k

/-- The bit addresses of the active lanes (R170); none where one leaves the 46-bit offset. -/
def Strand.bitLanes (m : Strand) (masked : Bool) (a : Word) (w : Nat) : List (Nat × Word) :=
  m.activeLanes masked (fun i => withBits a 0 46 (min (bitsOf a 0 46 + i * w) (2 ^ 46 - 1)))

/-- `vldb` (R170). -/
def execVldb (o : FmtVBit) (s : State) : Out :=
  laneMemory (srcOk false o.a && vecOk o.d) s (fun s => readSrc 0 o.a false s (fun a s =>
    let w := o.w.toNat + 1
    if bitsOf a 60 4 ≠ 8 && bitsOf a 60 4 ≠ 9 then trap .bitAddress a s
    else
      let es := s.me.bitLanes o.y a w
      laneElements (bitElement .load w a) es [] s (fun ps s =>
        sendLoads o.d.toNat false (baseCtx false) (fun bo => (bankWords bo w).map (fun x => (x.1, 4, x.2.1, x.2.2.1, x.2.2.2))) (fun i => byteOfBit (elementAddr es i)) ps s)))
/-- `vstb` (R170): one masked write of each bank word of each element. -/
def execVstb (o : FmtVBit) (s : State) : Out :=
  laneMemory (srcOk false o.a && vecOk o.d) s (fun s => readSrc 0 o.a false s (fun a s =>
    let w := o.w.toNat + 1
    if bitsOf a 60 4 ≠ 8 && bitsOf a 60 4 ≠ 9 then trap .bitAddress a s
    else laneElements (bitElement .store w a) (s.me.bitLanes o.y a w) [] s (fun ps s =>
      let ws := ps.flatMap (fun e => (bankWords e.2.2 w).map (fun x => e.2.1.bitsOut (s.me.laneAt o.d.toNat e.1).toNat x))
      if ws.any (fun x => s.crosses false (s.homeFor x.1 (s.tagFor x.1)) x.1.loc 4) then hold s
      else sendAll s.tagFor 1 ws s complete)))

/-- The last element of a lane load has come (R167): the lanes are written, a poisoned element as 0, the poisoned elements counted, and the lane
instructions that waited take effect. Where poison traps are elected, the first poisoned element in lane order raises POISON and no lane changes. -/
def State.landLanes (s : State) (c k : Nat) : State :=
  let m := s.strandAt c k
  let bad := m.laneIn.filter (fun e => e.2.bad)
  let done := fun (m : Strand) => { m with laneIn := [], laneAcq := false, reply := if m.stage = 9 then some ⟨0, [], 0⟩ else m.reply,
                                           status := if m.stage = 9 then .ready else m.status }
  match (if s.elects m.sag then bad.head? else none) with
  | some e => s.modStrand c k (fun m => { (done m) with reply := some ⟨e.2.addr, [], 14⟩ })
  | none =>
    let t := s.modStrand c k (fun m =>
      let m := m.laneIn.foldl (fun (m : Strand) e => m.setLane (e.1 / 256) (e.1 % 256) (if e.2.bad then 0 else e.2.val)) m
      done m.drainLanes)
    bad.foldl (fun (t : State) _ => t.countPoison c k m.sag) t

/-- Whether the last element of a lane load changes its strand beyond its lanes. -/
def State.landingTells (s : State) (c k : Nat) (poison : Option Nat) : Bool :=
  let m := s.strandAt c k
  decide (m.laneLoads = 1) && (decide (m.stage = 9) || poison.isSome || m.laneIn.any (fun e => e.2.bad))

/-- LOAD_DATA_RETURN (R167, R176): the data of a load reaches its strand, a register's pending result or a lane. While the core's die relocks the strand keeps its
place, and only lanes, which lie in the arithmetic domain, are written (R441). -/
def execLoadDataReturn (r : StrandRef) (k : Nat) (s : State) : Out :=
  match s.acks[k]? with
  | some ⟨_, core, slot, uid, .data dst v poison, _⟩ =>
    if core ≠ r.core ∨ slot ≠ r.slot then .next s
    else
      let t := { s with acks := dropAt s.acks k }
      if !s.alive core slot uid then .next t
      else if s.relocking core && ((s.strandAt core slot).dying || s.landingTells core slot poison) then .next s
      else if (s.strandAt core slot).dying then .next (t.reap core slot)
      else
        match dst with
        | .reg id shift bits lo => if s.relocking core then .next s else .next (t.fillLoad core slot id shift bits lo v poison)
        | .lane reg lane shift bits lo =>
          let t := t.modStrand core slot (fun m => { m with
            laneLoads := m.laneLoads - 1,
            laneIn := Tbl.upd m.laneIn (reg * 256 + lane) (LaneIn.mk 0 false 0) (fun e =>
              { e with val := e.val ||| BitVec.ofNat 32 (LoadDst.take v bits lo * 2 ^ shift), bad := e.bad || poison.isSome }) })
          .next (if (t.strandAt core slot).laneLoads = 0 then t.landLanes core slot else t)
  | _ => .next s

end Sys2Proof.Machine
end

