-- ==== Sys2Proof/Machine/Preempt.lean ====
section
/-! DEFINITION. Pre-emption of a core (R100, R208, R259, R267, R367 to R369, R405 to R407). While a core is saved its strands stay in their slots and do not
run; what its cluster and the homes held for them is in the save. A core that leaves its saggar while it is saved takes all of that along (Saggars.lean). -/

namespace Sys2Proof.Machine

/-! The save. -/

/-- A pre-emption begins to stop a core: it issues nothing new, and held strands back off (R405, R406 step 1). -/
def State.haltCore (s : State) (core : Nat) : State := (s.backOffAll core).modCore core (fun c => { c with halting := true })

/-- Whether the jobs of a core may be saved: its copy, gather and collective jobs are complete, follow-ons are placed, and no matrix job is about to
complete as failed (R367 step 2). -/
def State.jobsReady (s : State) (core : Nat) : Bool :=
  (s.clusterAt (clusterOf core)).jobs.all (fun j => decide (j.core ≠ core) || (decide (j.desc.kind.unit = 3) && decide (j.state ≠ .reserved) && decide (j.fail = 0)))

/-- Whether every strand of a core stands where it may be saved: no reply is due, and its lane loads have come (R405). -/
def State.strandsReady (s : State) (core : Nat) : Bool :=
  s.quiet core && (s.coreAt core).liveSlots.all (fun k =>
    let m := s.strandAt core k
    m.laneQ.isEmpty && decide (m.laneLoads = 0) &&
    !s.acks.any (fun a => decide (a.uid = m.uid) && decide (a.core = core) && (match a.body with | .reply _ => true | _ => false)))

/-- Bytes that an `mmst` job writes in one row. -/
def Job.rowBytes (j : Job) : Nat := (bandsOf j.desc.bands).length * (2 * fmtWidth j.gov.fd)

/-- Withdraws one matrix job (R367 step 3, R368): none while it stands inside a row. The rows that have been read and not entered are caught: those read afresh, of
which `ws` says how many, and those that were still replayed from the spill ring. -/
def State.withdraw (s : State) (cl : Nat) (j : Job) (ws : List WithdrawRec) : Option (Job × State) :=
  if j.state ≠ .running || decide (j.desc.kind = .mmsw) then some ({ j with state := .withdrawn }, s)
  else
    let w := (ws.find? (fun w => w.job = j.id)).getD ⟨j.id, j.row, 0⟩
    let row := min (max w.row j.row) j.desc.rows
    let rest := j.writes.filter (fun x => decide (row ≤ x.row))
    if j.desc.kind = .mmst && decide (rest.length ≠ (j.desc.rows - row) * j.rowBytes) then none
    else
      let (left, s) := State.drainJob cl j (j.writes.filter (fun x => decide (x.row < row))) s
      if !left.isEmpty then none
      else
        let done := { j with covers := j.covers.filter (fun c => !rest.any (fun x => decide (poisonWord x.loc = c.1))) }
        let s := (s.settleCovers done).matrixRows cl j j.row row
        let stop := max (row + min w.caught 32) j.replayed
        let keep := if j.desc.kind = .mmrun then j.caught.filter (fun e => decide (row ≤ e.1) && decide (e.1 < stop)) else []
        some ({ j with state := .withdrawn, row := row, caught := keep, replayed := stop, writes := [], covers := [] }, s)

/-- Withdraws the matrix jobs of a core in their order. -/
def State.withdrawAll (cl : Nat) (ws : List WithdrawRec) : List Job → State → Option (List Job × State)
  | [], s => some ([], s)
  | j :: t, s =>
    match s.withdraw cl j ws with
    | none => none
    | some (j, s) => match State.withdrawAll cl ws t s with | none => none | some (js, s) => some (j :: js, s)

/-- The barrier waits of a core's strands, wherever the barriers are: slot, core, barrier, phase (R208). -/
def State.barWaits (s : State) (core : Nat) : List (Nat × Nat × Nat × Nat) :=
  s.cores.flatMap (fun c => c.2.bars.flatMap (fun b => (b.2.waiters.filter (fun w => w.1.core = core)).map (fun w => (w.1.slot, c.1, b.1, b.2.ph))))

/-- Whether an allocator request is a strand's of a core. -/
def TagReq.ofCore (t : TagReq) (core : Nat) : Bool := match t with | .strand r _ _ _ _ => decide (r.core = core) | _ => false

/-- What a save takes from the pool, the cluster and the homes. -/
def State.saveOf (s : State) (core : Nat) (jobs : List Job) : CoreSave :=
  let cl := s.clusterAt (clusterOf core)
  let owned := (List.range 8).filter (fun b => decide (bitsOf cl.bandMap (4 * b) 4 = 8 + core % 8))
  { claims := ((s.coreAt core).liveSlots.filter (fun k => decide (0 < (s.strandAt core k).g))).map (fun k => (k, (s.strandAt core k).uid, (s.strandAt core k).g)),
    jobs := jobs,
    ranges := cl.ranges.filter (fun r => decide (r.core = core)),
    bands := owned.map (fun b => (b, Tbl.get cl.bands b Band.clear)),
    waits := s.waiters.filter (fun w => decide (w.msg.core = core)),
    bars := s.barWaits core,
    tags := s.saggars.flatMap (fun g => g.2.tagWait.filter (fun t => t.ofCore core)),
    rings := s.saggars.flatMap (fun g => g.2.queues.flatMap (fun q => (q.2.waiters.filter (fun w => w.1.core = core)).map (fun w => (w.1.slot, q.1)))),
    twaits := s.saggars.flatMap (fun g => g.2.entries.flatMap (fun e => (e.waiters.filter (fun w => w.1.core = core)).map (fun w => (w.1.slot, e.handle)))),
    lanes := cl.claimants.filter (fun c => decide (c.who.core = core)) }

/-- The saved core leaves its cluster and the homes, and its groups go back to the pool (R406 steps 2 to 4). -/
def State.takeOut (s : State) (core : Nat) (v : CoreSave) : State :=
  let notMine := fun (w : StrandRef × Nat) => decide (w.1.core ≠ core)
  let clean := fun (g : Saggar) => { g with
    tagWait := g.tagWait.filter (fun t => !t.ofCore core),
    queues := g.queues.map (fun q => (q.1, { q.2 with waiters := q.2.waiters.filter notMine })),
    entries := g.entries.map (fun e => { e with waiters := e.waiters.filter notMine }) }
  let bars := fun (c : Core) => { c with bars := c.bars.map (fun b => (b.1, { b.2 with waiters := b.2.waiters.filter notMine })) }
  let s : State := { s with
    waiters := s.waiters.filter (fun w => decide (w.msg.core ≠ core)),
    cores := s.cores.map (fun (c : Nat × Core) => (c.1, bars c.2)),
    saggars := s.saggars.map (fun (g : Nat × Saggar) => (g.1, clean g.2)) }
  let s := s.modCluster (clusterOf core) (fun c => { c with
    jobs := c.jobs.filter (fun j => decide (j.core ≠ core)), ranges := c.ranges.filter (fun r => decide (r.core ≠ core)),
    claimants := c.claimants.filter (fun x => decide (x.who.core ≠ core)) })
  let s := s.modCore core (fun c => { c with
    saved := some v, halting := false, slots := c.slots.map (fun (e : Nat × Strand) => (e.1, { e.2 with g := 0, shrink := none })) })
  s.poolEvent (clusterOf core)

/-- PREEMPT_SAVE (R405, R406): the core halts, and is saved once its strands and jobs allow it; `ws` says how far its running matrix jobs got. A stopped
core is not pre-empted (R433), and while the die relocks its strands keep their places (R441). -/
def execPreemptSave (core : Nat) (ws : List WithdrawRec) (s : State) : Out :=
  if (s.coreAt core).stopped || (s.coreAt core).saved.isSome || s.relocking core then .next s
  else
    let s := s.haltCore core
    let cl := clusterOf core
    if !s.strandsReady core || !s.jobsReady core then .next s
    else
      match State.withdrawAll cl ws ((s.clusterAt cl).jobs.filter (fun j => decide (j.core = core))) s with
      | none => .next s
      | some (jobs, t) => .next (t.takeOut core (t.saveOf core jobs))

/-! The resume. -/

/-- Whether a band may go back to a saved core: no job of it of another core is pending, running or withdrawn, where its owner has changed (R359). -/
def State.bandBack (s : State) (core b : Nat) : Bool :=
  let cl := clusterOf core
  let others := (s.clusterAt cl).jobs ++ (List.range 8).flatMap (fun c =>
    if 8 * cl + c = core then [] else (s.coreAt (8 * cl + c)).withdrawn)
  decide (bitsOf (s.clusterAt cl).bandMap (4 * b) 4 = 8 + core % 8) || !others.any (fun j => decide (j.desc.kind.unit = 3) && (bandsOf j.desc.bands).contains b)

/-- The bands of a saved core, with their map entries, once all may go back to it (R369). -/
def State.bandsBack (s : State) (core : Nat) (v : CoreSave) : CoreSave × State :=
  if v.bands.all (fun b => s.bandBack core b.1) then
    ({ v with bands := [] }, s.modCluster (clusterOf core) (fun c => { c with
      bands := v.bands.foldl (fun t b => Tbl.set t b.1 b.2 Band.clear) c.bands,
      bandMap := v.bands.foldl (fun w b => withBits w (4 * b.1) 4 (8 + core % 8)) c.bandMap }))
  else (v, s)

/-- Withdrawn jobs are placed again one by one, in their old order, each with a queue entry in the core's turn and its quoin entries (R356, R369). -/
def State.jobsBack (core : Nat) : Nat → CoreSave → State → CoreSave × State
  | 0, v, s => (v, s)
  | n + 1, v, s =>
    let cl := clusterOf core
    match v.jobs with
    | [] => (v, s)
    | j :: t =>
      let s := s.modCore core (fun c => { c with saved := some v, halting := true })
      if s.replacing core && decide (s.entryCore cl = some (core % 8)) && decide ((s.clusterAt cl).jobs.length < Config.jobQueueDepth) then
        State.jobsBack core n { v with jobs := t, ranges := v.ranges.filter (fun r => decide (r.job ≠ j.id)) }
          (s.modCluster cl (fun c => { c with
            jobs := c.jobs ++ [{ j with state := .waiting }], ranges := c.ranges ++ v.ranges.filter (fun r => decide (r.job = j.id)), lastGrant := core % 8 }))
      else (v, s)

/-- Saved claims are granted their groups, in order, as far as groups are free; one whose strand has been discarded is dropped (R351, R407). -/
def State.claimsBack (core : Nat) : List (Nat × Nat × Nat) → State → List (Nat × Nat × Nat) × State
  | [], s => ([], s)
  | (k, u, g) :: t, s =>
    if !s.alive core k u then State.claimsBack core t s
    else if s.freeGroups (clusterOf core) < g then ((k, u, g) :: t, s)
    else State.claimsBack core t (s.modStrand core k (fun m => { m with g := g }))

/-- The status ring with the pending statuses of withdrawn jobs, which are still among the core's 64 newest: no job 64 later has been placed (R211, R215, R367,
R369). -/
def Core.ringBack (c : Core) (l : List (Nat × Word)) : List (Nat × Word) := l.foldl (fun t e => Tbl.put t e.1 e.2) c.jobRing

/-- A core that has come back to a saggar takes what was saved of it there, once its slots are free (R267, R406). -/
def State.bringBack (s : State) (core : Nat) : State :=
  let x := s.coreAt core
  match x.tenant.bind (fun g => (Tbl.find x.away g).map (fun a => (g, a))) with
  | some (g, v, i) =>
    if x.saved.isSome || !x.liveSlots.isEmpty || !x.replay.isEmpty then s
    else s.modCore core (fun c => { c with
      slots := i.slots, queues := i.queues, bars := i.bars, mail := i.mail, replay := i.replay, tags := i.tags, tagCount := i.tagCount, jobRing := x.ringBack i.ring, saved := some v, away := Tbl.del c.away g })
  | none => s

/-- Whether the strand in a slot still waits as it did at the save. -/
def State.stillParked (s : State) (r : StrandRef) (w : Wait) : Bool :=
  (s.strandOf r).live && !(s.strandOf r).dying && decide ((s.strandOf r).status = .parked w)

/-- A reply found when a wait is registered again. -/
def State.foundReply (s : State) (r : StrandRef) (v : Word) : State := s.modStrand r.core r.slot (fun m => { m with reply := some ⟨v, [], 0⟩ })

/-- A `twait` is registered again (R208, R232). -/
def State.twaitAgain (s : State) (r : StrandRef) (h : Nat) : State :=
  let m := s.strandOf r
  match (s.sagAt m.sag).bind (fun g => g.entryAt h) with
  | none => s.foundReply r 3
  | some e =>
    match e.st with
    | .complete =>
      if 65535 ≤ e.pins then s.foundReply r 3
      else (s.modEntry m.sag h (fun e => { e with pins := e.pins + 1 })).foundReply r (word e.countField)
    | .failed => s.foundReply r 1
    | .evaluating => s.modEntry m.sag h (fun e => { e with waiters := e.waiters ++ [(r, m.uid)] })

/-- Every wait of a saved core that a home, barrier or pool held is registered again (R208); one whose word's pseudo-channel reloads its table comes to its home after
the reload (R419). -/
def State.waitAgain (s : State) (core : Nat) (v : CoreSave) : State :=
  let uid := fun (s : State) (k : Nat) => (s.strandAt core k).uid
  let s := v.waits.foldl (fun (s : State) w =>
    if !s.alive w.msg.core w.msg.slot w.msg.uid then s
    else if s.stalled w.msg then { s with waiters := s.waiters ++ [⟨w.msg, true⟩] } else s.waiterArrives w.msg) s
  let s := v.bars.foldl (fun (s : State) b =>
    let r : StrandRef := ⟨core, b.1⟩
    if !s.stillParked r .barrier then s
    else match s.barApply b.2.1 b.2.2.1 (.wait b.2.2.2) r (uid s b.1) with | (some x, s) => s.foundReply r x | (none, s) => s) s
  let s := v.tags.foldl (fun (s : State) t =>
    match t with
    | .strand r _ _ _ _ => if s.stillParked r .ctalloc then s.modSag (s.strandOf r).sag (fun g => { g with tagWait := g.tagWait ++ [t] }) else s
    | _ => s) s
  let s := v.rings.foldl (fun (s : State) q =>
    let r : StrandRef := ⟨core, q.1⟩
    let g := (s.strandOf r).sag
    if s.stillParked r (.ring q.2) then State.serveRing 1 (s.modQueue g q.2 (fun x => { x with waiters := x.waiters ++ [(r, uid s q.1)] })) g q.2 else s) s
  let s := v.twaits.foldl (fun (s : State) t => if s.stillParked ⟨core, t.1⟩ .twait then s.twaitAgain ⟨core, t.1⟩ t.2 else s) s
  v.lanes.foldl (fun (s : State) c =>
    if s.stillParked c.who .lane then s.modCluster (clusterOf core) (fun x => { x with claimants := Claimant.join { c with cycle := s.poolCycle } x.claimants }) else s) s

/-- PREEMPT_RESUME (R267, R369, R407): bands, withdrawn jobs one by one, claims, and then the strands with their waits; where one of these must wait, the
resume goes on from there at its next turn, ahead of every claimant at the pool. -/
def execPreemptResume (core : Nat) (s : State) : Out :=
  let s := s.bringBack core
  match (s.coreAt core).saved with
  | none => .next s
  | some v =>
    let (v, s) := s.bandsBack core v
    let (v, s) := if v.bands.isEmpty then State.jobsBack core v.jobs.length v s else (v, s)
    let (claims, s) := if v.bands.isEmpty && v.jobs.isEmpty then State.claimsBack core v.claims s else (v.claims, s)
    if !v.bands.isEmpty || !v.jobs.isEmpty || !claims.isEmpty then .next (s.modCore core (fun c => { c with saved := some { v with claims := claims }, halting := true }))
    else
      let s := s.modCore core (fun c => { c with saved := none, halting := false })
      .next (((s.waitAgain core v).poolEvent (clusterOf core)).wakeUnit core)

end Sys2Proof.Machine
end

