-- ==== Sys2Proof/Machine/Speculation.lean ====
section
/-! DEFINITION. Boosted speculation (R236 to R241, R337 to R350): spawning and dispatch, abstract operations and their locks, commits, aborts and
inverse routines. -/

namespace Sys2Proof.Machine

/-! Domains and tasks. -/

/-- The instance whose speculation domain a strand spawns into: its task's launch (R236). -/
def State.domainOf (s : State) (m : Strand) : Nat :=
  match m.spec with
  | some r => r.inst
  | none =>
    match (s.sagAt m.sag).bind (fun g => g.tasks.find? (fun t => some t.id = m.task)) with
    | some t => t.inst
    | none => 0

/-- Entries that a saggar's pending-launch pool and its spill area hold (R375). -/
def Saggar.poolSize (g : Saggar) : Nat := Config.poolEntries + g.cfg.spillMib * 16384
/-- Whether the pool has no room (R375). -/
def Saggar.poolFull (g : Saggar) : Bool := decide (g.poolSize ≤ g.pool.length)
/-- The number of the newest committed ordered task of a domain (R337). -/
def Saggar.newestOf (g : Saggar) (inst : Nat) : Option Nat := (g.instances.find? (fun i => i.id = inst)).bind (·.newest)

/-- An `sspawn` form (R236): a release whatever its result (R192). It reaches the pool in the order of its arithmetic cycle (R375). -/
def sspawnForm (ord : Bool) (o : FmtA) (s : State) : Out :=
  plain (srcOk o.x o.a && srcOk o.y o.b && dstOk o.d) s (fun s => ordered s (fun s => withDst o.d s (fun s => two o s (fun a b s =>
    readRecord 2 a 4 s (fun r s => releasing 2 s (fun s => withSag s (fun g =>
      let m := s.me
      let inst := s.domainOf m
      let seq := bitsOf b 0 48
      let pc := r.getD 0 0
      if pc = 0 || pc.getLsbD 0 then finish o.d 4 s
      else if g.specs.any (fun t => t.is ⟨inst, seq⟩) then finish o.d 2 s
      else if ord && (match g.newestOf inst with | some n => decide (seq ≤ n) | none => false) then finish o.d 3 s
      else if s.tooLate g.lastLaunch s.myRank then hold s
      else if g.poolFull then finish o.d 1 s
      else
        let t : SpecTask := ⟨inst, seq, pc, r.getD 1 0, r.getD 2 0, r.getD 3 0, ord, .queued, none, none, m.task, false, false, false, false, false, 0,
          bitsOf m.st 0 2, m.tspace, m.priv, none, 0, 0, 0, 0, 0, 0, 0, 0⟩
        finish o.d 0 (s.modSag m.sag (fun g => { g with specs := g.specs ++ [t], pool := g.pool ++ [.spec inst seq], lastLaunch := (s.poolCycle, s.myRank) })))))))))

/-- `sspawn.ordered` (R236). -/
def execSspawnOrdered (o : FmtA) (s : State) : Out := sspawnForm true o s
/-- `sspawn.unordered` (R236). -/
def execSspawnUnordered (o : FmtA) (s : State) : Out := sspawnForm false o s

/-- The address of an undo area, or its location in HBM (R326, R337). -/
def undoAt (base area : Nat) : Nat := base + 8192 * area
/-- The first undo area of a domain that no task of it has (R337). -/
def Saggar.freeArea (g : Saggar) (inst : Nat) : Option Nat :=
  match g.instances.find? (fun i => i.id = inst) with
  | some i => i.areas.find? (fun a => !g.specs.any (fun t => t.area = some a))
  | none => none
/-- Where an undo record lies: at a location, nowhere, or not yet known, while its page may not be written or its walk waits. -/
inductive UndoPlace where
  | at_ (loc : Nat) | nowhere | waits
  deriving DecidableEq, Repr

/-- Where an undo record at an address lies: in the undo region, or, where software has moved UNDOP out of it, where hardware would translate the address
(R337, R344, log 101), with the state after the walk (R388, R392). -/
def State.undoLoc (s : State) (sag : Nat) (kd : Acc) (a : Word) : UndoPlace × State :=
  match s.sagAt sag with
  | some g =>
    if g.cfg.undoVa ≤ a.toNat && a.toNat + 32 ≤ undoAt g.cfg.undoVa g.cfg.undoAreas then
      let loc := g.cfg.undoPa + (a.toNat - g.cfg.undoVa)
      (if s.tableWaits loc 32 then .waits else .at_ loc, s)
    else match translate s ⟨sag, g.clusterNo 0, g.cfg.heapb, g.cfg.heapl, g.cfg.heapo, none⟩ kd a.toNat 32 with
      | (.ok loc, s) => (if s.tableWaits loc 32 then .waits else .at_ loc, s)
      | (.replay .., s) | (.waits, s) => (.waits, s)
      | (_, s) => (.nowhere, s)
  | none => (.nowhere, s)

/-- Whether the order of its domain lets a queued task be dispatched (R348). -/
def Saggar.dispatchOk (g : Saggar) (t : SpecTask) : Bool :=
  let dom := g.specs.filter (fun x => decide (x.inst = t.inst) && !x.is ⟨t.inst, t.seq⟩)
  !dom.any (fun x => x.solo && decide (x.st ≠ .queued)) &&
  (!t.solo || !t.ordered || !dom.any (fun x => decide (x.seq < t.seq)))

/-- SPEC_TASK_DISPATCH (R236, R248, R327, R337, R348): a queued task takes a tag, or waits for one in the allocator's list; with a tag, an undo area
and a helper slot it starts. -/
def execSpecTaskDispatch (sag inst seq core : Nat) (s : State) : Out :=
  let ref : SpecRef := ⟨inst, seq⟩
  match s.sagAt sag, s.specAt sag ref with
  | some g, some t =>
    if t.st ≠ .queued || !g.dispatchOk t then .next s
    else
      match t.tag with
      | none =>
        match (if g.tagWait.isEmpty then g.freeTag else none) with
        | some tag => .next ((s.giveTag sag tag 0 0 0 (some ref)).modSpec sag ref (fun t => { t with tag := some tag }))
        | none =>
          if g.tagWait.contains (.task inst seq) then .next s else .next (s.modSag sag (fun g => { g with tagWait := g.tagWait ++ [.task inst seq] }))
      | some tag =>
        let x := s.coreAt core
        match g.freeArea inst, (if g.holds (clusterOf core) then s.grant sag core else none) with
        | some area, some (j, b) =>
          let z := x.slotAt 0
          let undob := word (undoAt g.cfg.undoVa area)
          let s := (s.modSpec sag ref (fun t => { t with
            st := .running, area := some area, cluster := clusterOf core, sdone := false, undop := undob, undob := undob, tvec := z.tvec, heapb := z.heapb,
            heapl := z.heapl, heapo := z.heapo, space := t.tspace })).modSag sag
            (fun g => { g with pool := g.pool.filter (· ≠ .spec inst seq) })
          .next ((s.enter core j b (fun n => { n with
            pc := t.pc, s := Tbl.set (Tbl.set (Tbl.set [] 1 t.a0 0) 2 t.a1 0) 3 t.a2 0, st := word t.rm, ctx := tag, tspace := t.tspace, seq := seq,
            undob := undob, undop := undob, tvec := z.tvec, heapb := z.heapb, heapl := z.heapl, heapo := z.heapo, priv := t.priv, sag := sag, task := t.task,
            spec := some ref })).wakeUnit core)
        | _, _ => .next s
  | _, _ => .next s

/-! Abstract operations (R237, R340 to R344, R348). -/

/-- The value of a pair of kinds in the commutativity table; 3 beyond the loaded size (R237, R343). -/
def pairValue (t : CommuteTable) (a b : Nat) : Nat := if a < t.size && b < t.size then t.vals.getD (a * t.size + b) 3 else 3

/-- The home bank of an object, among the saggar's banks (R340). -/
def Saggar.lockBank (g : Saggar) (obj : Word) : Nat :=
  let h := obj ^^^ rotl obj 32
  bitsOf h 0 32 % max g.size 1 * 16 + bitsOf h 32 4
/-- Whether an object's bank has no free lock entry (R340). -/
def Saggar.locksFull (g : Saggar) (obj : Word) : Bool :=
  decide (bitsOf g.part 20 5 * 128 ≤ (g.locks.filter (fun l => g.lockBank l.obj = g.lockBank obj)).length)

/-- The first broken field of a `bop` record, by its offset (R237). -/
def bopLimits (r : List Word) : Option Nat :=
  let ipc := r.getD 2 0
  if 64 ≤ recBits r 8 1 then some 8 else if recBits r 9 7 ≠ 0 then some 9 else if ipc = 0 || ipc.getLsbD 0 then some 16 else none

/-- What the check of a `bop` against the locks finds (R237, R341, R343). -/
inductive Verdict where
  | free | miss | abortSelf | abortOther (r : SpecRef)
  deriving DecidableEq, Repr

/-- The place of an instance in the order of acceptance (R341). -/
def Saggar.acceptOf (g : Saggar) (inst : Nat) : Nat := match g.instances.find? (fun i => i.id = inst) with | some i => i.accept | none => 0

/-- Judges a `bop` of task t against the locks, one at a time; also counts the misses (R237). A solo task aborts the holder of any lock it meets, and no
pair is looked up (R348, log 102). -/
def Saggar.judge (g : Saggar) (t : SpecTask) (obj key : Word) (kind : Nat) : List Lock → Nat → Verdict × Nat
  | [], n => (.free, n)
  | l :: ls, n =>
    if l.obj ≠ obj || (l.inst = t.inst && l.seq = t.seq) then g.judge t obj key kind ls n
    else if t.solo then (.abortOther ⟨l.inst, l.seq⟩, n)
    else
      let v := pairValue g.commute kind l.kind
      if v = 3 && g.commute.missTrap then (.miss, n)
      else
        let n := if v = 3 then n + 1 else n
        if v = 0 || v = 3 || (v = 2 && key = l.key) then
          let lose := if l.inst = t.inst then decide (l.seq < t.seq) else decide (g.acceptOf l.inst < g.acceptOf t.inst)
          (if lose then .abortSelf else .abortOther ⟨l.inst, l.seq⟩, n)
        else g.judge t obj key kind ls n

/-- Writes an undo record at a task's UNDOP, in context 0, and advances it (R237, R344, R442). -/
def State.pushUndo (s : State) (sag : Nat) (ref : SpecRef) (t : SpecTask) (p : UndoPlace) (ws : List Word) : State :=
  let s := match p with
    | .at_ loc => (s.wakeHome (homeOf loc)).applyStore (dieOf t.cluster) (8 * t.cluster) 16 0 sag 0 t.undop.toNat loc (ws.flatMap (fun (w : Word) => toBytes 8 w.toNat))
    | _ => s.count sag (fun c => { c with droppedWrite := sat1 c.droppedWrite })
  s.setUndo sag ref t.undob (t.undop + 32)

/-- How the home answers a `bop` (R237): CT_MISS, the lock is taken, the issuing task aborts, it waits for a holder's abort, or (`full`) for a free entry of the
bank or the place of its undo record. -/
inductive BopEnd where
  | miss | taken | gone | waits (q : SpecRef) | full
  deriving DecidableEq, Repr

/-- The home and the abort unit decide a `bop` of a task on an object, from the dwords of its record (R237, R340 to R344, R348). DESIGN CHOICE (log 137): where
the bank is full and no task of the domain holds an entry in it, the `bop` waits for a free one; the only holder of R342 is the only one of its domain. -/
def State.bopDecide (s : State) (sag : Nat) (ref : SpecRef) (obj : Word) (r : List Word) : BopEnd × State :=
  match s.sagAt sag, s.specAt sag ref with
  | some g, some t =>
    let kind := recBits r 8 1
    let key := r.getD 0 0
    if g.specs.any (fun x => decide (x.inst = t.inst) && x.solo && decide (x.st ≠ .queued) && !x.is ref) then (.gone, s.beginAbort sag ref false false false)
    else
      let j := g.judge t obj key kind g.locks 0
      match j.1 with
      | .miss => (.miss, s)
      | v =>
        let s := s.count sag (fun c => { c with specMiss := (c.specMiss + j.2) % 2 ^ 64 })
        match v with
        | .abortSelf => (.gone, s.beginAbort sag ref false false false)
        | .abortOther q => (.waits q, s.beginAbort sag q false false false)
        | _ =>
          if t.solo then (.taken, s)
          else
            let mine : Lock := ⟨obj, t.inst, t.seq, kind, key⟩
            if !g.locks.contains mine && g.locksFull obj then
              let holders := (g.locks.filter (fun l => decide (g.lockBank l.obj = g.lockBank obj) && decide (l.inst = t.inst))).map (·.seq)
              match holders.max? with
              | none => (.full, s)
              | some q =>
                if q = t.seq then (.gone, s.beginAbort sag ref (holders.all (· = t.seq)) false false)
                else (.waits ⟨t.inst, q⟩, s.beginAbort sag ⟨t.inst, q⟩ false false false)
            else
              let lock := fun (s : State) => s.modSag sag (fun g => { g with locks := if g.locks.contains mine then g.locks else g.locks ++ [mine] })
              if t.undop - t.undob = 256 * 32 then (.gone, (lock s).beginAbort sag ref true false false)
              else
                match s.undoLoc sag .store t.undop with
                | (.waits, s) => (.full, s)
                | (p, s) => (.taken, (lock s).pushUndo sag ref t p [r.getD 2 0, r.getD 3 0, r.getD 4 0, obj])
  | _, _ => (.gone, s)

/-- `bop` completes: the strand's accesses act in context 0 (R237). -/
def bopDone (s : State) : Out := complete (s.modMe (fun m => { m with bop := true }))

/-- The body of `bop` once its record is in hand (R237): a strand that waits for a holder's abort is out of the rotation (stage 1). -/
def bopRun (ref : SpecRef) (obj : Word) (r : List Word) (s : State) : Out :=
  match s.bopDecide s.me.sag ref obj r with
  | (.miss, s) => trap .ctMiss obj s
  | (.taken, s) => bopDone s
  | (.gone, s) => .next s
  | (.waits q, s) => .next (s.modMe (fun m => { m with status := .out, stage := 1, work := [q.inst, q.seq] }))
  | (.full, s) => hold s

/-- A `bop` that waited for the task whose locks have just been released is decided again at once, before any later `bop` (R237, R345 step 5, R346):
its strand goes on in stage 2, waits again, or issues it anew. During a relock of the strand's die that answer queues (R441): 0 to go on, 1 to issue anew. -/
def State.bopAgain (s : State) (q : SpecRef) (x : StrandRef) : State :=
  let m := s.strandOf x
  match m.spec with
  | some ref =>
    if m.dying || m.stage ≠ 1 || !m.waitsBop || m.work ≠ [q.inst, q.seq] then s
    else
      let go := fun (s : State) (stage : Nat) (st : Status) (work : List Nat) => s.modStrand x.core x.slot (fun m => { m with stage := stage, status := st, work := work })
      let queue := fun (s : State) (v : Word) => (go s 1 .out []).give x m.uid ⟨v, [], 0⟩
      match s.bopDecide m.sag ref (match m.reads with | a :: _ => a.val | [] => 0) ((m.reads.drop 2).map (·.val)) with
      | (.taken, s) => if s.relocking x.core then queue s 0 else go s 2 .ready []
      | (.gone, s) => s
      | (.waits q, s) => go s 1 .out [q.inst, q.seq]
      | (.miss, s) | (.full, s) => if s.relocking x.core then queue s 1 else go s 0 .ready []
  | none => s

/-- A task's locks are released (R345 step 5, R349), and the `bop`s that waited for them are decided. -/
def State.releaseLocks (s : State) (sag : Nat) (q : SpecRef) : State :=
  let t := s.modSag sag (fun g => { g with locks := g.locks.filter (fun l => l.inst ≠ q.inst || l.seq ≠ q.seq) })
  (t.liveStrands.filter (fun x => decide ((t.strandOf x).sag = sag))).foldl (fun (t : State) x => t.bopAgain q x) t

/-- `bop` (R237). SPEC_ROLE's EADDR is stated by no rule (log 1). -/
def execBop (o : FmtTwo) (s : State) : Out :=
  plain (srcOk o.x o.a && srcOk o.y o.b) s (fun s =>
    match s.me.spec with
    | none => trapFree .specRole s
    | some ref =>
      let answered := fun (v : Word) => decide (s.me.stage = 1) && decide (s.me.reply.map (·.val) = some v)
      let s := if answered 1 then s.modMe (fun m => { m with stage := 0, reply := none }) else s
      if s.me.stage = 2 || answered 0 then bopDone s
      else if s.me.inverse || s.me.bop then trapFree .specRole s
      else ordered s (fun s => readSrc 0 o.a o.x s (fun a s => readSrc 1 o.b o.y s (fun b s =>
        let go := fun (s : State) => readRecord 2 b 5 s (fun r s =>
          match bopLimits r with
          | some off => trap .specRecord (b + word off) s
          | none => bopRun ref a r s)
        if 2 < s.me.reads.length then go s
        else
          match resolve s s.myCluster s.me.sag b 40 with
          | none => trap (if s.namesSlice s.myCluster s.me.sag b 40 then .specRecord else .badAddress) b s
          | some (.scratch ..) => if b.toNat % 8 ≠ 0 then trap .misalignedAccess b s else go s
          | some _ => trap .specRecord b s))))

/-- `bopend` (R238). -/
def execBopend (s : State) : Out :=
  plain true s (fun s => if s.me.bop then complete (s.modMe (fun m => { m with bop := false })) else trapFree .specRole s)

/-- `sdone` (R238, R339): the strand halts, and the task is done once its other strands have. -/
def execSdone (s : State) : Out :=
  plain true s (fun s =>
    let m := s.me
    match m.spec with
    | none => trapFree .specRole s
    | some ref =>
      if m.inverse || m.bop then trapFree .specRole s
      else withSag s (fun g =>
        let tag := ((s.specAt m.sag ref).bind (·.tag)).getD 0
        if tag ≠ 0 && g.ctxBusy tag then trap .contextBusy (word tag) s
        else if m.laneLoads ≠ 0 then hold s
        else .next (((s.modSpec m.sag ref (fun t => { t.withRegs m with sdone := true })).endStrand s.core s.slot false).specEnded m)))

/-- `sabort` (R240, R348). -/
def execSabort (o : FmtSrc) (s : State) : Out :=
  plain (srcOk o.x o.a) s (fun s => readSrc 0 o.a o.x s (fun a s =>
    match s.me.spec with
    | none => trapFree .specRole s
    | some ref =>
      if s.me.inverse || (match s.specAt s.me.sag ref with | some t => t.solo | none => false) then trapFree .specRole s
      else .next (s.beginAbort s.me.sag ref false (a.getLsbD 0) false)))

/-! Commit (R238, R349). -/

/-- Whether an access of a task's strands is still to be performed. -/
def State.specOut (s : State) (sag : Nat) (ref : SpecRef) : Bool :=
  let mine := fun (m : Msg) => decide (m.sag = sag) && decide (m.spec = some ref)
  s.net.any mine || s.cores.any (fun c => c.2.replay.any (fun r => r.msgs.any mine)) ||
    (match s.sagAt sag with | some g => g.phases.any (fun p => decide (p.spec = some ref) && !p.rest.isEmpty) | none => false)

/-- Whether a done task's turn to commit has come (R238, R349). -/
def Saggar.commitTurn (g : Saggar) (t : SpecTask) : Bool :=
  let dom := g.specs.filter (fun x => decide (x.inst = t.inst))
  !dom.any (fun x => decide (x.st = .committing) && !x.is ⟨t.inst, t.seq⟩) &&
  (if t.ordered then !dom.any (fun x => x.ordered && decide (x.seq < t.seq))
   else !dom.any (fun x => !x.ordered && decide (x.st = .done) && (decide (x.order < t.order) || (decide (x.order = t.order) && decide (x.seq < t.seq)))))

/-- A task that has committed or been cancelled: its locks, undo area and record go, and an ordered one becomes the newest of its domain. -/
def State.settleSpec (s : State) (sag : Nat) (t : SpecTask) : State :=
  (s.releaseLocks sag ⟨t.inst, t.seq⟩).modSag sag (fun g => { g with
    specs := g.specs.filter (fun x => !x.is ⟨t.inst, t.seq⟩),
    instances := if t.ordered then modIf g.instances (fun i => i.id = t.inst) (fun i => { i with newest := some (max (i.newest.getD 0) t.seq) }) else g.instances })

/-- A task as a committer: hardware of its cluster writes the bytes, with the heap window of the task. -/
def SpecTask.committer (sag : Nat) (t : SpecTask) : Committer :=
  ⟨⟨sag, t.cluster, t.heapb, t.heapl, t.heapo, none⟩, 8 * t.cluster, 16, 0, t.task, some ⟨t.inst, t.seq⟩⟩

/-- SPEC_TASK_COMMIT (R238, R349): first its cells are written into base memory; once they are performed, the task has committed. -/
def execSpecTaskCommit (sag inst seq : Nat) (s : State) : Out :=
  let ref : SpecRef := ⟨inst, seq⟩
  match s.sagAt sag, s.specAt sag ref with
  | some g, some t =>
    if s.specOut sag ref then .next s
    else if t.st = .committing then .next (s.settleSpec sag t)
    else if t.st ≠ .done || !g.commitTurn t then .next s
    else
      match s.commitCtx (t.committer sag) (t.tag.getD 0) with
      | .error f => .fault f
      | .ok (false, s) => .next s
      | .ok (true, s) =>
        let s := s.modSpec sag ref (fun t => { t with st := .committing })
        .next (if s.specOut sag ref then s else s.settleSpec sag t)
  | _, _ => .next s

/-! Aborts (R239, R345 to R347). -/

/-- Steps 5 and 6 of an abort (R345): locks and area are released, and the task is queued again, queued solo, cancelled, or fails its launch. -/
def State.finishAbort (s : State) (sag : Nat) (ref : SpecRef) : State :=
  match s.specAt sag ref with
  | none => s
  | some t =>
    let s := match t.helper with | some r => s.endStrand r.core r.slot true | none => s
    let s := (s.modSag sag (fun g => { g with abortsNow := g.abortsNow.filter (fun a => a ≠ (ref.inst, ref.seq)) })).releaseLocks sag ref
    if t.fail then (s.modSag sag (fun g => { g with specs := g.specs.filter (fun x => !x.is ref) })).failInstance sag ref.inst
    else if t.cancel then s.settleSpec sag t
    else
      let s := if t.soloNext then s.count sag (fun c => { c with soloRuns := wrap1 c.soloRuns }) else s
      (s.modSpec sag ref (fun t => { t with st := .queued, tag := none, area := none, solo := t.soloNext, soloNext := false, sdone := false, helper := none, undop := 0 })).modSag sag
        (fun g => { g with pool := g.pool ++ [.spec ref.inst ref.seq] })

/-- The contexts of a task's tree. -/
def Saggar.treeOf (g : Saggar) (tag : Nat) : List Nat := (g.ctxs.map (·.1)).filter (fun c => g.within tag 5 c)

/-- Whether step 1 of an abort is over for a strand: it has stopped, or it is saved, and its die does not relock (R345, R441). -/
def State.abortStopped (s : State) (x : StrandRef) : Bool := ((s.strandOf x).dying || (s.coreAt x.core).saved.isSome) && !s.relocking x.core

/-- SPEC_ABORT (R345 steps 2 and 3, R346): once its strands have stopped, the accesses in context 0 of an aborting task's strands are performed, and no replay of its domain
is under way, its tree is discarded with the accesses in it, and its slots become free once nothing is due for them (R405), but for the one held for the helper. Strands of a saved
core are discarded whole (R351). -/
def execSpecAbort (sag inst seq : Nat) (s : State) : Out :=
  let ref : SpecRef := ⟨inst, seq⟩
  match s.sagAt sag, s.specAt sag ref with
  | some g, some t =>
    match t.tag with
    | none => .next s
    | some tag =>
      let turn := !g.abortsNow.any (fun a => a.1 = inst) &&
        !g.specs.any (fun x => decide (x.inst = inst) && decide (x.st = .aborting) && decide (seq < x.seq))
      if t.st ≠ .aborting || !turn || !(s.taskStrands sag ref).all s.abortStopped then .next s
      else
        let tree := g.treeOf tag
        let tagged := fun (b : Body) => match b with | .load _ | .store _ | .bits .. | .commit .. => true | _ => false
        let mine := fun (m : Msg) => decide (m.sag = sag) && decide (m.spec = some ref) && tree.contains m.ctx && tagged m.body
        let us := s.taskStrands sag ref
        let held := us.find? (fun r => (s.coreAt r.core).saved.isNone)
        let s := { s with net := s.net.filter (fun m => !mine m), cores := s.cores.map (fun (c : Nat × Core) => (c.1, c.2.dropReplay mine)) }
        let s := State.modSag { s with waiters := s.waiters.filter (fun w => w.msg.sag ≠ sag || w.msg.spec ≠ some ref) } sag
          (fun g => { g with phases := g.phases.filter (fun p => !(decide (p.spec = some ref) && tree.contains p.parent)) })
        if s.specOut sag ref then .next s
        else
          let s := s.modSag sag (fun g => { tree.foldl (fun (g : Saggar) c => g.discard c) g with abortsNow := g.abortsNow ++ [(inst, seq)] })
          let s := (us.filter (fun r => decide (some r ≠ held))).foldl (fun (s : State) r => s.endStrand r.core r.slot true) s
          let s := s.modSpec sag ref (fun t => { t with tag := none, helper := held })
          .next (if t.undop = t.undob then s.finishAbort sag ref else s)
  | _, _ => .next s

/-- The slot in which an abort's helper goes on (R345 step 4), and the cycle in which its core grants it, behind what the core itself issues there (R249): the slot
held for it, once nothing is due for what was there (R405), else one that the core named may give it. -/
def State.helperAt (s : State) (g : Saggar) (t : SpecTask) (core : Nat) : Option (StrandRef × Nat) :=
  let place := match t.helper with
    | some r => if s.owed r.core r.slot (s.strandOf r).uid || (s.coreAt r.core).saved.isSome then none else some r
    | none => (s.undoSlot g t core).map (fun k => ⟨core, k⟩)
  match place with
  | none => none
  | some r => match s.grantBeat r.core with | some b => if s.ranBeat r.core b then some (r, b) else none | none => none

/-- The four dwords of an undo record (R344), read as a load in context 0 reads them; none while its place is not known. -/
def State.undoRecord (s : State) (sag : Nat) (a : Word) : Option (List Word) × State :=
  match s.undoLoc sag .load a with
  | (.at_ loc, s) =>
    let s := (s.wakeHome (homeOf loc)).meet loc 32
    (some ((List.range 4).map (fun i => if s.anyDead (loc + 8 * i) 8 then 0 else s.dword (loc + 8 * i))), s)
  | (.nowhere, s) => (some [0, 0, 0, 0], s)
  | (.waits, s) => (none, s)

/-- UNDO_REPLAY (R239, R345 step 4, R347): the helper begins the inverse routine of the newest record left. -/
def execUndoReplay (sag inst seq core : Nat) (s : State) : Out :=
  let ref : SpecRef := ⟨inst, seq⟩
  match s.sagAt sag, s.specAt sag ref with
  | some g, some t =>
    let busy := match t.helper with | some r => !(s.strandOf r).dying && (s.strandOf r).inverse | none => false
    if t.st ≠ .aborting || t.tag.isSome || busy || !g.abortsNow.contains (inst, seq) then .next s
    else if t.undop = t.undob then .next (s.finishAbort sag ref)
    else
      match s.helperAt g t core with
      | none => .next s
      | some (r, b) =>
        match s.undoRecord sag (t.undop - 32) with
        | (none, s) => .next s
        | (some w, s) =>
        let s := s.modSpec sag ref (fun t => { t with helper := some r, undop := t.undop - 32 })
        .next ((s.enter r.core r.slot b (fun n => { n with
          pc := w.getD 0 0, s := Tbl.set (Tbl.set (Tbl.set [] 1 (w.getD 1 0) 0) 2 (w.getD 2 0) 0) 3 (w.getD 3 0) 0, st := word t.rm, tspace := t.space, seq := seq,
          undob := t.undob, undop := t.undop - 32, tvec := t.tvec, heapb := t.heapb, heapl := t.heapl, heapo := t.heapo, priv := t.priv, sag := sag, task := t.task,
          spec := some ref, inverse := true })).wakeUnit r.core)
  | _, _ => .next s

/-- `uend` (R239, R345): a release; the inverse routine ends, and its slot is held for the next record, or the abort ends. DESIGN CHOICE (log 123): so does
one that a trap handler of the routine issues. -/
def execUend (s : State) : Out :=
  plain true s (fun s =>
    let m := s.me
    match m.spec with
    | none => trapFree .specRole s
    | some ref =>
      if !m.inverse then trapFree .specRole s
      else if m.laneLoads ≠ 0 || m.pend ≠ 0 then hold s
      else releasing 2 s (fun s =>
        match s.specAt m.sag ref with
        | some t => if t.undop = t.undob then .next (s.finishAbort m.sag ref) else .next (s.stopForAbort s.myRef)
        | none => .next (s.endStrand s.core s.slot false)))

/-! The commutativity table (R241). -/

/-- The first broken field of a `cload` image's first dword. -/
def ctLimits (r : List Word) : Option Nat :=
  if 64 < recBits r 0 1 then some 0 else if 1 < recBits r 1 1 then some 1 else if recBits r 2 6 ≠ 0 then some 2 else none

/-- Entry k of a packed table of two-bit values. -/
def ctEntry (r : List Word) (k : Nat) : Nat := bitsOf (r.getD (k / 32) 0) (2 * (k % 32)) 2

/-- The first pair k1 < k2 whose two entries differ, by the place of its entry. -/
def ctAsym (n : Nat) (r : List Word) : Option Nat :=
  ((List.range (n * n)).filter (fun k => k / n < k % n)).find? (fun k => ctEntry r k ≠ ctEntry r (k % n * n + k / n))

/-- `cload` (R241). -/
def execCload (o : FmtSrc) (s : State) : Out :=
  checked s.me.priv false (srcOk o.x o.a) s (fun s => ordered s (fun s => readSrc 0 o.a o.x s (fun a s =>
    readRecord 1 a 1 s (fun h s =>
      match ctLimits h with
      | some off => trap .ctImage (a + word off) s
      | none =>
        let n := recBits h 0 1
        let load := fun (r : List Word) (s : State) =>
          match ctAsym n r with
          | some k => trap .ctImage (a + word (8 + 2 * k / 8)) s
          | none => complete (s.modSag s.me.sag (fun g => { g with commute := ⟨n, (List.range (n * n)).map (ctEntry r), decide (recBits h 1 1 = 1)⟩ }))
        if n = 0 then load [] s else readRecordOf a 2 (a + 8) ((n * n + 31) / 32) s load))))

end Sys2Proof.Machine
end

