-- ==== Sys2Proof/Machine/Scheduler.lean ====
section
/-! DEFINITION. Images, graphs, triggers, `launch`, the pending-launch pool, dispatch and completion (R204, R371 to R380). -/

namespace Sys2Proof.Machine

/-! Images and graphs (R371, R372). -/

/-- Maps n pages from va to consecutive 64 KiB frames from a physical address, each edit logged; none when table frames run out, or where a page of a
live lease would move (R393). -/
def State.mapRun (comp : Nat) (g : Saggar) (key : Nat) (perm : Word) : Nat → Nat → Nat → List Nat → State → Option (State × List Nat)
  | 0, _, _, frames, s => some (s, frames)
  | n + 1, va, pa, frames, s =>
    let leaf := word (key * 2 ^ 56 + pa / 65536 * 65536) ||| perm
    match (if s.keepsLeases g g.cfg.id va 16 leaf then s.writeLeaf ⟨comp, g.cfg.id, va⟩ g.cfg.root 16 0 leaf frames else none) with
    | none => none
    | some (s, frames) => State.mapRun comp g key perm n (va + 65536) (pa + 65536) frames s

/-- The `.lease` bases of kernels, resolved against the placement of their sections (R49, R371). -/
def resolveLeases (textVa dataVa : Nat) (ks : List KernelRec) (rs : List LeaseReloc) : List KernelRec :=
  rs.foldl (fun ks r =>
    match ks[r.kernel]? with
    | some k =>
      match k.leases[r.lease]? with
      | some l => setAt ks r.kernel { k with leases := setAt k.leases r.lease { l with base := l.base + (if r.text then textVa else dataVa) } }
      | none => ks
    | none => ks) ks

/-- Whether the load of an image must wait for the reload of a repair table, at its bytes or at the entries that will map them (R419). -/
def State.imageWaits (s : State) (b : ImageRec) (pages : Nat) : Bool :=
  s.tableWaits b.textPa b.text.length || s.tableWaits b.dataPa b.data.length || b.tables.any (fun f => s.tableWaits (f * 65536) 65536) ||
    (List.range pages).any (fun i => s.editBusy b.sag (b.base + 65536 * i))

/-- IMAGE_LOAD (R371): text and data are placed and mapped, relocatable items of both and lease bases are resolved against the placement, and each
kernel receives its handle. DESIGN CHOICE (log 128): a kernel's entry is the address that the loader has found for its label. -/
def execImageLoad (b : ImageRec) (s : State) : Out :=
  match s.sagAt b.sag with
  | none => .next s
  | some g =>
    let pages := fun (n : Nat) => (n + 65535) / 65536
    let dataVa := b.base + pages b.text.length * 65536
    if b.base % 65536 ≠ 0 || b.textPa % 65536 ≠ 0 || b.dataPa % 65536 ≠ 0 || s.imageWaits b (pages b.text.length + pages b.data.length) then .next s
    else
      let (comp, s) := s.someCompositor
      match State.mapRun comp g b.key 0x0B (pages b.text.length) b.base b.textPa b.tables s with
      | none => .next s
      | some (t, frames) =>
        match State.mapRun comp g b.key 0x07 (pages b.data.length) dataVa b.dataPa frames t with
        | none => .next s
        | some (t, _) =>
          let t := (t.underKey .store b.textPa b.text.length b.key).underKey .store b.dataPa b.data.length b.key
          let t := (t.outsideWrite b.textPa b.text).outsideWrite b.dataPa b.data
          let t := b.relocs.foldl (fun (t : State) r =>
            t.outsideWrite ((if r.inText then b.textPa else b.dataPa) + r.at_) (toBytes 8 ((if r.text then b.base else dataVa) + r.off))) t
          let ks := resolveLeases b.base dataVa b.kernels b.leaseRelocs
          .next (t.modSag b.sag (fun g => { g with kernels := (g.kernels.filter (fun k => !ks.any (fun n => n.handle = k.handle))) ++ ks }))

/-- Bytes of scheduler memory that a graph takes (R372). -/
def graphBytes (x : GraphRec) : Nat :=
  64 + 64 * x.nodes.length + (x.nodes.map (fun n => (2 * n.succ.length + 7) / 8 * 8)).foldl (· + ·) 0 + x.params.length
/-- Removes, n times, every node that no listed edge enters; what is left lies on a cycle. -/
def peel (g : List (Nat × List Nat)) : Nat → List (Nat × List Nat)
  | 0 => g
  | n + 1 => peel (g.filter (fun x => g.any (fun y => y.2.contains x.1))) n
/-- Whether a graph keeps the limits of R372 in a saggar. -/
def Saggar.graphOk (g : Saggar) (x : GraphRec) : Bool :=
  let n := x.nodes.length
  let ixs := List.range n
  let edges := fun (i : Nat) => (x.nodes.map (fun y => (y.succ.filter (· = i)).length)).foldl (· + ·) 0
  decide (x.handle ≠ 0) && !g.graphs.any (fun y => y.handle = x.handle) && decide (1 ≤ n) && decide (n ≤ 4096) &&
  decide (8 ≤ x.params.length) && decide (x.params.length ≤ 65536) && decide (x.params.length % 8 = 0) &&
  (ixs.zip x.nodes).all (fun e =>
    let y := e.2
    g.kernels.any (fun k => k.handle = y.kern) && decide (y.param % 8 = 0) && decide (y.param + 32 ≤ x.params.length) &&
    decide (1 ≤ y.w) && decide (y.w ≤ g.cfg.w) && decide (1 ≤ y.h) && decide (y.h ≤ g.cfg.h) && decide (y.cores % 256 ≠ 0) && decide (y.quota ≤ 16) &&
    decide (y.npred = edges e.1) && decide (y.succ.length ≤ 4095) && y.succ.all (· < n) && decide (y.succAt + 2 * y.succ.length ≤ graphBytes x) && decide (y.rest = 0)) &&
  (peel (ixs.zip (x.nodes.map (·.succ))) n).isEmpty &&
  decide ((g.graphs.map graphBytes).foldl (· + ·) 0 + graphBytes x ≤ g.cfg.schedKib * 1024)

/-- GRAPH_UPLOAD (R372, R430): accepted once the scheduler accepts uploads, or refused with nothing changed. -/
def execGraphUpload (sag : Nat) (g : GraphRec) (s : State) : Out :=
  match (if s.bringup.getLsbD 3 then s.sagAt sag else none) with
  | some x => if x.graphOk g then .next (s.modSag sag (fun x => { x with graphs := x.graphs ++ [g] })) else .next s
  | none => .next s

/-- GRAPH_FREE (R372, R383): at once, or once no instance of it remains. -/
def execGraphFree (sag h : Nat) (s : State) : Out :=
  .next (s.modSag sag (fun g =>
    if g.instances.any (fun i => i.graph = h) then { g with freeing := if g.freeing.contains h then g.freeing else g.freeing ++ [h] }
    else { g with graphs := g.graphs.filter (fun x => x.handle ≠ h) }))

/-! Triggers and `launch` (R204, R373, R375). -/

/-- The uploaded graph of a handle. -/
def Saggar.graph (g : Saggar) (h : Nat) : Option GraphRec := g.graphs.find? (fun x => x.handle = h)
/-- The first patch entry that breaks a limit for a block of n bytes (R204, R374). -/
def badPatch (ps : List (Nat × Word)) (n : Nat) : Option Nat := placeOf (fun p => decide (p.1 % 8 ≠ 0) || decide (n < p.1 + 8)) ps
/-- Whether SIG is 0 or a dword-aligned global address (R204), or a dword-aligned host address (R373). -/
def sigOk (host : Bool) (w : Word) : Bool := (host || decide (bitsOf w 57 7 = 0)) && decide (w.toNat % 8 = 0)
/-- The undo areas that system software gives a new domain: the first of the saggar's that no other domain has (R337). -/
def Saggar.newAreas (g : Saggar) : List Nat :=
  ((List.range g.cfg.undoAreas).filter (fun a => !g.instances.any (fun i => i.areas.contains a))).take g.cfg.undoEach
/-- The commutativity table that a launch of a graph leaves: that of a kernel which carries `.commute`. DESIGN CHOICE (log 126): where nodes of the graph use several
such kernels, that of the last in node order. -/
def Saggar.commuteOf (g : Saggar) (h : Nat) : CommuteTable :=
  match g.graph h with
  | some x => x.nodes.foldl (fun c n => match (g.kernels.find? (fun k => k.handle = n.kern)).bind (·.commute) with | some t => t | none => c) g.commute
  | none => g.commute
/-- An instance is accepted into the pool (R375): its launch starts (R341), with its domain (R337, log 11). -/
def State.accept (s : State) (sag : Nat) (p : LaunchRec) (host : Bool) : State :=
  s.modSag sag (fun g => { g with
    accepts := g.accepts + 1, pool := g.pool ++ [.instance_ (g.accepts + 1)], lastLaunch := (s.poolCycle, if host then 0 else s.myRank), commute := g.commuteOf p.graph,
    instances := g.instances ++ [⟨g.accepts + 1, p.graph, p.prio, g.accepts + 1, p.sig, p.hostSig, [], [], false, false, host, p.patches, none, g.newAreas⟩] })

/-- TRIGGER (R373, R375, R431): accepted, or refused with a BUSY (2) or an error (3) completion. Where an instruction has reached the pool in this arithmetic cycle,
the trigger, which comes before it, reaches it in a later one (R375, R383, log 125). -/
def execTrigger (sag : Nat) (p : LaunchRec) (s : State) : Out :=
  let refused := fun (code : Nat) (s : State) => { s with completions := s.completions ++ [(0, code)] }
  match (if s.bringup.getLsbD 3 then s.sagAt sag else none) with
  | none => .next (if s.bringup.getLsbD 3 then refused 3 { s with capFaults := s.capFaults + 1 } else refused 2 s)
  | some g =>
    let ok := match g.graph p.graph with
      | some x => decide (p.prio ≤ 3) && sigOk p.hostSig p.sig && decide (p.patch % 8 = 0) && decide (p.npatch ≤ 64) && (decide (p.patch ≠ 0) || decide (p.npatch = 0)) &&
          decide (p.rest = 0) && decide (p.patches.length = p.npatch) && (badPatch p.patches x.params.length).isNone
      | none => false
    if !ok then .next (refused 3 { s with capFaults := s.capFaults + 1 })
    else if s.tooLate g.lastLaunch 0 then .next s
    else if g.poolFull then .next (refused 2 s)
    else .next (s.accept sag p true)

/-- The first broken limit of a `launch` record, by its offset (R204). A PATCH that is not a multiple of 8 counts here, and not as a misaligned access of
the patch list (R450, log 91). -/
def Saggar.launchLimits (g : Saggar) (r : List Word) : Option Nat :=
  let np := recBits r 16 2
  (([((g.graph (recBits r 0 8)).isNone, 0), (recBits r 8 8 % 8 ≠ 0, 8), (64 < np || (recBits r 8 8 = 0 && np ≠ 0), 16), (3 < recBits r 18 1, 18),
    (recBits r 19 5 ≠ 0, 19), (!sigOk false (r.getD 3 0), 24)] : List (Bool × Nat)).find? (·.1)).map (·.2)

/-- `launch` (R204, R374, R375): a release whatever its result (R192). It reaches the pool in the order of its arithmetic cycle (R375). -/
def execLaunch (o : FmtUn) (s : State) : Out :=
  plain (srcOk o.x o.a && dstOk o.d) s (fun s => ordered s (fun s => withDst o.d s (fun s => readSrc 0 o.a o.x s (fun a s =>
    readRecord 1 a 4 s (fun r s => withSag s (fun g =>
      match g.launchLimits r with
      | some off => trap .launchRecord (a + word off) s
      | none =>
        let n := recBits r 16 2
        let list := r.getD 1 0
        let go := fun (ps : List Word) (s : State) =>
          let patches := (List.range n).map (fun i => ((ps.getD (2 * i) 0).toNat, ps.getD (2 * i + 1) 0))
          let size := match g.graph (recBits r 0 8) with | some x => x.params.length | none => 0
          match badPatch patches size with
          | some i => trap .launchRecord (list + word (16 * i)) s
          | none =>
            releasing 2 s (fun s =>
              if s.tooLate g.lastLaunch s.myRank then hold s
              else if g.poolFull then finish o.d 1 s
              else finish o.d 0 (s.accept s.me.sag ⟨recBits r 0 8, recBits r 18 1, recBits r 8 8, n, 0, r.getD 3 0, false, patches⟩ false))
        if n = 0 then go [] s else readRecord 5 list (2 * n) s go))))))

/-! The pool and the ready lists (R374 to R376). -/

/-- Writes a patch into a parameter block. -/
def patchBytes (bs : List Byte) (p : Nat × Word) : List Byte := bs.take p.1 ++ toBytes 8 p.2.toNat ++ bs.drop (p.1 + 8)

/-- Whether ready task n stands before a node of an instance that becomes ready at a TIME (R376, R383): it became ready earlier, or its instance was accepted
earlier, or its node is lower. -/
def Saggar.older (g : Saggar) (inst node time n : Nat) : Bool :=
  match g.tasks.find? (fun y => y.id = n) with
  | some a =>
    let x := g.acceptOf a.inst
    let y := g.acceptOf inst
    decide (a.since < time) || (decide (a.since = time) && (decide (x < y) || (decide (x = y) && decide (a.node < node))))
  | none => false
/-- The ready list with a node of an instance that becomes ready at a TIME in its place (R376, R383). -/
def Saggar.queued (g : Saggar) (inst node time : Nat) : List Nat :=
  g.ready.filter (g.older inst node time) ++ [g.nextTask] ++ g.ready.filter (fun n => !g.older inst node time n)
/-- A node of an instance becomes a ready task at a TIME (R376). -/
def Saggar.makeReady (g : Saggar) (inst : Nat) (x : GraphRec) (i time : Nat) : Saggar :=
  let leases := match (x.nodes[i]?).bind (fun n => g.kernels.find? (fun k => k.handle = n.kern)) with | some k => k.leases | none => []
  { g with tasks := g.tasks ++ [⟨g.nextTask, inst, i, time, leases, .ready, false⟩], ready := g.queued inst i time, nextTask := g.nextTask + 1 }

/-- The instance that leaves the pool next: the oldest of the highest priority (R375). -/
def Saggar.nextInstance (g : Saggar) : Option Instance :=
  let l := g.pool.filterMap (fun e => match e with | .instance_ i => g.instances.find? (fun x => x.id = i) | .spec .. => none)
  match (l.map (·.prio)).max? with
  | some p => l.find? (fun x => x.prio = p)
  | none => none

/-- INSTANCE_LEAVES_POOL (R374 to R376): the parameter block is copied and patched, and the nodes without incoming edges become ready. -/
def execInstanceLeavesPool (sag : Nat) (s : State) : Out :=
  match s.sagAt sag with
  | some g =>
    match g.nextInstance with
    | some i =>
      match g.graph i.graph with
      | some x =>
        let params := i.patches.foldl patchBytes x.params
        let ixs := List.range x.nodes.length
        let left := (ixs.zip x.nodes).map (fun e => (e.1, e.2.npred))
        let g1 : Saggar := { g with pool := g.pool.filter (· ≠ .instance_ i.id),
                                    instances := modIf g.instances (fun y => y.id = i.id) (fun y => { y with params := params, left := left, started := true }) }
        .next { s with saggars := Tbl.put s.saggars sag ((left.filter (fun e => e.2 = 0)).foldl (fun (g : Saggar) e => g.makeReady i.id x e.1 s.time) g1) }
      | none => .next s
    | none => .next s
  | none => .next s

/-- The instance of a task. -/
def Saggar.instOf (g : Saggar) (t : Task) : Option Instance := g.instances.find? (fun i => i.id = t.inst)
/-- The scheduler's head task: the oldest of the highest priority (R376). -/
def Saggar.headTask (g : Saggar) : Option Task :=
  let l := g.ready.filterMap (fun i => g.tasks.find? (fun t => t.id = i))
  let prio := fun (t : Task) => match g.instOf t with | some i => i.prio | none => 0
  match (l.map prio).max? with
  | some p => l.find? (fun t => prio t = p)
  | none => none
/-- Changes a task. -/
def Saggar.modTask (g : Saggar) (id : Nat) (f : Task → Task) : Saggar := { g with tasks := modIf g.tasks (fun t => t.id = id) f }

/-- LEASE_RESIDENCY (R393): every page of the head task's leases becomes resident, or the dispatch goes on waiting. -/
def execLeaseResidency (sag : Nat) (m : List MigrateRec) (s : State) : Out :=
  match (s.sagAt sag).bind (fun g => g.headTask) with
  | some t =>
    match State.resideAll sag m (t.leases.flatMap Lease.granules) s with
    | some s => .next (s.modSag sag (fun g => g.modTask t.id (fun t => { t with resident := true })))
    | none => .next s
  | none => .next s

/-! Dispatch (R377, R378). -/

/-- The lowest n slots of a core that are free in its cycle b, if it has that many and nothing saved of it is still to be resumed for its saggar (R247, R250,
R377, R383). -/
def Core.seatSlots (c : Core) (b n : Nat) : Option (List Nat) :=
  let free := (List.range 16).filter (fun k => !(c.slotAt k).live && decide ((c.slotAt k).nextIssue ≤ b))
  if c.saved.isSome || c.away.any (fun a => some a.1 = c.tenant) || free.length < n then none else some (free.take n)

/-- Whether the front end may write a band map into a cluster: no job of a band whose owner changes is pending, running or withdrawn (R359). -/
def State.bandsFree (s : State) (cl : Nat) (map : Word) : Bool :=
  let jobs := (s.clusterAt cl).jobs ++ (List.range 8).flatMap (fun c => (s.coreAt (8 * cl + c)).withdrawn)
  !jobs.any (fun j => decide (j.desc.kind.unit = 3) && (bandsOf j.desc.bands).any (fun b => decide (bitsOf (s.clusterAt cl).bandMap (4 * b) 4 ≠ bitsOf map (4 * b) 4)))

/-- The clusters of a rectangle, row by row. -/
def rectClusters (x y w h : Nat) : List Nat := (List.range h).flatMap (fun j => (List.range w).map (fun i => (y + j) * 20 + x + i))

/-- The seats of a node in a cluster: each named core with the slots it seeds. -/
def State.seats (s : State) (cl mask quota : Nat) : Option (List (Nat × List Nat)) :=
  ((List.range 8).filter (fun c => (BitVec.ofNat 8 mask).getLsbD c)).foldr (fun c acc =>
    match acc, (s.coreAt (8 * cl + c)).seatSlots (s.nextGrant (8 * cl + c)) quota with
    | some t, some ks => some ((8 * cl + c, ks) :: t)
    | _, _ => none) (some [])

/-- The first rectangle that has room, with the seats of its clusters (R377). -/
def State.placement (s : State) (g : Saggar) (n : NodeRec) (quota : Nat) : Option (List (Nat × List (Nat × List Nat))) :=
  let origins := (List.range (g.cfg.h + 1 - n.h)).flatMap (fun j => (List.range (g.cfg.w + 1 - n.w)).map (fun i => (g.cfg.x0 + i, g.cfg.y0 + j)))
  let seat := fun (o : Nat × Nat) => (rectClusters o.1 o.2 n.w n.h).foldr (fun cl acc =>
    match acc, s.seats cl n.cores quota with
    | some t, some x => some ((cl, x) :: t)
    | _, _ => none) (some [])
  (origins.find? (fun o => (seat o).isSome)).bind seat

/-- A strand as the front end seeds it (R378). -/
def seeded (g : Saggar) (sag : Nat) (t : Task) (k : KernelRec) (params : List Byte) (param rank : Nat) (m : Strand) : Strand :=
  let w := fun i => word (ofBytes ((params.drop (param + 8 * i)).take 8))
  { m with
    pc := word k.entry, s := ([1, 2, 3, 4].foldl (fun r i => Tbl.set r i (w (i - 1)) 0) (Tbl.set [] 5 (word rank) 0)), tspace := k.table % 4096,
    tvec := withBits (word k.entry) 0 1 0, heapb := g.cfg.heapb, heapl := g.cfg.heapl, heapo := g.cfg.heapo, priv := k.priv, sag := sag, task := some t.id }

/-- Seeds the slots of a core, one in each of its cycles from b on (R249); `f` gives the strand of each place. Where no strand of the core lives, its queues
are emptied and unbound first (R257). -/
def State.seedCore (s : State) (c b : Nat) (slots : List Nat) (f : Nat → Strand → Strand) : State :=
  let s := if (s.coreAt c).liveSlots.isEmpty then s.modCore c (fun x => { x with queues := [] }) else s
  ((slots.zip (List.range slots.length)).foldl (fun (s : State) x => s.enter c x.1 (b + x.2) (f x.2)) s).wakeUnit c

/-- TASK_DISPATCH (R249, R257, R358, R359, R377, R378): the head task, once its leases are resident, a placement exists, the band maps of its rectangle may be
written and its cores may grant slots. -/
def execTaskDispatch (sag : Nat) (s : State) : Out :=
  match s.sagAt sag with
  | none => .next s
  | some g =>
    match g.headTask with
    | none => .next s
    | some t =>
      match g.instOf t with
      | none => .next s
      | some inst =>
        match (g.graph inst.graph).bind (fun x => x.nodes[t.node]?) with
        | none => .next s
        | some n =>
          match g.kernels.find? (fun k => k.handle = n.kern) with
          | none => .next s
          | some k =>
            let quota := if n.quota = 0 then k.quota else n.quota
            let map := word ((if n.bands = 0 then Config.bandMapReset else n.bands).toNat % 2 ^ 32)
            match (if t.resident then s.placement g n quota else none) with
            | none => .next s
            | some rect =>
              if !rect.all (fun e => s.bandsFree e.1 map && e.2.all (fun seat => (s.grantBeat seat.1).isSome)) then .next s
              else
                let s := s.modSag sag (fun g => { (g.modTask t.id (fun t => { t with st := .running })) with ready := g.ready.filter (· ≠ t.id) })
                .next ((rect.zip (List.range rect.length)).foldl (fun (s : State) e =>
                  (e.1.2).foldl (fun (s : State) seat =>
                    s.seedCore seat.1 ((s.grantBeat seat.1).getD 0) seat.2 (fun i => seeded g sag t k inst.params n.param (e.2 % 256 * 256 + seat.1 % 8 * 16 + i)))
                    (s.modCluster e.1.1 (fun c => { c with bandMap := map }))) s)

/-! Completion (R379, R380). -/

/-- Whether something of a task is still to end or to be performed, or a speculative task of its launch to commit or be cancelled (R379). A mailbox message
that waits for its mailbox is not of these (R193). -/
def State.taskBusy (s : State) (g : Saggar) (sag id inst : Nat) : Bool :=
  s.cores.any (fun c => c.2.slots.any (fun e => e.2.live && decide (e.2.sag = sag) && decide (e.2.task = some id)) ||
    c.2.replay.any (fun r => r.msgs.any (fun m => decide (m.sag = sag) && decide (m.task = some id))) ||
    (match c.2.saved with | some v => v.jobs.any (fun j => decide (j.sag = sag) && decide (j.task = some id)) | none => false) ||
    c.2.away.any (fun a => decide (a.1 = sag) && (a.2.1.jobs.any (fun j => decide (j.task = some id)) ||
      a.2.2.slots.any (fun e => e.2.live && decide (e.2.task = some id)) || a.2.2.replay.any (fun r => r.msgs.any (fun m => decide (m.task = some id)))))) ||
  s.net.any (fun m => decide (m.sag = sag) && decide (m.task = some id) && (match m.body with | .mail .. => false | _ => true)) ||
  s.clusters.any (fun c => c.2.jobs.any (fun j => decide (j.sag = sag) && decide (j.task = some id))) ||
  g.invokes.any (fun v => decide (v.cont.task = some id)) ||
  s.cone.any (fun m => match m with | .inc _ a v | .ack a v => decide (a = sag) && decide (v.cont.task = some id) | _ => false) ||
  g.specs.any (fun t => decide (t.inst = inst))

/-- An edge fires (R376): its successor counts it, and becomes ready at zero, unless its instance has failed. -/
def Saggar.fireEdge (g : Saggar) (inst : Nat) (x : GraphRec) (i time : Nat) : Saggar :=
  match g.instances.find? (fun y => y.id = inst) with
  | some y =>
    let n := Tbl.get y.left i 0 - 1
    let g1 : Saggar := { g with instances := modIf g.instances (fun z => z.id = inst) (fun z => { z with left := Tbl.put z.left i n }) }
    if n = 0 && !y.failed then g1.makeReady inst x i time else g1
  | none => g

/-- TASK_COMPLETION (R376, R379, R380). -/
def execTaskCompletion (sag task : Nat) (s : State) : Out :=
  match s.sagAt sag with
  | none => .next s
  | some g =>
    match g.tasks.find? (fun t => t.id = task) with
    | none => .next s
    | some t =>
      if t.st = .ready || s.taskBusy g sag task t.inst then .next s
      else
        let g1 : Saggar := { g with tasks := g.tasks.filter (fun x => x.id ≠ task) }
        let edges := if t.st = .failed then [] else
          match (g.instOf t).bind (fun i => (g.graph i.graph)) with
          | some x => (match x.nodes[t.node]? with | some n => n.succ.map (fun i => (x, i)) | none => [])
          | none => []
        .next { s with saggars := Tbl.put s.saggars sag (edges.foldl (fun (g : Saggar) e => g.fireEdge t.inst e.1 e.2 s.time) g1) }

/-- The add to an instance's SIG at a location: none while a write in a buffer or the reload of a repair table (R419) holds it; a fenced or poisoned word takes none (R178, R380, R420). One to a
peer is performed when the peer acknowledges it (R412). -/
def State.signalAdd (s : State) (sag loc : Nat) (v : Word) : Option State :=
  let s := s.meet loc 8
  if s.tableWaits loc 8 || s.dies.any (fun d => s.bufferHolds d.1 loc 8) then none
  else if s.cutOff loc || (List.range 8).any (fun i => s.fenced (loc + i)) then some (s.count sag (fun c => { c with droppedWrite := sat1 c.droppedWrite }))
  else if s.anyPoison loc 8 then some (s.count sag (fun c => { c with poisoned := sat1 c.poisoned }))
  else if spaceOf loc = 3 then
    some (State.reach { s with serial := s.serial + 1 }
      ⟨s.serial, Config.cores, 16, 0, sag, none, none, 0, 0, loc, loc, 8, homeOf loc, .atomic .add v 0 false, s.serial, s.time⟩ ⟨false, false⟩)
  else some (((s.wakeHome (homeOf loc)).setDword loc (s.dword loc + v)).changed loc 8)

/-- The add to an instance's SIG (R373, R380): it waits while a dirty-log fault or a write in a buffer holds it, and keeps what its walk did (R388, R392); one
that fails a check is dropped and counted (R418). The answer says whether it is made. -/
def State.signalEnd (s : State) (sag : Nat) (i : Instance) (v : Word) : Except Fault (Bool × State) :=
  let add := fun (loc : Nat) (s : State) => match s.signalAdd sag loc v with | some t => Except.ok (true, t) | none => .ok (false, s)
  if i.hostSig then add (spaceBase 2 + i.sig.toNat) s
  else
    match s.sagAt sag with
    | none => .ok (true, s)
    | some g =>
      match translate s ⟨sag, g.clusterNo 0, g.cfg.heapb, g.cfg.heapl, g.cfg.heapo, none⟩ .update i.sig.toNat 8 with
      | (.ok loc, s) => add loc s
      | (.replay .dirtyLog _, s) | (.waits, s) => .ok (false, s)
      | (.broken f, _) => .error f
      | (_, s) => .ok (true, s.count sag (fun c => { c with droppedWrite := sat1 c.droppedWrite }))

/-- INSTANCE_END (R372, R380): no task of the instance is running or ready; its SIG and its host completion follow, and a graph that was to be
freed goes with its last instance. -/
def execInstanceEnd (sag inst : Nat) (s : State) : Out :=
  match s.sagAt sag with
  | none => .next s
  | some g =>
    match g.instances.find? (fun i => i.id = inst) with
    | none => .next s
    | some i =>
      if !i.started || g.tasks.any (fun t => t.inst = inst) || g.specs.any (fun t => t.inst = inst) then .next s
      else
        let v : Word := if i.failed then 1 + 2 ^ 32 else 1
        match (if i.sig = 0 then .ok (true, s) else s.signalEnd sag i v) with
        | .error f => .fault f
        | .ok (false, s) => .next s
        | .ok (true, s) =>
          let s := if i.host then { s with completions := s.completions ++ [(inst, if i.failed then 1 else 0)] } else s
          .next (s.modSag sag (fun g =>
            let left := g.instances.filter (fun x => x.id ≠ inst)
            let gone := g.freeing.filter (fun h => !left.any (fun x => x.graph = h))
            { g with instances := left, graphs := g.graphs.filter (fun x => !gone.contains x.handle), freeing := g.freeing.filter (fun h => !gone.contains h) }))

end Sys2Proof.Machine
end

