-- ==== Sys2Proof/Machine/Saggars.lean ====
section
/-! DEFINITION. Saggars (R396 to R398): their formation and dissolution, dropped messages, and the words the compositors write for them (R276, R364). -/

namespace Sys2Proof.Machine

/-! Words of a saggar (R276, R364). -/

/-- Whether a slice partition word keeps the limits of R276. -/
def partitionOk (w : Word) : Bool :=
  let f := fun k => bitsOf w (5 * k) 5
  decide (f 0 + f 1 + f 2 + f 3 + f 4 = 24) && decide (1 ≤ f 0) && decide (1 ≤ f 1) && decide (1 ≤ f 2) && decide (1 ≤ f 4)

/-- Whether an energy class word has no zero cost (R364). -/
def energyOk (w : Word) : Bool := (List.range 4).all (fun k => decide (bitsOf w (8 * k) 8 ≠ 0))

/-- A capability fault in a compositor: the write is refused and changes nothing else. -/
def State.refuse (s : State) : State := { s with capFaults := s.capFaults + 1 }

/-- PARTITION_WORD_WRITE (R276): the word divides the slices of the saggar when it is formed; the division of a formed saggar holds until it is dissolved. A
word that breaks the limits is refused. -/
def execPartitionWordWrite (sag : Nat) (w : Word) (s : State) : Out :=
  if !partitionOk w then .next s.refuse
  else if (s.sagAt sag).isSome then .next s
  else .next { s with parts := Tbl.put s.parts sag (w &&& 0x1FFFFFF) }

/-- The slice partition word of a saggar to be formed: the record's, else the one last written for the saggar, else the default that stage 2 wrote (R276, R428). -/
def State.partOf (s : State) (r : SaggarRec) : Word := (if r.part = 0 then Tbl.get s.parts r.id s.boot.part else r.part) &&& 0x1FFFFFF

/-- ENERGY_CLASS_WRITE (R364): the new word governs later debits; one with a zero cost is refused. -/
def execEnergyClassWrite (sag : Nat) (w : Word) (s : State) : Out :=
  if energyOk w then .next (s.modSag sag (fun g => { g with energy := w &&& 0xFFFFFFFF })) else .next s.refuse

/-! Forming and dissolving (R396, R398, R431). -/

/-- The clusters of a saggar record. -/
def recordClusters (r : SaggarRec) : List Nat := rectClusters r.x0 r.y0 r.w r.h

/-- Whether a saggar record keeps its limits (R276, R318, R326, R331, R364, R372, R375, R381, R384, R396, R431). Stage 2, which forms saggars, has
written the kernel-reserved map by then (R428). -/
def State.recordOk (s : State) (r : SaggarRec) : Bool :=
  let base := bitsOf r.heapo 16 40 * 65536
  let len := bitsOf r.heapl 16 41 * 65536
  decide (s.boot.stage = 2) && decide (r.id ≤ 15) && (s.sagAt r.id).isNone && decide (1 ≤ r.w) && decide (1 ≤ r.h) && decide (r.x0 + r.w ≤ 20) && decide (r.y0 + r.h ≤ 24) &&
  (recordClusters r).all (fun cl => s.bringup.getLsbD (6 + dieOf cl) && s.saggars.all (fun (g : Nat × Saggar) => !g.2.holds cl)) &&
  decide ((r.root + 1) * 65536 ≤ Config.hbmBytes) && decide (r.grantBase + r.grantLen ≤ Config.hbmBytes) &&
  s.krMap.all (fun f => decide (2 ^ 50 ≤ f) || decide ((f + 1) * 65536 ≤ r.grantBase) || decide (r.grantBase + r.grantLen ≤ f * 65536)) &&
  (decide (len = 0) || (decide (r.grantBase ≤ base) && decide (base + len ≤ r.grantBase + r.grantLen))) &&
  decide (r.ctlim ≤ 65535) && s.tagRangeOk 16 r.ctbase r.ctlim && partitionOk (s.partOf r) &&
  decide (r.galleyGib ≤ 16) && decide (r.cellGib ≤ 64) && decide (r.spillMib ≤ 1024) &&
  r.queues.all (fun q => decide (q.q ≤ 255) && decide (q.spill ≤ 2 ^ 24) && decide (q.seg + 32 * q.spill ≤ Config.hbmBytes)) &&
  decide ((r.queues.map (·.q)).eraseDups.length = r.queues.length) && decide (r.undoPa + 8192 * r.undoAreas ≤ Config.hbmBytes) && decide (r.undoVa % 8192 = 0) &&
  decide ((s.saggars.map (fun (g : Nat × Saggar) => g.2.cfg.schedKib)).foldl (· + ·) r.schedKib ≤ 2048)

/-- A core as it passes to a saggar (R250, R257, R267, R281, R367): its own registers, job ids, the statuses of complete jobs and debug state stay, and what
is saved of it for the saggars that it has left. -/
def Core.passed (c : Core) (tenant : Option Nat) (heapb heapl heapo : Word) : Core :=
  { Core.init with
    cycle := c.cycle, lastSlot := c.lastSlot, grantNext := c.grantNext, barLast := c.barLast, away := c.away, jobNext := c.jobNext, jobsPlaced := c.jobsPlaced, jobRing := c.jobRing.filter (fun e => e.2 ≠ 0), ebud := c.ebud, tenant := tenant,
    dctl := c.dctl, stopped := c.stopped, stopTime := c.stopTime, trace := c.trace, traceWrap := c.traceWrap, credit := c.credit, creditAt := c.creditAt,
    slots := [(0, { Strand.empty with heapb := heapb, heapl := heapl, heapo := heapo })] }

/-- The cores of a list of clusters pass to a saggar, or to none. -/
def State.passCores (s : State) (cls : List Nat) (tenant : Option Nat) (heapb heapl heapo : Word) : State :=
  cls.foldl (fun (s : State) cl => (List.range 8).foldl (fun (s : State) i => s.modCore (8 * cl + i) (fun c => c.passed tenant heapb heapl heapo)) s) s

/-- SAGGAR_FORM (R396): a record that breaks a limit is refused. POISONED and DROPPED_WRITE go on where they stood: only a device reset clears them (R418). -/
def execSaggarForm (b : SaggarRec) (s : State) : Out :=
  if !s.recordOk b then .next s.refuse
  else
    let mask : Word := 0x01FFFFFFFFFF0000
    let r : SaggarRec := { b with part := s.partOf b, heapb := b.heapb &&& mask, heapl := b.heapl &&& mask, heapo := withBits b.heapo 0 16 0 }
    let s := s.passCores (recordClusters b) (some b.id) r.heapb r.heapl r.heapo
    let k := Tbl.get s.kept b.id (0, 0)
    let g := Saggar.form r
    .next { s with
      saggars := Tbl.put s.saggars b.id { g with energy := s.boot.energy, counters := { g.counters with poisoned := k.1, droppedWrite := k.2 } }, kept := Tbl.del s.kept b.id }

/-- What a saved core takes along when it leaves its saggar (R190, R267, R406): nothing waits at its barriers there any more, and of its updates only the
parked ones are still out and counted. Its mailbox messages are in the save (R208). -/
def Core.image (c : Core) : CoreImage :=
  let parked := fun (u : Nat) => ((c.replay.flatMap (·.msgs)).filter (fun m => decide (m.uid = u) && m.body.updates)).length
  ⟨c.slots.map (fun e => (e.1, { e.2 with pend := parked e.2.uid })), c.queues, c.bars.map (fun b => (b.1, { b.2 with waiters := [] })), c.mail, c.replay, c.tags, c.tagCount,
   c.jobRing.filter (fun e => e.2 = 0)⟩

/-- What is saved of a core is kept for the saggar that it leaves (R267, R281, R367). -/
def Core.putAway (c : Core) (sag : Nat) : Core :=
  match c.saved with
  | some v => { c with away := Tbl.put c.away sag (v, c.image) }
  | none => { c with away := Tbl.del c.away sag }

/-- SAGGAR_DISSOLVE (R281, R359, R367, R398): once every job its cores have placed is complete or withdrawn and nothing of it is in flight, its cores, bands,
barriers and contexts are reset and every TLB entry with its id is invalidated, which is logged (R395). -/
def execSaggarDissolve (sag : Nat) (s : State) : Out :=
  match s.sagAt sag with
  | none => .next s
  | some g =>
    let cls := recordClusters g.cfg
    let saved := fun (c : Nat) => cls.contains (clusterOf c) && (s.coreAt c).saved.isSome
    let busy := cls.any (fun cl => !(s.clusterAt cl).jobs.isEmpty) || s.net.any (fun m => decide (m.sag = sag)) || s.acks.any (fun a => saved a.core)
    if busy then .next s
    else
      let mine := fun (c : Nat) => cls.contains (clusterOf c)
      let s := cls.foldl (fun (s : State) cl => s.modCluster cl (fun c => { Cluster.init with tlb := c.tlb, lastGrant := c.lastGrant })) s
      let s : State := { s with cores := s.cores.map (fun (c : Nat × Core) => (c.1, if mine c.1 then c.2.putAway sag else c.2)) }
      let s := s.passCores cls none 0 0 0
      let keep := fun (e : Tlb) => decide (e.sag ≠ sag)
      let s : State := { s with
        saggars := Tbl.del s.saggars sag,
        kept := Tbl.put s.kept sag (g.counters.poisoned, g.counters.droppedWrite),
        waiters := s.waiters.filter (fun w => decide (w.msg.sag ≠ sag)),
        acks := s.acks.filter (fun a => !mine a.core),
        cone := s.cone.filter (fun m => match m with | .inc _ a _ | .ack a _ | .complete a _ _ | .failed a _ _ => decide (a ≠ sag) | .merge _ _ c _ => decide (c.sag ≠ sag) | _ => true),
        clusters := s.clusters.map (fun (c : Nat × Cluster) => (c.1, { c.2 with tlb := c.2.tlb.filter keep })),
        dies := s.dies.map (fun (d : Nat × Die) => (d.1, { d.2 with tlb := d.2.tlb.filter keep })) }
      let (comp, s) := s.someCompositor
      .next ((((List.range 4).foldl State.freeGroups' s).logEdit sag 0 0 comp 1 0).relaxPower)

/-! Dropped messages (R397). -/

/-- TENANT_DROP (R397): a message whose id bit is clear at a router is dropped and counted; the compositors stop the issuing saggar's cores, and its
running tasks fail. -/
def execTenantDrop (k : Nat) (s : State) : Out :=
  match s.net[k]? with
  | some m =>
    if !s.misrouted m then .next s
    else
      let s : State := { s with net := dropAt s.net k, routerDrops := sat1 s.routerDrops }
      match s.sagAt m.sag with
      | none => .next s
      | some g =>
        let s := (recordClusters g.cfg).foldl (fun (s : State) cl => (List.range 8).foldl (fun (s : State) i => s.stopCore (8 * cl + i)) s) s
        .next ((g.tasks.filter (fun t => decide (t.st = .running))).foldl (fun (s : State) t => s.failTask m.sag (some t.id)) s)
  | none => .next s

end Sys2Proof.Machine
end

