-- ==== Sys2Proof/Machine/ScalarFp.lean ====
section
/-! DEFINITION. Scalar floating point (R119 to R123). -/

namespace Sys2Proof.Machine

/-- The codes a scalar floating form accepts under a prefix (R120). -/
def sfpCodes (dbl : Bool) (s : State) : Bool :=
  let c := if dbl then Accept.double else Accept.low
  formatsOk c c c s

/-- The formats of a scalar floating form without a prefix: FP64 for `.d`, FP32 for `.s`. -/
def sfpFmt (dbl : Bool) : Nat := if dbl then 10 else 0

/-- A two-source form of R119. `long` forms deliver later (R110). As R120 says, no form of R119 to R122 reads a scale register (log 85). -/
def sfp (dbl long : Bool) (f : FOp) (o : FmtA) (s : State) : Out :=
  checked true true (srcOk o.x o.a && srcOk o.y o.b && dstOk o.d && sfpCodes dbl s) s (fun s => withDst o.d s (fun s =>
    two o s (fun a b s =>
      let g := s.me.gov (sfpFmt dbl) (sfpFmt dbl) (sfpFmt dbl) 0
      let r := deliver g.fd g.rm g.sat (binVal f (valueOf g.fa a.toNat) (valueOf g.fb b.toNat) g.rm)
      let s := s.consume.modMe (fun m => m.raiseFlags r.2)
      if long then longLatency o.d (word r.1) s else finish o.d (word r.1) s)))

/-- `fsqrt` (R119). -/
def sfpSqrt (dbl : Bool) (o : FmtUn) (s : State) : Out :=
  checked true true (srcOk o.x o.a && dstOk o.d && sfpCodes dbl s) s (fun s => withDst o.d s (fun s =>
    readSrc 0 o.a o.x s (fun a s =>
      let g := s.me.gov (sfpFmt dbl) (sfpFmt dbl) (sfpFmt dbl) 0
      let r := deliver g.fd g.rm g.sat (unVal .fsqrt (valueOf g.fa a.toNat))
      longLatency o.d (word r.1) (s.consume.modMe (fun m => m.raiseFlags r.2)))))

/-- A fused form of R121: a × b + d, or - d, rounded once. -/
def sfma (dbl minus : Bool) (o : FmtA) (s : State) : Out :=
  checked true true (srcOk o.x o.a && srcOk o.y o.b && srcOk false o.d && dstOk o.d && sfpCodes dbl s) s (fun s => withDst o.d s (fun s =>
    two o s (fun a b s => readSrc 2 o.d false s (fun c s =>
      let g := s.me.gov (sfpFmt dbl) (sfpFmt dbl) (sfpFmt dbl) 0
      let v := valueOf g.fd c.toNat
      let r := deliver g.fd g.rm g.sat (fmaVal (valueOf g.fa a.toNat) (valueOf g.fb b.toNat) (if minus then v.flip else v) g.rm)
      finish o.d (word r.1) (s.consume.modMe (fun m => m.raiseFlags r.2))))))

/-- A conversion of R122: from a datum of the source register to the destination register, with its flags. -/
def scvt (conv : Nat → Bool → Word → Nat × Nat) (o : FmtUn) (s : State) : Out :=
  checked true true (srcOk o.x o.a && dstOk o.d && formatsOk .any .any .any s) s (fun s => withDst o.d s (fun s =>
    readSrc 0 o.a o.x s (fun a s =>
      let g := s.me.gov 0 0 0 0
      let r := conv g.rm g.sat a
      finish o.d (word r.1) (s.consume.modMe (fun m => m.raiseFlags r.2)))))

/-- IEEE to IEEE. -/
def convFp (src dst : Nat) (rm : Nat) (sat : Bool) (a : Word) : Nat × Nat := deliverVal dst rm sat 0 false (valueOf src a.toNat)
/-- 64-bit integer to IEEE. -/
def convFromInt (sgn : Bool) (dst : Nat) (rm : Nat) (sat : Bool) (a : Word) : Nat × Nat := deliverVal dst rm sat 0 true (intVal 64 sgn a.toNat)
/-- IEEE to 64-bit integer (R95, R122). -/
def convToInt (src : Nat) (sgn : Bool) (rm : Nat) (_sat : Bool) (a : Word) : Nat × Nat :=
  match valueOf src a.toNat with
  | .nan _ => (0, fNV + fSV)
  | .inf neg => (if neg then (if sgn then 2 ^ 63 else 0) else (if sgn then 2 ^ 63 - 1 else 2 ^ 64 - 1), fNV + fSV)
  | .fin neg p q => toInteger 64 sgn neg p q rm false

/-- A compare of R123. -/
def scmp (dbl : Bool) (f : COp) (o : FmtA) (s : State) : Out :=
  plain (srcOk o.x o.a && srcOk o.y o.b && dstOk o.d) s (fun s => withDst o.d s (fun s => two o s (fun a b s =>
    let r := cmpVal f (valueOf (sfpFmt dbl) a.toNat) (valueOf (sfpFmt dbl) b.toNat)
    finish o.d (if r.1 then 1 else 0) (s.modMe (fun m => m.raiseFlags r.2)))))

/-- `sfp.fadd.s` (R119). -/
def execSfpFaddS (o : FmtA) (s : State) : Out := sfp false false .add o s

/-- `sfp.fsub.s` (R119). -/
def execSfpFsubS (o : FmtA) (s : State) : Out := sfp false false .sub o s

/-- `sfp.fmul.s` (R119). -/
def execSfpFmulS (o : FmtA) (s : State) : Out := sfp false false .mul o s

/-- `sfp.fdiv.s` (R119). -/
def execSfpFdivS (o : FmtA) (s : State) : Out := sfp false true .div o s

/-- `sfp.fmin.s` (R119). -/
def execSfpFminS (o : FmtA) (s : State) : Out := sfp false false .min o s

/-- `sfp.fmax.s` (R119). -/
def execSfpFmaxS (o : FmtA) (s : State) : Out := sfp false false .max o s

/-- `sfp.fsqrt.s` (R119). -/
def execSfpFsqrtS (o : FmtUn) (s : State) : Out := sfpSqrt false o s

/-- `sfma.fma.s` (R121). -/
def execSfmaFmaS (o : FmtA) (s : State) : Out := sfma false false o s

/-- `sfma.fms.s` (R121). -/
def execSfmaFmsS (o : FmtA) (s : State) : Out := sfma false true o s

/-- `scmp.feq.s` (R123). -/
def execScmpFeqS (o : FmtA) (s : State) : Out := scmp false .feq o s

/-- `scmp.flt.s` (R123). -/
def execScmpFltS (o : FmtA) (s : State) : Out := scmp false .flt o s

/-- `scmp.fle.s` (R123). -/
def execScmpFleS (o : FmtA) (s : State) : Out := scmp false .fle o s

/-- `scmp.funord.s` (R123). -/
def execScmpFunordS (o : FmtA) (s : State) : Out := scmp false .funord o s

/-- `sfp.fadd.d` (R119). -/
def execSfpFaddD (o : FmtA) (s : State) : Out := sfp true false .add o s

/-- `sfp.fsub.d` (R119). -/
def execSfpFsubD (o : FmtA) (s : State) : Out := sfp true false .sub o s

/-- `sfp.fmul.d` (R119). -/
def execSfpFmulD (o : FmtA) (s : State) : Out := sfp true false .mul o s

/-- `sfp.fdiv.d` (R119). -/
def execSfpFdivD (o : FmtA) (s : State) : Out := sfp true true .div o s

/-- `sfp.fmin.d` (R119). -/
def execSfpFminD (o : FmtA) (s : State) : Out := sfp true false .min o s

/-- `sfp.fmax.d` (R119). -/
def execSfpFmaxD (o : FmtA) (s : State) : Out := sfp true false .max o s

/-- `sfp.fsqrt.d` (R119). -/
def execSfpFsqrtD (o : FmtUn) (s : State) : Out := sfpSqrt true o s

/-- `sfma.fma.d` (R121). -/
def execSfmaFmaD (o : FmtA) (s : State) : Out := sfma true false o s

/-- `sfma.fms.d` (R121). -/
def execSfmaFmsD (o : FmtA) (s : State) : Out := sfma true true o s

/-- `scmp.feq.d` (R123). -/
def execScmpFeqD (o : FmtA) (s : State) : Out := scmp true .feq o s

/-- `scmp.flt.d` (R123). -/
def execScmpFltD (o : FmtA) (s : State) : Out := scmp true .flt o s

/-- `scmp.fle.d` (R123). -/
def execScmpFleD (o : FmtA) (s : State) : Out := scmp true .fle o s

/-- `scmp.funord.d` (R123). -/
def execScmpFunordD (o : FmtA) (s : State) : Out := scmp true .funord o s

/-- `scvt.d.s` (R122). -/
def execScvtDS (o : FmtUn) (s : State) : Out := scvt (convFp 0 10) o s

/-- `scvt.s.d` (R122). -/
def execScvtSD (o : FmtUn) (s : State) : Out := scvt (convFp 10 0) o s

/-- `scvt.bf.s` (R122). -/
def execScvtBfS (o : FmtUn) (s : State) : Out := scvt (convFp 0 1) o s

/-- `scvt.s.bf` (R122). -/
def execScvtSBf (o : FmtUn) (s : State) : Out := scvt (convFp 1 0) o s

/-- `scvt.h.s` (R122). -/
def execScvtHS (o : FmtUn) (s : State) : Out := scvt (convFp 0 2) o s

/-- `scvt.s.h` (R122). -/
def execScvtSH (o : FmtUn) (s : State) : Out := scvt (convFp 2 0) o s

/-- `scvt.s.l` (R122). -/
def execScvtSL (o : FmtUn) (s : State) : Out := scvt (convFromInt true 0) o s

/-- `scvt.s.lu` (R122). -/
def execScvtSLu (o : FmtUn) (s : State) : Out := scvt (convFromInt false 0) o s

/-- `scvt.l.s` (R122). -/
def execScvtLS (o : FmtUn) (s : State) : Out := scvt (convToInt 0 true) o s

/-- `scvt.lu.s` (R122). -/
def execScvtLuS (o : FmtUn) (s : State) : Out := scvt (convToInt 0 false) o s

/-- `scvt.d.l` (R122). -/
def execScvtDL (o : FmtUn) (s : State) : Out := scvt (convFromInt true 10) o s

/-- `scvt.d.lu` (R122). -/
def execScvtDLu (o : FmtUn) (s : State) : Out := scvt (convFromInt false 10) o s

/-- `scvt.l.d` (R122). -/
def execScvtLD (o : FmtUn) (s : State) : Out := scvt (convToInt 10 true) o s

/-- `scvt.lu.d` (R122). -/
def execScvtLuD (o : FmtUn) (s : State) : Out := scvt (convToInt 10 false) o s

end Sys2Proof.Machine
end

