-- ==== Sys2Proof/Machine/Dispatch.lean ====
section
/-! DEFINITION. One arm for each instruction and device event, each one call of its meaning. -/

namespace Sys2Proof.Machine

/-- What an instruction or device event does. -/
def exec (i : Instr) (s : State) : Host.Outcome State Fault Refusal :=
  match i with
  | .aluAdd o => Sys2Proof.Machine.execAluAdd o s
  | .aluSub o => Sys2Proof.Machine.execAluSub o s
  | .aluAnd o => Sys2Proof.Machine.execAluAnd o s
  | .aluOr o => Sys2Proof.Machine.execAluOr o s
  | .aluXor o => Sys2Proof.Machine.execAluXor o s
  | .aluShl o => Sys2Proof.Machine.execAluShl o s
  | .aluShr o => Sys2Proof.Machine.execAluShr o s
  | .aluSar o => Sys2Proof.Machine.execAluSar o s
  | .aluSlt o => Sys2Proof.Machine.execAluSlt o s
  | .aluSltu o => Sys2Proof.Machine.execAluSltu o s
  | .aluMin o => Sys2Proof.Machine.execAluMin o s
  | .aluMax o => Sys2Proof.Machine.execAluMax o s
  | .aluMinu o => Sys2Proof.Machine.execAluMinu o s
  | .aluMaxu o => Sys2Proof.Machine.execAluMaxu o s
  | .aluAndn o => Sys2Proof.Machine.execAluAndn o s
  | .aluOrn o => Sys2Proof.Machine.execAluOrn o s
  | .aluwAddw o => Sys2Proof.Machine.execAluwAddw o s
  | .aluwSubw o => Sys2Proof.Machine.execAluwSubw o s
  | .aluwShlw o => Sys2Proof.Machine.execAluwShlw o s
  | .aluwShrw o => Sys2Proof.Machine.execAluwShrw o s
  | .aluwSarw o => Sys2Proof.Machine.execAluwSarw o s
  | .mulMul o => Sys2Proof.Machine.execMulMul o s
  | .mulMulh o => Sys2Proof.Machine.execMulMulh o s
  | .mulMulhu o => Sys2Proof.Machine.execMulMulhu o s
  | .mulDiv o => Sys2Proof.Machine.execMulDiv o s
  | .mulDivu o => Sys2Proof.Machine.execMulDivu o s
  | .mulRem o => Sys2Proof.Machine.execMulRem o s
  | .mulRemu o => Sys2Proof.Machine.execMulRemu o s
  | .bitsClz o => Sys2Proof.Machine.execBitsClz o s
  | .bitsCtz o => Sys2Proof.Machine.execBitsCtz o s
  | .bitsPopc o => Sys2Proof.Machine.execBitsPopc o s
  | .bitsBrev o => Sys2Proof.Machine.execBitsBrev o s
  | .bitsBext o => Sys2Proof.Machine.execBitsBext o s
  | .bitsBdep o => Sys2Proof.Machine.execBitsBdep o s
  | .bitsSext o => Sys2Proof.Machine.execBitsSext o s
  | .addi o => Sys2Proof.Machine.execAddi o s
  | .andi o => Sys2Proof.Machine.execAndi o s
  | .ori o => Sys2Proof.Machine.execOri o s
  | .xori o => Sys2Proof.Machine.execXori o s
  | .shli o => Sys2Proof.Machine.execShli o s
  | .shri o => Sys2Proof.Machine.execShri o s
  | .sari o => Sys2Proof.Machine.execSari o s
  | .roti o => Sys2Proof.Machine.execRoti o s
  | .slti o => Sys2Proof.Machine.execSlti o s
  | .sltiu o => Sys2Proof.Machine.execSltiu o s
  | .ldi o => Sys2Proof.Machine.execLdi o s
  | .ldih o => Sys2Proof.Machine.execLdih o s
  | .addrMkloc o => Sys2Proof.Machine.execAddrMkloc o s
  | .addrMkrel o => Sys2Proof.Machine.execAddrMkrel o s
  | .addrGetx o => Sys2Proof.Machine.execAddrGetx o s
  | .addrGety o => Sys2Proof.Machine.execAddrGety o s
  | .addrGetc o => Sys2Proof.Machine.execAddrGetc o s
  | .addrGetdie o => Sys2Proof.Machine.execAddrGetdie o s
  | .sfpFaddS o => Sys2Proof.Machine.execSfpFaddS o s
  | .sfpFsubS o => Sys2Proof.Machine.execSfpFsubS o s
  | .sfpFmulS o => Sys2Proof.Machine.execSfpFmulS o s
  | .sfpFdivS o => Sys2Proof.Machine.execSfpFdivS o s
  | .sfpFsqrtS o => Sys2Proof.Machine.execSfpFsqrtS o s
  | .sfpFminS o => Sys2Proof.Machine.execSfpFminS o s
  | .sfpFmaxS o => Sys2Proof.Machine.execSfpFmaxS o s
  | .sfpFaddD o => Sys2Proof.Machine.execSfpFaddD o s
  | .sfpFsubD o => Sys2Proof.Machine.execSfpFsubD o s
  | .sfpFmulD o => Sys2Proof.Machine.execSfpFmulD o s
  | .sfpFdivD o => Sys2Proof.Machine.execSfpFdivD o s
  | .sfpFsqrtD o => Sys2Proof.Machine.execSfpFsqrtD o s
  | .sfpFminD o => Sys2Proof.Machine.execSfpFminD o s
  | .sfpFmaxD o => Sys2Proof.Machine.execSfpFmaxD o s
  | .sfmaFmaS o => Sys2Proof.Machine.execSfmaFmaS o s
  | .sfmaFmsS o => Sys2Proof.Machine.execSfmaFmsS o s
  | .sfmaFmaD o => Sys2Proof.Machine.execSfmaFmaD o s
  | .sfmaFmsD o => Sys2Proof.Machine.execSfmaFmsD o s
  | .scvtDS o => Sys2Proof.Machine.execScvtDS o s
  | .scvtSD o => Sys2Proof.Machine.execScvtSD o s
  | .scvtSL o => Sys2Proof.Machine.execScvtSL o s
  | .scvtDL o => Sys2Proof.Machine.execScvtDL o s
  | .scvtLS o => Sys2Proof.Machine.execScvtLS o s
  | .scvtLD o => Sys2Proof.Machine.execScvtLD o s
  | .scvtSLu o => Sys2Proof.Machine.execScvtSLu o s
  | .scvtDLu o => Sys2Proof.Machine.execScvtDLu o s
  | .scvtLuS o => Sys2Proof.Machine.execScvtLuS o s
  | .scvtLuD o => Sys2Proof.Machine.execScvtLuD o s
  | .scvtBfS o => Sys2Proof.Machine.execScvtBfS o s
  | .scvtSBf o => Sys2Proof.Machine.execScvtSBf o s
  | .scvtHS o => Sys2Proof.Machine.execScvtHS o s
  | .scvtSH o => Sys2Proof.Machine.execScvtSH o s
  | .scmpFeqS o => Sys2Proof.Machine.execScmpFeqS o s
  | .scmpFltS o => Sys2Proof.Machine.execScmpFltS o s
  | .scmpFleS o => Sys2Proof.Machine.execScmpFleS o s
  | .scmpFunordS o => Sys2Proof.Machine.execScmpFunordS o s
  | .scmpFeqD o => Sys2Proof.Machine.execScmpFeqD o s
  | .scmpFltD o => Sys2Proof.Machine.execScmpFltD o s
  | .scmpFleD o => Sys2Proof.Machine.execScmpFleD o s
  | .scmpFunordD o => Sys2Proof.Machine.execScmpFunordD o s
  | .mfs o => Sys2Proof.Machine.execMfs o s
  | .mts o => Sys2Proof.Machine.execMts o s
  | .brEq o => Sys2Proof.Machine.execBrEq o s
  | .brNe o => Sys2Proof.Machine.execBrNe o s
  | .brLt o => Sys2Proof.Machine.execBrLt o s
  | .brGe o => Sys2Proof.Machine.execBrGe o s
  | .brLtu o => Sys2Proof.Machine.execBrLtu o s
  | .brGeu o => Sys2Proof.Machine.execBrGeu o s
  | .bzEq0 o => Sys2Proof.Machine.execBzEq0 o s
  | .bzNe0 o => Sys2Proof.Machine.execBzNe0 o s
  | .bzLt0 o => Sys2Proof.Machine.execBzLt0 o s
  | .bzGe0 o => Sys2Proof.Machine.execBzGe0 o s
  | .bzGt0 o => Sys2Proof.Machine.execBzGt0 o s
  | .bzLe0 o => Sys2Proof.Machine.execBzLe0 o s
  | .jmp o => Sys2Proof.Machine.execJmp o s
  | .call o => Sys2Proof.Machine.execCall o s
  | .jr o => Sys2Proof.Machine.execJr o s
  | .callr o => Sys2Proof.Machine.execCallr o s
  | .ret => Sys2Proof.Machine.execRet s
  | .loop o => Sys2Proof.Machine.execLoop o s
  | .iloop o => Sys2Proof.Machine.execIloop o s
  | .iloopClaimReply r => Sys2Proof.Machine.execIloopClaimReply r s
  | .pfx o => Sys2Proof.Machine.execPfx o s
  | .strandStart o => Sys2Proof.Machine.execStrandStart o s
  | .strandHalt => Sys2Proof.Machine.execStrandHalt s
  | .strandSlot o => Sys2Proof.Machine.execStrandSlot o s
  | .strandQbind o => Sys2Proof.Machine.execStrandQbind o s
  | .trap o => Sys2Proof.Machine.execTrap o s
  | .brk o => Sys2Proof.Machine.execBrk o s
  | .sysc o => Sys2Proof.Machine.execSysc o s
  | .eret => Sys2Proof.Machine.execEret s
  | .sysopTlbinv o => Sys2Proof.Machine.execSysopTlbinv o s
  | .sysopStopcore o => Sys2Proof.Machine.execSysopStopcore o s
  | .sysopResumecore o => Sys2Proof.Machine.execSysopResumecore o s
  | .sysopSample o => Sys2Proof.Machine.execSysopSample o s
  | .sysopDump o => Sys2Proof.Machine.execSysopDump o s
  | .ld o => Sys2Proof.Machine.execLd o s
  | .ldu o => Sys2Proof.Machine.execLdu o s
  | .st o => Sys2Proof.Machine.execSt o s
  | .ldx o => Sys2Proof.Machine.execLdx o s
  | .ldfeLeave o => Sys2Proof.Machine.execLdfeLeave o s
  | .ldfeTake o => Sys2Proof.Machine.execLdfeTake o s
  | .ldfeState o => Sys2Proof.Machine.execLdfeState o s
  | .stfeFill o => Sys2Proof.Machine.execStfeFill o s
  | .stfeForce o => Sys2Proof.Machine.execStfeForce o s
  | .stfeEmpty o => Sys2Proof.Machine.execStfeEmpty o s
  | .feOpAtHome k => Sys2Proof.Machine.execFeOpAtHome k s
  | .waiterRetryBackoff k => Sys2Proof.Machine.execWaiterRetryBackoff k s
  | .amoSwap o => Sys2Proof.Machine.execAmoSwap o s
  | .amoCas o => Sys2Proof.Machine.execAmoCas o s
  | .amoAdd o => Sys2Proof.Machine.execAmoAdd o s
  | .amoAnd o => Sys2Proof.Machine.execAmoAnd o s
  | .amoOr o => Sys2Proof.Machine.execAmoOr o s
  | .amoXor o => Sys2Proof.Machine.execAmoXor o s
  | .amoMax o => Sys2Proof.Machine.execAmoMax o s
  | .amoMin o => Sys2Proof.Machine.execAmoMin o s
  | .amo2Maxu o => Sys2Proof.Machine.execAmo2Maxu o s
  | .amo2Minu o => Sys2Proof.Machine.execAmo2Minu o s
  | .amo2FaddS o => Sys2Proof.Machine.execAmo2FaddS o s
  | .amo2FaddBf o => Sys2Proof.Machine.execAmo2FaddBf o s
  | .redAdd o => Sys2Proof.Machine.execRedAdd o s
  | .redAnd o => Sys2Proof.Machine.execRedAnd o s
  | .redOr o => Sys2Proof.Machine.execRedOr o s
  | .redXor o => Sys2Proof.Machine.execRedXor o s
  | .redMax o => Sys2Proof.Machine.execRedMax o s
  | .redMin o => Sys2Proof.Machine.execRedMin o s
  | .redFaddS o => Sys2Proof.Machine.execRedFaddS o s
  | .redFaddBf o => Sys2Proof.Machine.execRedFaddBf o s
  | .fenceAcq o => Sys2Proof.Machine.execFenceAcq o s
  | .fenceRel o => Sys2Proof.Machine.execFenceRel o s
  | .fenceFull o => Sys2Proof.Machine.execFenceFull o s
  | .fenceWred => Sys2Proof.Machine.execFenceWred s
  | .fenceWrep => Sys2Proof.Machine.execFenceWrep s
  | .lda o => Sys2Proof.Machine.execLda o s
  | .stl o => Sys2Proof.Machine.execStl o s
  | .ldb o => Sys2Proof.Machine.execLdb o s
  | .stb o => Sys2Proof.Machine.execStb o s
  | .pref o => Sys2Proof.Machine.execPref o s
  | .send o => Sys2Proof.Machine.execSend o s
  | .recv o => Sys2Proof.Machine.execRecv o s
  | .rprobe o => Sys2Proof.Machine.execRprobe o s
  | .put o => Sys2Proof.Machine.execPut o s
  | .mput o => Sys2Proof.Machine.execMput o s
  | .messageArrival k => Sys2Proof.Machine.execMessageArrival k s
  | .putDelivery k => Sys2Proof.Machine.execPutDelivery k s
  | .mputVisit k => Sys2Proof.Machine.execMputVisit k s
  | .barInit o => Sys2Proof.Machine.execBarInit o s
  | .barArrive o => Sys2Proof.Machine.execBarArrive o s
  | .barWait o => Sys2Proof.Machine.execBarWait o s
  | .barArrwait o => Sys2Proof.Machine.execBarArrwait o s
  | .barInval o => Sys2Proof.Machine.execBarInval o s
  | .barQuery o => Sys2Proof.Machine.execBarQuery o s
  | .remoteBarOp k => Sys2Proof.Machine.execRemoteBarOp k s
  | .tagwWaitany o => Sys2Proof.Machine.execTagwWaitany o s
  | .tagwWaitall o => Sys2Proof.Machine.execTagwWaitall o s
  | .tagwFfr o => Sys2Proof.Machine.execTagwFfr o s
  | .tagwClr o => Sys2Proof.Machine.execTagwClr o s
  | .spawn o => Sys2Proof.Machine.execSpawn o s
  | .spawnRequest k => Sys2Proof.Machine.execSpawnRequest k s
  | .qpush o => Sys2Proof.Machine.execQpush o s
  | .qpop o => Sys2Proof.Machine.execQpop o s
  | .qpopNb o => Sys2Proof.Machine.execQpopNb o s
  | .qpopv o => Sys2Proof.Machine.execQpopv o s
  | .qpopvNb o => Sys2Proof.Machine.execQpopvNb o s
  | .queueRefill sag q => Sys2Proof.Machine.execQueueRefill sag q s
  | .launch o => Sys2Proof.Machine.execLaunch o s
  | .signal o => Sys2Proof.Machine.execSignal o s
  | .swait o => Sys2Proof.Machine.execSwait o s
  | .vfAdd o => Sys2Proof.Machine.execVfAdd o s
  | .vfSub o => Sys2Proof.Machine.execVfSub o s
  | .vfMul o => Sys2Proof.Machine.execVfMul o s
  | .vfDiv o => Sys2Proof.Machine.execVfDiv o s
  | .vfMin o => Sys2Proof.Machine.execVfMin o s
  | .vfMax o => Sys2Proof.Machine.execVfMax o s
  | .vfAbs o => Sys2Proof.Machine.execVfAbs o s
  | .vfNeg o => Sys2Proof.Machine.execVfNeg o s
  | .vfCopysign o => Sys2Proof.Machine.execVfCopysign o s
  | .vfmaFma o => Sys2Proof.Machine.execVfmaFma o s
  | .vfmaFms o => Sys2Proof.Machine.execVfmaFms o s
  | .vfmaFnma o => Sys2Proof.Machine.execVfmaFnma o s
  | .vfmaFnms o => Sys2Proof.Machine.execVfmaFnms o s
  | .vfxFrintN o => Sys2Proof.Machine.execVfxFrintN o s
  | .vfxFrintZ o => Sys2Proof.Machine.execVfxFrintZ o s
  | .vfxFrintU o => Sys2Proof.Machine.execVfxFrintU o s
  | .vfxFrintD o => Sys2Proof.Machine.execVfxFrintD o s
  | .vfxFexpf o => Sys2Proof.Machine.execVfxFexpf o s
  | .vfxFscale o => Sys2Proof.Machine.execVfxFscale o s
  | .vfxFgetexp o => Sys2Proof.Machine.execVfxFgetexp o s
  | .vfxFgetman o => Sys2Proof.Machine.execVfxFgetman o s
  | .vfxFrcp o => Sys2Proof.Machine.execVfxFrcp o s
  | .vfxFrsq o => Sys2Proof.Machine.execVfxFrsq o s
  | .vfxFclass o => Sys2Proof.Machine.execVfxFclass o s
  | .vfxFsqrt o => Sys2Proof.Machine.execVfxFsqrt o s
  | .viAdd o => Sys2Proof.Machine.execViAdd o s
  | .viSub o => Sys2Proof.Machine.execViSub o s
  | .viMul o => Sys2Proof.Machine.execViMul o s
  | .viMulh o => Sys2Proof.Machine.execViMulh o s
  | .viMin o => Sys2Proof.Machine.execViMin o s
  | .viMax o => Sys2Proof.Machine.execViMax o s
  | .viMinu o => Sys2Proof.Machine.execViMinu o s
  | .viMaxu o => Sys2Proof.Machine.execViMaxu o s
  | .viAnd o => Sys2Proof.Machine.execViAnd o s
  | .viOr o => Sys2Proof.Machine.execViOr o s
  | .viXor o => Sys2Proof.Machine.execViXor o s
  | .viShl o => Sys2Proof.Machine.execViShl o s
  | .viShr o => Sys2Proof.Machine.execViShr o s
  | .viSar o => Sys2Proof.Machine.execViSar o s
  | .viAndn o => Sys2Proof.Machine.execViAndn o s
  | .vcmpFeq o => Sys2Proof.Machine.execVcmpFeq o s
  | .vcmpFne o => Sys2Proof.Machine.execVcmpFne o s
  | .vcmpFlt o => Sys2Proof.Machine.execVcmpFlt o s
  | .vcmpFle o => Sys2Proof.Machine.execVcmpFle o s
  | .vcmpFunord o => Sys2Proof.Machine.execVcmpFunord o s
  | .vcmpIeq o => Sys2Proof.Machine.execVcmpIeq o s
  | .vcmpIne o => Sys2Proof.Machine.execVcmpIne o s
  | .vcmpIlt o => Sys2Proof.Machine.execVcmpIlt o s
  | .vcmpIle o => Sys2Proof.Machine.execVcmpIle o s
  | .vcmpIltu o => Sys2Proof.Machine.execVcmpIltu o s
  | .vmskSel o => Sys2Proof.Machine.execVmskSel o s
  | .vmskMand o => Sys2Proof.Machine.execVmskMand o s
  | .vmskMor o => Sys2Proof.Machine.execVmskMor o s
  | .vmskMxor o => Sys2Proof.Machine.execVmskMxor o s
  | .vmskMnot o => Sys2Proof.Machine.execVmskMnot o s
  | .vmskMpop o => Sys2Proof.Machine.execVmskMpop o s
  | .vmskMfirst o => Sys2Proof.Machine.execVmskMfirst o s
  | .vmskMset o => Sys2Proof.Machine.execVmskMset o s
  | .vcvt o => Sys2Proof.Machine.execVcvt o s
  | .vpermBcast o => Sys2Proof.Machine.execVpermBcast o s
  | .vpermShup o => Sys2Proof.Machine.execVpermShup o s
  | .vpermShdn o => Sys2Proof.Machine.execVpermShdn o s
  | .vpermPerm o => Sys2Proof.Machine.execVpermPerm o s
  | .vpermComp o => Sys2Proof.Machine.execVpermComp o s
  | .vpermExpd o => Sys2Proof.Machine.execVpermExpd o s
  | .vpermRev o => Sys2Proof.Machine.execVpermRev o s
  | .vredFsum o => Sys2Proof.Machine.execVredFsum o s
  | .vredFmax o => Sys2Proof.Machine.execVredFmax o s
  | .vredFmin o => Sys2Proof.Machine.execVredFmin o s
  | .vredIsum o => Sys2Proof.Machine.execVredIsum o s
  | .vredImax o => Sys2Proof.Machine.execVredImax o s
  | .vredImin o => Sys2Proof.Machine.execVredImin o s
  | .vredFsumQ o => Sys2Proof.Machine.execVredFsumQ o s
  | .vredFmaxQ o => Sys2Proof.Machine.execVredFmaxQ o s
  | .vredFminQ o => Sys2Proof.Machine.execVredFminQ o s
  | .vredIsumQ o => Sys2Proof.Machine.execVredIsumQ o s
  | .vredImaxQ o => Sys2Proof.Machine.execVredImaxQ o s
  | .vredIminQ o => Sys2Proof.Machine.execVredIminQ o s
  | .vmovVtos o => Sys2Proof.Machine.execVmovVtos o s
  | .vmovStov o => Sys2Proof.Machine.execVmovStov o s
  | .vmovVmv o => Sys2Proof.Machine.execVmovVmv o s
  | .laneClaim o => Sys2Proof.Machine.execLaneClaim o s
  | .laneRel => Sys2Proof.Machine.execLaneRel s
  | .laneSync => Sys2Proof.Machine.execLaneSync s
  | .laneQuery o => Sys2Proof.Machine.execLaneQuery o s
  | .laneGrant cl => Sys2Proof.Machine.execLaneGrant cl s
  | .shrinkTakesEffect r => Sys2Proof.Machine.execShrinkTakesEffect r s
  | .vld o => Sys2Proof.Machine.execVld o s
  | .vst o => Sys2Proof.Machine.execVst o s
  | .vlds o => Sys2Proof.Machine.execVlds o s
  | .vsts o => Sys2Proof.Machine.execVsts o s
  | .vgat o => Sys2Proof.Machine.execVgat o s
  | .vsca o => Sys2Proof.Machine.execVsca o s
  | .vldb o => Sys2Proof.Machine.execVldb o s
  | .vstb o => Sys2Proof.Machine.execVstb o s
  | .vaddF32 o => Sys2Proof.Machine.execVaddF32 o s
  | .vsubF32 o => Sys2Proof.Machine.execVsubF32 o s
  | .vmulF32 o => Sys2Proof.Machine.execVmulF32 o s
  | .vmaxF32 o => Sys2Proof.Machine.execVmaxF32 o s
  | .vminF32 o => Sys2Proof.Machine.execVminF32 o s
  | .vaddI32 o => Sys2Proof.Machine.execVaddI32 o s
  | .vsubI32 o => Sys2Proof.Machine.execVsubI32 o s
  | .vand o => Sys2Proof.Machine.execVand o s
  | .vor o => Sys2Proof.Machine.execVor o s
  | .vxor o => Sys2Proof.Machine.execVxor o s
  | .vshlI32 o => Sys2Proof.Machine.execVshlI32 o s
  | .vshrI32 o => Sys2Proof.Machine.execVshrI32 o s
  | .vmv o => Sys2Proof.Machine.execVmv o s
  | .vabsF32 o => Sys2Proof.Machine.execVabsF32 o s
  | .vnegF32 o => Sys2Proof.Machine.execVnegF32 o s
  | .vmulI32 o => Sys2Proof.Machine.execVmulI32 o s
  | .copy o => Sys2Proof.Machine.execCopy o s
  | .copyFo o => Sys2Proof.Machine.execCopyFo o s
  | .mmld o => Sys2Proof.Machine.execMmld o s
  | .mmsw o => Sys2Proof.Machine.execMmsw o s
  | .mmrun o => Sys2Proof.Machine.execMmrun o s
  | .mmst o => Sys2Proof.Machine.execMmst o s
  | .jwaitPoll o => Sys2Proof.Machine.execJwaitPoll o s
  | .jwaitSleep o => Sys2Proof.Machine.execJwaitSleep o s
  | .jwaitAny o => Sys2Proof.Machine.execJwaitAny o s
  | .gath o => Sys2Proof.Machine.execGath o s
  | .coll o => Sys2Proof.Machine.execColl o s
  | .enginePlacement r => Sys2Proof.Machine.execEnginePlacement r s
  | .jobStart cl k => Sys2Proof.Machine.execJobStart cl k s
  | .jobCompletion cl k => Sys2Proof.Machine.execJobCompletion cl k s
  | .followonPlacement cl k => Sys2Proof.Machine.execFollowonPlacement cl k s
  | .collRoundClose sag grp => Sys2Proof.Machine.execCollRoundClose sag grp s
  | .ebudRefill => Sys2Proof.Machine.execEbudRefill s
  | .tcall o => Sys2Proof.Machine.execTcall o s
  | .tans o => Sys2Proof.Machine.execTans o s
  | .tret o => Sys2Proof.Machine.execTret o s
  | .tnextNext o => Sys2Proof.Machine.execTnextNext o s
  | .tnextClose o => Sys2Proof.Machine.execTnextClose o s
  | .twait o => Sys2Proof.Machine.execTwait o s
  | .tend => Sys2Proof.Machine.execTend s
  | .tabol o => Sys2Proof.Machine.execTabol o s
  | .tstat o => Sys2Proof.Machine.execTstat o s
  | .galleyHomeRequest k blk ser => Sys2Proof.Machine.execGalleyHomeRequest k blk ser s
  | .continuationInvocation sag k core => Sys2Proof.Machine.execContinuationInvocation sag k core s
  | .coneCountUpdate k => Sys2Proof.Machine.execConeCountUpdate k s
  | .groupMerge k => Sys2Proof.Machine.execGroupMerge k s
  | .completionNotice k => Sys2Proof.Machine.execCompletionNotice k s
  | .groupFailure k => Sys2Proof.Machine.execGroupFailure k s
  | .failureNotice k => Sys2Proof.Machine.execFailureNotice k s
  | .galleySoftError sag k record => Sys2Proof.Machine.execGalleySoftError sag k record s
  | .ctalloc o => Sys2Proof.Machine.execCtalloc o s
  | .ctallocNb o => Sys2Proof.Machine.execCtallocNb o s
  | .ctenter o => Sys2Proof.Machine.execCtenter o s
  | .ctretireCommit o => Sys2Proof.Machine.execCtretireCommit o s
  | .ctretireDiscard o => Sys2Proof.Machine.execCtretireDiscard o s
  | .ctphase o => Sys2Proof.Machine.execCtphase o s
  | .ctq o => Sys2Proof.Machine.execCtq o s
  | .tagGrant sag => Sys2Proof.Machine.execTagGrant sag s
  | .sspawnOrdered o => Sys2Proof.Machine.execSspawnOrdered o s
  | .sspawnUnordered o => Sys2Proof.Machine.execSspawnUnordered o s
  | .bop o => Sys2Proof.Machine.execBop o s
  | .bopend => Sys2Proof.Machine.execBopend s
  | .sdone => Sys2Proof.Machine.execSdone s
  | .sabort o => Sys2Proof.Machine.execSabort o s
  | .uend => Sys2Proof.Machine.execUend s
  | .cload o => Sys2Proof.Machine.execCload o s
  | .specTaskDispatch sag inst seq core => Sys2Proof.Machine.execSpecTaskDispatch sag inst seq core s
  | .specTaskCommit sag inst seq => Sys2Proof.Machine.execSpecTaskCommit sag inst seq s
  | .specAbort sag inst seq => Sys2Proof.Machine.execSpecAbort sag inst seq s
  | .undoReplay sag inst seq core => Sys2Proof.Machine.execUndoReplay sag inst seq core s
  | .strandWake r => Sys2Proof.Machine.execStrandWake r s
  | .longLatencyResult r k => Sys2Proof.Machine.execLongLatencyResult r k s
  | .loadDataReturn r k => Sys2Proof.Machine.execLoadDataReturn r k s
  | .homeReply k => Sys2Proof.Machine.execHomeReply k s
  | .nonreturningUpdateApplied k => Sys2Proof.Machine.execNonreturningUpdateApplied k s
  | .homeAccess h => Sys2Proof.Machine.execHomeAccess h s
  | .replayRetry core k => Sys2Proof.Machine.execReplayRetry core k s
  | .pendingWriteDrain die => Sys2Proof.Machine.execPendingWriteDrain die s
  | .deviceReset => Sys2Proof.Machine.execDeviceReset s
  | .bootStage1 b => Sys2Proof.Machine.execBootStage1 b s
  | .bootStage2 kr reporting => Sys2Proof.Machine.execBootStage2 kr reporting s
  | .compositorReportTimeout c => Sys2Proof.Machine.execCompositorReportTimeout c s
  | .imageLoad b => Sys2Proof.Machine.execImageLoad b s
  | .graphUpload sag g => Sys2Proof.Machine.execGraphUpload sag g s
  | .graphFree sag h => Sys2Proof.Machine.execGraphFree sag h s
  | .trigger sag p => Sys2Proof.Machine.execTrigger sag p s
  | .instanceLeavesPool sag => Sys2Proof.Machine.execInstanceLeavesPool sag s
  | .leaseResidency sag m => Sys2Proof.Machine.execLeaseResidency sag m s
  | .taskDispatch sag => Sys2Proof.Machine.execTaskDispatch sag s
  | .taskCompletion sag task => Sys2Proof.Machine.execTaskCompletion sag task s
  | .instanceEnd sag inst => Sys2Proof.Machine.execInstanceEnd sag inst s
  | .pageMove comp sag va part frame => Sys2Proof.Machine.execPageMove comp sag va part frame s
  | .saggarForm b => Sys2Proof.Machine.execSaggarForm b s
  | .saggarDissolve sag => Sys2Proof.Machine.execSaggarDissolve sag s
  | .tenantDrop k => Sys2Proof.Machine.execTenantDrop k s
  | .preemptSave core ws => Sys2Proof.Machine.execPreemptSave core ws s
  | .preemptResume core => Sys2Proof.Machine.execPreemptResume core s
  | .debugStop core => Sys2Proof.Machine.execDebugStop core s
  | .debugResume core => Sys2Proof.Machine.execDebugResume core s
  | .samplePulse => Sys2Proof.Machine.execSamplePulse s
  | .hostPortAccess h => Sys2Proof.Machine.execHostPortAccess h s
  | .fabricMessageReceive m => Sys2Proof.Machine.execFabricMessageReceive m s
  | .fabricAck port peer seq => Sys2Proof.Machine.execFabricAck port peer seq s
  | .linkFailure link => Sys2Proof.Machine.execLinkFailure link s
  | .linkUp link port peer => Sys2Proof.Machine.execLinkUp link port peer s
  | .peerChannelRetire comp sag port peer pages => Sys2Proof.Machine.execPeerChannelRetire comp sag port peer pages s
  | .class3CreditRefill => Sys2Proof.Machine.execClass3CreditRefill s
  | .repairTableReload stack pch shadow => Sys2Proof.Machine.execRepairTableReload stack pch shadow s
  | .keyLoad id key => Sys2Proof.Machine.execKeyLoad id key s
  | .spdmMeasurement => Sys2Proof.Machine.execSpdmMeasurement s
  | .frequencyStep die mult => Sys2Proof.Machine.execFrequencyStep die mult s
  | .relockEnd die => Sys2Proof.Machine.execRelockEnd die s
  | .powerStateEntry unit isCore => Sys2Proof.Machine.execPowerStateEntry unit isCore s
  | .powerStateExit unit isCore => Sys2Proof.Machine.execPowerStateExit unit isCore s
  | .partitionWordWrite sag w => Sys2Proof.Machine.execPartitionWordWrite sag w s
  | .energyClassWrite sag w => Sys2Proof.Machine.execEnergyClassWrite sag w s
  | .registerWrite reg unit w => Sys2Proof.Machine.execRegisterWrite reg unit w s
  | .nonInstruction w => Sys2Proof.Machine.execNonInstruction w s
  | .fetchFault bad addr => Sys2Proof.Machine.execFetchFault bad addr s
  | .storeAcknowledgement k => Sys2Proof.Machine.execStoreAcknowledgement k s
  | .coneAcknowledgement k => Sys2Proof.Machine.execConeAcknowledgement k s
  | .dirtyLogService comp sag va => Sys2Proof.Machine.execDirtyLogService comp sag va s
  | .pageTableEdit comp sag p => Sys2Proof.Machine.execPageTableEdit comp sag p s

end Sys2Proof.Machine
end

