-- ==== Sys2Proof/Machine/Cycle.lean ====
section
/-! DEFINITION. A core cycle: which strand issues, and the instruction it begins or goes on with (R77, R251). -/

namespace Sys2Proof.Machine

/-- Whether the instruction, or the claim at a loop's end, that holds a strand out of the rotation would hold it in the same place again (R251, R405): such a
strand takes no cycle. -/
noncomputable def State.stillHeld (s : State) (c k : Nat) : Bool :=
  let m := s.strandAt c k
  let t := State.modMe { s with core := c, slot := k } (fun m => { m with status := .ready })
  match (if m.stage = 13 then claimAgain t else match m.cur with | some i => exec i t | none => .next t) with
  | .next t => decide ((t.strandAt c k).status = .held) && decide ((t.strandAt c k).stage = m.stage) && decide ((t.strandAt c k).work = m.work)
  | _ => false

/-- Whether slot k of core c is eligible in the core's cycle (R251): a strand held before its instruction is sent is back in the rotation once that
instruction can go on, one whose lane elements still wait for requests is out of it (R177), and so is one whose next instruction cannot be fetched yet. -/
noncomputable def State.eligible (s : State) (c k : Nat) : Bool :=
  let m := s.strandAt c k
  ((s.coreAt c).eligible k || (decide (m.status = .held) && m.live && !m.dying && decide (m.nextIssue ≤ (s.coreAt c).cycle) && !m.jammed && !s.stillHeld c k)) &&
  !s.sending c k && !State.fetchWaits { s with core := c, slot := k }

/-- The slot a core issues for in this cycle: the first eligible one in ring order (R251); a halted core issues nothing; under STEP only SSLOT issues
(R405, R432, R433). -/
noncomputable def State.choice (s : State) (c : Nat) : Option Nat :=
  let x := s.coreAt c
  if x.halted then none
  else if x.dctl.getLsbD 7 then (if s.eligible c (bitsOf x.dctl 8 4) then some (bitsOf x.dctl 8 4) else none)
  else x.ring.find? (fun k => s.eligible c k)

/-- The strand in focus issues: it writes a reply that has come, claims at a loop's end, goes on with the instruction in progress, or fetches and begins the
next one (R8, R77, R134, R251). -/
noncomputable def runStrand (s : State) : Host.Outcome State Fault Refusal :=
  if s.me.stage = 9 then finishReply s
  else if s.me.stage = 13 then claimAgain s
  else
    match s.me.cur with
    | some i => exec i s
    | none =>
      match fetch s with
      | .error f => .fault f
      | .ok (i, s) => exec i (s.modMe (fun m => { m with cur := some i }))

/-- The state in which core c comes to its next core cycle; none where its clock stands, its work is saved, or something due comes first. -/
def State.beat (s : State) (c : Nat) : Option State := if s.clocked c && (s.coreAt c).saved.isNone then s.atBeat c else none

/-- The same state, with the cycles counted that strands have spent on moved pages (R395). -/
def State.turn (s : State) (c : Nat) : Option State := (s.beat c).map (fun t => t.stallTick c (t.nextBeat c + 1 - (s.coreAt c).cycle))

/-- Whether slot k of core c ends what it has sent or begun: its reply has come, or what it does goes on. It is out of the rotation until then and uses no
issue (R110, R189, R252, log 7). -/
noncomputable def State.finishes (s : State) (c k : Nat) : Bool :=
  let m := s.strandAt c k
  m.live && !m.dying && m.finishes && !m.jammed && !s.sending c k && (decide (m.status ≠ .held) || !s.stillHeld c k)

/-- The state in which a strand of core c ends what it has sent or begun, at the TIME of the core's next cycle, which stays unused; none where there is
no such strand. -/
noncomputable def State.finishing (s : State) (c : Nat) : Option State :=
  match s.beat c with
  | some t =>
    match (List.range 16).find? (fun k => t.finishes c k) with
    | some k =>
      let t := t.modCore c (fun x => { x with cycle := (s.coreAt c).cycle, slots := Tbl.upd x.slots k Strand.empty (fun m => { m with status := .ready }) })
      some { t with core := c, slot := k }
    | none => none
  | none => none

/-- After a cycle under STEP, in which SSLOT issued or was not eligible, the core has stopped again: a strand that it holds stands at its boundary (R405,
R433). -/
def stepped (on : Bool) (c : Nat) (o : Host.Outcome State Fault Refusal) : Host.Outcome State Fault Refusal :=
  match o with
  | .next t => .next (if on then t.backOffAll c else t)
  | o => o

/-- One turn of a core: a strand ends what it has sent, or a cycle of the barrel passes (R251). -/
noncomputable def coreCycle (c : Nat) (s : State) : Host.Outcome State Fault Refusal :=
  match s.finishing c with
  | some t => runStrand t
  | none =>
    match s.turn c with
    | some t =>
      match t.choice c with
      | some k => stepped ((t.coreAt c).dctl.getLsbD 7) c (runStrand (t.focus c k))
      | none => stepped ((t.coreAt c).dctl.getLsbD 7) c (.next (t.idle c))
    | none => .next s

/-- Whether the strand in focus fetches in the next step, at a location that exists. -/
noncomputable def State.fetches (s : State) : Bool :=
  match (if s.agenda.isEmpty && s.running s.core && (s.finishing s.core).isNone then s.turn s.core else none) with
  | some t =>
    decide (t.choice s.core = some s.slot) && s.me.cur.isNone && decide (s.me.stage = 0) &&
    (match fetchLoc s.me.pc s, fetchLoc (s.me.pc + 2) s with | .ok _, .ok _ => true | _, _ => false)
  | none => false

end Sys2Proof.Machine
end

