-- ==== Sys2Proof/Machine/Step.lean ====
section
/-! DEFINITION. One step of the machine: the next turn of the agenda. -/

namespace Sys2Proof.Machine

/-- One step: the first turn of the agenda, or a cycle of the core in focus when the agenda is empty. -/
noncomputable def step (s : State) : Host.Outcome State Fault Refusal :=
  match s.agenda with
  | [] => coreCycle s.core s
  | .cycle c :: t => coreCycle c { s with agenda := t }
  | .elapse n :: t => .next ({ s with agenda := t }.elapse n)
  | .event i :: t => exec i { s with agenda := t }
  | .upset l d :: t => .next ({ s with agenda := t }.upset l d)
  | .upsetQueue c q i d :: t => .next ({ s with agenda := t }.upsetQueue c q i d)
  | .upsetCell g x b w d :: t => .next ({ s with agenda := t }.upsetCell g x b w d)
  | .upsetTable k p d :: t => .next ({ s with agenda := t }.upsetTable k p d)

/-- The state with an instruction's word placed where the next step fetches (log 6). -/
noncomputable def State.withFetchWord (s : State) (nbits w : Nat) : State :=
  (if s.fetches then s else s.launched).placeCode (toBytes 4 (w % 2 ^ nbits))

end Sys2Proof.Machine
end

