-- ==== Sys2Proof/Safety.lean ====
section
/-! DEFINITION. The terms that claims use: a sound state, a safe run, and what reading a source, writing a destination and ending an
instruction come to when nothing makes the strand wait. -/

namespace Sys2Proof.Machine

/-- The canonical form of memory: locations strictly rise and no entry holds what an unlisted location reads as. -/
def Memory.wf (m : Memory) : Bool := Tbl.wf (0 : Byte) m

/-- The state holds its memory, its full bits and its poison bits in canonical form. -/
def State.Canonical (s : State) : Prop :=
  Memory.wf s.mem = true ∧ Tbl.sortedFrom 0 s.full = true ∧ Tbl.sortedFrom 0 s.poison = true

/-- n steps from s neither fault nor are refused. -/
def SafeFor : Nat → State → Prop
  | 0, _ => True
  | n + 1, s => ∃ t, step s = .next t ∧ SafeFor n t

/-! Instructions of the strand in focus. -/

/-- The strand in focus has fetched i and has done nothing of it yet. -/
def State.Begins (s : State) (i : Instr) : Prop := s.me.cur = some i ∧ s.me.stage = 0 ∧ s.me.reads = [] ∧ s.slot < 16

/-- The strand in focus begins i with no prefix pending. -/
def State.Starts (s : State) (i : Instr) : Prop := s.Begins i ∧ s.me.prefixed = false

/-- No hardware loop can end here: none is active, or a trap handler runs (R132, R401). -/
def State.NoLoop (s : State) : Prop := s.me.inTrap = true ∨ s.me.innermost = none

/-- The value of source code c, where it may be read now (R63, R65): a full register, the head of a queue that admits the strand, or
one of the codes 56 to 62. A poisoned queue entry reads as 0 (R417). -/
def State.src (s : State) (c : Code) : Option Word :=
  let n := c.toNat
  let m := s.me
  let left := s.strandAt s.core ((s.slot + 15) % 16)
  let q := s.myCore.queue (n - 48)
  if n < 32 then (if m.sFull.getLsbD n then some (m.sreg n) else none)
  else if n < 40 then (if left.woFull.getLsbD (n - 32) then some (left.woreg (n - 32)) else none)
  else if n < 48 then (if m.woFull.getLsbD (n - 40) then some (m.woreg (n - 40)) else none)
  else if n < 56 then (if q.admits s.slot false && (q.poppers.isEmpty || q.poppers.head? == some s.slot) then
    q.entries.head?.map (fun e => if q.marks.headD false then 0 else e) else none)
  else some (if n = 57 then word m.vl else if 59 ≤ n then m.ix (n - 59) else 0)

/-- The state after source code c has been read with value v (R63, R65): with y a register is emptied, a queue loses its head, and the
strand notes the read for R449; a poisoned entry is counted (R178, R417). -/
def State.took (s : State) (c : Code) (y : Bool) (v : Word) : State :=
  let n := c.toNat
  if n < 48 then
    let s := s.pushRead ⟨v, if y then .bit n else .nothing⟩
    if !y then s
    else if n < 32 then s.modMe (fun m => m.emptyS n)
    else if n < 40 then s.modStrand s.core ((s.slot + 15) % 16) (fun m => m.markWo (n - 32) false)
    else s.modMe (fun m => m.markWo (n - 40) false)
  else if n < 56 then
    let bad := (s.myCore.queue (n - 48)).marks.headD false
    let t := (s.modMyCore (fun c => c.modQueue (n - 48) (fun x => { x with
      entries := x.entries.drop 1, poppers := x.poppers.filter (· != s.slot), marks := x.marks.drop 1 }))).pushRead ⟨v, .head (n - 48) bad⟩
    if bad then t.countPoison s.core s.slot s.me.sag else t
  else s.pushRead ⟨v, .nothing⟩

/-- Source code c with its y bit is legal and gives v now, and u is the state after it has been read (R63, R65). -/
def State.Gives (s : State) (c : Code) (y : Bool) (v : Word) (u : State) : Prop := srcOk y c = true ∧ s.src c = some v ∧ u = s.took c y v

/-- Whether destination code d takes a value now (R63, R110, R254, R257): an s register that owes no result, an empty window register, a
queue that admits the strand and has room, or z. -/
def State.room (s : State) (d : Code) : Bool :=
  let n := d.toNat
  let q := s.myCore.queue (n - 48)
  if n < 32 then !s.me.owes n
  else if n < 40 then false
  else if n < 48 then !s.me.woFull.getLsbD (n - 40)
  else if n < 56 then q.admits s.slot true && decide (q.entries.length < Config.queueDepth) && (q.pushers.isEmpty || q.pushers.head? == some s.slot)
  else decide (n = 56)

/-- Source code c gives nothing now: an empty register, or a queue that admits the strand and is empty or has another to serve first (R65, R256). -/
def State.Lacks (s : State) (c : Code) : Prop :=
  s.src c = none ∧ (48 ≤ c.toNat → c.toNat < 56 → (s.myCore.queue (c.toNat - 48)).admits s.slot false = true)

/-- The state after the strand has parked on source code c (R65, R252, R256): on a register under its number, or among the poppers of a queue. -/
def State.starves (s : State) (c : Code) : State :=
  let n := c.toNat
  if n < 48 then s.modMe (fun m => { m with status := .parked (.reg n) })
  else (s.modMyCore (fun c => c.modQueue (n - 48) (fun x => { x with poppers := if x.poppers.contains s.slot then x.poppers else x.poppers ++ [s.slot] }))).modMe
    (fun m => { m with status := .parked (.pop (n - 48)) })

/-- The state after the strand has parked with value v on destination code d, which has no room for it (R63, R254, R256, R258). -/
def State.jams (s : State) (d : Code) (v : Word) : State :=
  let n := d.toNat
  let at_ := fun (w : Wait) (m : Strand) => { m with status := .parked w, stage := 9, work := [n], reply := some ⟨v, [], 0⟩ }
  if n < 48 then s.modMe (at_ (.room n))
  else (s.modMyCore (fun c => c.modQueue (n - 48) (fun x => { x with pushers := if x.pushers.contains s.slot then x.pushers else x.pushers ++ [s.slot] }))).modMe
    (at_ (.push (n - 48)))

/-- The state after the strand has been held until the replay queue is empty, on every store parked there (R192, R395). -/
def State.heldParked (s : State) : State :=
  s.modMe (fun m => { m with status := .held, heldOn := (s.myCore.replay.flatMap (·.msgs)).map (·.va) })

/-- The state after v is written to destination code d: a register becomes full, a queue takes v at its tail, z discards it (R63). -/
def State.put (s : State) (d : Code) (v : Word) : State :=
  let n := d.toNat
  if n < 32 then s.modMe (fun m => m.setS n v)
  else if n < 48 then s.modMe (fun m => m.setWo (n - 40) v)
  else if n < 56 then
    s.modMyCore (fun c => c.modQueue (n - 48) (fun x => { x with entries := x.entries ++ [v], pushers := x.pushers.filter (· != s.slot) }))
  else s

/-- The state after the instruction i of the strand in focus has ended and the strand goes on at the next address. -/
def State.past (s : State) (i : Instr) : State := s.modMe (fun m => { m.retire with pc := m.pc + word i.len })

/-- The state after the instruction of the strand in focus has ended and the strand goes on at pc. -/
def State.goes (s : State) (pc : Word) : State := s.modMe (fun m => { m.retire with pc := pc })

/-! How an instruction answers. -/

/-- Executing i in s ends it in u: hardware loops are then looked at (R132), and with none to end the strand goes on after i. -/
def Completes (i : Instr) (s u : State) : Prop := exec i s = complete u ∧ (u.NoLoop → exec i s = .next (u.past i))

/-- Executing i in s ends it in u with the next address pc, reached other than in sequence (R132, R133). -/
def GoesTo (i : Instr) (s u : State) (pc : Word) : Prop := exec i s = completeTo pc false u ∧ (u.NoLoop → exec i s = .next (u.goes pc))

/-- Executing i in s leaves u with result p still to come (R110, R147, R176): an s register is empty from then on and the strand goes on; for another
destination the strand leaves the rotation. -/
def Later (i : Instr) (s u : State) (p : Pend) : Prop :=
  if p.d < 32 then Completes i s (u.modMe (fun m => { m.emptyS p.d with pending := m.pending ++ [p] }))
  else exec i s = .next (u.modMe (fun m => { m with pending := m.pending ++ [p], status := .out, stage := 9, work := [p.d] }))

/-- Executing i in s sends what u holds in flight, and the strand leaves the rotation until the reply comes, which is then written to operand
code d (R189, R405). -/
def Awaits (i : Instr) (s u : State) (d : Nat) : Prop :=
  exec i s = .next (u.modMe (fun m => { m with status := .out, stage := 9, work := [d] }))

/-- Executing i in s takes the trap with cause code c and value v at the instruction's address, in u (R401, R402). -/
def Traps (i : Instr) (s u : State) (c : Nat) (v : Word) : Prop := exec i s = takeTrapCode c s.me.pc v u

/-- The checks before an instruction i in s acts (R77): a pending prefix that it does not take is misused and dropped, and operand codes that are not `ok` are
illegal; EADDR holds the encoding. -/
def Checks (i : Instr) (s : State) (ok : Bool) : Prop :=
  (s.me.prefixed = true → Traps i s (s.modMe Strand.dropPrefix) 4 (word (encode i))) ∧
  (s.me.prefixed = false → ok = false → Traps i s s 2 (word (encode i)))

/-- From s to t an instruction with destination code d has changed, besides d and the pc, only what its source reads change: its own full bits and queues, the
full bit of a window register of its left neighbour, and the counts of a poisoned queue entry (R65, R178). -/
def ScalarFrame (s t : State) (d : Code) : Prop :=
  (∀ l, t.byte l = s.byte l ∧ t.isFull l = s.isFull l ∧ t.poisoned l = s.poisoned l) ∧ t.net = s.net ∧
  withBits t.me.st 32 16 0 = withBits s.me.st 32 16 0 ∧ (∀ j, j ≠ d.toNat → t.me.sreg j = s.me.sreg j) ∧
  (t.me.epc, t.me.ecause, t.me.eaddr, t.me.tvec, t.me.lc, t.me.lb, t.me.le) = (s.me.epc, s.me.ecause, s.me.eaddr, s.me.tvec, s.me.lc, s.me.lb, s.me.le) ∧
  (t.me.istate0, t.me.istate1, t.me.ctx, t.me.tspace, t.me.heapb, t.me.heapl, t.me.heapo, t.me.g, t.me.v, t.me.m) =
    (s.me.istate0, s.me.istate1, s.me.ctx, s.me.tspace, s.me.heapb, s.me.heapl, s.me.heapo, s.me.g, s.me.v, s.me.m) ∧
  t.me.pc = s.me.pc + 4 ∧ (t.clusters, t.dies, t.acks, t.time) = (s.clusters, s.dies, s.acks, s.time) ∧
  ((∀ q, true ∉ (s.myCore.queue q).marks) → t.me.st = s.me.st ∧ t.saggars = s.saggars) ∧
  (∀ c k, ¬(c = s.core ∧ k = s.slot) → { t.strandAt c k with woFull := (s.strandAt c k).woFull } = s.strandAt c k) ∧
  (∀ c k, ¬(c = s.core ∧ (k = s.slot ∨ k = (s.slot + 15) % 16)) → t.strandAt c k = s.strandAt c k)

/-- Executing i in s leaves a load on its way in u, with result p still to come (R176); where poison traps are elected the strand awaits its data
(R178, log 94). -/
def Loads (i : Instr) (s u : State) (p : Pend) : Prop :=
  if u.poisonTraps = true then exec i s = .next (u.modMe (fun m => { m with pending := m.pending ++ [p], status := .out, stage := 9, work := [p.d] }))
  else Later i s u p

/-- Whether destination code d can be promised a later result (R110, R257): no result owed to it, and a queue that admits the strand. -/
def State.accepts (s : State) (d : Code) : Bool :=
  if d.toNat < 32 then !s.me.owes d.toNat
  else if 48 ≤ d.toNat ∧ d.toNat < 56 then (s.myCore.queue (d.toNat - 48)).admits s.slot true
  else true

/-- The scale register of a pending prefix reads as v; without a prefix v is 0 (R96). -/
def State.scaleIs (s : State) (v : Word) : Prop :=
  if s.me.prefixed then s.src (BitVec.ofNat 6 (bitsOf s.me.st 22 4)) = some v else v = 0

/-- The state after the scale register of a pending prefix has been read (R65, R96). -/
def State.tookScale (s : State) (v : Word) : State :=
  if s.me.prefixed then s.took (BitVec.ofNat 6 (bitsOf s.me.st 22 4)) false v else s

/-- A home is awake (R442): an access to it wakes neither a core nor a die. -/
def State.awakeAt (s : State) (h : Home) : Bool :=
  match h.kind with
  | .scratch | .core => !(s.coreAt h.unit).gated && decide ((s.dieAt (dieOf (clusterOf h.unit))).power = 0)
  | .slice | .galley => decide ((s.dieAt (dieOf h.unit)).power = 0)
  | .hbm => decide ((s.dieAt (h.unit / 3)).power = 0)
  | _ => true

/-- An access passes every check of R174 at place p, with t the state afterwards: the TLBs may have been filled. -/
def Admits (kd : Acc) (a : Word) (n al : Nat) (pre : Addr → Bool) (s : State) (p : Place) (t : State) : Prop :=
  ∀ (y : Way) (k : Place → State → Out), accessBy y kd a n al pre s k = k p t

/-- A write to place p may be put in flight at once: request room, no replay-class fault, no parked store to its page (R175, R177). -/
def State.Sends (s : State) (p : Place) : Prop := s.requestRoom 1 = true ∧ p.replay = none ∧ s.parkedPage p.named = none

/-- Message m is k-th in flight and its home takes it now: nothing bars it, no parked store is in its way, no write to its word waits in its die's buffer, it
does not go to a peer, no error stands in the bytes it touches, and it wakes nothing (R175, R287, R292, R412, R417, R442). -/
def State.Arrives (s : State) (k : Nat) (m : Msg) : Prop :=
  s.net[k]? = some m ∧ s.barred k m = false ∧ (m.body.parks = true → s.mustPark m = false) ∧ (m.body.parks = false → s.behindParked m = false) ∧ s.awaitsBuffer m = false ∧ s.sentAway m = false ∧
  (m.home.kind = .fabric → spaceOf m.loc ≠ 3) ∧ (∀ i, i < m.size → Tbl.find s.errs (poisonWord (m.loc + i)) = none) ∧ ∀ h ∈ m.homes, s.awakeAt h = true

/-- A record of n dwords at address a can be read at issue as r, latched as sources j on, with t the state afterwards (R450). -/
def Reads (j : Nat) (a : Word) (n : Nat) (s : State) (r : List Word) (t : State) : Prop :=
  ∀ k : List Word → State → Out, readRecord j a n s k = k r t

/-! Lanes. -/

/-- Lane i is active in an instruction that is masked or not (R146). -/
def Strand.active (m : Strand) (masked : Bool) (i : Nat) : Bool := decide (i < m.vl) && (!masked || (m.mask 0).getLsbD i)

/-- The strand in focus holds lanes, no earlier lane instruction is outstanding, and its lanes are listed in order. -/
def State.LanesReady (s : State) : Prop :=
  0 < s.me.g ∧ s.me.g ≤ 16 ∧ s.me.laneQ = [] ∧ s.me.laneLoads = 0 ∧ Tbl.sortedFrom 0 s.me.v = true ∧ Tbl.sortedFrom 0 s.me.m = true

/-- Lane operand b: a broadcast s register that gives w, with u the state after it has been read, or a vector register (R67). -/
def State.Broadcast (s : State) (b : Code) (w : Option Word) (u : State) : Prop :=
  if bcOk b = true then ∃ v, s.Gives (b - 32) false v u ∧ w = some v else w = none ∧ u = s

/-- Lane i of operand b. -/
def Strand.laneB (m : Strand) (w : Option Word) (b : Code) (i : Nat) : Lane := match w with | some v => v.setWidth 32 | none => m.laneAt b.toNat i

/-- From m to m' the lanes of register d that p picks take f, and no other lane, mask or register changes. -/
def LanesTo (m m' : Strand) (d : Nat) (p : Nat → Bool) (f : Nat → Lane) : Prop :=
  (∀ i, i < 256 → m'.laneAt d i = if p i then f i else m.laneAt d i) ∧ (∀ r i, r ≠ d → i < 256 → m'.laneAt r i = m.laneAt r i) ∧
  (m'.m, m'.s, m'.sFull, m'.wo, m'.woFull, m'.g, m'.pending) = (m.m, m.s, m.sFull, m.wo, m.woFull, m.g, m.pending)

/-- From m to m' the bits below vl of mask register d take f, and no lane, other mask or register changes. -/
def MaskTo (m m' : Strand) (d : Nat) (f : Nat → Bool) : Prop :=
  (∀ i, i < m.vl → (m'.mask d).getLsbD i = f i) ∧ (∀ r, r ≠ d → m'.mask r = m.mask r) ∧
  (m'.v, m'.s, m'.sFull, m'.wo, m'.woFull, m'.g, m'.pending) = (m.v, m.s, m.sFull, m.wo, m.woFull, m.g, m.pending)

/-- The elements of a lane memory instruction pass every check in ascending order: ps are their places with bit offsets, t the state afterwards. -/
def AdmitsAll (chk : Word → State → (Place → Nat → State → Out) → Out) (es : List (Nat × Word)) (s : State) (ps : List (Nat × Place × Nat)) (t : State) : Prop :=
  ∀ k : List (Nat × Place × Nat) → State → Out, laneElements chk es [] s k = k ps t

/-! Engine jobs. -/

/-- Nothing holds jobs ps with a debit: no tag overflows, every wait of R211 is over, no other strand of the cluster waits, no core of it has a job to place
again, and its queue has room. -/
def State.Takes (s : State) (ps : List JobPlan) (debit : Nat) : Prop :=
  s.me.work = [] ∧ s.myCore.fullTag (ps.map (·.tag)) = none ∧ (s.modMe (fun m => { m with work := [s.serial] })).tick.2.placeable ps debit = true ∧
  (s.clusterAt s.myCluster).waiting = [] ∧ (∀ k, k < 8 → s.replacing (8 * s.myCluster + k) = false) ∧ (s.clusterAt s.myCluster).jobs.length + ps.length ≤ 16

/-- The state after jobs ps have been placed and paid for, the first to wait for its start and the others behind it (R211, R217, R363). -/
def State.placed (s : State) (ps : List JobPlan) (debit : Nat) : State :=
  let s1 := (s.modMe (fun m => { m with work := [s.serial] })).tick.2
  let s2 := s1.modCluster s.myCluster (fun c => { c with waiting := [], lastGrant := s.core % 8 })
  let s3 := s2.modMyCore (fun c => { c with ebud := withBits c.ebud 0 24 (bitsOf c.ebud 0 24 - debit) })
  match ps with
  | [] => s3
  | p :: t => t.foldl (fun (s : State) q => s.placeJob q .reserved) (s3.placeJob p .waiting)

/-- A matrix descriptor r at address a passes its checks and asks for job p with a debit (R222). -/
def Plans (k : JobKind) (ow : Bool) (cls tag : Nat) (sc a : Word) (r : List Word) (s : State) (p : JobPlan) (debit : Nat) : Prop :=
  ∀ go : JobPlan → Nat → State → Out, planMatrix k ow cls tag sc a r s go = go p debit s

/-- Executing i in s places jobs ps in t and ends, with the first id in operand code d (R211). -/
def PlacesJobs (i : Instr) (s t : State) (ps : List JobPlan) (debit : Nat) (d : Code) : Prop :=
  t.Takes ps debit → (t.placed ps debit).consume.room d = true → Completes i s ((t.placed ps debit).consume.put d (word t.myCore.jobNext))

end Sys2Proof.Machine
end

