-- ==== Sys2Proof/Certificates/Slice0/Obligations.lean ====
section
/-! DEFINITION. The statements about this model that are to be proved. -/

open Sys2Proof Sys2Proof.Machine

/-! Decoding, stepping and the form of memory. -/

/-- At device reset memory, full bits and poison bits are in canonical form and nothing is listed (R6; what unlisted memory reads as is the
model's choice, log 4). -/
def Obligations.ResetIsCanonical : Prop :=
  State.reset.Canonical ∧ ∀ a : Nat, State.reset.byte a = 0 ∧ State.reset.isFull a = false ∧ State.reset.poisoned a = false

/-- Every step from a state in canonical form keeps memory, full bits and poison bits in canonical form. -/
def Obligations.StepKeepsCanonicalMemory : Prop :=
  ∀ s t : State, s.Canonical → step s = .next t → t.Canonical

/-- Decoding the bytes that the encoder gives for a well-formed encoded instruction gives it back with nothing left over (R55 to R79). -/
def Obligations.DecodeOfEncodeIsIdentity : Prop :=
  ∀ i : Instr, encode i ≠ 0 → wellFormed i = true → decode (encodeBytes i) = .ok (i, [])

/-- With no turn listed and no strand of the core in focus ending what it has sent, that core comes to its next cycle in t and chooses slot k, and the strand
there starts an instruction: the step is exec of the instruction that the bytes at its pc decode to, in the state that has noted the issue (Machine.State.focus)
and the fetch, after which a core under STEP has stopped (Machine.stepped; R55, R77, R251, R433).
That an empty agenda runs the core in focus, that what a reply ends uses no cycle, and when a held strand is in the rotation, are the model's (log 5, log 7). -/
def Obligations.StepRunsTheDecodedInstruction : Prop :=
  ∀ (s t f1 f2 : State) (k l1 l2 : Nat) (i : Instr), s.agenda = [] → s.finishing s.core = none → s.turn s.core = some t → t.choice s.core = some k →
    (t.focus s.core k).me.stage = 0 → (t.focus s.core k).me.cur = none → fetchLoc (t.focus s.core k).me.pc (t.focus s.core k) = .ok (l1, f1) →
    (decode (f1.codeBytes l1 2) = .ok (i, []) →
      step s = stepped ((t.coreAt s.core).dctl.getLsbD 7) s.core (exec i (f1.modMe (fun m => { m with cur := some i })))) ∧
    (ofBytes (f1.codeBytes l1 2) % 2 = 1 → fetchLoc ((t.focus s.core k).me.pc + 2) f1 = .ok (l2, f2) →
      decode (f1.codeBytes l1 2 ++ f2.codeBytes l2 2) = .ok (i, []) →
      step s = stepped ((t.coreAt s.core).dctl.getLsbD 7) s.core (exec i (f2.modMe (fun m => { m with cur := some i }))))

/-- Words written out from the encodings of the manual decode to the instructions they stand for: `eret`, `sysc 5`, `mfs s1, CYC`, `alu.add s3,
s1, s2` and `vadd.f32 v3, v3, v7`. Encodings without an instruction are refused by name (R57, R73, R79): the zero halfword, a word with a reserved major opcode, and a word whose
form code the opcode map does not list. -/
def Obligations.EncodingsOfTheManual : Prop :=
  (decode [0x3D, 0x00, 0x00, 0xC0] = .ok (.eret, []) ∧
   decode [0x3D, 0x00, 0xA0, 0x80] = .ok (.sysc ⟨5⟩, []) ∧
   decode [0x27, 0x01, 0x20, 0x0E] = .ok (.mfs ⟨0x71, 1⟩, []) ∧
   decode [0x03, 0x43, 0x40, 0x00] = .ok (.aluAdd ⟨false, 2, false, 1, 3⟩, []) ∧
   decode [0x60, 0x1C] = .ok (.vaddF32 ⟨false, 7, 3⟩, [])) ∧
  ((∀ t : List Byte, decode (0 :: 0 :: t) = .error .zeroHalfword) ∧
   (∀ w : Nat, w / 2 % 128 ∈ [0x00, 0x2F, 0x3E, 0x3F, 0x53, 0x54, 0x55, 0x56, 0x57, 0x74, 0x75, 0x76, 0x77, 0x78, 0x79, 0x7A, 0x7B, 0x7C, 0x7D, 0x7E,
     0x7F] → decodeWord w = .error .reservedMajor) ∧
   (∀ w : Nat, w / 2 % 128 = 0x04 → 7 ≤ w / 2 ^ 28 % 2 ^ 4 → decodeWord w = .error .reservedForm))

/-! Scalar integer forms. -/

/-- The two-source integer forms (R111, R112, R114, R117): with operand codes of the right classes, both sources readable and room in the
destination, the instruction ends with the value of its rule in d, the sources read in the order a, b. Nothing else changes. Form codes 5 to 15 of `aluw` are reserved. -/
def Obligations.ScalarTwoSourceFormsComplete : Prop :=
  (∀ p ∈ [(Instr.aluAdd, fun a b : Word => a + b), (.aluSub, fun a b => a - b), (.aluAnd, fun a b => a &&& b), (.aluOr, fun a b => a ||| b),
      (.aluXor, fun a b => a ^^^ b), (.aluShl, fun a b => BitVec.ofNat 64 (a.toNat * 2 ^ (b.toNat % 64))),
      (.aluShr, fun a b => BitVec.ofNat 64 (a.toNat / 2 ^ (b.toNat % 64))), (.aluSar, fun a b => BitVec.ofInt 64 (a.toInt / 2 ^ (b.toNat % 64))),
      (.aluSlt, fun a b => if a.toInt < b.toInt then 1 else 0), (.aluSltu, fun a b => if a.toNat < b.toNat then 1 else 0),
      (.aluMin, fun a b => if a.toInt ≤ b.toInt then a else b), (.aluMax, fun a b => if a.toInt ≤ b.toInt then b else a),
      (.aluMinu, fun a b => if a.toNat ≤ b.toNat then a else b), (.aluMaxu, fun a b => if a.toNat ≤ b.toNat then b else a),
      (.aluAndn, fun a b => a &&& ~~~b), (.aluOrn, fun a b => a ||| ~~~b),
      (.aluwAddw, fun a b => (a.setWidth 32 + b.setWidth 32).signExtend 64), (.aluwSubw, fun a b => (a.setWidth 32 - b.setWidth 32).signExtend 64),
      (.aluwShlw, fun a b => (a.setWidth 32 <<< (b.toNat % 32)).signExtend 64), (.aluwShrw, fun a b => (a.setWidth 32 >>> (b.toNat % 32)).signExtend 64),
      (.aluwSarw, fun a b => ((a.setWidth 32).sshiftRight (b.toNat % 32)).signExtend 64),
      (.bitsBext, fun a b => bext64 a b), (.bitsBdep, fun a b => bdep64 a b),
      (.bitsSext, fun a b => BitVec.ofInt 64 (signed (b.toNat % 64 + 1) a.toNat)),
      (.addrMkloc, fun a b => 8#4 ++ a.extractLsb' 0 5 ++ a.extractLsb' 5 5 ++ a.extractLsb' 10 3 ++ a.extractLsb' 13 1 ++ b.extractLsb' 0 46),
      (.addrMkrel, fun a b => 9#4 ++ a.extractLsb' 0 5 ++ a.extractLsb' 5 5 ++ a.extractLsb' 10 3 ++ a.extractLsb' 13 1 ++ b.extractLsb' 0 46)],
    ∀ (o : FmtA) (s : State) (a b : Word), s.Begins (p.1 o) → s.me.prefixed = false → srcOk o.x o.a = true → srcOk o.y o.b = true →
      dstOk o.d = true → s.src o.a = some a → (s.took o.a o.x a).src o.b = some b →
      ((s.took o.a o.x a).took o.b o.y b).room o.d = true →
      Completes (p.1 o) s (((s.took o.a o.x a).took o.b o.y b).put o.d (p.2 a b))) ∧
  (∀ w : Nat, w / 2 % 128 = 0x02 → 5 ≤ w / 2 ^ 28 % 2 ^ 4 → decodeWord w = .error .reservedForm)

/-- The one-source integer forms (R114, R118): counts of bits, the reversal, and the fields of an address of a mesh-local kind, or of the core itself
for any other. `bits.bext` gathers the bits of a where b is 1 into the low bits of d in ascending order, and `bits.bdep` scatters the low bits of a to the places
where b is 1 (R114). -/
def Obligations.ScalarOneSourceFormsComplete : Prop :=
  (∀ p ∈ [(Instr.bitsClz, fun (_ : Nat) (a : Word) => word (((List.range 64).find? (fun i => a.getLsbD (63 - i))).getD 64)),
       (.bitsCtz, fun _ a => word (((List.range 64).find? (fun i => a.getLsbD i)).getD 64)),
       (.bitsPopc, fun _ a => word ((List.range 64).countP (fun i => a.getLsbD i))), (.bitsBrev, fun _ a => a.reverse),
       (.addrGetx, fun c a => if a.extractLsb' 60 4 = 8 then (a.extractLsb' 55 5).setWidth 64
         else if a.extractLsb' 60 4 = 9 then word (c / 8 % 20) + (a.extractLsb' 55 5).signExtend 64 else word (c / 8 % 20)),
       (.addrGety, fun c a => if a.extractLsb' 60 4 = 8 then (a.extractLsb' 50 5).setWidth 64
         else if a.extractLsb' 60 4 = 9 then word (c / 8 / 20) + (a.extractLsb' 50 5).signExtend 64 else word (c / 8 / 20)),
       (.addrGetc, fun c a => if a.extractLsb' 60 4 = 8 ∨ a.extractLsb' 60 4 = 9 then (a.extractLsb' 47 3).setWidth 64 else word (c % 8)),
       (.addrGetdie, fun c a => addrDie c a)],
     ∀ (o : FmtUn) (s : State) (a : Word), s.Begins (p.1 o) → s.me.prefixed = false → srcOk o.x o.a = true → dstOk o.d = true →
       s.src o.a = some a → (s.took o.a o.x a).room o.d = true →
       Completes (p.1 o) s ((s.took o.a o.x a).put o.d (p.2 s.core a))) ∧
  (∀ (a b : Word) (i : Nat), i < 64 → b.getLsbD i = true →
     (bext64 a b).getLsbD ((List.range i).countP (fun j => b.getLsbD j)) = a.getLsbD i ∧
     (bdep64 a b).getLsbD i = a.getLsbD ((List.range i).countP (fun j => b.getLsbD j)) ∧
     (∀ j, j < 64 → b.getLsbD j = false → (bdep64 a b).getLsbD j = false) ∧
     (∀ j, (List.range 64).countP (fun j => b.getLsbD j) ≤ j → (bext64 a b).getLsbD j = false))

/-- The forms with an immediate (R115, R116): the signed 11-bit immediate, shifts and a rotation by a count, `ldi` and `ldih`. -/
def Obligations.ImmediateFormsComplete : Prop :=
  (∀ p ∈ [(Instr.addi, fun a i : Word => a + i), (.andi, fun a i => a &&& i), (.ori, fun a i => a ||| i), (.xori, fun a i => a ^^^ i),
      (.slti, fun a i => if a.toInt < i.toInt then 1 else 0), (.sltiu, fun a i => if a.toNat < i.toNat then 1 else 0)],
    ∀ (o : FmtI) (s : State) (a : Word), s.Begins (p.1 o) → s.me.prefixed = false → srcOk o.x o.a = true → dstOk o.d = true →
      s.src o.a = some a → (s.took o.a o.x a).room o.d = true →
      Completes (p.1 o) s ((s.took o.a o.x a).put o.d (p.2 a (o.i.signExtend 64)))) ∧
  (∀ p ∈ [(Instr.shli, fun (a : Word) (n : Nat) => BitVec.ofNat 64 (a.toNat * 2 ^ n)), (.shri, fun a n => BitVec.ofNat 64 (a.toNat / 2 ^ n)),
      (.sari, fun a n => BitVec.ofInt 64 (a.toInt / 2 ^ n)), (.roti, fun a n => (a >>> n) ||| (a <<< (64 - n)))],
    ∀ (o : FmtSh) (s : State) (a : Word), s.Begins (p.1 o) → s.me.prefixed = false → srcOk o.x o.a = true → dstOk o.d = true →
      s.src o.a = some a → (s.took o.a o.x a).room o.d = true →
      Completes (p.1 o) s ((s.took o.a o.x a).put o.d (p.2 a o.n.toNat))) ∧
  (∀ (o : FmtLi) (s : State), s.Begins (.ldi o) → s.me.prefixed = false → dstOk o.d = true → s.room o.d = true →
      Completes (.ldi o) s (s.put o.d (o.i.signExtend 64))) ∧
  (∀ (o : FmtLi) (s : State) (v : Word), s.Begins (.ldih o) → s.me.prefixed = false → (o.d.toNat < 32 ∨ o.d.toNat = 56) →
      s.src o.d = some v → s.room o.d = true →
      Completes (.ldih o) s ((s.took o.d false v).put o.d ((v <<< 18) ||| o.i.setWidth 64)))

/-- The long-latency integer forms (R110, R113): the result is still to come. Division by zero gives all ones and the dividend as the remainder, and
the most negative number divided by -1 wraps. Form codes 7 to 15 of `mul` are reserved. -/
def Obligations.LongLatencyIntegerFormsComplete : Prop :=
  (∀ p ∈ [(Instr.mulMul, fun a b : Word => a * b), (.mulMulh, fun a b => BitVec.ofInt 64 (a.toInt * b.toInt / 2 ^ 64)),
      (.mulMulhu, fun a b => BitVec.ofNat 64 (a.toNat * b.toNat / 2 ^ 64)),
      (.mulDiv, fun a b => if b = 0 then BitVec.allOnes 64 else BitVec.ofInt 64 (a.toInt.tdiv b.toInt)),
      (.mulDivu, fun a b => if b = 0 then BitVec.allOnes 64 else a / b),
      (.mulRem, fun a b => if b = 0 then a else BitVec.ofInt 64 (a.toInt - b.toInt * a.toInt.tdiv b.toInt)),
      (.mulRemu, fun a b => if b = 0 then a else a % b)],
    ∀ (o : FmtA) (s : State) (a b : Word), s.Begins (p.1 o) → s.me.prefixed = false → srcOk o.x o.a = true → srcOk o.y o.b = true →
      dstOk o.d = true → s.accepts o.d = true → s.src o.a = some a → (s.took o.a o.x a).src o.b = some b →
      Later (p.1 o) s { ((s.took o.a o.x a).took o.b o.y b) with serial := s.serial + 1 } ⟨s.serial, o.d.toNat, p.2 a b, 0, 64, false, false, false, none, 0, 0⟩) ∧
  (∀ w : Nat, w / 2 % 128 = 0x03 → 7 ≤ w / 2 ^ 28 % 2 ^ 4 → decodeWord w = .error .reservedForm)

/-! Scalar floating point. -/

/-- The floating forms that end at once (R119, R121, R123): under a pending prefix its formats, mode and saturation govern; the result is rounded once, its
flags are ORed into ST, and the prefix is consumed. A compare takes no prefix. None of them reads a scale register (R120, log 85). -/
def Obligations.ScalarFloatFormsComplete : Prop :=
  (∀ p ∈ [(Instr.sfpFaddS, FOp.add, false), (.sfpFsubS, .sub, false), (.sfpFmulS, .mul, false), (.sfpFminS, .min, false), (.sfpFmaxS, .max, false),
      (.sfpFaddD, .add, true), (.sfpFsubD, .sub, true), (.sfpFmulD, .mul, true), (.sfpFminD, .min, true), (.sfpFmaxD, .max, true)],
    ∀ (o : FmtA) (s s1 s2 : State) (a b : Word), s.Begins (p.1 o) → srcOk o.x o.a = true → srcOk o.y o.b = true → dstOk o.d = true →
      sfpCodes p.2.2 s = true → s.src o.a = some a → s1 = s.took o.a o.x a → s1.src o.b = some b → s2 = s1.took o.b o.y b → s2.room o.d = true →
      let g := s.me.gov (sfpFmt p.2.2) (sfpFmt p.2.2) (sfpFmt p.2.2) 0
      let r := deliver g.fd g.rm g.sat (binVal p.2.1 (valueOf g.fa a.toNat) (valueOf g.fb b.toNat) g.rm)
      Completes (p.1 o) s ((s2.consume.modMe (fun m => m.raiseFlags r.2)).put o.d (word r.1))) ∧
  (∀ p ∈ [(Instr.sfmaFmaS, false, false), (.sfmaFmsS, true, false), (.sfmaFmaD, false, true), (.sfmaFmsD, true, true)],
    ∀ (o : FmtA) (s s1 s2 s3 : State) (a b c : Word), s.Begins (p.1 o) → srcOk o.x o.a = true → srcOk o.y o.b = true →
      srcOk false o.d = true → dstOk o.d = true → sfpCodes p.2.2 s = true → s.src o.a = some a → s1 = s.took o.a o.x a → s1.src o.b = some b →
      s2 = s1.took o.b o.y b → s2.src o.d = some c → s3 = s2.took o.d false c → s3.room o.d = true →
      let g := s.me.gov (sfpFmt p.2.2) (sfpFmt p.2.2) (sfpFmt p.2.2) 0
      let v := valueOf g.fd c.toNat
      let r := deliver g.fd g.rm g.sat (fmaVal (valueOf g.fa a.toNat) (valueOf g.fb b.toNat) (if p.2.1 then v.flip else v) g.rm)
      Completes (p.1 o) s ((s3.consume.modMe (fun m => m.raiseFlags r.2)).put o.d (word r.1))) ∧
  (∀ p ∈ [(Instr.scmpFeqS, COp.feq, 0), (.scmpFltS, .flt, 0), (.scmpFleS, .fle, 0), (.scmpFunordS, .funord, 0),
      (.scmpFeqD, .feq, 10), (.scmpFltD, .flt, 10), (.scmpFleD, .fle, 10), (.scmpFunordD, .funord, 10)],
    ∀ (o : FmtA) (s s2 : State) (a b : Word), s.Begins (p.1 o) → s.me.prefixed = false → srcOk o.x o.a = true → srcOk o.y o.b = true →
      dstOk o.d = true → s.src o.a = some a → (s.took o.a o.x a).src o.b = some b → s2 = (s.took o.a o.x a).took o.b o.y b → s2.room o.d = true →
      let r := cmpVal p.2.1 (valueOf p.2.2 a.toNat) (valueOf p.2.2 b.toNat)
      Completes (p.1 o) s ((s2.modMe (fun m => m.raiseFlags r.2)).put o.d (if r.1 then 1 else 0)))

/-- Divisions and square roots (R110, R119) and conversions (R95, R122): the former are long-latency, whose flags are raised at issue; the latter end at
once and take nothing but the mode and saturation from a prefix, whose format codes must be defined ones. None of them reads a scale register (R120, log 85). -/
def Obligations.FloatDivisionRootAndConversion : Prop :=
  (∀ p ∈ [(Instr.sfpFdivS, false), (.sfpFdivD, true)],
    ∀ (o : FmtA) (s s1 s2 : State) (a b : Word), s.Begins (p.1 o) → srcOk o.x o.a = true → srcOk o.y o.b = true → dstOk o.d = true →
      sfpCodes p.2 s = true → s.accepts o.d = true → s.src o.a = some a → s1 = s.took o.a o.x a → s1.src o.b = some b → s2 = s1.took o.b o.y b →
      let g := s.me.gov (sfpFmt p.2) (sfpFmt p.2) (sfpFmt p.2) 0
      let r := deliver g.fd g.rm g.sat (binVal .div (valueOf g.fa a.toNat) (valueOf g.fb b.toNat) g.rm)
      Later (p.1 o) s { (s2.consume.modMe (fun m => m.raiseFlags r.2)) with serial := s.serial + 1 }
        ⟨s.serial, o.d.toNat, word r.1, 0, 64, false, false, false, none, 0, 0⟩) ∧
  (∀ p ∈ [(Instr.sfpFsqrtS, false), (.sfpFsqrtD, true)],
    ∀ (o : FmtUn) (s s1 : State) (a : Word), s.Begins (p.1 o) → srcOk o.x o.a = true → dstOk o.d = true → sfpCodes p.2 s = true →
      s.accepts o.d = true → s.src o.a = some a → s1 = s.took o.a o.x a →
      let g := s.me.gov (sfpFmt p.2) (sfpFmt p.2) (sfpFmt p.2) 0
      let r := deliver g.fd g.rm g.sat (unVal .fsqrt (valueOf g.fa a.toNat))
      Later (p.1 o) s { (s1.consume.modMe (fun m => m.raiseFlags r.2)) with serial := s.serial + 1 }
        ⟨s.serial, o.d.toNat, word r.1, 0, 64, false, false, false, none, 0, 0⟩) ∧
  (∀ p ∈ [(Instr.scvtDS, fun (a : Word) (rm : Nat) (sat : Bool) => deliverVal 10 rm sat 0 false (valueOf 0 a.toNat)),
      (.scvtSD, fun a rm sat => deliverVal 0 rm sat 0 false (valueOf 10 a.toNat)), (.scvtBfS, fun a rm sat => deliverVal 1 rm sat 0 false (valueOf 0 a.toNat)),
      (.scvtSBf, fun a rm sat => deliverVal 0 rm sat 0 false (valueOf 1 a.toNat)), (.scvtHS, fun a rm sat => deliverVal 2 rm sat 0 false (valueOf 0 a.toNat)),
      (.scvtSH, fun a rm sat => deliverVal 0 rm sat 0 false (valueOf 2 a.toNat)),
      (.scvtSL, fun a rm sat => deliverVal 0 rm sat 0 true (.fin (decide (a.toInt < 0)) a.toInt.natAbs 1)),
      (.scvtSLu, fun a rm sat => deliverVal 0 rm sat 0 true (.fin false a.toNat 1)),
      (.scvtDL, fun a rm sat => deliverVal 10 rm sat 0 true (.fin (decide (a.toInt < 0)) a.toInt.natAbs 1)),
      (.scvtDLu, fun a rm sat => deliverVal 10 rm sat 0 true (.fin false a.toNat 1)),
      (.scvtLS, fun a rm sat => convToInt 0 true rm sat a), (.scvtLuS, fun a rm sat => convToInt 0 false rm sat a),
      (.scvtLD, fun a rm sat => convToInt 10 true rm sat a), (.scvtLuD, fun a rm sat => convToInt 10 false rm sat a)],
    ∀ (o : FmtUn) (s s1 : State) (a : Word), s.Begins (p.1 o) → srcOk o.x o.a = true → dstOk o.d = true → formatsOk .any .any .any s = true →
      s.src o.a = some a → s1 = s.took o.a o.x a → s1.room o.d = true →
      let g := s.me.gov 0 0 0 0
      let r := p.2 a g.rm g.sat
      Completes (p.1 o) s ((s1.consume.modMe (fun m => m.raiseFlags r.2)).put o.d (word r.1)))

/-- Values that the rules fix for every format of R80 (R81, R82, R83, R84): a NaN operand of an addition, product or quotient gives the canonical NaN, and
raises NV just when an operand signals; a non-zero number over zero gives an infinity and raises DZ alone (for an infinity over zero: log 86); the minimum of -0 and +0 is -0; and
rounding to nearest leaves an error of at most half a unit. -/
def Obligations.FloatValueRules : Prop :=
  (∀ f ∈ [FOp.add, .sub, .mul, .div, .min, .max], ∀ fmt ∈ [0, 1, 2, 10], ∀ (fa fb rm x y : Nat) (sat : Bool),
    ((valueOf fa x).isNan = true ∨ (valueOf fb y).isNan = true) →
    deliver fmt rm sat (binVal f (valueOf fa x) (valueOf fb y) rm) =
      (cnan fmt, if (valueOf fa x).isSig = true ∨ (valueOf fb y).isSig = true then fNV else 0)) ∧
  (∀ fmt ∈ [0, 1, 2, 10], ∀ (m n : Bool) (p q t rm : Nat) (sat : Bool), p ≠ 0 →
    deliver fmt rm sat (divVal (.fin m p q) (.fin n 0 t)) = (infCode fmt (m != n), fDZ) ∧
    deliver fmt rm sat (divVal (.inf m) (.fin n 0 t)) = (infCode fmt (m != n), fDZ)) ∧
  (binVal .min (.fin false 0 1) (.fin true 0 1) 0 = (.fin true 0 1, 0) ∧ binVal .max (.fin true 0 1) (.fin false 0 1) 0 = (.fin false 0 1, 0)) ∧
  (∀ (neg : Bool) (num den : Nat), 0 < den →
    2 * num ≤ (2 * (roundInt neg num den 0).1 + 1) * den ∧ 2 * (roundInt neg num den 0).1 * den ≤ 2 * num + den ∧
    (2 * num = (2 * (num / den) + 1) * den → (roundInt neg num den 0).1 % 2 = 0) ∧
    ((roundInt neg num den 0).2 = true ↔ num % den ≠ 0))

/-! System registers, control transfer, loops, strands and traps. -/

/-- `mfs` writes the register's value to d (R125), and the strand's own registers, its core's and the fixed ones read as R124 and R126 say; CYC is the count
of the core cycle in which the instruction issues (R438). -/
def Obligations.MfsReadsSystemRegisters : Prop :=
  (∀ (o : FmtMfs) (s : State), s.Begins (.mfs o) → s.me.prefixed = false → dstOk o.d = true → s.room o.d = true →
    Completes (.mfs o) s (s.put o.d (readSys o.i.toNat s))) ∧
  (∀ s : State, readSys 0x000 s = s.me.st ∧ readSys 0x001 s = s.me.epc ∧ readSys 0x002 s = s.me.ecause ∧ readSys 0x003 s = s.me.eaddr ∧
    readSys 0x006 s = s.me.tvec ∧ readSys 0x020 s = s.myCore.tags ∧ readSys 0x021 s = word s.me.pend ∧ readSys 0x030 s = word s.me.ctx ∧
    readSys 0x050 s = s.myCore.ebud ∧ readSys 0x061 s = word s.slot ∧
    readSys 0x071 s = word ((s.dieAt s.myDie).cyc + (s.myCore.cycle - 1 - (s.dieAt s.myDie).beats))) ∧
  (∀ s : State, s.core < 3840 →
    (readSys 0x062 s).extractLsb' 15 12 = BitVec.ofNat 12 s.core ∧ (readSys 0x062 s).extractLsb' 0 3 = BitVec.ofNat 3 (s.core % 8) ∧
    (readSys 0x062 s).extractLsb' 3 5 = BitVec.ofNat 5 (s.core / 8 % 20) ∧ (readSys 0x062 s).extractLsb' 8 5 = BitVec.ofNat 5 (s.core / 8 / 20))

/-- `mts` writes the register, each field by its access code, and every later instruction sees it (R125). What is read back is the written value in
the writable bits; ST keeps its TRAP and reserved bits, ECAUSE all but its code, and EBUD a balance of at most CAP (R362); CTBASE and CTLIM take a range that
keeps the limits of R326, and ignore any other; a read-only register ignores the write. A register whose write class is priv traps PRIVILEGED in user mode, with the encoding in EADDR; EPC, ECAUSE, EADDR and ISTATE are writable in a trap
handler too (R77, R124, R125). -/
def Obligations.MtsWritesSystemRegisters : Prop :=
  ((∀ (o : FmtMts) (s : State) (v : Word), s.Begins (.mts o) → s.me.prefixed = false → srcOk o.x o.a = true → writeAllowed o.i.toNat s.me = true →
     s.src o.a = some v → Completes (.mts o) s (writeSys o.i.toNat v (s.took o.a o.x v))) ∧
   (∀ p ∈ [(0x001, 0xFFFFFFFFFFFFFFFE#64), (0x003, 0xFFFFFFFFFFFFFFFF#64), (0x004, 0xFFFFFFFFFFFFFFFF#64), (0x005, 0x8000FFFFFFFFFFFF#64),
       (0x006, 0xFFFFFFFFFFFFFFFE#64), (0x010, 0xFFFFFFFFFFFFFFFF#64), (0x011, 0xFFFFFFFFFFFFFFFF#64), (0x012, 0xFFFFFFFFFFFFFFFF#64),
       (0x014, 0xFFFFFFFFFFFFFFFF#64), (0x015, 0xFFFFFFFFFFFFFFFF#64), (0x016, 0xFFFFFFFFFFFFFFFF#64), (0x018, 0xFFFFFFFFFFFFFFFE#64),
       (0x019, 0xFFFFFFFFFFFFFFFE#64), (0x01A, 0xFFFFFFFFFFFFFFFE#64), (0x030, 0xFFFF#64), (0x041, 0xFFF#64), (0x049, 0xFFFFFFFFFFFFE000#64),
       (0x04A, 0xFFFFFFFFFFFFFFE0#64), (0x058, 0x01FFFFFFFFFF0000#64), (0x059, 0x01FFFFFFFFFF0000#64), (0x05A, 0xFFFFFFFFFFFF0000#64)],
     ∀ (v : Word) (s : State), (s.me.spec = none ∨ s.me.live = true) → Tbl.sortedFrom 0 s.me.lc = true → Tbl.sortedFrom 0 s.me.lb = true → Tbl.sortedFrom 0 s.me.le = true →
       readSys p.1 (writeSys p.1 v s) = v &&& p.2) ∧
   (∀ (v : Word) (s : State), readSys 0x000 (writeSys 0x000 v s) = (s.me.st &&& 0xFFFF0000E0000200) ||| (v &&& 0x0000FFFF1FFFFDFF) ∧
     readSys 0x002 (writeSys 0x002 v s) = (s.me.ecause &&& 0xFFFFFFFFFFFFFF00) ||| (v &&& 0xFF) ∧
     bitsOf (readSys 0x050 (writeSys 0x050 v s)) 24 40 = bitsOf v 24 40 ∧
     bitsOf (readSys 0x050 (writeSys 0x050 v s)) 0 24 = min (bitsOf v 0 24) (bitsOf v 24 24)) ∧
   (∀ (v : Word) (s : State) (g : Saggar) (n lo hi : Nat), s.sagAt s.me.sag = some g → (n = 0x031 ∧ lo = bitsOf v 0 16 ∧ hi = bitsOf g.ctlim 0 16) ∨
       (n = 0x032 ∧ lo = bitsOf g.ctbase 0 16 ∧ hi = bitsOf v 0 16) →
     let ok := lo ≠ 0 ∧ lo ≤ hi ∧ (∀ x ∈ s.saggars, x.1 ≠ s.me.sag → hi < bitsOf x.2.ctbase 0 16 ∨ bitsOf x.2.ctlim 0 16 < lo) ∧ ∀ c ∈ g.ctxs, lo ≤ c.1 ∧ c.1 ≤ hi
     (ok → readSys n (writeSys n v s) = v &&& 0xFFFF) ∧ (¬ok → writeSys n v s = s)) ∧
   (∀ (v : Word) (s : State) (g : Saggar), s.sagAt s.me.sag = some g → readSys 0x078 (writeSys 0x078 v s) = v &&& 0xFFFFFFFF) ∧
   (∀ n ∈ [0x020, 0x021, 0x040, 0x048, 0x060, 0x061, 0x062, 0x070, 0x071, 0x072, 0x079], ∀ (v : Word) (s : State), writeSys n v s = s)) ∧
  ((∀ (o : FmtMts) (s : State), s.Begins (.mts o) → s.me.priv = false →
     (o.i.toNat ∈ [0x030, 0x031, 0x032, 0x049, 0x04A, 0x050, 0x058, 0x059, 0x05A, 0x078] ∨ (o.i.toNat ∈ [1, 2, 3, 4, 5] ∧ s.me.inTrap = false)) →
     Traps (.mts o) s s 3 (word (encode (.mts o)))) ∧
   (∀ (m : Strand) (n : Nat), m.priv = true → writeAllowed n m = true) ∧
   (∀ m : Strand, m.inTrap = true → ∀ n ∈ [1, 2, 3, 4, 5], writeAllowed n m = true))

/-- Compare and branch (R128, R133): a taken branch goes to pc + 2 × disp, freeing the loop levels that its target leaves; an untaken one falls
through. Conditions 6 and 7 are reserved. That a branch of a trap handler frees no level is the model's choice (log 88). -/
def Obligations.BranchesComplete : Prop :=
  (∀ p ∈ [(Instr.brEq, fun a b : Word => decide (a = b)), (.brNe, fun a b => decide (a ≠ b)), (.brLt, fun a b => decide (a.toInt < b.toInt)),
      (.brGe, fun a b => decide (b.toInt ≤ a.toInt)), (.brLtu, fun a b => decide (a.toNat < b.toNat)), (.brGeu, fun a b => decide (b.toNat ≤ a.toNat))],
    ∀ (o : FmtB) (s s2 : State) (a b : Word), s.Begins (p.1 o) → s.me.prefixed = false → srcOk false o.a = true → srcOk false o.b = true →
      s.src o.a = some a → (s.took o.a false a).src o.b = some b → s2 = (s.took o.a false a).took o.b false b →
      let t := s.me.pc + 2 * o.p.signExtend 64
      if p.2 a b = true then GoesTo (p.1 o) s ((if s.me.inTrap then s2 else s2.modMe (fun m => m.leaveLoops t)).traced 0 t) t else Completes (p.1 o) s s2) ∧
  (∀ p ∈ [(Instr.bzEq0, fun a : Word => decide (a = 0)), (.bzNe0, fun a => decide (a ≠ 0)), (.bzLt0, fun a => decide (a.toInt < 0)),
      (.bzGe0, fun a => decide (0 ≤ a.toInt)), (.bzGt0, fun a => decide (0 < a.toInt)), (.bzLe0, fun a => decide (a.toInt ≤ 0))],
    ∀ (o : FmtZ) (s s1 : State) (a : Word), s.Begins (p.1 o) → s.me.prefixed = false → srcOk false o.a = true → s.src o.a = some a →
      s1 = s.took o.a false a →
      let t := s.me.pc + 2 * o.p.signExtend 64
      if p.2 a = true then GoesTo (p.1 o) s ((if s.me.inTrap then s1 else s1.modMe (fun m => m.leaveLoops t)).traced 0 t) t else Completes (p.1 o) s s1) ∧
  (∀ w : Nat, (w / 2 % 128 = 0x15 ∨ w / 2 % 128 = 0x16) → 6 ≤ w / 2 ^ 8 % 2 ^ 3 → decodeWord w = .error .reservedForm)

/-- Jumps, calls and returns (R129, R130, R133): the calls write lk with pc + 4 after reading their target, and free no level; an odd register target
traps MISALIGNED_PC with the target in EADDR, lk unwritten (R56). An empty lk parks `ret`, whose word is 0x20000033; form codes 3 to 15 of `jr` are reserved.
That a jump of a trap handler frees no level is the model's choice (log 88). -/
def Obligations.JumpsAndCallsComplete : Prop :=
  (∀ (o : FmtJ) (s : State), s.Begins (.jmp o) → s.me.prefixed = false →
    let t := s.me.pc + 2 * o.p.signExtend 64
    GoesTo (.jmp o) s ((if s.me.inTrap then s else s.modMe (fun m => m.leaveLoops t)).traced 0 t) t) ∧
  (∀ (o : FmtJ) (s : State), s.Begins (.call o) → s.me.prefixed = false → s.me.owes 31 = false →
    let t := s.me.pc + 2 * o.p.signExtend 64
    GoesTo (.call o) s ((s.modMe (fun m => m.setS 31 (m.pc + 4))).traced 0 t) t) ∧
  (∀ (o : FmtSrc) (s : State) (t : Word), s.Begins (.jr o) → s.me.prefixed = false → srcOk o.x o.a = true → s.src o.a = some t →
    let u := s.took o.a o.x t
    (t.getLsbD 0 = false → GoesTo (.jr o) s ((if s.me.inTrap then u else u.modMe (fun m => m.leaveLoops t)).traced 0 t) t) ∧
    (t.getLsbD 0 = true → Traps (.jr o) s u 5 t)) ∧
  (∀ (o : FmtSrc) (s : State) (t : Word), s.Begins (.callr o) → s.me.prefixed = false → srcOk o.x o.a = true → s.me.owes 31 = false →
    s.src o.a = some t →
    let u := s.took o.a o.x t
    (t.getLsbD 0 = false → GoesTo (.callr o) s ((u.modMe (fun m => m.setS 31 (m.pc + 4))).traced 0 t) t) ∧
    (t.getLsbD 0 = true → Traps (.callr o) s u 5 t)) ∧
  (∀ (s : State) (t : Word), s.Begins .ret → s.me.prefixed = false → s.src 31 = some t →
    let u := s.took 31 false t
    (t.getLsbD 0 = false → GoesTo .ret s (u.traced 0 t) t) ∧ (t.getLsbD 0 = true → Traps .ret s u 5 t)) ∧
  (∀ s : State, s.Begins .ret → s.me.prefixed = false → s.me.sFull.getLsbD 31 = false →
    exec .ret s = .next (s.modMe (fun m => { m with status := .parked (.reg 31) }))) ∧
  decode [0x33, 0x00, 0x00, 0x20] = .ok (.ret, []) ∧
  (∀ w : Nat, w / 2 % 128 = 0x19 → 3 ≤ w / 2 ^ 28 % 2 ^ 4 → decodeWord w = .error .reservedForm)

/-- `loop` takes the lowest free level with count, first and last halfword, skips its body for a count of 0, or with no free level traps LOOP_DEPTH, whose EADDR no rule states (R131; a free value, log 1); `iloop` sends a claim to the
home of its counter, and the claim's reply takes the level with its chunk or skips the body; where the chunk is used up at the body's end the fetcher claims again, after an acquire
of the body, and the reply starts the body again or frees the level (R134, R289). The end rule (R132): at the end of the innermost active level's body, outside a trap handler and with no iteration fetcher, the count falls by one;
while it is not 0 the strand goes back to the body's first halfword, and otherwise the level is free and, if no outer level is active, the strand goes on. An
instruction that ends always answers a next state.
That a skipped body frees no level is a reading of the model (log 31). -/
def Obligations.LoopsComplete : Prop :=
  ((∀ (o : FmtLoop) (s : State) (n : Word) (k : Nat), s.Begins (.loop o) → s.me.prefixed = false → srcOk o.x o.a = true → s.src o.a = some n →
     n ≠ 0 → s.me.freeLevel = some k →
     Completes (.loop o) s ((s.took o.a o.x n).modMe (fun m => { m with
       lc := Tbl.put m.lc k n,
       lb := Tbl.set m.lb k ((m.pc + 4) ||| (if o.r then 1 else 0)) 0, le := Tbl.set m.le k (m.pc + 4 + word (2 * o.i.toNat)) 0 }))) ∧
   (∀ (o : FmtLoop) (s : State), s.Begins (.loop o) → s.me.prefixed = false → srcOk o.x o.a = true → s.src o.a = some 0 →
     GoesTo (.loop o) s (s.took o.a o.x 0) (s.me.pc + 4 + word (2 * o.i.toNat))) ∧
   (∀ (o : FmtLoop) (s : State) (n : Word), s.Begins (.loop o) → s.me.prefixed = false → srcOk o.x o.a = true → s.src o.a = some n → n ≠ 0 →
     s.me.freeLevel = none →
     let u := s.took o.a o.x n
     Traps (.loop o) s u.draw.2 18 u.draw.1) ∧
   (∀ (o : FmtLoop) (s s1 s2 : State) (a : Word) (r : List Word) (f : Fetcher) (p : Place) (t : State), s.Begins (.iloop o) → s.me.prefixed = false →
     srcOk o.x o.a = true → s.acquirePending = false → s.src o.a = some a → s1 = s.took o.a o.x a → s.me.fetcher = none → s.me.freeLevel ≠ none →
     Reads 1 a 6 s1 r s2 → nestOf r = some f → Admits .update (r.getD 0 0) 8 8 (fun _ => true) s2 p t → t.crosses false (homeOf p.loc) p.loc 8 = false →
     t.parkedOverlap p.named 8 = false → t.Sends p →
     exec (.iloop o) s = .next ((t.post 1 0 p.named p.loc 8 (homeOf p.loc) (.claim f.total f.f f.minc f.p)).modMe (fun m => { m with
       fetcher := some { f with level := 3, cnt := (r.getD 0 0).toNat }, status := .out, stage := 7, work := [o.i.toNat, if o.r then 1 else 0] }))) ∧
   (∀ (r : StrandRef) (s : State) (f : Fetcher) (a : Ack) (v chunk : Word) (more : List Word) (c : Nat) (h rn k : Nat), s.relocking r.core = false →
     (s.strandOf r).dying = false → (s.strandOf r).stage = 7 → (s.strandOf r).fetcher = some f → (s.strandOf r).work = [h, rn] →
     s.acks.find? (fun a => a.core = r.core && a.slot = r.slot && a.uid = (s.strandOf r).uid && (match a.body with | .reply _ => true | _ => false)) = some a →
     a.body = .reply ⟨v, chunk :: more, c⟩ →
     let u : State := { s with acks := s.acks.filter (fun b => b.id != a.id), core := r.core, slot := r.slot }
     (chunk = 0 → exec (.iloopClaimReply r) s = completeTo ((s.strandOf r).pc + 4 + word (2 * h)) false (u.modMe (fun m => { m with fetcher := none }))) ∧
     (chunk ≠ 0 → (s.strandOf r).freeLevel = some k → exec (.iloopClaimReply r) s =
       complete (u.modMe (fun m => { (m.takeLevel k chunk h (decide (rn = 1))) with fetcher := some { f with level := k, i := v.toNat } })))) ∧
   (∀ (s : State) (k : Nat) (f : Fetcher) (fell : Bool), s.me.inTrap = false → s.me.innermost = some k → s.me.fetcher = some f → f.level = k → s.me.lcAt k = 1 →
     completeTo (even (s.me.leAt k)) fell s = .next (s.modMe (fun m => { m.retire with fetcher := some { f with i := f.i + 1 }, pc := even (m.leAt k), stage := 13 }))) ∧
   (∀ (s t : State) (f : Fetcher) (p : Place), s.me.fetcher = some f →
     (s.acquirePending = true → claimAgain s = .next (s.modMe (fun m => { m with status := .held }))) ∧
     (s.acquirePending = false → Admits .update (word f.cnt) 8 8 (fun _ => true) s p t → t.crosses false (homeOf p.loc) p.loc 8 = false →
       t.parkedOverlap p.named 8 = false → t.Sends p → claimAgain s =
         .next ((t.post 1 0 p.named p.loc 8 (homeOf p.loc) (.claim f.total f.f f.minc f.p)).modMe (fun m => { m with status := .out, stage := 8 })))) ∧
   (∀ (r : StrandRef) (s : State) (f : Fetcher) (a : Ack) (v chunk : Word) (more : List Word) (c : Nat), s.relocking r.core = false →
     (s.strandOf r).dying = false → (s.strandOf r).stage = 8 → (s.strandOf r).fetcher = some f → ((s.strandOf r).lbAt f.level).getLsbD 0 = false →
     s.acks.find? (fun a => a.core = r.core && a.slot = r.slot && a.uid = (s.strandOf r).uid && (match a.body with | .reply _ => true | _ => false)) = some a →
     a.body = .reply ⟨v, chunk :: more, c⟩ →
     let u : State := { s with acks := s.acks.filter (fun b => b.id != a.id), core := r.core, slot := r.slot }
     let back := even ((s.strandOf r).lbAt f.level)
     (chunk = 0 → exec (.iloopClaimReply r) s = completeTo (s.strandOf r).pc false (u.modMe (fun m => m.setLc f.level 0))) ∧
     (chunk ≠ 0 → exec (.iloopClaimReply r) s =
       .next ((u.modMe (fun m => { m.retire with lc := Tbl.set m.lc f.level chunk 0, fetcher := some { f with i := v.toNat }, pc := back })).traced 0 back)))) ∧
  (∀ (s : State) (k : Nat) (fell : Bool), s.me.inTrap = false → s.me.innermost = some k → s.me.fetcher = none → (s.me.lbAt k).getLsbD 0 = false →
     s.me.lcAt k ≠ 0 →
     (s.me.lcAt k ≠ 1 → completeTo (even (s.me.leAt k)) fell s =
       .next (((s.modMe Strand.retire).modMe (fun m => { m with lc := Tbl.set m.lc k (m.lcAt k - 1) 0, pc := even (m.lbAt k) })).traced 0 (even (s.me.lbAt k)))) ∧
     (s.me.lcAt k = 1 → (∀ j, j ≠ k → s.me.lcAt j = 0) → Tbl.sortedFrom 0 s.me.lc = true →
       completeTo (even (s.me.leAt k)) fell s = .next (s.modMe (fun m => { (m.retire.setLc k 0) with pc := even (m.leAt k) })))) ∧
  (∀ (next : Word) (fell : Bool) (s : State), ∃ t, completeTo next fell s = .next t)

/-- Strand slots (R137, R138, R139, R248, R249): `strand.start` in slot 0 gives the lowest free slot of 1 to 15 a fresh strand at the target, with s1
holding the argument and what R137 lets it inherit, which becomes ready once d is written, or writes 0 when none is free; in a core cycle in which its core
has granted a slot it is held. `strand.slot` reads the slot and the live slots; `strand.qbind` empties and binds a queue; `strand.halt` ends the strand,
which frees its slot. -/
def Obligations.StrandFormsComplete : Prop :=
  (∀ (o : FmtA) (s s2 : State) (t arg : Word), s.Begins (.strandStart o) → s.me.prefixed = false → srcOk o.x o.a = true → srcOk o.y o.b = true →
    dstOk o.d = true → s.slot = 0 → s.accepts o.d = true → s.src o.a = some t → (s.took o.a o.x t).src o.b = some arg →
    s2 = (s.took o.a o.x t).took o.b o.y arg → t.getLsbD 0 = false →
    (s2.myCore.cycle - 1 < s2.myCore.grantNext → exec (.strandStart o) s = .next (s2.modMe (fun m => { m with status := .held }))) ∧
    (s2.myCore.grantNext ≤ s2.myCore.cycle - 1 → s2.myCore.freeHelper (s2.myCore.cycle - 1) = none → s2.room o.d = true →
      Completes (.strandStart o) s (s2.put o.d 0)) ∧
    (∀ k, s2.myCore.grantNext ≤ s2.myCore.cycle - 1 → s2.myCore.freeHelper (s2.myCore.cycle - 1) = some k →
      let m := s2.me
      let u := (s2.enter s2.core k (s2.myCore.cycle - 1) (fun x => { x with
        status := .out, stage := 12, pc := t, s := Tbl.set [] 1 arg 0, st := m.st &&& 3, ctx := m.ctx, tspace := m.tspace, tvec := m.tvec,
        heapb := m.heapb, heapl := m.heapl, heapo := m.heapo, priv := m.priv, sag := m.sag, task := m.task, spec := m.spec, seq := m.seq, undob := m.undob,
        undop := m.undop })).modMe (fun m => { m with stage := 9, work := [o.d.toNat, k] })
      u.room o.d = true → Completes (.strandStart o) s ((u.put o.d (word k)).startChild k))) ∧
  (∀ s : State, s.Begins .strandHalt → s.me.prefixed = false → s.me.laneLoads = 0 →
    exec .strandHalt s = .next ((s.endStrand s.core s.slot false).specEnded s.me) ∧ ((s.endStrand s.core s.slot false).strandAt s.core s.slot).live = false) ∧
  (∀ (o : FmtDst) (s : State), s.Begins (.strandSlot o) → s.me.prefixed = false → dstOk o.d = true → s.room o.d = true →
    Completes (.strandSlot o) s (s.put o.d (word (s.slot + (s.myCore.liveSlots.map (fun k => 2 ^ k)).sum * 2 ^ 16)))) ∧
  (∀ (o : FmtTwo) (s s2 : State) (a b : Word), s.Begins (.strandQbind o) → s.me.prefixed = false → srcOk o.x o.a = true → srcOk o.y o.b = true →
    s.src o.a = some a → (s.took o.a o.x a).src o.b = some b → s2 = (s.took o.a o.x a).took o.b o.y b →
    (s2.myCore.queue (bitsOf a 0 3)).poppers = [] → (s2.myCore.queue (bitsOf a 0 3)).pushers = [] →
    Completes (.strandQbind o) s (s2.modMyCore (fun c => c.modQueue (bitsOf a 0 3) (fun _ => ⟨[], some (bitsOf b 0 4, bitsOf b 4 4), [], [], []⟩))))

/-- Taking a trap (R401, R402): outside a handler, with a vector and a cause that is delivered, EPC
takes the given address with bit 0 clear, ECAUSE the code, EADDR the value, ST.TRAP becomes 1 and the strand goes on at TVEC; nothing else of ST changes, and
no memory. The source reads of the instruction are undone (R449): a full bit that a read cleared is set again, and the queue entries it popped return to the heads
of their queues in their order. A trap that has no handler to go to (R404): a nested trap, LEASE_VIOLATION and a trap without a vector end the strand, and the ending is recorded with
its pc, cause and value.
The record of an ending, and that the other strands run on, are readings of the model (log 3, log 8). -/
def Obligations.TrapEntry : Prop :=
  (∀ (s : State) (c : Nat) (epc v : Word), s.me.inTrap = false → c < 256 → c ≠ 12 → bitsOf s.me.tvec 1 63 ≠ 0 → s.me.reads = [] →
     ∃ t, takeTrapCode c epc v s = .next t ∧ t.me.epc = withBits epc 0 1 0 ∧ t.me.ecause = word c ∧ t.me.eaddr = v ∧ t.me.pc = withBits s.me.tvec 0 1 0 ∧
       t.me.st = s.me.st ||| 0x20000000 ∧ t.me.cur = none ∧ t.me.s = s.me.s ∧ t.me.sFull = s.me.sFull ∧ t.me.lc = s.me.lc ∧ t.me.priv = s.me.priv ∧
       t.me.ctx = s.me.ctx ∧ t.mem = s.mem ∧ t.full = s.full ∧ t.net = s.net) ∧
  (∀ (s : State) (c : Nat) (epc v : Word), s.me.inTrap = false → c < 256 → c ≠ 12 → bitsOf s.me.tvec 1 63 ≠ 0 →
     ∃ t, takeTrapCode c epc v s = .next t ∧ t.me.pc = withBits s.me.tvec 0 1 0 ∧ t.me.epc = withBits epc 0 1 0 ∧ t.me.reads = [] ∧ t.mem = s.mem ∧
       (∀ r ∈ s.me.reads, ∀ n, r.undo = .bit n →
         (n < 32 → t.me.sFull.getLsbD n = true) ∧ (40 ≤ n → n < 48 → t.me.woFull.getLsbD (n - 40) = true) ∧
         (32 ≤ n → n < 40 → (t.strandAt s.core ((s.slot + 15) % 16)).woFull.getLsbD (n - 32) = true)) ∧
       (∀ q, (t.myCore.queue q).entries =
         s.me.reads.filterMap (fun r => match r.undo with | .head p _ => if p = q then some r.val else none | _ => none) ++ (s.myCore.queue q).entries)) ∧
  (∀ (s : State) (c : Nat) (epc v : Word), s.me.reads = [] → s.me.spec = none → s.me.uid ≠ 0 → c < 256 →
     (s.me.inTrap = true ∨ c = 12 ∨ bitsOf s.me.tvec 1 63 = 0) → s.owed s.core s.slot s.me.uid = false → s.me.bodies = [] → s.me.invoc = none →
     ∃ t, takeTrapCode c epc v s = .next t ∧ (t.strandAt s.core s.slot).live = false ∧
       Tbl.find (t.coreAt s.core).endRec s.slot = some (s.me.pc, c + (if s.me.inTrap = true then 2 ^ 16 else 0), v) ∧ t.mem = s.mem)

/-- The delivered causes of `trap`, `sysc` and `brk`, of a word that is no instruction and of a failing fetch (R77, R140, R403): EPC is pc + 4 for `trap`
and `sysc` and pc for the others; with BRKEN set `brk` stops its core instead, and EPC and EADDR go to the debug module. Taking a trap always answers a next state.
The pc that a stopping `brk` records is a reading of the model (log 33). -/
def Obligations.TrapFormsTakeTheirTrap : Prop :=
  (∀ (o : FmtTrap) (s : State), s.Begins (.trap o) → s.me.prefixed = false → exec (.trap o) s = takeTrapCode 15 (s.me.pc + 4) (o.c.setWidth 64) s) ∧
  (∀ (o : FmtTrap) (s : State), s.Begins (.sysc o) → s.me.prefixed = false → exec (.sysc o) s = takeTrapCode 17 (s.me.pc + 4) (o.c.setWidth 64) s) ∧
  (∀ (o : FmtTrap) (s : State), s.Begins (.brk o) → s.me.prefixed = false →
    (s.myCore.dctl.getLsbD 5 = false → exec (.brk o) s = takeTrapCode 16 s.me.pc (o.c.setWidth 64) s) ∧
    (s.myCore.dctl.getLsbD 5 = true → s.myCore.stopped = false → ∃ t, exec (.brk o) s = .next t ∧ t.myCore.stopped = true ∧ t.myCore.brkPc = s.me.pc ∧
      t.myCore.brkCode = o.c.setWidth 64 ∧ t.me.pc = s.me.pc ∧ t.mem = s.mem)) ∧
  (∀ (w : Word) (s : State), exec (.nonInstruction w) s = takeTrapCode 1 s.me.pc w (s.modMe (fun m => { m with cur := none }))) ∧
  (∀ (bad : Bool) (a : Word) (s : State), exec (.fetchFault bad a) s =
    takeTrapCode (if bad then 7 else 11) s.me.pc a (s.modMe (fun m => { m with cur := none }))) ∧
  (∀ (c : Nat) (epc v : Word) (s : State), ∃ t, takeTrapCode c epc v s = .next t)

/-- `eret` outside a handler is no instruction; in a handler it clears ST.TRAP and the strand goes on at EPC, or traps MISALIGNED_PC when EPC is odd
(R141). -/
def Obligations.EretReturns : Prop :=
  (∀ s : State, s.Begins .eret → s.me.inTrap = true → s.me.epc.getLsbD 0 = false →
    exec .eret s = .next ((s.modMe (fun m => { m.retire with st := m.st &&& 0xFFFFFFFFDFFFFFFF, pc := s.me.epc })).traced 2 s.me.epc)) ∧
  (∀ s : State, s.Begins .eret → s.me.inTrap = true → s.me.epc.getLsbD 0 = true → Traps .eret s s 5 s.me.epc) ∧
  (∀ s : State, s.Begins .eret → s.me.inTrap = false → s.me.prefixed = false → Traps .eret s s 1 (word (encode .eret)))

/-- The checks before an instruction acts (R77, R78), shown for the two-source integer forms, the long-latency ones among them, and for the loads and stores,
bit fields included: a pending prefix that the form does not take traps PREFIX_MISUSE and is dropped, and otherwise an operand code outside its class traps ILLEGAL_OPERAND; EADDR holds the encoding. `pfx` fills the latch of ST and sets PP (R99, R136), and every instruction of a trap handler sees PP as 0 (R101). -/
def Obligations.ChecksAndPrefixes : Prop :=
  ((∀ f ∈ [Instr.aluAdd, .aluSub, .aluAnd, .aluOr, .aluXor, .aluShl, .aluShr, .aluSar, .aluSlt, .aluSltu, .aluMin, .aluMax, .aluMinu, .aluMaxu, .aluAndn,
      .aluOrn, .aluwAddw, .aluwSubw, .aluwShlw, .aluwShrw, .aluwSarw, .mulMul, .mulMulh, .mulMulhu, .mulDiv, .mulDivu, .mulRem, .mulRemu, .bitsBext, .bitsBdep,
      .bitsSext, .addrMkloc, .addrMkrel], ∀ (o : FmtA) (s : State), s.Begins (f o) → Checks (f o) s (srcOk o.x o.a && srcOk o.y o.b && dstOk o.d)) ∧
   (∀ f ∈ [Instr.ld, .ldu], ∀ (o : FmtM) (s : State), s.Begins (f o) → Checks (f o) s (srcOk o.x o.a && dstOk o.d)) ∧
   (∀ (o : FmtLda) (s : State), s.Begins (.lda o) → Checks (.lda o) s (srcOk o.x o.a && srcOk false o.b && dstOk o.d)) ∧
   (∀ (o : FmtLdx) (s : State), s.Begins (.ldx o) → Checks (.ldx o) s (srcOk o.x o.a && srcOk o.y o.b && dstOk o.d)) ∧
   (∀ (o : FmtLdb) (s : State), s.Begins (.ldb o) → Checks (.ldb o) s (srcOk o.x o.a && dstOk o.d)) ∧
   (∀ (o : FmtM) (s : State), s.Begins (.st o) → Checks (.st o) s (srcOk o.x o.a && srcOk false o.d)) ∧
   (∀ (o : FmtStl) (s : State), s.Begins (.stl o) → Checks (.stl o) s (srcOk o.x o.a && srcOk false o.b && srcOk false o.d)) ∧
   (∀ (o : FmtStb) (s : State), s.Begins (.stb o) → Checks (.stb o) s (srcOk o.x o.a && srcOk false o.d))) ∧
  ((∀ (o : FmtP) (s : State), s.Begins (.pfx o) → s.me.prefixed = false → s.me.inTrap = false →
     let st := s.me.st
     Completes (.pfx o) s (s.modMe (fun m => { m with
       st := st.extractLsb' 29 35 ++ BitVec.ofBool o.t ++ o.r ++ o.s ++ o.g ++ o.h ++ o.k ++
       st.extractLsb' 9 1 ++ 1#1 ++ st.extractLsb' 0 8 }))) ∧
   (∀ (o : FmtP) (s : State), s.Begins (.pfx o) → s.me.inTrap = true → Traps (.pfx o) s s 1 (word (encode (.pfx o)))) ∧
   (∀ m : Strand, m.inTrap = true → m.prefixed = false))

/-- Waiting on operands (R65, R110, R252, R254, R256, R258), shown for the integer forms of two sources, of one source and of an immediate: a source that gives nothing, be it
an s register, a window register of either side or a queue, parks the strand on it, source a first and then b; a destination register with a result still to come holds the strand; and an out-window
register that is full, or a queue that is full or has others to push first, parks it with the value. Nothing is written. -/
def Obligations.WaitingOnOperandsParks : Prop :=
  (∀ p ∈ [(Instr.aluAdd, fun a b : Word => a + b), (.aluSub, fun a b => a - b), (.aluAnd, fun a b => a &&& b), (.aluOr, fun a b => a ||| b),
      (.aluXor, fun a b => a ^^^ b), (.aluShl, fun a b => BitVec.ofNat 64 (a.toNat * 2 ^ (b.toNat % 64))),
      (.aluShr, fun a b => BitVec.ofNat 64 (a.toNat / 2 ^ (b.toNat % 64))), (.aluSar, fun a b => BitVec.ofInt 64 (a.toInt / 2 ^ (b.toNat % 64))),
      (.aluSlt, fun a b => if a.toInt < b.toInt then 1 else 0), (.aluSltu, fun a b => if a.toNat < b.toNat then 1 else 0),
      (.aluMin, fun a b => if a.toInt ≤ b.toInt then a else b), (.aluMax, fun a b => if a.toInt ≤ b.toInt then b else a),
      (.aluMinu, fun a b => if a.toNat ≤ b.toNat then a else b), (.aluMaxu, fun a b => if a.toNat ≤ b.toNat then b else a),
      (.aluAndn, fun a b => a &&& ~~~b), (.aluOrn, fun a b => a ||| ~~~b)],
    ∀ (o : FmtA) (s u v : State) (a b : Word), s.Starts (p.1 o) → srcOk o.x o.a = true → srcOk o.y o.b = true → dstOk o.d = true →
    (o.d.toNat < 32 → s.me.owes o.d.toNat = true → exec (p.1 o) s = .next (s.modMe (fun m => { m with status := .held }))) ∧
    (s.accepts o.d = true →
      (s.Lacks o.a → exec (p.1 o) s = .next (s.starves o.a)) ∧
      (s.Gives o.a o.x a u → u.Lacks o.b → exec (p.1 o) s = .next (u.starves o.b)) ∧
      (s.Gives o.a o.x a u → u.Gives o.b o.y b v → 40 ≤ o.d.toNat → v.room o.d = false → exec (p.1 o) s = .next (v.jams o.d (p.2 a b))))) ∧
  (∀ f ∈ [Instr.bitsClz, .bitsCtz, .bitsPopc, .bitsBrev, .addrGetx, .addrGety, .addrGetc, .addrGetdie], ∀ (o : FmtUn) (s : State), s.Starts (f o) →
    srcOk o.x o.a = true → dstOk o.d = true → s.accepts o.d = true → s.Lacks o.a → exec (f o) s = .next (s.starves o.a)) ∧
  (∀ f ∈ [Instr.addi, .andi, .ori, .xori, .slti, .sltiu], ∀ (o : FmtI) (s : State), s.Starts (f o) →
    srcOk o.x o.a = true → dstOk o.d = true → s.accepts o.d = true → s.Lacks o.a → exec (f o) s = .next (s.starves o.a)) ∧
  (∀ f ∈ [Instr.shli, .shri, .sari, .roti], ∀ (o : FmtSh) (s : State), s.Starts (f o) →
    srcOk o.x o.a = true → dstOk o.d = true → s.accepts o.d = true → s.Lacks o.a → exec (f o) s = .next (s.starves o.a))

/-- The frame of the two-source, one-source and immediate integer forms when they end at once (R111 to R118, R115): memory, full bits, ST, the trap and
special registers, accumulators, lanes and every s register but d keep their values, other strands keep everything but the full bit of a window register
read with y, and nothing is sent. A poisoned queue entry is counted, in ST and at the saggar (R178). -/
def Obligations.ScalarFormsFrame : Prop :=
  (∀ f ∈ [Instr.aluAdd, .aluSub, .aluAnd, .aluOr, .aluXor, .aluShl, .aluShr, .aluSar, .aluSlt, .aluSltu, .aluMin, .aluMax, .aluMinu, .aluMaxu, .aluAndn,
      .aluOrn, .aluwAddw, .aluwSubw, .aluwShlw, .aluwShrw, .aluwSarw, .bitsBext, .bitsBdep, .bitsSext, .addrMkloc, .addrMkrel],
    ∀ (o : FmtA) (s t : State) (a b : Word), s.Begins (f o) → s.me.prefixed = false → srcOk o.x o.a = true → srcOk o.y o.b = true →
      dstOk o.d = true → s.src o.a = some a → (s.took o.a o.x a).src o.b = some b → ((s.took o.a o.x a).took o.b o.y b).room o.d = true → s.NoLoop →
      exec (f o) s = .next t → ScalarFrame s t o.d) ∧
  (∀ f ∈ [Instr.bitsClz, .bitsCtz, .bitsPopc, .bitsBrev, .addrGetx, .addrGety, .addrGetc, .addrGetdie],
    ∀ (o : FmtUn) (s t : State) (a : Word), s.Begins (f o) → s.me.prefixed = false → srcOk o.x o.a = true → dstOk o.d = true → s.src o.a = some a →
      (s.took o.a o.x a).room o.d = true → s.NoLoop → exec (f o) s = .next t → ScalarFrame s t o.d) ∧
  (∀ f ∈ [Instr.addi, .andi, .ori, .xori, .slti, .sltiu], ∀ (o : FmtI) (s t : State) (a : Word), s.Begins (f o) → s.me.prefixed = false →
      srcOk o.x o.a = true → dstOk o.d = true → s.src o.a = some a → (s.took o.a o.x a).room o.d = true → s.NoLoop → exec (f o) s = .next t →
      ScalarFrame s t o.d) ∧
  (∀ f ∈ [Instr.shli, .shri, .sari, .roti], ∀ (o : FmtSh) (s t : State) (a : Word), s.Begins (f o) → s.me.prefixed = false → srcOk o.x o.a = true →
      dstOk o.d = true → s.src o.a = some a → (s.took o.a o.x a).room o.d = true → s.NoLoop → exec (f o) s = .next t → ScalarFrame s t o.d) ∧
  (∀ (o : FmtLi) (s t : State), s.Begins (.ldi o) → s.me.prefixed = false → dstOk o.d = true → s.room o.d = true → s.NoLoop → exec (.ldi o) s = .next t →
      ScalarFrame s t o.d) ∧
  (∀ (o : FmtLi) (s t : State) (v : Word), s.Begins (.ldih o) → s.me.prefixed = false → (o.d.toNat < 32 ∨ o.d.toNat = 56) → s.src o.d = some v →
      s.room o.d = true → s.NoLoop → exec (.ldih o) s = .next t → ScalarFrame s t o.d)

/-! Memory. -/

/-- Loads (R176, R178, R179, R180, R181): once the access passes its checks at a place and may be sent, one read is in flight, in the context of the
form, and its value, extended as the form says, is still to come. Where poison traps are elected its strand waits for the data, and data that met poison raise
POISON with the address of the first poisoned byte (log 94).
The order of the checks of `ldx`, and what makes an access wait at issue, are readings of the model (log 14, log 46, log 79). -/
def Obligations.LoadsComplete : Prop :=
  (∀ p ∈ [(Instr.ld, true), (.ldu, false)], ∀ (o : FmtM) (s u t : State) (a : Word) (q : Place) (n ctx : Nat), s.Starts (p.1 o) → dstOk o.d = true →
    s.acquirePending = false → s.accepts o.d = true → s.Gives o.a o.x a u → n = 2 ^ o.sz.toNat →
    Admits .load (a + o.o.signExtend 64 * word n) n n (fun _ => true) u q t → ctx = (if o.c = 1 then 0 else t.tagFor q) → t.loadReady q ctx n = true →
    Loads (p.1 o) s ({ t with serial := t.serial + 1 }.post 1 ctx q.named q.loc n (t.homeFor q ctx) (.load (.reg t.serial 0 (8 * n) 0)))
      ⟨t.serial, o.d.toNat, 0, 1, 8 * n, p.2, true, decide (2 ≤ o.c.toNat), none, a + o.o.signExtend 64 * word n, q.loc⟩) ∧
  (∀ (o : FmtLda) (s u v t : State) (a b : Word) (q : Place) (n : Nat), s.Starts (.lda o) → dstOk o.d = true → s.acquirePending = false →
    s.accepts o.d = true → s.Gives o.a o.x a u → u.Gives o.b false b v → n = 2 ^ o.sz.toNat → Admits .load (a + b) n n (fun _ => true) v q t →
    t.loadReady q (t.tagFor q) n = true →
    Loads (.lda o) s ({ t with serial := t.serial + 1 }.post 1 (t.tagFor q) q.named q.loc n (t.homeFor q (t.tagFor q)) (.load (.reg t.serial 0 (8 * n) 0)))
      ⟨t.serial, o.d.toNat, 0, 1, 8 * n, !o.u, true, true, none, a + b, q.loc⟩) ∧
  (∀ (o : FmtLdx) (s u v t : State) (a b : Word) (q : Place) (n : Nat) (g : Saggar), s.Starts (.ldx o) → dstOk o.d = true → s.acquirePending = false →
    s.accepts o.d = true → s.Gives o.a o.x a u → u.Gives o.b o.y b v → n = 2 ^ o.sz.toNat → v.sagAt v.me.sag = some g →
    (g.ldxOk (b.toNat % 65536) = false → Traps (.ldx o) s v 35 (word (b.toNat % 65536))) ∧
    (g.ldxOk (b.toNat % 65536) = true → Admits .load a n n (fun _ => true) v q t → q.addr.isGlobal = true → t.loadReady q (b.toNat % 65536) n = true →
      Loads (.ldx o) s ({ t with serial := t.serial + 1 }.post 1 (b.toNat % 65536) q.named q.loc n (t.homeFor q (b.toNat % 65536))
        (.load (.reg t.serial 0 (8 * n) 0))) ⟨t.serial, o.d.toNat, 0, 1, 8 * n, !o.u, true, false, none, a, q.loc⟩)) ∧
  (∀ (o : FmtPref) (s u : State) (a : Word), s.Starts (.pref o) → s.Gives o.a o.x a u → (∃ t, Completes (.pref o) s t ∧ t.net = s.net ∧ t.me = u.me) ∧
    ((∀ va, resolve u u.myCluster u.me.sag (a + o.o.signExtend 64 * word (2 ^ o.sz.toNat)) 1 ≠ some (.global va)) → Completes (.pref o) s u)) ∧
  (∀ (r : StrandRef) (k : Nat) (s : State) (a : Ack) (p : Pend) (v : Word) (sh bits lo l : Nat), s.acks[k]? = some a → a.core = r.core → a.slot = r.slot →
    a.body = .data (.reg p.id sh bits lo) v (some l) → s.alive r.core r.slot a.uid = true → (s.strandOf r).dying = false → s.relocking r.core = false →
    (s.strandOf r).pending.find? (fun q => q.id = p.id) = some p → p.parts = 1 → p.bad = none →
    (s.elects (s.strandOf r).sag = true → exec (.loadDataReturn r k) s = .next ({ s with acks := dropAt s.acks k }.modStrand r.core r.slot (fun m => { m with
      pending := m.pending.filter (fun q => q.id != p.id), status := .ready, reply := some ⟨p.addr + word (l - p.loc), [], 14⟩ }))) ∧
    (s.elects (s.strandOf r).sag = false → ∃ t, exec (.loadDataReturn r k) s = .next t ∧ t.mem = s.mem ∧
      bitsOf (t.strandOf r).st 32 16 = min (bitsOf (s.strandOf r).st 32 16 + 1) 65535)) ∧
  (∀ (s : State) (d : Nat) (v : Word), s.me.stage = 9 → s.me.work = [d] → s.me.reply = some ⟨v, [], 14⟩ → finishReply s = takeTrapCode 14 s.me.pc v s)

/-- Stores (R174, R175, R179, R180, R192): after the release that the form asks for, the low bytes of d are in flight to the place of the effective
address, or stand in the replay queue behind a replay-class fault; no byte of memory changes before a home applies them.
What makes an access wait at issue is a reading of the model (log 46, log 79). -/
def Obligations.StoresComplete : Prop :=
  (∀ (o : FmtM) (s u v t : State) (a d : Word) (q : Place) (n ctx : Nat), s.Starts (.st o) → s.acquirePending = false → s.Gives o.a o.x a u →
    u.Gives o.d false d v → n = 2 ^ o.sz.toNat → Admits .store (a + o.o.signExtend 64 * word n) n n (fun _ => true) v q t →
    ctx = (if o.c = 1 then 0 else t.tagFor q) → (2 ≤ o.c.toNat → t.releaseOk (o.c.toNat - 2) = true) →
    t.crosses false (t.homeFor q ctx) q.loc n = false →
    (t.Sends q → Completes (.st o) s (t.post 1 ctx q.named q.loc n (t.homeFor q ctx) (.store (toBytes n d.toNat)))) ∧
    (∀ why, t.requestRoom 1 = true → q.replay = some why → t.myCore.replay.length < 16 → Completes (.st o) s (State.modMyCore { t with serial := t.serial + 1 }
      (fun c => { c with replay := c.replay ++ [⟨[⟨t.serial, t.core, t.slot, t.me.uid, t.me.sag, t.me.task, t.me.spec, 1, ctx, q.named, q.loc, n, t.homeFor q ctx,
        .store (toBytes n d.toNat), t.serial, t.time⟩], why, (t.me.heapb, t.me.heapl, t.me.heapo)⟩] }))) ∧
    (∀ w, exec (.st o) s = .next w → ∀ l, w.byte l = t.byte l ∧ w.isFull l = t.isFull l)) ∧
  (∀ (o : FmtStl) (s u v w t : State) (a b d : Word) (q : Place) (n : Nat), s.Starts (.stl o) → s.acquirePending = false → s.Gives o.a o.x a u →
    u.Gives o.b false b v → v.Gives o.d false d w → n = 2 ^ o.sz.toNat → Admits .store (a + b) n n (fun _ => true) w q t → t.releaseOk o.k.toNat = true →
    t.crosses false (t.homeFor q (t.tagFor q)) q.loc n = false → t.Sends q →
    Completes (.stl o) s (t.post 1 (t.tagFor q) q.named q.loc n (t.homeFor q (t.tagFor q)) (.store (toBytes n d.toNat)))) ∧
  (∀ (o : FmtM) (s u v t : State) (a d : Word) (q : Place) (n : Nat), s.Starts (.st o) → s.acquirePending = false → s.Gives o.a o.x a u →
    u.Gives o.d false d v → n = 2 ^ o.sz.toNat → Admits .store (a + o.o.signExtend 64 * word n) n n (fun _ => true) v q t → 2 ≤ o.c.toNat →
    t.releaseOk (o.c.toNat - 2) = false → exec (.st o) s = .next t.heldParked)

/-- Bit fields (R97, R98, R182): an address that is not mesh-local traps BIT_ADDRESS in either form; `ldb` reads and `stb` masks each bank word of the field, whose bits
fall to the words one by one.
That BIT_ADDRESS comes before BAD_ADDRESS is a reading of the model (log 35). -/
def Obligations.BitFieldsComplete : Prop :=
  (∀ bo w i : Nat, i < w → w ≤ 64 → ∃ x ∈ bankWords bo w, x.2.1 ≤ i ∧ i < x.2.1 + x.2.2.1 ∧ 8 * x.1 + x.2.2.2 + (i - x.2.1) = bo + i ∧
    x.2.2.2 + x.2.2.1 ≤ 32 ∧ x.1 % 4 = 0) ∧
  (∀ (o : FmtLdb) (s u t : State) (a : Word) (q r : Place) (w bo ctx : Nat), s.Starts (.ldb o) → dstOk o.d = true → s.acquirePending = false →
    s.accepts o.d = true → s.Gives o.a o.x a u → w = o.w.toNat + 1 →
    (bitsOf a 60 4 ≠ 8 → bitsOf a 60 4 ≠ 9 → Traps (.ldb o) s u 8 a) ∧
    ((bitsOf a 60 4 = 8 ∨ bitsOf a 60 4 = 9) → resolve u u.myCluster u.me.sag (byteOfBit a) ((bitsOf a 0 3 + w + 7) / 8) ≠ none →
      Admits .load (byteOfBit a) ((bitsOf a 0 3 + w + 7) / 8) 1 (fun _ => true) u q t →
      r = { q with named := q.named - q.loc % 4, loc := q.loc - q.loc % 4 } → bo = q.loc % 4 * 8 + bitsOf a 0 3 → ctx = t.tagFor r →
      t.requestRoom (bankWords bo w).length = true → t.parkedOverlap r.named (4 * (bankWords bo w).length) = false →
      (∀ x ∈ bankWords bo w, t.crosses true (t.homeFor { r with named := r.named + x.1, loc := r.loc + x.1 } ctx) (r.loc + x.1) 4 = false) →
      Loads (.ldb o) s ((bankWords bo w).foldl (fun (t' : State) (x : Nat × Nat × Nat × Nat) =>
          t'.post 1 ctx (r.named + x.1) (r.loc + x.1) 4 (t'.homeFor { r with named := r.named + x.1, loc := r.loc + x.1 } ctx)
            (.load (.reg t.serial x.2.1 x.2.2.1 x.2.2.2))) { t with serial := t.serial + 1 })
        ⟨t.serial, o.d.toNat, 0, (bankWords bo w).length, w, o.e, true, false, none, byteOfBit a, r.loc + bo / 8⟩)) ∧
  (∀ (o : FmtStb) (s u v t : State) (a d : Word) (q r : Place) (w bo : Nat), s.Starts (.stb o) → s.acquirePending = false → s.Gives o.a o.x a u →
    u.Gives o.d false d v → w = o.w.toNat + 1 →
    (bitsOf a 60 4 ≠ 8 → bitsOf a 60 4 ≠ 9 → Traps (.stb o) s v 8 a) ∧
    ((bitsOf a 60 4 = 8 ∨ bitsOf a 60 4 = 9) → resolve v v.myCluster v.me.sag (byteOfBit a) ((bitsOf a 0 3 + w + 7) / 8) ≠ none →
    Admits .store (byteOfBit a) ((bitsOf a 0 3 + w + 7) / 8) 1 (fun _ => true) v q t →
    r = { q with named := q.named - q.loc % 4, loc := q.loc - q.loc % 4 } → bo = q.loc % 4 * 8 + bitsOf a 0 3 → q.replay = none →
    t.requestRoom (bankWords bo w).length = true → (∀ x ∈ bankWords bo w, t.crosses false (t.homeFor { r with named := r.named + x.1, loc := r.loc + x.1 } (t.tagFor r)) (r.loc + x.1) 4 = false) →
    t.myCore.replay = [] →
    ∃ t', Completes (.stb o) s t' ∧ t'.mem = t.mem ∧ t'.me = t.me ∧ t'.net.map (·.body) = t.net.map (·.body) ++ (bankWords bo w).map (fun x => Body.bits
      (BitVec.ofNat 32 (d.toNat / 2 ^ x.2.1 % 2 ^ x.2.2.1 * 2 ^ x.2.2.2)) (BitVec.ofNat 32 ((2 ^ x.2.2.1 - 1) * 2 ^ x.2.2.2)) (decide (0 < x.2.1))) ∧
      (t'.net.drop t.net.length).map (·.loc) = (bankWords bo w).map (fun x => r.loc + x.1)))

/-- The full/empty forms (R184): a mesh-local address traps FE_SPACE in all of them; `ldfe` and `stfe.fill` leave the rotation until the home of the word answers, and
the other two end like stores. At its home a full/empty operation whose condition holds acts on the word and its full bit and answers; one whose condition does not hold is listed and
its strand parks (R184, R185). A waiter that was returned for lack of room arrives again.
The order of FE_SPACE, that `stfe.force` and `stfe.empty` are posted, the limit of waiters, and how words of host and peer pages are served are the model's
(log 35, log 36, log 39, log 96). -/
def Obligations.FullEmptyFormsComplete : Prop :=
  ((∀ p ∈ [(Instr.ldfeLeave, FeOp.leave), (.ldfeTake, .take), (.ldfeState, .state)], ∀ (o : FmtFe) (s u t : State) (a : Word) (q : Place), s.Starts (p.1 o) →
     dstOk o.d = true → s.acquirePending = false → s.accepts o.d = true → s.Gives o.a o.x a u →
     let ea := a + o.o.signExtend 64 * 8
     ((bitsOf ea 60 4 = 8 ∨ bitsOf ea 60 4 = 9) → Traps (p.1 o) s u 10 ea) ∧
     (bitsOf ea 60 4 ≠ 8 → bitsOf ea 60 4 ≠ 9 → Admits .load ea 8 8 (fun _ => true) u q t → t.requestRoom 1 = true → t.parkedOverlap q.named 8 = false →
       t.crosses true (homeOf q.loc) q.loc 8 = false →
       Awaits (p.1 o) s (t.post 1 0 q.named q.loc 8 (homeOf q.loc) (.fe p.2 0)) o.d.toNat)) ∧
   (∀ p ∈ [(Instr.stfeFill, FeOp.fill), (.stfeForce, .force), (.stfeEmpty, .empty)], ∀ (o : FmtFe) (s u v t : State) (a d : Word) (q : Place),
     s.Starts (p.1 o) → (p.2 = .empty → o.d.toNat = 56) → s.acquirePending = false → s.Gives o.a o.x a u → u.Gives o.d false d v →
     let ea := a + o.o.signExtend 64 * 8
     ((bitsOf ea 60 4 = 8 ∨ bitsOf ea 60 4 = 9) → Traps (p.1 o) s v 10 ea) ∧
     (bitsOf ea 60 4 ≠ 8 → bitsOf ea 60 4 ≠ 9 → Admits .store ea 8 8 (fun _ => true) v q t → t.releaseOk 2 = true →
       t.crosses false (homeOf q.loc) q.loc 8 = false → t.Sends q →
       let w := t.post 1 0 q.named q.loc 8 (homeOf q.loc) (.fe p.2 d)
       if p.2 = .fill then Awaits (p.1 o) s w 56 else Completes (p.1 o) s w))) ∧
  (∀ (k : Nat) (s : State) (m : Msg) (op : FeOp) (d : Word), s.Arrives k m → m.body = .fe op d → s.fenced m.loc = false →
     s.poisoned m.loc = false → (∀ f, s.listedFe m.loc f = none) →
     (op = .state → exec (.feOpAtHome k) s = .next ((s.dropMsg k).replyTo m (if s.isFull m.loc then 1 else 0))) ∧
     (op = .leave → s.isFull m.loc = true → exec (.feOpAtHome k) s = .next ((s.dropMsg k).replyTo m (s.dword m.loc))) ∧
     (op = .take → s.isFull m.loc = true → exec (.feOpAtHome k) s = .next (((s.dropMsg k).setFull m.loc false).replyTo m (s.dword m.loc))) ∧
     (op = .fill → s.isFull m.loc = false →
       exec (.feOpAtHome k) s = .next ((((((s.dropMsg k).setDword m.loc d).clearPoison m.loc 8).setFull m.loc true).changed m.loc 8).replyTo m 0)) ∧
     (op = .force → exec (.feOpAtHome k) s = .next ((((((s.dropMsg k).setDword m.loc d).clearPoison m.loc 8).setFull m.loc true).changed m.loc 8).answer m .store)) ∧
     (op = .empty → exec (.feOpAtHome k) s = .next (((s.dropMsg k).setFull m.loc false).answer m .store)) ∧
     ((((op = .leave ∨ op = .take) ∧ s.isFull m.loc = false) ∨ (op = .fill ∧ s.isFull m.loc = true)) → s.listRoom m.home = true →
       exec (.feOpAtHome k) s = .next (State.modIssuer { s.dropMsg k with waiters := s.waiters ++ [⟨m, false⟩] } m (fun x => { x with status := .parked .fullEmpty }))) ∧
     (∀ (j : Nat) (t : State), t.waiters[j]? = some ⟨m, true⟩ → (t.stalled m = true → exec (.waiterRetryBackoff j) t = .next t) ∧
       (t.stalled m = false → (∀ h ∈ m.homes, t.awakeAt h = true) → (∀ i, i < 8 → Tbl.find t.errs (poisonWord (m.loc + i)) = none) →
         exec (.waiterRetryBackoff j) t = .next (State.feArrive { t with waiters := dropAt t.waiters j } m))))

/-- Atomics and reductions (R186, R188, R189): an atomic leaves the rotation until the old value comes; a reduction goes on, counted in PEND, and is held
while PEND is 16. -/
def Obligations.AtomicsAndReductionsComplete : Prop :=
  (∀ p ∈ [(Instr.amoSwap, AOp.swap), (.amoAdd, .add), (.amoAnd, .and), (.amoOr, .or), (.amoXor, .xor), (.amoMax, .max), (.amoMin, .min),
      (.amo2Maxu, .maxu), (.amo2Minu, .minu), (.amo2FaddS, .faddS), (.amo2FaddBf, .faddBf)],
    ∀ (o : FmtAmo) (s u v t : State) (a b : Word) (q : Place), s.Starts (p.1 o) → dstOk o.d = true → s.acquirePending = false → s.accepts o.d = true →
      s.Gives o.a o.x a u → u.Gives o.b false b v → Admits .update a p.2.size p.2.size (v.scopeTakes o.k.toNat) v q t →
      t.crosses false (homeOf q.loc) q.loc p.2.size = false → t.parkedOverlap q.named p.2.size = false → t.Sends q →
      Awaits (p.1 o) s (t.post 1 0 q.named q.loc p.2.size (homeOf q.loc) (.atomic p.2 b 0 true)) o.d.toNat) ∧
  (∀ (o : FmtAmo) (s u v w t : State) (a b c : Word) (q : Place), s.Starts (.amoCas o) → dstOk o.d = true → s.acquirePending = false →
    s.accepts o.d = true → s.Gives o.a o.x a u → u.Gives o.b false b v → v.Gives o.d false c w → Admits .update a 8 8 (w.scopeTakes o.k.toNat) w q t →
    t.crosses false (homeOf q.loc) q.loc 8 = false → t.parkedOverlap q.named 8 = false → t.Sends q →
    Awaits (.amoCas o) s (t.post 1 0 q.named q.loc 8 (homeOf q.loc) (.atomic .cas b c true)) o.d.toNat) ∧
  (∀ p ∈ [(Instr.redAdd, AOp.add), (.redAnd, .and), (.redOr, .or), (.redXor, .xor), (.redMax, .max), (.redMin, .min), (.redFaddS, .faddS),
      (.redFaddBf, .faddBf)],
    ∀ (o : FmtRed) (s u v t : State) (a b : Word) (q : Place), s.Starts (p.1 o) → s.acquirePending = false → srcOk o.x o.a = true → srcOk false o.b = true →
      (16 ≤ s.me.pend → exec (p.1 o) s = .next (s.modMe (fun m => { m with status := .held }))) ∧
      (s.me.pend < 16 → s.Gives o.a o.x a u → u.Gives o.b false b v → Admits .update a p.2.size p.2.size (v.scopeTakes o.k.toNat) v q t →
        t.crosses false (homeOf q.loc) q.loc p.2.size = false → t.Sends q →
        Completes (p.1 o) s ((t.post 1 0 q.named q.loc p.2.size (homeOf q.loc) (.atomic p.2 b 0 false)).modMe (fun m => { m with pend := m.pend + 1 }))))

/-- Fences (R191): each ends once its condition holds and holds its strand before; `fence.full` notes the writes on their way through its die's
ports when it issued, those that a peer has still to acknowledge among them, and at system scope waits for those too. -/
def Obligations.FencesComplete : Prop :=
  (∀ (o : FmtFence) (s : State), s.Starts (.fenceAcq o) → if s.acquireOk = true then Completes (.fenceAcq o) s s
    else exec (.fenceAcq o) s = .next (s.modMe (fun m => { m with status := .held }))) ∧
  (∀ (o : FmtFence) (s : State), s.Starts (.fenceRel o) → if s.releaseOk o.k.toNat = true then Completes (.fenceRel o) s s
    else exec (.fenceRel o) s = .next s.heldParked) ∧
  (∀ (o : FmtFence) (s : State), s.Starts (.fenceFull o) → s.acquirePending = false → s.acquireOk = true → s.releaseOk o.k.toNat = true →
    (o.k ≠ 3 ∨ ∀ w ∈ s.portWrites s.myDie, s.serial ≤ w.id) →
    Completes (.fenceFull o) s (s.modMe (fun m => { m with stage := 1, work := [s.serial] }))) ∧
  (∀ (o : FmtFence) (s : State), s.Starts (.fenceFull o) →
    (s.acquirePending = true → exec (.fenceFull o) s = .next (s.modMe (fun m => { m with status := .held }))) ∧
    (s.acquirePending = false → (s.acquireOk = false ∨ s.releaseOk o.k.toNat = false ∨
        (o.k = 3 ∧ ∃ w ∈ s.portWrites s.myDie, w.id < s.serial)) →
      exec (.fenceFull o) s = .next (s.modMe (fun m => { m with stage := 1, work := [s.serial] })).heldParked)) ∧
  (∀ s : State, s.Starts .fenceWred → if s.me.pend = 0 then Completes .fenceWred s s else exec .fenceWred s = .next (s.modMe (fun m => { m with status := .held }))) ∧
  (∀ s : State, s.Starts .fenceWrep → if s.myCore.replay = [] then Completes .fenceWrep s s
    else exec .fenceWrep s = .next s.heldParked) ∧
  (∀ (s : State) (scope : Nat), s.releaseOk scope = true → s.myCore.replay = [] ∧ s.acquireOk = true ∧
    (∀ m ∈ s.net, m.uid = s.me.uid → m.core = s.core → m.body.released = true → 2 ≤ scope → False))

/-- The order of an access's checks (R173, R174, R271, R385, R391, R393, R424): BAD_ADDRESS, MISALIGNED_ACCESS, the scope, then for a mesh-local address the
quoin table alone; a global address in the heap window goes to its grant, with the key of HEAPO, which must be loaded, and one outside it needs a lease over
every byte. How memory under a key is held is the model's choice (log 89). -/
def Obligations.AccessChecksInOrder : Prop :=
  (∀ (s : State) (cl sag n : Nat) (a : Word), bitsOf a 60 4 ∉ [0, 8, 9] → resolve s cl sag a n = none) ∧
  (∀ (kd : Acc) (a : Word) (n al : Nat) (pre : Addr → Bool) (s : State) (k : Place → State → Out),
    (resolve s s.myCluster s.me.sag a n = none → access kd a n al pre s k = takeTrapCode 7 s.me.pc a s) ∧
    (∀ ad, resolve s s.myCluster s.me.sag a n = some ad →
      (a.toNat % al ≠ 0 → access kd a n al pre s k = takeTrapCode 6 s.me.pc a s) ∧
      (a.toNat % al = 0 → pre ad = false → access kd a n al pre s k = takeTrapCode 9 s.me.pc a s) ∧
      (a.toNat % al = 0 → pre ad = true → ∀ loc, ((∃ c off, ad = .scratch c off ∧ loc = scratchLoc c off) ∨ (∃ cl off, ad = .slice cl off ∧ loc = sliceLoc cl off)) →
        (s.rangeLocked kd ad.named n = none → Admits kd a n al pre s ⟨ad, ad.named, loc, none⟩ s) ∧
        (∀ j, s.rangeLocked kd ad.named n = some j → access kd a n al pre s k = takeTrapCode 13 s.me.pc (a + word j) s)))) ∧
  (∀ (kd : Acc) (va n : Nat) (s : State) (i : Issuer) (g : Saggar), s.sagAt i.sag = some g →
    let off := (va + 2 ^ 64 - bitsOf i.heapb 16 41 * 65536) % 2 ^ 64
    let pa := bitsOf i.heapo 16 40 * 65536 + off
    (off < bitsOf i.heapl 16 41 * 65536 → kd ≠ .fetch → g.cfg.grantBase ≤ pa → pa + n ≤ g.cfg.grantBase + g.cfg.grantLen →
      (Tbl.find s.keys (bitsOf i.heapo 56 8)).isSome = true → s.noAccess pa = false →
      translate s i kd va n = (.ok pa, s.underKey kd pa n (bitsOf i.heapo 56 8))) ∧
    (off < bitsOf i.heapl 16 41 * 65536 → Tbl.find s.keys (bitsOf i.heapo 56 8) = none → translate s i kd va n = (.permission, s)) ∧
    (off < bitsOf i.heapl 16 41 * 65536 → (pa < g.cfg.grantBase ∨ g.cfg.grantBase + g.cfg.grantLen < pa + n) → translate s i kd va n = (.permission, s)) ∧
    (∀ (ls : List Lease) (j : Nat), bitsOf i.heapl 16 41 * 65536 ≤ off → i.leases = some ls → j < n →
      (∀ l ∈ ls, ¬(l.base ≤ va + j ∧ va + j < l.base + l.len ∧ (kd.writes = true → l.rw = true))) →
      (∀ j', j' < j → ∃ l ∈ ls, l.base ≤ va + j' ∧ va + j' < l.base + l.len ∧ (kd.writes = true → l.rw = true)) →
      translate s i kd va n = (.lease (va + j), s)))

/-- What homes do (R169, R178, R186, R187, R275, R286, R292): a read answers with the bytes, and with it every element of its lane load that reads the same
place; a write puts its bytes at its location and nowhere else, and an atomic answers with the old value and writes the new one in one step. -/
def Obligations.HomesApplyAccesses : Prop :=
  (∀ (h : HomeSel) (s : State) (m : Msg), h.engine = false → s.net[h.k]? = some m → s.barred h.k m = true → exec (.homeAccess h) s = .next s) ∧
  (∀ (h : HomeSel) (s : State) (m : Msg), h.engine = false → h.ecc = ⟨false, false⟩ → s.Arrives h.k m → m.ctx = 0 →
    offDevice m.loc = false → (∀ i, i < m.size → offDevice (m.loc + i) = false ∧ s.dead (m.loc + i) = false) →
    (∀ w ∈ s.waiters, s.anyDead w.msg.loc 8 = false ∧ ∀ i, i < 8 → Tbl.find s.errs (poisonWord (w.msg.loc + i)) = none) →
    (∀ dst, m.body = .load dst → (∀ x ∈ dropAt s.net h.k, m.twin x = false) →
      exec (.homeAccess h) s = .next ((s.dropMsg h.k).answer m (.data dst (word (ofBytes (s.bytes m.loc m.size))) none))) ∧
    (∀ dst, m.body = .load dst → ∃ t, exec (.homeAccess h) s = .next t ∧ t.mem = s.mem ∧
      ∀ x ∈ dropAt s.net h.k, m.twin x = true → x ∉ t.net ∧ ∀ d, x.body = .load d →
        (⟨x.id, x.core, x.slot, x.uid, .data d (word (ofBytes (s.bytes m.loc m.size))) none, true⟩ : Ack) ∈ t.acks) ∧
    (∀ bs, m.body = .store bs → bs.length = m.size → 0 < m.size → s.Canonical →
      ∃ t, exec (.homeAccess h) s = .next t ∧ (∀ i, i < m.size → t.byte (m.loc + i) = bs.getD i 0) ∧
        (∀ l, l < m.loc ∨ m.loc + m.size ≤ l → t.byte l = s.byte l) ∧ (∀ l, t.isFull l = s.isFull l) ∧ t.cores = s.cores ∧
        (⟨m.id, m.core, m.slot, m.uid, .store, true⟩ : Ack) ∈ t.acks ∧ t.net = dropAt s.net h.k) ∧
    (∀ op b c ret, m.body = .atomic op b c ret → m.size = op.size → s.Canonical →
      let old := word (ofBytes (s.bytes m.loc m.size))
      ∃ t, exec (.homeAccess h) s = .next t ∧ (∀ i, i < m.size → t.byte (m.loc + i) = (toBytes m.size (op.new old b c)).getD i 0) ∧
        (∀ l, l < m.loc ∨ m.loc + m.size ≤ l → t.byte l = s.byte l) ∧ (∀ l, t.isFull l = s.isFull l) ∧ t.cores = s.cores ∧
        (⟨m.id, m.core, m.slot, m.uid, if ret then .reply ⟨old, [], 0⟩ else .update, true⟩ : Ack) ∈ t.acks)) ∧
  (∀ a b c : Word, AOp.new .swap a b c = b.toNat ∧ AOp.new .cas a b c = (if a = c then b else a).toNat ∧ AOp.new .add a b c = (a + b).toNat ∧
    AOp.new .and a b c = (a &&& b).toNat ∧ AOp.new .or a b c = (a ||| b).toNat ∧ AOp.new .xor a b c = (a ^^^ b).toNat ∧
    (b.toInt ≤ a.toInt → AOp.new .max a b c = a.toNat ∧ AOp.new .min a b c = b.toNat) ∧
    (a.toInt ≤ b.toInt → AOp.new .max a b c = b.toNat ∧ AOp.new .min a b c = a.toNat) ∧
    (b.toNat ≤ a.toNat → AOp.new .maxu a b c = a.toNat ∧ AOp.new .minu a b c = b.toNat) ∧
    (a.toNat ≤ b.toNat → AOp.new .maxu a b c = b.toNat ∧ AOp.new .minu a b c = a.toNat))

/-- What comes back to strands (R110, R175, R176, R177, R189, R190, R252, R292): replies make their strand ready and end its instruction with their value,
results and load data fill their register, PEND and the request room fall, a parked store is sent again once it passes, buffered writes reach memory or, numbered,
their peer, and a strand whose wait is over may issue. None of this reaches a core while its die relocks (R441): answers, results and parked stores stay where they
are, a reply waking its unit. A `vred.q` whose value is written is over, with its
running state and its prefix (R166).
That a retried store is checked again and keeps its place is the model's choice (log 29, log 41). -/
def Obligations.AnswersReachTheirStrand : Prop :=
  (∀ (k id c sl uid : Nat) (r : Reply) (s : State), s.acks[k]? = some ⟨id, c, sl, uid, .reply r, true⟩ → s.relocking c = false → s.alive c sl uid = true →
    (s.strandAt c sl).dying = false → (s.strandAt c sl).stage ≠ 7 → (s.strandAt c sl).stage ≠ 8 →
    exec (.homeReply k) s = .next ((State.modStrand { s with acks := dropAt s.acks k } c sl (fun m => { m with reply := some r, status := .ready })).wakeUnit c)) ∧
  (∀ (s : State) (v : Word) (more : List Word) (d : Code), s.me.reply = some ⟨v, more, 0⟩ → s.me.work = [d.toNat] → s.room d = true →
    finishReply s = complete ((s.put d v).modMe (fun m => if isVredQ m.cur then { (if m.prefixed then m.dropPrefix else m) with istate1 := 0 } else m))) ∧
  (∀ (s : State) (v : Word) (more : List Word) (d : Nat) (w : List Nat) (c : Nat), s.me.reply = some ⟨v, more, c⟩ → s.me.work = d :: w → c ≠ 0 →
    finishReply s = takeTrapCode c s.me.pc v s) ∧
  (∀ (k id c sl uid : Nat) (s : State), s.acks[k]? = some ⟨id, c, sl, uid, .update, true⟩ → s.relocking c = false → s.alive c sl uid = true →
    exec (.nonreturningUpdateApplied k) s = .next (State.modStrand { s with acks := dropAt s.acks k } c sl (fun m => { m with pend := m.pend - 1 }))) ∧
  (∀ (k id c sl uid : Nat) (s : State), s.acks[k]? = some ⟨id, c, sl, uid, .store, true⟩ → s.relocking c = false →
    exec (.storeAcknowledgement k) s = .next { s with acks := dropAt s.acks k }) ∧
  (∀ (r : StrandRef) (k : Nat) (s : State) (p : Pend), ((s.strandOf r).pending.filter (fun p => !p.load && decide (p.parts = 0)))[k]? = some p →
    (s.strandOf r).dying = false → s.relocking r.core = false →
    exec (.longLatencyResult r k) s = .next (s.modStrand r.core r.slot (fun m =>
      let u := { m with pending := m.pending.filter (fun q => q.id != p.id) }
      if p.d < 32 ∧ ¬(m.stage = 9 ∧ m.work.head? = some p.d) then u.setS p.d p.val else { u with reply := some ⟨p.val, [], 0⟩, status := .ready }))) ∧
  (∀ (r : StrandRef) (k id n uid : Nat) (v : Word) (s : State) (p : Pend), s.acks[k]? = some ⟨id, r.core, r.slot, uid, .data (.reg p.id 0 n 0) v none, true⟩ →
    s.alive r.core r.slot uid = true → (s.strandOf r).dying = false → s.relocking r.core = false → (s.strandOf r).pending.find? (fun q => q.id = p.id) = some p →
    p.parts = 1 → p.bad = none → p.width = n → p.val = 0 → n ≤ 64 → 0 < n → p.d < 32 →
    ¬((s.strandOf r).stage = 9 ∧ (s.strandOf r).work.head? = some p.d) →
    exec (.loadDataReturn r k) s = .next (State.modStrand { s with acks := dropAt s.acks k } r.core r.slot (fun m =>
      { m with pending := m.pending.filter (fun q => q.id != p.id) }.setS p.d (if p.sx then BitVec.ofInt 64 (signed n v.toNat) else word (v.toNat % 2 ^ n))))) ∧
  (∀ (c : Nat) (s : State) (m : Msg) (why : ReplayWhy) (h : Word × Word × Word) (rest : List Replay) (u : State) (m' : Msg),
    (s.coreAt c).replay = ⟨[m], why, h⟩ :: rest → (s.coreAt c).saved = none → s.relocking c = false → (∀ r ∈ rest, r.msgs ≠ [m]) → s.recheck m h = .ok (.go m', u) →
    (u.coreAt c).replay = ⟨[m], why, h⟩ :: rest →
    (u.mustWait m' = true → exec (.replayRetry c 0) s = .next u) ∧
    (u.mustWait m' = false → ∃ t, exec (.replayRetry c 0) s = .next (t.drainReplay c) ∧
      t = ((u.modCore c (fun x => { x with replay := ⟨[], why, h⟩ :: rest })).wakeHomes m').reach m' ⟨false, false⟩)) ∧
  (∀ (c : Nat) (s : State), s.relocking c = true →
    (∀ (k id sl uid : Nat) (r : Reply) (q : Bool), s.acks[k]? = some ⟨id, c, sl, uid, .reply r, q⟩ → exec (.homeReply k) s = .next (s.wakeUnit c)) ∧
    (∀ (k id sl uid : Nat) (q : Bool), s.acks[k]? = some ⟨id, c, sl, uid, .store, q⟩ → exec (.storeAcknowledgement k) s = .next s) ∧
    (∀ (k id sl uid : Nat) (q : Bool), s.acks[k]? = some ⟨id, c, sl, uid, .update, q⟩ → exec (.nonreturningUpdateApplied k) s = .next s) ∧
    (∀ (k id sl uid i sh n lo : Nat) (v : Word) (bad : Option Nat) (q : Bool), s.acks[k]? = some ⟨id, c, sl, uid, .data (.reg i sh n lo) v bad, q⟩ →
      s.alive c sl uid = true → exec (.loadDataReturn ⟨c, sl⟩ k) s = .next s) ∧
    (∀ sl k : Nat, exec (.longLatencyResult ⟨c, sl⟩ k) s = .next s) ∧ (∀ k : Nat, exec (.replayRetry c k) s = .next s) ∧
    (∀ sl : Nat, exec (.strandWake ⟨c, sl⟩) s = .next s)) ∧
  (∀ (die : Nat) (s : State) (w : PendWrite) (rest : List PendWrite), (s.dieAt die).pwb = w :: rest → s.Canonical →
    ∃ t, exec (.pendingWriteDrain die) s = .next t ∧ (t.dieAt die).pwb = rest ∧
      (spaceOf w.loc ≠ 3 → (∀ i, i < w.bytes.length → t.byte (w.loc + i) = w.bytes.getD i 0) ∧
        (∀ l, l < w.loc ∨ w.loc + w.bytes.length ≤ l → t.byte l = s.byte l)) ∧
      (spaceOf w.loc = 3 → t.mem = s.mem ∧ (s.cutOff w.loc = false → ∀ p ∈ s.peers, p.reaches w.loc = true →
        { p with sendSeq := (p.sendSeq + 1) % 2 ^ 32, unacked := p.unacked ++ [⟨p.sendSeq, p.gen, .write w⟩] } ∈ t.peers))) ∧
  (∀ (r : StrandRef) (s : State) (w : Wait), (s.strandOf r).status = .parked w → (s.strandOf r).live = true → (s.strandOf r).dying = false →
    (s.coreAt r.core).saved = none → s.relocking r.core = false →
    exec (.strandWake r) s = .next (if s.waitOver r w then s.modStrand r.core r.slot (fun x => { x with status := .ready }) else s))

/-! Lanes. -/

/-- The floating element-wise forms (R146, R153 to R158): every active lane of d takes the form's value under the formats, mode and scales in force, inactive
lanes and every other register keep theirs, and the flags of all active lanes are ORed into ST. Without lanes NO_LANES is raised.
That EADDR of NO_LANES is a free value and when lane instructions are performed are the model's (log 1, log 76). -/
def Obligations.LaneFloatFormsComplete : Prop :=
  (∀ p ∈ [(Instr.vfAdd, FOp.add, vfCodes), (.vfSub, .sub, vfCodes), (.vfMul, .mul, vfCodes), (.vfDiv, .div, vfCodes), (.vfMin, .min, vfCodes),
      (.vfMax, .max, vfCodes), (.vfCopysign, .copysign, vfCodes), (.vfmaFma, .fma, vfCodes), (.vfmaFms, .fms, vfCodes), (.vfmaFnma, .fnma, vfCodes),
      (.vfmaFnms, .fnms, vfCodes), (.vfxFscale, .fscale, formatsOk .low .any .low)],
    ∀ (o : FmtV) (s u v : State) (w : Option Word) (sc : Word), s.Begins (p.1 o) → vecOk o.a = true → vecOk o.d = true → p.2.2 s = true → s.LanesReady →
      s.Broadcast o.b w u → u.scaleIs sc → v = u.tookScale sc →
      let r := fun (i : Nat) => p.2.1.run (s.me.gov 0 0 0 sc) (s.me.laneAt o.a.toNat i) (s.me.laneB w o.b i) (s.me.laneAt o.d.toNat i)
      ∃ t, Completes (p.1 o) s t ∧ LanesTo v.me t.me o.d.toNat (s.me.active o.y) (fun i => BitVec.ofNat 32 (r i).1) ∧
        t.me.st = v.consume.me.st ||| word (((List.range 256).filter (s.me.active o.y)).foldl (fun n i => n ||| (r i).2) 0) ∧ t.mem = s.mem) ∧
  (∀ p ∈ [(Instr.vfAbs, FOp.abs, vf1Codes), (.vfNeg, .neg, vf1Codes), (.vfxFrintN, .frintN, vf1Codes), (.vfxFrintZ, .frintZ, vf1Codes),
      (.vfxFrintU, .frintU, vf1Codes), (.vfxFrintD, .frintD, vf1Codes), (.vfxFexpf, .fexpf, vf1Codes), (.vfxFgetexp, .fgetexp, vf1Codes),
      (.vfxFgetman, .fgetman, vf1Codes), (.vfxFrcp, .frcp, vf1Codes), (.vfxFrsq, .frsq, vf1Codes), (.vfxFclass, .fclass, formatsOk .any .low .any),
      (.vfxFsqrt, .fsqrt, vf1Codes)],
    ∀ (o : FmtVUn) (s u v : State) (w : Option Word) (sc : Word), s.Begins (p.1 o) → vecOk o.d = true → p.2.2 s = true → s.LanesReady →
      s.Broadcast o.b w u → u.scaleIs sc → v = u.tookScale sc →
      let r := fun (i : Nat) => p.2.1.run (s.me.gov 0 0 0 sc) (s.me.laneAt 0 i) (s.me.laneB w o.b i) (s.me.laneAt o.d.toNat i)
      ∃ t, Completes (p.1 o) s t ∧ LanesTo v.me t.me o.d.toNat (s.me.active o.y) (fun i => BitVec.ofNat 32 (r i).1) ∧
        t.me.st = v.consume.me.st ||| word (((List.range 256).filter (s.me.active o.y)).foldl (fun n i => n ||| (r i).2) 0) ∧ t.mem = s.mem) ∧
  (∀ (o : FmtCvt) (s v : State) (sc : Word), s.Begins (.vcvt o) → vecOk o.b = true → vecOk o.d = true → anyCodes s = true → s.LanesReady → s.scaleIs sc → v = s.tookScale sc →
      let r := fun (i : Nat) => cvtRun o.h.toNat o.g.toNat (s.me.gov 0 0 0 sc) (s.me.laneAt o.b.toNat i)
      ∃ t, Completes (.vcvt o) s t ∧ LanesTo v.me t.me o.d.toNat (s.me.active o.y) (fun i => BitVec.ofNat 32 (r i).1) ∧
        t.me.st = v.consume.me.st ||| word (((List.range 256).filter (s.me.active o.y)).foldl (fun n i => n ||| (r i).2) 0) ∧ t.mem = s.mem) ∧
  (∀ p ∈ [(Instr.vaddF32, FOp.add, vfCodes), (.vsubF32, .sub, vfCodes), (.vmulF32, .mul, vfCodes), (.vmaxF32, .max, vfCodes), (.vminF32, .min, vfCodes),
      (.vabsF32, .abs, vf1Codes), (.vnegF32, .neg, vf1Codes)],
    ∀ (o : FmtN) (s v : State) (sc : Word), s.Begins (p.1 o) → p.2.2 s = true → s.LanesReady → s.scaleIs sc → v = s.tookScale sc →
      let r := fun (i : Nat) => p.2.1.run (s.me.gov 0 0 0 sc) (s.me.laneAt o.d.toNat i) (s.me.laneAt o.b.toNat i) (s.me.laneAt o.d.toNat i)
      ∃ t, Completes (p.1 o) s t ∧ LanesTo v.me t.me o.d.toNat (s.me.active o.m) (fun i => BitVec.ofNat 32 (r i).1) ∧
        t.me.st = v.consume.me.st ||| word (((List.range 256).filter (s.me.active o.m)).foldl (fun n i => n ||| (r i).2) 0) ∧ t.mem = s.mem) ∧
  (∀ f ∈ [Instr.vfAdd, .viAdd, .vfMul], ∀ (o : FmtV) (s : State), s.Starts (f o) → vecOk o.a = true → vecOk o.d = true → s.me.g = 0 →
    Traps (f o) s s.draw.2 21 s.draw.1)

/-- The integer lane forms and compares (R155, R159, R160): 32-bit values, shift counts modulo 32, and one mask bit for each active lane.
When lane instructions are performed is a reading of the model (log 76). -/
def Obligations.LaneIntegerFormsComplete : Prop :=
  (∀ p ∈ [(Instr.viAdd, fun a b : Lane => a + b), (.viSub, fun a b => a - b), (.viMul, fun a b => a * b),
      (.viMulh, fun a b => BitVec.ofInt 32 (a.toInt * b.toInt / 2 ^ 32)), (.viMin, fun a b => if a.toInt ≤ b.toInt then a else b),
      (.viMax, fun a b => if b.toInt ≤ a.toInt then a else b), (.viMinu, fun a b => if a.toNat ≤ b.toNat then a else b),
      (.viMaxu, fun a b => if b.toNat ≤ a.toNat then a else b), (.viAnd, fun a b => a &&& b), (.viOr, fun a b => a ||| b), (.viXor, fun a b => a ^^^ b),
      (.viShl, fun a b => a <<< (b.toNat % 32)), (.viShr, fun a b => a >>> (b.toNat % 32)),
      (.viSar, fun a b => BitVec.ofInt 32 (a.toInt / 2 ^ (b.toNat % 32))), (.viAndn, fun a b => a &&& ~~~b)],
    ∀ (o : FmtV) (s u : State) (w : Option Word), s.Starts (p.1 o) → vecOk o.a = true → vecOk o.d = true → s.LanesReady → s.Broadcast o.b w u →
      ∃ t, Completes (p.1 o) s t ∧ LanesTo u.me t.me o.d.toNat (s.me.active o.y) (fun i => p.2 (s.me.laneAt o.a.toNat i) (s.me.laneB w o.b i)) ∧
        t.me.st = u.me.st ∧ t.mem = s.mem) ∧
  (∀ p ∈ [(Instr.vaddI32, fun a b : Lane => a + b), (.vsubI32, fun a b => a - b), (.vand, fun a b => a &&& b), (.vor, fun a b => a ||| b),
      (.vxor, fun a b => a ^^^ b), (.vshlI32, fun a b => a <<< (b.toNat % 32)), (.vshrI32, fun a b => a >>> (b.toNat % 32)), (.vmv, fun _ b => b),
      (.vmulI32, fun a b => a * b)],
    ∀ (o : FmtN) (s : State), s.Starts (p.1 o) → s.LanesReady →
      ∃ t, Completes (p.1 o) s t ∧ LanesTo s.me t.me o.d.toNat (s.me.active o.m) (fun i => p.2 (s.me.laneAt o.d.toNat i) (s.me.laneAt o.b.toNat i)) ∧
        t.me.st = s.me.st ∧ t.mem = s.mem) ∧
  (∀ p ∈ [(Instr.vcmpIeq, fun a b : Lane => decide (a = b)), (.vcmpIne, fun a b => decide (a ≠ b)), (.vcmpIlt, fun a b => decide (a.toInt < b.toInt)),
      (.vcmpIle, fun a b => decide (a.toInt ≤ b.toInt)), (.vcmpIltu, fun a b => decide (a.toNat < b.toNat))],
    ∀ (o : FmtV) (s u v : State) (w : Option Word) (sc : Word), s.Begins (p.1 o) → vecOk o.a = true → maskOk o.d = true → anyCodes s = true → s.LanesReady → s.Broadcast o.b w u →
      u.scaleIs sc → v = u.tookScale sc →
      ∃ t, Completes (p.1 o) s t ∧ MaskTo v.me t.me o.d.toNat (fun i =>
        if s.me.active o.y i then p.2 (s.me.laneAt o.a.toNat i) (s.me.laneB w o.b i) else (s.me.mask o.d.toNat).getLsbD i) ∧
        t.me.st = v.consume.me.st ∧ t.mem = s.mem) ∧
  (∀ p ∈ [(Instr.vcmpFeq, COp.feq), (.vcmpFne, .fne), (.vcmpFlt, .flt), (.vcmpFle, .fle), (.vcmpFunord, .funord)],
    ∀ (o : FmtV) (s u v : State) (w : Option Word) (sc : Word), s.Begins (p.1 o) → vecOk o.a = true → maskOk o.d = true →
      formatsOk .low .low .any s = true → s.LanesReady → s.Broadcast o.b w u → u.scaleIs sc → v = u.tookScale sc →
      let g := s.me.gov 0 0 0 sc
      let r := fun (i : Nat) => cmpVal p.2 (valueOf g.fa (s.me.laneAt o.a.toNat i).toNat) (valueOf g.fb (s.me.laneB w o.b i).toNat)
      ∃ t, Completes (p.1 o) s t ∧ MaskTo v.me t.me o.d.toNat (fun i => if s.me.active o.y i then (r i).1 else (s.me.mask o.d.toNat).getLsbD i) ∧
        t.me.st = v.consume.me.st ||| word (((List.range 256).filter (s.me.active o.y)).foldl (fun n i => n ||| (r i).2) 0) ∧ t.mem = s.mem)

/-- Masks, permutes and moves (R161, R163, R164): every lane below vl of d takes the value that its rule picks from the old lanes; a lane at or above vl
reads as 0.
When lane instructions are performed is a reading of the model (log 76). -/
def Obligations.LaneMovesComplete : Prop :=
  (∀ (o : FmtVV) (s u : State) (w : Option Word), s.Starts (.vmskSel o) → vecOk o.a = true → vecOk o.d = true → s.LanesReady → s.Broadcast o.b w u →
    ∃ t, Completes (.vmskSel o) s t ∧ LanesTo u.me t.me o.d.toNat (fun i => decide (i < s.me.vl))
      (fun i => if (s.me.mask 0).getLsbD i then s.me.laneAt o.a.toNat i else s.me.laneB w o.b i)) ∧
  (∀ p ∈ [(Instr.vmskMand, fun a b => a && b), (.vmskMor, fun a b => a || b), (.vmskMxor, fun a b => a != b)], ∀ (o : FmtVV) (s : State), s.Starts (p.1 o) →
    maskOk o.a = true → maskOk o.b = true → maskOk o.d = true → s.LanesReady →
    ∃ t, Completes (p.1 o) s t ∧ MaskTo s.me t.me o.d.toNat (fun i => p.2 ((s.me.mask o.a.toNat).getLsbD i) ((s.me.mask o.b.toNat).getLsbD i))) ∧
  (∀ (o : FmtVA) (s : State), s.Starts (.vmskMnot o) → maskOk o.a = true → maskOk o.d = true → s.LanesReady →
    ∃ t, Completes (.vmskMnot o) s t ∧ MaskTo s.me t.me o.d.toNat (fun i => !(s.me.mask o.a.toNat).getLsbD i)) ∧
  (∀ (o : FmtVA) (s u : State) (a : Word), s.Starts (.vmskMset o) → maskOk o.d = true → s.LanesReady → s.Gives o.a false a u →
    ∃ t, Completes (.vmskMset o) s t ∧ MaskTo u.me t.me o.d.toNat (fun i => decide (i < a.toNat))) ∧
  (∀ p ∈ [(Instr.vpermBcast, fun (vl k : Nat) (a : Nat → Lane) (_ : Nat) => if k < vl then a k else 0),
      (.vpermShup, fun _ k a i => if k ≤ i then a (i - k) else 0), (.vpermShdn, fun vl k a i => if i + k < vl then a (i + k) else 0)],
    ∀ (o : FmtVV) (s u : State) (b : Word), s.Starts (p.1 o) → vecOk o.a = true → bcOk o.b = true → vecOk o.d = true → s.LanesReady →
    s.Gives (o.b - 32) false b u → ∃ t, Completes (p.1 o) s t ∧
      LanesTo u.me t.me o.d.toNat (fun i => decide (i < s.me.vl)) (p.2 s.me.vl b.toNat (s.me.laneAt o.a.toNat))) ∧
  (∀ (o : FmtVV) (s : State), s.Starts (.vpermPerm o) → vecOk o.a = true → vecOk o.b = true → vecOk o.d = true → s.LanesReady →
    ∃ t, Completes (.vpermPerm o) s t ∧ LanesTo s.me t.me o.d.toNat (fun i => decide (i < s.me.vl))
      (fun i => if (s.me.laneAt o.b.toNat i).toNat < s.me.vl then s.me.laneAt o.a.toNat (s.me.laneAt o.b.toNat i).toNat else 0)) ∧
  (∀ (o : FmtVA) (s : State), vecOk o.a = true → vecOk o.d = true → s.LanesReady →
    (s.Starts (.vpermComp o) → ∃ t, Completes (.vpermComp o) s t ∧ LanesTo s.me t.me o.d.toNat (fun i => decide (i < s.me.vl)) (fun i =>
      match ((List.range s.me.vl).filter (fun j => (s.me.mask 0).getLsbD j))[i]? with | some j => s.me.laneAt o.a.toNat j | none => 0)) ∧
    (s.Starts (.vpermExpd o) → ∃ t, Completes (.vpermExpd o) s t ∧ LanesTo s.me t.me o.d.toNat (fun i => decide (i < s.me.vl)) (fun i =>
      if (s.me.mask 0).getLsbD i then s.me.laneAt o.a.toNat ((List.range i).filter (fun j => (s.me.mask 0).getLsbD j)).length else 0))) ∧
  (∀ (o : FmtVB) (s : State), vecOk o.b = true → vecOk o.d = true → s.LanesReady →
    (s.Starts (.vpermRev o) → ∃ t, Completes (.vpermRev o) s t ∧
      LanesTo s.me t.me o.d.toNat (fun i => decide (i < s.me.vl)) (fun i => s.me.laneAt o.b.toNat (s.me.vl - 1 - i))) ∧
    (s.Starts (.vmovVmv o) → ∃ t, Completes (.vmovVmv o) s t ∧
      LanesTo s.me t.me o.d.toNat (fun i => decide (i < s.me.vl)) (fun i => s.me.laneAt o.b.toNat i))) ∧
  (∀ (o : FmtVV) (s u v : State) (a b : Word), s.Starts (.vmovStov o) → bcOk o.b = true → vecOk o.d = true → s.LanesReady → s.Gives o.a false a u →
    u.Gives (o.b - 32) false b v → ∃ t, Completes (.vmovStov o) s t ∧
      LanesTo v.me t.me o.d.toNat (fun i => decide (i = b.toNat ∧ i < s.me.vl)) (fun _ => a.setWidth 32))

/-- The lane forms with a scalar result (R104, R147, R161, R164, R165): the result is still to come, from the lanes as they stand; the tree of an integer sum
is the sum modulo 2^32, and that of a maximum bounds every participating lane. The reductions over a queue (R105, R166): with n entries there, the instruction consumes them in order and ends with their combination; with fewer it
consumes what is there, counts it in ISTATE and parks.
When lane instructions are performed is a reading of the model (log 76). -/
def Obligations.LaneReductionsAndMaskResults : Prop :=
  ((∀ p ∈ [(Instr.vmskMpop, fun (m : Strand) (a : Nat) => word ((List.range m.vl).countP (fun i => (m.mask a).getLsbD i))),
       (.vmskMfirst, fun m a => match (List.range m.vl).find? (fun i => (m.mask a).getLsbD i) with | some i => word i | none => BitVec.allOnes 64)],
     ∀ (o : FmtVA) (s : State), s.Starts (p.1 o) → maskOk o.a = true → dstOk o.d = true → s.accepts o.d = true → s.LanesReady → s.NoLoop →
       (∀ q ∈ s.me.pending, q.id ≠ s.serial) → ∃ t, exec (p.1 o) s = .next t ∧ t.mem = s.mem ∧ t.me.v = s.me.v ∧ t.me.m = s.me.m ∧ t.me.st = s.me.st ∧
         t.me.pending = s.me.pending ++ [⟨s.serial, o.d.toNat, p.2 s.me o.a.toNat, 0, 64, false, false, false, none, 0, 0⟩]) ∧
   (∀ (o : FmtVV) (s u : State) (b : Word), s.Starts (.vmovVtos o) → vecOk o.a = true → bcOk o.b = true → dstOk o.d = true → s.accepts o.d = true →
     s.LanesReady → s.NoLoop → (∀ q ∈ s.me.pending, q.id ≠ s.serial) → s.Gives (o.b - 32) false b u → ∃ t, exec (.vmovVtos o) s = .next t ∧ t.mem = s.mem ∧
       t.me.v = s.me.v ∧ t.me.pending = s.me.pending ++
         [⟨s.serial, o.d.toNat, if b.toNat < s.me.vl then (s.me.laneAt o.a.toNat b.toNat).setWidth 64 else 0, 0, 64, false, false, false, none, 0, 0⟩]) ∧
   (∀ p ∈ [(Instr.vredFsum, ROp.fsum), (.vredFmax, .fmax), (.vredFmin, .fmin), (.vredIsum, .isum), (.vredImax, .imax), (.vredImin, .imin)],
     ∀ (o : FmtVRed) (s v : State) (sc : Word), s.Begins (p.1 o) → vecOk o.a = true → dstOk o.d = true → redCodes p.2 s = true → s.accepts o.d = true →
       s.LanesReady → s.NoLoop → (∀ q ∈ s.me.pending, q.id ≠ s.serial) → s.scaleIs sc → v = s.tookScale sc →
       let r := p.2.reduce (s.me.gov 0 0 0 sc) ((List.range 256).map (fun i => if s.me.active o.y i then some (s.me.laneAt o.a.toNat i) else none))
       ∃ t, exec (p.1 o) s = .next t ∧ t.mem = s.mem ∧ t.me.v = s.me.v ∧ t.me.st = v.consume.me.st ||| word r.2 ∧
         t.me.pending = s.me.pending ++ [⟨s.serial, o.d.toNat, r.1, 0, 64, false, false, false, none, 0, 0⟩]) ∧
   (∀ (g : Gov) (l : List (Option Lane)), l.length = 256 →
     ROp.reduce .isum g l = (((l.filterMap id).foldl (· + ·) 0).signExtend 64, 0) ∧
     (∀ x, some x ∈ l → x.toInt ≤ (ROp.reduce .imax g l).1.toInt ∧ (ROp.reduce .imin g l).1.toInt ≤ x.toInt) ∧
     ((∃ x, some x ∈ l) → ∃ x y, some x ∈ l ∧ some y ∈ l ∧ (ROp.reduce .imax g l).1 = x.signExtend 64 ∧ (ROp.reduce .imin g l).1 = y.signExtend 64) ∧
     ((∀ x ∈ l, x = none) → ROp.reduce .fsum g l = (0, 0) ∧ ROp.reduce .fmax g l = (word (infCode g.fd true), 0) ∧
       ROp.reduce .fmin g l = (word (infCode g.fd false), 0)))) ∧
  (∀ p ∈ [(Instr.vredFsumQ, ROp.fsum), (.vredFmaxQ, .fmax), (.vredFminQ, .fmin), (.vredIsumQ, .isum), (.vredImaxQ, .imax), (.vredIminQ, .imin)],
     ∀ (o : FmtVV) (s u v : State) (b sc : Word) (q n : Nat) (x : Queue), s.Begins (p.1 o) → queueOk o.a = true → bcOk o.b = true → dstOk o.d = true →
       redCodes p.2 s = true → s.accepts o.d = true → s.Gives (o.b - 32) false b u → u.scaleIs sc → v = u.tookScale sc → s.me.istate1.getLsbD 63 = false →
       q = o.a.toNat - 48 → n = bitsOf b 0 48 → x = v.myCore.queue q → x.admits v.slot false = true → x.poppers = [] →
       let g := s.me.gov 0 0 0 sc
       let vals := (List.range x.entries.length).map (fun i => if x.marks.getD i false then 0 else x.entries.getD i 0)
       let run := fun (es : List Word) => es.foldl (fun m e => Strand.combine m p.2 g e) { v.me with istate1 := word (2 ^ 63), istate0 := p.2.empty g }
       (n ≤ x.entries.length →
         let r := run (vals.take n)
         let w := ((x.marks.take n).filter id).foldl (fun (t : State) _ => t.countPoison t.core t.slot t.me.sag)
           ((v.modMe (fun _ => r)).modMyCore (fun c => c.modQueue q (fun x => { x with entries := x.entries.drop n, marks := x.marks.drop n, poppers := [] })))
         w.room o.d = true → Completes (p.1 o) s ((w.put o.d r.istate0).modMe (fun m => { (if m.prefixed then m.dropPrefix else m) with istate1 := 0 }))) ∧
       (x.entries.length < n → ∃ t, exec (p.1 o) s = .next t ∧ t.me.status = .parked (.pop q) ∧ t.me.istate0 = (run vals).istate0 ∧
         t.me.istate1 = (run vals).istate1 ∧ (t.myCore.queue q).entries = [] ∧ (t.myCore.queue q).poppers = [s.slot] ∧ t.mem = s.mem))

/-- Lane claims (R149, R150, R151, R261, R262): a first claim is granted what is free, or joins the pool's waiters while no group is free or others wait, of
whom the first is granted what is free; claims of one arithmetic cycle are taken and stand there by core number, then slot, and one that comes behind a claim of a later place is held to a later
cycle; a holder shrinks or
grows at once; `lane.rel` returns every lane; a pending shrink takes effect at `lane.sync` and at re-negotiation points.
How claims are counted while a shrink is due, and in which cycle a claim arrives, are readings of the model (log 32, log 125). -/
def Obligations.LaneClaimsComplete : Prop :=
  (∀ (o : FmtVA) (s u : State) (a : Word), s.Starts (.laneClaim o) → dstOk o.d = true → s.accepts o.d = true → s.Gives o.a false a u →
    let late := s.tooLate (s.clusterAt s.myCluster).lastClaim s.myRank
    let c := u.modCluster u.myCluster (fun c => { c with lastClaim := (s.poolCycle, s.myRank) })
    ((a.toNat < 1 ∨ 16 < a.toNat) → Traps (.laneClaim o) s u 22 a) ∧
    (1 ≤ a.toNat → a.toNat ≤ 16 → s.me.g ≤ a.toNat → late = true → exec (.laneClaim o) s = .next (u.modMe (fun m => { m with status := .held }))) ∧
    (1 ≤ a.toNat → a.toNat ≤ 16 → s.me.g = 0 → late = false → (s.clusterAt s.myCluster).claimants = [] → u.resumes u.myCluster = false → 0 < u.freeGroups u.myCluster →
      let g := min a.toNat (u.freeGroups u.myCluster)
      let v := (c.modMe (fun m => { m with g := g, v := [], m := [] })).poolEvent u.myCluster
      v.room o.d = true → Completes (.laneClaim o) s (v.put o.d (word g))) ∧
    (1 ≤ a.toNat → a.toNat ≤ 16 → s.me.g = 0 → late = false →
      ((s.clusterAt s.myCluster).claimants ≠ [] ∨ u.resumes u.myCluster = true ∨ u.freeGroups u.myCluster = 0) → ∃ t, exec (.laneClaim o) s = .next t ∧ t.me.status = .parked .lane ∧ t.me.stage = 9 ∧ t.me.work = [o.d.toNat] ∧
      (t.clusterAt s.myCluster).claimants = Claimant.join ⟨s.myRef, a.toNat, s.time * 5 / 4⟩ (s.clusterAt s.myCluster).claimants ∧
      (t.clusterAt s.myCluster).lastClaim = (s.poolCycle, s.myRank) ∧ t.mem = s.mem) ∧
    (1 ≤ a.toNat → a.toNat ≤ 16 → a.toNat < s.me.g → s.me.laneQ = [] → s.me.laneLoads = 0 →
      let v := (u.modMe (fun m => { m.dropGroups a.toNat with shrink := match m.shrink with | some t => if a.toNat ≤ t then none else some t | none => none })).poolEvent
        u.myCluster
      v.room o.d = true → Completes (.laneClaim o) s (v.put o.d a)) ∧
    (s.me.g ≠ 0 → s.me.g ≤ a.toNat → a.toNat ≤ 16 → late = false → s.me.laneQ = [] → s.me.laneLoads = 0 →
      let g := s.me.g + min (a.toNat - s.me.g) (if (u.clusterAt u.myCluster).claimants = [] then u.freeGroups u.myCluster else 0)
      let v := c.modMe (fun m => { m with g := g })
      v.room o.d = true → Completes (.laneClaim o) s (v.put o.d (word g)))) ∧
  (∀ (x : Claimant) (l : List Claimant), (∀ y, y ∈ Claimant.join x l ↔ y = x ∨ y ∈ l) ∧
    ((∀ y ∈ l, y.cycle < x.cycle) → Claimant.join x l = l ++ [x]) ∧
    (∀ pre y post, l = pre ++ y :: post → (∀ z ∈ pre, z.cycle < x.cycle ∨ (z.cycle = x.cycle ∧ 16 * z.who.core + z.who.slot ≤ 16 * x.who.core + x.who.slot)) →
      y.cycle = x.cycle → x.who.core < y.who.core → (∀ z ∈ l, z.who.slot < 16) → x.who.slot < 16 → Claimant.join x l = pre ++ x :: y :: post)) ∧
  (∀ (cl : Nat) (s : State) (c : Claimant) (rest : List Claimant), (s.clusterAt cl).claimants = c :: rest → s.freeGroups cl ≠ 0 → s.relocking c.who.core = false →
    (∀ i, i < 8 → (s.coreAt (8 * cl + i)).saved = none ∨ (s.coreAt (8 * cl + i)).halting = false) → ∃ t, exec (.laneGrant cl) s = .next t ∧
      (t.strandOf c.who).g = min c.n (s.freeGroups cl) ∧ (t.strandOf c.who).v = [] ∧ (t.strandOf c.who).m = [] ∧
      (t.strandOf c.who).reply = some ⟨word (min c.n (s.freeGroups cl)), [], 0⟩ ∧ (t.clusterAt cl).claimants = rest ∧ t.mem = s.mem) ∧
  (∀ s : State, s.Starts .laneRel → (s.me.g = 0 → Completes .laneRel s s) ∧ (s.me.laneQ = [] → s.me.laneLoads = 0 → s.me.g ≠ 0 →
    Completes .laneRel s ((s.modMe (fun m => { m.dropGroups 0 with shrink := none })).poolEvent s.myCluster))) ∧
  (∀ s : State, s.Starts .laneSync → (s.me.shrink = none ∨ (s.me.laneQ = [] ∧ s.me.laneLoads = 0)) → Completes .laneSync s (s.shrinkNow s.core s.slot)) ∧
  (∀ (o : FmtDst) (s : State), s.Starts (.laneQuery o) → dstOk o.d = true → s.accepts o.d = true → Later (.laneQuery o) s { s with serial := s.serial + 1 }
    ⟨s.serial, o.d.toNat, word (s.me.g + s.freeGroups s.myCluster * 2 ^ 8 + min 128 (s.clusterAt s.myCluster).claimants.length * 2 ^ 16 +
      (if s.me.shrink = none then 0 else 2 ^ 24)), 0, 64, false, false, false, none, 0, 0⟩) ∧
  (∀ (r : StrandRef) (s : State), (s.strandOf r).live = true → (s.strandOf r).rnWait = true → exec (.shrinkTakesEffect r) s = .next (s.shrinkNow r.core r.slot)) ∧
  (∀ (c k n : Nat) (s : State), (s.strandAt c k).shrink = some n → n < (s.strandAt c k).g → (s.strandAt c k).laneQ = [] → (s.strandAt c k).laneLoads = 0 →
    (s.clusterAt (clusterOf c)).claimants = [] → ((s.shrinkNow c k).strandAt c k).g = n ∧ ((s.shrinkNow c k).strandAt c k).shrink = none)

/-- Lane memory (R167 to R170): the active lanes' elements are checked in ascending order before any is performed; a load sends one read for each, and
where poison traps are elected its strand awaits the data (log 94), and a store sends one write for each. When the last data of a lane load have come its
lanes are written, a poisoned element as 0; where poison traps are elected the first poisoned element instead raises POISON, and no lane changes. -/
def Obligations.LaneMemoryCompletes : Prop :=
  (∀ (o : FmtVM) (s u t : State) (a : Word) (n : Nat) (ps : List (Nat × Place × Nat)), s.Starts (.vld o) → vecOk o.d = true → s.LanesReady →
    s.acquirePending = false → s.Gives o.a false a u → n = 2 ^ o.sz.toNat →
    AdmitsAll (elementCheck .load n (a + o.o.signExtend 64 * word n))
      (s.me.activeLanes false (fun i => a + o.o.signExtend 64 * word n + word (i * n))) u ps t → t.myCore.replay = [] → t.net = [] → t.requestRoom 1 = true →
    ∃ w, (if t.poisonTraps = true ∧ ps ≠ [] then Awaits (.vld o) s w 56 else Completes (.vld o) s w) ∧ w.me.laneLoads = ps.length ∧ w.net.map (fun m => (m.loc, m.size, m.body)) =
        ps.map (fun e => (e.2.1.loc, n, Body.load (.lane o.d.toNat e.1 0 (8 * n) 0))) ∧ w.mem = t.mem) ∧
  (∀ (o : FmtVM) (s u t : State) (a : Word) (n : Nat) (ps : List (Nat × Place × Nat)), s.Starts (.vst o) → vecOk o.d = true → s.LanesReady →
    s.acquirePending = false → s.Gives o.a false a u → n = 2 ^ o.sz.toNat →
    AdmitsAll (elementCheck .store n (a + o.o.signExtend 64 * word n))
      (s.me.activeLanes false (fun i => a + o.o.signExtend 64 * word n + word (i * n))) u ps t → (2 ≤ o.c.toNat → t.releaseOk (o.c.toNat - 2) = true) →
    t.myCore.replay = [] → t.net = [] → t.requestRoom 1 = true → (∀ e ∈ ps, e.2.1.replay = none) →
    ∃ w, Completes (.vst o) s w ∧ w.net.map (fun m => (m.loc, m.size, m.body)) =
        ps.map (fun e => (e.2.1.loc, n, Body.store (toBytes n (s.me.laneAt o.d.toNat e.1).toNat))) ∧ w.mem = t.mem ∧ w.me.v = s.me.v) ∧
  (∀ p ∈ [(Instr.vlds, true), (.vgat, false)], ∀ (o : FmtV) (s u v t : State) (a b : Word) (ps : List (Nat × Place × Nat)), s.Starts (p.1 o) →
    vecOk o.d = true → s.LanesReady → s.acquirePending = false → s.Gives o.a false a u →
    (if p.2 then bcOk o.b = true ∧ u.Gives (o.b - 32) false b v else vecOk o.b = true ∧ v = u) →
    AdmitsAll (elementCheck .load 4 a) (s.me.activeLanes o.y (fun i =>
      if p.2 then a + word i * b else a + 4 * (s.me.laneAt o.b.toNat i).signExtend 64)) v ps t → t.myCore.replay = [] → t.net = [] → t.requestRoom 1 = true →
    ∃ w, (if t.poisonTraps = true ∧ ps ≠ [] then Awaits (p.1 o) s w 56 else Completes (p.1 o) s w) ∧ w.me.laneLoads = ps.length ∧ w.net.map (fun m => (m.loc, m.size, m.body)) =
        ps.map (fun e => (e.2.1.loc, 4, Body.load (.lane o.d.toNat e.1 0 32 0))) ∧ w.mem = t.mem) ∧
  (∀ p ∈ [(Instr.vsts, true), (.vsca, false)], ∀ (o : FmtV) (s u v t : State) (a b : Word) (ps : List (Nat × Place × Nat)), s.Starts (p.1 o) →
    vecOk o.d = true → s.LanesReady → s.acquirePending = false → s.Gives o.a false a u →
    (if p.2 then bcOk o.b = true ∧ u.Gives (o.b - 32) false b v else vecOk o.b = true ∧ v = u) →
    AdmitsAll (elementCheck .store 4 a) (s.me.activeLanes o.y (fun i =>
      if p.2 then a + word i * b else a + 4 * (s.me.laneAt o.b.toNat i).signExtend 64)) v ps t → t.myCore.replay = [] → t.net = [] → t.requestRoom 1 = true →
    (∀ e ∈ ps, e.2.1.replay = none) → ∃ w, Completes (p.1 o) s w ∧ w.net.map (fun m => (m.loc, m.size, m.body)) =
        ps.map (fun e => (e.2.1.loc, 4, Body.store (toBytes 4 (s.me.laneAt o.d.toNat e.1).toNat))) ∧ w.mem = t.mem ∧ w.me.v = s.me.v) ∧
  (∀ (o : FmtVBit) (s u t : State) (a : Word) (w : Nat) (ps : List (Nat × Place × Nat)), s.Starts (.vldb o) → vecOk o.d = true → s.LanesReady →
    s.acquirePending = false → s.Gives o.a false a u → w = o.w.toNat + 1 →
    (bitsOf a 60 4 ≠ 8 → bitsOf a 60 4 ≠ 9 → Traps (.vldb o) s u 8 a) ∧
    ((bitsOf a 60 4 = 8 ∨ bitsOf a 60 4 = 9) → AdmitsAll (bitElement .load w a) (s.me.bitLanes o.y a w) u ps t → t.myCore.replay = [] → t.net = [] → t.requestRoom 1 = true →
      ∃ x, (if t.poisonTraps = true ∧ ps ≠ [] then Awaits (.vldb o) s x 56 else Completes (.vldb o) s x) ∧ x.net.map (fun m => (m.loc, m.body)) = ps.flatMap (fun e => (bankWords e.2.2 w).map (fun b =>
        (e.2.1.loc + b.1, Body.load (.lane o.d.toNat e.1 b.2.1 b.2.2.1 b.2.2.2)))) ∧ x.me.laneLoads = x.net.length ∧ x.mem = t.mem)) ∧
  (∀ (o : FmtVBit) (s u t : State) (a : Word) (w : Nat) (ps : List (Nat × Place × Nat)), s.Starts (.vstb o) → vecOk o.d = true → s.LanesReady →
    s.acquirePending = false → s.Gives o.a false a u → w = o.w.toNat + 1 → (bitsOf a 60 4 = 8 ∨ bitsOf a 60 4 = 9) →
    AdmitsAll (bitElement .store w a) (s.me.bitLanes o.y a w) u ps t → t.myCore.replay = [] → t.net = [] → t.requestRoom 1 = true → (∀ e ∈ ps, e.2.1.replay = none) →
    ∃ x, Completes (.vstb o) s x ∧ x.net.map (fun m => (m.loc, m.body)) = ps.flatMap (fun e => (bankWords e.2.2 w).map (fun b =>
      (e.2.1.loc + b.1, Body.bits (BitVec.ofNat 32 ((s.me.laneAt o.d.toNat e.1).toNat / 2 ^ b.2.1 % 2 ^ b.2.2.1 * 2 ^ b.2.2.2))
        (BitVec.ofNat 32 ((2 ^ b.2.2.1 - 1) * 2 ^ b.2.2.2)) (decide (0 < b.2.1))))) ∧ x.mem = t.mem) ∧
  (∀ (r : StrandRef) (k id uid d i sh n lo : Nat) (s : State) (v : Word) (bad : Option Nat),
    s.acks[k]? = some ⟨id, r.core, r.slot, uid, .data (.lane d i sh n lo) v bad, true⟩ → s.alive r.core r.slot uid = true → (s.strandOf r).dying = false → s.relocking r.core = false →
    (s.strandOf r).laneLoads = 1 → (s.strandOf r).laneQ = [] → Tbl.sortedFrom 0 (s.strandOf r).v = true → Tbl.sortedFrom 0 (s.strandOf r).laneIn = true →
    let ins := Tbl.upd (s.strandOf r).laneIn (d * 256 + i) ⟨0, false, 0⟩
      (fun e => { e with val := e.val ||| BitVec.ofNat 32 (v.toNat / 2 ^ lo % 2 ^ n * 2 ^ sh), bad := e.bad || bad.isSome })
    ((s.elects (s.strandOf r).sag = false ∨ ∀ e ∈ ins, e.2.bad = false) → ∃ t, exec (.loadDataReturn r k) s = .next t ∧ t.mem = s.mem ∧
      (t.strandOf r).laneLoads = 0 ∧ (t.strandOf r).laneIn = [] ∧
      ∀ g j, j < 256 → (t.strandOf r).laneAt g j = match Tbl.find ins (g * 256 + j) with | some e => if e.bad then 0 else e.val | none => (s.strandOf r).laneAt g j) ∧
    (∀ e rest, s.elects (s.strandOf r).sag = true → ins.filter (fun e => e.2.bad) = e :: rest → ∃ t, exec (.loadDataReturn r k) s = .next t ∧ t.mem = s.mem ∧
      (t.strandOf r).v = (s.strandOf r).v ∧ (t.strandOf r).reply = some ⟨e.2.addr, [], 14⟩))

/-! Messages, barriers, task queues and signals. -/

/-- Messages, puts and multicast (R151, R193 to R196, R415): `send`, `put` and `mput` leave one message in flight, class 3 for a credit; `recv` takes the oldest
message or parks; the mailbox, the dword and its counter are written on arrival.
The first class-3 credit, and that `mput` with MASK 0 checks nothing more, are the model's (log 28, log 38). -/
def Obligations.MessagesComplete : Prop :=
  (∀ (o : FmtSend) (s u v : State) (a b : Word) (c : Nat), s.Starts (.send o) → s.acquirePending = false → s.Gives o.a o.x a u → u.Gives o.b o.y b v →
    (v.coreNamed a true = none → Traps (.send o) s v 7 a) ∧
    (v.coreNamed a true = some c → v.releaseOk 2 = true → v.requestRoom 1 = true →
      (o.t ≠ 3 → Completes (.send o) s (v.post o.t.toNat 0 0 0 8 ⟨.core, c, 0⟩ (.mail (bitsOf a 0 2) b))) ∧
      (o.t = 3 → v.myCore.creditNow v.credits = 0 → exec (.send o) s = .next (v.modMe (fun m => { m with status := .held }))) ∧
      (o.t = 3 → v.myCore.creditNow v.credits ≠ 0 → Completes (.send o) s
        ((v.modMyCore (fun c => { c with credit := c.creditNow v.credits - 1, creditAt := v.credits })).post 3 0 0 0 8 ⟨.core, c, 0⟩ (.mail (bitsOf a 0 2) b))))) ∧
  (∀ (o : FmtUn) (s u : State) (a : Word), s.Starts (.recv o) → s.acquirePending = false → dstOk o.d = true → s.accepts o.d = true → s.Gives o.a o.x a u →
    (s.myCore.mailbox (bitsOf a 0 2) = [] →
      exec (.recv o) s = .next ((u.renegotiate true).modMe (fun m => { m with status := .parked (.recv (bitsOf a 0 2)) }))) ∧
    (∀ x rest, s.myCore.mailbox (bitsOf a 0 2) = x :: rest →
      let w := (u.modMyCore (fun c => c.setMail (bitsOf a 0 2) rest)).renegotiate false
      w.room o.d = true → Completes (.recv o) s (w.put o.d x))) ∧
  (∀ (o : FmtDst) (s : State), s.Starts (.rprobe o) → dstOk o.d = true → s.room o.d = true →
    let n := fun k => (s.myCore.mailbox k).length
    Completes (.rprobe o) s (s.put o.d (word (n 0 + n 1 * 2 ^ 8 + n 2 * 2 ^ 16 + n 3 * 2 ^ 24)))) ∧
  (∀ (o : FmtPut) (s u v w : State) (a b d : Word) (ad : Addr), s.Starts (.put o) → s.acquirePending = false → s.me.pend < 16 → s.Gives o.a o.x a u →
    u.Gives o.b o.y b v → v.Gives o.d false d w → resolve w w.myCluster w.me.sag a 8 = some ad → ad.isGlobal = false → a.toNat % 8 = 0 →
    (∀ j, o.d.toNat = 56 → w.putLocked ad = some j → Traps (.put o) s w 13 (a + word j)) ∧
    (w.putLocked ad = none → w.crosses false (homeOf ad.loc) ad.loc 8 = false → w.requestRoom 1 = true → w.parkedPage ad.named = none → o.t ≠ 3 →
      (o.d.toNat = 56 → Completes (.put o) s ((w.post o.t.toNat 0 ad.named ad.loc 8 (homeOf ad.loc) (.put b none)).modMe (fun m => { m with pend := m.pend + 1 }))) ∧
      (∀ cd, o.d.toNat ≠ 56 → resolve w w.myCluster w.me.sag d 8 = some cd → cd.isGlobal = false → d.toNat % 8 = 0 →
        (cd.cluster ≠ ad.cluster → Traps (.put o) s w 7 d) ∧
        (cd.cluster = ad.cluster → w.putLocked cd = none → Completes (.put o) s
          ((w.post o.t.toNat 0 ad.named ad.loc 8 (homeOf ad.loc) (.put b (some cd.loc))).modMe (fun m => { m with pend := m.pend + 1 })))))) ∧
  (∀ (o : FmtPut) (s u v w t : State) (a b d : Word) (r : List Word), s.Starts (.mput o) → s.acquirePending = false → s.me.pend < 16 → s.Gives o.a o.x a u →
    u.Gives o.b o.y b v → v.Gives o.d false d w → Reads 3 a 2 w r t →
    (r.getD 1 0 = 0 → Completes (.mput o) s t) ∧
    (∀ (cs : List Nat) (c0 : Nat) (ad cd : Addr), r.getD 1 0 ≠ 0 → (bitsOf (r.getD 0 0) 60 4 = 8 ∨ bitsOf (r.getD 0 0) 60 4 = 9) →
      (snake (r.getD 1 0)).map (fun p => t.meshCluster ((t.originOf (r.getD 0 0)).1 + p.1) ((t.originOf (r.getD 0 0)).2 + p.2)) = cs.map some →
      cs.head? = some c0 → resolve t t.myCluster t.me.sag (atCluster (r.getD 0 0) c0) 8 = some ad → ad.isGlobal = false →
      (atCluster (r.getD 0 0) c0).toNat % 8 = 0 →
      (o.d.toNat ≠ 56 → (bitsOf d 60 4 = 8 ∨ bitsOf d 60 4 = 9) ∧ resolve t t.myCluster t.me.sag (atCluster d c0) 8 = some cd ∧ cd.isGlobal = false ∧
        (atCluster d c0).toNat % 8 = 0) →
      t.requestRoom 1 = true → t.net = [] → o.t ≠ 3 →
      let loc := fun (w : Word) (cl : Nat) => match resolve t t.myCluster t.me.sag (atCluster w cl) 8 with | some x => x.loc | none => 0
      let l := loc (r.getD 0 0) c0
      Completes (.mput o) s ((t.post o.t.toNat 0 0 l 8 (homeOf l) (.mput b (cs.map (fun cl => (loc (r.getD 0 0) cl,
        if o.d.toNat = 56 then none else some (loc d cl)))))).modMe (fun m => { m with pend := m.pend + 1 })))) ∧
  (∀ (k : Nat) (s : State) (m : Msg) (box : Nat) (x : Word), s.net[k]? = some m → m.body = .mail box x →
    s.relocking m.home.unit = false → s.misrouted m = false → s.mailBehind k m box = false → s.unsent k m = false → s.mailOpen m.home.unit box = true →
    exec (.messageArrival k) s =
      .next (((s.dropMsg k).modCore m.home.unit (fun c => c.setMail box (c.mailbox box ++ [x]))).wakeUnit m.home.unit)) ∧
  (∀ (k : Nat) (s : State) (m : Msg) (x : Word) (c : Option Nat), s.net[k]? = some m → m.body = .put x c → s.barred k m = false → (∀ h ∈ m.homes, s.awakeAt h = true) →
    s.mustPark m = false → s.sentAway m = false → spaceOf m.loc ≠ 3 → exec (.putDelivery k) s = .next (((s.dropMsg k).putAt m.sag x m.loc c).answer m .update)) ∧
  (∀ (k : Nat) (s : State) (m : Msg) (x : Word) (e : Nat × Option Nat), s.net[k]? = some m → s.barred k m = false → (∀ h ∈ m.homes, s.awakeAt h = true) →
    (m.body = .mput x [e] → exec (.mputVisit k) s = .next (((s.putAt m.sag x e.1 e.2).dropMsg k).answer m .update)) ∧
    (∀ e' rest, m.body = .mput x (e :: e' :: rest) → ∃ t, exec (.mputVisit k) s = .next t ∧ t.mem = (s.putAt m.sag x e.1 e.2).mem ∧
      t.net = setAt s.net k { m with loc := e'.1, home := homeOf e'.1, body := .mput x (e' :: rest) })) ∧
  (∀ (s : State) (g : Nat) (x : Word) (l c : Nat), s.Canonical → (c + 8 ≤ l ∨ l + 8 ≤ c) →
    (s.putAt g x l none).dword l = x ∧ (s.putAt g x l (some c)).dword l = x ∧
    (s.anyPoison c 8 = false → (∀ i, i < 8 → Tbl.find s.errs (poisonWord (c + i)) = none) → (s.putAt g x l (some c)).dword c = s.dword c + 1) ∧
    (∀ a, (a < l ∨ l + 8 ≤ a) → (a < c ∨ c + 8 ≤ a) → (s.putAt g x l (some c)).byte a = s.byte a))

/-- Named barriers (R197, R198, R265, R266): what each operation does to a barrier of the own core and to its waiters, what the strand then does, and
that an operation on another core's barrier travels there.
That `bar.init` and `bar.inval` at another core are posted, that a met wait re-negotiates, and that barrier messages keep their order are the model's (log 47,
log 48, log 92). -/
def Obligations.BarriersComplete : Prop :=
  (∀ (s : State) (c k : Nat) (who : StrandRef) (uid : Nat) (b : Bar), (s.coreAt c).bar k = b →
    (∀ n, n ≠ 0 → (s.barApply c k (.init n) who uid).1 = some 0 ∧ (((s.barApply c k (.init n) who uid).2).coreAt c).bar k = ⟨1, n, 0, 0, []⟩) ∧
    ((s.barApply c k .inval who uid).1 = some 0 ∧ (((s.barApply c k .inval who uid).2).coreAt c).bar k = { b with st := 2, a := 0, waiters := [] }) ∧
    s.barApply c k .query who uid = (some (word (b.st * 2 ^ 48 + b.ph * 2 ^ 32 + b.n * 2 ^ 16 + b.a)), s) ∧
    (b.st ≠ 1 → s.barApply c k .arrive who uid = (some (word (2 ^ 63 + b.ph)), s) ∧ s.barApply c k .arrwait who uid = (some 1, s)) ∧
    (b.st = 1 → b.a + 1 ≠ b.n → s.barApply c k .arrive who uid = (some (word b.ph), s.modCore c (fun x => x.setBar k { b with a := b.a + 1 })) ∧
      ∃ t, s.barApply c k .arrwait who uid = (none, t) ∧ (t.coreAt c).bar k = { b with a := b.a + 1, waiters := b.waiters ++ [(who, uid)] }) ∧
    (b.st = 1 → b.a + 1 = b.n → b.ph < 65536 → (s.barApply c k .arrive who uid).1 = some (word b.ph) ∧ (s.barApply c k .arrwait who uid).1 = some 0 ∧
      (((s.barApply c k .arrive who uid).2).coreAt c).bar k = { b with a := 0, ph := (b.ph + 1) % 65536, waiters := [] } ∧
      (∀ w ∈ b.waiters, w.1.core = c → s.alive w.1.core w.1.slot w.2 = true →
        (((s.barApply c k .arrive who uid).2).strandOf w.1).reply = some ⟨0, [], 0⟩)) ∧
    (∀ p, (b.st ≠ 1 → s.barApply c k (.wait p) who uid = (some 1, s)) ∧ (b.st = 1 → b.ph ≠ p → s.barApply c k (.wait p) who uid = (some 0, s)) ∧
      (b.st = 1 → b.ph = p → s.barApply c k (.wait p) who uid = (none, s.modCore c (fun x => x.setBar k { b with waiters := b.waiters ++ [(who, uid)] }))))) ∧
  (∀ (o : FmtTwo) (s u v : State) (a b : Word) (c k : Nat), s.Starts (.barInit o) → s.acquirePending = false → s.Gives o.a o.x a u → u.Gives o.b o.y b v →
    v.barNamed a = some (c, k) → bitsOf b 0 16 ≠ 0 →
    (c = s.core → Completes (.barInit o) s (v.barApply c k (.init (bitsOf b 0 16)) v.myRef v.me.uid).2) ∧
    (c ≠ s.core → Completes (.barInit o) s (v.post 1 0 0 0 0 ⟨.core, c, 0⟩ (.bar k (.init (bitsOf b 0 16)))))) ∧
  (∀ (o : FmtSrc) (s u : State) (a : Word) (c k : Nat), s.Starts (.barInval o) → s.acquirePending = false → s.Gives o.a o.x a u → u.barNamed a = some (c, k) →
    (c = s.core → Completes (.barInval o) s (u.barApply c k .inval u.myRef u.me.uid).2) ∧
    (c ≠ s.core → Completes (.barInval o) s (u.post 1 0 0 0 0 ⟨.core, c, 0⟩ (.bar k .inval)))) ∧
  (∀ p ∈ [(Instr.barArrive, BarOp.arrive), (.barQuery, .query)], ∀ (o : FmtUn) (s u t : State) (a x : Word) (c k : Nat), s.Starts (p.1 o) →
    s.acquirePending = false → dstOk o.d = true → s.accepts o.d = true → s.Gives o.a o.x a u → u.barNamed a = some (c, k) → u.releaseOk 2 = true →
    (c = s.core → u.barApply c k p.2 u.myRef u.me.uid = (some x, t) → t.room o.d = true → Completes (p.1 o) s (t.put o.d x)) ∧
    (c ≠ s.core → Awaits (p.1 o) s (u.post 1 0 0 0 0 ⟨.core, c, 0⟩ (.bar k p.2)) o.d.toNat)) ∧
  (∀ (o : FmtUn) (s u t : State) (a x : Word) (c k : Nat), s.Starts (.barArrwait o) → s.acquirePending = false → dstOk o.d = true → s.accepts o.d = true →
    s.Gives o.a o.x a u → u.barNamed a = some (c, k) → u.releaseOk 2 = true →
    (c = s.core → u.barApply c k .arrwait u.myRef u.me.uid = (some x, t) → (t.renegotiate false).room o.d = true →
      Completes (.barArrwait o) s ((t.renegotiate false).put o.d x)) ∧
    (c = s.core → u.barApply c k .arrwait u.myRef u.me.uid = (none, t) → exec (.barArrwait o) s =
      .next ((t.renegotiate true).modMe (fun m => { m with stage := 9, work := [o.d.toNat], status := .parked .barrier }))) ∧
    (c ≠ s.core → Awaits (.barArrwait o) s ((u.post 1 0 0 0 0 ⟨.core, c, 0⟩ (.bar k .arrwait)).renegotiate true) o.d.toNat)) ∧
  (∀ (o : FmtA) (s u v t : State) (a b x : Word) (c k : Nat), s.Starts (.barWait o) → s.acquirePending = false → dstOk o.d = true → s.accepts o.d = true →
    s.Gives o.a o.x a u → u.Gives o.b o.y b v → v.barNamed a = some (c, k) →
    (c = s.core → v.barApply c k (.wait (bitsOf b 0 16)) v.myRef v.me.uid = (some x, t) → (t.renegotiate false).room o.d = true →
      Completes (.barWait o) s ((t.renegotiate false).put o.d x)) ∧
    (c = s.core → v.barApply c k (.wait (bitsOf b 0 16)) v.myRef v.me.uid = (none, t) → exec (.barWait o) s =
      .next ((t.renegotiate true).modMe (fun m => { m with stage := 9, work := [o.d.toNat], status := .parked .barrier }))) ∧
    (c ≠ s.core → Awaits (.barWait o) s ((v.post 1 0 0 0 0 ⟨.core, c, 0⟩ (.bar k (.wait (bitsOf b 0 16)))).renegotiate true) o.d.toNat)) ∧
  (∀ (j : Nat) (s t : State) (m : Msg) (k : Nat) (op : BarOp) (x : Word), s.net[j]? = some m → m.body = .bar k op → s.barred j m = false → s.relocking m.home.unit = false →
    ¬(s.nextBeat m.home.unit - 1 = (s.coreAt m.home.unit).barLast.1 ∧ m.core < (s.coreAt m.home.unit).barLast.2) →
    let u := ((s.wakeUnit m.home.unit).dropMsg j).modCore m.home.unit (fun c => { c with barLast := (s.nextBeat m.home.unit - 1, m.core) })
    (u.barApply m.home.unit k op ⟨m.core, m.slot⟩ m.uid = (none, t) →
      exec (.remoteBarOp j) s = .next (t.modIssuer m (fun y => { y with status := .parked .barrier }))) ∧
    (u.barApply m.home.unit k op ⟨m.core, m.slot⟩ m.uid = (some x, t) →
      ((op = .inval ∨ ∃ n, op = .init n) → exec (.remoteBarOp j) s = .next t) ∧ (op = .arrive → exec (.remoteBarOp j) s = .next (t.replyTo m x))))

/-- Copy tags (R199, R281): the two waits end with the ready masked tags and park before; `tagw.ffr` finds the lowest; `tagw.clr` clears the ready bits of
the masked tags that are idle. `jwait` (R214, R215): the status of a job id, expired unless it is among the 64 newest; `sleep` and `any` park while the jobs are pending; an id that no job
has had traps JOB_ID. -/
def Obligations.CopyTagsAndJobWaits : Prop :=
  ((∀ (o : FmtUn) (s u : State) (a : Word), dstOk o.d = true → s.accepts o.d = true → s.Gives o.a o.x a u →
     (s.Starts (.tagwWaitany o) →
       ((a = 0 ∨ s.myCore.tags &&& a ≠ 0) → u.room o.d = true → Completes (.tagwWaitany o) s (u.put o.d (s.myCore.tags &&& a))) ∧
       (a ≠ 0 → s.myCore.tags &&& a = 0 → exec (.tagwWaitany o) s = .next (u.modMe (fun m => { m with status := .parked (.tag a false) })))) ∧
     (s.Starts (.tagwWaitall o) → (s.myCore.tags &&& a = a → u.room o.d = true → Completes (.tagwWaitall o) s (u.put o.d a)) ∧
       (s.myCore.tags &&& a ≠ a → exec (.tagwWaitall o) s = .next (u.modMe (fun m => { m with status := .parked (.tag a true) })))) ∧
     (s.Starts (.tagwFfr o) → u.room o.d = true → ∃ x, Completes (.tagwFfr o) s (u.put o.d x) ∧ (a &&& s.myCore.tags = 0 → x = BitVec.allOnes 64) ∧
       (a &&& s.myCore.tags ≠ 0 → (a &&& s.myCore.tags).getLsbD x.toNat = true ∧ ∀ j, j < x.toNat → (a &&& s.myCore.tags).getLsbD j = false))) ∧
   (∀ (o : FmtSrc) (s u : State) (a : Word), s.Starts (.tagwClr o) → s.Gives o.a o.x a u → ∃ x, Completes (.tagwClr o) s (u.modMyCore (fun c => { c with tags := x })) ∧
     ∀ j, j < 64 → x.getLsbD j = (s.myCore.tags.getLsbD j && !(a.getLsbD j && s.myCore.tagIdle j)))) ∧
  ((∀ (o : FmtUn) (s u : State) (a : Word), dstOk o.d = true → s.accepts o.d = true → s.Gives o.a o.x a u →
     (s.Starts (.jwaitPoll o) → (s.myCore.jobBad a.toNat = true → Traps (.jwaitPoll o) s u 31 a) ∧
       (s.myCore.jobBad a.toNat = false → u.room o.d = true → Completes (.jwaitPoll o) s (u.put o.d (s.myCore.jobStatus a.toNat)))) ∧
     (s.Starts (.jwaitSleep o) → (s.myCore.jobBad a.toNat = true → Traps (.jwaitSleep o) s u 31 a) ∧
       (s.myCore.jobBad a.toNat = false → s.myCore.jobStatus a.toNat ≠ 0 → u.room o.d = true →
         Completes (.jwaitSleep o) s (u.put o.d (s.myCore.jobStatus a.toNat))) ∧
       (s.myCore.jobBad a.toNat = false → s.myCore.jobStatus a.toNat = 0 →
         exec (.jwaitSleep o) s = .next (u.modMe (fun m => { m with status := .parked (.job a.toNat a.toNat) }))))) ∧
   (∀ (o : FmtA) (s u v : State) (a b : Word), s.Starts (.jwaitAny o) → dstOk o.d = true → s.accepts o.d = true → s.Gives o.a o.x a u → u.Gives o.b o.y b v →
     s.myCore.jobBad a.toNat = false → s.myCore.jobBad b.toNat = false →
     (64 ≤ (b.toNat + jobCycle - a.toNat) % jobCycle → Traps (.jwaitAny o) s v 31 a) ∧
     ((b.toNat + jobCycle - a.toNat) % jobCycle < 64 → (jobIds a.toNat b.toNat).any s.myCore.jobFuture = false →
       (∀ i pre post, jobIds a.toNat b.toNat = pre ++ i :: post → (∀ j ∈ pre, s.myCore.jobStatus j = 0) → s.myCore.jobStatus i ≠ 0 → v.room o.d = true →
         Completes (.jwaitAny o) s (v.put o.d (word i))) ∧
       ((∀ j ∈ jobIds a.toNat b.toNat, s.myCore.jobStatus j = 0) →
         exec (.jwaitAny o) s = .next (v.modMe (fun m => { m with status := .parked (.job a.toNat b.toNat) }))))) ∧
   (∀ (c : Core) (i : Nat), c.jobBad i = true ↔ (i = 0 ∨ 2 ^ 48 - 1 < i ∨ (c.jobsPlaced < 2 ^ 48 - 1 ∧ c.jobsPlaced < i))))

/-- Spawns, task queues and completion signals (R200 to R203, R205 to R207, R249, R381): a spawn asks its target core, which takes a slot or bounces;
a push enters the ring, the spill segment or nothing; a pop takes the oldest entries or waits; of one arithmetic cycle they come by core number, then slot, and one that comes behind
one of a later place is held to a later cycle (R275, R382, log 125); a signal is a counted add, and `swait` waits at its home.
That a queue is checked before its record is read, and how `swait` is checked, are readings of the model (log 13, log 37); EADDR of QUEUE_INVALID
is a free value (log 1). -/
def Obligations.SpawnsQueuesAndSignalsComplete : Prop :=
  (∀ (o : FmtA) (s u v t : State) (a b : Word) (c : Nat) (r : List Word), s.Starts (.spawn o) → s.acquirePending = false → dstOk o.d = true →
    s.accepts o.d = true → s.Gives o.a o.x a u → u.Gives o.b o.y b v → resolve v v.myCluster v.me.sag a 24 ≠ none → v.coreNamed b false = some c →
    Reads 2 a 3 v r t → (r.getD 0 0).getLsbD 0 = false → t.releaseOk 2 = true →
    Awaits (.spawn o) s (t.post 1 t.me.ctx 0 0 0 ⟨.core, c, 0⟩
      (.spawn (r.getD 0 0) (r.getD 1 0) (r.getD 2 0) (bitsOf t.me.st 0 2) t.me.tspace t.me.priv)) o.d.toNat) ∧
  (∀ (k : Nat) (s : State) (m : Msg) (pc a0 a1 : Word) (rm ts : Nat) (pr : Bool), s.net[k]? = some m → m.body = .spawn pc a0 a1 rm ts pr →
    s.barred k m = false → s.relocking m.home.unit = false →
    let x := s.coreAt m.home.unit
    ((x.stopped = true ∨ x.saved.isSome = true ∨ x.awaited m.sag = true) → exec (.spawnRequest k) s = .next ((s.dropMsg k).replyTo m 0)) ∧
    (∀ b, x.stopped = false → x.saved = none → x.awaited m.sag = false → s.helperDue m.home.unit = false → s.grantBeat m.home.unit = some b → s.ranBeat m.home.unit b = true → x.freeHelper b = none →
      exec (.spawnRequest k) s = .next ((s.dropMsg k).replyTo m 0)) ∧
    (∀ b j, x.stopped = false → x.saved = none → x.awaited m.sag = false → s.helperDue m.home.unit = false → s.grantBeat m.home.unit = some b → s.ranBeat m.home.unit b = true → x.freeHelper b = some j →
      ∃ t, exec (.spawnRequest k) s = .next t ∧ (t.coreAt m.home.unit).grantNext = b + 1 ∧
      let n := t.strandAt m.home.unit j
      n.live = true ∧ n.pc = pc ∧ n.sreg 1 = a0 ∧ n.sreg 2 = a1 ∧ n.sreg 3 = word (m.core * 16 + m.slot) ∧ n.st = word rm ∧ n.ctx = m.ctx ∧ n.tspace = ts ∧ n.priv = pr ∧
      n.tvec = (x.slotAt 0).tvec ∧ n.heapb = (x.slotAt 0).heapb ∧ n.sag = m.sag ∧ n.g = 0 ∧ (⟨m.id, m.core, m.slot, m.uid, .reply ⟨word j, [], 0⟩, false⟩ : Ack) ∈ t.acks)) ∧
  (∀ (o : FmtA) (s u v t : State) (a b : Word) (x : TaskQueue) (r : List Word), s.Starts (.qpush o) → s.acquirePending = false → dstOk o.d = true →
    s.accepts o.d = true → s.Gives o.a o.x a u → u.Gives o.b o.y b v →
    (v.taskQueue a = none → Traps (.qpush o) s v.draw.2 23 v.draw.1) ∧
    (v.taskQueue a = some x → Reads 2 b 4 v r t → t.room o.d = true →
      (t.releaseOk 2 = false → exec (.qpush o) s = .next t.heldParked) ∧
      ((r.getD 0 0 = 0 ∨ (r.getD 0 0).getLsbD 0 = true) → t.releaseOk 2 = true → Completes (.qpush o) s (t.put o.d 3)) ∧
      (r.getD 0 0 ≠ 0 → (r.getD 0 0).getLsbD 0 = false → t.releaseOk 2 = true →
        let e : QEntry := ⟨r.getD 0 0, r.getD 1 0, r.getD 2 0, r.getD 3 0⟩
        let late := s.tooLate x.last s.myRank
        let touch := fun (f : TaskQueue → TaskQueue) => t.modQueue t.me.sag (bitsOf a 0 8) (fun x => { (f x) with last := (s.poolCycle, s.myRank) })
        (late = true → exec (.qpush o) s = .next (t.modMe (fun m => { m with status := .held }))) ∧
        (late = false → x.spill = [] → x.ring.length < 512 → x.waiters = [] → t.taskQueue a = some x →
          Completes (.qpush o) s ((touch (fun x => { x with ring := x.ring ++ [e] })).put o.d 0)) ∧
        (late = false → (x.spill ≠ [] ∨ 512 ≤ x.ring.length) → x.spill.length < x.spillSize →
          Completes (.qpush o) s ((touch (fun x => { x with spill := x.spill ++ [e] })).put o.d 1)) ∧
        (late = false → (x.spill ≠ [] ∨ 512 ≤ x.ring.length) → x.spillSize ≤ x.spill.length → Completes (.qpush o) s ((touch id).put o.d 2))))) ∧
  (∀ p ∈ [(Instr.qpop, false), (.qpopNb, true)], ∀ (o : FmtUn) (s u : State) (a : Word) (x : TaskQueue), s.Starts (p.1 o) → s.acquirePending = false →
    o.d.toNat ≤ 28 → (∀ i, i < 4 → s.me.owes (o.d.toNat + i) = false) → s.Gives o.a o.x a u → u.taskQueue a = some x →
    let late := s.tooLate x.last s.myRank
    let done := fun (t : State) (x : TaskQueue) => (t.sagAt s.me.sag).bind (fun g => Tbl.find g.queues (bitsOf a 0 8)) = some { x with last := (s.poolCycle, s.myRank) }
    (late = true → exec (p.1 o) s = .next (u.modMe (fun m => { m with status := .held }))) ∧
    (∀ e rest, late = false → x.ring = e :: rest → ∃ t, Completes (p.1 o) s t ∧ done t { x with ring := rest } ∧
      t.me = ((((u.me.setS o.d.toNat e.pc).setS (o.d.toNat + 1) e.a0).setS (o.d.toNat + 2) e.a1).setS (o.d.toNat + 3) e.a2)) ∧
    (late = false → x.ring = [] → p.2 = true → ∃ t, Completes (p.1 o) s t ∧ done t x ∧ t.me = (
      (((u.me.setS o.d.toNat 0).setS (o.d.toNat + 1) 0).setS (o.d.toNat + 2) 0).setS (o.d.toNat + 3) 0)) ∧
    (late = false → x.ring = [] → p.2 = false → ∃ t, exec (p.1 o) s = .next t ∧ t.me.status = .parked (.ring (bitsOf a 0 8)) ∧ t.mem = s.mem ∧
      done t { x with waiters := x.waiters ++ [(s.myRef, s.me.uid)] })) ∧
  (∀ p ∈ [(Instr.qpopv, false), (.qpopvNb, true)], ∀ (o : FmtA) (s u v : State) (a b : Word) (x : TaskQueue), s.Starts (p.1 o) → s.acquirePending = false →
    dstOk o.d = true → s.accepts o.d = true → s.LanesReady → s.Gives o.a o.x a u → u.Gives o.b o.y b v → v.taskQueue a = some x → s.tooLate x.last s.myRank = false →
    let touch := fun (f : TaskQueue → TaskQueue) => v.modQueue v.me.sag (bitsOf a 0 8) (fun y => { (f y) with last := (s.poolCycle, s.myRank) })
    (x.ring ≠ [] →
      let es := (takeEntries s.me.g x.ring).1
      let w := (touch (fun y => { y with ring := (takeEntries s.me.g x.ring).2 })).modMe (fun m => m.putEntries (bitsOf b 0 5) (entryWords es))
      w.room o.d = true → Completes (p.1 o) s (w.put o.d (word es.length))) ∧
    (x.ring = [] → p.2 = true →
      let w := (touch id).modMe (fun m => m.putEntries (bitsOf b 0 5) [])
      w.room o.d = true → Completes (p.1 o) s (w.put o.d 0))) ∧
  (∀ (n : Nat) (e : QEntry) (t : List QEntry), 0 < n → let r := takeEntries n (e :: t)
    r.1.head? = some e ∧ r.1.length ≤ n ∧ (∀ x ∈ r.1, x.pc = e.pc) ∧ r.1.length + r.2.length = t.length + 1) ∧
  (∀ (sag q : Nat) (s : State) (g : Saggar) (x : TaskQueue) (e : QEntry) (rest : List QEntry), s.sagAt sag = some g → Tbl.find g.queues q = some x →
    x.spill = e :: rest → x.ring.length < 512 → x.waiters = [] → ∃ t, exec (.queueRefill sag q) s = .next t ∧
    (t.sagAt sag).bind (fun g => Tbl.find g.queues q) = some { x with ring := x.ring ++ [e], spill := rest }) ∧
  (∀ (o : FmtTwo) (s u v t : State) (a b : Word) (p : Place), s.Starts (.signal o) → s.acquirePending = false → s.me.pend < 16 → s.Gives o.a o.x a u →
    u.Gives o.b o.y b v → (bitsOf a 60 4 ≠ 0 → Traps (.signal o) s v 7 a) ∧
    (bitsOf a 60 4 = 0 → Admits .update a 8 8 (fun _ => true) v p t → t.releaseOk (if offDevice p.loc then 3 else 2) = true →
      t.crosses false (homeOf p.loc) p.loc 8 = false → t.Sends p →
      Completes (.signal o) s ((t.post 1 0 p.named p.loc 8 (homeOf p.loc) (.atomic .add b 0 false)).modMe (fun m => { m with pend := m.pend + 1 })))) ∧
  (∀ (o : FmtA) (s u v t : State) (a b : Word) (p : Place), s.Starts (.swait o) → s.acquirePending = false → dstOk o.d = true → s.accepts o.d = true →
    s.Gives o.a o.x a u → u.Gives o.b o.y b v → bitsOf a 60 4 = 0 → Admits .load a 8 8 (fun _ => true) v p t → t.parkedOverlap p.named 8 = false →
    t.crosses true (homeOf p.loc) p.loc 8 = false → t.requestRoom 1 = true → Awaits (.swait o) s (t.post 1 0 p.named p.loc 8 (homeOf p.loc) (.swait b)) o.d.toNat) ∧
  (∀ (h : HomeSel) (s : State) (m : Msg) (b : Word), h.engine = false → h.ecc = ⟨false, false⟩ → s.Arrives h.k m → m.body = .swait b → offDevice m.loc = false → s.anyDead m.loc 8 = false →
    (b.toInt ≤ (s.dword m.loc).toInt → exec (.homeAccess h) s = .next ((s.dropMsg h.k).replyTo m (s.dword m.loc))) ∧
    ((s.dword m.loc).toInt < b.toInt → exec (.homeAccess h) s = .next ((s.dropMsg h.k).listWaiter m .signal)))

/-! Engines. -/

/-- The engine instructions (R211, R212, R216 to R219, R222 to R225, R365): a descriptor that keeps its limits becomes a job with the descriptor's fields, ranges,
tag and formats, and d receives its id; a broken limit traps ENGINE_DESCRIPTOR at its field, a debit beyond CAP ENERGY_LIMIT, and a band of another core
BAND_OWNER.
The ranges of `mmld` and `mmst` and the order of the checks are readings of the model (log 24, log 42, log 56). -/
def Obligations.EngineFormsComplete : Prop :=
  (∀ (s : State) (p : JobPlan) (st : JobState), let t := s.placeJob p st
    t.myCore.jobNext = nextJob s.myCore.jobNext ∧ t.myCore.jobStatus s.myCore.jobNext = 0 ∧ (p.tag < 64 → t.myCore.tags.getLsbD p.tag = false) ∧
    Tbl.get t.myCore.tagCount p.tag 0 = Tbl.get s.myCore.tagCount p.tag 0 + 1 ∧
    (t.clusterAt s.myCluster).ranges = (s.clusterAt s.myCluster).ranges ++ p.ranges.map (fun r => ⟨r.1, r.2.1, r.2.2, s.myCore.jobNext, s.core⟩) ∧
    ∃ j, (t.clusterAt s.myCluster).jobs = (s.clusterAt s.myCluster).jobs ++ [j] ∧
      (j.core, j.id, j.tag, j.desc, j.gov, j.state, j.fail) = (s.core, s.myCore.jobNext, p.tag, p.desc, p.gov, st, 0)) ∧
  (∀ (k : JobKind) (ow : Bool) (cls tag : Nat) (sc a : Word) (r : List Word) (s : State) (go : JobPlan → Nat → State → Out),
    let gov := s.me.gov 3 3 0 sc
    let rows := if k = .mmld then 128 else recBits r 16 2
    let n := (rows - 1) * recBits r 8 8 + 16 * matrixWidth k gov
    let mask := recBits r 20 1
    let debit := if k = .mmrun then s.debitOf cls rows mask else 0
    (∀ off, matrixLimits k r (s.spanOf (r.getD 0 0) n) = some off → planMatrix k ow cls tag sc a r s go = takeTrapCode 28 s.me.pc (a + word off) s) ∧
    (matrixLimits k r (s.spanOf (r.getD 0 0) n) = none →
      (bitsOf s.myCore.ebud 24 24 < debit → planMatrix k ow cls tag sc a r s go = takeTrapCode 29 s.me.pc (word debit) s.leaveQueue) ∧
      (debit ≤ bitsOf s.myCore.ebud 24 24 →
        (s.ownsBands mask = false → planMatrix k ow cls tag sc a r s go = takeTrapCode 30 s.me.pc (word mask) s.leaveQueue) ∧
        (s.ownsBands mask = true → ∃ p, Plans k ow cls tag sc a r s p debit ∧ p.tag = tag ∧ p.gov = gov ∧
          (p.desc.kind, p.desc.src, p.desc.dst, p.desc.pitch, p.desc.rows, p.desc.acc0, p.desc.bands) =
            (k, (r.getD 0 0).toNat, (r.getD 0 0).toNat, recBits r 8 8, rows, recBits r 18 2, mask) ∧
          (∀ x, s.spanOf (r.getD 0 0) n = .at_ x → p.ranges = [(x, x + n - 1, decide (k = .mmst))]))))) ∧
  (∀ p ∈ [(Instr.mmld, JobKind.mmld), (.mmst, .mmst)], ∀ (o : FmtA) (s u v w t : State) (a b sc : Word) (r : List Word) (q : JobPlan) (debit : Nat),
    s.Begins (p.1 o) → dstOk o.d = true → engineCodes p.2 s = true → s.acquirePending = false → s.accepts o.d = true → s.Gives o.a o.x a u →
    u.Gives o.b o.y b v → v.scaleIs sc → w = v.tookScale sc → Reads (w.engineSrcs true) a 3 w r t → Plans p.2 false 0 (bitsOf b 0 6) sc a r t q debit → PlacesJobs (p.1 o) s t [q] debit o.d) ∧
  (∀ (o : FmtRun) (s u v w t : State) (a b sc : Word) (r : List Word) (q : JobPlan) (debit : Nat),
    s.Begins (.mmrun o) → dstOk o.d = true → engineCodes .mmrun s = true → s.acquirePending = false → s.accepts o.d = true → s.Gives o.a o.x a u →
    u.Gives o.b o.y b v → v.scaleIs sc →
    w = v.tookScale sc → Reads (w.engineSrcs true) a 3 w r t → Plans .mmrun o.w o.e.toNat (bitsOf b 0 6) sc a r t q debit → PlacesJobs (.mmrun o) s t [q] debit o.d) ∧
  (∀ (o : FmtA) (s u v : State) (a b : Word), s.Starts (.mmsw o) → dstOk o.d = true → s.acquirePending = false → s.accepts o.d = true → s.Gives o.a o.x a u →
    u.Gives o.b o.y b v → (v.ownsBands (bitsOf a 0 8) = false → Traps (.mmsw o) s v.leaveQueue 30 (word (bitsOf a 0 8))) ∧
    (v.ownsBands (bitsOf a 0 8) = true →
      PlacesJobs (.mmsw o) s v [⟨{ JobDesc.zero .mmsw with bands := bitsOf a 0 8 }, bitsOf b 0 6, v.me.gov 3 3 0 0, []⟩] 0 o.d)) ∧
  (∀ (o : FmtCopy) (s u v t : State) (a b : Word) (r : List Word) (x y : Span) (len : Nat), s.Starts (.copy o) → dstOk o.d = true → s.acquirePending = false →
    s.accepts o.d = true → s.Gives o.a o.x a u → u.Gives o.b false b v → Reads 2 a 4 v r t → len = recBits r 16 8 → x = t.spanOf (r.getD 0 0) len →
    y = t.spanOf (r.getD 1 0) len →
    (∀ off, copyLimits false r x y = some off → Traps (.copy o) s t 28 (a + word off)) ∧
    (copyLimits false r x y = none → PlacesJobs (.copy o) s t [⟨{ JobDesc.zero .copy with
      src := recBits r 0 8, dst := recBits r 8 8, len := len, scope := recBits r 24 4 / 2 % 4, base := decide (recBits r 24 4 % 2 = 1), follow := 0 },
      bitsOf b 0 6, t.me.gov 3 3 0 0, spanRange x len false ++ spanRange y len true⟩] 0 o.d)) ∧
  (∀ (o : FmtCopy) (s u v w t t' : State) (a b sc : Word) (r q : List Word) (x y : Span) (len debit : Nat) (p : JobPlan), s.Begins (.copyFo o) → dstOk o.d = true → engineCodes .mmrun s = true →
    s.acquirePending = false → s.accepts o.d = true → s.Gives o.a o.x a u → u.Gives o.b false b v → v.scaleIs sc → w = v.tookScale sc →
    Reads (w.engineSrcs true) a 6 w r t → len = recBits r 16 8 → x = t.spanOf (r.getD 0 0) len → y = t.spanOf (r.getD 1 0) len → copyLimits true r x y = none →
    Reads (w.engineSrcs true + 6) (r.getD 5 0) 3 t q t' →
    Plans .mmrun (decide (recBits r 32 4 / 4 % 2 = 1)) (recBits r 32 4 % 4) (recBits r 32 4 / 16 % 64) sc (r.getD 5 0) q t' p debit →
    PlacesJobs (.copyFo o) s t' [⟨{ JobDesc.zero .copy with
      src := recBits r 0 8, dst := recBits r 8 8, len := len, scope := recBits r 24 4 / 2 % 4, base := decide (recBits r 24 4 % 2 = 1), follow := 1 },
      bitsOf b 0 6, t.me.gov 3 3 0 sc, spanRange x len false ++ spanRange y len true⟩, p] debit o.d) ∧
  (∀ (o : FmtA) (s u v t : State) (a b : Word) (r : List Word) (x y : Span), s.Starts (.gath o) → dstOk o.d = true → s.acquirePending = false →
    s.accepts o.d = true → s.Gives o.a o.x a u → u.Gives o.b o.y b v → Reads 2 a 4 v r t →
    let n := recBits r 24 4
    let esz := recBits r 28 1
    let isz := recBits r 29 1
    x = t.spanOf (r.getD 1 0) (if isz ≤ 3 then n * 2 ^ isz else 1) → y = t.spanOf (r.getD 2 0) (if esz ≤ 12 then n * 2 ^ esz else 1) →
    gathLimits r x y = none → PlacesJobs (.gath o) s t [⟨{ JobDesc.zero .gath with
      src := recBits r 0 8, dst := recBits r 16 8, pitch := recBits r 8 8, n := n, esz := esz, isz := isz }, bitsOf b 0 6, t.me.gov 3 3 0 0,
      spanRange x (n * 2 ^ isz) false ++ spanRange y (n * 2 ^ esz) true⟩] 0 o.d) ∧
  (∀ (o : FmtA) (s u v t : State) (a b : Word) (r : List Word) (x y : Span) (len : Nat), s.Starts (.coll o) → dstOk o.d = true → s.acquirePending = false →
    s.accepts o.d = true → s.Gives o.a o.x a u → u.Gives o.b o.y b v → Reads 2 a 6 v r t → len = recBits r 24 4 * collSize (recBits r 29 1) →
    x = t.spanOf (r.getD 0 0) len → y = t.spanOf (r.getD 1 0) len → collLimits r x y = none → PlacesJobs (.coll o) s t [⟨{ JobDesc.zero .coll with
      src := recBits r 0 8, dst := recBits r 8 8, group := recBits r 16 8, len := len, n := recBits r 24 4, op := recBits r 28 1, fmt := recBits r 29 1,
      npart := recBits r 30 2 }, bitsOf b 0 6, t.me.gov 3 3 0 0, spanRange x len false ++ spanRange y len true⟩] 0 o.d) ∧
  (∀ (d : Code) (ps : List JobPlan) (debit : Nat) (s : State) (t : Nat), s.myCore.fullTag (ps.map (·.tag)) = some t →
    place d ps debit s = takeTrapCode 27 s.me.pc (word t) s.leaveQueue) ∧
  (∀ f ∈ [(Instr.mmld, JobKind.mmld), (.mmst, .mmst)], ∀ (o : FmtA) (s : State), s.Begins (f.1 o) → engineCodes f.2 s = false →
    Traps (f.1 o) s s 2 (word (encode (f.1 o)))) ∧
  (∀ (o : FmtRun) (s : State), s.Begins (.mmrun o) → engineCodes .mmrun s = false → Traps (.mmrun o) s s 2 (word (encode (.mmrun o)))) ∧
  (∀ (o : FmtCopy) (s : State), s.Begins (.copyFo o) → engineCodes .mmrun s = false → Traps (.copyFo o) s s 2 (word (encode (.copyFo o))))

/-- Jobs as they run (R212 to R214, R217, R219, R223, R281, R356, R363): a waiting instruction is placed when nothing holds it; a job starts behind none it
conflicts with, reads its sources, performs its writes and then completes, which releases its ranges, counts its tag down and records its status; `mmsw`
exchanges the planes; a follow-on takes its place after its copy; a round closes when its jobs have read; the energy balances refill.
How members of a round meet, and what a failing job leaves, are readings of the model (log 43, log 44, log 45). -/
def Obligations.EngineJobsRun : Prop :=
  (∀ (r : StrandRef) (s : State), (s.strandOf r).live = true → (s.strandOf r).dying = false → (s.strandOf r).status = .held → s.running r.core = true →
    (∀ o, (s.strandOf r).cur = some (.mmsw o) → exec (.enginePlacement r) s = exec (.mmsw o) { s with core := r.core, slot := r.slot }) ∧
    (∀ o, (s.strandOf r).cur = some (.copy o) → exec (.enginePlacement r) s = exec (.copy o) { s with core := r.core, slot := r.slot }) ∧
    (∀ o, (s.strandOf r).cur = some (.mmrun o) → exec (.enginePlacement r) s = exec (.mmrun o) { s with core := r.core, slot := r.slot })) ∧
  (∀ (r : StrandRef) (s t : State) (o : FmtA) (a b : Read) (p : JobPlan), (s.strandOf r).live = true → (s.strandOf r).dying = false →
    (s.strandOf r).status = .held → s.running r.core = true → (s.strandOf r).cur = some (.mmsw o) → (s.strandOf r).stage = 0 → (s.strandOf r).reads = [a, b] →
    (s.strandOf r).work ≠ [] → (s.strandOf r).prefixed = false → t = { s with core := r.core, slot := r.slot } → t.NoLoop → srcOk o.x o.a = true →
    srcOk o.y o.b = true → dstOk o.d = true → t.acquirePending = false → t.accepts o.d = true → t.ownsBands (bitsOf a.val 0 8) = true →
    p = ⟨{ JobDesc.zero .mmsw with bands := bitsOf a.val 0 8 }, bitsOf b.val 0 6, t.me.gov 3 3 0 0, []⟩ → t.myCore.fullTag [p.tag] = none →
    t.placeable [p] 0 = true → (s.clusterAt t.myCluster).waiting = [r] → (∀ k, k < 8 → t.replacing (8 * t.myCluster + k) = false) →
    (s.clusterAt t.myCluster).jobs.length < 16 →
    ∃ u j, exec (.enginePlacement r) s = .next u ∧ (u.clusterAt t.myCluster).jobs = (s.clusterAt t.myCluster).jobs ++ [j] ∧
      (u.clusterAt t.myCluster).waiting = [] ∧ (j.core, j.slot, j.tag, j.desc, j.state, j.fail) = (r.core, r.slot, p.tag, p.desc, .waiting, 0) ∧ u.mem = s.mem) ∧
  (∀ (cl k : Nat) (s : State) (j e : Job) (n : Nat), (s.clusterAt cl).jobs[k]? = some j → n < k → (s.clusterAt cl).jobs[n]? = some e →
    (s.clusterAt cl).jobBehind j e = true → exec (.jobStart cl k) s = .next s) ∧
  (∀ (cl k : Nat) (s t : State) (j : Job), (s.clusterAt cl).jobs[k]? = some j → j.state = .waiting →
    (∀ e ∈ (s.clusterAt cl).jobs.take k, (s.clusterAt cl).jobBehind j e = false) → s.jobAwaitsStores cl j = false → s.beginJob cl k j = .ok t → exec (.jobStart cl k) s = .next t) ∧
  (∀ (cl k : Nat) (s s1 s2 : State) (j : Job) (r : List (Byte × Option Nat)) (ws : List EWrite), j.desc.kind = .copy →
    State.jobBytes j j.desc.len (word j.desc.src) s = .ok (r, s1) →
    State.jobTargets j (rowBytes 0 (word j.desc.dst) (r.map (·.1))) s1 = .ok (ws, 0, s2) →
    ∃ t j', s.beginJob cl k j = .ok t ∧ t = s2.setJob cl k j' ∧ j'.state = .running ∧ j'.fail = 0 ∧ (r.length = ws.length → j'.writes = ws)) ∧
  (∀ (cl k : Nat) (s : State) (j : Job) (w : EWrite), (s.clusterAt cl).jobs[k]? = some j → j.state = .running → j.desc.kind ≠ .coll → j.fail = 0 →
    j.desc.kind.unit ≠ 3 → j.desc.scope ≠ 2 → j.covers = [] → j.writes = [w] → w.barred s = false → j.ctxAt w.loc = 0 → s.fenced w.loc = false → offDevice w.loc = false → s.Canonical →
    (∀ j' ∈ dropAt (s.clusterAt cl).jobs k, j'.id ≠ j.id ∨ j'.core ≠ j.core) → ∃ t, exec (.jobCompletion cl k) s = .next t ∧
      t.byte w.loc = w.val ∧ (∀ l, l ≠ w.loc → t.byte l = s.byte l) ∧ (t.clusterAt cl).jobs = dropAt (s.clusterAt cl).jobs k ∧
      (t.clusterAt cl).ranges = (s.clusterAt cl).ranges.filter (fun r => r.job ≠ j.id || r.core ≠ j.core) ∧
      (∀ i, Tbl.find (s.coreAt j.core).jobRing j.id = some i → (t.coreAt j.core).jobStatus j.id = 1) ∧
      (Tbl.get (s.coreAt j.core).tagCount j.tag 0 = 1 → j.tag < 64 → (t.coreAt j.core).tags.getLsbD j.tag = true)) ∧
  (∀ (h : HomeSel) (s : State) (j : Job) (w : EWrite), h.engine = true → (s.clusterAt h.cl).jobs[h.k]? = some j → j.state = .running → j.writes[h.i]? = some w →
    w.barred s = false → j.ctxAt w.loc = 0 → s.fenced w.loc = false → offDevice w.loc = false → s.Canonical → ∃ t, exec (.homeAccess h) s = .next t ∧ t.byte w.loc = w.val ∧
      (∀ l, l ≠ w.loc → t.byte l = s.byte l) ∧ (t.clusterAt h.cl).jobs = setAt (s.clusterAt h.cl).jobs h.k { j with writes := dropAt j.writes h.i }) ∧
  (∀ (cl b : Nat) (s : State) (j : Job), j.desc.kind = .mmsw → j.desc.bands = 2 ^ b → b < 8 → s.band cl b ≠ Band.clear →
    ((s.matrixDone cl j).band cl b).active = (s.band cl b).shadow ∧ ((s.matrixDone cl j).band cl b).shadow = (s.band cl b).active) ∧
  (∀ (cl k : Nat) (s : State) (j : Job), (s.clusterAt cl).jobs[k]? = some j → j.state = .reserved →
    (∀ x ∈ (s.clusterAt cl).jobs, x.core ≠ j.core ∨ nextJob x.id ≠ j.id ∨ x.desc.follow ≠ 1) →
    exec (.followonPlacement cl k) s = .next (s.setJob cl k { j with state := if j.fail = 0 then .waiting else .running })) ∧
  (∀ (sag grp cl k : Nat) (s t : State) (j : Job), s.collJobs sag grp = [(cl, k, j)] → j.desc.npart = 1 → j.state = .running → j.fail = 0 →
    s.startWrites cl k { j with row := j.seq } (rowBytes 0 (word j.desc.dst) ((List.range j.desc.n).flatMap (fun i => toBytes (collSize j.desc.fmt)
      (ofBytes (((Tbl.get j.caught 0 []).drop (i * collSize j.desc.fmt)).take (collSize j.desc.fmt)))))) [] = .ok t → exec (.collRoundClose sag grp) s = .next t) ∧
  (∀ (sag grp cl k : Nat) (s : State) (j : Job) (rest : List (Nat × Nat × Job)), s.collJobs sag grp = (cl, k, j) :: rest → rest.length + 1 < j.desc.npart →
    exec (.collRoundClose sag grp) s = .next s) ∧
  (∀ (xs : List Nat) (x : Nat), collCombine 0 9 (x :: xs) % 2 ^ 32 = (x + xs.sum) % 2 ^ 32 ∧ collCombine 3 9 (x :: xs) = x) ∧
  (∀ (s : State) (n : Nat), s.time = 1000 * n → s.lastRefill / 1000 + 1 = n → ∃ t, exec .ebudRefill s = .next t ∧ t.lastRefill = s.time ∧ t.mem = s.mem ∧
    ∀ c x, Tbl.find s.cores c = some x → bitsOf (t.coreAt c).ebud 0 24 = min (bitsOf x.ebud 24 24) (bitsOf x.ebud 0 24 + bitsOf x.ebud 48 16) ∧
      bitsOf (t.coreAt c).ebud 24 40 = bitsOf x.ebud 24 40)

/-! The Galley. -/

/-- The Galley forms at the strand (R226, R229 to R232, R306, R313): `tcall` and `tans` send a request to the home of the key or handle; `tret` gives its group
back with a decrement; `tend` ends an invocation; `twait`, `tnext`, `tabol` and `tstat` read and change entries.
The order of SPEC_ROLE and TABLE_ROLE and the reading of the second answer word are readings of the model (log 27, log 55); EADDR of TABLE_ROLE
is a free value (log 1). -/
def Obligations.GalleyFormsComplete : Prop :=
  (∀ (o : FmtUn) (s u t : State) (a : Word) (r : List Word) (g : Saggar), s.Starts (.tcall o) → s.me.spec = none → s.acquirePending = false → dstOk o.d = true →
    s.accepts o.d = true → s.Gives o.a o.x a u → Reads 1 a 9 u r t → t.sagAt t.me.sag = some g →
    (∀ off, callLimits r = some off → Traps (.tcall o) s t 32 (a + word off)) ∧
    (callLimits r = none →
      let n := recBits r 32 1
      let aw := recBits r 33 1
      let args := (List.range 3).map (fun i => if i < n then r.getD (1 + i) 0 else 0)
      let home := g.keyHome (keyHash t.me.tspace (r.getD 0 0) args n aw)
      Awaits (.tcall o) s (t.post 1 0 0 0 0 ⟨.galley, g.clusterNo home.1, home.2⟩
        (.tcall t.me.tspace (r.getD 0 0) args n aw (t.contOf (r.getD 5 0) [r.getD 6 0, r.getD 7 0, r.getD 8 0]))) o.d.toNat)) ∧
  (∀ (space : Nat) (pc a0 a1 a2 : Word) (aw : Nat), keyHash space pc [a0, a1, a2] 3 aw =
    word space ^^^ pc.rotateLeft 13 ^^^ a0.rotateLeft 29 ^^^ a1.rotateLeft 41 ^^^ a2.rotateLeft 53 ^^^ word (12 + aw)) ∧
  (∀ (o : FmtA) (s u v w : State) (a b b1 : Word) (g : Saggar), s.Starts (.tans o) → s.me.spec = none → s.acquirePending = false → o.b.toNat ≤ 30 →
    dstOk o.d = true → s.accepts o.d = true → (o.d.toNat = 56 → s.me.pend < 16) → s.Gives o.a o.x a u → u.Gives o.b o.y b v → v.Gives (o.b + 1) o.y b1 w →
    w.sagAt w.me.sag = some g →
    (w.me.grp.ser = 0 → Traps (.tans o) s w.draw.2 33 w.draw.1) ∧
    (w.me.grp.ser ≠ 0 → g.badHandle (handleOf a) = true → Traps (.tans o) s w 34 (word (handleOf a))) ∧
    (w.me.grp.ser ≠ 0 → g.badHandle (handleOf a) = false → w.releaseOk 2 = true →
      let t := w.post 1 0 0 0 0 ⟨.galley, g.clusterNo (handleOf a / 2 ^ 31), handleOf a / 2 ^ 27 % 16⟩ (.tans (handleOf a) b b1 w.me.grp (decide (o.d.toNat ≠ 56)))
      (o.d.toNat ≠ 56 → Awaits (.tans o) s t o.d.toNat) ∧ (o.d.toNat = 56 → Completes (.tans o) s (t.modMe (fun m => { m with pend := m.pend + 1 }))))) ∧
  (∀ (o : FmtSrc) (s u : State) (a : Word) (g : Saggar) (e : Entry), s.Starts (.tret o) → s.me.spec = none → s.Gives o.a o.x a u → u.sagAt u.me.sag = some g →
    g.badHandle (handleOf a) = false → g.entryAt (handleOf a) = some e →
    ((e.st ≠ .evaluating ∨ e.uid ≠ s.me.uid) → Traps (.tret o) s u.draw.2 33 u.draw.1) ∧
    (e.st = .evaluating → e.uid = s.me.uid → (u.tansOut u.me.uid || u.incOut (u.rootOf e.grp)) = false →
      ∃ t, Completes (.tret o) s t ∧ t.me.grp = e.caller ∧ t.me.bodies = s.me.bodies.filter (· ≠ handleOf a) ∧ t.cone = s.cone ++ [.dec e.grp s.me.uid] ∧
        (t.sagAt s.me.sag).bind (fun g => g.entryAt (handleOf a)) = some { e with uid := 0 } ∧ t.mem = s.mem) ∧
    (e.st = .evaluating → e.uid = s.me.uid → (u.tansOut u.me.uid || u.incOut (u.rootOf e.grp)) = true →
      exec (.tret o) s = .next (u.modMe (fun m => { m with status := .held })))) ∧
  (∀ (s : State) (g : Saggar) (v : Invocation), s.Starts .tend → s.sagAt s.me.sag = some g → s.me.invoc = some v →
    (∀ e ∈ g.entries, e.st ≠ .evaluating ∨ e.uid ≠ s.me.uid) → s.me.laneLoads = 0 → s.tansOut s.me.uid = false → ∃ t, exec .tend s = .next t ∧
      (t.strandAt s.core s.slot).live = false ∧ (v.grp.ser ≠ 0 → .dec v.grp s.me.uid ∈ t.cone) ∧ t.mem = s.mem) ∧
  (∀ (o : FmtUn) (s u : State) (a : Word) (g : Saggar), s.Starts (.twait o) → s.acquirePending = false → dstOk o.d = true → s.accepts o.d = true →
    s.Gives o.a o.x a u → u.sagAt u.me.sag = some g → g.badHandle (handleOf a) = false →
    let h := handleOf a
    (g.entryAt h = none → u.room o.d = true → Completes (.twait o) s (u.put o.d 3)) ∧
    (∀ e t, g.entryAt h = some e → t = u.modSag u.me.sag (fun g => g.touch h) →
      (t.sameRoot e.grp t.me.grp = true → t.room o.d = true → Completes (.twait o) s (t.put o.d 2)) ∧
      (t.sameRoot e.grp t.me.grp = false → e.st = .failed → t.room o.d = true → Completes (.twait o) s (t.put o.d 1)) ∧
      (t.sameRoot e.grp t.me.grp = false → e.st = .complete → e.pins < 65535 → t.room o.d = true →
        Completes (.twait o) s ((t.modEntry t.me.sag h (fun e => { e with pins := e.pins + 1 })).put o.d (word (e.answers.length % 65536 * 16)))) ∧
      (t.sameRoot e.grp t.me.grp = false → e.st = .evaluating → ∃ w, exec (.twait o) s = .next w ∧ w.me.status = .parked .twait ∧ w.me.work = [o.d.toNat] ∧
        w.mem = s.mem))) ∧
  (∀ (o : FmtA) (s u v : State) (a b : Word) (g : Saggar), s.Starts (.tnextNext o) → o.d.toNat ≤ 29 → (∀ i, i < 3 → s.me.owes (o.d.toNat + i) = false) →
    s.Gives o.a o.x a u → u.Gives o.b o.y b v → v.sagAt v.me.sag = some g → g.badHandle (handleOf a) = false →
    (g.entryAt (handleOf a) = none → Traps (.tnextNext o) s v 34 (word (handleOf a))) ∧
    (∀ e, g.entryAt (handleOf a) = some e → ((e.st ≠ .complete ∨ e.pins = 0) → Traps (.tnextNext o) s v 34 (word (handleOf a))) ∧
      (e.st = .complete → e.pins ≠ 0 →
        let x := (e.answers[b.toNat]?).getD (0, 0)
        Completes (.tnextNext o) s ((v.modSag v.me.sag (fun g => g.touch (handleOf a))).modMe (fun m => ((m.setS o.d.toNat x.1).setS (o.d.toNat + 1) x.2).setS
          (o.d.toNat + 2) (if b.toNat < e.answers.length then 1 else 0)))))) ∧
  (∀ (o : FmtSrc) (s u : State) (a : Word) (g : Saggar) (e : Entry), s.Starts (.tnextClose o) → s.Gives o.a o.x a u → u.sagAt u.me.sag = some g →
    g.badHandle (handleOf a) = false → g.entryAt (handleOf a) = some e → e.st = .complete → e.pins ≠ 0 → Completes (.tnextClose o) s (u.modSag u.me.sag (fun g =>
      ((g.touch (handleOf a)).modEntry (handleOf a) (fun e => { e with pins := e.pins - 1 })).sweep (handleOf a)))) ∧
  (∀ (o : FmtUn) (s u : State) (a : Word) (g : Saggar), s.Starts (.tabol o) → dstOk o.d = true → s.accepts o.d = true → s.Gives o.a o.x a u →
    u.sagAt u.me.sag = some g → u.room o.d = true →
    let now := g.entries.filter (fun e => (decide (a = BitVec.allOnes 64) || decide (e.space = bitsOf a 0 12)) && decide (e.st = .complete) && decide (e.pins = 0))
    ∃ t : State, Completes (.tabol o) s (t.put o.d (word now.length)) ∧ t.me = u.me ∧ ∀ e ∈ now, (t.sagAt u.me.sag).bind (fun g => g.entryAt e.handle) = none) ∧
  (∀ (o : FmtA) (s u v : State) (a b : Word) (g : Saggar), s.Starts (.tstat o) → dstOk o.d = true → s.accepts o.d = true → s.Gives o.a o.x a u →
    u.Gives o.b o.y b v → v.sagAt v.me.sag = some g → v.room o.d = true →
    (b = 0 → g.badHandle (handleOf a) = false → g.entryAt (handleOf a) = none → Completes (.tstat o) s (v.put o.d 3)) ∧
    (∀ e, b = 0 → g.badHandle (handleOf a) = false → g.entryAt (handleOf a) = some e → Completes (.tstat o) s ((v.modSag v.me.sag (fun g => g.touch (handleOf a))).put o.d
      (word ((match e.st with | .evaluating => 0 | .complete => 1 | .failed => 2) + e.answers.length % 65536 * 16 + (e.pins + e.failPins) % 65536 * 2 ^ 20)))) ∧
    (b = 1 → Completes (.tstat o) s (v.put o.d (word g.counters.dropAns))) ∧ (b = 2 → Completes (.tstat o) s (v.put o.d (word g.counters.lruEvict))) ∧
    (b = 3 → Completes (.tstat o) s (v.put o.d (word g.counters.softEvict))) ∧ (b = 4 → Completes (.tstat o) s (v.put o.d (word g.counters.fullCount))) ∧
    (4 < b.toNat → Traps (.tstat o) s v 2 (word (encode (.tstat o)))))

/-- What the homes and the Cones do (R227 to R229, R307, R310 to R316, R320): a call finds its entry or makes one with a group of its own; a new answer is
kept and invokes every continuation; counts rise and fall, and a group whose count reaches zero completes with every group under it; merged roots become one;
a failure fails a root's entries; an invocation starts a strand with its answer.
When the pin of a failed entry falls, and what an error does to an entry that failed, are readings of the model (log 20, log 54). -/
def Obligations.GalleyHomesAndCones : Prop :=
  (∀ (k blk ser : Nat) (s : State) (m : Msg) (g : Saggar) (space : Nat) (pc : Word) (args : List Word) (n aw : Nat) (c : Cont), s.net[k]? = some m →
    s.barred k m = false → (∀ h ∈ m.homes, s.awakeAt h = true) → m.body = .tcall space pc args n aw c → s.sagAt m.sag = some g →
    (∀ e, g.entries.find? (fun e => decide (e.space = space) && decide (e.pc = pc) && decide (e.nargs = n) && decide (e.aw = aw) && decide (e.args = args)) = some e →
      let t := (s.modSag m.sag (fun g => g.touch e.handle)).dropMsg k
      (e.st = .complete → e.pins < 65535 → exec (.galleyHomeRequest k blk ser) s =
        .next ((t.modEntry m.sag e.handle (fun e => { e with pins := e.pins + 1 })).replyTo m (word (e.handle * 2 ^ 24 + e.answers.length % 65536 * 16)))) ∧
      (e.st = .failed → exec (.galleyHomeRequest k blk ser) s = .next (t.replyTo m (word (e.handle * 2 ^ 24 + 4)))) ∧
      (e.st = .evaluating → c.kpc = 0 → exec (.galleyHomeRequest k blk ser) s = .next (t.replyTo m (word (e.handle * 2 ^ 24 + 5))))) ∧
    (∀ (s1 : State) (g1 : Saggar), g.entries.find? (fun e => decide (e.space = space) && decide (e.pc = pc) && decide (e.nargs = n) && decide (e.aw = aw) &&
        decide (e.args = args)) = none →
      let home := g.keyHome (keyHash space pc args n aw)
      let slot := (home.1 * 16 + home.2) * 2 ^ 19 + blk
      let die := dieOf m.home.unit
      let h := fun (g : Saggar) => slot * 256 + Tbl.get g.gens slot 0
      (((s.freeGroups' die).dieAt die).cone.length < 262144) → (g.bankEntries (home.1 * 16 + home.2)).length < 2 ^ 19 →
      (s.freeGroups' die).roomFor m.sag (home.1 * 16 + home.2) 1 = (true, s1) → s1.sagAt m.sag = some g1 →
      blk < g.slotLimit → (∀ e ∈ g1.entries, e.handle / 256 ≠ slot) → ser ≠ 0 → ser < 2 ^ 30 → s1.group ⟨die, ser⟩ = none → s1.alive m.core m.slot m.uid = true →
      (s1.strandAt m.core m.slot).dying = false → ∃ t, exec (.galleyHomeRequest k blk ser) s = .next t ∧
        (t.sagAt m.sag).map (fun g => g.entries) = some (g1.entries ++ [⟨h g1, space, pc, n, aw, args, .evaluating, ⟨die, ser⟩, c.grp, ⟨m.core, m.slot⟩, m.uid, [], [], 0, 0,
          g.stamp, 0, 0, false, []⟩]) ∧ t.group ⟨die, ser⟩ = some ⟨⟨die, ser⟩, 1, .evaluating⟩ ∧ (t.strandAt m.core m.slot).grp = ⟨die, ser⟩ ∧
        (⟨m.id, m.core, m.slot, m.uid, .reply ⟨word (h g1 * 2 ^ 24 + 1), [], 0⟩, false⟩ : Ack) ∈ t.acks)) ∧
  (∀ (k blk ser : Nat) (s : State) (m : Msg) (h : Nat) (w0 w1 : Word) (grp : Grp) (e : Entry), s.net[k]? = some m → s.barred k m = false → (∀ h ∈ m.homes, s.awakeAt h = true) →
    m.body = .tans h w0 w1 grp true → (s.sagAt m.sag).bind (fun g => g.entryAt h) = some e →
    (e.st = .complete → exec (.galleyHomeRequest k blk ser) s = .next ((s.dropMsg k).answer m (.reply ⟨word h, [], 33⟩))) ∧
    (e.st = .evaluating → s.sameRoot e.grp grp = true → e.answers.contains (w0, if e.aw = 2 then w1 else 0) = true →
      exec (.galleyHomeRequest k blk ser) s = .next ((s.dropMsg k).replyTo m 1)) ∧
    (e.st = .failed → exec (.galleyHomeRequest k blk ser) s = .next (((s.dropMsg k).count m.sag (fun c => { c with dropAns := wrap1 c.dropAns })).replyTo m 2))) ∧
  (∀ (k blk ser : Nat) (s s1 : State) (m : Msg) (h : Nat) (w0 w1 : Word) (grp : Grp) (g : Saggar) (e : Entry), s.net[k]? = some m → s.barred k m = false → (∀ h ∈ m.homes, s.awakeAt h = true) →
    m.body = .tans h w0 w1 grp true → s.sagAt m.sag = some g → g.entryAt h = some e → e.st = .evaluating → s.sameRoot e.grp grp = true → e.answers.length < 65535 →
    let a := (w0, if e.aw = 2 then w1 else 0)
    let q := g.queuedOf e + e.merging * e.answers.length
    let n := blocksFor e.aw (e.answers.length + 1) (e.conts.length + e.merging) (q + e.merging + e.conts.length) -
      blocksFor e.aw e.answers.length (e.conts.length + e.merging) q
    e.answers.contains a = false →
    ((s.dropMsg k).roomFor m.sag (handleBank h) n = (true, s1) →
      exec (.galleyHomeRequest k blk ser) s = .next ((e.conts.foldl (fun (t : State) c => t.invoke m.sag (invokeOf c h a))
        (s1.modEntry m.sag h (fun e => { e with answers := e.answers ++ [a] }))).replyTo m 0)) ∧
    ((s.dropMsg k).roomFor m.sag (handleBank h) n = (false, s1) → exec (.galleyHomeRequest k blk ser) s =
      .next ((State.count { s1 with cone := s1.cone ++ [.fail e.grp 0] } m.sag (fun c => { c with dropAns := wrap1 c.dropAns })).replyTo m 2))) ∧
  (∀ (k blk ser : Nat) (s : State) (m : Msg) (h : Nat) (w0 w1 : Word) (grp : Grp), s.net[k]? = some m → s.barred k m = false → (∀ h ∈ m.homes, s.awakeAt h = true) →
    m.body = .tans h w0 w1 grp true → (s.sagAt m.sag).bind (fun g => g.entryAt h) = none →
    (s.bodyOpen m h = false → exec (.galleyHomeRequest k blk ser) s = .next ((s.dropMsg k).answer m (.reply ⟨word h, [], 33⟩))) ∧
    (s.bodyOpen m h = true →
      exec (.galleyHomeRequest k blk ser) s = .next (((s.dropMsg k).count m.sag (fun c => { c with dropAns := wrap1 c.dropAns })).replyTo m 2))) ∧
  (∀ (k : Nat) (s : State) (g : Grp) (sag : Nat) (v : Invoke) (x : Group), s.cone[k]? = some (.inc g sag v) → s.group (s.rootOf g) = some x → x.st = .evaluating →
    x.count + 1 < 2 ^ 48 → ∃ t, exec (.coneCountUpdate k) s = .next t ∧ t.group (s.rootOf g) = some { x with count := x.count + 1 } ∧
      t.cone = setAt s.cone k (.ack sag v) ∧ t.mem = s.mem) ∧
  (∀ (k : Nat) (s : State) (g : Grp) (uid : Nat) (x : Group), s.cone[k]? = some (.dec g uid) → s.tansOut uid = false → s.incOut (s.rootOf g) = false →
    s.failOut (s.rootOf g) = false → s.group (s.rootOf g) = some x → x.st = .evaluating →
    (1 < x.count → ∃ t, exec (.coneCountUpdate k) s = .next t ∧ t.group (s.rootOf g) = some { x with count := x.count - 1 } ∧ t.cone = dropAt s.cone k) ∧
    (x.count = 1 → x.parent = s.rootOf g → ∃ t, exec (.coneCountUpdate k) s = .next t ∧ (t.group (s.rootOf g)).map (·.st) = some .complete ∧
      ∀ G ∈ s.saggars, ∀ e ∈ G.2.entries, e.st = .evaluating → e.grp ∈ s.allGroups → s.rootOf e.grp = s.rootOf g → ConeMsg.complete G.1 (handleBank e.handle) (s.rootOf g) ∈ t.cone)) ∧
  (∀ (k : Nat) (s : State) (sag : Nat) (v : Invoke) (e : Entry) (g : Saggar), s.cone[k]? = some (.ack sag v) → s.sagAt sag = some g → g.entryAt v.entry = some e →
    e.st ≠ .failed → ∃ t, exec (.coneAcknowledgement k) s = .next t ∧ (t.sagAt sag).map (·.invokes) = some (g.invokes ++ [v]) ∧ t.cone = dropAt s.cone k) ∧
  (∀ (k : Nat) (s : State) (g e : Grp) (call : Msg) (h : Nat) (sp : Nat) (pc : Word) (args : List Word) (n aw : Nat) (c : Cont) (x y : Group),
    s.cone[k]? = some (.merge g e call h) → call.body = .tcall sp pc args n aw c → s.rootOf g ≠ s.rootOf e → s.group (s.rootOf g) = some x →
    s.group (s.rootOf e) = some y → x.st = .evaluating → y.st = .evaluating → (s.rootOf g).before (s.rootOf e) = true →
    ∃ t, exec (.groupMerge k) s = .next t ∧ t.group (s.rootOf g) = some { x with count := x.count + y.count } ∧
      t.group (s.rootOf e) = some { y with parent := s.rootOf g } ∧
      (⟨call.id, call.core, call.slot, call.uid, .reply ⟨word (h * 2 ^ 24 + 2), [], 0⟩, false⟩ : Ack) ∈ t.acks) ∧
  (∀ (k : Nat) (s : State) (sag bank : Nat) (root : Grp) (g : Saggar), s.cone[k]? = some (.complete sag bank root) → s.sagAt sag = some g →
    (∀ e ∈ g.entries, ∀ x ∈ g.entries, x.handle = e.handle → x = e) → ∃ t, exec (.completionNotice k) s = .next t ∧
    ∀ e ∈ g.entries, handleBank e.handle = bank → e.st = .evaluating → s.rootOf e.grp = root → e.abolish = false → e.waiters.length ≤ 65535 →
      (t.sagAt sag).bind (fun g => g.entryAt e.handle) = some { e with st := .complete, conts := [], pins := e.waiters.length, waiters := [], uid := 0 } ∧
      (∀ w ∈ e.waiters, s.alive w.1.core w.1.slot w.2 = true → s.relocking w.1.core = false → (∀ x ∈ g.entries, x ≠ e → w ∉ x.waiters) →
        (t.strandOf w.1).reply = some ⟨word (e.answers.length % 65536 * 16), [], 0⟩)) ∧
  (∀ (k : Nat) (s : State) (g : Grp) (uid : Nat) (x : Group), s.cone[k]? = some (.fail g uid) → s.tansOut uid = false → s.group (s.rootOf g) = some x →
    x.st = .evaluating → x.parent = s.rootOf g →
    ∃ t, exec (.groupFailure k) s = .next t ∧ (t.group (s.rootOf g)).map (·.st) = some .failed ∧
      ∀ G ∈ s.saggars, ∀ e ∈ G.2.entries, e.st = .evaluating → e.grp ∈ s.allGroups → s.rootOf e.grp = s.rootOf g → ConeMsg.failed G.1 (handleBank e.handle) (s.rootOf g) ∈ t.cone) ∧
  (∀ (k : Nat) (s : State) (sag bank : Nat) (root : Grp) (g : Saggar), s.cone[k]? = some (.failed sag bank root) → s.sagAt sag = some g →
    (∀ e ∈ g.entries, ∀ x ∈ g.entries, x.handle = e.handle → x = e) → ∃ t, exec (.failureNotice k) s = .next t ∧
    ∀ e ∈ g.entries, handleBank e.handle = bank → e.st = .evaluating → s.rootOf e.grp = root →
      (e.conts ≠ [] →
        (t.sagAt sag).bind (fun g => g.entryAt e.handle) = some { e with st := .failed, conts := [], failPins := e.conts.length, waiters := [], uid := 0 } ∧
        (s.entriesOf sag bank root = [e] → (t.sagAt sag).map (·.invokes) =
          some (g.invokes.filter (fun v => v.entry ≠ e.handle || v.errorOf.isSome) ++ e.conts.map (fun c => ⟨c, 0, 0, some e.handle, e.handle, false⟩)))) ∧
      (e.conts = [] → (t.sagAt sag).bind (fun g => g.entryAt e.handle) = none)) ∧
  (∀ (sag k : Nat) (r : Bool) (s : State) (g : Saggar) (e : Entry), s.sagAt sag = some g → g.entries[k]? = some e →
    (e.st = .evaluating → (s.group (s.rootOf e.grp)).map (·.st) ≠ some .complete →
      exec (.galleySoftError sag k r) s = .next { s with cone := s.cone ++ [.fail e.grp 0] }) ∧
    (e.st = .evaluating → (s.group (s.rootOf e.grp)).map (·.st) = some .complete → r = false → (∀ x ∈ g.entries, x.handle = e.handle → x = e) →
      ∃ t, exec (.galleySoftError sag k r) s = .next t ∧ t.cone = s.cone ∧
        (t.sagAt sag).bind (fun g => g.entryAt e.handle) = if e.conts = [] then none
          else some { e with st := .failed, conts := [], failPins := e.conts.length, waiters := [], uid := 0 }) ∧
    (e.st = .complete → r = false → ∃ t, exec (.galleySoftError sag k r) s = .next t ∧ (t.sagAt sag).bind (fun g => g.entryAt e.handle) = none)) ∧
  (∀ (sag k core j b : Nat) (s : State) (g : Saggar) (v : Invoke), s.sagAt sag = some g → g.invokes[k]? = some v → core = v.cont.core →
    s.grant sag core = some (j, b) → ∃ t, exec (.continuationInvocation sag k core) s = .next t ∧
      let n := t.strandAt core j
      n.live = true ∧ n.pc = v.cont.kpc ∧ n.sreg 1 = v.w0 ∧ n.sreg 2 = v.w1 ∧ n.sreg 3 = v.cont.saves.getD 0 0 ∧ n.sreg 4 = v.cont.saves.getD 1 0 ∧
      n.sreg 5 = v.cont.saves.getD 2 0 ∧ n.sreg 6 = (if v.errorOf.isSome then 1 else 0) ∧ n.grp = v.cont.grp ∧ n.ctx = v.cont.ctx ∧ n.st = v.cont.rm ∧
      n.priv = v.cont.priv ∧ (t.sagAt sag).map (·.invokes) = some (dropAt g.invokes k))

/-! Contexts and speculation. -/

/-- Context tags (R233 to R235, R327, R328, R333 to R335): `ctalloc` takes the lowest free tag or waits for one; `ctenter` enters a live context; a commit
sends its cells to the parent, at once or with its phase, a discard drops them; a `ctphase` whose strand has been stopped goes on at the allocator; `ctq` reports.
That a waiting tag is granted as asked, how a phase is released, and that a poisoned word of a cell commits as 0, are the model's (log 49, log 50, log 139). -/
def Obligations.ContextsComplete : Prop :=
  (∀ p ∈ [(Instr.ctalloc, false), (.ctallocNb, true)], ∀ (o : FmtA) (s u v : State) (a b : Word) (g : Saggar), s.Starts (p.1 o) → dstOk o.d = true →
    s.accepts o.d = true → s.Gives o.a o.x a u → u.Gives o.b o.y b v → v.sagAt v.me.sag = some g →
    let parent := bitsOf a 0 16
    let phase := bitsOf b 0 16
    let index := bitsOf b 16 16
    (parent ≠ 0 → g.ctxLive parent = false → Traps (p.1 o) s v 35 (word parent)) ∧
    (∀ x, parent ≠ 0 → g.ctx parent = some x → x.st = .live → 4 ≤ x.depth → Traps (p.1 o) s v 36 (word parent)) ∧
    ((parent = 0 ∨ g.ctxLive parent = true) → (∀ x, g.ctx parent = some x → x.depth < 4) →
      (∀ c ∈ g.ctxs, phase ≠ 0 → c.2.parent = parent → c.2.phase = phase → c.2.index = index → c.2.st = .releasing) →
      (∀ t, g.tagWait = [] → g.freeTag = some t → v.room o.d = true →
        Completes (p.1 o) s ((v.giveTag v.me.sag t parent phase index none).put o.d (word t))) ∧
      ((g.tagWait ≠ [] ∨ g.freeTag = none) → p.2 = true → v.room o.d = true → Completes (p.1 o) s (v.put o.d 0)) ∧
      ((g.tagWait ≠ [] ∨ g.freeTag = none) → p.2 = false → ∃ t : State, exec (p.1 o) s = .next t ∧ t.me.status = .parked .ctalloc ∧ t.me.work = [o.d.toNat] ∧
        (t.sagAt v.me.sag).map (·.tagWait) = some (g.tagWait ++ [.strand s.myRef s.me.uid parent phase index]) ∧ t.mem = s.mem))) ∧
  (∀ (sag tag : Nat) (s : State) (g : Saggar) (r : StrandRef) (uid pa ph ix : Nat) (rest : List TagReq), s.sagAt sag = some g →
    g.phases = [] → g.tagWait = .strand r uid pa ph ix :: rest → g.freeTag = some tag → s.alive r.core r.slot uid = true →
    s.relocking r.core = false → ∃ t : State, exec (.tagGrant sag) s = .next t ∧
    (t.strandOf r).reply = some ⟨word tag, [], 0⟩ ∧ (t.sagAt sag).map (·.tagWait) = some rest ∧
    (t.sagAt sag).bind (fun g => g.ctx tag) = some ⟨pa, ph, ix, (match g.ctx pa with | some x => x.depth + 1 | none => 1), .live, none⟩) ∧
  (∀ (sag n : Nat) (s u : State) (g : Saggar) (p : PhaseRun) (rest : List Nat), s.sagAt sag = some g → g.phases = [p] → p.rest = n :: rest →
    (s.commitsOut p.uid = true → exec (.tagGrant sag) s = .next (s.grantTag sag)) ∧
    (s.commitsOut p.uid = false → s.commitCtx (p.committer sag) n = .ok (true, u) →
      exec (.tagGrant sag) s = .next ((u.modSag sag (fun g => { g with phases := modIf g.phases (fun x => decide (x = p)) (fun x => { x with rest := rest }) })).grantTag sag))) ∧
  (∀ (s : State) (sag tag pa ph ix : Nat) (sp : Option SpecRef) (g : Saggar), s.sagAt sag = some g → tag < 65536 → let t := s.giveTag sag tag pa ph ix sp
    (t.sagAt sag).bind (fun g => g.ctx tag) = some ⟨pa, ph, ix, (match g.ctx pa with | some x => x.depth + 1 | none => 1), .live, sp⟩ ∧
    (∀ m ∈ t.net, ¬(m.sag = sag ∧ m.ctx = tag)) ∧ (∀ c, ∀ r ∈ (t.coreAt c).replay, ∀ m ∈ r.msgs, ¬(m.sag = sag ∧ m.ctx = tag)) ∧
    t.net.length = s.net.length ∧ (∀ m ∈ s.net, ¬(m.sag = sag ∧ m.ctx = tag) → m ∈ t.net) ∧ t.mem = s.mem) ∧
  (∀ (o : FmtSrc) (s u : State) (a : Word) (g : Saggar), s.Starts (.ctenter o) → s.Gives o.a o.x a u → u.sagAt u.me.sag = some g → s.me.spec = none →
    ((bitsOf a 0 16 = 0 ∨ g.ctxLive (bitsOf a 0 16) = true) → Completes (.ctenter o) s (u.modMe (fun m => { m with ctx := bitsOf a 0 16 }))) ∧
    (bitsOf a 0 16 ≠ 0 → g.ctxLive (bitsOf a 0 16) = false → Traps (.ctenter o) s u 35 (word (bitsOf a 0 16)))) ∧
  (∀ (o : FmtSrc) (s u : State) (a : Word) (g : Saggar) (x : Ctx), s.Gives o.a o.x a u → u.sagAt u.me.sag = some g → bitsOf a 0 16 ≠ 0 →
    g.ctx (bitsOf a 0 16) = some x → x.spec = none →
    let t := bitsOf a 0 16
    (s.Starts (.ctretireCommit o) → x.st = .live →
      (g.ctxBusy t = true → Traps (.ctretireCommit o) s u 38 (word t)) ∧
      (g.ctxBusy t = false → u.releaseOk 2 = true → x.phase ≠ 0 → Completes (.ctretireCommit o) s
        ((u.modSag u.me.sag (fun g => { g with ctxs := Tbl.put g.ctxs t { x with st := .retired } })).modMe (fun m => m.leaveCtx t x.parent))) ∧
      (∀ w, g.ctxBusy t = false → u.releaseOk 2 = true → x.phase = 0 → u.commitCtx u.committer t = .ok (true, w) →
        let v := w.modMe (fun m => m.leaveCtx t x.parent)
        (v.commitsOut v.me.uid = false → Completes (.ctretireCommit o) s v) ∧
        (v.commitsOut v.me.uid = true → exec (.ctretireCommit o) s = .next (v.modMe (fun m => { m with stage := 1, status := .held })))) ∧
      (∀ w, g.ctxBusy t = false → u.releaseOk 2 = true → x.phase = 0 → u.commitCtx u.committer t = .ok (false, w) → exec (.ctretireCommit o) s = hold w)) ∧
    (s.Starts (.ctretireDiscard o) → x.st ≠ .releasing → g.ctxBusy t = false → ∃ w : State, Completes (.ctretireDiscard o) s w ∧
      (w.sagAt u.me.sag).map (·.ctxs) = some (Tbl.del g.ctxs t) ∧ (w.sagAt u.me.sag).map (·.cells) = some (g.cells.filter (fun c => c.ctx ≠ t)) ∧
      w.me.ctx = (if s.me.ctx = t then x.parent else s.me.ctx) ∧ w.mem = s.mem)) ∧
  (∀ (s : State) (c : Committer) (src : Nat) (g : Saggar) (x : Ctx) (cell : Cell), s.sagAt c.iss.sag = some g → g.ctx src = some x → x.parent ≠ 0 →
    g.cells.filter (fun y => y.ctx = src) = [cell] → cell.bytes ≠ [] → (∀ b ∈ cell.bytes, b.1 < 64) → ∃ t, s.commitCtx c src = .ok (true, t) ∧
    t.net.map (fun m => (m.ctx, m.va, m.body)) = s.net.map (fun m => (m.ctx, m.va, m.body)) ++
      cell.bytes.map (fun b => (x.parent, cell.blk * 64 + b.1, .commit src (if cell.bad.contains (b.1 / 4) then 0 else b.2))) ∧
    (t.sagAt c.iss.sag).map (·.cells) = some g.cells ∧ (t.sagAt c.iss.sag).bind (fun g => g.ctx src) = some { x with st := .releasing }) ∧
  (∀ (o : FmtA) (s u v : State) (a b : Word) (g : Saggar), s.Starts (.ctphase o) → dstOk o.d = true → s.accepts o.d = true → s.Gives o.a o.x a u →
    u.Gives o.b o.y b v → v.sagAt v.me.sag = some g → (bitsOf a 0 16 = 0 ∨ g.ctxLive (bitsOf a 0 16) = true) →
    (bitsOf b 0 16 = 0 → Traps (.ctphase o) s v 35 0) ∧
    (bitsOf b 0 16 ≠ 0 → v.releaseOk 2 = true → g.retiredSiblings (bitsOf a 0 16) (bitsOf b 0 16) = [] →
      v.phaseBusy (bitsOf a 0 16) (bitsOf b 0 16) = false → v.commitsOut v.me.uid = false → v.room o.d = true →
      ∃ w : State, Completes (.ctphase o) s (w.put o.d 0) ∧ w.mem = s.mem ∧ w.me = { v.me with stage := 1 })) ∧
  (∀ (o : FmtA) (s : State) (n parent : Nat), s.me.cur = some (.ctphase o) → s.me.stage = 1 → s.me.work = [n, parent] →
    (s.commitsOut s.me.uid = true → exec (.ctphase o) s = hold s) ∧
    (s.commitsOut s.me.uid = false → s.room o.d = true → exec (.ctphase o) s = complete (s.put o.d (word n)))) ∧
  (∀ (g : Saggar) (parent phase : Nat), (∀ x ∈ g.ctxs, ∀ y ∈ g.ctxs, x.2.parent = parent → y.2.parent = parent → x.2.phase = phase → y.2.phase = phase →
      x.2.index = y.2.index → x = y) →
    ∀ x ∈ g.ctxs, (x.1 ∈ g.retiredSiblings parent phase ↔ ∃ y ∈ g.ctxs, y.1 = x.1 ∧ y.2.parent = parent ∧ y.2.phase = phase ∧ y.2.st = .retired)) ∧
  (∀ (o : FmtA) (s u v : State) (a b : Word) (g : Saggar), s.Starts (.ctq o) → dstOk o.d = true → s.accepts o.d = true → s.Gives o.a o.x a u →
    u.Gives o.b o.y b v → v.sagAt v.me.sag = some g → v.room o.d = true →
    (b = 0 → Completes (.ctq o) s (v.put o.d (word (match g.ctx (bitsOf a 0 16) with | some x => x.report | none => 0)))) ∧
    (b = 1 → Completes (.ctq o) s (v.put o.d (word (g.tagRange.countP (fun t => (g.ctx t).isNone))))) ∧
    (b = 2 → Completes (.ctq o) s (v.put o.d (word g.cells.length))) ∧ (b = 3 → Completes (.ctq o) s (v.put o.d (word g.counters.stray))) ∧
    (b = 4 → Completes (.ctq o) s (v.put o.d (word g.counters.specMiss))) ∧ (b = 5 → Completes (.ctq o) s (v.put o.d (word g.counters.aborts))) ∧
    (b = 6 → Completes (.ctq o) s (v.put o.d (word g.counters.soloRuns))) ∧ (6 < b.toNat → Traps (.ctq o) s v 2 (word (encode (.ctq o)))))

/-- Speculation (R236 to R241, R337 to R349): `sspawn` queues a task or says why not; a dispatch gives it a tag and a helper slot; `bop` takes its lock, writes its
undo record and opens an operation that `bopend` closes; `sdone`, `sabort` and `uend` end their strand; a task commits in its turn, an abort discards its tree and
replays its undo records, the helper with the registers of the task; where the place of a record is not yet known `bop` and the helper wait; `cload` replaces the commutativity table in privileged mode.
Which queued task is dispatched where, ST of a replaying helper and what a failed task does are the model's (log 22, log 25, log 26); EADDR of
SPEC_ROLE is a free value (log 1). -/
def Obligations.SpeculationCompletes : Prop :=
  (∀ p ∈ [(Instr.sspawnOrdered, true), (.sspawnUnordered, false)], ∀ (o : FmtA) (s u v t : State) (a b : Word) (r : List Word) (g : Saggar), s.Starts (p.1 o) →
    s.acquirePending = false → dstOk o.d = true → s.accepts o.d = true → s.Gives o.a o.x a u → u.Gives o.b o.y b v → Reads 2 a 4 v r t →
    t.sagAt t.me.sag = some g → t.room o.d = true →
    let inst := t.domainOf t.me
    let seq := bitsOf b 0 48
    (t.releaseOk 2 = false → exec (p.1 o) s = .next t.heldParked) ∧
    (t.releaseOk 2 = true → (r.getD 0 0 = 0 ∨ (r.getD 0 0).getLsbD 0 = true) → Completes (p.1 o) s (t.put o.d 4)) ∧
    (t.releaseOk 2 = true → r.getD 0 0 ≠ 0 → (r.getD 0 0).getLsbD 0 = false →
      ((∃ x ∈ g.specs, x.inst = inst ∧ x.seq = seq) → Completes (p.1 o) s (t.put o.d 2)) ∧
      ((∀ x ∈ g.specs, ¬(x.inst = inst ∧ x.seq = seq)) →
        (∀ n, p.2 = true → g.newestOf inst = some n → seq ≤ n → Completes (p.1 o) s (t.put o.d 3)) ∧
        ((p.2 = true → ∀ n, g.newestOf inst = some n → n < seq) →
          (s.tooLate g.lastLaunch s.myRank = true → exec (p.1 o) s = hold t) ∧
          (s.tooLate g.lastLaunch s.myRank = false → g.poolFull = true → Completes (p.1 o) s (t.put o.d 1)) ∧
          (s.tooLate g.lastLaunch s.myRank = false → g.poolFull = false → ∃ w : State, Completes (p.1 o) s (w.put o.d 0) ∧ w.mem = t.mem ∧
            (w.sagAt t.me.sag).map (·.lastLaunch) = some (s.poolCycle, s.myRank) ∧
            (w.sagAt t.me.sag).map (·.pool) = some (g.pool ++ [.spec inst seq]) ∧ ∃ x, (w.sagAt t.me.sag).map (·.specs) = some (g.specs ++ [x]) ∧
              (x.inst, x.seq, x.pc, x.a0, x.a1, x.a2, x.ordered, x.st, x.task) =
                (inst, seq, r.getD 0 0, r.getD 1 0, r.getD 2 0, r.getD 3 0, p.2, .queued, t.me.task)))))) ∧
  (∀ (sag inst seq core area j : Nat) (s : State) (g : Saggar) (t : SpecTask), s.sagAt sag = some g → s.specAt sag ⟨inst, seq⟩ = some t → t.st = .queued →
    g.dispatchOk t = true →
    (∀ tag, t.tag = none → g.tagWait = [] → g.freeTag = some tag → exec (.specTaskDispatch sag inst seq core) s = .next
      ((s.giveTag sag tag 0 0 0 (some ⟨inst, seq⟩)).modSpec sag ⟨inst, seq⟩ (fun t => { t with tag := some tag }))) ∧
    (∀ tag b, t.tag = some tag → g.freeArea inst = some area → g.holds (clusterOf core) = true → s.grant sag core = some (j, b) →
      ∃ u : State, exec (.specTaskDispatch sag inst seq core) s = .next u ∧ (u.specAt sag ⟨inst, seq⟩).map (·.st) = some .running ∧
        let n := u.strandAt core j
        n.live = true ∧ n.pc = t.pc ∧ n.sreg 1 = t.a0 ∧ n.sreg 2 = t.a1 ∧ n.sreg 3 = t.a2 ∧ n.ctx = tag ∧ n.seq = seq ∧ n.spec = some ⟨inst, seq⟩ ∧
        n.undob = word (g.cfg.undoVa + 8192 * area) ∧ n.undop = n.undob ∧ n.priv = t.priv)) ∧
  (∀ (o : FmtTwo) (s u v w : State) (a b : Word) (r : List Word) (g : Saggar) (t : SpecTask) (ref : SpecRef) (va : Nat), s.Starts (.bop o) → s.me.spec = some ref →
    s.me.inverse = false → s.me.bop = false → s.acquirePending = false → s.Gives o.a o.x a u → u.Gives o.b o.y b v →
    resolve v v.myCluster v.me.sag b 40 = some (.scratch v.core va) → b.toNat % 8 = 0 → v.me.reads.length = 2 → Reads 2 b 5 v r w →
    (∀ off, bopLimits r = some off → Traps (.bop o) s w 40 (b + word off)) ∧
    (bopLimits r = none → w.sagAt w.me.sag = some g → w.specAt w.me.sag ref = some t → t.solo = false →
      (∀ x ∈ g.specs, x.inst = t.inst → x.solo = true → x.st = .queued) → g.locks = [] → g.locksFull a = false → t.undop - t.undob ≠ 256 * 32 →
      ((∀ f, ((w.count w.me.sag f).undoLoc w.me.sag .store t.undop).1 = .waits) → ∃ z : State, exec (.bop o) s = .next z ∧ z.me.status = .held ∧
        (z.sagAt w.me.sag).map (·.locks) = some []) ∧
      ((∀ f, ((w.count w.me.sag f).undoLoc w.me.sag .store t.undop).1 ≠ .waits) → ∃ z : State, Completes (.bop o) s z ∧ z.me.bop = true ∧ (z.sagAt w.me.sag).map (·.locks) = some [⟨a, t.inst, t.seq, recBits r 8 1, r.getD 0 0⟩] ∧
        (z.specAt w.me.sag ref).map (·.undop) = some (t.undop + 32)))) ∧
  (∀ s : State, s.Starts .bopend → (s.me.bop = true → Completes .bopend s (s.modMe (fun m => { m with bop := false }))) ∧
    (s.me.bop = false → Traps .bopend s s.draw.2 39 s.draw.1)) ∧
  (∀ (s : State) (g : Saggar) (t : SpecTask) (ref : SpecRef), s.Starts .sdone → s.me.spec = some ref → s.me.inverse = false → s.me.bop = false →
    s.sagAt s.me.sag = some g → s.specAt s.me.sag ref = some t → g.ctxBusy (t.tag.getD 0) = false → s.me.laneLoads = 0 → t.st = .running →
    (∀ x ∈ s.liveStrands, x ≠ s.myRef → (s.strandOf x).spec ≠ some ref) → ∃ u : State, exec .sdone s = .next u ∧ (u.strandAt s.core s.slot).live = false ∧ u.mem = s.mem ∧
    (u.specAt s.me.sag ref).map (·.st) = some .done) ∧
  (∀ (o : FmtSrc) (s u : State) (a : Word) (t : SpecTask) (ref : SpecRef), s.Starts (.sabort o) → s.Gives o.a o.x a u → s.me.spec = some ref →
    s.me.inverse = false → s.specAt s.me.sag ref = some t → t.solo = false → exec (.sabort o) s = .next (u.beginAbort s.me.sag ref false (a.getLsbD 0) false)) ∧
  (∀ (s : State) (g : Saggar) (t : SpecTask) (ref : SpecRef), s.Starts .uend → s.me.spec = some ref → s.me.inverse = true → s.me.laneLoads = 0 → s.me.pend = 0 →
    s.releaseOk 2 = true → s.sagAt s.me.sag = some g → s.specAt s.me.sag ref = some t →
    (t.undop = t.undob → exec .uend s = .next (s.finishAbort s.me.sag ref)) ∧ (t.undop ≠ t.undob → exec .uend s = .next (s.stopForAbort s.myRef))) ∧
  (∀ (o : FmtSrc) (s u v w : State) (a : Word) (h r : List Word), s.Starts (.cload o) → (s.me.priv = false → Traps (.cload o) s s 3 (word (encode (.cload o)))) ∧
    (s.me.priv = true → s.acquirePending = false → s.Gives o.a o.x a u → Reads 1 a 1 u h v → ctLimits h = none → recBits h 0 1 ≠ 0 →
      Reads 2 (a + 8) ((recBits h 0 1 * recBits h 0 1 + 31) / 32) v r w →
      (ctAsym (recBits h 0 1) r = none → Completes (.cload o) s (w.modSag w.me.sag (fun g => { g with commute :=
        ⟨recBits h 0 1, (List.range (recBits h 0 1 * recBits h 0 1)).map (ctEntry r), decide (recBits h 1 1 = 1)⟩ }))) ∧
      (∀ k, ctAsym (recBits h 0 1) r = some k → Traps (.cload o) s w 42 (a + word (8 + 2 * k / 8))))) ∧
  (∀ (sag inst seq : Nat) (s : State) (g : Saggar) (t : SpecTask), s.sagAt sag = some g → s.specAt sag ⟨inst, seq⟩ = some t → s.specOut sag ⟨inst, seq⟩ = false →
    (t.st = .committing → exec (.specTaskCommit sag inst seq) s = .next (s.settleSpec sag t)) ∧
    (t.st = .done → g.commitTurn t = false → exec (.specTaskCommit sag inst seq) s = .next s) ∧
    (∀ u, t.st = .done → g.commitTurn t = true → s.commitCtx (t.committer sag) (t.tag.getD 0) = .ok (false, u) → exec (.specTaskCommit sag inst seq) s = .next u) ∧
    (∀ u, t.st = .done → g.commitTurn t = true → s.commitCtx (t.committer sag) (t.tag.getD 0) = .ok (true, u) → u.specOut sag ⟨inst, seq⟩ = true →
      exec (.specTaskCommit sag inst seq) s = .next (u.modSpec sag ⟨inst, seq⟩ (fun t => { t with st := .committing })))) ∧
  (∀ (sag inst seq : Nat) (s : State) (g : Saggar) (t : SpecTask) (tag : Nat), s.sagAt sag = some g → s.specAt sag ⟨inst, seq⟩ = some t → t.st = .aborting →
    t.tag = some tag → g.abortsNow = [] → (∀ x ∈ s.taskStrands sag ⟨inst, seq⟩, s.abortStopped x = true) → (∀ p ∈ g.phases, p.spec ≠ some ⟨inst, seq⟩) → (∀ x ∈ g.specs, x.inst = inst → x.st = .aborting → x.seq ≤ seq) → s.net = [] → (∀ c ∈ s.cores, c.2.replay = []) →
    t.undop ≠ t.undob → ∃ u : State, exec (.specAbort sag inst seq) s = .next u ∧ (u.specAt sag ⟨inst, seq⟩).bind (·.tag) = none ∧
      (u.sagAt sag).map (·.abortsNow) = some [(inst, seq)] ∧ (∀ c ∈ g.treeOf tag, (u.sagAt sag).map (fun g => g.cells.all (fun x => decide (x.ctx ≠ c))) = some true) ∧
      u.mem = s.mem) ∧
  (∀ (sag inst seq core b : Nat) (s v : State) (g : Saggar) (t : SpecTask) (r : StrandRef), s.sagAt sag = some g → s.specAt sag ⟨inst, seq⟩ = some t → t.st = .aborting →
    t.tag = none → (∀ q, t.helper = some q → (s.strandOf q).dying = true) → (inst, seq) ∈ g.abortsNow →
    (t.undop = t.undob → exec (.undoReplay sag inst seq core) s = .next (s.finishAbort sag ⟨inst, seq⟩)) ∧
    (t.undop ≠ t.undob → s.helperAt g t core = some (r, b) → s.undoRecord sag (t.undop - 32) = (none, v) → exec (.undoReplay sag inst seq core) s = .next v) ∧
    (∀ w, t.undop ≠ t.undob → s.helperAt g t core = some (r, b) → s.undoRecord sag (t.undop - 32) = (some w, v) → ∃ u : State, exec (.undoReplay sag inst seq core) s = .next u ∧ (u.specAt sag ⟨inst, seq⟩).map (·.undop) = some (t.undop - 32) ∧
      let n := u.strandOf r
      n.pc = w.getD 0 0 ∧ n.sreg 1 = w.getD 1 0 ∧ n.sreg 2 = w.getD 2 0 ∧ n.sreg 3 = w.getD 3 0 ∧ n.inverse = true ∧ n.live = true ∧
      n.tvec = t.tvec ∧ n.tspace = t.space ∧ n.heapb = t.heapb ∧ u.mem = v.mem))

/-! Privileged operations, debug and pre-emption. -/

/-- The `sysop` forms (R142, R143, R408 to R410, R435): outside privileged mode they trap; in it they invalidate, stop, resume, pulse and dump, with the
status values of R142.
The log record of `sysop.tlbinv`, the form of the writes of `sysop.dump`, and the status of a second stop, of a cancelled one and of the resume that cancels it
are the model's (log 59, log 60, log 112). -/
def Obligations.SystemOperationsComplete : Prop :=
  (∀ (o2 : FmtTwo) (o1 : FmtUn) (o0 : FmtDst) (o3 : FmtA) (s : State), s.me.priv = false →
    ∀ i ∈ [Instr.sysopTlbinv o2, .sysopStopcore o1, .sysopResumecore o1, .sysopSample o0, .sysopDump o3], s.Begins i → Traps i s s 3 (word (encode i))) ∧
  (∀ (o : FmtTwo) (s u v : State) (a b : Word), s.Starts (.sysopTlbinv o) → s.me.priv = true → s.Gives o.a o.x a u → u.Gives o.b o.y b v →
    ∃ t : State, Completes (.sysopTlbinv o) s t ∧ t.mem = s.mem ∧
      t.logRing = s.logRing ++ [⟨s.time, a.toNat, b.toNat, 255, s.me.sag, 1, 0⟩] ∧
      (∀ (n : Nat) (e : Tlb), e.va < 2 ^ 64 →
        let gone := e.sag = s.me.sag ∧ (b = 0 ∨ (e.va < a.toNat + b.toNat ∧ a.toNat < e.va + 2 ^ e.bits))
        (e ∈ (t.clusterAt n).tlb ↔ e ∈ (s.clusterAt n).tlb ∧ ¬gone) ∧ (e ∈ (t.dieAt n).tlb ↔ e ∈ (s.dieAt n).tlb ∧ ¬gone))) ∧
  (∀ (o : FmtUn) (s u : State) (a : Word), s.me.priv = true → dstOk o.d = true → s.accepts o.d = true → s.Gives o.a o.x a u → u.room o.d = true →
    let c := a.toNat
    let here := c < Config.cores ∧ s.inSaggar s.me.sag (clusterOf c) = true
    (s.Starts (.sysopStopcore o) →
      (¬here → Completes (.sysopStopcore o) s (u.put o.d 2)) ∧
      (here → c = s.core → Completes (.sysopStopcore o) s (u.put o.d 3)) ∧
      (here → c ≠ s.core → u.isStopped c = true → Completes (.sysopStopcore o) s (u.put o.d 1)) ∧
      (here → c ≠ s.core → u.isStopped c = false → (u.stopCore c).quiet c = true → Completes (.sysopStopcore o) s ((u.stopCore c).put o.d 0)) ∧
      (here → c ≠ s.core → u.isStopped c = false → (u.stopCore c).quiet c = false → exec (.sysopStopcore o) s = .next ((u.stopCore c).modMe
        (fun m => { m with stage := 1, work := [c], status := .held })))) ∧
    (s.Starts (.sysopResumecore o) →
      (¬here → Completes (.sysopResumecore o) s (u.put o.d 2)) ∧
      (here → (u.coreAt c).stopped = false → Completes (.sysopResumecore o) s (u.put o.d 1)) ∧
      (here → (u.coreAt c).stopped = true → ((u.modCore c (fun x => { x with stopped := false })).room o.d = true) →
        Completes (.sysopResumecore o) s ((u.modCore c (fun x => { x with stopped := false })).put o.d 0)))) ∧
  (∀ (o : FmtUn) (s : State) (c : Nat), s.me.cur = some (.sysopStopcore o) → s.me.stage = 1 → s.me.work = [c] →
    (s.quiet c = false → (s.coreAt c).stopped = true → exec (.sysopStopcore o) s = hold s) ∧
    ((s.quiet c = true ∨ (s.coreAt c).stopped = false) → s.room o.d = true → exec (.sysopStopcore o) s = complete (s.put o.d 0))) ∧
  (∀ (o : FmtDst) (s : State), s.Starts (.sysopSample o) → s.me.priv = true → dstOk o.d = true → s.accepts o.d = true → s.room o.d = true →
    (∀ t, s.pulse = some t → s.time < t → Completes (.sysopSample o) s (s.put o.d (word t))) ∧
    (∀ t, s.pulse = some t → t ≤ s.time → ∃ n u, exec .samplePulse s = .next u ∧ n % 100 = 0 ∧ s.time + 2000 ≤ n ∧ n < s.time + 2100 ∧
      (u.room o.d = true → Completes (.sysopSample o) s (State.put { u with pulse := some n } o.d (word n)))) ∧
    (s.pulse = none → ∃ t, t % 100 = 0 ∧ s.time + 2000 ≤ t ∧ t < s.time + 2100 ∧
      Completes (.sysopSample o) s (State.put { s with pulse := some t } o.d (word t)))) ∧
  (∀ (o : FmtA) (s u v : State) (a b : Word), s.Starts (.sysopDump o) → s.me.priv = true → s.acquirePending = false → dstOk o.d = true →
    s.accepts o.d = true → s.Gives o.a o.x a u → u.Gives o.b o.y b v →
    let c := a.toNat
    let here := c < Config.cores ∧ s.inSaggar s.me.sag (clusterOf c) = true
    let ws := v.dumpWords c
    (¬here → v.room o.d = true → Completes (.sysopDump o) s (v.put o.d 2)) ∧
    (here → v.isStopped c = false → v.room o.d = true → Completes (.sysopDump o) s (v.put o.d 1)) ∧
    (here → v.isStopped c = true → v.releaseOk 2 = false → exec (.sysopDump o) s = .next v.heldParked) ∧
    (here → v.isStopped c = true → v.releaseOk 2 = true → resolve v v.myCluster v.me.sag b (8 * ws.length) = none → Traps (.sysopDump o) s v 7 b) ∧
    (∀ (ps : List (Place × Nat × Body)) (t : State), here → v.isStopped c = true → v.releaseOk 2 = true →
      resolve v v.myCluster v.me.sag b (8 * ws.length) ≠ none → (∀ k, storePlaces ((List.range ws.length).zip ws) b [] v k = k ps t) → t.myCore.replay = [] → t.requestRoom 1 = true → (∀ p ∈ ps, p.1.replay = none) →
      ∃ w, exec (.sysopDump o) s = .next w ∧ w.me.stage = 1 ∧ w.me.status = .held ∧ w.mem = t.mem ∧
        w.net.map (fun m => (m.va, m.size, m.body)) = t.net.map (fun m => (m.va, m.size, m.body)) ++ ps.map (fun p => (p.1.named, p.2.1, p.2.2)))) ∧
  (∀ (o : FmtA) (s : State), s.me.cur = some (.sysopDump o) → s.me.stage = 1 →
    (s.releaseOk 2 = false → exec (.sysopDump o) s = .next s.heldParked) ∧
    (s.releaseOk 2 = true → s.room o.d = true → exec (.sysopDump o) s = complete (s.put o.d 0)))

/-- What a dump holds (R408 to R410), by dword: the core block, the strand records and the store records.
That ended slots are listed, the form of the store records and which moment counts as the stop are the model's (log 58, log 59, log 111). -/
def Obligations.DumpLayout : Prop :=
  (∀ (s : State) (c : Nat),
    let ws := s.dumpWords c
    let x := s.coreAt c
    ws.length = 80 + 64 * x.dumpSlots.length + 4 * (s.storeRecs c).length ∧
    (ws.take 8).drop 1 = [coreReg c, word (slotMask x.dumpSlots + slotMask (x.liveSlots.filter (fun k => match (x.slotAt k).status with | .parked _ => true | _ => false)) * 2 ^ 16),
      x.tags, word (s.storeRecs c).length, 0, 0, 0] ∧
    ws.getD 0 0 = word x.stopTime ∧
    (∀ k j, k < 8 → j < 8 → ws.getD (8 + k) 0 = (x.queue k).report ∧ ws.getD (16 + 8 * k + j) 0 = (x.queue k).entries.getD j 0) ∧
    (∀ i k, x.dumpSlots[i]? = some k → (ws.drop (80 + 64 * i)).take 64 = (x.slotAt k).dumpRec k (s.outside c k))) ∧
  (∀ (m : Strand) (slot : Nat) (out : Bool),
    let r := m.dumpRec slot out
    r.length = 64 ∧ (r.getD 0 0, r.getD 2 0, r.getD 3 0, r.getD 4 0, r.getD 5 0, r.getD 6 0, r.getD 7 0) = (m.pc, m.st, m.epc, m.ecause, m.eaddr, m.istate0, m.istate1) ∧
    r.getD 1 0 = word (slot + m.dumpState out) ∧ (∀ i, i < 32 → r.getD (8 + i) 0 = m.sreg i) ∧ (∀ i, i < 8 → r.getD (40 + i) 0 = m.woreg i) ∧
    (∀ i, i < 32 → (r.getD 48 0).getLsbD i = m.sFull.getLsbD i) ∧ (∀ i, i < 8 → (r.getD 48 0).getLsbD (32 + i) = m.woFull.getLsbD i) ∧
    (∀ k, k < 3 → r.getD (49 + k) 0 = m.lcAt k ∧ r.getD (52 + k) 0 = m.lbAt k ∧ r.getD (55 + k) 0 = m.leAt k) ∧
    r.drop 58 = [word m.ctx, word m.tspace, m.grp.reg, word m.seq, word m.pend, word m.vl]) ∧
  (∀ (m : Msg) (va data log : Nat) (upd : Bool) (p : Option ReplayWhy), ∃ z, storeRec m (va, data, log, upd) p =
    [word va, word data, z, (match p with | some .writeProtect => 1 | some .dirtyLog => 2 | some .cellFull => 3 | none => 0)] ∧
    (m.slot < 256 → log < 4 → bitsOf z 0 8 = m.slot ∧ bitsOf z 8 8 = log ∧ bitsOf z 16 8 = (if p.isSome then 0 else if upd then 2 else 1) ∧
      bitsOf z 24 8 = 0 ∧ bitsOf z 32 16 = m.ctx % 65536))

/-- Debug and sampling (R432, R433, R435, R436, R441): a stop leaves everything but held strands where it is, and those too while the die relocks; a resume lets the core issue; under
STEP only SSLOT issues, in one cycle, after which the core has stopped again; the debug word is written; a pulse latches every core, each slot with the code of what it does.
The numbers of the registers that a write names are the model's choice, and the order of the sample codes is its reading (log 62, log 70). -/
def Obligations.DebugAndSampling : Prop :=
  (∀ (c : Nat) (s : State), exec (.debugStop c) s = .next (s.stopCore c) ∧ exec (.debugResume c) s = .next (s.modCore c (fun x => { x with stopped := false })) ∧
    ((s.coreAt c).stopped = true → s.stopCore c = s) ∧
    ((s.coreAt c).stopped = false →
      let t := s.stopCore c
      (t.coreAt c).stopped = true ∧ (t.coreAt c).stopTime = s.time ∧ (t.mem, t.full, t.net, t.acks, t.waiters, t.saggars) = (s.mem, s.full, s.net, s.acks, s.waiters, s.saggars) ∧
      (∀ k, k < 16 → (s.strandAt c k).status ≠ .held →
        ((t.strandAt c k).cur, (t.strandAt c k).status, (t.strandAt c k).stage, (t.strandAt c k).pc, (t.strandAt c k).s) =
        ((s.strandAt c k).cur, (s.strandAt c k).status, (s.strandAt c k).stage, (s.strandAt c k).pc, (s.strandAt c k).s)) ∧
      (s.relocking c = true → ∀ k, t.strandAt c k = s.strandAt c k) ∧
      (∀ k, k < 16 → s.relocking c = false → (s.strandAt c k).live = true → (s.strandAt c k).status = .held → (s.strandAt c k).sent = false →
        ((t.strandAt c k).cur, (t.strandAt c k).status, (t.strandAt c k).stage, (t.strandAt c k).pc, (t.strandAt c k).s) =
        (none, .ready, 0, (s.strandAt c k).pc, (s.strandAt c k).s)))) ∧
  (∀ (c : Nat) (s t : State), s.finishing c = none → s.turn c = some t → (t.coreAt c).dctl.getLsbD 7 = true → (t.coreAt c).halted = false →
    let k := bitsOf (t.coreAt c).dctl 8 4
    ((t.focus c k).coreAt c).stopped = true ∧ (t.eligible c k = true → coreCycle c s = stepped true c (runStrand (t.focus c k))) ∧
    (t.eligible c k = false → ∃ u, coreCycle c s = .next u ∧ (u.coreAt c).stopped = true ∧ u.mem = t.mem)) ∧
  (∀ (c : Nat) (u : State), stepped true c (.next u) = .next (u.backOffAll c)) ∧
  (∀ (s : State) (c k : Nat), (s.relocking c = true → s.sampleCode c k = 14) ∧ (s.relocking c = false → (s.isStopped c = true → s.sampleCode c k = 13) ∧
    (s.isStopped c = false → ((s.strandAt c k).status = .ready → s.sampleCode c k = if s.outside c k then 12 else 0) ∧
      (∀ w, (s.strandAt c k).status = .parked w → s.sampleCode c k = w.row) ∧
      (((s.strandAt c k).status = .out ∨ (s.strandAt c k).status = .held) → s.sampleCode c k = 12)))) ∧
  (∀ (reg unit : Nat) (w : Word) (s : State),
    (Config.cores ≤ unit → exec (.registerWrite reg unit w) s = .next s) ∧
    (1 < reg → exec (.registerWrite reg unit w) s = .next s) ∧
    (unit < Config.cores → reg = 1 → exec (.registerWrite reg unit w) s = .next (s.modCore unit (fun c => { c with ebud := clampEbud w }))) ∧
    (unit < Config.cores → reg = 0 → ∃ t, exec (.registerWrite reg unit w) s = .next t ∧ (t.coreAt unit).stopped = w.getLsbD 0 ∧ t.mem = s.mem ∧
      ∀ n, n < 64 → (t.coreAt unit).dctl.getLsbD n = if 5 ≤ n ∧ n < 12 then w.getLsbD n else (s.coreAt unit).dctl.getLsbD n)) ∧
  (∀ (s : State) (t : Nat), s.pulse = some t →
    (s.time < t → exec .samplePulse s = .next s) ∧
    (t ≤ s.time → ∃ u r, exec .samplePulse s = .next u ∧ u.pulse = none ∧ u.sampleRing = s.sampleRing ++ [r] ∧ r.time = t ∧ u.mem = s.mem ∧
      (∀ c x, Tbl.find s.cores c = some x → (u.coreAt c).sampled = s.sampleCore c ∧ (u.coreAt c).slots = x.slots ∧
        (s.sampleCore c ≠ [] → (c, toBytes 2 (slotMask ((s.sampleCore c).map (·.1))) ++ sampleSlots none ((s.sampleCore c).map (·.2))) ∈ r.body)))) ∧
  (∀ (s : State) (c k : Nat), k < 16 → (s.coreAt c).saved = none → (s.strandAt c k).live = true → (k, (s.strandAt c k).pc, s.sampleCode c k) ∈ s.sampleCore c) ∧
  (∀ r : SampleRec, (∀ i, i < 8 → r.bytes[i]? = some (BitVec.ofNat 8 (r.time / 256 ^ i))) ∧ (r.bytes.drop 8).take 4 = [0, 15, 0, 0] ∧
    (r.body = [] → r.bytes.length = 7696 ∧ ∀ b ∈ r.bytes.drop 16, b = 0)) ∧
  toBytes 2 (slotMask [0, 3]) ++ sampleSlots none [(0x10040, 0), (0x10040, 5)] = [0x09, 0, 0, 0x20, 0x80, 0, 0, 0, 0, 0, 0x15]

/-- Pre-emption (R208, R359, R367 to R369, R405 to R407, R433, R441): a save waits for replies and jobs, takes the core's jobs, ranges, bands and waits, and gives its
groups back; a resume puts bands, jobs one by one, groups and waits back, and goes on at a later turn where one must wait. The waits are made
anew: what they wait for is looked at, and a wait that goes on stands again at its home, barrier, allocator, queue or pool (R208). A stopped core, and one whose die relocks, is not pre-empted.
What a save takes out and how a resume restores it is the model's choice (log 61). -/
def Obligations.PreemptionSavesAndResumes : Prop :=
  (∀ (core : Nat) (ws : List WithdrawRec) (s : State), ((s.coreAt core).stopped = true ∨ (s.coreAt core).saved.isSome = true ∨ s.relocking core = true) →
    exec (.preemptSave core ws) s = .next s) ∧
  (∀ (core : Nat) (ws : List WithdrawRec) (s : State), (s.coreAt core).stopped = false → (s.coreAt core).saved = none → s.relocking core = false →
    let h := s.haltCore core
    (h.coreAt core).halting = true ∧
    ((h.strandsReady core = false ∨ h.jobsReady core = false) → exec (.preemptSave core ws) s = .next h) ∧
    (∀ (jobs : List Job) (t : State), h.strandsReady core = true → h.jobsReady core = true →
      State.withdrawAll (clusterOf core) ws ((h.clusterAt (clusterOf core)).jobs.filter (fun j => decide (j.core = core))) h = some (jobs, t) →
      ∃ u v, exec (.preemptSave core ws) s = .next u ∧ u.mem = t.mem ∧ (u.coreAt core).saved = some v ∧ (u.coreAt core).halting = false ∧ v.jobs = jobs ∧
        (u.clusterAt (clusterOf core)).jobs = (t.clusterAt (clusterOf core)).jobs.filter (fun j => decide (j.core ≠ core)) ∧
        (∀ r ∈ (u.clusterAt (clusterOf core)).ranges, r.core ≠ core) ∧ (∀ w ∈ u.waiters, w.msg.core ≠ core) ∧
        v.ranges = (t.clusterAt (clusterOf core)).ranges.filter (fun r => decide (r.core = core)) ∧ v.waits = t.waiters.filter (fun w => decide (w.msg.core = core)) ∧
        (∀ b, b < 8 → bitsOf (t.clusterAt (clusterOf core)).bandMap (4 * b) 4 = 8 + core % 8 → (b, Tbl.get (t.clusterAt (clusterOf core)).bands b Band.clear) ∈ v.bands) ∧
        (∀ k, k < 16 → (t.strandAt core k).live = true → 0 < (t.strandAt core k).g → (k, (t.strandAt core k).uid, (t.strandAt core k).g) ∈ v.claims) ∧
        (∀ k, (u.strandAt core k).g = 0 ∧ (u.strandAt core k).shrink = none ∧
          let x := t.strandAt core k
          let y := u.strandAt core k
          (y.live, y.pc, y.s, y.sFull, y.wo, y.woFull, y.st, y.v, y.m, y.status, y.cur) = (x.live, x.pc, x.s, x.sFull, x.wo, x.woFull, x.st, x.v, x.m, x.status, x.cur)))) ∧
  (∀ (cl : Nat) (j : Job) (ws : List WithdrawRec) (s : State), (j.state ≠ .running ∨ j.desc.kind = .mmsw) → s.withdraw cl j ws = some ({ j with state := .withdrawn }, s)) ∧
  (∀ (core : Nat) (s : State), (s.coreAt core).saved = none → (s.coreAt core).away = [] → exec (.preemptResume core) s = .next s) ∧
  (∀ (core : Nat) (s : State) (v : CoreSave), (s.coreAt core).saved = some v →
    ((∃ b ∈ v.bands, s.bandBack core b.1 = false) → exec (.preemptResume core) s = .next (s.modCore core (fun c => { c with saved := some v, halting := true }))) ∧
    (∀ k i n, v.bands = [] → v.jobs = [] → v.claims = [(k, i, n)] → s.alive core k i = true → s.freeGroups (clusterOf core) < n →
      ∃ u, exec (.preemptResume core) s = .next u ∧ (u.coreAt core).saved = some v ∧ (u.coreAt core).halting = true ∧ u.mem = s.mem) ∧
    (∀ j js, v.bands = [] → v.jobs = j :: js → 16 ≤ (s.clusterAt (clusterOf core)).jobs.length →
      ∃ u, exec (.preemptResume core) s = .next u ∧ (u.coreAt core).saved = some v ∧ (u.coreAt core).halting = true ∧
        (u.clusterAt (clusterOf core)).jobs = (s.clusterAt (clusterOf core)).jobs ∧ u.mem = s.mem) ∧
    (∀ (w x : CoreSave) (t1 t2 t3 : State), s.bandsBack core v = (w, t1) → w.bands = [] → State.jobsBack core w.jobs.length w t1 = (x, t2) → x.jobs = [] →
      State.claimsBack core x.claims t2 = ([], t3) → v.waits = [] → v.bars = [] → v.tags = [] → v.rings = [] → v.twaits = [] → v.lanes = [] →
      ∃ u, exec (.preemptResume core) s = .next u ∧ u.mem = s.mem ∧ (u.coreAt core).saved = none ∧ (u.coreAt core).halting = false ∧
        (u.clusterAt (clusterOf core)).jobs = (s.clusterAt (clusterOf core)).jobs ++ v.jobs.map (fun j => { j with state := .waiting }) ∧
        (∀ r, r ∈ (u.clusterAt (clusterOf core)).ranges ↔ r ∈ (s.clusterAt (clusterOf core)).ranges ∨ (r ∈ v.ranges ∧ ∃ j ∈ v.jobs, j.id = r.job)) ∧
        (∀ k i n, v.claims = [(k, i, n)] → s.alive core k i = true → (u.strandAt core k).g = n) ∧
        (∀ b x, v.bands = [(b, x)] → b < 8 → Tbl.sortedFrom 0 (s.clusterAt (clusterOf core)).bands = true → bitsOf (u.clusterAt (clusterOf core)).bandMap (4 * b) 4 = 8 + core % 8 ∧ Tbl.get (u.clusterAt (clusterOf core)).bands b Band.clear = x) ∧
        (∀ k, let x := s.strandAt core k
          let y := u.strandAt core k
          (y.live, y.pc, y.s, y.sFull, y.st, y.v, y.m, y.status, y.cur, y.reply) = (x.live, x.pc, x.s, x.sFull, x.st, x.v, x.m, x.status, x.cur, x.reply))) ∧
    (∀ (w x : CoreSave) (t1 t2 t3 : State), s.bandsBack core v = (w, t1) → w.bands = [] → State.jobsBack core w.jobs.length w t1 = (x, t2) → x.jobs = [] →
      State.claimsBack core x.claims t2 = ([], t3) →
      let t4 := t3.modCore core (fun c => { c with saved := none, halting := false })
      exec (.preemptResume core) s = .next (((t4.waitAgain core x).poolEvent (clusterOf core)).wakeUnit core) ∧
      (x.waits, x.bars, x.tags, x.rings, x.twaits, x.lanes) = (v.waits, v.bars, v.tags, v.rings, v.twaits, v.lanes))) ∧
  (∀ (core k uid : Nat) (s : State) (v : CoreSave) (r : StrandRef), r = ⟨core, k⟩ → uid = (s.strandAt core k).uid →
    (∀ (w : Waiter), v.waits = [w] → v.bars = [] → v.tags = [] → v.rings = [] → v.twaits = [] → v.lanes = [] → s.alive w.msg.core w.msg.slot w.msg.uid = true →
      (s.stalled w.msg = true → s.waitAgain core v = { s with waiters := s.waiters ++ [⟨w.msg, true⟩] }) ∧
      (∀ b, s.stalled w.msg = false → (∀ h ∈ w.msg.homes, s.awakeAt h = true) → (∀ i, i < 8 → Tbl.find s.errs (poisonWord (w.msg.loc + i)) = none) →
        w.msg.body = .swait b → s.anyDead w.msg.loc 8 = false →
        (b.toInt ≤ (s.dword w.msg.loc).toInt → s.waitAgain core v = s.replyTo w.msg (s.dword w.msg.loc)) ∧
        ((s.dword w.msg.loc).toInt < b.toInt → s.waitAgain core v = s.listWaiter w.msg .signal))) ∧
    (∀ c n p, v.bars = [(k, c, n, p)] → v.waits = [] → v.tags = [] → v.rings = [] → v.twaits = [] → v.lanes = [] → s.stillParked r .barrier = true →
      ((s.coreAt c).bar n).st = 1 →
      (((s.coreAt c).bar n).ph = p → s.waitAgain core v = s.modCore c (fun x => x.setBar n { x.bar n with waiters := (x.bar n).waiters ++ [(r, uid)] })) ∧
      (((s.coreAt c).bar n).ph ≠ p → s.waitAgain core v = s.foundReply r 0)) ∧
    (∀ u pa ph ix, v.tags = [.strand r u pa ph ix] → v.waits = [] → v.bars = [] → v.rings = [] → v.twaits = [] → v.lanes = [] → s.stillParked r .ctalloc = true →
      s.waitAgain core v = s.modSag (s.strandOf r).sag (fun g => { g with tagWait := g.tagWait ++ [.strand r u pa ph ix] })) ∧
    (∀ q g x, v.rings = [(k, q)] → v.waits = [] → v.bars = [] → v.tags = [] → v.twaits = [] → v.lanes = [] → s.stillParked r (.ring q) = true →
      s.sagAt (s.strandOf r).sag = some g → Tbl.find g.queues q = some x → x.ring = [] →
      s.waitAgain core v = s.modQueue (s.strandOf r).sag q (fun x => { x with waiters := x.waiters ++ [(r, uid)] })) ∧
    (∀ c, v.lanes = [c] → v.waits = [] → v.bars = [] → v.tags = [] → v.rings = [] → v.twaits = [] → c.who = r → s.stillParked r .lane = true →
      s.waitAgain core v = s.modCluster (clusterOf core) (fun x => { x with claimants := Claimant.join { c with cycle := s.poolCycle } x.claimants })))

/-! Launching and scheduling. -/

/-- `launch` and triggers (R204, R373 to R375, R431): a record that breaks a limit traps at the broken field or is refused; a full pool answers BUSY; otherwise
the instance enters the pool, of one arithmetic cycle the host's triggers first, then launches by core number, then slot: one that comes behind another of a later place is put off to a later
cycle (R375, log 125). The trap for a misaligned PATCH and the answer before bring-up are the model's choices (log 91, log 114). -/
def Obligations.LaunchesAndTriggers : Prop :=
  (∀ (o : FmtUn) (s u t : State) (a : Word) (r : List Word) (g : Saggar), s.Starts (.launch o) → s.acquirePending = false → dstOk o.d = true → s.accepts o.d = true →
    s.Gives o.a o.x a u → Reads 1 a 4 u r t → t.sagAt t.me.sag = some g →
    let n := recBits r 16 2
    let list := r.getD 1 0
    (∀ off, g.launchLimits r = some off → Traps (.launch o) s t 26 (a + word off)) ∧
    (∀ (ps : List Word) (w : State), g.launchLimits r = none → (n = 0 → ps = [] ∧ w = t) → (n ≠ 0 → Reads 5 list (2 * n) t ps w) →
      let patches := (List.range n).map (fun i => ((ps.getD (2 * i) 0).toNat, ps.getD (2 * i + 1) 0))
      ∀ x, g.graph (recBits r 0 8) = some x →
      (∀ i, badPatch patches x.params.length = some i → Traps (.launch o) s w 26 (list + word (16 * i))) ∧
      (badPatch patches x.params.length = none → w.releaseOk 2 = false → exec (.launch o) s = .next w.heldParked) ∧
      (badPatch patches x.params.length = none → w.releaseOk 2 = true → s.tooLate g.lastLaunch s.myRank = true → exec (.launch o) s = hold w) ∧
      (badPatch patches x.params.length = none → w.room o.d = true → w.releaseOk 2 = true → s.tooLate g.lastLaunch s.myRank = false →
        (g.poolFull = true → Completes (.launch o) s (w.put o.d 1)) ∧
        (g.poolFull = false →
          Completes (.launch o) s ((w.accept w.me.sag ⟨recBits r 0 8, recBits r 18 1, recBits r 8 8, n, 0, r.getD 3 0, false, patches⟩ false).put o.d 0))))) ∧
  (∀ (g : Saggar) (r : List Word), g.launchLimits r = none ↔ (g.graph (recBits r 0 8)).isSome = true ∧ recBits r 8 8 % 8 = 0 ∧ recBits r 16 2 ≤ 64 ∧
    (recBits r 8 8 = 0 → recBits r 16 2 = 0) ∧ recBits r 18 1 ≤ 3 ∧ recBits r 19 5 = 0 ∧ bitsOf (r.getD 3 0) 57 7 = 0 ∧ (r.getD 3 0).toNat % 8 = 0) ∧
  (∀ (s : State) (sag : Nat) (p : LaunchRec) (host : Bool) (g : Saggar), s.sagAt sag = some g → ∃ h, (s.accept sag p host).sagAt sag = some h ∧
    h.pool = g.pool ++ [.instance_ (g.accepts + 1)] ∧ h.accepts = g.accepts + 1 ∧
    h.commute = g.commuteOf p.graph ∧ h.lastLaunch = (s.poolCycle, if host then 0 else s.myRank) ∧
    ∃ i, h.instances = g.instances ++ [i] ∧ (i.id, i.accept, i.graph, i.prio, i.sig, i.hostSig, i.patches, i.host, i.started, i.failed) =
      (g.accepts + 1, g.accepts + 1, p.graph, p.prio, p.sig, p.hostSig, p.patches, host, false, false) ∧
      i.areas.length ≤ g.cfg.undoEach ∧ ∀ a ∈ i.areas, a < g.cfg.undoAreas ∧ ∀ y ∈ g.instances, a ∉ y.areas) ∧
  (∀ (sag : Nat) (p : LaunchRec) (s : State),
    (s.bringup.getLsbD 3 = false → exec (.trigger sag p) s = .next { s with completions := s.completions ++ [(0, 2)] }) ∧
    (∀ g, s.bringup.getLsbD 3 = true → s.sagAt sag = some g →
      (g.graph p.graph = none → exec (.trigger sag p) s = .next { s with capFaults := s.capFaults + 1, completions := s.completions ++ [(0, 3)] }) ∧
      (∀ x, g.graph p.graph = some x → (3 < p.prio ∨ p.sig.toNat % 8 ≠ 0 ∨ (p.hostSig = false ∧ bitsOf p.sig 57 7 ≠ 0) ∨ p.patch % 8 ≠ 0 ∨ 64 < p.npatch ∨
          (p.patch = 0 ∧ p.npatch ≠ 0) ∨ p.rest ≠ 0 ∨ (badPatch p.patches x.params.length).isSome = true) →
        exec (.trigger sag p) s = .next { s with capFaults := s.capFaults + 1, completions := s.completions ++ [(0, 3)] }) ∧
      (∀ x, g.graph p.graph = some x → p.prio ≤ 3 → p.sig.toNat % 8 = 0 → (p.hostSig = true ∨ bitsOf p.sig 57 7 = 0) → p.patch % 8 = 0 → p.npatch ≤ 64 →
          (p.patch ≠ 0 ∨ p.npatch = 0) → p.rest = 0 → p.patches.length = p.npatch → badPatch p.patches x.params.length = none →
        (s.tooLate g.lastLaunch 0 = true → exec (.trigger sag p) s = .next s) ∧
        (s.tooLate g.lastLaunch 0 = false → g.poolFull = true → exec (.trigger sag p) s = .next { s with completions := s.completions ++ [(0, 2)] }) ∧
        (s.tooLate g.lastLaunch 0 = false → g.poolFull = false → exec (.trigger sag p) s = .next (s.accept sag p true)))))

/-- Images, graphs and instances (R371, R372, R374 to R376, R380, R430): what loading, uploading and freeing leave; the oldest instance of the highest priority leaves the
pool, patched; completed tasks fire their edges; an ended instance adds 1, or 1 + 2^32 where it has failed, to its signal, once that can be
made, and takes a graph to be freed with it.
The choice among instances of one priority, the effect of a failing signal, the resolved records and an upload before bring-up are the model's (log 18,
log 52, log 53, log 57, log 114); so is who finds a kernel's entry (log 128). -/
def Obligations.GraphsAndInstancesRun : Prop :=
  (∀ (b : ImageRec) (s t u : State) (g : Saggar) (f1 f2 : List Nat), s.sagAt b.sag = some g → b.base % 65536 = 0 → b.textPa % 65536 = 0 → b.dataPa % 65536 = 0 → Memory.wf u.mem = true →
    (∀ a, u.fenced a = false) → s.imageWaits b ((b.text.length + 65535) / 65536 + (b.data.length + 65535) / 65536) = false → let dataVa := b.base + (b.text.length + 65535) / 65536 * 65536
    State.mapRun s.someCompositor.1 g b.key 0x0B ((b.text.length + 65535) / 65536) b.base b.textPa b.tables s.someCompositor.2 = some (t, f1) →
    State.mapRun s.someCompositor.1 g b.key 0x07 ((b.data.length + 65535) / 65536) dataVa b.dataPa f1 t = some (u, f2) →
    ∃ w, exec (.imageLoad b) s = .next w ∧ (∃ n, w.logRing.length = s.logRing.length + n ∧ (b.text.length + 65535) / 65536 + (b.data.length + 65535) / 65536 ≤ n) ∧ (∃ h, w.sagAt b.sag = some h ∧ (∀ k ∈ resolveLeases b.base dataVa b.kernels b.leaseRelocs, k ∈ h.kernels) ∧
        (∀ k n r l, b.kernels = [k] → k.leases = [l] → b.leaseRelocs = [r] → r.kernel = 0 → r.lease = 0 → n = (if r.text then b.base else dataVa) →
          { k with leases := [{ l with base := l.base + n }] } ∈ h.kernels)) ∧
      (b.relocs = [] → (∀ i x, b.data[i]? = some x → w.byte (b.dataPa + i) = x) ∧
        ((b.textPa + b.text.length ≤ b.dataPa ∨ b.dataPa + b.data.length ≤ b.textPa) → ∀ i x, b.text[i]? = some x → w.byte (b.textPa + i) = x)) ∧
      (∀ r, b.relocs = [r] → w.dword ((if r.inText then b.textPa else b.dataPa) + r.at_) = word ((if r.text then b.base else dataVa) + r.off))) ∧
  (∀ (sag : Nat) (x : GraphRec) (s : State) (g : Saggar), s.sagAt sag = some g →
    (s.bringup.getLsbD 3 = true → g.graphOk x = true → exec (.graphUpload sag x) s = .next (s.modSag sag (fun g => { g with graphs := g.graphs ++ [x] }))) ∧
    ((s.bringup.getLsbD 3 = false ∨ g.graphOk x = false) → exec (.graphUpload sag x) s = .next s)) ∧
  (∀ (g : Saggar) (x : GraphRec), g.graphOk x = true → x.handle ≠ 0 ∧ 1 ≤ x.nodes.length ∧ x.nodes.length ≤ 4096 ∧ 8 ≤ x.params.length ∧ x.params.length ≤ 65536 ∧
    x.params.length % 8 = 0 ∧ ∀ n ∈ x.nodes, (g.kernels.any (fun k => decide (k.handle = n.kern))) = true ∧ n.param % 8 = 0 ∧ n.param + 32 ≤ x.params.length ∧
      1 ≤ n.w ∧ n.w ≤ g.cfg.w ∧ 1 ≤ n.h ∧ n.h ≤ g.cfg.h ∧ n.quota ≤ 16 ∧ n.cores % 256 ≠ 0 ∧ n.succAt + 2 * n.succ.length ≤ graphBytes x ∧ n.rest = 0 ∧
      ∀ i ∈ n.succ, i < x.nodes.length) ∧
  (∀ (g : Saggar) (x : GraphRec) (i : Nat) (n : NodeRec), x.nodes[i]? = some n → i ∈ n.succ → g.graphOk x = false) ∧
  (∀ (sag h : Nat) (s : State) (g : Saggar), s.sagAt sag = some g → ∃ t k, exec (.graphFree sag h) s = .next t ∧ t.sagAt sag = some k ∧ k.instances = g.instances ∧
    ((∃ i ∈ g.instances, i.graph = h) → k.graphs = g.graphs ∧ h ∈ k.freeing) ∧
    ((∀ i ∈ g.instances, i.graph ≠ h) → k.graphs = g.graphs.filter (fun x => decide (x.handle ≠ h)) ∧ k.freeing = g.freeing)) ∧
  (∀ (g : Saggar) (i : Instance), g.nextInstance = some i → ∀ k y, .instance_ k ∈ g.pool → g.instances.find? (fun x => decide (x.id = k)) = some y → y.prio ≤ i.prio) ∧
  (∀ (sag : Nat) (s : State) (g : Saggar) (i : Instance) (x : GraphRec), s.sagAt sag = some g → g.nextInstance = some i → g.graph i.graph = some x →
    ∃ t k, exec (.instanceLeavesPool sag) s = .next t ∧ t.sagAt sag = some k ∧ k.pool = g.pool.filter (fun e => decide (e ≠ .instance_ i.id)) ∧ k.graphs = g.graphs ∧
      k.instances.map (fun y => (y.id, y.started, y.params)) =
        g.instances.map (fun y => if y.id = i.id then (y.id, true, i.patches.foldl patchBytes x.params) else (y.id, y.started, y.params)) ∧
      (∀ n, x.nodes = [n] → n.npred = 0 → k.ready = g.queued i.id 0 s.time ∧ ∃ l, k.tasks = g.tasks ++ [⟨g.nextTask, i.id, 0, s.time, l, .ready, false⟩])) ∧
  (∀ (g : Saggar) (inst node time : Nat), (∀ t ∈ g.tasks, t.id ∈ g.ready → t.since < time) → (∀ k ∈ g.ready, ∃ t ∈ g.tasks, t.id = k) →
    g.queued inst node time = g.ready ++ [g.nextTask]) ∧
  (∀ (bs : List Byte) (off : Nat) (v : Word) (j : Nat), off + 8 ≤ bs.length → (patchBytes bs (off, v))[j]? =
    if off ≤ j ∧ j < off + 8 then some (BitVec.ofNat 8 (v.toNat / 256 ^ (j - off))) else bs[j]?) ∧
  (∀ (sag task : Nat) (s : State) (g : Saggar) (t : Task), s.sagAt sag = some g → g.tasks.find? (fun t => decide (t.id = task)) = some t →
    ((t.st = .ready ∨ s.taskBusy g sag task t.inst = true) → exec (.taskCompletion sag task) s = .next s) ∧
    ((∃ x ∈ g.specs, x.inst = t.inst) → s.taskBusy g sag task t.inst = true) ∧
    (t.st ≠ .ready → s.taskBusy g sag task t.inst = false →
      (t.st = .failed → exec (.taskCompletion sag task) s =
        .next { s with saggars := Tbl.put s.saggars sag { g with tasks := g.tasks.filter (fun x => decide (x.id ≠ task)) } }) ∧
      (∀ i x n k, t.st = .running → g.instOf t = some i → g.graph i.graph = some x → x.nodes[t.node]? = some n → n.succ = [k] →
        exec (.taskCompletion sag task) s =
          .next { s with saggars := Tbl.put s.saggars sag (Saggar.fireEdge { g with tasks := g.tasks.filter (fun x => decide (x.id ≠ task)) } t.inst x k s.time) }))) ∧
  (∀ (g : Saggar) (inst k time : Nat) (x : GraphRec) (y : Instance), g.instances.find? (fun i => decide (i.id = inst)) = some y →
    let h := g.fireEdge inst x k time
    (h.instances.find? (fun i => decide (i.id = inst))).map (fun i => Tbl.get i.left k 0) = some (Tbl.get y.left k 0 - 1) ∧
    h.ready = (if Tbl.get y.left k 0 ≤ 1 ∧ y.failed = false then g.queued inst k time else g.ready)) ∧
  (∀ (sag inst : Nat) (s : State) (g : Saggar) (i : Instance), s.sagAt sag = some g → g.instances.find? (fun i => decide (i.id = inst)) = some i →
    ((i.started = false ∨ (∃ t ∈ g.tasks, t.inst = inst) ∨ (∃ t ∈ g.specs, t.inst = inst)) → exec (.instanceEnd sag inst) s = .next s) ∧
    (i.started = true → (∀ t ∈ g.tasks, t.inst ≠ inst) → (∀ t ∈ g.specs, t.inst ≠ inst) →
      (∀ u, i.sig ≠ 0 → s.signalEnd sag i (if i.failed then 1 + 2 ^ 32 else 1) = .ok (false, u) → exec (.instanceEnd sag inst) s = .next u) ∧
      (∀ u h, (if i.sig = 0 then u = s else s.signalEnd sag i (if i.failed then 1 + 2 ^ 32 else 1) = .ok (true, u)) → u.sagAt sag = some h →
        ∃ t k, exec (.instanceEnd sag inst) s = .next t ∧ t.mem = u.mem ∧ t.net = u.net ∧ t.sagAt sag = some k ∧ k.instances = h.instances.filter (fun x => decide (x.id ≠ inst)) ∧
          t.completions = (if i.host then u.completions ++ [(inst, if i.failed then 1 else 0)] else u.completions) ∧
          (∀ x ∈ h.graphs, x ∈ k.graphs ↔ ¬(x.handle ∈ h.freeing ∧ ∀ y ∈ h.instances, y.id ≠ inst → y.graph ≠ x.handle))))) ∧
  (∀ (sag : Nat) (i : Instance) (v : Word) (s t : State) (g : Saggar) (loc : Nat), s.sagAt sag = some g → i.hostSig = false →
    translate s ⟨sag, g.clusterNo 0, g.cfg.heapb, g.cfg.heapl, g.cfg.heapo, none⟩ .update i.sig.toNat 8 = (.ok loc, t) → (∀ d ∈ t.dies, t.bufferHolds d.1 loc 8 = false) →
    t.errs = [] → spaceOf loc ≠ 3 → t.tableWaits loc 8 = false → t.awakeAt (homeOf loc) = true → (∀ j, j < 8 → t.fenced (loc + j) = false) → t.anyPoison loc 8 = false →
    s.signalEnd sag i v = .ok (true, ((t.setDword loc (t.dword loc + v)).changed loc 8))) ∧
  (∀ (sag : Nat) (i : Instance) (v : Word) (s : State), i.hostSig = true → (∀ d ∈ s.dies, s.bufferHolds d.1 (spaceBase 2 + i.sig.toNat) 8 = false) → s.errs = [] →
    spaceOf (spaceBase 2 + i.sig.toNat) = 2 → s.anyPoison (spaceBase 2 + i.sig.toNat) 8 = false →
    s.signalEnd sag i v = .ok (true, ((s.setDword (spaceBase 2 + i.sig.toNat) (s.dword (spaceBase 2 + i.sig.toNat) + v)).changed (spaceBase 2 + i.sig.toNat) 8)))

/-- Dispatch (R337, R359, R376 to R378, R393, R394): the head task waits for its leases and for the first rectangle, by row and then column, that has
room in every named core, whose lowest free slots it takes (R377); its strands are seeded as R378 says. Pages are edited, served and moved, each edit and invalidation
logged, and all of it waits while the entries' repair table reloads (R419).
The form of the kernel-reserved map, that frames are not checked at a move, what a copy waits for and what STALL counts are the model's (log 17, log 78, log 103,
log 107). -/
def Obligations.DispatchAndPages : Prop :=
  (∀ (g : Saggar) (t : Task), g.headTask = some t → t.id ∈ g.ready ∧ ∀ k ∈ g.ready, ∀ x i, g.tasks.find? (fun t => decide (t.id = k)) = some x → g.instOf x = some i →
    ∃ p, (match g.instOf t with | some j => j.prio | none => 0) = p ∧ i.prio ≤ p) ∧
  (∀ (sag : Nat) (s : State) (g : Saggar) (t : Task) (inst : Instance) (x : GraphRec) (n : NodeRec) (k : KernelRec), s.sagAt sag = some g → g.headTask = some t →
    g.instOf t = some inst → g.graph inst.graph = some x → x.nodes[t.node]? = some n → g.kernels.find? (fun k => decide (k.handle = n.kern)) = some k →
    let quota := if n.quota = 0 then k.quota else n.quota
    let map := word ((if n.bands = 0 then Config.bandMapReset else n.bands).toNat % 2 ^ 32)
    ((t.resident = false ∨ s.placement g n quota = none) → exec (.taskDispatch sag) s = .next s) ∧
    (∀ cl c ks, s.placement g n quota = some [(cl, [(c, ks)])] → (s.bandsFree cl map = false ∨ s.grantBeat c = none) → exec (.taskDispatch sag) s = .next s) ∧
    (∀ cl c ks b, t.resident = true → s.placement g n quota = some [(cl, [(c, ks)])] → ks.Nodup → s.bandsFree cl map = true → s.grantBeat c = some b →
      ∃ u, exec (.taskDispatch sag) s = .next u ∧ u.mem = s.mem ∧ (u.clusterAt cl).bandMap = map ∧ (∃ h, u.sagAt sag = some h ∧
          h.ready = g.ready.filter (fun i => decide (i ≠ t.id)) ∧ (∀ y ∈ h.tasks, y.id = t.id → y.st = .running)) ∧
        ((s.coreAt c).liveSlots = [] → (u.coreAt c).queues = []) ∧
        ∀ j i, ks[j]? = some i →
          let m := u.strandAt c i
          let w := fun q => word (ofBytes ((inst.params.drop (n.param + 8 * q)).take 8))
          (m.live, m.pc, m.sFull, m.woFull, m.st, m.ctx, m.grp, m.seq, m.undob, m.undop) = (true, word k.entry, BitVec.allOnes 32, 0, 0, 0, ⟨0, 0⟩, 0, 0, 0) ∧
          (m.sreg 0, m.sreg 1, m.sreg 2, m.sreg 3, m.sreg 4, m.sreg 5) = (0, w 0, w 1, w 2, w 3, word (c % 8 * 16 + j)) ∧ (∀ q, 5 < q → m.sreg q = 0) ∧
          (m.tspace, m.tvec, m.heapb, m.heapl, m.heapo, m.priv, m.sag, m.task, m.g) =
            (k.table % 4096, withBits (word k.entry) 0 1 0, g.cfg.heapb, g.cfg.heapl, g.cfg.heapo, k.priv, sag, some t.id, 0))) ∧
  (∀ (s : State) (g : Saggar) (n : NodeRec) (quota : Nat) (rect : List (Nat × List (Nat × List Nat))), s.placement g n quota = some rect →
    (∃ i j, i + n.w ≤ g.cfg.w ∧ j + n.h ≤ g.cfg.h ∧ rect.map (·.1) = rectClusters (g.cfg.x0 + i) (g.cfg.y0 + j) n.w n.h ∧
      ∀ x y, x + n.w ≤ g.cfg.w → y + n.h ≤ g.cfg.h → (y < j ∨ (y = j ∧ x < i)) → ∃ cl ∈ rectClusters (g.cfg.x0 + x) (g.cfg.y0 + y) n.w n.h, ∃ c, c < 8 ∧
        (BitVec.ofNat 8 n.cores).getLsbD c = true ∧ (s.coreAt (8 * cl + c)).seatSlots (s.nextGrant (8 * cl + c)) quota = none) ∧
    (∀ e ∈ rect, ∀ x ∈ e.2, (s.coreAt x.1).seatSlots (s.nextGrant x.1) quota = some x.2) ∧
    rect.length = n.w * n.h ∧ ∀ e ∈ rect, (∀ c, c < 8 → ((BitVec.ofNat 8 n.cores).getLsbD c = true ↔ ∃ ks, (8 * e.1 + c, ks) ∈ e.2)) ∧
      ∀ x ∈ e.2, x.2.length = quota ∧ ∀ k ∈ x.2, k < 16 ∧ (s.strandAt x.1 k).live = false) ∧
  (∀ (x : Core) (b n : Nat) (ks : List Nat), x.seatSlots b n = some ks → x.saved = none ∧ ks.length = n ∧ ks.Pairwise (· < ·) ∧
    (∀ k ∈ ks, k < 16 ∧ (x.slotAt k).live = false ∧ (x.slotAt k).nextIssue ≤ b) ∧
    ∀ j, j < 16 → (x.slotAt j).live = false → (x.slotAt j).nextIssue ≤ b → j ∉ ks → ∀ k ∈ ks, k < j) ∧
  (∀ (sag : Nat) (m : List MigrateRec) (s u : State) (g : Saggar) (t : Task), s.sagAt sag = some g → g.headTask = some t →
    State.resideAll sag m (t.leases.flatMap Lease.granules) s = some u →
    exec (.leaseResidency sag m) s = .next (u.modSag sag (fun g => g.modTask t.id (fun t => { t with resident := true })))) ∧
  (∀ (s : State) (sag va : Nat) (m : List MigrateRec) (g : Saggar) (leaf : Word) (bits : Nat), s.sagAt sag = some g → g.inHeap va = false →
    s.leafOf sag va = some (leaf, bits) → bitsOf leaf 6 2 = 0 →
    s.residePage sag va m = if leaf.getLsbD 0 = true ∧ bitsOf leaf 12 4 = 0 ∧ s.bringup.getLsbD (12 + stackOf (leafLoc leaf bits va)) = true then some s else none) ∧
  (∀ (s : State) (sag va : Nat) (m : List MigrateRec) (g : Saggar), s.sagAt sag = some g → g.inHeap va = true →
    s.residePage sag va m = if s.bringup.getLsbD (12 + stackOf (g.heapLoc va)) = true then some s else none) ∧
  (∀ (comp sag va part f : Nat) (p : PageRec) (s : State), s.compUp comp = false →
    exec (.pageTableEdit comp sag p) s = .next s ∧ exec (.dirtyLogService comp sag va) s = .next s ∧ exec (.pageMove comp sag va part f) s = .next s) ∧
  (∀ (comp sag part f : Nat) (p : PageRec) (s : State), s.editBusy sag p.va = true →
    exec (.pageTableEdit comp sag p) s = .next s ∧ exec (.dirtyLogService comp sag p.va) s = .next s ∧ (part ≠ 2 → exec (.pageMove comp sag p.va part f) s = .next s)) ∧
  (∀ (comp sag : Nat) (p : PageRec) (s : State) (g : Saggar) (l bits : Nat) (old : Word), s.sagAt sag = some g → walk s g.cfg.root p.va = .ok (some (l, old, bits)) →
    Memory.wf s.mem = true → s.compUp comp = true → s.editBusy sag p.va = false → s.fenced l = false → bits ≠ 30 → p.big = false → p.leaf.getLsbD 9 = false → p.leaf.getLsbD 10 = false →
    (g.leaseHolds (p.va / 65536 * 65536) 65536 = false → ∃ t, exec (.pageTableEdit comp sag p) s = .next t ∧ t.dword l = p.leaf ∧
      (∀ a, (a < l ∨ l + 8 ≤ a) → t.byte a = s.byte a) ∧ ∃ r, t.logRing = s.logRing ++ [r] ∧
      (r.time, r.va, r.len, r.comp, r.sag, r.kind, r.stall) = (s.time, p.va / 65536 * 65536, 65536, comp % 8, sag, 0, 0)) ∧
    (g.leaseHolds (p.va / 65536 * 65536) 65536 = true → p.va % 65536 = 0 → leafValid old = true →
      (leafValid p.leaf = false ∨ leafLoc p.leaf 16 p.va ≠ leafLoc old bits p.va) → exec (.pageTableEdit comp sag p) s = .next s)) ∧
  (∀ (comp sag va : Nat) (s : State) (g : Saggar) (l : Nat) (leaf : Word), s.sagAt sag = some g → walk s g.cfg.root va = .ok (some (l, leaf, 16)) → leaf.getLsbD 10 = false →
    Memory.wf s.mem = true → s.compUp comp = true → s.editBusy sag va = false → s.fenced l = false →
    (leafValid leaf = true → leaf.getLsbD 4 = false → ∃ t, exec (.dirtyLogService comp sag va) s = .next t ∧ t.dword l = withBits leaf 4 1 1 ∧
      (∀ a, (a < l ∨ l + 8 ≤ a) → t.byte a = s.byte a) ∧ t.logRing.length = s.logRing.length + 1) ∧
    ((leafValid leaf = false ∨ leaf.getLsbD 4 = true) → exec (.dirtyLogService comp sag va) s = .next s) ∧
    let lo := va / 65536 * 65536
    (∀ part f, g.moves.find? (fun m => decide (m.lo = lo)) = none → part ≠ 1 → exec (.pageMove comp sag va part f) s = .next s) ∧
    (∀ m part f, g.moves.find? (fun m => decide (m.lo = lo)) = some m → part ≠ m.part + 1 → exec (.pageMove comp sag va part f) s = .next s) ∧
    (∀ f, g.moves.find? (fun m => decide (m.lo = lo)) = none → leafValid leaf = true → ∃ t, exec (.pageMove comp sag va 1 f) s = .next t ∧ t.dword l = withBits leaf 2 1 0 ∧
      (∃ a b, t.logRing = s.logRing ++ [a, b] ∧ (a.kind, a.va, a.len) = (0, lo, 65536) ∧ (b.kind, b.va, b.len) = (1, lo, 65536)) ∧
      (∀ n, ∀ e ∈ (t.clusterAt n).tlb, ¬(e.sag = sag ∧ e.va = lo)) ∧ (∀ n, ∀ e ∈ (t.dieAt n).tlb, ¬(e.sag = sag ∧ e.va = lo)) ∧
      (t.sagAt sag).map (·.moves) = some (g.moves ++ [⟨lo, 16, 1, 0, 0⟩])) ∧
    (∀ m f, g.moves.find? (fun m => decide (m.lo = lo)) = some m →
      let src := leafLoc leaf 16 lo
      let dst := leafLoc (leafAt leaf (bitsOf leaf 6 2) f) 16 lo
      (m.part = 1 → (s.writesTo src 65536 = true ∨ s.tableWaits src 65536 = true ∨ s.tableWaits dst 65536 = true) → exec (.pageMove comp sag va 2 f) s = .next s) ∧
      (m.part = 1 → s.writesTo src 65536 = false → s.tableWaits src 65536 = false → s.tableWaits dst 65536 = false → tierHas (dst + 65536 - 1) = true →
        s.errs = [] → (∀ r ∈ s.repair, r.2.fence = []) →
        (∀ e ∈ s.sealed, src ≤ 32 * e.1 → 32 * e.1 < src + 65536 → Tbl.find s.keys (bitsOf leaf 56 8) = some e.2) → ∃ t h, exec (.pageMove comp sag va 2 f) s = .next t ∧
        (∀ i, i < 65536 → t.byte (dst + i) = s.byte (src + i)) ∧ t.sagAt sag = some h ∧ h.moves.find? (fun m => decide (m.lo = lo)) = some { m with part := 2, frame := f }) ∧
      (m.part = 2 → f ≠ m.frame → exec (.pageMove comp sag va 3 f) s = .next s) ∧
      (m.part = 2 → f = m.frame → f < 2 ^ 40 → ∃ t, exec (.pageMove comp sag va 3 f) s = .next t ∧ bitsOf (t.dword l) 16 40 = f ∧ (t.dword l).getLsbD 2 = false ∧
        bitsOf (t.dword l) 6 2 = bitsOf leaf 6 2 ∧ (∃ a b, t.logRing = s.logRing ++ [a, b] ∧ (a.kind, a.va, a.len) = (0, lo, 65536) ∧ (b.kind, b.va, b.len) = (1, lo, 65536)) ∧
        (∀ n, ∀ e ∈ (t.clusterAt n).tlb, ¬(e.sag = sag ∧ e.va = lo)) ∧ (∀ n, ∀ e ∈ (t.dieAt n).tlb, ¬(e.sag = sag ∧ e.va = lo))) ∧
      (m.part = 3 → ∃ t r, exec (.pageMove comp sag va 4 f) s = .next t ∧ t.dword l = withBits leaf 2 1 1 ∧ t.logRing = s.logRing ++ [r] ∧ r.stall = m.stall ∧ r.kind = 0)))

/-! The device as a whole. -/

/-- Reset, boot, keys and repair tables (R6, R418 to R420, R424, R425, R427 to R431): what each event changes, and when it changes nothing; an
atom reads under another key as that key decrypts it, and under its own again as before.
What a reset does to memory, that fuses and flash keep what they hold, and how an atom comes to its first key are the model's choices, and the stage that sets
each bit of BRINGUP and the moment a key may be loaded are its readings (log 63, log 64, log 65, log 89); so are what the boot status holds, when a report is made
and where an error in a table strikes (log 113, log 116). -/
def Obligations.BootKeysAndRepair : Prop :=
  (∀ s : State, ∃ t, exec .deviceReset s = .next t ∧ t = { State.reset with agenda := s.agenda, free := s.free, serial := s.serial, mem := t.mem, fuses := s.fuses, flashChain := s.flashChain } ∧
    ∀ a, t.byte a = if offDevice a then s.byte a else 0) ∧
  (∀ (s : State) (key stage sig : List Byte), s.verifies key stage sig = true ↔ sha256 key = s.fuses.digest ∧ lmsVerify key stage sig = true) ∧
  (∀ (b : BootRec) (s : State),
    (s.boot.stage = 0 → b.rom = true → s.boot.flashFailed = false → ∀ i, b.flash = some i → s.verifies i.key i.stage1 i.sig1 = true →
      ∃ t, exec (.bootStage1 b) s = .next t ∧ (t.boot.stage, t.boot.source, t.boot.image, t.boot.policy, t.boot.status) = (1, 0, some i, b.policy, s.boot.status) ∧
        t.boot.measures = [⟨1, b.version :: blockOf (s.fuses.digest ++ s.fuses.chain)⟩, ⟨2, blockOf (sha256 i.stage1)⟩, ⟨4, [0]⟩]) ∧
    (s.boot.stage = 0 → b.rom = true → (s.boot.flashFailed = true ∨ ∀ i, b.flash = some i → s.verifies i.key i.stage1 i.sig1 = false) →
      (∀ i, b.net = some i → s.verifies i.key i.stage1 i.sig1 = true → ∃ t, exec (.bootStage1 b) s = .next t ∧
        (t.boot.stage, t.boot.source, t.boot.image, t.boot.policy, t.boot.status) = (1, 1, some i, b.policy, s.boot.status) ∧
        t.boot.measures = [⟨1, b.version :: blockOf (s.fuses.digest ++ s.fuses.chain)⟩, ⟨2, blockOf (sha256 i.stage1)⟩, ⟨4, [1, b.server]⟩]) ∧
      ((∀ i, b.net = some i → s.verifies i.key i.stage1 i.sig1 = false) → ∃ t, exec (.bootStage1 b) s = .next t ∧ t.boot.stage = 3 ∧ t.boot.status = (1, 1))) ∧
    ((s.boot.stage ≠ 0 ∨ b.rom = false) → ∃ t, exec (.bootStage1 b) s = .next t ∧ t.boot = s.boot) ∧
    (∃ t, exec (.bootStage1 b) s = .next t ∧ t.mem = s.mem ∧
      let runs := decide (t.boot.stage = 1 ∨ t.boot.stage = 2)
      (∀ k tb, runs = true → k < 12 → b.tables = [(k, tb)] → b.hbm.getLsbD k = true → s.bringup.getLsbD (12 + k) = false → ∃ r, Tbl.find t.repair k = some r ∧ r.tables = tb ∧ r.shadow = tb) ∧
      ∀ n, n < 64 → t.bringup.getLsbD n = (s.bringup.getLsbD n || (if n = 0 then runs else if n = 4 then b.host else if n = 5 then b.eth else if n < 6 then false
        else if n < 10 then b.dies.getLsbD (n - 6) else if n = 10 then runs && b.lpn else if n = 11 then runs && b.lps else if n < 24 then runs && b.hbm.getLsbD (n - 12) else false)))) ∧
  (∀ (kr : List Nat) (rep : BitVec 8) (s : State),
    (s.boot.stage ≠ 1 → exec (.bootStage2 kr rep) s = .next s) ∧
    (∀ i, s.boot.stage = 1 → s.boot.image = some i →
      (s.verifies i.key i.stage2 i.sig2 = false → s.boot.source = 0 →
        exec (.bootStage2 kr rep) s = .next { s with boot := { s.boot with stage := 0, flashFailed := true, image := none } }) ∧
      (s.verifies i.key i.stage2 i.sig2 = false → s.boot.source ≠ 0 →
        exec (.bootStage2 kr rep) s = .next { s with boot := { s.boot with stage := 3, status := (s.boot.source, 2) } }) ∧
      (s.verifies i.key i.stage2 i.sig2 = true → ∃ t, exec (.bootStage2 kr rep) s = .next t ∧ t.krMap = kr ∧ t.boot.stage = 2 ∧ t.boot.released = s.time ∧
        t.boot.reporting = rep ||| 1 ∧ (t.boot.policy, t.boot.part, t.boot.energy) = (s.boot.policy, Config.partitionReset, Config.energyReset) ∧
        (∀ x y z, s.boot.measures = [⟨1, x⟩, ⟨2, y⟩, ⟨4, z⟩] → t.boot.measures = [⟨1, x⟩, ⟨2, y⟩, ⟨3, blockOf (sha256 i.stage2)⟩, ⟨4, z⟩]) ∧
        (∀ c, (t.coreAt c).ebud = if (Tbl.find s.cores c).isSome then Config.ebudReset else (s.coreAt c).ebud) ∧
        ∀ n, n < 64 → t.bringup.getLsbD n = (s.bringup.getLsbD n || decide (1 ≤ n ∧ n ≤ 3))))) ∧
  (∀ (c : Nat) (s : State),
    (s.boot.stage = 2 → c < 8 → s.boot.reporting.getLsbD c = false → s.boot.released + 100000000 ≤ s.time →
      ∃ t, exec (.compositorReportTimeout c) s = .next t ∧ ∀ n, n < 8 → t.boot.timedOut.getLsbD n = (s.boot.timedOut.getLsbD n || decide (n = c))) ∧
    ((s.boot.stage ≠ 2 ∨ s.boot.reporting.getLsbD c = true ∨ s.time < s.boot.released + 100000000) → exec (.compositorReportTimeout c) s = .next s)) ∧
  (∀ (id : Nat) (key : BitVec 512) (s : State),
    ((s.boot.reported = true ∨ s.boot.stage = 0 ∨ s.boot.stage = 3) → exec .spdmMeasurement s = .next s) ∧
    (s.boot.reported = false → (s.boot.stage = 1 ∨ s.boot.stage = 2) → exec .spdmMeasurement s = .next { s with boot := { s.boot with
      report := s.measured, signature := Config.signature (s.measured.map (fun m => (m.index, m.content))), reported := decide (s.boot.stage = 2) } }) ∧
    s.measured.map (·.index) = s.boot.measures.map (·.index) ++ (if s.boot.stage = 2 then [16, 17, 18] else []) ∧
    (∀ m ∈ s.boot.measures, m ∈ s.measured) ∧
    (s.boot.stage = 2 → ⟨16, addressMap ++ s.saggars.flatMap (fun g => [g.1, g.2.cfg.grantBase, g.2.cfg.grantLen]) ++ s.krMap⟩ ∈ s.measured ∧
      ⟨18, s.boot.policy.flatMap (fun e => [e.1, e.2])⟩ ∈ s.measured) ∧
    (s.bringup.getLsbD 2 = true → s.boot.reported = true → (∀ r ∈ s.repair, r.2.stale = false) → id < 256 →
      exec (.keyLoad id key) s = .next { s with keys := Tbl.put s.keys id key }) ∧
    ((s.bringup.getLsbD 2 = false ∨ s.boot.reported = false ∨ ∃ r ∈ s.repair, r.2.stale = true) → exec (.keyLoad id key) s = .next s)) ∧
  (∀ (k w : BitVec 512) (i j loc n : Nat) (kd : Acc) (s : State), spaceOf loc < 2 → 0 < n → loc % 32 + n ≤ 32 → Tbl.find s.keys i = some k → Tbl.find s.keys j = some w →
    let bs := (List.range 32).map (fun q => s.byte (32 * (loc / 32) + q))
    (Tbl.find s.sealed (loc / 32) = some k → s.underKey kd loc n i = s) ∧
    (Tbl.find s.sealed (loc / 32) = none → s.underKey .load loc n i = s ∧ s.underKey .store loc n i = { s with sealed := Tbl.put s.sealed (loc / 32) k }) ∧
    (Tbl.find s.sealed (loc / 32) = some k → w ≠ k → s.Canonical → let t := s.underKey .load loc n j
      (∀ q, q < 32 → t.byte (32 * (loc / 32) + q) = (rekeyed k w (loc / 32) bs).getD q 0) ∧ (∀ a, a / 32 ≠ loc / 32 → t.byte a = s.byte a) ∧
      ∀ a, (t.underKey kd loc n i).byte a = s.byte a)) ∧
  (∀ (k pch : Nat) (s : State), k < 12 → pch < 512 →
    let r := Tbl.get s.repair k Repair.init
    let rest := r.struck.filter (fun p => decide (p ≠ pch))
    (pch ∉ r.fence → s.upsetTable k pch false = s ∧
      ∀ loc, spaceOf loc = 0 → stackOf loc = k → pseudoOf loc = pch → (s.upsetTable k pch true).tableWaits loc 1 = true) ∧
    ((∀ p ∈ s.peers, p.heldMsgs = []) →
      (∃ t, exec (.repairTableReload k pch true) s = .next t ∧ t.mem = s.mem ∧ Tbl.find t.repair k = some { r with reloads := sat1 r.reloads, tables := r.shadow, struck := rest }) ∧
      (s.waiters = [] → pch ∉ r.fence → ∃ t, exec (.repairTableReload k pch false) s = .next t ∧ t.mem = s.mem ∧ t.stale = true ∧
        Tbl.find t.repair k = some { r with fenced := sat1 r.fenced, fence := r.fence ++ [pch], stale := true, struck := rest } ∧
        ∀ loc, spaceOf loc = 0 → stackOf loc = k → pseudoOf loc = pch → t.fenced loc = true)) ∧
    (∀ p m, s.peers = [p] → p.heldMsgs = [m] → m.seq = p.recvSeq → s.waiters = [] → (∀ e ∈ s.repair, ∀ q ∈ e.2.struck, e.1 = k ∧ q = pch) →
      ∃ t, exec (.repairTableReload k pch true) s = .next t ∧ t.peers.map (fun q => (q.heldMsgs, q.recvSeq)) = [([], (p.recvSeq + 1) % 2 ^ 32)]))

/-- Clocks and power (R415, R437 to R444): a frequency step rescales CYC and gates the die for 1,500 ns; a held write starts its step at the relock's end; a unit
enters the deepest state that its condition and tolerance allow, and an access that reaches a home wakes it (R442); what a relock has kept of a stopped core's strands happens
at its end (R441); credits and TIME advance only to what is due.
The wiring of the stacks, the first credit, the length of a turn and the start of a held step are the model's (log 28, log 69, log 74, log 81). -/
def Obligations.ClocksAndPowerStates : Prop :=
  (∀ (die w : Nat) (s : State), exec (.frequencyStep die w) s = exec (.frequencyStep die (w % 32)) s) ∧
  (∀ (die n : Nat) (s : State), n < 32 →
    (4 ≤ die → exec (.frequencyStep die n) s = .next s) ∧
    (die < 4 → (n < 6 ∨ 21 < n) → exec (.frequencyStep die n) s = .next { s with capFaults := s.capFaults + 1 }) ∧
    (die < 4 → 6 ≤ n → n ≤ 21 →
      ((s.dieAt die).relock.isSome = true → exec (.frequencyStep die n) s = .next (s.modDie die (fun d => { d with held := some n }))) ∧
      ((s.dieAt die).relock = none → n = (s.dieAt die).mult → exec (.frequencyStep die n) s = .next s) ∧
      ((s.dieAt die).relock = none → n ≠ (s.dieAt die).mult → (s.dieAt die).mult < 32 → ∃ t, exec (.frequencyStep die n) s = .next t ∧
        let d := t.dieAt die
        d.mult = n ∧ d.cyc = s.cyc die * n / (s.dieAt die).mult ∧ t.cyc die = d.cyc ∧ d.relock = some (s.time + 1500) ∧
        bitsOf d.fstep 0 5 = (s.dieAt die).mult ∧ bitsOf d.fstep 5 5 = n ∧ bitsOf d.fstep 10 54 = s.time % 2 ^ 54))) ∧
  (∀ (die t0 : Nat) (s : State), (s.dieAt die).relock = some t0 → s.time < t0 → exec (.relockEnd die) s = .next s) ∧
  (∀ (die : Nat) (s : State) (c : Nat) (x : Core), s.saggars = [] → s.cores = [(c, x)] → dieOf (clusterOf c) = die → x.stopped = true → s.stopAfterRelock die = s.backOffAll c) ∧
  (∀ (die t0 : Nat) (s : State), (s.dieAt die).relock = some t0 →
    (∀ c ∈ s.cores, dieOf (clusterOf c.1) = die → c.2.stopped = false) → (∀ g ∈ s.saggars, ∀ x ∈ g.2.specs, x.st ≠ .aborting) →
    (t0 ≤ s.time → (s.dieAt die).held = none → ∃ t, exec (.relockEnd die) s = .next t ∧ (t.dieAt die).relock = none ∧ (t.dieAt die).mult = (s.dieAt die).mult ∧
      t.cyc die = (s.dieAt die).cyc + 150 * (s.dieAt die).mult + (s.dieAt die).mult * (s.time - t0) / 10) ∧
    (t0 ≤ s.time → die < 4 → (s.dieAt die).held = none → (s.dieAt die).deferred = true →
      ∃ u, exec (.relockEnd die) (s.modDie die (fun d => { d with deferred := false })) = .next u ∧ exec (.relockEnd die) s = exec (.powerStateEntry die false) u) ∧
    (∀ m, s.time = t0 → (s.dieAt die).held = some m → m ≠ (s.dieAt die).mult → ∃ t, exec (.relockEnd die) s = .next t ∧ (t.dieAt die).relock = some (t0 + 1500) ∧
      (t.dieAt die).held = none ∧ (t.dieAt die).mult = m ∧ (t.dieAt die).cyc = ((s.dieAt die).cyc + 150 * (s.dieAt die).mult) * m / (s.dieAt die).mult)) ∧
  (∀ (c : Nat) (s : State), (s.dieAt (dieOf (clusterOf c))).relock.isSome = true → s.running c = false) ∧
  (∀ (c : Nat) (s : State), (s.coreIdle c = true → c < Config.cores → 20 ≤ s.dieTol (dieOf (clusterOf c)) →
      exec (.powerStateEntry c true) s = .next (s.modCore c (fun x => { x with gated := true }))) ∧
    ((s.coreIdle c = false ∨ s.dieTol (dieOf (clusterOf c)) < 20) → exec (.powerStateEntry c true) s = .next s) ∧
    exec (.powerStateExit c true) s = .next (s.modCore c (fun x => { x with gated := false }))) ∧
  (∀ (d : Nat) (s : State), d < 4 →
    ((s.dieAt d).relock.isSome = true → exec (.powerStateEntry d false) s = .next (s.modDie d (fun x => { x with deferred := true }))) ∧
    (∀ p, (s.dieAt d).relock = none → 2 ≤ p → p ≤ 4 → p ≤ s.deepest d → exitLatency p ≤ s.dieTol d → (∀ q, p < q → q ≤ 4 → q ≤ s.deepest d → s.dieTol d < exitLatency q) →
      exec (.powerStateEntry d false) s = .next (s.modDie d (fun x => { x with power := p }))) ∧
    ((s.dieAt d).relock = none → (∀ q, 2 ≤ q → q ≤ 4 → q ≤ s.deepest d → s.dieTol d < exitLatency q) → exec (.powerStateEntry d false) s = .next s) ∧
    exec (.powerStateExit d false) s = .next (s.modDie d (fun x => { x with power := 0 })) ∧
    (2 ≤ s.deepest d → ∀ cl, cl < Config.clusters → dieOf cl = d → (s.clusterAt cl).jobs = [] ∧ ∀ i, i < 8 → (s.coreAt (8 * cl + i)).gated = true) ∧
    (3 ≤ s.deepest d → ∀ cl, cl < Config.clusters → dieOf cl = d → s.freeGroups cl = 16) ∧
    (4 ≤ s.deepest d → (∀ m ∈ s.net, m.home.kind = .hbm → m.home.unit / 3 ≠ d) ∧
      (∀ c ∈ s.clusters, ∀ j ∈ c.2.jobs, ∀ w ∈ j.writes, spaceOf w.loc = 0 → stackOf w.loc / 3 ≠ d))) ∧
  (∀ (s : State) (m : Msg), (∀ h ∈ m.homes, (s.wakeHomes m).awakeAt h = true) ∧ ((∀ h ∈ m.homes, s.awakeAt h = true) → s.wakeHomes m = s)) ∧
  (∀ (k cl i : Nat) (e : EccRec) (s : State) (m : Msg), s.net[k]? = some m → s.barred k m = false →
    (match m.body with | .load _ | .store _ | .bits .. | .atomic .. | .claim .. | .swait _ | .commit .. => true | _ => false) = true →
    exec (.homeAccess ⟨false, k, cl, i, e⟩) s = .next ((s.wakeHomes m).applyMsg k m e)) ∧
  (∀ (s : State) (loc n d : Nat), d < 4 → (∃ i, i < n ∧ stackOf (loc + i) / 3 = d) → ((s.wakeStacks loc n).dieAt d).power = 0) ∧
  (exitLatency 1 = 20 ∧ exitLatency 2 = 100 ∧ exitLatency 3 = 5000 ∧ exitLatency 4 = 20000) ∧
  (∀ s : State, (s.time = (s.lastCredit / 1000 + 1) * 1000 → exec .class3CreditRefill s = .next { s with lastCredit := s.time, credits := s.credits + 1 }) ∧
    (s.time ≠ (s.lastCredit / 1000 + 1) * 1000 → exec .class3CreditRefill s = .next s)) ∧
  (∀ (s : State) (n : Nat), s.time ≤ (s.elapse n).time ∧ (s.elapse n).time ≤ s.time + n ∧
    (s.time ≤ (s.lastRefill / 1000 + 1) * 1000 → (s.elapse n).time ≤ (s.lastRefill / 1000 + 1) * 1000) ∧
    (∀ d t, d < 4 → (s.dieAt d).relock = some t → s.time ≤ t → (s.elapse n).time ≤ t))

/-- Saggars (R276, R364, R396 to R398): a record or word that breaks a limit is refused and counted; a formed saggar has its clusters' cores, the counts that only a device reset clears (R418), and nothing else yet; a
dissolved one leaves no core, translation or message; a misrouted message is dropped, and the cores of its saggar stop.
A formed saggar keeps its partition; what is saved of its cores stays with them. When a saggar may be dissolved, what its cores keep, and where the partition
of a saggar comes from are readings of the model (log 71, log 72). -/
def Obligations.SaggarsFormAndDissolve : Prop :=
  (∀ (sag : Nat) (w : Word) (s : State),
    let f := fun k => bitsOf w (5 * k) 5
    let ok := f 0 + f 1 + f 2 + f 3 + f 4 = 24 ∧ 1 ≤ f 0 ∧ 1 ≤ f 1 ∧ 1 ≤ f 2 ∧ 1 ≤ f 4
    (ok → s.sagAt sag = none → exec (.partitionWordWrite sag w) s = .next { s with parts := Tbl.put s.parts sag (w &&& 0x1FFFFFF) }) ∧
    (ok → s.sagAt sag ≠ none → exec (.partitionWordWrite sag w) s = .next s) ∧
    (¬ok → exec (.partitionWordWrite sag w) s = .next { s with capFaults := s.capFaults + 1 })) ∧
  (∀ (sag : Nat) (w : Word) (s : State),
    ((∀ k, k < 4 → bitsOf w (8 * k) 8 ≠ 0) → exec (.energyClassWrite sag w) s = .next (s.modSag sag (fun g => { g with energy := w &&& 0xFFFFFFFF }))) ∧
    ((∃ k, k < 4 ∧ bitsOf w (8 * k) 8 = 0) → exec (.energyClassWrite sag w) s = .next { s with capFaults := s.capFaults + 1 })) ∧
  (∀ (r : SaggarRec) (s : State),
    (s.recordOk r = false → exec (.saggarForm r) s = .next { s with capFaults := s.capFaults + 1 }) ∧
    (s.recordOk r = true → s.boot.stage = 2 ∧ (∀ f ∈ s.krMap, 2 ^ 50 ≤ f ∨ (f + 1) * 65536 ≤ r.grantBase ∨ r.grantBase + r.grantLen ≤ f * 65536) ∧ s.sagAt r.id = none ∧ r.id ≤ 15 ∧ 1 ≤ r.w ∧ 1 ≤ r.h ∧ r.x0 + r.w ≤ 20 ∧ r.y0 + r.h ≤ 24 ∧ partitionOk (s.partOf r) = true ∧
      (∀ cl ∈ recordClusters r, s.bringup.getLsbD (6 + dieOf cl) = true ∧ ∀ g ∈ s.saggars, g.2.holds cl = false) ∧
      ∃ t g, exec (.saggarForm r) s = .next t ∧ t.mem = s.mem ∧ t.sagAt r.id = some g ∧ (∀ k, k ≠ r.id → t.sagAt k = s.sagAt k) ∧
        (g.ctxs, g.cells, g.entries, g.tasks, g.instances, g.specs, g.locks, g.graphs, g.kernels) = ([], [], [], [], [], [], [], [], []) ∧
        (g.counters.poisoned, g.counters.droppedWrite) = Tbl.get s.kept r.id (0, 0) ∧
        (g.ctbase, g.ctlim, g.part, g.energy, g.lattol) = (word r.ctbase, word r.ctlim, s.partOf r, s.boot.energy, 0xFFFFFFFF) ∧
        (∀ cl ∈ recordClusters r, ∀ i, i < 8 →
          let c := t.coreAt (8 * cl + i)
          c.tenant = some r.id ∧ (∀ k, (c.slotAt k).live = false) ∧ (c.slotAt 0).heapb = r.heapb &&& 0x01FFFFFFFFFF0000 ∧ c.queues = [] ∧ c.bars = [] ∧ c.mail = [] ∧
          (c.ebud, c.jobNext, c.jobRing, c.dctl) = ((s.coreAt (8 * cl + i)).ebud, (s.coreAt (8 * cl + i)).jobNext,
            (s.coreAt (8 * cl + i)).jobRing.filter (fun e => decide (e.2 ≠ 0)), (s.coreAt (8 * cl + i)).dctl)) ∧
        (∀ c, clusterOf c ∉ recordClusters r → t.coreAt c = s.coreAt c))) ∧
  (∀ (r : SaggarRec) (s : State) (w : Word), (r.part ≠ 0 → s.partOf r = r.part &&& 0x1FFFFFF) ∧
    (r.part = 0 → Tbl.find s.parts r.id = some w → s.partOf r = w &&& 0x1FFFFFF) ∧
    (r.part = 0 → Tbl.find s.parts r.id = none → s.partOf r = s.boot.part &&& 0x1FFFFFF)) ∧
  (∀ (sag : Nat) (s : State) (g : Saggar), s.sagAt sag = some g →
    ((∃ m ∈ s.net, m.sag = sag) → exec (.saggarDissolve sag) s = .next s) ∧
    ((∃ cl ∈ recordClusters g.cfg, (s.clusterAt cl).jobs ≠ []) → exec (.saggarDissolve sag) s = .next s) ∧
    ((∀ m ∈ s.net, m.sag ≠ sag) → (∀ cl ∈ recordClusters g.cfg, (s.clusterAt cl).jobs = []) →
      (∀ a ∈ s.acks, clusterOf a.core ∈ recordClusters g.cfg → (s.coreAt a.core).saved = none) →
      Tbl.sortedFrom 0 s.saggars = true →
      ∃ t, exec (.saggarDissolve sag) s = .next t ∧ Tbl.find t.kept sag = some (g.counters.poisoned, g.counters.droppedWrite) ∧ t.mem = s.mem ∧ t.net = s.net ∧ t.sagAt sag = none ∧ (∀ k, k ≠ sag → t.sagAt k = s.sagAt k) ∧
        (∀ w ∈ t.waiters, w.msg.sag ≠ sag) ∧
        (∀ cl ∈ recordClusters g.cfg, (t.clusterAt cl).bandMap = 0xFEDCBA98 ∧ (t.clusterAt cl).bands = [] ∧ (t.clusterAt cl).ranges = [] ∧
          ∀ i, i < 8 → (t.coreAt (8 * cl + i)).tenant = none ∧ (∀ k, ((t.coreAt (8 * cl + i)).slotAt k).live = false) ∧
            ∀ v, (s.coreAt (8 * cl + i)).saved = some v → Tbl.find (t.coreAt (8 * cl + i)).away sag = some (v, (s.coreAt (8 * cl + i)).image)) ∧
        (∀ n, ∀ e ∈ (t.clusterAt n).tlb, e.sag ≠ sag) ∧ (∀ n, ∀ e ∈ (t.dieAt n).tlb, e.sag ≠ sag))) ∧
  (∀ (k : Nat) (s : State) (m : Msg), s.net[k]? = some m →
    (s.misrouted m = false → exec (.tenantDrop k) s = .next s) ∧
    (∀ g, s.misrouted m = true → s.sagAt m.sag = some g → (∀ t ∈ g.tasks, t.st ≠ .running) → ∃ t, exec (.tenantDrop k) s = .next t ∧ t.net = dropAt s.net k ∧
        t.routerDrops = sat1 s.routerDrops ∧ t.mem = s.mem ∧ ∀ cl ∈ recordClusters g.cfg, ∀ i, i < 8 → (t.coreAt (8 * cl + i)).stopped = true)) ∧
  (∀ (s : State) (m : Msg), s.misrouted m = true ↔ ∃ cl, m.home.cluster = some cl ∧ s.inSaggar m.sag cl = false)

/-- The host port and the fabric (R411 to R414, R430): outside writes reach memory byte by byte, and wait while the repair table of their place
reloads (R419); Itric messages, writes and reads, are performed once and in sequence; a failed link goes
out of use, and with the last one its peer's accesses end; a retired channel is unmapped before its generation advances; no port reaches a kernel-reserved frame (R389).
Where the counts stand, what ports may reach, accesses after the last failure, how an error completion arrives, and that a peer's atomics come as reads and writes are the model's
(log 66, log 67, log 68, log 106, log 138). -/
def Obligations.HostPortAndFabric : Prop :=
  (∀ (h : HostAccess) (s : State), h.config = true → exec (.hostPortAccess h) s = .next (if s.bringup.getLsbD 4 = true then s else
    { s with completions := s.completions ++ [(0, 4)] })) ∧
  (∀ (h : HostAccess) (s : State), h.config = false → h.hdm = true →
    (s.bringup.getLsbD 4 = false → exec (.hostPortAccess h) s = .next s) ∧
    (s.tableWaits h.addr (if h.write then h.bytes.length else h.len) = true → exec (.hostPortAccess h) s = .next s) ∧
    (s.bringup.getLsbD 4 = true → h.write = false → h.addr + h.len ≤ Config.hbmBytes → ∃ t, exec (.hostPortAccess h) s = .next t ∧ t.mem = s.mem ∧ t.net = s.net ∧
      (s.krTouched h.addr h.len = false → s.tableWaits h.addr h.len = false → Tbl.sortedFrom 0 s.errs = true → ∀ i, i < h.len → Tbl.find t.errs (poisonWord (h.addr + i)) = none)) ∧
    (h.write = true → s.krTouched h.addr h.bytes.length = true → exec (.hostPortAccess h) s = .next s) ∧
    (s.bringup.getLsbD 4 = true → h.write = true → h.addr + h.bytes.length ≤ Config.hbmBytes → s.krTouched h.addr h.bytes.length = false → s.tableWaits h.addr h.bytes.length = false → s.Canonical →
      ∃ t, exec (.hostPortAccess h) s = .next t ∧ (∀ i x, h.bytes[i]? = some x → t.byte (h.addr + i) = if s.fenced (h.addr + i) = true then s.byte (h.addr + i) else x) ∧
        (∀ a, (a < h.addr ∨ h.addr + h.bytes.length ≤ a) → t.byte a = s.byte a) ∧ t.full = s.full)) ∧
  (∀ (h : HostAccess) (s : State), h.config = false → h.hdm = false → (h.write = false → exec (.hostPortAccess h) s = .next s) ∧
    (h.write = true → s.Canonical → ∃ t, exec (.hostPortAccess h) s = .next t ∧ ∀ i x, h.bytes[i]? = some x → t.byte (spaceBase 2 + h.addr % 2 ^ 56 + i) = x)) ∧
  (∀ (m : FabricMsg) (s : State) (p : Peer), s.peerAt m.port m.peer = some p →
    (m.seq = p.recvSeq → m.gen = p.gen → p.heldMsgs = [] → m.addr + m.size ≤ Config.hbmBytes → s.krTouched m.addr m.size = false →
      (s.tableWaits m.addr m.size = true → exec (.fabricMessageReceive m) s = .next (s.modPeer m.port m.peer (fun p => { p with heldMsgs := p.heldMsgs ++ [m] }))) ∧
      (∀ bs, s.tableWaits m.addr m.size = false → m.body = .write bs → s.Canonical →
        ∃ t, exec (.fabricMessageReceive m) s = .next t ∧ (∀ i x, bs[i]? = some x → t.byte (m.addr + i) = if s.fenced (m.addr + i) = true then s.byte (m.addr + i) else x) ∧
          (∀ a, (a < m.addr ∨ m.addr + bs.length ≤ a) → t.byte a = s.byte a) ∧
          t.peerAt m.port m.peer = some { p with recvSeq := (p.recvSeq + 1) % 2 ^ 32, acked := p.acked ++ [m.seq] }) ∧
      (∀ n, s.tableWaits m.addr m.size = false → m.body = .read n → s.errs = [] →
        ∃ t, exec (.fabricMessageReceive m) s = .next t ∧ t.mem = s.mem ∧ t.peerAt m.port m.peer = some { p with
          recvSeq := (p.recvSeq + 1) % 2 ^ 32, acked := p.acked ++ [m.seq],
          answers := p.answers ++ [(m.seq, (List.range n).map (fun i => if s.dead (m.addr + i) then 0 else s.byte (m.addr + i)))] })) ∧
    (m.seq = p.recvSeq → (m.gen ≠ p.gen ∨ s.krTouched m.addr m.size = true ∨ Config.hbmBytes < m.addr + m.size) → p.heldMsgs = [] → ∃ t, exec (.fabricMessageReceive m) s = .next t ∧ t.mem = s.mem ∧
      t.peerAt m.port m.peer = some { p with
        recvSeq := (p.recvSeq + 1) % 2 ^ 32, refused := p.refused ++ [m.seq],
        dropped := (match m.body with | .write _ => sat1 p.dropped | .read _ => p.dropped) }) ∧
    (∀ h, m.seq = p.recvSeq → p.recvSeq + 1 < 2 ^ 32 → p.heldMsgs = [h] → h.seq = p.recvSeq + 1 → h.port = m.port → h.peer = m.peer → (∀ r ∈ s.repair, r.2.struck = []) →
      ∃ t q, exec (.fabricMessageReceive m) s = .next t ∧ t.peerAt m.port m.peer = some q ∧ q.heldMsgs = [] ∧ q.acked.length + q.refused.length = p.acked.length + p.refused.length + 2 ∧
        q.recvSeq = (p.recvSeq + 2) % 2 ^ 32) ∧
    (0 < (m.seq + 2 ^ 32 - p.recvSeq) % 2 ^ 32 → (m.seq + 2 ^ 32 - p.recvSeq) % 2 ^ 32 < 2 ^ 31 →
      ((∀ x ∈ p.heldMsgs, x.seq ≠ m.seq) → p.heldMsgs.length < 4096 →
        exec (.fabricMessageReceive m) s = .next (s.modPeer m.port m.peer (fun p => { p with heldMsgs := p.heldMsgs ++ [m] }))) ∧
      (((∃ x ∈ p.heldMsgs, x.seq = m.seq) ∨ 4096 ≤ p.heldMsgs.length) → exec (.fabricMessageReceive m) s = .next s)) ∧
    (2 ^ 31 ≤ (m.seq + 2 ^ 32 - p.recvSeq) % 2 ^ 32 → ∃ t, exec (.fabricMessageReceive m) s = .next t ∧ t.mem = s.mem ∧ t.peerAt m.port m.peer = some
      (if m.seq ∈ p.refused then { p with refused := p.refused ++ [m.seq] } else { p with acked := p.acked ++ [m.seq] }))) ∧
  (∀ (port peer n : Nat) (s : State) (p : Peer), s.peerAt port peer = some p → n < 2 ^ 32 →
    (p.unacked = [] → exec (.fabricAck port peer n) s = .next s) ∧
    (∀ u rest, p.unacked = u :: rest →
      (u.seq ≠ n → exec (.fabricAck port peer n) s = .next s ∧ exec (.fabricAck port peer (n + 2 ^ 32)) s = .next s) ∧
      (∀ w, u.seq = n → u.body = .write w → s.Canonical → spaceOf w.loc = 3 →
        (∃ t, exec (.fabricAck port peer n) s = .next t ∧ t.net = s.net ∧ t.peerAt port peer = some { p with unacked := rest } ∧
          (∀ i x, w.bytes[i]? = some x → t.byte (w.loc + i) = x) ∧ ∀ a, (a < w.loc ∨ w.loc + w.bytes.length ≤ a) → t.byte a = s.byte a) ∧
        (∃ t, exec (.fabricAck port peer (n + 2 ^ 32)) s = .next t ∧ t.mem = s.mem ∧ t.net = s.net ∧
          t.peerAt port peer = some { p with unacked := rest, told := p.told + 1 })) ∧
      (∀ id m, u.seq = n → u.body = .access id → s.net.find? (fun x => decide (x.id = id)) = some m → p.reaches m.loc = true →
        (∀ op b c ret, m.body = .atomic op b c ret → ∃ t, exec (.fabricAck port peer n) s = .next t ∧ t.net = s.net.filter (fun x => decide (x.id ≠ id)) ∧
          t.peerAt port peer = some { p with unacked := rest }) ∧
        (∃ t, exec (.fabricAck port peer (n + 2 ^ 32)) s = .next t ∧ t.mem = s.mem ∧ t.net = s.net.filter (fun x => decide (x.id ≠ id)) ∧
          t.peerAt port peer = some { p with unacked := rest, told := p.told + 1, errors := p.errors + (if m.body.updates then 1 else 0) } ∧
          ∀ op b c, m.body = .atomic op b c true → (⟨m.id, m.core, m.slot, m.uid, .reply ⟨0, [], 0⟩, m.body.counts⟩ : Ack) ∈ t.acks)))) ∧
  (∀ (link port peer : Nat) (s : State), link < 24 → ∃ t p, exec (.linkUp link port peer) s = .next t ∧ t.peerAt port peer = some p ∧ link ∈ p.links ∧ t.mem = s.mem ∧
    ∀ n, n < 64 → t.bringup.getLsbD n = (s.bringup.getLsbD n || decide (n = 24 + link))) ∧
  (∀ (link : Nat) (s : State) (p : Peer), link < 24 → s.peers = [p] →
    ∃ t q, exec (.linkFailure link) s = .next t ∧ t.peers = [q] ∧ q.links = p.links.filter (fun l => decide (l ≠ link)) ∧ t.mem = s.mem ∧
      (∀ n, n < 64 → t.bringup.getLsbD n = (s.bringup.getLsbD n && decide (n ≠ 24 + link))) ∧
      ((∃ l ∈ p.links, l ≠ link) → t.net = s.net ∧ q.unacked = p.unacked) ∧
      (p.links = [link] → t.net = s.net.filter (fun m => !p.reaches m.loc) ∧ (∀ w ∈ t.waiters, p.reaches w.msg.loc = false) ∧ q.unacked = [] ∧
        (s.waiters = [] → q.errors = p.errors + (s.net.filter (fun m => p.reaches m.loc && m.body.updates)).length) ∧
        (s.waiters = [] → (∀ d ∈ s.dies, d.2.pwb = []) → q.told = p.told + (s.net.filter (fun m => p.reaches m.loc)).length +
          (p.unacked.filter (fun u => match u.body with | .access _ => false | _ => true)).length) ∧
        ∀ m ∈ s.net, p.reaches m.loc = true → ∀ op b c, m.body = .atomic op b c true → (⟨m.id, m.core, m.slot, m.uid, .reply ⟨0, [], 0⟩, m.body.counts⟩ : Ack) ∈ t.acks)) ∧
  (∀ (comp sag port peer : Nat) (pages : List Nat) (s : State), s.compUp comp = false → exec (.peerChannelRetire comp sag port peer pages) s = .next s) ∧
  (∀ (comp sag port peer : Nat) (s : State) (p : Peer) (g : Saggar), s.peerAt port peer = some p → s.sagAt sag = some g → s.compUp comp = true →
    (s.channelMapped p = true → exec (.peerChannelRetire comp sag port peer []) s = .next s) ∧
    (s.channelMapped p = false → p.unacked = [] → (∀ m ∈ s.net, p.reaches m.loc = false) → (∀ d ∈ s.dies, d.2.pwb = []) →
      exec (.peerChannelRetire comp sag port peer []) s = .next (s.modPeer port peer (fun p => { p with gen := (p.gen + 1) % 65536 }))) ∧
    (p.unacked ≠ [] → exec (.peerChannelRetire comp sag port peer []) s = .next s) ∧
    (∀ (va l : Nat) (leaf : Word), walk s g.cfg.root va = .ok (some (l, leaf, 16)) → leafValid leaf = true → leaf.getLsbD 10 = false → p.reaches (leafLoc leaf 16 va) = true →
      (s.editBusy sag va = true → exec (.peerChannelRetire comp sag port peer [va]) s = .next s) ∧
      (g.leaseHolds (va / 65536 * 65536) 65536 = true → exec (.peerChannelRetire comp sag port peer [va]) s = .next s) ∧
      (g.leaseHolds (va / 65536 * 65536) 65536 = false → s.editBusy sag va = false → Memory.wf s.mem = true → ∃ t, exec (.peerChannelRetire comp sag port peer [va]) s = .next t ∧ t.dword l = withBits leaf 0 1 0 ∧ t.peers = s.peers ∧
        t.logRing.length = s.logRing.length + 2 ∧ ∀ n, ∀ e ∈ (t.clusterAt n).tlb, ¬(e.sag = sag ∧ e.va = va / 65536 * 65536))))
end

