-- ==== Sys2Proof/Laws/Access.lean ====
section
/-! SUPPORT. What the checks of an access come to (R174): a trap, a fault of the model, or a place for the access to go to. -/

namespace Sys2Proof.Machine

variable {s t : State} {y : Way} {kd : Acc} {a : Word} {n al loc : Nat} {pre : Addr → Bool} {ad : Addr} {why : Option ReplayWhy}

/-- Where an access's address leads in memory: a mesh-local address at once, a global one through translation. -/
def Leads (kd : Acc) (n : Nat) (s : State) (ad : Addr) (loc : Nat) (why : Option ReplayWhy) (t : State) : Prop :=
  match ad with
  | .scratch c off => loc = scratchLoc c off ∧ why = none ∧ t = s
  | .slice cl off => loc = sliceLoc cl off ∧ why = none ∧ t = s
  | .global va => match why with
    | none => translate s s.issuer kd va n = (.ok loc, t)
    | some w => translate s s.issuer kd va n = (.replay w loc, t)

/-- An address that no operand names traps. -/
theorem accessBy_unresolved (hr : resolve s s.myCluster s.me.sag a n = none) (k : Place → State → Out) :
    accessBy y kd a n al pre s k = trap .badAddress a s := by unfold accessBy; rw [hr]

/-- An address that names something traps when it is misaligned, and then when its scope is refused. -/
theorem accessBy_resolved (hr : resolve s s.myCluster s.me.sag a n = some ad) (k : Place → State → Out) :
    accessBy y kd a n al pre s k =
      if a.toNat % al ≠ 0 then trap .misalignedAccess a s else if !pre ad then trap .scopeAddress a s else goTo y kd a n k s ad := by
  unfold accessBy; rw [hr]

/-- An address arrives where it leads. -/
theorem goTo_of_leads (hl : Leads kd n s ad loc why t) (k : Place → State → Out) : goTo y kd a n k s ad = arrive y kd a n ad loc why k t := by
  cases ad with
  | scratch c off => obtain ⟨h1, h2, h3⟩ := hl; rw [goTo, h1, h2, h3]
  | slice cl off => obtain ⟨h1, h2, h3⟩ := hl; rw [goTo, h1, h2, h3]
  | global va => cases why <;> simp only [Leads] at hl <;> rw [goTo, hl, landed]

/-- A global address goes on as its translation says. -/
theorem goTo_global {va : Nat} {r : Tr} (ht : translate s s.issuer kd va n = (r, t)) (k : Place → State → Out) :
    goTo y kd a n k s (.global va) = landed y kd a n va k (r, t) := by rw [goTo, ht]

/-- An access whose address is aligned, in scope and unlocked passes at the place it leads to. -/
theorem admits_of_leads (hr : resolve s s.myCluster s.me.sag a n = some ad) (ha : a.toNat % al = 0) (hp : pre ad = true)
    (hl : Leads kd n s ad loc why t) (hq : t.rangeLocked kd ad.named n = none) : Admits kd a n al pre s ⟨ad, ad.named, loc, why⟩ t := by
  intro y k
  rw [accessBy_resolved hr, if_neg (by simp [ha]), if_neg (by simp [hp]), goTo_of_leads hl, arrive, hq]

/-- Everything an access can come to: one of the traps of R174, a wait of its translation (R419), a frame that does not exist, or the place it leads to. -/
theorem accessBy_cases (y : Way) (kd : Acc) (a : Word) (n al : Nat) (pre : Addr → Bool) (s : State) (k : Place → State → Out) :
    (∃ c v t, accessBy y kd a n al pre s k = trap c v t) ∨ (∃ t, accessBy y kd a n al pre s k = y.wait t) ∨ (∃ f, accessBy y kd a n al pre s k = .fault f) ∨
    (∃ ad loc why t, resolve s s.myCluster s.me.sag a n = some ad ∧ a.toNat % al = 0 ∧ pre ad = true ∧ Leads kd n s ad loc why t ∧
      t.rangeLocked kd ad.named n = none ∧ accessBy y kd a n al pre s k = k ⟨ad, ad.named, loc, why⟩ t) := by
  cases hr : resolve s s.myCluster s.me.sag a n with
  | none => exact .inl ⟨_, _, _, accessBy_unresolved hr k⟩
  | some ad =>
    by_cases ha : a.toNat % al = 0
    case neg => exact .inl ⟨.misalignedAccess, a, s, by rw [accessBy_resolved hr, if_pos ha]⟩
    cases hp : pre ad with
    | false => exact .inl ⟨.scopeAddress, a, s, by rw [accessBy_resolved hr, if_neg (by simp [ha]), if_pos (by simp [hp])]⟩
    | true =>
      have go : accessBy y kd a n al pre s k = goTo y kd a n k s ad := by rw [accessBy_resolved hr, if_neg (by simp [ha]), if_neg (by simp [hp])]
      have key : ∀ loc why t, Leads kd n s ad loc why t →
          (∃ c v t, accessBy y kd a n al pre s k = trap c v t) ∨ (∃ t, accessBy y kd a n al pre s k = y.wait t) ∨ (∃ f, accessBy y kd a n al pre s k = .fault f) ∨
          (∃ ad' loc why t, some ad = some ad' ∧ a.toNat % al = 0 ∧ pre ad' = true ∧ Leads kd n s ad' loc why t ∧
            t.rangeLocked kd ad'.named n = none ∧ accessBy y kd a n al pre s k = k ⟨ad', ad'.named, loc, why⟩ t) := by
        intro loc why t hl
        cases hq : t.rangeLocked kd ad.named n with
        | none => exact .inr (.inr (.inr ⟨ad, loc, why, t, rfl, ha, hp, hl, hq, admits_of_leads hr ha hp hl hq y k⟩))
        | some j => exact .inl ⟨.rangeLocked, _, t, by rw [go, goTo_of_leads hl, arrive, hq]⟩
      cases ad with
      | scratch c off => exact key _ none s ⟨rfl, rfl, rfl⟩
      | slice cl off => exact key _ none s ⟨rfl, rfl, rfl⟩
      | global va =>
        obtain ⟨r, t, ht⟩ : ∃ r t, translate s s.issuer kd va n = (r, t) := ⟨_, _, Prod.mk.eta.symm⟩
        have go' := go.trans (goTo_global ht k)
        clear go
        cases r with
        | ok loc => exact key loc none t ht
        | replay why loc => exact key loc (some why) t ht
        | waits => exact .inr (.inl ⟨t, go'⟩)
        | permission => exact .inl ⟨.permission, a, t, go'⟩
        | lease v => exact .inl ⟨.leaseViolation, _, t, go'⟩
        | broken f => exact .inr (.inr (.inl ⟨f, go'⟩))

/-! Records of the scratchpad. -/

/-- An access to a home that is awake wakes nothing. -/
theorem wakeHome_awake {h : Home} (w : s.awakeAt h = true) : s.wakeHome h = s := by
  unfold State.awakeAt at w
  unfold State.wakeHome
  split <;> simp_all [State.wakeUnit, State.wakeDie]

/-- A dword of the scratchpad reads at issue as w at address a: it passes the checks, a load of it would not wait, its core is awake, and neither an error nor
poison stands in it. -/
def State.dwordIs (s : State) (a w : Word) : Bool :=
  match resolve s s.myCluster s.me.sag a 8 with
  | some (.scratch c off) =>
    (s.rangeLocked .load (Addr.scratch c off).named 8).isNone && !s.recordWaits ⟨.scratch c off, (Addr.scratch c off).named, scratchLoc c off, none⟩ &&
      s.errs.isEmpty && decide (spaceOf (scratchLoc c off) = 4) && s.awakeAt (homeOf (scratchLoc c off)) &&
      decide (s.readAs s.myDie s.me.sag 0 (Addr.scratch c off).named (scratchLoc c off) 8 = (w.toNat, none))
  | _ => false

/-- Dwords r of the scratchpad from address a on read at issue. -/
def State.dwordsAre (s : State) (a : Word) : List Word → Bool
  | [] => true
  | w :: r => s.dwordIs a w && s.dwordsAre (a + 8) r

/-- A dword that can be read at issue is read, and the record goes on behind it. -/
theorem readDwords_dword {s s0 : State} {a w : Word} (h : s.dwordIs a w = true) (n : Nat) (acc : List Word) (k : List Word → State → Out) :
    readDwords s0 (n + 1) a acc s k = readDwords s0 n (a + 8) (w :: acc) s k := by
  unfold State.dwordIs at h
  split at h
  · rename_i c off hr
    simp only [Bool.and_eq_true, Bool.not_eq_true', Option.isNone_iff_eq_none, List.isEmpty_iff, decide_eq_true_eq] at h
    obtain ⟨⟨⟨⟨⟨hq, hw⟩, he⟩, h4⟩, ha⟩, hv⟩ := h
    have hm : s.meet (scratchLoc c off) 8 = s := by simp [State.meet, he]
    have hs : s.sendRead (scratchLoc c off) = s := by simp [State.sendRead, h4, wakeHome_awake ha]
    rw [readDwords, accessBy_resolved hr, if_neg (by simp [Nat.mod_one]), if_neg (by simp)]
    simp [goTo, arrive, hq, hw, State.tagFor, hm, hs, State.countStray, hv, word]
  · cases h

theorem readDwords_dwords {s s0 : State} (r : List Word) {a : Word} (h : s.dwordsAre a r = true) (acc : List Word) (k : List Word → State → Out) :
    readDwords s0 r.length a acc s k = k (acc.reverse ++ r) s := by
  induction r generalizing a acc with
  | nil => simp [readDwords]
  | cons w r ih =>
    simp only [State.dwordsAre, Bool.and_eq_true] at h
    rw [List.length_cons, readDwords_dword h.1, ih h.2]; simp

/-- A record of dwords that read at issue reads as their list, latched as the next sources (R450). -/
theorem reads_of_dwords {s : State} {j n : Nat} {a : Word} {r : List Word} (hl : r.length = n) (hn : s.me.reads.length < j + n)
    (hr : (resolve s s.myCluster s.me.sag a (8 * n)).isSome = true) (ha : a.toNat % 8 = 0) (h : s.dwordsAre a r = true) :
    ∀ k : List Word → State → Out, readRecord j a n s k = k r (r.foldl (fun (u : State) w => u.pushRead ⟨w, .nothing⟩) s) := by
  intro k
  subst hl
  obtain ⟨ad, had⟩ := Option.isSome_iff_exists.mp hr
  rw [readRecord, readRecordOf, if_neg (by omega), had]
  simp only [ha, ne_eq, not_true_eq_false, if_false]
  rw [readDwords_dwords r h]; simp

end Sys2Proof.Machine
end

