-- ==== Sys2Proof/Laws/Cipher.lean ====
section
/-! SUPPORT. Decryption is the inverse of encryption: the steps of AES-256, its rounds, XTS, and the atoms of memory (R424). -/

namespace Sys2Proof.Machine

/-! Bytes. -/

theorem invSbox_sbox : ∀ b : Byte, invSbox (sbox b) = b := by decide +kernel

theorem xtime_xor (a b : Byte) : xtime (a ^^^ b) = xtime a ^^^ xtime b := by
  unfold xtime
  rw [BitVec.getLsbD_xor, BitVec.shiftLeft_xor_distrib]
  cases a.getLsbD 7 <;> cases b.getLsbD 7
  · simp
  · simp [BitVec.xor_assoc]
  · simp only [Bool.bne_false, if_true, Bool.false_eq_true, if_false, BitVec.xor_zero]; ac_rfl
  · have h : a <<< 1 ^^^ 27#8 ^^^ (b <<< 1 ^^^ 27#8) = a <<< 1 ^^^ b <<< 1 ^^^ (27#8 ^^^ 27#8) := by ac_rfl
    simp [h]

theorem gmulFrom_xor (n : Nat) (k a b : Byte) : gmulFrom n k (a ^^^ b) = gmulFrom n k a ^^^ gmulFrom n k b := by
  induction n generalizing k a b with
  | zero => simp [gmulFrom]
  | succ n ih =>
    rw [gmulFrom, gmulFrom, gmulFrom, xtime_xor, ih]
    cases k.getLsbD 0
    · simp
    · simp only [if_true]; ac_rfl

theorem gmul_xor (k a b : Byte) : gmul k (a ^^^ b) = gmul k a ^^^ gmul k b := gmulFrom_xor 8 k a b

/-- The products of the coefficients of InvMixColumns and MixColumns, byte by byte. -/
theorem unmix_coeffs : ∀ x : Byte,
    (gmul 14 (gmul 2 x) ^^^ gmul 11 (gmul 1 x) ^^^ gmul 13 (gmul 1 x) ^^^ gmul 9 (gmul 3 x) = x) ∧
    (gmul 14 (gmul 3 x) ^^^ gmul 11 (gmul 2 x) ^^^ gmul 13 (gmul 1 x) ^^^ gmul 9 (gmul 1 x) = 0) ∧
    (gmul 14 (gmul 1 x) ^^^ gmul 11 (gmul 3 x) ^^^ gmul 13 (gmul 2 x) ^^^ gmul 9 (gmul 1 x) = 0) ∧
    (gmul 14 (gmul 1 x) ^^^ gmul 11 (gmul 1 x) ^^^ gmul 13 (gmul 3 x) ^^^ gmul 9 (gmul 2 x) = 0) := by decide +kernel

/-- The sum of four columns of four terms, regrouped by what each term comes from. -/
theorem regroup (a b c d e f g h i j k l m n o p : Byte) :
    (a ^^^ b ^^^ c ^^^ d) ^^^ (e ^^^ f ^^^ g ^^^ h) ^^^ (i ^^^ j ^^^ k ^^^ l) ^^^ (m ^^^ n ^^^ o ^^^ p) =
      (a ^^^ e ^^^ i ^^^ m) ^^^ (b ^^^ f ^^^ j ^^^ n) ^^^ (c ^^^ g ^^^ k ^^^ o) ^^^ (d ^^^ h ^^^ l ^^^ p) := by ac_rfl

/-- One byte of a column that has been mixed and unmixed. -/
theorem unmix_byte (p q r s : Byte) :
    gmul 14 (gmul 2 p ^^^ gmul 3 q ^^^ gmul 1 r ^^^ gmul 1 s) ^^^ gmul 11 (gmul 1 p ^^^ gmul 2 q ^^^ gmul 3 r ^^^ gmul 1 s) ^^^
      gmul 13 (gmul 1 p ^^^ gmul 1 q ^^^ gmul 2 r ^^^ gmul 3 s) ^^^ gmul 9 (gmul 3 p ^^^ gmul 1 q ^^^ gmul 1 r ^^^ gmul 2 s) = p := by
  simp only [gmul_xor]
  rw [regroup, (unmix_coeffs p).1, (unmix_coeffs q).2.1, (unmix_coeffs r).2.2.1, (unmix_coeffs s).2.2.2]
  simp

theorem unmix_mix (c : Col) : c.mix.unmix = c := by
  obtain ⟨p, q, r, s⟩ := c
  have h1 := unmix_byte p q r s
  have h2 := unmix_byte q r s p
  have h3 := unmix_byte r s p q
  have h4 := unmix_byte s p q r
  simp only [Col.mix, Col.unmix, Col.times, Col.mk.injEq]
  refine ⟨?_, ?_, ?_, ?_⟩
  · exact h1
  · exact Eq.trans (by ac_rfl) h2
  · exact Eq.trans (by ac_rfl) h3
  · exact Eq.trans (by ac_rfl) h4

/-! Blocks. -/

theorem Block.xor_xor (p k : Block) : (p.xor k).xor k = p := by
  simp [Block.xor, Col.xor]

theorem Block.unshift_shift (p : Block) : p.shift.unshift = p := rfl

theorem Block.map_map (f g : Col → Col) (h : ∀ c, g (f c) = c) (p : Block) : (p.map f).map g = p := by simp [Block.map, h]

theorem Col.invSub_sub (c : Col) : (c.map sbox).map invSbox = c := by simp [Col.map, invSbox_sbox]

theorem decryptRounds_encryptRounds : ∀ (ks : List Block) (s : Block), decryptRounds ks (encryptRounds ks s) = s
  | [], s => rfl
  | [k], s => by rw [encryptRounds, decryptRounds, Block.xor_xor, Block.unshift_shift, Block.map_map _ _ Col.invSub_sub]
  | k :: l :: t, s => by
    rw [encryptRounds, decryptRounds, decryptRounds_encryptRounds (l :: t), Block.xor_xor, Block.map_map _ _ unmix_mix, Block.unshift_shift, Block.map_map _ _ Col.invSub_sub]
    all_goals simp

/-- AES-256 decrypts what it has encrypted. -/
theorem aesDecrypt_aesEncrypt (p q s : Block) : aesDecrypt p q (aesEncrypt p q s) = s := by
  rw [aesDecrypt, aesEncrypt, decryptRounds_encryptRounds, Block.xor_xor]

/-- XTS decrypts what it has encrypted. -/
theorem xtsDecrypt_xtsEncrypt (k : BitVec 512) (t : Nat) (d : Block × Block) : xtsDecrypt k t (xtsEncrypt k t d) = d := by
  simp only [xtsDecrypt, xtsEncrypt, Block.xor_xor, aesDecrypt_aesEncrypt]

/-! And back: blocks are finitely many, so that encryption is the inverse of decryption too. -/

theorem finite_byte : Finite Byte := Finite.of_injective (fun b : Byte => b.toFin) (fun _ _ h => BitVec.toFin_inj.1 h)

theorem finite_block : Finite Block :=
  have := finite_byte
  Finite.of_injective (fun p : Block => ((p.w.a, p.w.b, p.w.c, p.w.d), (p.x.a, p.x.b, p.x.c, p.x.d), (p.y.a, p.y.b, p.y.c, p.y.d), (p.z.a, p.z.b, p.z.c, p.z.d)))
    (fun p q h => by
      obtain ⟨⟨_, _, _, _⟩, ⟨_, _, _, _⟩, ⟨_, _, _, _⟩, ⟨_, _, _, _⟩⟩ := p
      obtain ⟨⟨_, _, _, _⟩, ⟨_, _, _, _⟩, ⟨_, _, _, _⟩, ⟨_, _, _, _⟩⟩ := q
      simp_all)

theorem aesEncrypt_aesDecrypt (p q s : Block) : aesEncrypt p q (aesDecrypt p q s) = s := by
  have := finite_block
  have hl : Function.LeftInverse (aesDecrypt p q) (aesEncrypt p q) := aesDecrypt_aesEncrypt p q
  exact hl.rightInverse_of_surjective (Finite.surjective_of_injective hl.injective) s

theorem xtsEncrypt_xtsDecrypt (k : BitVec 512) (t : Nat) (d : Block × Block) : xtsEncrypt k t (xtsDecrypt k t d) = d := by
  simp only [xtsDecrypt, xtsEncrypt, Block.xor_xor, aesEncrypt_aesDecrypt]

/-! Atoms. -/

theorem byteAt_ofBytes (bs : List Byte) (i : Nat) : byteAt (ofBytes bs) i = bs.getD i 0 := by
  induction bs generalizing i with
  | nil => simp [ofBytes, byteAt]
  | cons b t ih =>
    have hb := b.isLt
    cases i with
    | zero =>
      simp only [ofBytes, byteAt, Nat.mul_zero, Nat.pow_zero, Nat.div_one, List.getD_cons_zero]
      apply BitVec.eq_of_toNat_eq
      simp only [BitVec.toNat_ofNat]
      omega
    | succ i =>
      rw [List.getD_cons_succ, ← ih, byteAt, byteAt, ofBytes, Nat.mul_succ, Nat.add_comm (8 * i) 8, Nat.pow_add, ← Nat.div_div_eq_div_mul]
      congr 2
      omega

/-- The two blocks of an atom's bytes. -/
theorem blocks_of_bytes (x y : Block) : blockAt (ofBytes (x.bytes ++ y.bytes)) 0 = x ∧ blockAt (ofBytes (x.bytes ++ y.bytes)) 16 = y := by
  simp [blockAt, byteAt_ofBytes, Block.bytes, Col.bytes]

/-- The bytes of an atom's two blocks. -/
theorem bytes_of_blocks (bs : List Byte) (h : bs.length = 32) : (blockAt (ofBytes bs) 0).bytes ++ (blockAt (ofBytes bs) 16).bytes = bs := by
  have e : (blockAt (ofBytes bs) 0).bytes ++ (blockAt (ofBytes bs) 16).bytes = (List.range 32).map (fun i => bs.getD i 0) := by
    simp [blockAt, byteAt_ofBytes, Block.bytes, Col.bytes, List.range, List.range.loop]
  rw [e]
  apply List.ext_getElem (by simp [h])
  intro i h1 h2
  simp [List.getD_eq_getElem?_getD, List.getElem?_eq_getElem h2]

/-- What a key decrypts of what another has encrypted is the first key's again under it (R424). -/
theorem rekeyed_back (k k' : BitVec 512) (a : Nat) (bs : List Byte) (h : bs.length = 32) : rekeyed k' k a (rekeyed k k' a bs) = bs := by
  simp only [rekeyed, (blocks_of_bytes _ _).1, (blocks_of_bytes _ _).2, Prod.mk.eta, xtsEncrypt_xtsDecrypt, xtsDecrypt_xtsEncrypt, bytes_of_blocks bs h]

end Sys2Proof.Machine
end

