-- ==== Sys2Proof/Laws/Map.lean ====
section
/-! SUPPORT. The laws of sparse tables: reading after writing, and the canonical form kept by every operation. -/

namespace Sys2Proof.Tbl

variable {α : Type}

theorem find_put_same (t : List (Nat × α)) (k : Nat) (v : α) : find (put t k v) k = some v := by
  induction t with
  | nil => simp [put, find]
  | cons e t ih =>
    obtain ⟨j, w⟩ := e
    simp only [put]
    split
    · simp [find]
    · split
      · simp [find]
      · rename_i h; simp [find, h, ih]

theorem find_put_other (t : List (Nat × α)) (k j : Nat) (v : α) (h : j ≠ k) : find (put t k v) j = find t j := by
  induction t with
  | nil => simp [put, find, Ne.symm h]
  | cons e t ih =>
    obtain ⟨i, w⟩ := e
    simp only [put]
    split
    · simp [find, Ne.symm h]
    · split
      · rename_i hi; simp [find, hi, Ne.symm h]
      · simp [find, ih]

theorem put_put (t : List (Nat × α)) (k : Nat) (v w : α) : put (put t k v) k w = put t k w := by
  induction t with
  | nil => simp [put]
  | cons e t ih =>
    obtain ⟨i, x⟩ := e
    simp only [put]
    split
    · simp [put]
    · split
      · simp [put]
      · rename_i h1 h2; simp [put, h1, h2, ih]

theorem get_put_same (t : List (Nat × α)) (k : Nat) (v d : α) : get (put t k v) k d = v := by simp [get, find_put_same]

theorem get_put_other (t : List (Nat × α)) (k j : Nat) (v d : α) (h : j ≠ k) : get (put t k v) j d = get t j d := by
  simp [get, find_put_other t k j v h]

theorem get_upd_same (t : List (Nat × α)) (k : Nat) (d : α) (f : α → α) : get (upd t k d f) k d = f (get t k d) := get_put_same ..

theorem get_upd_other (t : List (Nat × α)) (k j : Nat) (d : α) (f : α → α) (h : j ≠ k) : get (upd t k d f) j d = get t j d :=
  get_put_other _ _ _ _ _ h

theorem upd_upd (t : List (Nat × α)) (k : Nat) (d : α) (f g : α → α) : upd (upd t k d f) k d g = upd t k d (fun x => g (f x)) := by
  simp [upd, get_put_same, put_put]

/-- Every key of a table that rises from b is at least b. -/
theorem sortedFrom_ge (t : List (Nat × α)) (b : Nat) (h : sortedFrom b t = true) : ∀ e ∈ t, b ≤ e.1 := by
  induction t generalizing b with
  | nil => simp
  | cons e t ih =>
    simp only [sortedFrom, Bool.and_eq_true, decide_eq_true_eq] at h
    intro x hx
    rcases List.mem_cons.mp hx with rfl | hx
    · exact h.1
    · have := ih _ h.2 x hx; omega

theorem sortedFrom_mono (t : List (Nat × α)) (a b : Nat) (hab : a ≤ b) (h : sortedFrom b t = true) : sortedFrom a t = true := by
  cases t with
  | nil => rfl
  | cons e t =>
    simp only [sortedFrom, Bool.and_eq_true, decide_eq_true_eq] at *
    exact ⟨by omega, h.2⟩

theorem sortedFrom_put (t : List (Nat × α)) (b k : Nat) (v : α) (hb : b ≤ k) (h : sortedFrom b t = true) : sortedFrom b (put t k v) = true := by
  induction t generalizing b with
  | nil => simp [put, sortedFrom, hb]
  | cons e t ih =>
    obtain ⟨j, w⟩ := e
    simp only [sortedFrom, Bool.and_eq_true, decide_eq_true_eq] at h
    simp only [put]
    split
    · simp only [sortedFrom, Bool.and_eq_true, decide_eq_true_eq]
      exact ⟨hb, by omega, h.2⟩
    · split
      · rename_i hj; subst hj; simp only [sortedFrom, Bool.and_eq_true, decide_eq_true_eq]; exact ⟨hb, h.2⟩
      · simp only [sortedFrom, Bool.and_eq_true, decide_eq_true_eq]
        exact ⟨h.1, ih _ (by omega) h.2⟩

theorem sortedFrom_del (t : List (Nat × α)) (b k : Nat) (h : sortedFrom b t = true) : sortedFrom b (del t k) = true := by
  induction t generalizing b with
  | nil => rfl
  | cons e t ih =>
    obtain ⟨j, w⟩ := e
    simp only [sortedFrom, Bool.and_eq_true, decide_eq_true_eq] at h
    simp only [del]
    split
    · exact sortedFrom_mono _ _ _ (by omega) h.2
    · simp only [sortedFrom, Bool.and_eq_true, decide_eq_true_eq]
      exact ⟨h.1, ih _ h.2⟩

theorem sortedFrom_filter (t : List (Nat × α)) (b : Nat) (p : Nat × α → Bool) (h : sortedFrom b t = true) : sortedFrom b (t.filter p) = true := by
  induction t generalizing b with
  | nil => rfl
  | cons e t ih =>
    simp only [sortedFrom, Bool.and_eq_true, decide_eq_true_eq] at h
    simp only [List.filter]
    split
    · simp only [sortedFrom, Bool.and_eq_true, decide_eq_true_eq]; exact ⟨h.1, ih _ h.2⟩
    · exact sortedFrom_mono _ _ _ (by omega) (ih _ h.2)

theorem find_none_of_gt (t : List (Nat × α)) (b k : Nat) (hk : k < b) (h : sortedFrom b t = true) : find t k = none := by
  induction t generalizing b with
  | nil => rfl
  | cons e t ih =>
    obtain ⟨j, w⟩ := e
    simp only [sortedFrom, Bool.and_eq_true, decide_eq_true_eq] at h
    have : j ≠ k := by omega
    simp [find, this, ih (j + 1) (by omega) h.2]

theorem find_del_same (t : List (Nat × α)) (b k : Nat) (h : sortedFrom b t = true) : find (del t k) k = none := by
  induction t generalizing b with
  | nil => rfl
  | cons e t ih =>
    obtain ⟨j, w⟩ := e
    simp only [sortedFrom, Bool.and_eq_true, decide_eq_true_eq] at h
    simp only [del]
    split
    · rename_i hj; exact find_none_of_gt t (j + 1) k (by omega) h.2
    · rename_i hj; simp [find, hj, ih _ h.2]

theorem find_del_other (t : List (Nat × α)) (k j : Nat) (h : j ≠ k) : find (del t k) j = find t j := by
  induction t with
  | nil => rfl
  | cons e t ih =>
    obtain ⟨i, w⟩ := e
    simp only [del]
    split
    · rename_i hi; simp [find, hi, Ne.symm h]
    · simp [find, ih]

theorem mem_put (t : List (Nat × α)) (k : Nat) (v : α) : ∀ e ∈ put t k v, e = (k, v) ∨ e ∈ t := by
  induction t with
  | nil => simp [put]
  | cons x t ih =>
    obtain ⟨j, w⟩ := x
    simp only [put]
    split
    · intro e he; simpa using he
    · split
      · intro e he; rcases List.mem_cons.mp he with h | h
        · exact .inl h
        · exact .inr (List.mem_cons_of_mem _ h)
      · intro e he; rcases List.mem_cons.mp he with h | h
        · exact .inr (by simp [h])
        · rcases ih e h with h | h
          · exact .inl h
          · exact .inr (List.mem_cons_of_mem _ h)

theorem mem_del (t : List (Nat × α)) (k : Nat) : ∀ e ∈ del t k, e ∈ t := by
  induction t with
  | nil => simp [del]
  | cons x t ih =>
    obtain ⟨j, w⟩ := x
    simp only [del]
    split
    · intro e he; exact List.mem_cons_of_mem _ he
    · intro e he; rcases List.mem_cons.mp he with h | h
      · simp [h]
      · exact List.mem_cons_of_mem _ (ih e h)

variable [DecidableEq α]

theorem get_set_other (t : List (Nat × α)) (k j : Nat) (v d : α) (h : j ≠ k) : get (set t k v d) j d = get t j d := by
  unfold set; split
  · simp [get, find_del_other t k j h]
  · exact get_put_other _ _ _ _ _ h

theorem get_set_same (t : List (Nat × α)) (k : Nat) (v d : α) (h : sortedFrom 0 t = true) : get (set t k v d) k d = v := by
  unfold set; split
  · rename_i hv; simp [get, find_del_same t 0 k h, hv]
  · exact get_put_same _ _ _ _

/-- Writing keeps the canonical form. -/
theorem wf_set (d : α) (t : List (Nat × α)) (k : Nat) (v : α) (h : wf d t = true) : wf d (set t k v d) = true := by
  simp only [wf, Bool.and_eq_true, List.all_eq_true, decide_eq_true_eq] at *
  unfold set
  split
  · exact ⟨sortedFrom_del _ _ _ h.1, fun e he => h.2 e (mem_del _ _ e he)⟩
  · rename_i hv
    refine ⟨sortedFrom_put _ _ _ _ (Nat.zero_le _) h.1, fun e he => ?_⟩
    rcases mem_put _ _ _ e he with rfl | he
    · exact hv
    · exact h.2 e he

/-- Dropping entries keeps the canonical form. -/
theorem wf_filter (d : α) (t : List (Nat × α)) (p : Nat × α → Bool) (h : wf d t = true) : wf d (t.filter p) = true := by
  simp only [wf, Bool.and_eq_true, List.all_eq_true, decide_eq_true_eq] at *
  exact ⟨sortedFrom_filter _ _ _ h.1, fun e he => h.2 e ((List.mem_filter.mp he).1)⟩

end Sys2Proof.Tbl
end

