-- ==== Sys2Proof/Laws/State.lean ====
section
/-! SUPPORT. What each named update of the state leaves alone, field by field, and what reading gives after it. -/

namespace Sys2Proof.Machine

variable (s : State)

@[simp] theorem State.modCore_agenda (c : Nat) (f : Core → Core) : (s.modCore c f).agenda = s.agenda := rfl
@[simp] theorem State.modCore_core (c : Nat) (f : Core → Core) : (s.modCore c f).core = s.core := rfl
@[simp] theorem State.modCore_slot (c : Nat) (f : Core → Core) : (s.modCore c f).slot = s.slot := rfl
@[simp] theorem State.modCore_free (c : Nat) (f : Core → Core) : (s.modCore c f).free = s.free := rfl
@[simp] theorem State.modCore_serial (c : Nat) (f : Core → Core) : (s.modCore c f).serial = s.serial := rfl
@[simp] theorem State.modCore_time (c : Nat) (f : Core → Core) : (s.modCore c f).time = s.time := rfl
@[simp] theorem State.modCore_lastRefill (c : Nat) (f : Core → Core) : (s.modCore c f).lastRefill = s.lastRefill := rfl
@[simp] theorem State.modCore_lastCredit (c : Nat) (f : Core → Core) : (s.modCore c f).lastCredit = s.lastCredit := rfl
@[simp] theorem State.modCore_credits (c : Nat) (f : Core → Core) : (s.modCore c f).credits = s.credits := rfl
@[simp] theorem State.modCore_mem (c : Nat) (f : Core → Core) : (s.modCore c f).mem = s.mem := rfl
@[simp] theorem State.modCore_full (c : Nat) (f : Core → Core) : (s.modCore c f).full = s.full := rfl
@[simp] theorem State.modCore_poison (c : Nat) (f : Core → Core) : (s.modCore c f).poison = s.poison := rfl
@[simp] theorem State.modCore_clusters (c : Nat) (f : Core → Core) : (s.modCore c f).clusters = s.clusters := rfl
@[simp] theorem State.modCore_dies (c : Nat) (f : Core → Core) : (s.modCore c f).dies = s.dies := rfl
@[simp] theorem State.modCore_saggars (c : Nat) (f : Core → Core) : (s.modCore c f).saggars = s.saggars := rfl
@[simp] theorem State.modCore_net (c : Nat) (f : Core → Core) : (s.modCore c f).net = s.net := rfl
@[simp] theorem State.modCore_acks (c : Nat) (f : Core → Core) : (s.modCore c f).acks = s.acks := rfl
@[simp] theorem State.modCore_cone (c : Nat) (f : Core → Core) : (s.modCore c f).cone = s.cone := rfl
@[simp] theorem State.modCore_waiters (c : Nat) (f : Core → Core) : (s.modCore c f).waiters = s.waiters := rfl
@[simp] theorem State.modCore_krMap (c : Nat) (f : Core → Core) : (s.modCore c f).krMap = s.krMap := rfl
@[simp] theorem State.modCore_keys (c : Nat) (f : Core → Core) : (s.modCore c f).keys = s.keys := rfl
@[simp] theorem State.modCore_sealed (c : Nat) (f : Core → Core) : (s.modCore c f).sealed = s.sealed := rfl
@[simp] theorem State.modCore_bringup (c : Nat) (f : Core → Core) : (s.modCore c f).bringup = s.bringup := rfl
@[simp] theorem State.modCore_boot (c : Nat) (f : Core → Core) : (s.modCore c f).boot = s.boot := rfl
@[simp] theorem State.modCore_repair (c : Nat) (f : Core → Core) : (s.modCore c f).repair = s.repair := rfl
@[simp] theorem State.modCore_logRing (c : Nat) (f : Core → Core) : (s.modCore c f).logRing = s.logRing := rfl
@[simp] theorem State.modCore_sampleRing (c : Nat) (f : Core → Core) : (s.modCore c f).sampleRing = s.sampleRing := rfl
@[simp] theorem State.modCore_pulse (c : Nat) (f : Core → Core) : (s.modCore c f).pulse = s.pulse := rfl
@[simp] theorem State.modCore_peers (c : Nat) (f : Core → Core) : (s.modCore c f).peers = s.peers := rfl
@[simp] theorem State.modCore_routerDrops (c : Nat) (f : Core → Core) : (s.modCore c f).routerDrops = s.routerDrops := rfl
@[simp] theorem State.modCore_completions (c : Nat) (f : Core → Core) : (s.modCore c f).completions = s.completions := rfl
@[simp] theorem State.modCore_capFaults (c : Nat) (f : Core → Core) : (s.modCore c f).capFaults = s.capFaults := rfl
@[simp] theorem State.modCore_errs (c : Nat) (f : Core → Core) : (s.modCore c f).errs = s.errs := rfl
@[simp] theorem State.modCore_sramCe (c : Nat) (f : Core → Core) : (s.modCore c f).sramCe = s.sramCe := rfl
@[simp] theorem State.modCore_parts (c : Nat) (f : Core → Core) : (s.modCore c f).parts = s.parts := rfl
@[simp] theorem State.modCore_kept (c : Nat) (f : Core → Core) : (s.modCore c f).kept = s.kept := rfl
@[simp] theorem State.modCore_fuses (c : Nat) (f : Core → Core) : (s.modCore c f).fuses = s.fuses := rfl
@[simp] theorem State.modCore_flashChain (c : Nat) (f : Core → Core) : (s.modCore c f).flashChain = s.flashChain := rfl

@[simp] theorem State.modStrand_agenda (c k : Nat) (f : Strand → Strand) : (s.modStrand c k f).agenda = s.agenda := rfl
@[simp] theorem State.modStrand_core (c k : Nat) (f : Strand → Strand) : (s.modStrand c k f).core = s.core := rfl
@[simp] theorem State.modStrand_slot (c k : Nat) (f : Strand → Strand) : (s.modStrand c k f).slot = s.slot := rfl
@[simp] theorem State.modStrand_free (c k : Nat) (f : Strand → Strand) : (s.modStrand c k f).free = s.free := rfl
@[simp] theorem State.modStrand_serial (c k : Nat) (f : Strand → Strand) : (s.modStrand c k f).serial = s.serial := rfl
@[simp] theorem State.modStrand_time (c k : Nat) (f : Strand → Strand) : (s.modStrand c k f).time = s.time := rfl
@[simp] theorem State.modStrand_lastRefill (c k : Nat) (f : Strand → Strand) : (s.modStrand c k f).lastRefill = s.lastRefill := rfl
@[simp] theorem State.modStrand_lastCredit (c k : Nat) (f : Strand → Strand) : (s.modStrand c k f).lastCredit = s.lastCredit := rfl
@[simp] theorem State.modStrand_credits (c k : Nat) (f : Strand → Strand) : (s.modStrand c k f).credits = s.credits := rfl
@[simp] theorem State.modStrand_mem (c k : Nat) (f : Strand → Strand) : (s.modStrand c k f).mem = s.mem := rfl
@[simp] theorem State.modStrand_full (c k : Nat) (f : Strand → Strand) : (s.modStrand c k f).full = s.full := rfl
@[simp] theorem State.modStrand_poison (c k : Nat) (f : Strand → Strand) : (s.modStrand c k f).poison = s.poison := rfl
@[simp] theorem State.modStrand_clusters (c k : Nat) (f : Strand → Strand) : (s.modStrand c k f).clusters = s.clusters := rfl
@[simp] theorem State.modStrand_dies (c k : Nat) (f : Strand → Strand) : (s.modStrand c k f).dies = s.dies := rfl
@[simp] theorem State.modStrand_saggars (c k : Nat) (f : Strand → Strand) : (s.modStrand c k f).saggars = s.saggars := rfl
@[simp] theorem State.modStrand_net (c k : Nat) (f : Strand → Strand) : (s.modStrand c k f).net = s.net := rfl
@[simp] theorem State.modStrand_acks (c k : Nat) (f : Strand → Strand) : (s.modStrand c k f).acks = s.acks := rfl
@[simp] theorem State.modStrand_cone (c k : Nat) (f : Strand → Strand) : (s.modStrand c k f).cone = s.cone := rfl
@[simp] theorem State.modStrand_waiters (c k : Nat) (f : Strand → Strand) : (s.modStrand c k f).waiters = s.waiters := rfl
@[simp] theorem State.modStrand_krMap (c k : Nat) (f : Strand → Strand) : (s.modStrand c k f).krMap = s.krMap := rfl
@[simp] theorem State.modStrand_keys (c k : Nat) (f : Strand → Strand) : (s.modStrand c k f).keys = s.keys := rfl
@[simp] theorem State.modStrand_sealed (c k : Nat) (f : Strand → Strand) : (s.modStrand c k f).sealed = s.sealed := rfl
@[simp] theorem State.modStrand_bringup (c k : Nat) (f : Strand → Strand) : (s.modStrand c k f).bringup = s.bringup := rfl
@[simp] theorem State.modStrand_boot (c k : Nat) (f : Strand → Strand) : (s.modStrand c k f).boot = s.boot := rfl
@[simp] theorem State.modStrand_repair (c k : Nat) (f : Strand → Strand) : (s.modStrand c k f).repair = s.repair := rfl
@[simp] theorem State.modStrand_logRing (c k : Nat) (f : Strand → Strand) : (s.modStrand c k f).logRing = s.logRing := rfl
@[simp] theorem State.modStrand_sampleRing (c k : Nat) (f : Strand → Strand) : (s.modStrand c k f).sampleRing = s.sampleRing := rfl
@[simp] theorem State.modStrand_pulse (c k : Nat) (f : Strand → Strand) : (s.modStrand c k f).pulse = s.pulse := rfl
@[simp] theorem State.modStrand_peers (c k : Nat) (f : Strand → Strand) : (s.modStrand c k f).peers = s.peers := rfl
@[simp] theorem State.modStrand_routerDrops (c k : Nat) (f : Strand → Strand) : (s.modStrand c k f).routerDrops = s.routerDrops := rfl
@[simp] theorem State.modStrand_completions (c k : Nat) (f : Strand → Strand) : (s.modStrand c k f).completions = s.completions := rfl
@[simp] theorem State.modStrand_capFaults (c k : Nat) (f : Strand → Strand) : (s.modStrand c k f).capFaults = s.capFaults := rfl
@[simp] theorem State.modStrand_errs (c k : Nat) (f : Strand → Strand) : (s.modStrand c k f).errs = s.errs := rfl
@[simp] theorem State.modStrand_sramCe (c k : Nat) (f : Strand → Strand) : (s.modStrand c k f).sramCe = s.sramCe := rfl
@[simp] theorem State.modStrand_parts (c k : Nat) (f : Strand → Strand) : (s.modStrand c k f).parts = s.parts := rfl
@[simp] theorem State.modStrand_kept (c k : Nat) (f : Strand → Strand) : (s.modStrand c k f).kept = s.kept := rfl
@[simp] theorem State.modStrand_fuses (c k : Nat) (f : Strand → Strand) : (s.modStrand c k f).fuses = s.fuses := rfl
@[simp] theorem State.modStrand_flashChain (c k : Nat) (f : Strand → Strand) : (s.modStrand c k f).flashChain = s.flashChain := rfl

@[simp] theorem State.modMe_agenda (f : Strand → Strand) : (s.modMe f).agenda = s.agenda := rfl
@[simp] theorem State.modMe_core (f : Strand → Strand) : (s.modMe f).core = s.core := rfl
@[simp] theorem State.modMe_slot (f : Strand → Strand) : (s.modMe f).slot = s.slot := rfl
@[simp] theorem State.modMe_free (f : Strand → Strand) : (s.modMe f).free = s.free := rfl
@[simp] theorem State.modMe_serial (f : Strand → Strand) : (s.modMe f).serial = s.serial := rfl
@[simp] theorem State.modMe_time (f : Strand → Strand) : (s.modMe f).time = s.time := rfl
@[simp] theorem State.modMe_lastRefill (f : Strand → Strand) : (s.modMe f).lastRefill = s.lastRefill := rfl
@[simp] theorem State.modMe_lastCredit (f : Strand → Strand) : (s.modMe f).lastCredit = s.lastCredit := rfl
@[simp] theorem State.modMe_credits (f : Strand → Strand) : (s.modMe f).credits = s.credits := rfl
@[simp] theorem State.modMe_mem (f : Strand → Strand) : (s.modMe f).mem = s.mem := rfl
@[simp] theorem State.modMe_full (f : Strand → Strand) : (s.modMe f).full = s.full := rfl
@[simp] theorem State.modMe_poison (f : Strand → Strand) : (s.modMe f).poison = s.poison := rfl
@[simp] theorem State.modMe_clusters (f : Strand → Strand) : (s.modMe f).clusters = s.clusters := rfl
@[simp] theorem State.modMe_dies (f : Strand → Strand) : (s.modMe f).dies = s.dies := rfl
@[simp] theorem State.modMe_saggars (f : Strand → Strand) : (s.modMe f).saggars = s.saggars := rfl
@[simp] theorem State.modMe_net (f : Strand → Strand) : (s.modMe f).net = s.net := rfl
@[simp] theorem State.modMe_acks (f : Strand → Strand) : (s.modMe f).acks = s.acks := rfl
@[simp] theorem State.modMe_cone (f : Strand → Strand) : (s.modMe f).cone = s.cone := rfl
@[simp] theorem State.modMe_waiters (f : Strand → Strand) : (s.modMe f).waiters = s.waiters := rfl
@[simp] theorem State.modMe_krMap (f : Strand → Strand) : (s.modMe f).krMap = s.krMap := rfl
@[simp] theorem State.modMe_keys (f : Strand → Strand) : (s.modMe f).keys = s.keys := rfl
@[simp] theorem State.modMe_sealed (f : Strand → Strand) : (s.modMe f).sealed = s.sealed := rfl
@[simp] theorem State.modMe_bringup (f : Strand → Strand) : (s.modMe f).bringup = s.bringup := rfl
@[simp] theorem State.modMe_boot (f : Strand → Strand) : (s.modMe f).boot = s.boot := rfl
@[simp] theorem State.modMe_repair (f : Strand → Strand) : (s.modMe f).repair = s.repair := rfl
@[simp] theorem State.modMe_logRing (f : Strand → Strand) : (s.modMe f).logRing = s.logRing := rfl
@[simp] theorem State.modMe_sampleRing (f : Strand → Strand) : (s.modMe f).sampleRing = s.sampleRing := rfl
@[simp] theorem State.modMe_pulse (f : Strand → Strand) : (s.modMe f).pulse = s.pulse := rfl
@[simp] theorem State.modMe_peers (f : Strand → Strand) : (s.modMe f).peers = s.peers := rfl
@[simp] theorem State.modMe_routerDrops (f : Strand → Strand) : (s.modMe f).routerDrops = s.routerDrops := rfl
@[simp] theorem State.modMe_completions (f : Strand → Strand) : (s.modMe f).completions = s.completions := rfl
@[simp] theorem State.modMe_capFaults (f : Strand → Strand) : (s.modMe f).capFaults = s.capFaults := rfl
@[simp] theorem State.modMe_errs (f : Strand → Strand) : (s.modMe f).errs = s.errs := rfl
@[simp] theorem State.modMe_sramCe (f : Strand → Strand) : (s.modMe f).sramCe = s.sramCe := rfl
@[simp] theorem State.modMe_parts (f : Strand → Strand) : (s.modMe f).parts = s.parts := rfl
@[simp] theorem State.modMe_kept (f : Strand → Strand) : (s.modMe f).kept = s.kept := rfl
@[simp] theorem State.modMe_fuses (f : Strand → Strand) : (s.modMe f).fuses = s.fuses := rfl
@[simp] theorem State.modMe_flashChain (f : Strand → Strand) : (s.modMe f).flashChain = s.flashChain := rfl

@[simp] theorem State.modMyCore_agenda (f : Core → Core) : (s.modMyCore f).agenda = s.agenda := rfl
@[simp] theorem State.modMyCore_core (f : Core → Core) : (s.modMyCore f).core = s.core := rfl
@[simp] theorem State.modMyCore_slot (f : Core → Core) : (s.modMyCore f).slot = s.slot := rfl
@[simp] theorem State.modMyCore_free (f : Core → Core) : (s.modMyCore f).free = s.free := rfl
@[simp] theorem State.modMyCore_serial (f : Core → Core) : (s.modMyCore f).serial = s.serial := rfl
@[simp] theorem State.modMyCore_time (f : Core → Core) : (s.modMyCore f).time = s.time := rfl
@[simp] theorem State.modMyCore_lastRefill (f : Core → Core) : (s.modMyCore f).lastRefill = s.lastRefill := rfl
@[simp] theorem State.modMyCore_lastCredit (f : Core → Core) : (s.modMyCore f).lastCredit = s.lastCredit := rfl
@[simp] theorem State.modMyCore_credits (f : Core → Core) : (s.modMyCore f).credits = s.credits := rfl
@[simp] theorem State.modMyCore_mem (f : Core → Core) : (s.modMyCore f).mem = s.mem := rfl
@[simp] theorem State.modMyCore_full (f : Core → Core) : (s.modMyCore f).full = s.full := rfl
@[simp] theorem State.modMyCore_poison (f : Core → Core) : (s.modMyCore f).poison = s.poison := rfl
@[simp] theorem State.modMyCore_clusters (f : Core → Core) : (s.modMyCore f).clusters = s.clusters := rfl
@[simp] theorem State.modMyCore_dies (f : Core → Core) : (s.modMyCore f).dies = s.dies := rfl
@[simp] theorem State.modMyCore_saggars (f : Core → Core) : (s.modMyCore f).saggars = s.saggars := rfl
@[simp] theorem State.modMyCore_net (f : Core → Core) : (s.modMyCore f).net = s.net := rfl
@[simp] theorem State.modMyCore_acks (f : Core → Core) : (s.modMyCore f).acks = s.acks := rfl
@[simp] theorem State.modMyCore_cone (f : Core → Core) : (s.modMyCore f).cone = s.cone := rfl
@[simp] theorem State.modMyCore_waiters (f : Core → Core) : (s.modMyCore f).waiters = s.waiters := rfl
@[simp] theorem State.modMyCore_krMap (f : Core → Core) : (s.modMyCore f).krMap = s.krMap := rfl
@[simp] theorem State.modMyCore_keys (f : Core → Core) : (s.modMyCore f).keys = s.keys := rfl
@[simp] theorem State.modMyCore_sealed (f : Core → Core) : (s.modMyCore f).sealed = s.sealed := rfl
@[simp] theorem State.modMyCore_bringup (f : Core → Core) : (s.modMyCore f).bringup = s.bringup := rfl
@[simp] theorem State.modMyCore_boot (f : Core → Core) : (s.modMyCore f).boot = s.boot := rfl
@[simp] theorem State.modMyCore_repair (f : Core → Core) : (s.modMyCore f).repair = s.repair := rfl
@[simp] theorem State.modMyCore_logRing (f : Core → Core) : (s.modMyCore f).logRing = s.logRing := rfl
@[simp] theorem State.modMyCore_sampleRing (f : Core → Core) : (s.modMyCore f).sampleRing = s.sampleRing := rfl
@[simp] theorem State.modMyCore_pulse (f : Core → Core) : (s.modMyCore f).pulse = s.pulse := rfl
@[simp] theorem State.modMyCore_peers (f : Core → Core) : (s.modMyCore f).peers = s.peers := rfl
@[simp] theorem State.modMyCore_routerDrops (f : Core → Core) : (s.modMyCore f).routerDrops = s.routerDrops := rfl
@[simp] theorem State.modMyCore_completions (f : Core → Core) : (s.modMyCore f).completions = s.completions := rfl
@[simp] theorem State.modMyCore_capFaults (f : Core → Core) : (s.modMyCore f).capFaults = s.capFaults := rfl
@[simp] theorem State.modMyCore_errs (f : Core → Core) : (s.modMyCore f).errs = s.errs := rfl
@[simp] theorem State.modMyCore_sramCe (f : Core → Core) : (s.modMyCore f).sramCe = s.sramCe := rfl
@[simp] theorem State.modMyCore_parts (f : Core → Core) : (s.modMyCore f).parts = s.parts := rfl
@[simp] theorem State.modMyCore_kept (f : Core → Core) : (s.modMyCore f).kept = s.kept := rfl
@[simp] theorem State.modMyCore_fuses (f : Core → Core) : (s.modMyCore f).fuses = s.fuses := rfl
@[simp] theorem State.modMyCore_flashChain (f : Core → Core) : (s.modMyCore f).flashChain = s.flashChain := rfl

@[simp] theorem State.modCluster_agenda (c : Nat) (f : Cluster → Cluster) : (s.modCluster c f).agenda = s.agenda := rfl
@[simp] theorem State.modCluster_core (c : Nat) (f : Cluster → Cluster) : (s.modCluster c f).core = s.core := rfl
@[simp] theorem State.modCluster_slot (c : Nat) (f : Cluster → Cluster) : (s.modCluster c f).slot = s.slot := rfl
@[simp] theorem State.modCluster_free (c : Nat) (f : Cluster → Cluster) : (s.modCluster c f).free = s.free := rfl
@[simp] theorem State.modCluster_serial (c : Nat) (f : Cluster → Cluster) : (s.modCluster c f).serial = s.serial := rfl
@[simp] theorem State.modCluster_time (c : Nat) (f : Cluster → Cluster) : (s.modCluster c f).time = s.time := rfl
@[simp] theorem State.modCluster_lastRefill (c : Nat) (f : Cluster → Cluster) : (s.modCluster c f).lastRefill = s.lastRefill := rfl
@[simp] theorem State.modCluster_lastCredit (c : Nat) (f : Cluster → Cluster) : (s.modCluster c f).lastCredit = s.lastCredit := rfl
@[simp] theorem State.modCluster_credits (c : Nat) (f : Cluster → Cluster) : (s.modCluster c f).credits = s.credits := rfl
@[simp] theorem State.modCluster_mem (c : Nat) (f : Cluster → Cluster) : (s.modCluster c f).mem = s.mem := rfl
@[simp] theorem State.modCluster_full (c : Nat) (f : Cluster → Cluster) : (s.modCluster c f).full = s.full := rfl
@[simp] theorem State.modCluster_poison (c : Nat) (f : Cluster → Cluster) : (s.modCluster c f).poison = s.poison := rfl
@[simp] theorem State.modCluster_cores (c : Nat) (f : Cluster → Cluster) : (s.modCluster c f).cores = s.cores := rfl
@[simp] theorem State.modCluster_dies (c : Nat) (f : Cluster → Cluster) : (s.modCluster c f).dies = s.dies := rfl
@[simp] theorem State.modCluster_saggars (c : Nat) (f : Cluster → Cluster) : (s.modCluster c f).saggars = s.saggars := rfl
@[simp] theorem State.modCluster_net (c : Nat) (f : Cluster → Cluster) : (s.modCluster c f).net = s.net := rfl
@[simp] theorem State.modCluster_acks (c : Nat) (f : Cluster → Cluster) : (s.modCluster c f).acks = s.acks := rfl
@[simp] theorem State.modCluster_cone (c : Nat) (f : Cluster → Cluster) : (s.modCluster c f).cone = s.cone := rfl
@[simp] theorem State.modCluster_waiters (c : Nat) (f : Cluster → Cluster) : (s.modCluster c f).waiters = s.waiters := rfl
@[simp] theorem State.modCluster_krMap (c : Nat) (f : Cluster → Cluster) : (s.modCluster c f).krMap = s.krMap := rfl
@[simp] theorem State.modCluster_keys (c : Nat) (f : Cluster → Cluster) : (s.modCluster c f).keys = s.keys := rfl
@[simp] theorem State.modCluster_sealed (c : Nat) (f : Cluster → Cluster) : (s.modCluster c f).sealed = s.sealed := rfl
@[simp] theorem State.modCluster_bringup (c : Nat) (f : Cluster → Cluster) : (s.modCluster c f).bringup = s.bringup := rfl
@[simp] theorem State.modCluster_boot (c : Nat) (f : Cluster → Cluster) : (s.modCluster c f).boot = s.boot := rfl
@[simp] theorem State.modCluster_repair (c : Nat) (f : Cluster → Cluster) : (s.modCluster c f).repair = s.repair := rfl
@[simp] theorem State.modCluster_logRing (c : Nat) (f : Cluster → Cluster) : (s.modCluster c f).logRing = s.logRing := rfl
@[simp] theorem State.modCluster_sampleRing (c : Nat) (f : Cluster → Cluster) : (s.modCluster c f).sampleRing = s.sampleRing := rfl
@[simp] theorem State.modCluster_pulse (c : Nat) (f : Cluster → Cluster) : (s.modCluster c f).pulse = s.pulse := rfl
@[simp] theorem State.modCluster_peers (c : Nat) (f : Cluster → Cluster) : (s.modCluster c f).peers = s.peers := rfl
@[simp] theorem State.modCluster_routerDrops (c : Nat) (f : Cluster → Cluster) : (s.modCluster c f).routerDrops = s.routerDrops := rfl
@[simp] theorem State.modCluster_completions (c : Nat) (f : Cluster → Cluster) : (s.modCluster c f).completions = s.completions := rfl
@[simp] theorem State.modCluster_capFaults (c : Nat) (f : Cluster → Cluster) : (s.modCluster c f).capFaults = s.capFaults := rfl
@[simp] theorem State.modCluster_errs (c : Nat) (f : Cluster → Cluster) : (s.modCluster c f).errs = s.errs := rfl
@[simp] theorem State.modCluster_sramCe (c : Nat) (f : Cluster → Cluster) : (s.modCluster c f).sramCe = s.sramCe := rfl
@[simp] theorem State.modCluster_parts (c : Nat) (f : Cluster → Cluster) : (s.modCluster c f).parts = s.parts := rfl
@[simp] theorem State.modCluster_kept (c : Nat) (f : Cluster → Cluster) : (s.modCluster c f).kept = s.kept := rfl
@[simp] theorem State.modCluster_fuses (c : Nat) (f : Cluster → Cluster) : (s.modCluster c f).fuses = s.fuses := rfl
@[simp] theorem State.modCluster_flashChain (c : Nat) (f : Cluster → Cluster) : (s.modCluster c f).flashChain = s.flashChain := rfl

@[simp] theorem State.modDie_agenda (d : Nat) (f : Die → Die) : (s.modDie d f).agenda = s.agenda := rfl
@[simp] theorem State.modDie_core (d : Nat) (f : Die → Die) : (s.modDie d f).core = s.core := rfl
@[simp] theorem State.modDie_slot (d : Nat) (f : Die → Die) : (s.modDie d f).slot = s.slot := rfl
@[simp] theorem State.modDie_free (d : Nat) (f : Die → Die) : (s.modDie d f).free = s.free := rfl
@[simp] theorem State.modDie_serial (d : Nat) (f : Die → Die) : (s.modDie d f).serial = s.serial := rfl
@[simp] theorem State.modDie_time (d : Nat) (f : Die → Die) : (s.modDie d f).time = s.time := rfl
@[simp] theorem State.modDie_lastRefill (d : Nat) (f : Die → Die) : (s.modDie d f).lastRefill = s.lastRefill := rfl
@[simp] theorem State.modDie_lastCredit (d : Nat) (f : Die → Die) : (s.modDie d f).lastCredit = s.lastCredit := rfl
@[simp] theorem State.modDie_credits (d : Nat) (f : Die → Die) : (s.modDie d f).credits = s.credits := rfl
@[simp] theorem State.modDie_mem (d : Nat) (f : Die → Die) : (s.modDie d f).mem = s.mem := rfl
@[simp] theorem State.modDie_full (d : Nat) (f : Die → Die) : (s.modDie d f).full = s.full := rfl
@[simp] theorem State.modDie_poison (d : Nat) (f : Die → Die) : (s.modDie d f).poison = s.poison := rfl
@[simp] theorem State.modDie_cores (d : Nat) (f : Die → Die) : (s.modDie d f).cores = s.cores := rfl
@[simp] theorem State.modDie_clusters (d : Nat) (f : Die → Die) : (s.modDie d f).clusters = s.clusters := rfl
@[simp] theorem State.modDie_saggars (d : Nat) (f : Die → Die) : (s.modDie d f).saggars = s.saggars := rfl
@[simp] theorem State.modDie_net (d : Nat) (f : Die → Die) : (s.modDie d f).net = s.net := rfl
@[simp] theorem State.modDie_acks (d : Nat) (f : Die → Die) : (s.modDie d f).acks = s.acks := rfl
@[simp] theorem State.modDie_cone (d : Nat) (f : Die → Die) : (s.modDie d f).cone = s.cone := rfl
@[simp] theorem State.modDie_waiters (d : Nat) (f : Die → Die) : (s.modDie d f).waiters = s.waiters := rfl
@[simp] theorem State.modDie_krMap (d : Nat) (f : Die → Die) : (s.modDie d f).krMap = s.krMap := rfl
@[simp] theorem State.modDie_keys (d : Nat) (f : Die → Die) : (s.modDie d f).keys = s.keys := rfl
@[simp] theorem State.modDie_sealed (d : Nat) (f : Die → Die) : (s.modDie d f).sealed = s.sealed := rfl
@[simp] theorem State.modDie_bringup (d : Nat) (f : Die → Die) : (s.modDie d f).bringup = s.bringup := rfl
@[simp] theorem State.modDie_boot (d : Nat) (f : Die → Die) : (s.modDie d f).boot = s.boot := rfl
@[simp] theorem State.modDie_repair (d : Nat) (f : Die → Die) : (s.modDie d f).repair = s.repair := rfl
@[simp] theorem State.modDie_logRing (d : Nat) (f : Die → Die) : (s.modDie d f).logRing = s.logRing := rfl
@[simp] theorem State.modDie_sampleRing (d : Nat) (f : Die → Die) : (s.modDie d f).sampleRing = s.sampleRing := rfl
@[simp] theorem State.modDie_pulse (d : Nat) (f : Die → Die) : (s.modDie d f).pulse = s.pulse := rfl
@[simp] theorem State.modDie_peers (d : Nat) (f : Die → Die) : (s.modDie d f).peers = s.peers := rfl
@[simp] theorem State.modDie_routerDrops (d : Nat) (f : Die → Die) : (s.modDie d f).routerDrops = s.routerDrops := rfl
@[simp] theorem State.modDie_completions (d : Nat) (f : Die → Die) : (s.modDie d f).completions = s.completions := rfl
@[simp] theorem State.modDie_capFaults (d : Nat) (f : Die → Die) : (s.modDie d f).capFaults = s.capFaults := rfl
@[simp] theorem State.modDie_errs (d : Nat) (f : Die → Die) : (s.modDie d f).errs = s.errs := rfl
@[simp] theorem State.modDie_sramCe (d : Nat) (f : Die → Die) : (s.modDie d f).sramCe = s.sramCe := rfl
@[simp] theorem State.modDie_parts (d : Nat) (f : Die → Die) : (s.modDie d f).parts = s.parts := rfl
@[simp] theorem State.modDie_kept (d : Nat) (f : Die → Die) : (s.modDie d f).kept = s.kept := rfl
@[simp] theorem State.modDie_fuses (d : Nat) (f : Die → Die) : (s.modDie d f).fuses = s.fuses := rfl
@[simp] theorem State.modDie_flashChain (d : Nat) (f : Die → Die) : (s.modDie d f).flashChain = s.flashChain := rfl

@[simp] theorem State.setByte_agenda (l : Nat) (b : Byte) : (s.setByte l b).agenda = s.agenda := rfl
@[simp] theorem State.setByte_core (l : Nat) (b : Byte) : (s.setByte l b).core = s.core := rfl
@[simp] theorem State.setByte_slot (l : Nat) (b : Byte) : (s.setByte l b).slot = s.slot := rfl
@[simp] theorem State.setByte_free (l : Nat) (b : Byte) : (s.setByte l b).free = s.free := rfl
@[simp] theorem State.setByte_serial (l : Nat) (b : Byte) : (s.setByte l b).serial = s.serial := rfl
@[simp] theorem State.setByte_time (l : Nat) (b : Byte) : (s.setByte l b).time = s.time := rfl
@[simp] theorem State.setByte_lastRefill (l : Nat) (b : Byte) : (s.setByte l b).lastRefill = s.lastRefill := rfl
@[simp] theorem State.setByte_lastCredit (l : Nat) (b : Byte) : (s.setByte l b).lastCredit = s.lastCredit := rfl
@[simp] theorem State.setByte_credits (l : Nat) (b : Byte) : (s.setByte l b).credits = s.credits := rfl
@[simp] theorem State.setByte_full (l : Nat) (b : Byte) : (s.setByte l b).full = s.full := rfl
@[simp] theorem State.setByte_poison (l : Nat) (b : Byte) : (s.setByte l b).poison = s.poison := rfl
@[simp] theorem State.setByte_cores (l : Nat) (b : Byte) : (s.setByte l b).cores = s.cores := rfl
@[simp] theorem State.setByte_clusters (l : Nat) (b : Byte) : (s.setByte l b).clusters = s.clusters := rfl
@[simp] theorem State.setByte_dies (l : Nat) (b : Byte) : (s.setByte l b).dies = s.dies := rfl
@[simp] theorem State.setByte_saggars (l : Nat) (b : Byte) : (s.setByte l b).saggars = s.saggars := rfl
@[simp] theorem State.setByte_net (l : Nat) (b : Byte) : (s.setByte l b).net = s.net := rfl
@[simp] theorem State.setByte_acks (l : Nat) (b : Byte) : (s.setByte l b).acks = s.acks := rfl
@[simp] theorem State.setByte_cone (l : Nat) (b : Byte) : (s.setByte l b).cone = s.cone := rfl
@[simp] theorem State.setByte_waiters (l : Nat) (b : Byte) : (s.setByte l b).waiters = s.waiters := rfl
@[simp] theorem State.setByte_krMap (l : Nat) (b : Byte) : (s.setByte l b).krMap = s.krMap := rfl
@[simp] theorem State.setByte_keys (l : Nat) (b : Byte) : (s.setByte l b).keys = s.keys := rfl
@[simp] theorem State.setByte_sealed (l : Nat) (b : Byte) : (s.setByte l b).sealed = s.sealed := rfl
@[simp] theorem State.setByte_bringup (l : Nat) (b : Byte) : (s.setByte l b).bringup = s.bringup := rfl
@[simp] theorem State.setByte_boot (l : Nat) (b : Byte) : (s.setByte l b).boot = s.boot := rfl
@[simp] theorem State.setByte_repair (l : Nat) (b : Byte) : (s.setByte l b).repair = s.repair := rfl
@[simp] theorem State.setByte_logRing (l : Nat) (b : Byte) : (s.setByte l b).logRing = s.logRing := rfl
@[simp] theorem State.setByte_sampleRing (l : Nat) (b : Byte) : (s.setByte l b).sampleRing = s.sampleRing := rfl
@[simp] theorem State.setByte_pulse (l : Nat) (b : Byte) : (s.setByte l b).pulse = s.pulse := rfl
@[simp] theorem State.setByte_peers (l : Nat) (b : Byte) : (s.setByte l b).peers = s.peers := rfl
@[simp] theorem State.setByte_routerDrops (l : Nat) (b : Byte) : (s.setByte l b).routerDrops = s.routerDrops := rfl
@[simp] theorem State.setByte_completions (l : Nat) (b : Byte) : (s.setByte l b).completions = s.completions := rfl
@[simp] theorem State.setByte_capFaults (l : Nat) (b : Byte) : (s.setByte l b).capFaults = s.capFaults := rfl
@[simp] theorem State.setByte_errs (l : Nat) (b : Byte) : (s.setByte l b).errs = s.errs := rfl
@[simp] theorem State.setByte_sramCe (l : Nat) (b : Byte) : (s.setByte l b).sramCe = s.sramCe := rfl
@[simp] theorem State.setByte_parts (l : Nat) (b : Byte) : (s.setByte l b).parts = s.parts := rfl
@[simp] theorem State.setByte_kept (l : Nat) (b : Byte) : (s.setByte l b).kept = s.kept := rfl
@[simp] theorem State.setByte_fuses (l : Nat) (b : Byte) : (s.setByte l b).fuses = s.fuses := rfl
@[simp] theorem State.setByte_flashChain (l : Nat) (b : Byte) : (s.setByte l b).flashChain = s.flashChain := rfl

@[simp] theorem State.setFull_agenda (l : Nat) (b : Bool) : (s.setFull l b).agenda = s.agenda := rfl
@[simp] theorem State.setFull_core (l : Nat) (b : Bool) : (s.setFull l b).core = s.core := rfl
@[simp] theorem State.setFull_slot (l : Nat) (b : Bool) : (s.setFull l b).slot = s.slot := rfl
@[simp] theorem State.setFull_free (l : Nat) (b : Bool) : (s.setFull l b).free = s.free := rfl
@[simp] theorem State.setFull_serial (l : Nat) (b : Bool) : (s.setFull l b).serial = s.serial := rfl
@[simp] theorem State.setFull_time (l : Nat) (b : Bool) : (s.setFull l b).time = s.time := rfl
@[simp] theorem State.setFull_lastRefill (l : Nat) (b : Bool) : (s.setFull l b).lastRefill = s.lastRefill := rfl
@[simp] theorem State.setFull_lastCredit (l : Nat) (b : Bool) : (s.setFull l b).lastCredit = s.lastCredit := rfl
@[simp] theorem State.setFull_credits (l : Nat) (b : Bool) : (s.setFull l b).credits = s.credits := rfl
@[simp] theorem State.setFull_mem (l : Nat) (b : Bool) : (s.setFull l b).mem = s.mem := rfl
@[simp] theorem State.setFull_poison (l : Nat) (b : Bool) : (s.setFull l b).poison = s.poison := rfl
@[simp] theorem State.setFull_cores (l : Nat) (b : Bool) : (s.setFull l b).cores = s.cores := rfl
@[simp] theorem State.setFull_clusters (l : Nat) (b : Bool) : (s.setFull l b).clusters = s.clusters := rfl
@[simp] theorem State.setFull_dies (l : Nat) (b : Bool) : (s.setFull l b).dies = s.dies := rfl
@[simp] theorem State.setFull_saggars (l : Nat) (b : Bool) : (s.setFull l b).saggars = s.saggars := rfl
@[simp] theorem State.setFull_net (l : Nat) (b : Bool) : (s.setFull l b).net = s.net := rfl
@[simp] theorem State.setFull_acks (l : Nat) (b : Bool) : (s.setFull l b).acks = s.acks := rfl
@[simp] theorem State.setFull_cone (l : Nat) (b : Bool) : (s.setFull l b).cone = s.cone := rfl
@[simp] theorem State.setFull_waiters (l : Nat) (b : Bool) : (s.setFull l b).waiters = s.waiters := rfl
@[simp] theorem State.setFull_krMap (l : Nat) (b : Bool) : (s.setFull l b).krMap = s.krMap := rfl
@[simp] theorem State.setFull_keys (l : Nat) (b : Bool) : (s.setFull l b).keys = s.keys := rfl
@[simp] theorem State.setFull_sealed (l : Nat) (b : Bool) : (s.setFull l b).sealed = s.sealed := rfl
@[simp] theorem State.setFull_bringup (l : Nat) (b : Bool) : (s.setFull l b).bringup = s.bringup := rfl
@[simp] theorem State.setFull_boot (l : Nat) (b : Bool) : (s.setFull l b).boot = s.boot := rfl
@[simp] theorem State.setFull_repair (l : Nat) (b : Bool) : (s.setFull l b).repair = s.repair := rfl
@[simp] theorem State.setFull_logRing (l : Nat) (b : Bool) : (s.setFull l b).logRing = s.logRing := rfl
@[simp] theorem State.setFull_sampleRing (l : Nat) (b : Bool) : (s.setFull l b).sampleRing = s.sampleRing := rfl
@[simp] theorem State.setFull_pulse (l : Nat) (b : Bool) : (s.setFull l b).pulse = s.pulse := rfl
@[simp] theorem State.setFull_peers (l : Nat) (b : Bool) : (s.setFull l b).peers = s.peers := rfl
@[simp] theorem State.setFull_routerDrops (l : Nat) (b : Bool) : (s.setFull l b).routerDrops = s.routerDrops := rfl
@[simp] theorem State.setFull_completions (l : Nat) (b : Bool) : (s.setFull l b).completions = s.completions := rfl
@[simp] theorem State.setFull_capFaults (l : Nat) (b : Bool) : (s.setFull l b).capFaults = s.capFaults := rfl
@[simp] theorem State.setFull_errs (l : Nat) (b : Bool) : (s.setFull l b).errs = s.errs := rfl
@[simp] theorem State.setFull_sramCe (l : Nat) (b : Bool) : (s.setFull l b).sramCe = s.sramCe := rfl
@[simp] theorem State.setFull_parts (l : Nat) (b : Bool) : (s.setFull l b).parts = s.parts := rfl
@[simp] theorem State.setFull_kept (l : Nat) (b : Bool) : (s.setFull l b).kept = s.kept := rfl
@[simp] theorem State.setFull_fuses (l : Nat) (b : Bool) : (s.setFull l b).fuses = s.fuses := rfl
@[simp] theorem State.setFull_flashChain (l : Nat) (b : Bool) : (s.setFull l b).flashChain = s.flashChain := rfl

@[simp] theorem State.setPoison_agenda (l : Nat) (b : Bool) : (s.setPoison l b).agenda = s.agenda := rfl
@[simp] theorem State.setPoison_core (l : Nat) (b : Bool) : (s.setPoison l b).core = s.core := rfl
@[simp] theorem State.setPoison_slot (l : Nat) (b : Bool) : (s.setPoison l b).slot = s.slot := rfl
@[simp] theorem State.setPoison_free (l : Nat) (b : Bool) : (s.setPoison l b).free = s.free := rfl
@[simp] theorem State.setPoison_serial (l : Nat) (b : Bool) : (s.setPoison l b).serial = s.serial := rfl
@[simp] theorem State.setPoison_time (l : Nat) (b : Bool) : (s.setPoison l b).time = s.time := rfl
@[simp] theorem State.setPoison_lastRefill (l : Nat) (b : Bool) : (s.setPoison l b).lastRefill = s.lastRefill := rfl
@[simp] theorem State.setPoison_lastCredit (l : Nat) (b : Bool) : (s.setPoison l b).lastCredit = s.lastCredit := rfl
@[simp] theorem State.setPoison_credits (l : Nat) (b : Bool) : (s.setPoison l b).credits = s.credits := rfl
@[simp] theorem State.setPoison_mem (l : Nat) (b : Bool) : (s.setPoison l b).mem = s.mem := rfl
@[simp] theorem State.setPoison_full (l : Nat) (b : Bool) : (s.setPoison l b).full = s.full := rfl
@[simp] theorem State.setPoison_cores (l : Nat) (b : Bool) : (s.setPoison l b).cores = s.cores := rfl
@[simp] theorem State.setPoison_clusters (l : Nat) (b : Bool) : (s.setPoison l b).clusters = s.clusters := rfl
@[simp] theorem State.setPoison_dies (l : Nat) (b : Bool) : (s.setPoison l b).dies = s.dies := rfl
@[simp] theorem State.setPoison_saggars (l : Nat) (b : Bool) : (s.setPoison l b).saggars = s.saggars := rfl
@[simp] theorem State.setPoison_net (l : Nat) (b : Bool) : (s.setPoison l b).net = s.net := rfl
@[simp] theorem State.setPoison_acks (l : Nat) (b : Bool) : (s.setPoison l b).acks = s.acks := rfl
@[simp] theorem State.setPoison_cone (l : Nat) (b : Bool) : (s.setPoison l b).cone = s.cone := rfl
@[simp] theorem State.setPoison_waiters (l : Nat) (b : Bool) : (s.setPoison l b).waiters = s.waiters := rfl
@[simp] theorem State.setPoison_krMap (l : Nat) (b : Bool) : (s.setPoison l b).krMap = s.krMap := rfl
@[simp] theorem State.setPoison_keys (l : Nat) (b : Bool) : (s.setPoison l b).keys = s.keys := rfl
@[simp] theorem State.setPoison_sealed (l : Nat) (b : Bool) : (s.setPoison l b).sealed = s.sealed := rfl
@[simp] theorem State.setPoison_bringup (l : Nat) (b : Bool) : (s.setPoison l b).bringup = s.bringup := rfl
@[simp] theorem State.setPoison_boot (l : Nat) (b : Bool) : (s.setPoison l b).boot = s.boot := rfl
@[simp] theorem State.setPoison_repair (l : Nat) (b : Bool) : (s.setPoison l b).repair = s.repair := rfl
@[simp] theorem State.setPoison_logRing (l : Nat) (b : Bool) : (s.setPoison l b).logRing = s.logRing := rfl
@[simp] theorem State.setPoison_sampleRing (l : Nat) (b : Bool) : (s.setPoison l b).sampleRing = s.sampleRing := rfl
@[simp] theorem State.setPoison_pulse (l : Nat) (b : Bool) : (s.setPoison l b).pulse = s.pulse := rfl
@[simp] theorem State.setPoison_peers (l : Nat) (b : Bool) : (s.setPoison l b).peers = s.peers := rfl
@[simp] theorem State.setPoison_routerDrops (l : Nat) (b : Bool) : (s.setPoison l b).routerDrops = s.routerDrops := rfl
@[simp] theorem State.setPoison_completions (l : Nat) (b : Bool) : (s.setPoison l b).completions = s.completions := rfl
@[simp] theorem State.setPoison_capFaults (l : Nat) (b : Bool) : (s.setPoison l b).capFaults = s.capFaults := rfl
@[simp] theorem State.setPoison_errs (l : Nat) (b : Bool) : (s.setPoison l b).errs = s.errs := rfl
@[simp] theorem State.setPoison_sramCe (l : Nat) (b : Bool) : (s.setPoison l b).sramCe = s.sramCe := rfl
@[simp] theorem State.setPoison_parts (l : Nat) (b : Bool) : (s.setPoison l b).parts = s.parts := rfl
@[simp] theorem State.setPoison_kept (l : Nat) (b : Bool) : (s.setPoison l b).kept = s.kept := rfl
@[simp] theorem State.setPoison_fuses (l : Nat) (b : Bool) : (s.setPoison l b).fuses = s.fuses := rfl
@[simp] theorem State.setPoison_flashChain (l : Nat) (b : Bool) : (s.setPoison l b).flashChain = s.flashChain := rfl

@[simp] theorem State.clearPoison_agenda (l n : Nat) : (s.clearPoison l n).agenda = s.agenda := rfl
@[simp] theorem State.clearPoison_core (l n : Nat) : (s.clearPoison l n).core = s.core := rfl
@[simp] theorem State.clearPoison_slot (l n : Nat) : (s.clearPoison l n).slot = s.slot := rfl
@[simp] theorem State.clearPoison_free (l n : Nat) : (s.clearPoison l n).free = s.free := rfl
@[simp] theorem State.clearPoison_serial (l n : Nat) : (s.clearPoison l n).serial = s.serial := rfl
@[simp] theorem State.clearPoison_time (l n : Nat) : (s.clearPoison l n).time = s.time := rfl
@[simp] theorem State.clearPoison_lastRefill (l n : Nat) : (s.clearPoison l n).lastRefill = s.lastRefill := rfl
@[simp] theorem State.clearPoison_lastCredit (l n : Nat) : (s.clearPoison l n).lastCredit = s.lastCredit := rfl
@[simp] theorem State.clearPoison_credits (l n : Nat) : (s.clearPoison l n).credits = s.credits := rfl
@[simp] theorem State.clearPoison_mem (l n : Nat) : (s.clearPoison l n).mem = s.mem := rfl
@[simp] theorem State.clearPoison_full (l n : Nat) : (s.clearPoison l n).full = s.full := rfl
@[simp] theorem State.clearPoison_cores (l n : Nat) : (s.clearPoison l n).cores = s.cores := rfl
@[simp] theorem State.clearPoison_clusters (l n : Nat) : (s.clearPoison l n).clusters = s.clusters := rfl
@[simp] theorem State.clearPoison_dies (l n : Nat) : (s.clearPoison l n).dies = s.dies := rfl
@[simp] theorem State.clearPoison_saggars (l n : Nat) : (s.clearPoison l n).saggars = s.saggars := rfl
@[simp] theorem State.clearPoison_net (l n : Nat) : (s.clearPoison l n).net = s.net := rfl
@[simp] theorem State.clearPoison_acks (l n : Nat) : (s.clearPoison l n).acks = s.acks := rfl
@[simp] theorem State.clearPoison_cone (l n : Nat) : (s.clearPoison l n).cone = s.cone := rfl
@[simp] theorem State.clearPoison_waiters (l n : Nat) : (s.clearPoison l n).waiters = s.waiters := rfl
@[simp] theorem State.clearPoison_krMap (l n : Nat) : (s.clearPoison l n).krMap = s.krMap := rfl
@[simp] theorem State.clearPoison_keys (l n : Nat) : (s.clearPoison l n).keys = s.keys := rfl
@[simp] theorem State.clearPoison_sealed (l n : Nat) : (s.clearPoison l n).sealed = s.sealed := rfl
@[simp] theorem State.clearPoison_bringup (l n : Nat) : (s.clearPoison l n).bringup = s.bringup := rfl
@[simp] theorem State.clearPoison_boot (l n : Nat) : (s.clearPoison l n).boot = s.boot := rfl
@[simp] theorem State.clearPoison_repair (l n : Nat) : (s.clearPoison l n).repair = s.repair := rfl
@[simp] theorem State.clearPoison_logRing (l n : Nat) : (s.clearPoison l n).logRing = s.logRing := rfl
@[simp] theorem State.clearPoison_sampleRing (l n : Nat) : (s.clearPoison l n).sampleRing = s.sampleRing := rfl
@[simp] theorem State.clearPoison_pulse (l n : Nat) : (s.clearPoison l n).pulse = s.pulse := rfl
@[simp] theorem State.clearPoison_peers (l n : Nat) : (s.clearPoison l n).peers = s.peers := rfl
@[simp] theorem State.clearPoison_routerDrops (l n : Nat) : (s.clearPoison l n).routerDrops = s.routerDrops := rfl
@[simp] theorem State.clearPoison_completions (l n : Nat) : (s.clearPoison l n).completions = s.completions := rfl
@[simp] theorem State.clearPoison_capFaults (l n : Nat) : (s.clearPoison l n).capFaults = s.capFaults := rfl
@[simp] theorem State.clearPoison_sramCe (l n : Nat) : (s.clearPoison l n).sramCe = s.sramCe := rfl
@[simp] theorem State.clearPoison_parts (l n : Nat) : (s.clearPoison l n).parts = s.parts := rfl
@[simp] theorem State.clearPoison_kept (l n : Nat) : (s.clearPoison l n).kept = s.kept := rfl
@[simp] theorem State.clearPoison_fuses (l n : Nat) : (s.clearPoison l n).fuses = s.fuses := rfl
@[simp] theorem State.clearPoison_flashChain (l n : Nat) : (s.clearPoison l n).flashChain = s.flashChain := rfl

/-! Strands. -/

@[simp] theorem State.coreAt_modCore (c : Nat) (f : Core → Core) : (s.modCore c f).coreAt c = f (s.coreAt c) := Tbl.get_upd_same ..

theorem State.coreAt_modCore_other (c c' : Nat) (f : Core → Core) (h : c' ≠ c) : (s.modCore c f).coreAt c' = s.coreAt c' :=
  Tbl.get_upd_other _ _ _ _ _ h

@[simp] theorem State.strandAt_modStrand (c k : Nat) (f : Strand → Strand) : (s.modStrand c k f).strandAt c k = f (s.strandAt c k) := by
  simp [State.strandAt, State.modStrand, Core.slotAt, Tbl.get_upd_same]

theorem State.strandAt_modStrand_slot (c k k' : Nat) (f : Strand → Strand) (h : k' ≠ k) : (s.modStrand c k f).strandAt c k' = s.strandAt c k' := by
  simp [State.strandAt, State.modStrand, Core.slotAt, Tbl.get_upd_other _ _ _ _ _ h]

theorem State.strandAt_modStrand_core (c c' k k' : Nat) (f : Strand → Strand) (h : c' ≠ c) : (s.modStrand c k f).strandAt c' k' = s.strandAt c' k' := by
  simp [State.strandAt, State.modStrand, State.coreAt_modCore_other _ _ _ _ h]

/-- Two changes of one slot are one. -/
theorem State.modStrand_modStrand (c k : Nat) (f g : Strand → Strand) : (s.modStrand c k f).modStrand c k g = s.modStrand c k (fun m => g (f m)) := by
  simp [State.modStrand, State.modCore, Tbl.upd_upd]

@[simp] theorem State.me_modMe (f : Strand → Strand) : (s.modMe f).me = f s.me := s.strandAt_modStrand s.core s.slot f

/-- Two changes of the strand in focus are one. -/
theorem State.modMe_modMe (f g : Strand → Strand) : (s.modMe f).modMe g = s.modMe (fun m => g (f m)) := s.modStrand_modStrand s.core s.slot f g

/-- Two changes that agree on the strand in focus are one. -/
theorem State.modMe_congr (f g : Strand → Strand) (h : f s.me = g s.me) : s.modMe f = s.modMe g := by
  have h' : f (Tbl.get (Tbl.get s.cores s.core Core.init).slots s.slot Strand.empty) = g (Tbl.get (Tbl.get s.cores s.core Core.init).slots s.slot Strand.empty) := h
  simp only [State.modMe, State.modStrand, State.modCore, Tbl.upd, h']

@[simp] theorem State.myCore_modMyCore (f : Core → Core) : (s.modMyCore f).myCore = f s.myCore := s.coreAt_modCore s.core f

@[simp] theorem State.clusterAt_modCluster (c : Nat) (f : Cluster → Cluster) : (s.modCluster c f).clusterAt c = f (s.clusterAt c) := Tbl.get_upd_same ..

@[simp] theorem State.dieAt_modDie (d : Nat) (f : Die → Die) : (s.modDie d f).dieAt d = f (s.dieAt d) := Tbl.get_upd_same ..

/-! Changing a saggar changes the saggars alone. -/

/-- A change of a saggar as an update of one field. -/
theorem State.modSag_eq (g : Nat) (f : Saggar → Saggar) : s.modSag g f = { s with saggars := (s.modSag g f).saggars } := by
  unfold State.modSag; split <;> rfl

@[simp] theorem State.modSag_agenda (g : Nat) (f : Saggar → Saggar) : (s.modSag g f).agenda = s.agenda := by unfold State.modSag; split <;> rfl
@[simp] theorem State.modSag_core (g : Nat) (f : Saggar → Saggar) : (s.modSag g f).core = s.core := by unfold State.modSag; split <;> rfl
@[simp] theorem State.modSag_slot (g : Nat) (f : Saggar → Saggar) : (s.modSag g f).slot = s.slot := by unfold State.modSag; split <;> rfl
@[simp] theorem State.modSag_free (g : Nat) (f : Saggar → Saggar) : (s.modSag g f).free = s.free := by unfold State.modSag; split <;> rfl
@[simp] theorem State.modSag_serial (g : Nat) (f : Saggar → Saggar) : (s.modSag g f).serial = s.serial := by unfold State.modSag; split <;> rfl
@[simp] theorem State.modSag_time (g : Nat) (f : Saggar → Saggar) : (s.modSag g f).time = s.time := by unfold State.modSag; split <;> rfl
@[simp] theorem State.modSag_lastRefill (g : Nat) (f : Saggar → Saggar) : (s.modSag g f).lastRefill = s.lastRefill := by unfold State.modSag; split <;> rfl
@[simp] theorem State.modSag_lastCredit (g : Nat) (f : Saggar → Saggar) : (s.modSag g f).lastCredit = s.lastCredit := by unfold State.modSag; split <;> rfl
@[simp] theorem State.modSag_credits (g : Nat) (f : Saggar → Saggar) : (s.modSag g f).credits = s.credits := by unfold State.modSag; split <;> rfl
@[simp] theorem State.modSag_mem (g : Nat) (f : Saggar → Saggar) : (s.modSag g f).mem = s.mem := by unfold State.modSag; split <;> rfl
@[simp] theorem State.modSag_full (g : Nat) (f : Saggar → Saggar) : (s.modSag g f).full = s.full := by unfold State.modSag; split <;> rfl
@[simp] theorem State.modSag_poison (g : Nat) (f : Saggar → Saggar) : (s.modSag g f).poison = s.poison := by unfold State.modSag; split <;> rfl
@[simp] theorem State.modSag_cores (g : Nat) (f : Saggar → Saggar) : (s.modSag g f).cores = s.cores := by unfold State.modSag; split <;> rfl
@[simp] theorem State.modSag_clusters (g : Nat) (f : Saggar → Saggar) : (s.modSag g f).clusters = s.clusters := by unfold State.modSag; split <;> rfl
@[simp] theorem State.modSag_dies (g : Nat) (f : Saggar → Saggar) : (s.modSag g f).dies = s.dies := by unfold State.modSag; split <;> rfl
@[simp] theorem State.modSag_net (g : Nat) (f : Saggar → Saggar) : (s.modSag g f).net = s.net := by unfold State.modSag; split <;> rfl
@[simp] theorem State.modSag_acks (g : Nat) (f : Saggar → Saggar) : (s.modSag g f).acks = s.acks := by unfold State.modSag; split <;> rfl
@[simp] theorem State.modSag_cone (g : Nat) (f : Saggar → Saggar) : (s.modSag g f).cone = s.cone := by unfold State.modSag; split <;> rfl
@[simp] theorem State.modSag_waiters (g : Nat) (f : Saggar → Saggar) : (s.modSag g f).waiters = s.waiters := by unfold State.modSag; split <;> rfl
@[simp] theorem State.modSag_krMap (g : Nat) (f : Saggar → Saggar) : (s.modSag g f).krMap = s.krMap := by unfold State.modSag; split <;> rfl
@[simp] theorem State.modSag_keys (g : Nat) (f : Saggar → Saggar) : (s.modSag g f).keys = s.keys := by unfold State.modSag; split <;> rfl
@[simp] theorem State.modSag_sealed (g : Nat) (f : Saggar → Saggar) : (s.modSag g f).sealed = s.sealed := by unfold State.modSag; split <;> rfl
@[simp] theorem State.modSag_bringup (g : Nat) (f : Saggar → Saggar) : (s.modSag g f).bringup = s.bringup := by unfold State.modSag; split <;> rfl
@[simp] theorem State.modSag_boot (g : Nat) (f : Saggar → Saggar) : (s.modSag g f).boot = s.boot := by unfold State.modSag; split <;> rfl
@[simp] theorem State.modSag_repair (g : Nat) (f : Saggar → Saggar) : (s.modSag g f).repair = s.repair := by unfold State.modSag; split <;> rfl
@[simp] theorem State.modSag_logRing (g : Nat) (f : Saggar → Saggar) : (s.modSag g f).logRing = s.logRing := by unfold State.modSag; split <;> rfl
@[simp] theorem State.modSag_sampleRing (g : Nat) (f : Saggar → Saggar) : (s.modSag g f).sampleRing = s.sampleRing := by unfold State.modSag; split <;> rfl
@[simp] theorem State.modSag_pulse (g : Nat) (f : Saggar → Saggar) : (s.modSag g f).pulse = s.pulse := by unfold State.modSag; split <;> rfl
@[simp] theorem State.modSag_peers (g : Nat) (f : Saggar → Saggar) : (s.modSag g f).peers = s.peers := by unfold State.modSag; split <;> rfl
@[simp] theorem State.modSag_routerDrops (g : Nat) (f : Saggar → Saggar) : (s.modSag g f).routerDrops = s.routerDrops := by unfold State.modSag; split <;> rfl
@[simp] theorem State.modSag_completions (g : Nat) (f : Saggar → Saggar) : (s.modSag g f).completions = s.completions := by unfold State.modSag; split <;> rfl
@[simp] theorem State.modSag_capFaults (g : Nat) (f : Saggar → Saggar) : (s.modSag g f).capFaults = s.capFaults := by unfold State.modSag; split <;> rfl
@[simp] theorem State.modSag_errs (g : Nat) (f : Saggar → Saggar) : (s.modSag g f).errs = s.errs := by unfold State.modSag; split <;> rfl
@[simp] theorem State.modSag_sramCe (g : Nat) (f : Saggar → Saggar) : (s.modSag g f).sramCe = s.sramCe := by unfold State.modSag; split <;> rfl
@[simp] theorem State.modSag_parts (g : Nat) (f : Saggar → Saggar) : (s.modSag g f).parts = s.parts := by unfold State.modSag; split <;> rfl

end Sys2Proof.Machine
end

