-- ==== Sys2Proof/Laws/Memory.lean ====
section
/-! SUPPORT. The basic laws of memory: a read after a write, and the canonical form kept by every operation on memory. -/

namespace Sys2Proof.Machine

variable {s : State}

theorem byte_setByte_other (l a : Nat) (b : Byte) (h : a ≠ l) : (s.setByte l b).byte a = s.byte a := Tbl.get_set_other _ _ _ _ _ h

theorem byte_setByte_same (l : Nat) (b : Byte) (h : s.Canonical) : (s.setByte l b).byte l = b := by
  have := h.1
  simp only [Memory.wf, Tbl.wf, Bool.and_eq_true] at this
  exact Tbl.get_set_same _ _ _ _ this.1

/-- What keeps memory, full bits and poison bits keeps their form. -/
theorem Canonical.of_eq {t : State} (h : s.Canonical) (hm : t.mem = s.mem) (hf : t.full = s.full) (hp : t.poison = s.poison) : t.Canonical := by
  unfold State.Canonical at *; rw [hm, hf, hp]; exact h

theorem canonical_setByte (l : Nat) (b : Byte) (h : s.Canonical) : (s.setByte l b).Canonical := ⟨Tbl.wf_set _ _ _ _ h.1, h.2⟩

theorem canonical_setBytes (l : Nat) (bs : List Byte) (h : s.Canonical) : (s.setBytes l bs).Canonical := by
  induction bs generalizing s l with
  | nil => exact h
  | cons b t ih => exact ih _ (canonical_setByte _ _ h)

theorem canonical_setFull (l : Nat) (f : Bool) (h : s.Canonical) : (s.setFull l f).Canonical := by
  refine ⟨h.1, ?_, h.2.2⟩
  cases f
  · exact Tbl.sortedFrom_del _ _ _ h.2.1
  · exact Tbl.sortedFrom_put _ _ _ _ (Nat.zero_le _) h.2.1

theorem canonical_setPoison (l : Nat) (p : Bool) (h : s.Canonical) : (s.setPoison l p).Canonical := by
  refine ⟨h.1, h.2.1, ?_⟩
  cases p
  · exact Tbl.sortedFrom_del _ _ _ h.2.2
  · exact Tbl.sortedFrom_put _ _ _ _ (Nat.zero_le _) h.2.2

theorem canonical_clearPoison (l n : Nat) (h : s.Canonical) : (s.clearPoison l n).Canonical :=
  ⟨h.1, h.2.1, Tbl.sortedFrom_filter _ _ _ h.2.2⟩

/-- A store of several bytes leaves every location outside them as it was. -/
theorem byte_setBytes_other (l a : Nat) (bs : List Byte) (h : a < l ∨ l + bs.length ≤ a) : (s.setBytes l bs).byte a = s.byte a := by
  induction bs generalizing s l with
  | nil => rfl
  | cons b t ih =>
    simp only [List.length_cons] at h
    rw [State.setBytes, ih _ (by omega), byte_setByte_other _ _ _ (by omega)]

theorem sortedFrom_moveKeys {α : Type} (t : List (Nat × α)) (lo n dst : Nat) (h : Tbl.sortedFrom 0 t = true) : Tbl.sortedFrom 0 (moveKeys t lo n dst) = true := by
  unfold moveKeys
  have go (l acc : List (Nat × α)) (ha : Tbl.sortedFrom 0 acc = true) : Tbl.sortedFrom 0 (l.foldl (fun t e => Tbl.put t (e.1 - lo + dst) e.2) acc) = true := by
    induction l generalizing acc with
    | nil => exact ha
    | cons e l ih => exact ih _ (Tbl.sortedFrom_put _ _ _ _ (Nat.zero_le _) ha)
  exact go _ _ (Tbl.sortedFrom_filter _ _ _ h)

theorem wf_moveKeys {α : Type} [DecidableEq α] (d : α) (t : List (Nat × α)) (lo n dst : Nat) (h : Tbl.wf d t = true) : Tbl.wf d (moveKeys t lo n dst) = true := by
  unfold moveKeys
  have go (l acc : List (Nat × α)) (ha : Tbl.wf d acc = true) (hl : ∀ e ∈ l, e.2 ≠ d) :
      Tbl.wf d (l.foldl (fun t e => Tbl.put t (e.1 - lo + dst) e.2) acc) = true := by
    induction l generalizing acc with
    | nil => exact ha
    | cons e l ih =>
      have := Tbl.wf_set d acc (e.1 - lo + dst) e.2 ha
      rw [Tbl.set, if_neg (hl e (by simp))] at this
      exact ih _ this (fun x hx => hl x (by simp [hx]))
  refine go _ _ (Tbl.wf_filter _ _ _ h) (fun e he => ?_)
  simp only [Tbl.wf, Bool.and_eq_true, List.all_eq_true, decide_eq_true_eq] at h
  exact h.2 e (List.mem_filter.1 he).1

/-- Counting an error leaves memory as it is. -/
theorem canonical_bumpUnit (l : Nat) (f : Repair → Repair) (h : s.Canonical) : (s.bumpUnit l f).Canonical := by
  unfold State.bumpUnit
  split <;> exact h

/-- A read that meets an error keeps the form. -/
theorem canonical_meetWord (l : Nat) (h : s.Canonical) : (s.meetWord l).Canonical := by
  unfold State.meetWord
  split
  · have h' : ({ s with errs := Tbl.del s.errs (poisonWord l) } : State).Canonical := h
    dsimp only
    split
    · exact canonical_bumpUnit _ _ (canonical_setPoison _ _ h')
    · split
      · exact canonical_bumpUnit _ _ h'
      · exact h
  · exact h

/-- An error that arises leaves memory as it is. -/
theorem canonical_upset (l : Nat) (d : Bool) (h : s.Canonical) : (s.upset l d).Canonical := by
  unfold State.upset
  split <;> exact h

/-- A read of many bytes that meets their errors keeps the form. -/
theorem canonical_meet (l n : Nat) (h : s.Canonical) : (s.meet l n).Canonical := by
  have go (is : List Nat) (s : State) (h : s.Canonical) : (is.foldl (fun (t : State) i => t.meetWord (l + i)) s).Canonical := by
    induction is generalizing s with
    | nil => exact h
    | cons i t ih => exact ih _ (canonical_meetWord _ h)
  unfold State.meet
  split
  · exact h
  · exact go _ _ h

/-- An atom that comes under a key keeps the form. -/
theorem canonical_sealAtom (k : BitVec 512) (w : Bool) (a : Nat) (h : s.Canonical) : (s.sealAtom k w a).Canonical := by
  unfold State.sealAtom
  split
  · split
    · exact h
    · exact Canonical.of_eq (canonical_setBytes _ _ h) rfl rfl rfl
  · split <;> exact h

/-- An access with a key keeps the form. -/
theorem canonical_underKey (kd : Acc) (l n id : Nat) (h : s.Canonical) : (s.underKey kd l n id).Canonical := by
  have go (k : BitVec 512) (js : List Nat) (s : State) (h : s.Canonical) : (js.foldl (fun (s : State) j => s.sealAtom k kd.writes (l / 32 + j)) s).Canonical := by
    induction js generalizing s with
    | nil => exact h
    | cons j t ih => exact ih _ (canonical_sealAtom _ _ _ h)
  unfold State.underKey
  split
  · exact h
  · split
    · exact go _ _ _ h
    · exact h

/-- Atoms that come under a key keep the form. -/
theorem canonical_viewUnder (l n id : Nat) (h : s.Canonical) : (s.viewUnder l n id).Canonical := by
  have go (k : BitVec 512) (es : List (Nat × BitVec 512)) (s : State) (h : s.Canonical) : (es.foldl (fun (s : State) e => s.sealAtom k false e.1) s).Canonical := by
    induction es generalizing s with
    | nil => exact h
    | cons e t ih => exact ih _ (canonical_sealAtom _ _ _ h)
  unfold State.viewUnder
  split
  · exact go _ _ _ h
  · exact h

/-- Bytes hold a number below 256 to the power of their count. -/
theorem ofBytes_lt : ∀ bs : List Byte, ofBytes bs < 256 ^ bs.length
  | [] => by simp [ofBytes]
  | b :: t => by
    have := ofBytes_lt t
    have := b.isLt
    simp only [ofBytes, List.length_cons, Nat.pow_succ]
    omega

/-- A number is what its bytes hold. -/
theorem ofBytes_toBytes : ∀ (n v : Nat), v < 256 ^ n → ofBytes (toBytes n v) = v
  | 0, v, h => by simp only [Nat.pow_zero] at h; simp only [toBytes, ofBytes]; omega
  | n + 1, v, h => by
    rw [toBytes, ofBytes, ofBytes_toBytes n (v / 256) (by rw [Nat.pow_succ] at h; omega)]
    simp only [BitVec.toNat_ofNat]
    omega

/-- Bytes are those of the number they hold. -/
theorem toBytes_ofBytes : ∀ bs : List Byte, toBytes bs.length (ofBytes bs) = bs
  | [] => rfl
  | b :: t => by
    have h := b.isLt
    rw [List.length_cons, ofBytes, toBytes, show (b.toNat + 256 * ofBytes t) / 256 = ofBytes t by omega, toBytes_ofBytes t]
    congr 1
    apply BitVec.eq_of_toNat_eq
    simp only [BitVec.toNat_ofNat]
    omega

/-- Counting a dropped write leaves memory as it is. -/
theorem canonical_countDrop (l : Nat) (h : s.Canonical) : (s.countDrop l).Canonical := h

theorem canonical_setDword (l : Nat) (v : Word) (h : s.Canonical) : (s.setDword l v).Canonical := canonical_setBytes _ _ h

theorem canonical_voidWord (l : Nat) (h : s.Canonical) : (s.voidWord l).Canonical := by
  have h1 := canonical_setDword l 0 h
  have h2 := canonical_setPoison l true h1
  exact canonical_setFull l false h2

/-- Words that become poisoned keep the form. -/
theorem canonical_voidWords (b : Nat) (is : List Nat) : ∀ {s : State}, s.Canonical → (is.foldl (fun (s : State) i => s.voidWord (b + 8 * i)) s).Canonical := by
  induction is with
  | nil => exact fun h => h
  | cons i t ih =>
    intro s h
    have h1 := canonical_voidWord (b + 8 * i) h
    rw [List.foldl_cons]
    exact ih h1

/-- An atom of a copy on fenced pseudo-channels keeps the form. -/
theorem canonical_copyFenced (old : State) (lo dst j : Nat) (h : s.Canonical) : (old.copyFenced lo dst s j).Canonical := by
  have drop (b : Nat) (bs : List Byte) : ((s.setBytes b bs).countDrop b).Canonical := canonical_countDrop b (canonical_setBytes b bs h)
  unfold State.copyFenced
  dsimp only
  split
  · exact drop _ _
  · split
    · exact canonical_voidWords _ _ h
    · exact h

/-- A copy of a frame keeps the form. -/
theorem canonical_copyFrame (lo n dst id : Nat) (h : s.Canonical) : (s.copyFrame lo n dst id).Canonical := by
  have go (l : List (Nat × Bool)) (s : State) (h : s.Canonical) : (l.foldl (fun (s : State) e => s.meetWord e.1) s).Canonical := by
    induction l generalizing s with
    | nil => exact h
    | cons e t ih => exact ih _ (canonical_meetWord _ h)
  have atoms (old : State) (js : List Nat) (s : State) (h : s.Canonical) : (js.foldl (old.copyFenced lo dst) s).Canonical := by
    induction js generalizing s with
    | nil => exact h
    | cons j t ih => exact ih _ (canonical_copyFenced _ _ _ _ h)
  have h := go ((s.viewUnder lo n id).errs.filter (fun e => decide (lo ≤ e.1) && decide (e.1 < lo + n))) _ (canonical_viewUnder lo n id h)
  have m := And.intro (wf_moveKeys _ _ lo n dst h.1) (And.intro (sortedFrom_moveKeys _ lo n dst h.2.1) (sortedFrom_moveKeys _ lo n dst h.2.2))
  unfold State.copyFrame
  dsimp only
  split
  · exact m
  · exact atoms _ _ _ m

/-- A device reset keeps the form: what lies outside the device stays as it is. -/
theorem canonical_deviceReset (h : s.Canonical) : ∃ t, execDeviceReset s = .next t ∧ t.Canonical := ⟨_, rfl, Tbl.wf_filter _ _ _ h.1, rfl, rfl⟩

/-- Memory has the form at reset. -/
theorem wf_reset : Memory.wf State.reset.mem = true := rfl

end Sys2Proof.Machine
end

