-- ==== Sys2Proof/Laws/Operands.lean ====
section
/-! SUPPORT. What the shared operations on operands come to: a source that may be read, a destination with room, an instruction that ends. -/

namespace Sys2Proof.Machine

variable {s : State}

/-- Two changes of a queue that agree on it are one. -/
theorem modQueue_congr (q : Nat) (f g : Queue → Queue) (h : f (s.myCore.queue q) = g (s.myCore.queue q)) :
    s.modMyCore (fun c => c.modQueue q f) = s.modMyCore (fun c => c.modQueue q g) := by
  have h' : f (Tbl.get (s.coreAt s.core).queues q ⟨[], none, [], [], []⟩) = g (Tbl.get (s.coreAt s.core).queues q ⟨[], none, [], [], []⟩) := h
  simp [State.modMyCore, State.modCore, Core.modQueue, Tbl.upd, h', State.coreAt] at *

/-- A change of a queue leaves the strand in focus. -/
theorem me_modMyCore_queue (q : Nat) (f : Queue → Queue) : (s.modMyCore (fun c => c.modQueue q f)).me = s.me := by
  simp [State.me, State.strandAt, State.modMyCore, Core.modQueue, Core.slotAt]

/-- A source that may be read is read, in one step. -/
theorem readSrc_of_src (j : Nat) (c : Code) (y : Bool) (k : Word → State → Out) (v : Word)
    (hj : s.me.reads.length = j) (hy : srcOk y c = true) (h : s.src c = some v) : readSrc j c y s k = k v (s.took c y v) := by
  have hn : s.me.reads[j]? = none := by simp [hj]
  simp only [readSrc, hn]
  simp only [State.src] at h
  simp only [State.took]
  by_cases h1 : c.toNat < 32
  · have h2 : c.toNat < 48 := by omega
    by_cases hf : s.me.sFull.getLsbD c.toNat = true
    · simp only [h1, hf, if_true, Option.some.injEq] at h
      subst h
      cases y <;> simp [h1, h2, hf]
    · rw [if_pos h1, if_neg hf] at h; cases h
  · by_cases h2 : c.toNat < 40
    · have h3 : c.toNat < 48 := by omega
      by_cases hf : (s.strandAt s.core ((s.slot + 15) % 16)).woFull.getLsbD (c.toNat - 32) = true
      · simp only [h1, h2, hf, if_true, if_false, Option.some.injEq] at h
        subst h
        cases y <;> simp [h1, h2, h3, hf, State.pushRead]
      · rw [if_neg h1, if_pos h2, if_neg hf] at h; cases h
    · by_cases h3 : c.toNat < 48
      · by_cases hf : s.me.woFull.getLsbD (c.toNat - 40) = true
        · simp only [h1, h2, h3, hf, if_true, if_false, Option.some.injEq] at h
          subst h
          cases y <;> simp [h1, h2, h3, hf]
        · rw [if_neg h1, if_neg h2, if_pos h3, if_neg hf] at h; cases h
      · by_cases h4 : c.toNat < 56
        · simp only [h1, h2, h3, h4, if_true, if_false] at h ⊢
          split at h
          · rename_i hq
            simp only [Bool.and_eq_true] at hq
            cases he : (s.myCore.queue (c.toNat - 48)).entries with
            | nil => simp [he] at h
            | cons e t =>
              simp only [he, List.head?_cons, Option.map_some, Option.some.injEq] at h
              subst h
              simp only [hq.1, Bool.not_true, Bool.false_eq_true, if_false, hq.2, if_true]
              rw [modQueue_congr (c.toNat - 48) (g := fun x => { x with
                entries := x.entries.drop 1, poppers := x.poppers.filter (· != s.slot), marks := x.marks.drop 1 })]
              · cases (s.myCore.queue (c.toNat - 48)).marks.headD false <;> simp [me_modMyCore_queue]
              · simp [he]
          · exact absurd h (by simp)
        · simp only [h1, h2, h3, h4, if_false, Option.some.injEq] at h ⊢
          subst h; rfl

/-- A destination with room does not hold an instruction back. -/
theorem withDst_of_room (d : Code) (k : State → Out) (h : s.room d = true) : withDst d s k = k s := by
  simp only [withDst, State.room] at *
  split
  · rfl
  · by_cases h1 : d.toNat < 32
    · simp only [h1, if_true, Bool.not_eq_true'] at h
      simp [h1, h]; omega
    · by_cases h2 : d.toNat < 40
      · simp [h1, h2] at h
      · by_cases h3 : d.toNat < 48
        · have : ¬ 48 ≤ d.toNat := by omega
          simp [h1, this]
        · by_cases h4 : d.toNat < 56
          · simp only [h1, h2, h3, h4, if_true, if_false, Bool.and_eq_true] at h
            simp [h1, h.1.1]
          · simp [h1, h4]

/-- A destination with room takes its value at once. -/
theorem deliverTo_of_room (d : Code) (v : Word) (k : State → Out) (h : s.room d = true) : deliverTo d.toNat v s k = k (s.put d v) := by
  simp only [deliverTo, writeDst, State.room, State.put] at *
  by_cases h1 : d.toNat < 32
  · simp [h1]
  · by_cases h2 : d.toNat < 40
    · simp [h1, h2] at h
    · by_cases h3 : d.toNat < 48
      · simp only [h1, h2, h3, if_true, if_false, Bool.not_eq_true'] at h
        simp [h1, h3, h]
      · by_cases h4 : d.toNat < 56
        · simp only [h1, h2, h3, h4, if_true, if_false, Bool.and_eq_true, decide_eq_true_eq] at h
          have h5 : ((s.myCore.queue (d.toNat - 48)).entries.length < Config.queueDepth ∧
              ((s.myCore.queue (d.toNat - 48)).pushers.isEmpty || (s.myCore.queue (d.toNat - 48)).pushers.head? == some s.slot) = true) := ⟨h.1.2, h.2⟩
          simp only [h1, h3, h4, if_true, if_false, h5.1, h5.2, decide_true, Bool.and_true]
        · simp [h1, h3, h4]

/-- With no hardware loop to end, an instruction that completes goes on at the next address. -/
theorem completeTo_of_noLoop (next : Word) (fell : Bool) (h : s.NoLoop) : completeTo next fell s = .next (s.goes next) := by
  have e1 : s.me.retire.inTrap = s.me.inTrap := rfl
  have e2 : s.me.retire.innermost = s.me.innermost := rfl
  simp only [completeTo, e1]
  split
  · simp [State.goes, State.modMe_modMe]
  · rename_i ht
    have hl : s.me.innermost = none := h.resolve_left ht
    simp only [loopEnd, e2, hl, State.modMe_modMe, State.goes]
    exact congrArg _ (State.modMe_congr _ _ _ rfl)

theorem complete_of_noLoop (i : Instr) (hc : s.me.cur = some i) (h : s.NoLoop) : complete s = .next (s.past i) := by
  simp only [complete, hc, completeTo_of_noLoop _ _ h, State.goes, State.past]
  exact congrArg _ (State.modMe_congr _ _ _ rfl)

/-! What reading and writing operands leave of the strand in focus. -/

/-- The parts of a strand that reading sources and writing destinations never touch: all but the registers, the reads and the poison count of ST. -/
def Strand.rest (m : Strand) : Strand := { m with s := [], sFull := 0, wo := [], woFull := 0, reads := [], st := withBits m.st 32 16 0 }

/-- Writing ST.POIS leaves the other bits of ST. -/
theorem withBits_pois (w : Word) (x : Nat) : withBits (withBits w 32 16 x) 32 16 0 = withBits w 32 16 0 := by
  have h := w.isLt
  apply BitVec.eq_of_toNat_eq
  simp only [withBits, BitVec.toNat_ofNat]
  omega

/-- Counting poison leaves the rest of the strand in focus. -/
theorem countPoison_frame (sag : Nat) : (s.countPoison s.core s.slot sag).me.rest = s.me.rest ∧ (s.countPoison s.core s.slot sag).core = s.core ∧
    (s.countPoison s.core s.slot sag).slot = s.slot ∧ (s.countPoison s.core s.slot sag).me.reads = s.me.reads := by
  have e : ∀ t : State, (t.count sag (fun x => { x with poisoned := sat1 x.poisoned })).cores = t.cores ∧
      (t.count sag (fun x => { x with poisoned := sat1 x.poisoned })).core = t.core ∧
      (t.count sag (fun x => { x with poisoned := sat1 x.poisoned })).slot = t.slot := by
    intro t; unfold State.count State.modSag; split <;> exact ⟨rfl, rfl, rfl⟩
  have me : (s.countPoison s.core s.slot sag).me = (s.modMe (fun m => { m with st := withBits m.st 32 16 (min (bitsOf m.st 32 16 + 1) 65535) })).me := by
    simp only [State.countPoison, State.me, State.strandAt, State.coreAt, (e _).1, (e _).2.1, (e _).2.2]; rfl
  refine ⟨?_, (e _).2.1, (e _).2.2, ?_⟩
  · rw [me]; simp [Strand.rest, withBits_pois]
  · rw [me]; simp

theorem left_ne (_h : s.slot < 16) : (s.slot + 15) % 16 ≠ s.slot := by omega

theorem me_modStrand_other (k : Nat) (f : Strand → Strand) (h : k ≠ s.slot) : (s.modStrand s.core k f).me = s.me :=
  s.strandAt_modStrand_slot s.core k s.slot f (Ne.symm h)

theorem took_frame (c : Code) (y : Bool) (v : Word) (h : s.slot < 16) :
    (s.took c y v).me.rest = s.me.rest ∧ (s.took c y v).core = s.core ∧ (s.took c y v).slot = s.slot ∧
    (s.took c y v).me.reads.length = s.me.reads.length + 1 := by
  simp only [State.took]
  split
  · cases y
    · simp [State.pushRead, Strand.rest]
    · simp only [Bool.not_true, Bool.false_eq_true, if_false, if_true]
      split
      · simp [State.pushRead, Strand.rest, Strand.emptyS]
      · split
        · have hl : (s.slot + 15) % 16 ≠ s.slot := left_ne h
          rw [me_modStrand_other _ _ (by simpa [State.pushRead] using hl)]
          simp [State.pushRead, Strand.rest]
        · simp [State.pushRead, Strand.rest, Strand.markWo]
  · split
    · have h0 := fun (k : Code) (r : Read) (f : Queue → Queue) => countPoison_frame (s := (s.modMyCore (fun c => c.modQueue (k.toNat - 48) f)).pushRead r) s.me.sag
      split
      · obtain ⟨e1, e2, e3, e4⟩ := h0 c ⟨v, .head (c.toNat - 48) ((s.myCore.queue (c.toNat - 48)).marks.headD false)⟩
          (fun x => { x with entries := x.entries.drop 1, poppers := x.poppers.filter (· != s.slot), marks := x.marks.drop 1 })
        refine ⟨e1.trans ?_, e2, e3, ?_⟩
        · simp [State.pushRead, Strand.rest, me_modMyCore_queue]
        · refine (congrArg List.length e4).trans ?_
          simp [State.pushRead, me_modMyCore_queue]
      · simp [State.pushRead, Strand.rest, me_modMyCore_queue]
    · simp [State.pushRead, Strand.rest]

/-! The checks of R77, and whole instructions. -/

/-- An instruction past its first stage has been checked. -/
theorem checked_later (priv takes ok : Bool) (k : State → Out) (h : s.me.stage ≠ 0) : checked priv takes ok s k = k s := by simp [checked, h]

/-- An instruction that is allowed, takes the prefix if one is pending, and has legal operands begins. -/
theorem checked_ok (takes : Bool) (k : State → Out) (hp : s.me.prefixed = true → takes = true) : checked true takes true s k = k s := by
  unfold checked
  cases h : s.me.prefixed
  · simp [h]
  · simp [h, hp h]

/-- A privileged form outside privileged mode traps before anything else (R77). -/
theorem checked_privileged (takes ok : Bool) (k : State → Out) (h : s.me.stage = 0) : checked false takes ok s k = trap .privileged s.curWord s := by
  simp [checked, h]

/-- A prefix on a form that takes none traps and is dropped (R77, R99). -/
theorem checked_prefixed (ok : Bool) (k : State → Out) (h : s.me.stage = 0) (hp : s.me.prefixed = true) :
    checked true false ok s k = trap .prefixMisuse s.curWord (s.modMe Strand.dropPrefix) := by simp [checked, h, hp]

/-- An illegal operand traps, where the form is allowed and no prefix is misused (R77). -/
theorem checked_illegal (takes : Bool) (k : State → Out) (h : s.me.stage = 0) (hp : s.me.prefixed = true → takes = true) :
    checked true takes false s k = trap .illegalOperand s.curWord s := by
  unfold checked
  cases hq : s.me.prefixed
  · simp [h, hq]
  · simp [h, hq, hp hq]

/-- A destination that may be promised a result does not hold an instruction back. -/
theorem withDst_of_accepts (d : Code) (k : State → Out) (h : s.accepts d = true) : withDst d s k = k s := by
  simp only [withDst, State.accepts] at *
  split
  · rfl
  · by_cases h1 : d.toNat < 32
    · simp only [h1, if_true, Bool.not_eq_true'] at h
      simp [h1, h]; omega
    · by_cases h2 : 48 ≤ d.toNat ∧ d.toNat < 56
      · rw [if_neg h1, if_pos h2] at h
        simp [h1, h]
      · simp only [not_and, Nat.not_lt] at h2
        simp only [h1, decide_false, Bool.false_and, Bool.false_eq_true, if_false, Bool.and_eq_true, decide_eq_true_eq]
        rw [if_neg]
        rintro ⟨⟨h3, h4⟩, -⟩
        exact absurd (h2 h3) (by omega)

/-- A result for a destination with room is written, and the instruction is over. -/
theorem finish_of_room (d : Code) (v : Word) (h : s.room d = true) : finish d v s = complete (s.put d v) := deliverTo_of_room d v complete h

/-- Two sources that may be read are read in their order. -/
theorem two_of_gives (o : FmtA) (a b : Word) (u v : State) (k : Word → Word → State → Out) (hr : s.me.reads = []) (hs : s.slot < 16)
    (ha : s.Gives o.a o.x a u) (hb : u.Gives o.b o.y b v) : two o s k = k a b v := by
  obtain ⟨ha1, ha2, rfl⟩ := ha
  obtain ⟨hb1, hb2, rfl⟩ := hb
  rw [two, readSrc_of_src 0 o.a o.x _ a (by simp [hr]) ha1 ha2]
  exact readSrc_of_src 1 o.b o.y _ b (by rw [(took_frame o.a o.x a hs).2.2.2, hr]; rfl) hb1 hb2

end Sys2Proof.Machine
end

