-- ==== Sys2Proof/Tests/Slice0.lean ====
section
/-! SUPPORT. Tests: ill-formed terms that WellFormed refuses, words of the manual's encodings, single steps with results taken from the
manual, and for each statement with hypotheses states and operands that meet all of them together. -/

namespace Sys2Proof.Tests

open Sys2Proof Sys2Proof.Machine

/-! Well-formedness: each check refuses a term (R59, R61, R71, R75, R124, R168 and the sizes of R10 to R16). -/

theorem test_wellFormed_refuses_orders : [Instr.ld ⟨0, 6, 3, false, 1, 3⟩, .ldu ⟨0, 7, 3, false, 1, 3⟩, .st ⟨0, 6, 0, false, 1, 3⟩, .vld ⟨0, 6, 0, 1, 3⟩,
    .vld ⟨0, 0, 3, 1, 3⟩, .vst ⟨0, 7, 0, 1, 3⟩, .vst ⟨0, 0, 3, 1, 3⟩].map wellFormed = [false, false, false, false, false, false, false] := by decide
theorem test_wellFormed_refuses_fields : [Instr.pfx ⟨false, 0, 0, 0, 0, 11⟩, .pfx ⟨false, 0, 0, 0, 11, 0⟩, .pfx ⟨false, 0, 0, 11, 0, 0⟩, .loop ⟨0, false, 1, false⟩,
    .iloop ⟨0, false, 1, false⟩, .mfs ⟨0x007, 1⟩, .mts ⟨0x07A, false, 1⟩, .vcvt ⟨7, false, 1, 0, 2⟩, .vcvt ⟨0, false, 1, 8, 2⟩, .vcvt ⟨1, false, 1, 1, 2⟩,
    .vaddF32 ⟨false, 0, 0⟩].map wellFormed = [false, false, false, false, false, false, false, false, false, false, false] := by decide
theorem test_wellFormed_refuses_parts : [Instr.iloopClaimReply ⟨3840, 0⟩, .iloopClaimReply ⟨0, 16⟩, .laneGrant 480, .shrinkTakesEffect ⟨3840, 0⟩, .enginePlacement ⟨0, 16⟩,
    .jobStart 480 0, .jobCompletion 480 0, .followonPlacement 480 0, .continuationInvocation 0 0 3840, .specTaskDispatch 0 0 0 3840, .undoReplay 0 0 0 3840,
    .strandWake ⟨3840, 0⟩, .longLatencyResult ⟨3840, 0⟩ 0, .loadDataReturn ⟨0, 16⟩ 0, .replayRetry 3840 0, .pendingWriteDrain 4, .preemptSave 3840 [],
    .preemptResume 3840, .debugStop 3840, .debugResume 3840, .linkFailure 24, .linkUp 24 0 0, .repairTableReload 12 0 true, .frequencyStep 4 18,
    .relockEnd 4].all (fun i => !wellFormed i) = true := by decide
theorem test_wellFormed_admits : [Instr.ld ⟨0, 5, 3, false, 1, 3⟩, .vld ⟨0, 5, 2, 1, 3⟩, .pfx ⟨false, 0, 0, 10, 10, 10⟩, .loop ⟨1, false, 1, false⟩, .mfs ⟨0x079, 1⟩,
    .vcvt ⟨9, false, 1, 6, 2⟩, .vaddF32 ⟨true, 0, 0⟩, .laneGrant 479, .strandWake ⟨3839, 15⟩, .linkUp 23 0 0, .repairTableReload 11 0 true,
    .eret].all wellFormed = true := by decide

/-! Decoding: every row of spec/opcode_table.json as a word written from the formats of R58 and the codes of R73, every field at a value of its own. -/

theorem test_decode_alu_1 : [0x0D556303, 0x1D556303, 0x2D556303, 0x3D556303, 0x4D556303, 0x5D556303, 0x6D556303, 0x7D556303, 0x8D556303, 0x9D556303].map decodeWord =
    [.ok (.aluAdd ⟨true, 0x2a, true, 0x15, 0x23⟩),
     .ok (.aluSub ⟨true, 0x2a, true, 0x15, 0x23⟩),
     .ok (.aluAnd ⟨true, 0x2a, true, 0x15, 0x23⟩),
     .ok (.aluOr ⟨true, 0x2a, true, 0x15, 0x23⟩),
     .ok (.aluXor ⟨true, 0x2a, true, 0x15, 0x23⟩),
     .ok (.aluShl ⟨true, 0x2a, true, 0x15, 0x23⟩),
     .ok (.aluShr ⟨true, 0x2a, true, 0x15, 0x23⟩),
     .ok (.aluSar ⟨true, 0x2a, true, 0x15, 0x23⟩),
     .ok (.aluSlt ⟨true, 0x2a, true, 0x15, 0x23⟩),
     .ok (.aluSltu ⟨true, 0x2a, true, 0x15, 0x23⟩)] := by decide
theorem test_decode_alu_2 : [0xAD556303, 0xBD556303, 0xCD556303, 0xDD556303, 0xED556303, 0xFD556303].map decodeWord =
    [.ok (.aluMin ⟨true, 0x2a, true, 0x15, 0x23⟩),
     .ok (.aluMax ⟨true, 0x2a, true, 0x15, 0x23⟩),
     .ok (.aluMinu ⟨true, 0x2a, true, 0x15, 0x23⟩),
     .ok (.aluMaxu ⟨true, 0x2a, true, 0x15, 0x23⟩),
     .ok (.aluAndn ⟨true, 0x2a, true, 0x15, 0x23⟩),
     .ok (.aluOrn ⟨true, 0x2a, true, 0x15, 0x23⟩)] := by decide
theorem test_decode_aluw : [0x0D556305, 0x1D556305, 0x2D556305, 0x3D556305, 0x4D556305].map decodeWord =
    [.ok (.aluwAddw ⟨true, 0x2a, true, 0x15, 0x23⟩),
     .ok (.aluwSubw ⟨true, 0x2a, true, 0x15, 0x23⟩),
     .ok (.aluwShlw ⟨true, 0x2a, true, 0x15, 0x23⟩),
     .ok (.aluwShrw ⟨true, 0x2a, true, 0x15, 0x23⟩),
     .ok (.aluwSarw ⟨true, 0x2a, true, 0x15, 0x23⟩)] := by decide
theorem test_decode_mul : [0x0D556307, 0x1D556307, 0x2D556307, 0x3D556307, 0x4D556307, 0x5D556307, 0x6D556307].map decodeWord =
    [.ok (.mulMul ⟨true, 0x2a, true, 0x15, 0x23⟩),
     .ok (.mulMulh ⟨true, 0x2a, true, 0x15, 0x23⟩),
     .ok (.mulMulhu ⟨true, 0x2a, true, 0x15, 0x23⟩),
     .ok (.mulDiv ⟨true, 0x2a, true, 0x15, 0x23⟩),
     .ok (.mulDivu ⟨true, 0x2a, true, 0x15, 0x23⟩),
     .ok (.mulRem ⟨true, 0x2a, true, 0x15, 0x23⟩),
     .ok (.mulRemu ⟨true, 0x2a, true, 0x15, 0x23⟩)] := by decide
theorem test_decode_bits : [0x00156309, 0x10156309, 0x20156309, 0x30156309, 0x4D556309, 0x5D556309, 0x6D556309].map decodeWord =
    [.ok (.bitsClz ⟨true, 0x15, 0x23⟩),
     .ok (.bitsCtz ⟨true, 0x15, 0x23⟩),
     .ok (.bitsPopc ⟨true, 0x15, 0x23⟩),
     .ok (.bitsBrev ⟨true, 0x15, 0x23⟩),
     .ok (.bitsBext ⟨true, 0x2a, true, 0x15, 0x23⟩),
     .ok (.bitsBdep ⟨true, 0x2a, true, 0x15, 0x23⟩),
     .ok (.bitsSext ⟨true, 0x2a, true, 0x15, 0x23⟩)] := by decide
theorem test_decode_addi_andi_ori_xori_shli_shri_sari_roti : [0x56B5630B, 0x56B5630D, 0x56B5630F, 0x56B56311, 0x05B56313, 0x0DB56313, 0x15B56313, 0x1DB56313].map decodeWord =
    [.ok (.addi ⟨0x2b5, true, 0x15, 0x23⟩),
     .ok (.andi ⟨0x2b5, true, 0x15, 0x23⟩),
     .ok (.ori ⟨0x2b5, true, 0x15, 0x23⟩),
     .ok (.xori ⟨0x2b5, true, 0x15, 0x23⟩),
     .ok (.shli ⟨0x2d, true, 0x15, 0x23⟩),
     .ok (.shri ⟨0x2d, true, 0x15, 0x23⟩),
     .ok (.sari ⟨0x2d, true, 0x15, 0x23⟩),
     .ok (.roti ⟨0x2d, true, 0x15, 0x23⟩)] := by decide
theorem test_decode_slti_sltiu_ldi_ldih : [0x56B56315, 0x56B56317, 0xA9696319, 0xA969631B].map decodeWord =
    [.ok (.slti ⟨0x2b5, true, 0x15, 0x23⟩),
     .ok (.sltiu ⟨0x2b5, true, 0x15, 0x23⟩),
     .ok (.ldi ⟨0x2a5a5, 0x23⟩),
     .ok (.ldih ⟨0x2a5a5, 0x23⟩)] := by decide
theorem test_decode_addr : [0x0D55631D, 0x1D55631D, 0x2015631D, 0x3015631D, 0x4015631D, 0x5015631D].map decodeWord =
    [.ok (.addrMkloc ⟨true, 0x2a, true, 0x15, 0x23⟩),
     .ok (.addrMkrel ⟨true, 0x2a, true, 0x15, 0x23⟩),
     .ok (.addrGetx ⟨true, 0x15, 0x23⟩),
     .ok (.addrGety ⟨true, 0x15, 0x23⟩),
     .ok (.addrGetc ⟨true, 0x15, 0x23⟩),
     .ok (.addrGetdie ⟨true, 0x15, 0x23⟩)] := by decide
theorem test_decode_sfp_1 : [0x0D55631F, 0x1D55631F, 0x2D55631F, 0x3D55631F, 0x4015631F, 0x5D55631F, 0x6D55631F, 0x8D55631F, 0x9D55631F, 0xAD55631F].map decodeWord =
    [.ok (.sfpFaddS ⟨true, 0x2a, true, 0x15, 0x23⟩),
     .ok (.sfpFsubS ⟨true, 0x2a, true, 0x15, 0x23⟩),
     .ok (.sfpFmulS ⟨true, 0x2a, true, 0x15, 0x23⟩),
     .ok (.sfpFdivS ⟨true, 0x2a, true, 0x15, 0x23⟩),
     .ok (.sfpFsqrtS ⟨true, 0x15, 0x23⟩),
     .ok (.sfpFminS ⟨true, 0x2a, true, 0x15, 0x23⟩),
     .ok (.sfpFmaxS ⟨true, 0x2a, true, 0x15, 0x23⟩),
     .ok (.sfpFaddD ⟨true, 0x2a, true, 0x15, 0x23⟩),
     .ok (.sfpFsubD ⟨true, 0x2a, true, 0x15, 0x23⟩),
     .ok (.sfpFmulD ⟨true, 0x2a, true, 0x15, 0x23⟩)] := by decide
theorem test_decode_sfp_2 : [0xBD55631F, 0xC015631F, 0xDD55631F, 0xED55631F].map decodeWord =
    [.ok (.sfpFdivD ⟨true, 0x2a, true, 0x15, 0x23⟩),
     .ok (.sfpFsqrtD ⟨true, 0x15, 0x23⟩),
     .ok (.sfpFminD ⟨true, 0x2a, true, 0x15, 0x23⟩),
     .ok (.sfpFmaxD ⟨true, 0x2a, true, 0x15, 0x23⟩)] := by decide
theorem test_decode_sfma : [0x0D556321, 0x1D556321, 0x8D556321, 0x9D556321].map decodeWord =
    [.ok (.sfmaFmaS ⟨true, 0x2a, true, 0x15, 0x23⟩),
     .ok (.sfmaFmsS ⟨true, 0x2a, true, 0x15, 0x23⟩),
     .ok (.sfmaFmaD ⟨true, 0x2a, true, 0x15, 0x23⟩),
     .ok (.sfmaFmsD ⟨true, 0x2a, true, 0x15, 0x23⟩)] := by decide
theorem test_decode_scvt_1 : [0x00156323, 0x10156323, 0x20156323, 0x30156323, 0x40156323, 0x50156323, 0x60156323, 0x70156323, 0x80156323, 0x90156323].map decodeWord =
    [.ok (.scvtDS ⟨true, 0x15, 0x23⟩),
     .ok (.scvtSD ⟨true, 0x15, 0x23⟩),
     .ok (.scvtSL ⟨true, 0x15, 0x23⟩),
     .ok (.scvtDL ⟨true, 0x15, 0x23⟩),
     .ok (.scvtLS ⟨true, 0x15, 0x23⟩),
     .ok (.scvtLD ⟨true, 0x15, 0x23⟩),
     .ok (.scvtSLu ⟨true, 0x15, 0x23⟩),
     .ok (.scvtDLu ⟨true, 0x15, 0x23⟩),
     .ok (.scvtLuS ⟨true, 0x15, 0x23⟩),
     .ok (.scvtLuD ⟨true, 0x15, 0x23⟩)] := by decide
theorem test_decode_scvt_2 : [0xA0156323, 0xB0156323, 0xC0156323, 0xD0156323].map decodeWord =
    [.ok (.scvtBfS ⟨true, 0x15, 0x23⟩),
     .ok (.scvtSBf ⟨true, 0x15, 0x23⟩),
     .ok (.scvtHS ⟨true, 0x15, 0x23⟩),
     .ok (.scvtSH ⟨true, 0x15, 0x23⟩)] := by decide
theorem test_decode_scmp : [0x0D556325, 0x1D556325, 0x2D556325, 0x3D556325, 0x8D556325, 0x9D556325, 0xAD556325, 0xBD556325].map decodeWord =
    [.ok (.scmpFeqS ⟨true, 0x2a, true, 0x15, 0x23⟩),
     .ok (.scmpFltS ⟨true, 0x2a, true, 0x15, 0x23⟩),
     .ok (.scmpFleS ⟨true, 0x2a, true, 0x15, 0x23⟩),
     .ok (.scmpFunordS ⟨true, 0x2a, true, 0x15, 0x23⟩),
     .ok (.scmpFeqD ⟨true, 0x2a, true, 0x15, 0x23⟩),
     .ok (.scmpFltD ⟨true, 0x2a, true, 0x15, 0x23⟩),
     .ok (.scmpFleD ⟨true, 0x2a, true, 0x15, 0x23⟩),
     .ok (.scmpFunordD ⟨true, 0x2a, true, 0x15, 0x23⟩)] := by decide
theorem test_decode_mfs_mts : [0x0E202327, 0x00D54029].map decodeWord =
    [.ok (.mfs ⟨0x71, 0x23⟩),
     .ok (.mts ⟨6, true, 0x15⟩)] := by decide
theorem test_decode_br : [0xFE54A82B, 0x7CD4A92B, 0x7CD4AA2B, 0x7CD4AB2B, 0x7CD4AC2B, 0x7CD4AD2B].map decodeWord =
    [.ok (.brEq ⟨0x1fc, 0x2a, 0x15⟩),
     .ok (.brNe ⟨0xf9, 0x2a, 0x15⟩),
     .ok (.brLt ⟨0xf9, 0x2a, 0x15⟩),
     .ok (.brGe ⟨0xf9, 0x2a, 0x15⟩),
     .ok (.brLtu ⟨0xf9, 0x2a, 0x15⟩),
     .ok (.brGeu ⟨0xf9, 0x2a, 0x15⟩)] := by decide
theorem test_decode_bz : [0xFFF8A82D, 0x7FF2A92D, 0x7FF2AA2D, 0x7FF2AB2D, 0x7FF2AC2D, 0x7FF2AD2D].map decodeWord =
    [.ok (.bzEq0 ⟨0x7ffc, 0x15⟩),
     .ok (.bzNe0 ⟨0x3ff9, 0x15⟩),
     .ok (.bzLt0 ⟨0x3ff9, 0x15⟩),
     .ok (.bzGe0 ⟨0x3ff9, 0x15⟩),
     .ok (.bzGt0 ⟨0x3ff9, 0x15⟩),
     .ok (.bzLe0 ⟨0x3ff9, 0x15⟩)] := by decide
theorem test_decode_jmp_call_jr_callr_ret_loop_iloop_pfx : [0xFFFFFC2F, 0x7FFFF931, 0x00154033, 0x10154033, 0x20000033, 0x56B54135, 0x56B54137, 0x06594739].map decodeWord =
    [.ok (.jmp ⟨0xfffffc⟩),
     .ok (.call ⟨0x7ffff9⟩),
     .ok (.jr ⟨true, 0x15⟩),
     .ok (.callr ⟨true, 0x15⟩),
     .ok .ret,
     .ok (.loop ⟨0x2b5, true, 0x15, true⟩),
     .ok (.iloop ⟨0x2b5, true, 0x15, true⟩),
     .ok (.pfx ⟨true, 2, 5, 9, 4, 7⟩)] := by decide
theorem test_decode_strand : [0x0D55633B, 0x1000003B, 0x2000233B, 0x3D55403B].map decodeWord =
    [.ok (.strandStart ⟨true, 0x2a, true, 0x15, 0x23⟩),
     .ok .strandHalt,
     .ok (.strandSlot ⟨0x23⟩),
     .ok (.strandQbind ⟨true, 0x2a, true, 0x15⟩)] := by decide
theorem test_decode_trap_brk_sysc_eret : [0x2AA0003D, 0x6AA0003D, 0xAAA0003D, 0xC000003D].map decodeWord =
    [.ok (.trap ⟨0x155⟩),
     .ok (.brk ⟨0x155⟩),
     .ok (.sysc ⟨0x155⟩),
     .ok .eret] := by decide
theorem test_decode_sysop : [0x0D55403F, 0x1015633F, 0x2015633F, 0x3000233F, 0x4D55633F].map decodeWord =
    [.ok (.sysopTlbinv ⟨true, 0x2a, true, 0x15⟩),
     .ok (.sysopStopcore ⟨true, 0x15, 0x23⟩),
     .ok (.sysopResumecore ⟨true, 0x15, 0x23⟩),
     .ok (.sysopSample ⟨0x23⟩),
     .ok (.sysopDump ⟨true, 0x2a, true, 0x15, 0x23⟩)] := by decide
theorem test_decode_ld_ldu_st_ldx_ldfe : [0xA6D56341, 0xA6D56343, 0xA6D56345, 0x6D556347, 0xA4756349, 0xA4F56349, 0xA5756349].map decodeWord =
    [.ok (.ld ⟨0x29, 5, 2, true, 0x15, 0x23⟩),
     .ok (.ldu ⟨0x29, 5, 2, true, 0x15, 0x23⟩),
     .ok (.st ⟨0x29, 5, 2, true, 0x15, 0x23⟩),
     .ok (.ldx ⟨true, 2, true, 0x2a, true, 0x15, 0x23⟩),
     .ok (.ldfeLeave ⟨0x29, true, 0x15, 0x23⟩),
     .ok (.ldfeTake ⟨0x29, true, 0x15, 0x23⟩),
     .ok (.ldfeState ⟨0x29, true, 0x15, 0x23⟩)] := by decide
theorem test_decode_stfe : [0xA475634B, 0xA4F5634B, 0xA575634B].map decodeWord =
    [.ok (.stfeFill ⟨0x29, true, 0x15, 0x23⟩),
     .ok (.stfeForce ⟨0x29, true, 0x15, 0x23⟩),
     .ok (.stfeEmpty ⟨0x29, true, 0x15, 0x23⟩)] := by decide
theorem test_decode_amo : [0x1555634D, 0x3555634D, 0x5555634D, 0x7555634D, 0x9555634D, 0xB555634D, 0xD555634D, 0xF555634D].map decodeWord =
    [.ok (.amoSwap ⟨2, 0x2a, true, 0x15, 0x23⟩),
     .ok (.amoCas ⟨2, 0x2a, true, 0x15, 0x23⟩),
     .ok (.amoAdd ⟨2, 0x2a, true, 0x15, 0x23⟩),
     .ok (.amoAnd ⟨2, 0x2a, true, 0x15, 0x23⟩),
     .ok (.amoOr ⟨2, 0x2a, true, 0x15, 0x23⟩),
     .ok (.amoXor ⟨2, 0x2a, true, 0x15, 0x23⟩),
     .ok (.amoMax ⟨2, 0x2a, true, 0x15, 0x23⟩),
     .ok (.amoMin ⟨2, 0x2a, true, 0x15, 0x23⟩)] := by decide
theorem test_decode_amo2 : [0x1555634F, 0x3555634F, 0x5555634F, 0x7555634F].map decodeWord =
    [.ok (.amo2Maxu ⟨2, 0x2a, true, 0x15, 0x23⟩),
     .ok (.amo2Minu ⟨2, 0x2a, true, 0x15, 0x23⟩),
     .ok (.amo2FaddS ⟨2, 0x2a, true, 0x15, 0x23⟩),
     .ok (.amo2FaddBf ⟨2, 0x2a, true, 0x15, 0x23⟩)] := by decide
theorem test_decode_red : [0x15554051, 0x35554051, 0x55554051, 0x75554051, 0x95554051, 0xB5554051, 0xD5554051, 0xF5554051].map decodeWord =
    [.ok (.redAdd ⟨2, 0x2a, true, 0x15⟩),
     .ok (.redAnd ⟨2, 0x2a, true, 0x15⟩),
     .ok (.redOr ⟨2, 0x2a, true, 0x15⟩),
     .ok (.redXor ⟨2, 0x2a, true, 0x15⟩),
     .ok (.redMax ⟨2, 0x2a, true, 0x15⟩),
     .ok (.redMin ⟨2, 0x2a, true, 0x15⟩),
     .ok (.redFaddS ⟨2, 0x2a, true, 0x15⟩),
     .ok (.redFaddBf ⟨2, 0x2a, true, 0x15⟩)] := by decide
theorem test_decode_fence : [0x20000053, 0x60000053, 0xA0000053, 0xC0000053, 0xD0000053].map decodeWord =
    [.ok (.fenceAcq ⟨2⟩),
     .ok (.fenceRel ⟨2⟩),
     .ok (.fenceFull ⟨2⟩),
     .ok .fenceWred,
     .ok .fenceWrep] := by decide
theorem test_decode_lda_stl_ldb_stb_pref_send_recv_rprobe : [0xD5556355, 0x55556357, 0x0DB56359, 0x05B5635B, 0xA455405D, 0x2D554061, 0x00156363, 0x00002365].map decodeWord =
    [.ok (.lda ⟨true, 2, 2, 0x2a, true, 0x15, 0x23⟩),
     .ok (.stl ⟨2, 2, 0x2a, true, 0x15, 0x23⟩),
     .ok (.ldb ⟨true, 0x2d, true, 0x15, 0x23⟩),
     .ok (.stb ⟨0x2d, true, 0x15, 0x23⟩),
     .ok (.pref ⟨0x29, 2, true, 0x15⟩),
     .ok (.send ⟨2, true, 0x2a, true, 0x15⟩),
     .ok (.recv ⟨true, 0x15, 0x23⟩),
     .ok (.rprobe ⟨0x23⟩)] := by decide
theorem test_decode_put_mput : [0x2D556367, 0x2D556369].map decodeWord =
    [.ok (.put ⟨2, true, 0x2a, true, 0x15, 0x23⟩),
     .ok (.mput ⟨2, true, 0x2a, true, 0x15, 0x23⟩)] := by decide
theorem test_decode_bar : [0x0D55406B, 0x1015636B, 0x2D55636B, 0x3015636B, 0x4015406B, 0x5015636B].map decodeWord =
    [.ok (.barInit ⟨true, 0x2a, true, 0x15⟩),
     .ok (.barArrive ⟨true, 0x15, 0x23⟩),
     .ok (.barWait ⟨true, 0x2a, true, 0x15, 0x23⟩),
     .ok (.barArrwait ⟨true, 0x15, 0x23⟩),
     .ok (.barInval ⟨true, 0x15⟩),
     .ok (.barQuery ⟨true, 0x15, 0x23⟩)] := by decide
theorem test_decode_tagw : [0x0015636D, 0x1015636D, 0x2015636D, 0x3015406D].map decodeWord =
    [.ok (.tagwWaitany ⟨true, 0x15, 0x23⟩),
     .ok (.tagwWaitall ⟨true, 0x15, 0x23⟩),
     .ok (.tagwFfr ⟨true, 0x15, 0x23⟩),
     .ok (.tagwClr ⟨true, 0x15⟩)] := by decide
theorem test_decode_spawn_qpush_qpop_qpopv_launch_signal : [0x0D55636F, 0x0D556371, 0x00156373, 0x10156373, 0x0D556375, 0x1D556375, 0x00156377, 0x0D554079].map decodeWord =
    [.ok (.spawn ⟨true, 0x2a, true, 0x15, 0x23⟩),
     .ok (.qpush ⟨true, 0x2a, true, 0x15, 0x23⟩),
     .ok (.qpop ⟨true, 0x15, 0x23⟩),
     .ok (.qpopNb ⟨true, 0x15, 0x23⟩),
     .ok (.qpopv ⟨true, 0x2a, true, 0x15, 0x23⟩),
     .ok (.qpopvNb ⟨true, 0x2a, true, 0x15, 0x23⟩),
     .ok (.launch ⟨true, 0x15, 0x23⟩),
     .ok (.signal ⟨true, 0x2a, true, 0x15⟩)] := by decide
theorem test_decode_swait : [0x0D55637B].map decodeWord =
    [.ok (.swait ⟨true, 0x2a, true, 0x15, 0x23⟩)] := by decide
theorem test_decode_vf : [0x0D456381, 0x1D456381, 0x2D456381, 0x3D456381, 0x4D456381, 0x5D456381, 0x6D402381, 0x7D402381, 0x8D456381].map decodeWord =
    [.ok (.vfAdd ⟨true, 0x2a, 0x15, 0x23⟩),
     .ok (.vfSub ⟨true, 0x2a, 0x15, 0x23⟩),
     .ok (.vfMul ⟨true, 0x2a, 0x15, 0x23⟩),
     .ok (.vfDiv ⟨true, 0x2a, 0x15, 0x23⟩),
     .ok (.vfMin ⟨true, 0x2a, 0x15, 0x23⟩),
     .ok (.vfMax ⟨true, 0x2a, 0x15, 0x23⟩),
     .ok (.vfAbs ⟨true, 0x2a, 0x23⟩),
     .ok (.vfNeg ⟨true, 0x2a, 0x23⟩),
     .ok (.vfCopysign ⟨true, 0x2a, 0x15, 0x23⟩)] := by decide
theorem test_decode_vfma : [0x0D456383, 0x1D456383, 0x2D456383, 0x3D456383].map decodeWord =
    [.ok (.vfmaFma ⟨true, 0x2a, 0x15, 0x23⟩),
     .ok (.vfmaFms ⟨true, 0x2a, 0x15, 0x23⟩),
     .ok (.vfmaFnma ⟨true, 0x2a, 0x15, 0x23⟩),
     .ok (.vfmaFnms ⟨true, 0x2a, 0x15, 0x23⟩)] := by decide
theorem test_decode_vfx_1 : [0x0D402385, 0x1D402385, 0x2D402385, 0x3D402385, 0x4D402385, 0x5D456385, 0x6D402385, 0x7D402385, 0x8D402385, 0x9D402385].map decodeWord =
    [.ok (.vfxFrintN ⟨true, 0x2a, 0x23⟩),
     .ok (.vfxFrintZ ⟨true, 0x2a, 0x23⟩),
     .ok (.vfxFrintU ⟨true, 0x2a, 0x23⟩),
     .ok (.vfxFrintD ⟨true, 0x2a, 0x23⟩),
     .ok (.vfxFexpf ⟨true, 0x2a, 0x23⟩),
     .ok (.vfxFscale ⟨true, 0x2a, 0x15, 0x23⟩),
     .ok (.vfxFgetexp ⟨true, 0x2a, 0x23⟩),
     .ok (.vfxFgetman ⟨true, 0x2a, 0x23⟩),
     .ok (.vfxFrcp ⟨true, 0x2a, 0x23⟩),
     .ok (.vfxFrsq ⟨true, 0x2a, 0x23⟩)] := by decide
theorem test_decode_vfx_2 : [0xAD402385, 0xBD402385].map decodeWord =
    [.ok (.vfxFclass ⟨true, 0x2a, 0x23⟩),
     .ok (.vfxFsqrt ⟨true, 0x2a, 0x23⟩)] := by decide
theorem test_decode_vi_1 : [0x0D456387, 0x1D456387, 0x2D456387, 0x3D456387, 0x4D456387, 0x5D456387, 0x6D456387, 0x7D456387, 0x8D456387, 0x9D456387].map decodeWord =
    [.ok (.viAdd ⟨true, 0x2a, 0x15, 0x23⟩),
     .ok (.viSub ⟨true, 0x2a, 0x15, 0x23⟩),
     .ok (.viMul ⟨true, 0x2a, 0x15, 0x23⟩),
     .ok (.viMulh ⟨true, 0x2a, 0x15, 0x23⟩),
     .ok (.viMin ⟨true, 0x2a, 0x15, 0x23⟩),
     .ok (.viMax ⟨true, 0x2a, 0x15, 0x23⟩),
     .ok (.viMinu ⟨true, 0x2a, 0x15, 0x23⟩),
     .ok (.viMaxu ⟨true, 0x2a, 0x15, 0x23⟩),
     .ok (.viAnd ⟨true, 0x2a, 0x15, 0x23⟩),
     .ok (.viOr ⟨true, 0x2a, 0x15, 0x23⟩)] := by decide
theorem test_decode_vi_2 : [0xAD456387, 0xBD456387, 0xCD456387, 0xDD456387, 0xED456387].map decodeWord =
    [.ok (.viXor ⟨true, 0x2a, 0x15, 0x23⟩),
     .ok (.viShl ⟨true, 0x2a, 0x15, 0x23⟩),
     .ok (.viShr ⟨true, 0x2a, 0x15, 0x23⟩),
     .ok (.viSar ⟨true, 0x2a, 0x15, 0x23⟩),
     .ok (.viAndn ⟨true, 0x2a, 0x15, 0x23⟩)] := by decide
theorem test_decode_vcmp : [0x0D456389, 0x1D456389, 0x2D456389, 0x3D456389, 0x4D456389, 0x5D456389, 0x6D456389, 0x7D456389, 0x8D456389, 0x9D456389].map decodeWord =
    [.ok (.vcmpFeq ⟨true, 0x2a, 0x15, 0x23⟩),
     .ok (.vcmpFne ⟨true, 0x2a, 0x15, 0x23⟩),
     .ok (.vcmpFlt ⟨true, 0x2a, 0x15, 0x23⟩),
     .ok (.vcmpFle ⟨true, 0x2a, 0x15, 0x23⟩),
     .ok (.vcmpFunord ⟨true, 0x2a, 0x15, 0x23⟩),
     .ok (.vcmpIeq ⟨true, 0x2a, 0x15, 0x23⟩),
     .ok (.vcmpIne ⟨true, 0x2a, 0x15, 0x23⟩),
     .ok (.vcmpIlt ⟨true, 0x2a, 0x15, 0x23⟩),
     .ok (.vcmpIle ⟨true, 0x2a, 0x15, 0x23⟩),
     .ok (.vcmpIltu ⟨true, 0x2a, 0x15, 0x23⟩)] := by decide
theorem test_decode_vmsk : [0x0545638B, 0x1545638B, 0x2545638B, 0x3545638B, 0x4005638B, 0x5005638B, 0x6005638B, 0x7005638B].map decodeWord =
    [.ok (.vmskSel ⟨0x2a, 0x15, 0x23⟩),
     .ok (.vmskMand ⟨0x2a, 0x15, 0x23⟩),
     .ok (.vmskMor ⟨0x2a, 0x15, 0x23⟩),
     .ok (.vmskMxor ⟨0x2a, 0x15, 0x23⟩),
     .ok (.vmskMnot ⟨0x15, 0x23⟩),
     .ok (.vmskMpop ⟨0x15, 0x23⟩),
     .ok (.vmskMfirst ⟨0x15, 0x23⟩),
     .ok (.vmskMset ⟨0x15, 0x23⟩)] := by decide
theorem test_decode_vcvt : [0x3D42638D].map decodeWord =
    [.ok (.vcvt ⟨3, true, 0x2a, 9, 0x23⟩)] := by decide
theorem test_decode_vperm : [0x0545638F, 0x1545638F, 0x2545638F, 0x3545638F, 0x4005638F, 0x5005638F, 0x6540238F].map decodeWord =
    [.ok (.vpermBcast ⟨0x2a, 0x15, 0x23⟩),
     .ok (.vpermShup ⟨0x2a, 0x15, 0x23⟩),
     .ok (.vpermShdn ⟨0x2a, 0x15, 0x23⟩),
     .ok (.vpermPerm ⟨0x2a, 0x15, 0x23⟩),
     .ok (.vpermComp ⟨0x15, 0x23⟩),
     .ok (.vpermExpd ⟨0x15, 0x23⟩),
     .ok (.vpermRev ⟨0x2a, 0x23⟩)] := by decide
theorem test_decode_vred_1 : [0x08056391, 0x18056391, 0x28056391, 0x38056391, 0x48056391, 0x58056391, 0x85456391, 0x95456391, 0xA5456391, 0xB5456391].map decodeWord =
    [.ok (.vredFsum ⟨true, 0x15, 0x23⟩),
     .ok (.vredFmax ⟨true, 0x15, 0x23⟩),
     .ok (.vredFmin ⟨true, 0x15, 0x23⟩),
     .ok (.vredIsum ⟨true, 0x15, 0x23⟩),
     .ok (.vredImax ⟨true, 0x15, 0x23⟩),
     .ok (.vredImin ⟨true, 0x15, 0x23⟩),
     .ok (.vredFsumQ ⟨0x2a, 0x15, 0x23⟩),
     .ok (.vredFmaxQ ⟨0x2a, 0x15, 0x23⟩),
     .ok (.vredFminQ ⟨0x2a, 0x15, 0x23⟩),
     .ok (.vredIsumQ ⟨0x2a, 0x15, 0x23⟩)] := by decide
theorem test_decode_vred_2 : [0xC5456391, 0xD5456391].map decodeWord =
    [.ok (.vredImaxQ ⟨0x2a, 0x15, 0x23⟩),
     .ok (.vredIminQ ⟨0x2a, 0x15, 0x23⟩)] := by decide
theorem test_decode_vmov : [0x05456393, 0x15456393, 0x25402393].map decodeWord =
    [.ok (.vmovVtos ⟨0x2a, 0x15, 0x23⟩),
     .ok (.vmovStov ⟨0x2a, 0x15, 0x23⟩),
     .ok (.vmovVmv ⟨0x2a, 0x23⟩)] := by decide
theorem test_decode_lane : [0x00056395, 0x10000095, 0x20000095, 0x30002395].map decodeWord =
    [.ok (.laneClaim ⟨0x15, 0x23⟩),
     .ok .laneRel,
     .ok .laneSync,
     .ok (.laneQuery ⟨0x23⟩)] := by decide
theorem test_decode_vld_vst_vlds_vsts_vgat_vsca_vldb_vstb : [0xA6C56397, 0xA6C5639B, 0x0D456399, 0x0D45639D, 0x0D45639F, 0x0D4563A1, 0xD80563A3, 0xD80563A5].map decodeWord =
    [.ok (.vld ⟨0x29, 5, 2, 0x15, 0x23⟩),
     .ok (.vst ⟨0x29, 5, 2, 0x15, 0x23⟩),
     .ok (.vlds ⟨true, 0x2a, 0x15, 0x23⟩),
     .ok (.vsts ⟨true, 0x2a, 0x15, 0x23⟩),
     .ok (.vgat ⟨true, 0x2a, 0x15, 0x23⟩),
     .ok (.vsca ⟨true, 0x2a, 0x15, 0x23⟩),
     .ok (.vldb ⟨0xd, true, 0x15, 0x23⟩),
     .ok (.vstb ⟨0xd, true, 0x15, 0x23⟩)] := by decide
theorem test_decode_n_1 : [0xA860, 0xA862, 0xA864, 0xA866, 0xA868, 0xA86A, 0xA86C, 0xA86E, 0xA870, 0xA872].map decodeHalf =
    [.ok (.vaddF32 ⟨true, 0xa, 3⟩), .ok (.vsubF32 ⟨true, 0xa, 3⟩), .ok (.vmulF32 ⟨true, 0xa, 3⟩), .ok (.vmaxF32 ⟨true, 0xa, 3⟩), .ok (.vminF32 ⟨true, 0xa, 3⟩), .ok (.vaddI32 ⟨true, 0xa, 3⟩), .ok (.vsubI32 ⟨true, 0xa, 3⟩), .ok (.vand ⟨true, 0xa, 3⟩), .ok (.vor ⟨true, 0xa, 3⟩), .ok (.vxor ⟨true, 0xa, 3⟩)] := by decide
theorem test_decode_n_2 : [0xA874, 0xA876, 0xA878, 0xA87A, 0xA87C, 0xA87E].map decodeHalf =
    [.ok (.vshlI32 ⟨true, 0xa, 3⟩), .ok (.vshrI32 ⟨true, 0xa, 3⟩), .ok (.vmv ⟨true, 0xa, 3⟩), .ok (.vabsF32 ⟨true, 0xa, 3⟩), .ok (.vnegF32 ⟨true, 0xa, 3⟩), .ok (.vmulI32 ⟨true, 0xa, 3⟩)] := by decide
theorem test_decode_copy_mmld_mmsw_mmrun_mmst : [0x055563B1, 0x0D5563B1, 0x0D5563B3, 0x0D5563B5, 0x6D5563B7, 0x0D5563B9].map decodeWord =
    [.ok (.copy ⟨0x2a, true, 0x15, 0x23⟩),
     .ok (.copyFo ⟨0x2a, true, 0x15, 0x23⟩),
     .ok (.mmld ⟨true, 0x2a, true, 0x15, 0x23⟩),
     .ok (.mmsw ⟨true, 0x2a, true, 0x15, 0x23⟩),
     .ok (.mmrun ⟨true, 2, true, 0x2a, true, 0x15, 0x23⟩),
     .ok (.mmst ⟨true, 0x2a, true, 0x15, 0x23⟩)] := by decide
theorem test_decode_jwait_gath_coll_tcall_tans_tret : [0x001563BB, 0x101563BB, 0x2D5563BB, 0x0D5563BD, 0x0D5563BF, 0x001563C1, 0x0D5563C3, 0x001540C5].map decodeWord =
    [.ok (.jwaitPoll ⟨true, 0x15, 0x23⟩),
     .ok (.jwaitSleep ⟨true, 0x15, 0x23⟩),
     .ok (.jwaitAny ⟨true, 0x2a, true, 0x15, 0x23⟩),
     .ok (.gath ⟨true, 0x2a, true, 0x15, 0x23⟩),
     .ok (.coll ⟨true, 0x2a, true, 0x15, 0x23⟩),
     .ok (.tcall ⟨true, 0x15, 0x23⟩),
     .ok (.tans ⟨true, 0x2a, true, 0x15, 0x23⟩),
     .ok (.tret ⟨true, 0x15⟩)] := by decide
theorem test_decode_tnext_twait_tend_tabol_tstat_ctalloc : [0x0D5563C7, 0x101540C7, 0x001563C9, 0x000000CB, 0x001563CD, 0x0D5563CF, 0x0D5563D1, 0x1D5563D1].map decodeWord =
    [.ok (.tnextNext ⟨true, 0x2a, true, 0x15, 0x23⟩),
     .ok (.tnextClose ⟨true, 0x15⟩),
     .ok (.twait ⟨true, 0x15, 0x23⟩),
     .ok .tend,
     .ok (.tabol ⟨true, 0x15, 0x23⟩),
     .ok (.tstat ⟨true, 0x2a, true, 0x15, 0x23⟩),
     .ok (.ctalloc ⟨true, 0x2a, true, 0x15, 0x23⟩),
     .ok (.ctallocNb ⟨true, 0x2a, true, 0x15, 0x23⟩)] := by decide
theorem test_decode_ctenter_ctretire_ctphase_ctq_sspawn_bop : [0x001540D3, 0x001540D5, 0x101540D5, 0x0D5563D7, 0x0D5563D9, 0x0D5563DB, 0x1D5563DB, 0x0D5540DD].map decodeWord =
    [.ok (.ctenter ⟨true, 0x15⟩),
     .ok (.ctretireCommit ⟨true, 0x15⟩),
     .ok (.ctretireDiscard ⟨true, 0x15⟩),
     .ok (.ctphase ⟨true, 0x2a, true, 0x15, 0x23⟩),
     .ok (.ctq ⟨true, 0x2a, true, 0x15, 0x23⟩),
     .ok (.sspawnOrdered ⟨true, 0x2a, true, 0x15, 0x23⟩),
     .ok (.sspawnUnordered ⟨true, 0x2a, true, 0x15, 0x23⟩),
     .ok (.bop ⟨true, 0x2a, true, 0x15⟩)] := by decide
theorem test_decode_bopend_sdone_sabort_uend_cload : [0x000000DF, 0x000000E1, 0x001540E3, 0x000000E5, 0x001540E7].map decodeWord =
    [.ok .bopend,
     .ok .sdone,
     .ok (.sabort ⟨true, 0x15⟩),
     .ok .uend,
     .ok (.cload ⟨true, 0x15⟩)] := by decide

/-- The worked encodings of the manual: R141, R130, R124 and the words of the integer forms. -/
theorem test_decode_manual : [0xC000003D, 0x80A0003D, 0x20000033, 0x0E200127, 0x00404303].map decodeWord =
    [.ok .eret, .ok (.sysc ⟨5⟩), .ok .ret, .ok (.mfs ⟨0x71, 1⟩), .ok (.aluAdd ⟨false, 2, false, 1, 3⟩)] := by decide
theorem test_decode_ldi : [0x10000419, 0x0000041B, 0x01414135].map decodeWord =
    [.ok (.ldi ⟨16384, 4⟩), .ok (.ldih ⟨0, 4⟩), .ok (.loop ⟨10, false, 5, true⟩)] := by decide
theorem test_encode_manual : encode .eret = 0xC000003D ∧ encode (.sysc ⟨5⟩) = 0x80A0003D ∧ encode (.mfs ⟨0x71, 1⟩) = 0x0E200127 ∧
    encode (.vaddF32 ⟨false, 7, 3⟩) = 0x1C60 := by decide
/-- R57, R73, R79: the zero halfword, a reserved major, and a reserved form code have no instruction. -/
theorem test_decode_refuses : decode [0, 0] = .error .zeroHalfword ∧ decodeWord 0x5F = .error .reservedMajor ∧ decodeWord 0x70000009 = .error .reservedForm := by decide
theorem test_decode_table_word : decodeTableWord 32 0x00404303 = some (.aluAdd ⟨false, 2, false, 1, 3⟩) ∧ decodeTableWord 16 0x1C60 = some (.vaddF32 ⟨false, 7, 3⟩) := by decide

/-! States for the tests: saggar 0 on cluster 0, and a strand in slot 0 of core 0 that has fetched an instruction. -/

/-- A live strand that has fetched i, with a few registers set. -/
def strand (i : Instr) : Strand :=
  { Strand.empty with live := true, uid := 1, pc := 0x10000, tvec := 0x20000, cur := some i, task := some 0, s := [(1, 5), (2, 7), (4, 0x1001), (31, 0x30000)] }

/-- The machine with strand m in slot 0 of core 0. -/
def boxed (m : Strand) : State :=
  { State.reset with serial := 2, saggars := [(0, Saggar.form hostRecord)],
                     cores := [(0, { Core.init with tenant := some 0, slots := [(0, m)] })] }

/-- The strand in focus has fetched i. -/
def has (i : Instr) : State := boxed (strand i)

/-- The strand in focus has fetched i and holds registers r. -/
def withS (i : Instr) (r : List (Nat × Word)) : State := boxed { strand i with s := r }

/-- The strand in focus has fetched i, holds registers r, and its core's scratchpad holds dwords ws from offset 0x100 on. -/
def withRec (i : Instr) (r : List (Nat × Word)) (ws : List Word) : State :=
  (List.range ws.length).foldl (fun t k => t.setDword (scratchLoc 0 (0x100 + 8 * k)) (ws.getD k 0)) (withS i r)

/-- The address of offset 0x100 of the own scratchpad. -/
def recA : Word := 0x8000000000000100

/-- The strand in focus has fetched i, holds registers r, and has a heap window over one band of memory that its core's cluster owns. -/
def heap (i : Instr) (r : List (Nat × Word)) : State :=
  ({ boxed { strand i with s := r, heapb := 0x40000000, heapl := 0x100000, heapo := 0x100000 } with keys := [(0, 0)], sealed := [((2 ^ 20 + 16) / 32, 0)] } : State).setDword (2 ^ 20 + 16) 0x55

/-- The place of offset o of core 0's scratchpad. -/
def plc (o : Nat) : Place := ⟨.scratch 0 o, (Addr.scratch 0 o).named, scratchLoc 0 o, none⟩

/-- The place of offset o of cluster 0's slice. -/
def plcS (o : Nat) : Place := ⟨.slice 0 o, (Addr.slice 0 o).named, sliceLoc 0 o, none⟩

/-- The place of address 0x40000010 in the heap window. -/
def plcG : Place := ⟨.global 0x40000010, 0x40000010, 0x100010, none⟩

/-- The bit address of bit 5 of byte 0x101 of the own scratchpad. -/
def bitA : Word := 0x8000000000000000 + 0x101 * 8 + 5

/-- The word that holds byte 0x101 of the own scratchpad. -/
def bitPlace : Place := ⟨.scratch 0 0x101, 0x8000000000000100, scratchLoc 0 0x100, none⟩

/-- A request of the strand in slot 0 of core 0 to the word at 0x100010. -/
def atWord (b : Body) : Msg := ⟨7, 0, 0, 1, 0, some 0, none, 1, 0, 0x40000010, 0x100010, 8, homeOf 0x100010, b, 7, 0⟩

/-- The heap window leads to the band's memory. -/
theorem heap_admits (kd : Acc) (n : Nat) (u : State) (ad : Addr) (h : ad = .global 0x40000010)
    (hu : resolve u u.myCluster u.me.sag 0x40000010 n = some ad ∧ 0x40000010 % n = 0 ∧ translate u u.issuer kd 0x40000010 n = (.ok 0x100010, u) ∧
      u.rangeLocked kd 0x40000010 n = none) : Admits kd 0x40000010 n n (fun _ => true) u plcG u := by
  subst h; exact admits_of_leads hu.1 hu.2.1 rfl hu.2.2.1 hu.2.2.2

/-- Elects poison traps in the saggar's record. -/
def electing (s : State) : State := s.modSag 0 (fun g => { g with cfg := { g.cfg with ptrap := true } })

/-- A home selection of the message at the head of those in flight, without an error of its word. -/
def head0 : HomeSel := ⟨false, 0, 0, 0, ⟨false, false⟩⟩

/-! For each statement with hypotheses: states and operands that meet all of them together. -/

set_option Elab.async false

/-- The operands `s3, s1, s2`. -/
def abd : FmtA := ⟨false, 2, false, 1, 3⟩

/-! Decoding and stepping. -/

theorem meets_canonical : State.reset.Canonical ∧ ∃ t, step State.reset = .next t := by
  refine ⟨?_, ?_⟩
  · unfold State.Canonical; decide
  · exact ⟨_, rfl⟩

theorem meets_well_formed : encode (.aluAdd abd) ≠ 0 ∧ wellFormed (.aluAdd abd) = true ∧ encode (.vaddF32 ⟨false, 7, 3⟩) ≠ 0 ∧
    wellFormed (.vaddF32 ⟨false, 7, 3⟩) = true := by decide

/-- A core whose strand in slot 0 is ready at a page of its scratchpad that holds `alu.add s3, s1, s2` and then `vadd.f32 v3, v3, v7`. -/
noncomputable def ready : State := (State.reset.withFetchWord 32 0x00404303)

/-- The state in which the core of a state comes to its next cycle. -/
noncomputable def turned (s : State) : State := (s.turn s.core).getD s

theorem meets_step_word : ∃ f1 l1 f2 l2, ready.agenda = [] ∧ ready.turn ready.core = some (turned ready) ∧ (turned ready).choice ready.core = some 0 ∧
    ((turned ready).focus ready.core 0).me.stage = 0 ∧ ((turned ready).focus ready.core 0).me.cur = none ∧
    fetchLoc ((turned ready).focus ready.core 0).me.pc ((turned ready).focus ready.core 0) = .ok (l1, f1) ∧ ofBytes (f1.bytes l1 2) % 2 = 1 ∧
    fetchLoc (((turned ready).focus ready.core 0).me.pc + 2) f1 = .ok (l2, f2) ∧ decode (f1.bytes l1 2 ++ f2.bytes l2 2) = .ok (.aluAdd abd, []) :=
  ⟨_, _, _, _, rfl, rfl, by decide +kernel, by decide +kernel, by decide +kernel, rfl, by decide +kernel, rfl, by decide +kernel⟩

theorem meets_step_halfword : ∃ f1 l1, (State.reset.withFetchWord 16 0x1C60).agenda = [] ∧
    (State.reset.withFetchWord 16 0x1C60).turn 0 = some (turned (State.reset.withFetchWord 16 0x1C60)) ∧
    (turned (State.reset.withFetchWord 16 0x1C60)).choice 0 = some 0 ∧
    fetchLoc ((turned (State.reset.withFetchWord 16 0x1C60)).focus 0 0).me.pc ((turned (State.reset.withFetchWord 16 0x1C60)).focus 0 0) = .ok (l1, f1) ∧
    decode (f1.bytes l1 2) = .ok (.vaddF32 ⟨false, 7, 3⟩, []) :=
  ⟨_, _, rfl, rfl, by decide +kernel, rfl, by decide +kernel⟩

/-- The second word is the highest address of form codes above the last one of major opcode 4. -/
theorem meets_reserved : (0x5F / 2 % 128 = 0x2F) ∧ (0xF0000009 / 2 % 128 = 0x04 ∧ 7 ≤ 0xF0000009 / 2 ^ 28 % 2 ^ 4) ∧
    (0x50000005 / 2 % 128 = 0x02 ∧ 5 ≤ 0x50000005 / 2 ^ 28 % 2 ^ 4) ∧ (0x70000007 / 2 % 128 = 0x03 ∧ 7 ≤ 0x70000007 / 2 ^ 28 % 2 ^ 4) ∧
    (0x30000033 / 2 % 128 = 0x19 ∧ 3 ≤ 0x30000033 / 2 ^ 28 % 2 ^ 4) ∧ (0x62B / 2 % 128 = 0x15 ∧ 6 ≤ 0x62B / 2 ^ 8 % 2 ^ 3) := by decide

/-! Scalar forms. -/

theorem meets_two_source :
    let s := has (.aluAdd abd)
    s.Begins (.aluAdd abd) ∧ s.me.prefixed = false ∧ srcOk false (1 : Code) = true ∧ srcOk false (2 : Code) = true ∧ dstOk (3 : Code) = true ∧ s.src 1 = some 5 ∧
    (s.took 1 false 5).src 2 = some 7 ∧ ((s.took 1 false 5).took 2 false 7).room 3 = true ∧ s.NoLoop := by
  unfold State.Begins State.NoLoop; decide +kernel

/-- A register read with y and rewritten by the same instruction. -/
theorem meets_two_source_emptied :
    let o : FmtA := ⟨true, 2, true, 1, 2⟩
    let s := has (.aluSub o)
    s.Begins (.aluSub o) ∧ s.me.prefixed = false ∧ srcOk true (1 : Code) = true ∧ srcOk true (2 : Code) = true ∧ dstOk (2 : Code) = true ∧ s.src 1 = some 5 ∧
    (s.took 1 true 5).src 2 = some 7 ∧ ((s.took 1 true 5).took 2 true 7).room 2 = true := by
  unfold State.Begins; decide +kernel

theorem meets_one_source :
    let o : FmtUn := ⟨false, 1, 56⟩
    let s := has (.bitsClz o)
    s.Begins (.bitsClz o) ∧ s.me.prefixed = false ∧ srcOk o.x o.a = true ∧ dstOk o.d = true ∧ s.src o.a = some 5 ∧ (s.took o.a o.x 5).room o.d = true := by
  unfold State.Begins; decide +kernel

theorem meets_gather : (63 < 64) ∧ (0x8000000000000001 : Word).getLsbD 63 = true ∧ (62 < 64) ∧ (0x8000000000000001 : Word).getLsbD 62 = false ∧
    (List.range 64).countP (fun j => (0x8000000000000001 : Word).getLsbD j) ≤ 2 := by decide

theorem meets_immediate :
    (let o : FmtI := ⟨0x7FF, false, 1, 3⟩
     let s := has (.addi o)
     s.Begins (.addi o) ∧ s.me.prefixed = false ∧ srcOk o.x o.a = true ∧ dstOk o.d = true ∧ s.src o.a = some 5 ∧ (s.took o.a o.x 5).room o.d = true) ∧
    (let o : FmtSh := ⟨63, true, 1, 3⟩
     let s := has (.shli o)
     s.Begins (.shli o) ∧ s.me.prefixed = false ∧ srcOk o.x o.a = true ∧ dstOk o.d = true ∧ s.src o.a = some 5 ∧ (s.took o.a o.x 5).room o.d = true) ∧
    (let o : FmtLi := ⟨0x20000, 3⟩
     let s := has (.ldi o)
     s.Begins (.ldi o) ∧ s.me.prefixed = false ∧ dstOk o.d = true ∧ s.room o.d = true) ∧
    (let o : FmtLi := ⟨0x3FFFF, 1⟩
     let s := has (.ldih o)
     s.Begins (.ldih o) ∧ s.me.prefixed = false ∧ (o.d.toNat < 32 ∨ o.d.toNat = 56) ∧ s.src o.d = some 5 ∧ s.room o.d = true) := by
  unfold State.Begins; decide +kernel

theorem meets_long_latency :
    let s := has (.mulDiv abd)
    s.Begins (.mulDiv abd) ∧ s.me.prefixed = false ∧ srcOk false abd.a = true ∧ srcOk false abd.b = true ∧ dstOk abd.d = true ∧ s.accepts abd.d = true ∧
    s.src abd.a = some 5 ∧ (s.took abd.a false 5).src abd.b = some 7 := by
  unfold State.Begins; decide +kernel

/-- A strand that has fetched i with a pending prefix: single precision, mode 1, scale register s7. -/
def prefixedS (i : Instr) : State := boxed { strand i with st := 0x05C00100, s := [(1, 0x3F800000), (2, 0x3F800001), (3, 0x40000000), (7, 1)] }

theorem meets_float :
    (let s := prefixedS (.sfpFaddS abd)
     s.Begins (.sfpFaddS abd) ∧ s.me.prefixed = true ∧ srcOk abd.x abd.a = true ∧ srcOk abd.y abd.b = true ∧ dstOk abd.d = true ∧ sfpCodes false s = true ∧
     s.src abd.a = some 0x3F800000 ∧ (s.took abd.a abd.x 0x3F800000).src abd.b = some 0x3F800001 ∧
     ((s.took abd.a abd.x 0x3F800000).took abd.b abd.y 0x3F800001).room abd.d = true) ∧
    (let s := has (.sfpFaddS abd)
     s.Begins (.sfpFaddS abd) ∧ sfpCodes false s = true ∧ s.accepts abd.d = true) ∧
    (let s := prefixedS (.sfmaFmaS abd)
     s.Begins (.sfmaFmaS abd) ∧ srcOk abd.x abd.a = true ∧ srcOk abd.y abd.b = true ∧ srcOk false abd.d = true ∧ dstOk abd.d = true ∧
     sfpCodes false s = true ∧ s.src abd.a = some 0x3F800000 ∧ (s.took abd.a abd.x 0x3F800000).src abd.b = some 0x3F800001 ∧
     ((s.took abd.a abd.x 0x3F800000).took abd.b abd.y 0x3F800001).src abd.d = some 0x40000000 ∧
     (((s.took abd.a abd.x 0x3F800000).took abd.b abd.y 0x3F800001).took abd.d false 0x40000000).room abd.d = true) ∧
    (let s := has (.scmpFeqS abd)
     s.Begins (.scmpFeqS abd) ∧ s.me.prefixed = false ∧ srcOk abd.x abd.a = true ∧ srcOk abd.y abd.b = true ∧ dstOk abd.d = true ∧ s.src abd.a = some 5 ∧
     (s.took abd.a abd.x 5).src abd.b = some 7 ∧ ((s.took abd.a abd.x 5).took abd.b abd.y 7).room abd.d = true) := by
  unfold State.Begins; decide +kernel

theorem meets_float_long :
    (let s := prefixedS (.sfpFdivS abd)
     s.Begins (.sfpFdivS abd) ∧ srcOk abd.x abd.a = true ∧ srcOk abd.y abd.b = true ∧ dstOk abd.d = true ∧ sfpCodes false s = true ∧ s.accepts abd.d = true ∧
     s.src abd.a = some 0x3F800000 ∧ (s.took abd.a abd.x 0x3F800000).src abd.b = some 0x3F800001) ∧
    (let o : FmtUn := ⟨false, 1, 3⟩
     let s := prefixedS (.sfpFsqrtS o)
     s.Begins (.sfpFsqrtS o) ∧ srcOk o.x o.a = true ∧ dstOk o.d = true ∧ sfpCodes false s = true ∧ s.accepts o.d = true ∧ s.src o.a = some 0x3F800000) ∧
    (let o : FmtUn := ⟨false, 1, 3⟩
     let s := prefixedS (.scvtDS o)
     s.Begins (.scvtDS o) ∧ srcOk o.x o.a = true ∧ dstOk o.d = true ∧ formatsOk .any .any .any s = true ∧ s.src o.a = some 0x3F800000 ∧
     (s.took o.a o.x 0x3F800000).room o.d = true) := by
  unfold State.Begins; decide +kernel

theorem meets_nan : (valueOf 0 0x7F800001).isNan = true ∧ (valueOf 0 0x7F800001).isSig = true ∧ (valueOf 10 0x3FF0000000000000).isNan = false := by decide +kernel

/-! System registers, control transfer, loops, strands and traps. -/

theorem meets_system_registers :
    (let o : FmtMfs := ⟨0x71, 1⟩
     let s := has (.mfs o)
     s.Begins (.mfs o) ∧ s.me.prefixed = false ∧ dstOk o.d = true ∧ s.room o.d = true ∧ s.core < 3840) ∧
    (let o : FmtMts := ⟨6, false, 1⟩
     let s := has (.mts o)
     s.Begins (.mts o) ∧ s.me.prefixed = false ∧ srcOk o.x o.a = true ∧ writeAllowed o.i.toNat s.me = true ∧ s.src o.a = some 5 ∧ s.me.spec = none ∧ s.me.live = true ∧
     Tbl.sortedFrom 0 s.me.lc = true ∧ Tbl.sortedFrom 0 s.me.lb = true ∧ Tbl.sortedFrom 0 s.me.le = true) ∧
    (let o : FmtMts := ⟨0x30, false, 1⟩
     let s := has (.mts o)
     s.Begins (.mts o) ∧ s.me.priv = false ∧ o.i.toNat ∈ [0x030, 0x031, 0x032, 0x049, 0x04A, 0x050, 0x058, 0x059, 0x05A, 0x078]) ∧
    (let o : FmtMts := ⟨1, false, 1⟩
     let s := has (.mts o)
     s.Begins (.mts o) ∧ s.me.priv = false ∧ o.i.toNat ∈ [1, 2, 3, 4, 5] ∧ s.me.inTrap = false) ∧
    ({ strand .eret with st := 0x20000000 }.inTrap = true ∧ { strand .eret with priv := true }.priv = true) := by
  unfold State.Begins; decide +kernel

theorem meets_branches :
    (let o : FmtB := ⟨0x800, 2, 1⟩
     let s := has (.brLt o)
     s.Begins (.brLt o) ∧ s.me.prefixed = false ∧ srcOk false o.a = true ∧ srcOk false o.b = true ∧ s.src o.a = some 5 ∧ (s.took o.a false 5).src o.b = some 7) ∧
    (let o : FmtZ := ⟨0x7FF, 1⟩
     let s := has (.bzEq0 o)
     s.Begins (.bzEq0 o) ∧ s.me.prefixed = false ∧ srcOk false o.a = true ∧ s.src o.a = some 5) := by
  unfold State.Begins; decide +kernel

theorem meets_jumps :
    (let s := has (.jmp ⟨0x7FF⟩); s.Begins (.jmp ⟨0x7FF⟩) ∧ s.me.prefixed = false) ∧
    (let s := has (.call ⟨4⟩); s.Begins (.call ⟨4⟩) ∧ s.me.prefixed = false ∧ s.me.owes 31 = false) ∧
    (let o : FmtSrc := ⟨false, 1⟩
     let s := has (.jr o)
     s.Begins (.jr o) ∧ s.me.prefixed = false ∧ srcOk o.x o.a = true ∧ s.src o.a = some 5 ∧ (5 : Word).getLsbD 0 = true) ∧
    (let o : FmtSrc := ⟨false, 31⟩
     let s := has (.callr o)
     s.Begins (.callr o) ∧ s.me.prefixed = false ∧ srcOk o.x o.a = true ∧ s.me.owes 31 = false ∧ s.src o.a = some 0x30000 ∧ (0x30000 : Word).getLsbD 0 = false) ∧
    (let s := has .ret; s.Begins .ret ∧ s.me.prefixed = false ∧ s.src 31 = some 0x30000) ∧
    (let s := boxed { strand .ret with sFull := 0x7FFFFFFF }; s.Begins .ret ∧ s.me.prefixed = false ∧ s.me.sFull.getLsbD 31 = false) := by
  unfold State.Begins; decide +kernel

/-- All three loop levels are taken. -/
def looping (i : Instr) : State := boxed { strand i with lc := [(0, 1), (1, 1), (2, 2)], lb := [(2, 0xFFF0)], le := [(2, 0x10004)] }

theorem meets_loops :
    (let o : FmtLoop := ⟨3, false, 1, false⟩
     let s := has (.loop o)
     s.Begins (.loop o) ∧ s.me.prefixed = false ∧ srcOk o.x o.a = true ∧ s.src o.a = some 5 ∧ (5 : Word) ≠ 0 ∧ s.me.freeLevel = some 0) ∧
    (let o : FmtLoop := ⟨3, false, 56, false⟩
     let s := has (.loop o)
     s.Begins (.loop o) ∧ s.me.prefixed = false ∧ srcOk o.x o.a = true ∧ s.src o.a = some 0) ∧
    (let o : FmtLoop := ⟨3, false, 1, false⟩
     let s := looping (.loop o)
     s.Begins (.loop o) ∧ s.me.prefixed = false ∧ srcOk o.x o.a = true ∧ s.src o.a = some 5 ∧ s.me.freeLevel = none) ∧
    ((looping .ret).me.inTrap = false ∧ (looping .ret).me.innermost = some 2 ∧ (looping .ret).me.fetcher = none ∧
     ((looping .ret).me.lbAt 2).getLsbD 0 = false ∧ (looping .ret).me.lcAt 2 ≠ 0 ∧ (looping .ret).me.lcAt 2 ≠ 1) ∧
    (let s := boxed { strand .ret with lc := [(0, 1)], lb := [(0, 0x10000)], le := [(0, 0x10004)] }
     s.me.inTrap = false ∧ s.me.innermost = some 0 ∧ s.me.fetcher = none ∧ (s.me.lbAt 0).getLsbD 0 = false ∧ s.me.lcAt 0 = 1 ∧
     s.me.lc.all (fun e => e.1 = 0) = true ∧ Tbl.sortedFrom 0 s.me.lc = true) := by
  unfold State.Begins; decide +kernel

/-- The operands of `iloop s1` with a body of 3 halfwords. -/
def loop3 : FmtLoop := ⟨3, false, 1, false⟩

/-- A claim descriptor: the counter in the own slice, one level of 100 iterations, three claimants. -/
def nest : List Word := [0x8000400000000200, 0x300010101, 100, 1, 1, 1]

theorem meets_iloop :
    let s := withRec (.iloop loop3) [(1, recA)] nest
    let s2 := nest.foldl (fun (u : State) w => u.pushRead ⟨w, .nothing⟩) (s.took loop3.a false recA)
    s.Begins (.iloop loop3) ∧ s.me.prefixed = false ∧ srcOk false loop3.a = true ∧ s.acquirePending = false ∧ s.src loop3.a = some recA ∧ s.me.fetcher = none ∧
    s.me.freeLevel ≠ none ∧ Reads 1 recA 6 (s.took loop3.a false recA) nest s2 ∧ nestOf nest = some ⟨0, 0, 100, 0, 1, 1, 3, 100, 1, 1, 1⟩ ∧
    Admits .update (nest.getD 0 0) 8 8 (fun _ => true) s2 (plcS 0x200) s2 ∧ (plcS 0x200).replay = none ∧ s2.parkedPage (plcS 0x200).named = none ∧
    s2.requestRoom 1 = true ∧ s2.crosses false (homeOf (plcS 0x200).loc) (plcS 0x200).loc 8 = false ∧ s2.parkedOverlap (plcS 0x200).named 8 = false := by
  unfold State.Begins
  exact ⟨by decide, by decide, by decide, by decide, by decide, by decide, by decide, reads_of_dwords rfl (by decide) (by decide) rfl (by decide +kernel), rfl,
    admits_of_leads (ad := .slice 0 0x200) (by decide +kernel) rfl rfl ⟨rfl, rfl, rfl⟩ (by decide +kernel), rfl, by decide +kernel, by decide +kernel, by decide +kernel, by decide +kernel⟩

/-- A strand that waits for the reply to its claim. -/
def claiming (chunk : Word) : State :=
  { boxed { strand (.iloop loop3) with stage := 7, work := [3, 0], status := .out, fetcher := some ⟨3, 0, 100, 0, 1, 1, 3, 100, 1, 1, 1⟩ } with
    acks := [⟨1, 0, 0, 1, .store, true⟩, ⟨9, 0, 0, 1, .reply ⟨40, [chunk], 0⟩, true⟩] }

theorem meets_claim_reply : ∀ s ∈ [claiming 0, claiming 6],
    let r : StrandRef := ⟨0, 0⟩
    s.relocking r.core = false ∧ (s.strandOf r).dying = false ∧ (s.strandOf r).stage = 7 ∧ (s.strandOf r).fetcher = some ⟨3, 0, 100, 0, 1, 1, 3, 100, 1, 1, 1⟩ ∧
    (s.strandOf r).work = [3, 0] ∧
    s.acks.find? (fun a => a.core = r.core && a.slot = r.slot && a.uid = (s.strandOf r).uid && (match a.body with | .reply _ => true | _ => false)) =
      some ⟨9, 0, 0, 1, .reply ⟨40, [if s = claiming 0 then 0 else 6], 0⟩, true⟩ ∧ (s.strandOf r).freeLevel = some 0 := by decide +kernel

/-- A strand whose loop, at level 2, claims its iterations, with one of them left. -/
def claimLoop : State :=
  boxed { strand .ret with lc := [(2, 1)], lb := [(2, 0x10004)], le := [(2, 0x10010)], fetcher := some ⟨2, 40, 100, 0x8000400000000200, 1, 1, 3, 100, 1, 1, 1⟩ }

/-- The reply to its claim comes. -/
def lapped (chunk : Word) : State :=
  { claimLoop.modMe (fun m => { m with stage := 8, status := .out }) with acks := [⟨9, 0, 0, 1, .reply ⟨44, [chunk], 0⟩, true⟩] }

theorem meets_claim_again :
    (let s := claimLoop
     s.me.inTrap = false ∧ s.me.innermost = some 2 ∧ s.me.fetcher = some ⟨2, 40, 100, 0x8000400000000200, 1, 1, 3, 100, 1, 1, 1⟩ ∧ s.me.lcAt 2 = 1 ∧
     s.acquirePending = false ∧ s.crosses false (homeOf (plcS 0x200).loc) (plcS 0x200).loc 8 = false ∧ s.parkedOverlap (plcS 0x200).named 8 = false ∧ s.Sends (plcS 0x200)) ∧
    Admits .update (word 0x8000400000000200) 8 8 (fun _ => true) claimLoop (plcS 0x200) claimLoop ∧
    (∀ s ∈ [lapped 0, lapped 6],
     let r : StrandRef := ⟨0, 0⟩
     s.relocking r.core = false ∧ (s.strandOf r).dying = false ∧ (s.strandOf r).stage = 8 ∧ (s.strandOf r).fetcher.isSome = true ∧ ((s.strandOf r).lbAt 2).getLsbD 0 = false ∧
     s.acks.find? (fun a => a.core = r.core && a.slot = r.slot && a.uid = (s.strandOf r).uid && (match a.body with | .reply _ => true | _ => false)) =
       some ⟨9, 0, 0, 1, .reply ⟨44, [if s = lapped 0 then 0 else 6], 0⟩, true⟩) := by
  unfold State.Sends
  exact ⟨by decide +kernel, admits_of_leads (ad := .slice 0 0x200) (by decide +kernel) (by decide +kernel) rfl ⟨rfl, rfl, rfl⟩ (by decide +kernel), by decide +kernel⟩

/-- Core 0 with every helper slot taken. -/
def crowded (i : Instr) : State :=
  (has i).modCore 0 (fun c => { c with slots := (0, withS i [(1, 0x40000), (2, 77)] |>.me) :: (List.range 15).map (fun k => (k + 1, strand i)) })

/-- A strand that starts another in core cycle 4. -/
def granting : State := (withS (.strandStart ⟨false, 2, false, 1, 3⟩) [(1, 0x40000), (2, 77)]).modCore 0 (fun c => { c with cycle := 5 })

theorem meets_strand_forms :
    (∀ s ∈ [granting, crowded (.strandStart ⟨false, 2, false, 1, 3⟩), granting.modCore 0 (fun c => { c with grantNext := 5 })],
     let o : FmtA := ⟨false, 2, false, 1, 3⟩
     let s2 := (s.took o.a o.x 0x40000).took o.b o.y 77
     s.Begins (.strandStart o) ∧ s.me.prefixed = false ∧ srcOk o.x o.a = true ∧ srcOk o.y o.b = true ∧ dstOk o.d = true ∧ s.slot = 0 ∧
     s.accepts o.d = true ∧ s.src o.a = some 0x40000 ∧ (s.took o.a o.x 0x40000).src o.b = some 77 ∧ (0x40000 : Word).getLsbD 0 = false ∧
     s2.room o.d = true) ∧
    (granting.myCore.grantNext ≤ granting.myCore.cycle - 1 ∧ granting.myCore.freeHelper (granting.myCore.cycle - 1) = some 1 ∧
     (crowded .ret).myCore.grantNext ≤ (crowded .ret).myCore.cycle - 1 ∧ (crowded .ret).myCore.freeHelper ((crowded .ret).myCore.cycle - 1) = none) ∧
    (let s := granting.modCore 0 (fun c => { c with grantNext := 5 })
     s.myCore.cycle - 1 < s.myCore.grantNext) ∧
    (let s2 := (granting.took 1 false 0x40000).took 2 false 77
     let m := s2.me
     ((s2.enter s2.core 1 (s2.myCore.cycle - 1) (fun x => { x with
        status := .out, stage := 12, pc := 0x40000, s := Tbl.set [] 1 77 0, st := m.st &&& 3, ctx := m.ctx, tspace := m.tspace, tvec := m.tvec,
        heapb := m.heapb, heapl := m.heapl, heapo := m.heapo, priv := m.priv, sag := m.sag, task := m.task, spec := m.spec, seq := m.seq, undob := m.undob,
        undop := m.undop })).modMe (fun m => { m with stage := 9, work := [3, 1] })).room 3 = true) ∧
    (let s := has .strandHalt
     s.Begins .strandHalt ∧ s.me.prefixed = false ∧ s.me.laneLoads = 0) ∧
    (let s := has (.strandSlot ⟨3⟩)
     s.Begins (.strandSlot ⟨3⟩) ∧ s.me.prefixed = false ∧ dstOk (3 : Code) = true ∧ s.room 3 = true) ∧
    (let o : FmtTwo := ⟨false, 2, true, 1⟩
     let s := withS (.strandQbind o) [(1, 7), (2, 0x21)]
     let s2 := (s.took o.a o.x 7).took o.b o.y 0x21
     s.Begins (.strandQbind o) ∧ s.me.prefixed = false ∧ srcOk o.x o.a = true ∧ srcOk o.y o.b = true ∧ s.src o.a = some 7 ∧
     (s.took o.a o.x 7).src o.b = some 0x21 ∧ (s2.myCore.queue (bitsOf (7 : Word) 0 3)).poppers = [] ∧
     (s2.myCore.queue (bitsOf (7 : Word) 0 3)).pushers = []) := by
  unfold State.Begins; decide +kernel

/-- A strand that has read s1 with y, and popped 9 and then 10 from q0. -/
def hasRead : State := boxed { strand .eret with sFull := 0xFFFFFFFD, reads := [⟨5, .bit 1⟩, ⟨9, .head 0 false⟩, ⟨10, .head 0 true⟩] }

/-- R449: the full bit is set again, and the entries return to the head of q0 in their order. -/
theorem test_trap_undoes_reads :
    (match takeTrapCode 31 0x10000 5 hasRead with | .next t => (t.me.sFull, (t.myCore.queue 0).entries, t.me.pc, t.me.reads) | _ => (0, [], 0, [])) =
    (BitVec.allOnes 32, [9, 10], 0x20000, []) := by decide +kernel

theorem meets_trap_entry :
    (let s := hasRead
     s.me.inTrap = false ∧ (31 < 256 ∧ 31 ≠ 12) ∧ bitsOf s.me.tvec 1 63 ≠ 0 ∧ (⟨5, .bit 1⟩ : Read) ∈ s.me.reads ∧ 1 < 32) ∧
    (let s := has .eret
     s.me.inTrap = false ∧ (17 < 256 ∧ 17 ≠ 12) ∧ bitsOf s.me.tvec 1 63 ≠ 0 ∧ s.me.reads = []) ∧
    (∀ s ∈ [boxed { strand .eret with st := 0x20000000 }, boxed { strand .eret with tvec := 0 }],
     s.me.reads = [] ∧ s.me.spec = none ∧ s.me.uid ≠ 0 ∧ (s.me.inTrap = true ∨ bitsOf s.me.tvec 1 63 = 0) ∧
     s.owed s.core s.slot s.me.uid = false ∧ s.me.bodies = [] ∧ s.me.invoc = none) := by decide +kernel

theorem meets_trap_forms :
    (∀ f ∈ [Instr.trap, .sysc, .brk], (has (f ⟨0x1FF⟩)).Begins (f ⟨0x1FF⟩) ∧ (has (f ⟨0x1FF⟩)).me.prefixed = false) ∧
    (has (.brk ⟨0x1FF⟩)).myCore.dctl.getLsbD 5 = false ∧
    (((has (.brk ⟨0x1FF⟩)).modCore 0 (fun c => { c with dctl := 0x20 })).myCore.dctl.getLsbD 5 = true ∧
     ((has (.brk ⟨0x1FF⟩)).modCore 0 (fun c => { c with dctl := 0x20 })).myCore.stopped = false) := by
  unfold State.Begins; decide +kernel

theorem meets_eret :
    (∀ s ∈ [boxed { strand .eret with st := 0x20000000, epc := 0x40000 }, boxed { strand .eret with st := 0x20000000, epc := 0x40001 }],
     s.Begins .eret ∧ s.me.inTrap = true) ∧
    (has .eret).Begins .eret ∧ (has .eret).me.inTrap = false ∧ (has .eret).me.prefixed = false := by
  unfold State.Begins; decide +kernel

theorem meets_checks :
    (let s := prefixedS (.mulMul abd); s.Begins (.mulMul abd) ∧ s.me.prefixed = true) ∧
    (∀ i ∈ [Instr.ld ⟨0, 0, 3, false, 1, 3⟩, .lda ⟨false, 3, 2, 2, false, 1, 3⟩, .ldx ⟨false, 3, false, 2, false, 1, 3⟩, .ldb ⟨true, 63, true, 1, 3⟩,
        .st ⟨0, 0, 3, false, 1, 3⟩, .stl ⟨2, 2, 2, true, 1, 3⟩, .stb ⟨63, true, 1, 3⟩], (prefixedS i).Begins i ∧ (prefixedS i).me.prefixed = true) ∧
    (∀ i ∈ [Instr.lda ⟨false, 3, 63, 2, false, 1, 3⟩, .ldx ⟨false, 3, false, 2, false, 63, 3⟩, .ldb ⟨true, 63, true, 63, 3⟩, .stl ⟨2, 2, 63, true, 1, 3⟩,
        .stb ⟨63, true, 63, 3⟩], (has i).Begins i ∧ (has i).me.prefixed = false) ∧ srcOk true (63 : Code) = false ∧ srcOk false (63 : Code) = false ∧
    (let o : FmtA := ⟨false, 2, false, 1, 35⟩
     let s := has (.aluAdd o)
     s.Begins (.aluAdd o) ∧ s.me.prefixed = false ∧ (srcOk o.x o.a && srcOk o.y o.b && dstOk o.d) = false) ∧
    (let o : FmtM := ⟨0, 0, 3, false, 63, 3⟩
     let s := has (.ld o)
     s.Begins (.ld o) ∧ s.me.prefixed = false ∧ (srcOk o.x o.a && dstOk o.d) = false) ∧
    (let o : FmtM := ⟨0, 0, 3, false, 1, 63⟩
     let s := has (.st o)
     s.Begins (.st o) ∧ s.me.prefixed = false ∧ (srcOk o.x o.a && srcOk false o.d) = false) ∧
    (let o : FmtP := ⟨true, 3, 15, 0, 10, 2⟩
     let s := has (.pfx o)
     s.Begins (.pfx o) ∧ s.me.prefixed = false ∧ s.me.inTrap = false ∧ (boxed { strand (.pfx o) with st := 0x20000000 }).Begins (.pfx o) ∧
     (boxed { strand (.pfx o) with st := 0x20000000 }).me.inTrap = true) := by
  unfold State.Begins; decide +kernel

/-- Sources that give nothing now, at the ends of each range: s registers, the window registers of the left neighbour and one's own, and queues. -/
theorem meets_waiting :
    (∀ c ∈ [(0 : Code), 31, 32, 39, 40, 47, 48, 55],
     let s := boxed { strand (.aluAdd ⟨false, 2, false, c, 3⟩) with sFull := 4 }
     s.Starts (.aluAdd ⟨false, 2, false, c, 3⟩) ∧ srcOk false c = true ∧ srcOk false (2 : Code) = true ∧ dstOk (3 : Code) = true ∧ s.accepts 3 = true ∧ s.Lacks c) ∧
    (∀ c ∈ [(0 : Code), 31, 32, 39, 40, 47, 48, 55],
     let s := boxed { strand (.aluAdd ⟨false, c, false, 1, 3⟩) with sFull := 2 }
     s.Starts (.aluAdd ⟨false, c, false, 1, 3⟩) ∧ srcOk false c = true ∧ s.accepts 3 = true ∧ s.Gives 1 false 5 (s.took 1 false 5) ∧ (s.took 1 false 5).Lacks c) ∧
    (∀ d ∈ [(40 : Code), 47],
     let s := boxed { strand (.aluAdd ⟨false, 2, false, 1, d⟩) with woFull := 0xFF }
     s.Starts (.aluAdd ⟨false, 2, false, 1, d⟩) ∧ dstOk d = true ∧ s.accepts d = true ∧ s.Gives 1 false 5 (s.took 1 false 5) ∧
     (s.took 1 false 5).Gives 2 false 7 ((s.took 1 false 5).took 2 false 7) ∧ ((s.took 1 false 5).took 2 false 7).room d = false) ∧
    (∀ d ∈ [(48 : Code), 55],
     let s := (has (.aluAdd ⟨false, 2, false, 1, d⟩)).modCore 0 (fun c => c.modQueue (d.toNat - 48) (fun q => { q with entries := List.replicate 16 9, marks := List.replicate 16 false }))
     s.Starts (.aluAdd ⟨false, 2, false, 1, d⟩) ∧ dstOk d = true ∧ s.accepts d = true ∧ s.Gives 1 false 5 (s.took 1 false 5) ∧
     (s.took 1 false 5).Gives 2 false 7 ((s.took 1 false 5).took 2 false 7) ∧ ((s.took 1 false 5).took 2 false 7).room d = false) ∧
    (let s := boxed { strand (.aluAdd abd) with pending := [⟨5, 3, 0, 1, 64, true, true, false, none, recA, scratchLoc 0 0x100⟩] }
     s.Starts (.aluAdd abd) ∧ srcOk abd.x abd.a = true ∧ srcOk abd.y abd.b = true ∧ dstOk abd.d = true ∧ abd.d.toNat < 32 ∧ s.me.owes abd.d.toNat = true) ∧
    (∀ i ∈ [Instr.bitsClz ⟨true, 31, 3⟩, .addi ⟨1, true, 31, 3⟩, .shli ⟨1, true, 31, 3⟩],
     let s := boxed { strand i with sFull := 0 }
     s.Starts i ∧ srcOk true (31 : Code) = true ∧ dstOk (3 : Code) = true ∧ s.accepts 3 = true ∧ s.Lacks 31) := by
  unfold State.Starts State.Begins State.Gives State.Lacks
  refine ⟨?_, ?_, ?_, ?_, ?_, ?_⟩ <;> decide +kernel

/-- The frame of the scalar forms: each shape has a next state to speak of. -/
theorem meets_scalar_frame :
    (∃ t, exec (.aluAdd abd) (has (.aluAdd abd)) = .next t) ∧
    (let o : FmtUn := ⟨true, 1, 3⟩
     let s := has (.bitsClz o)
     (s.Begins (.bitsClz o) ∧ s.me.prefixed = false ∧ srcOk o.x o.a = true ∧ dstOk o.d = true ∧ s.src o.a = some 5 ∧ (s.took o.a o.x 5).room o.d = true ∧ s.NoLoop) ∧
     ∃ t, exec (.bitsClz o) s = .next t) ∧
    (let o : FmtI := ⟨0x7FF, false, 1, 3⟩
     let s := has (.addi o)
     (s.Begins (.addi o) ∧ s.me.prefixed = false ∧ srcOk o.x o.a = true ∧ dstOk o.d = true ∧ s.src o.a = some 5 ∧ (s.took o.a o.x 5).room o.d = true ∧ s.NoLoop) ∧
     ∃ t, exec (.addi o) s = .next t) ∧
    (let o : FmtSh := ⟨63, true, 1, 3⟩
     let s := has (.shli o)
     (s.Begins (.shli o) ∧ s.me.prefixed = false ∧ srcOk o.x o.a = true ∧ dstOk o.d = true ∧ s.src o.a = some 5 ∧ (s.took o.a o.x 5).room o.d = true ∧ s.NoLoop) ∧
     ∃ t, exec (.shli o) s = .next t) ∧
    (let o : FmtLi := ⟨0x20000, 3⟩
     let s := has (.ldi o)
     (s.Begins (.ldi o) ∧ s.me.prefixed = false ∧ dstOk o.d = true ∧ s.room o.d = true ∧ s.NoLoop) ∧ ∃ t, exec (.ldi o) s = .next t) ∧
    (let o : FmtLi := ⟨0x3FFFF, 1⟩
     let s := has (.ldih o)
     (s.Begins (.ldih o) ∧ s.me.prefixed = false ∧ (o.d.toNat < 32 ∨ o.d.toNat = 56) ∧ s.src o.d = some 5 ∧ s.room o.d = true ∧ s.NoLoop) ∧
     ∃ t, exec (.ldih o) s = .next t) := by
  unfold State.Begins State.NoLoop
  exact ⟨⟨_, rfl⟩, ⟨by decide +kernel, _, rfl⟩, ⟨by decide +kernel, _, rfl⟩, ⟨by decide +kernel, _, rfl⟩, ⟨by decide +kernel, _, rfl⟩, ⟨by decide +kernel, _, rfl⟩⟩

/-! Memory. -/

/-- An access by the strand that has read addresses and data of s as sources passes at place p with nothing else changed, and can be sent. -/
def Sendable (kd : Acc) (a : Word) (n : Nat) (p : Place) (s : State) : Prop :=
  Admits kd a n n (fun _ => true) s p s ∧ s.Sends p ∧ s.loadReady p (s.tagFor p) n = true ∧ s.releaseOk 2 = true ∧
  s.crosses false (s.homeFor p (s.tagFor p)) p.loc n = false

theorem meets_load_scratch :
    let o : FmtM := ⟨0x3F, 0, 3, true, 1, 3⟩
    let s := withS (.ld o) [(1, recA)]
    let u := s.took 1 true recA
    s.Starts (.ld o) ∧ dstOk o.d = true ∧ s.acquirePending = false ∧ s.accepts o.d = true ∧ s.Gives o.a o.x recA u ∧
    Sendable .load (recA + o.o.signExtend 64 * word 8) 8 (plc 0xF8) u := by
  unfold State.Starts State.Begins State.Gives
  refine ⟨by decide +kernel, by decide, by decide, by decide, by decide +kernel, fun _ _ => rfl, ?_⟩
  unfold State.Sends; decide +kernel

/-- Data whose fifth byte met poison return for register 3. -/
def poisoned : State :=
  { boxed { strand .ret with pending := [⟨5, 3, 0, 1, 64, true, true, false, none, recA, scratchLoc 0 0x100⟩] } with
    acks := [⟨9, 0, 0, 1, .data (.reg 5 0 64 0) 7 (some (scratchLoc 0 0x104)), true⟩] }

theorem meets_load_poison : ∀ s ∈ [poisoned, electing poisoned],
    let a : Ack := ⟨9, 0, 0, 1, .data (.reg 5 0 64 0) 7 (some (scratchLoc 0 0x104)), true⟩
    let p : Pend := ⟨5, 3, 0, 1, 64, true, true, false, none, recA, scratchLoc 0 0x100⟩
    s.acks[0]? = some a ∧ s.alive 0 0 a.uid = true ∧ (s.strandAt 0 0).dying = false ∧ s.relocking 0 = false ∧
    (s.strandAt 0 0).pending.find? (fun q => q.id = p.id) = some p ∧ p.parts = 1 ∧ p.bad = none ∧
    s.elects (s.strandAt 0 0).sag = decide (s = electing poisoned) := by decide +kernel

theorem meets_poison_trap :
    let s := boxed { strand .ret with stage := 9, work := [3], reply := some ⟨0x104, [], 14⟩ }
    s.me.stage = 9 ∧ s.me.work = [3] ∧ s.me.reply = some ⟨0x104, [], 14⟩ := by decide

theorem meets_load_global :
    let o : FmtLda := ⟨false, 3, 2, 2, false, 1, 3⟩
    let s := heap (.lda o) [(1, 0x40000000), (2, 0x10)]
    let v := (s.took 1 false 0x40000000).took 2 false 0x10
    (s.Starts (.lda o) ∧ dstOk o.d = true ∧ s.acquirePending = false ∧ s.accepts o.d = true ∧ s.Gives o.a o.x 0x40000000 (s.took 1 false 0x40000000) ∧
     (s.took 1 false 0x40000000).Gives o.b false 0x10 v) ∧ Sendable .load (0x40000000 + 0x10) 8 plcG v := by
  unfold State.Starts State.Begins State.Gives
  refine ⟨by decide +kernel, heap_admits .load 8 _ _ rfl (by decide +kernel), ?_⟩
  unfold State.Sends; decide +kernel

/-- Context 5 is live. -/
def withCtx5 (s : State) : State := s.modSag 0 (fun g => { g with ctxs := [(5, ⟨0, 0, 0, 1, .live, none⟩)] })

theorem meets_ldx :
    let o : FmtLdx := ⟨false, 3, false, 2, false, 1, 3⟩
    let s := withCtx5 (heap (.ldx o) [(1, 0x40000010), (2, 5)])
    let v := (s.took 1 false 0x40000010).took 2 false 5
    (s.Starts (.ldx o) ∧ dstOk o.d = true ∧ s.acquirePending = false ∧ s.accepts o.d = true ∧ s.Gives o.a o.x 0x40000010 (s.took 1 false 0x40000010) ∧
     (s.took 1 false 0x40000010).Gives o.b o.y 5 v) ∧ Admits .load 0x40000010 8 8 (fun _ => true) v plcG v ∧
    ((v.sagAt v.me.sag).map (fun g => (g.ldxOk 5, g.ldxOk 65535)) = some (true, false) ∧ plcG.addr.isGlobal = true ∧ v.loadReady plcG 5 8 = true) := by
  unfold State.Starts State.Begins State.Gives
  exact ⟨by decide +kernel, heap_admits .load 8 _ _ rfl (by decide +kernel), by decide +kernel⟩

theorem meets_pref :
    let o : FmtPref := ⟨0, 3, false, 1⟩
    let s := heap (.pref o) [(1, 0x40000000)]
    s.Starts (.pref o) ∧ s.Gives o.a o.x 0x40000000 (s.took 1 false 0x40000000) := by
  unfold State.Starts State.Begins State.Gives; decide +kernel

theorem meets_store :
    let o : FmtM := ⟨0x1F, 2, 3, true, 1, 3⟩
    let s := withS (.st o) [(1, recA), (3, 0x1234567890)]
    let u := s.took 1 true recA
    let v := u.took 3 false 0x1234567890
    (s.Starts (.st o) ∧ s.acquirePending = false ∧ s.Gives o.a o.x recA u ∧ u.Gives o.d false 0x1234567890 v) ∧
    Admits .store (recA + o.o.signExtend 64 * word 8) 8 8 (fun _ => true) v (plc 0x1F8) v ∧
    v.releaseOk (o.c.toNat - 2) = true ∧ v.crosses false (v.homeFor (plc 0x1F8) 0) (plc 0x1F8).loc 8 = false ∧ v.Sends (plc 0x1F8) := by
  unfold State.Starts State.Begins State.Gives State.Sends
  exact ⟨by decide +kernel, fun _ _ => rfl, by decide +kernel⟩

/-- A store that releases waits behind an earlier store of the strand that is still in flight. -/
theorem meets_store_held :
    let o : FmtM := ⟨0, 4, 3, true, 1, 3⟩
    let s := { withS (.st o) [(1, recA), (3, 7)] with net := [⟨1, 0, 0, 1, 0, some 0, none, 1, 0, 0x40000010, 0x100010, 8, homeOf 0x100010, .store [], 1, 0⟩] }
    let u := s.took 1 true recA
    let v := u.took 3 false 7
    (s.Starts (.st o) ∧ s.acquirePending = false ∧ s.Gives o.a o.x recA u ∧ u.Gives o.d false 7 v) ∧
    Admits .store (recA + o.o.signExtend 64 * word 8) 8 8 (fun _ => true) v (plc 0x100) v ∧ 2 ≤ o.c.toNat ∧ v.releaseOk (o.c.toNat - 2) = false := by
  unfold State.Starts State.Begins State.Gives
  exact ⟨by decide +kernel, fun _ _ => rfl, by decide +kernel⟩

theorem meets_stl :
    let o : FmtStl := ⟨2, 2, 2, true, 1, 3⟩
    let s := withS (.stl o) [(1, recA), (2, 8), (3, 7)]
    let u := s.took 1 true recA
    let v := u.took 2 false 8
    let w := v.took 3 false 7
    (s.Starts (.stl o) ∧ s.acquirePending = false ∧ s.Gives o.a o.x recA u ∧ u.Gives o.b false 8 v ∧ v.Gives o.d false 7 w) ∧
    Admits .store (recA + 8) 4 4 (fun _ => true) w (plc 0x108) w ∧ w.releaseOk o.k.toNat = true ∧
    w.crosses false (w.homeFor (plc 0x108) (w.tagFor (plc 0x108))) (plc 0x108).loc 4 = false ∧ w.Sends (plc 0x108) := by
  unfold State.Starts State.Begins State.Gives State.Sends
  exact ⟨by decide +kernel, fun _ _ => rfl, by decide +kernel⟩

/-- A page of the heap window whose stores are logged: a store to it parks. -/
theorem meets_store_parks : (⟨.global 0x40000010, 0x40000010, 0x100010, some .writeProtect⟩ : Place).replay = some .writeProtect ∧
    (has .ret).requestRoom 1 = true ∧ (has .ret).myCore.replay.length < 16 := by decide +kernel

/-- A field of 64 bits that spans three bank words. -/
theorem meets_ldb :
    let o : FmtLdb := ⟨true, 63, true, 1, 3⟩
    let s := withS (.ldb o) [(1, bitA)]
    let u := s.took 1 true bitA
    (s.Starts (.ldb o) ∧ dstOk o.d = true ∧ s.acquirePending = false ∧ s.accepts o.d = true ∧ s.Gives o.a o.x bitA u) ∧
    Admits .load (byteOfBit bitA) ((bitsOf bitA 0 3 + 64 + 7) / 8) 1 (fun _ => true) u (plc 0x101) u ∧
    (bitsOf bitA 60 4 = 8 ∧ resolve u u.myCluster u.me.sag (byteOfBit bitA) ((bitsOf bitA 0 3 + 64 + 7) / 8) ≠ none ∧
     bitPlace = { plc 0x101 with named := (plc 0x101).named - (plc 0x101).loc % 4, loc := (plc 0x101).loc - (plc 0x101).loc % 4 } ∧
     (plc 0x101).loc % 4 * 8 + bitsOf bitA 0 3 = 13 ∧ (bankWords 13 64).length = 3 ∧ u.requestRoom 3 = true ∧ u.parkedOverlap bitPlace.named 12 = false ∧
     ∀ x ∈ bankWords 13 64, u.crosses true (u.homeFor { bitPlace with named := bitPlace.named + x.1, loc := bitPlace.loc + x.1 } (u.tagFor bitPlace)) (bitPlace.loc + x.1) 4 = false) ∧
    (bitsOf (0x100 : Word) 60 4 ≠ 8 ∧ bitsOf (0x100 : Word) 60 4 ≠ 9) := by
  unfold State.Starts State.Begins State.Gives
  exact ⟨by decide +kernel, fun _ _ => rfl, by decide +kernel, by decide⟩

theorem meets_stb :
    let o : FmtStb := ⟨63, true, 1, 3⟩
    let s := withS (.stb o) [(1, bitA), (3, 7)]
    let u := s.took 1 true bitA
    let v := u.took 3 false 7
    (s.Starts (.stb o) ∧ s.acquirePending = false ∧ s.Gives o.a o.x bitA u ∧ u.Gives o.d false 7 v) ∧
    Admits .store (byteOfBit bitA) ((bitsOf bitA 0 3 + 64 + 7) / 8) 1 (fun _ => true) v (plc 0x101) v ∧
    (resolve v v.myCluster v.me.sag (byteOfBit bitA) ((bitsOf bitA 0 3 + 64 + 7) / 8) ≠ none ∧ (plc 0x101).replay = none ∧ v.requestRoom 3 = true ∧
     v.myCore.replay = [] ∧
     ∀ x ∈ bankWords 13 64, v.crosses false (v.homeFor { bitPlace with named := bitPlace.named + x.1, loc := bitPlace.loc + x.1 } (v.tagFor bitPlace)) (bitPlace.loc + x.1) 4 = false) := by
  unfold State.Starts State.Begins State.Gives
  exact ⟨by decide +kernel, fun _ _ => rfl, by decide +kernel⟩

/-- A bit field outside the bit addresses, and a full/empty store to a scratchpad. -/
theorem meets_space_traps :
    (let o : FmtStb := ⟨63, true, 1, 3⟩
     let s := withS (.stb o) [(1, 0x100), (3, 7)]
     let u := s.took 1 true 0x100
     s.Starts (.stb o) ∧ s.acquirePending = false ∧ s.Gives o.a o.x 0x100 u ∧ u.Gives o.d false 7 (u.took 3 false 7) ∧
     bitsOf (0x100 : Word) 60 4 ≠ 8 ∧ bitsOf (0x100 : Word) 60 4 ≠ 9) ∧
    (∀ p ∈ [(Instr.stfeFill, (3 : Code)), (.stfeForce, 3), (.stfeEmpty, 56)],
     let o : FmtFe := ⟨0, true, 1, p.2⟩
     let s := withS (p.1 o) [(1, recA), (3, 99)]
     let u := s.took 1 true recA
     s.Starts (p.1 o) ∧ s.acquirePending = false ∧ s.Gives o.a o.x recA u ∧ (∃ d, u.Gives o.d false d (u.took o.d false d)) ∧
     bitsOf (recA + o.o.signExtend 64 * 8) 60 4 = 8) := by
  unfold State.Starts State.Begins State.Gives
  refine ⟨by decide +kernel, ?_⟩
  intro p hp
  simp only [List.mem_cons, List.not_mem_nil, or_false] at hp
  rcases hp with rfl | rfl | rfl
  · exact ⟨by decide +kernel, by decide +kernel, by decide +kernel, ⟨99, by decide +kernel⟩, by decide +kernel⟩
  · exact ⟨by decide +kernel, by decide +kernel, by decide +kernel, ⟨99, by decide +kernel⟩, by decide +kernel⟩
  · exact ⟨by decide +kernel, by decide +kernel, by decide +kernel, ⟨0, by decide +kernel⟩, by decide +kernel⟩

theorem meets_full_empty :
    (let o : FmtFe := ⟨2, true, 1, 3⟩
     let s := heap (.ldfeTake o) [(1, 0x40000000)]
     let u := s.took 1 true 0x40000000
     (s.Starts (.ldfeTake o) ∧ dstOk o.d = true ∧ s.acquirePending = false ∧ s.accepts o.d = true ∧ s.Gives o.a o.x 0x40000000 u) ∧
     Admits .load (0x40000000 + o.o.signExtend 64 * 8) 8 8 (fun _ => true) u plcG u ∧ (u.requestRoom 1 = true ∧ u.parkedOverlap plcG.named 8 = false ∧
       u.crosses true (homeOf plcG.loc) plcG.loc 8 = false)) ∧
    (let o : FmtFe := ⟨2, true, 1, 3⟩
     let s := heap (.stfeFill o) [(1, 0x40000000), (3, 99)]
     let u := s.took 1 true 0x40000000
     let v := u.took 3 false 99
     (s.Starts (.stfeFill o) ∧ s.acquirePending = false ∧ s.Gives o.a o.x 0x40000000 u ∧ u.Gives o.d false 99 v) ∧
     Admits .store (0x40000000 + o.o.signExtend 64 * 8) 8 8 (fun _ => true) v plcG v ∧ v.releaseOk 2 = true ∧
       v.crosses false (homeOf plcG.loc) plcG.loc 8 = false ∧ v.Sends plcG) ∧
    (let o : FmtFe := ⟨0x3F, true, 1, 3⟩
     let s := withS (.ldfeLeave o) [(1, recA)]
     s.Starts (.ldfeLeave o) ∧ dstOk o.d = true ∧ s.acquirePending = false ∧ s.accepts o.d = true ∧ s.Gives o.a o.x recA (s.took 1 true recA) ∧
     bitsOf (recA + o.o.signExtend 64 * 8) 60 4 = 8) := by
  unfold State.Starts State.Begins State.Gives State.Sends
  exact ⟨⟨by decide +kernel, heap_admits .load 8 _ _ rfl (by decide +kernel), by decide +kernel⟩,
    ⟨by decide +kernel, heap_admits .store 8 _ _ rfl (by decide +kernel), by decide +kernel⟩, by decide +kernel⟩

theorem meets_full_empty_home : ∀ s ∈ [{ heap .ret [] with net := [atWord (.fe .take 0)] }, { heap .ret [] with net := [atWord (.fe .take 0)] }.setFull 0x100010 true],
    s.Arrives 0 (atWord (.fe .take 0)) ∧ s.fenced 0x100010 = false ∧ s.poisoned 0x100010 = false ∧
    (∀ f ∈ [FeOp.leave, .take, .state, .fill, .force, .empty], s.listedFe 0x100010 f = none) ∧ s.listRoom (homeOf 0x100010) = true := by
  unfold State.Arrives; decide +kernel

/-- A full/empty operation that was returned for lack of room comes to its word again; a home whose pseudo-channel reloads its table makes it wait. -/
theorem meets_fe_retry :
    let m := atWord (.fe .take 0)
    let t := { heap .ret [] with waiters := [⟨m, true⟩] }
    let w := { t with repair := [(stackOf 0x100010, { Repair.init with struck := [pseudoOf 0x100010] })] }
    t.waiters[0]? = some ⟨m, true⟩ ∧ t.stalled m = false ∧ (∀ h ∈ m.homes, t.awakeAt h = true) ∧ (∀ i, i < 8 → Tbl.find t.errs (poisonWord (m.loc + i)) = none) ∧
    w.waiters[0]? = some ⟨m, true⟩ ∧ w.stalled m = true := by decide +kernel

theorem meets_atomics :
    (let o : FmtAmo := ⟨2, 2, true, 1, 3⟩
     let s := heap (.amoAdd o) [(1, 0x40000010), (2, 6)]
     let u := s.took 1 true 0x40000010
     let v := u.took 2 false 6
     (s.Starts (.amoAdd o) ∧ dstOk o.d = true ∧ s.acquirePending = false ∧ s.accepts o.d = true ∧ s.Gives o.a o.x 0x40000010 u ∧ u.Gives o.b false 6 v ∧
      v.crosses false (homeOf plcG.loc) plcG.loc 8 = false ∧ v.parkedOverlap plcG.named 8 = false ∧ v.scopeTakes 2 plcG.addr = true) ∧ v.Sends plcG) ∧
    (let o : FmtAmo := ⟨0, 2, true, 1, 3⟩
     let s := withS (.amoCas o) [(1, recA), (2, 6), (3, 8)]
     let u := s.took 1 true recA
     let v := u.took 2 false 6
     let w := v.took 3 false 8
     (s.Starts (.amoCas o) ∧ dstOk o.d = true ∧ s.acquirePending = false ∧ s.accepts o.d = true ∧ s.Gives o.a o.x recA u ∧ u.Gives o.b false 6 v ∧
      v.Gives o.d false 8 w) ∧ Admits .update recA 8 8 (w.scopeTakes o.k.toNat) w (plc 0x100) w ∧
      (w.crosses false (homeOf (plc 0x100).loc) (plc 0x100).loc 8 = false ∧ w.parkedOverlap (plc 0x100).named 8 = false) ∧ w.Sends (plc 0x100)) ∧
    (let o : FmtRed := ⟨0, 2, true, 1⟩
     let s := boxed { strand (.redAdd o) with s := [(1, recA), (2, 6)], pend := 15 }
     let u := s.took 1 true recA
     let v := u.took 2 false 6
     (s.Starts (.redAdd o) ∧ s.acquirePending = false ∧ srcOk o.x o.a = true ∧ srcOk false o.b = true ∧ s.me.pend < 16 ∧ s.Gives o.a o.x recA u ∧
      u.Gives o.b false 6 v) ∧ Admits .update recA 8 8 (v.scopeTakes o.k.toNat) v (plc 0x100) v ∧
      v.crosses false (homeOf (plc 0x100).loc) (plc 0x100).loc 8 = false ∧ v.Sends (plc 0x100)) ∧
    (let o : FmtRed := ⟨0, 2, true, 1⟩
     let s := boxed { strand (.redAdd o) with pend := 16 }
     s.Starts (.redAdd o) ∧ s.acquirePending = false ∧ srcOk o.x o.a = true ∧ srcOk false o.b = true ∧ 16 ≤ s.me.pend) := by
  unfold State.Starts State.Begins State.Gives State.Sends
  exact ⟨⟨by decide +kernel, by decide +kernel⟩, ⟨by decide +kernel, fun _ _ => rfl, by decide +kernel, by decide +kernel⟩,
    ⟨by decide +kernel, fun _ _ => rfl, by decide +kernel, by decide +kernel⟩, by decide +kernel⟩

theorem meets_fences :
    (∀ i ∈ [Instr.fenceAcq ⟨0⟩, .fenceRel ⟨3⟩, .fenceFull ⟨3⟩, .fenceWred, .fenceWrep], (has i).Starts i) ∧
    (has (.fenceFull ⟨3⟩)).acquireOk = true ∧ (has (.fenceFull ⟨3⟩)).releaseOk 3 = true ∧ (∀ w ∈ (has (.fenceFull ⟨3⟩)).portWrites 0, (has (.fenceFull ⟨3⟩)).serial ≤ w.id) ∧
    (let s := { has (.fenceFull ⟨2⟩) with net := [atWord (.store (toBytes 8 5))] }
     s.Starts (.fenceFull ⟨2⟩) ∧ s.acquirePending = false ∧ s.releaseOk 2 = false) ∧
    (let s := (has (.fenceFull ⟨3⟩)).modDie 0 (fun d => { d with pwb := [⟨1, 0x1000, 0x2000000000000010, [1], 0, 0, 1⟩] })
     s.Starts (.fenceFull ⟨3⟩) ∧ s.acquirePending = false ∧ ∃ w ∈ s.portWrites s.myDie, w.id < s.serial) ∧
    (let s := { has (.fenceFull ⟨3⟩) with peers := [⟨1, 2, 4, 0, 0, [], [⟨3, 0, .write ⟨1, 0x1000, 0x3000000000000010, [1], 0, 0, 1⟩⟩], [], [], [2], 0, 0, 0, []⟩] }
     s.Starts (.fenceFull ⟨3⟩) ∧ s.acquirePending = false ∧ ∃ w ∈ s.portWrites s.myDie, w.id < s.serial) := by
  unfold State.Starts State.Begins; decide +kernel

theorem meets_checks_in_order : resolve (has .ret) 0 0 recA 8 = some (.scratch 0 0x100) ∧ resolve (has .ret) 0 0 0x1000000000000000 8 = none ∧
    bitsOf (0x1000000000000000 : Word) 60 4 ∉ [0, 8, 9] ∧ (has .ret).rangeLocked .load (plc 0x100).named 8 = none := by decide +kernel

/-- The issuer of the window of `heap`, with one lease over its page. -/
def someone : Issuer := ⟨0, 0, 0x40000000, 0x100000, 0x100000, some [⟨0x200000, 0x1000, true⟩]⟩

theorem meets_window : ∃ g, (heap .ret []).sagAt someone.sag = some g ∧ (0x40000010 + 2 ^ 64 - bitsOf someone.heapb 16 41 * 65536) % 2 ^ 64 = 0x10 ∧
    0x10 < bitsOf someone.heapl 16 41 * 65536 ∧ g.cfg.grantBase ≤ 0x100010 ∧ 0x100010 + 8 ≤ g.cfg.grantBase + g.cfg.grantLen ∧
    (Tbl.find (heap .ret []).keys (bitsOf someone.heapo 56 8)).isSome = true ∧ (heap .ret []).noAccess 0x100010 = false :=
  ⟨Saggar.form hostRecord, by decide +kernel, by decide +kernel, by decide +kernel, by decide +kernel, by decide +kernel, by decide +kernel, by decide +kernel⟩

theorem meets_homes : ∀ b ∈ [Body.load (.reg 3 0 64 0), .store (toBytes 8 5), .atomic .add 5 0 true],
    let s := { heap .ret [] with net := [atWord b] }
    head0.engine = false ∧ head0.ecc = ⟨false, false⟩ ∧ s.Arrives head0.k (atWord b) ∧ (atWord b).ctx = 0 ∧ s.waiters = [] ∧
    offDevice (atWord b).loc = false ∧ (∀ i, i < 8 → offDevice ((atWord b).loc + i) = false ∧ s.dead ((atWord b).loc + i) = false) ∧
    (∀ x ∈ dropAt s.net 0, (atWord b).twin x = false) := by
  unfold State.Arrives; decide +kernel

/-- Two lanes of one load that read one place. -/
theorem meets_twins :
    let m : Msg := { atWord (.load (.lane 2 0 0 64 0)) with op := 7 }
    let x : Msg := { atWord (.load (.lane 2 1 0 64 0)) with id := 8, op := 7 }
    let s := { heap .ret [] with net := [m, x] }
    s.Arrives 0 m ∧ x ∈ dropAt s.net 0 ∧ m.twin x = true ∧ (∀ i, i < 8 → s.dead (m.loc + i) = false) := by
  unfold State.Arrives; decide +kernel

/-- An older store of the same cluster on its way to the same word bars a load, whether it arrives or is sent again from a replay queue. -/
theorem meets_homes_barred :
    let s := { heap .ret [] with net := [{ atWord (.store (toBytes 8 5)) with id := 3 }, atWord (.load (.reg 3 0 64 0))] }
    s.net[1]? = some (atWord (.load (.reg 3 0 64 0))) ∧ s.barred 1 (atWord (.load (.reg 3 0 64 0))) = true ∧
    s.mustWait (atWord (.load (.reg 3 0 64 0))) = true := by decide +kernel

theorem meets_homes_canonical : ({ heap .ret [] with net := [atWord (.store (toBytes 8 5))] } : State).Canonical := by
  unfold State.Canonical; decide +kernel

theorem meets_answers :
    (let s : State := { boxed { strand .ret with status := .out, stage := 9, work := [3] } with acks := [⟨9, 0, 0, 1, .reply ⟨40, [], 0⟩, true⟩] }
     s.acks[0]? = some ⟨9, 0, 0, 1, .reply ⟨40, [], 0⟩, true⟩ ∧ s.relocking 0 = false ∧ s.alive 0 0 1 = true ∧ (s.strandAt 0 0).dying = false ∧
     (s.strandAt 0 0).stage ≠ 7 ∧ (s.strandAt 0 0).stage ≠ 8) ∧
    (let s : State := boxed { strand .ret with stage := 9, work := [3], reply := some ⟨40, [], 0⟩ }
     s.me.reply = some ⟨40, [], 0⟩ ∧ s.me.work = [(3 : Code).toNat] ∧ s.room 3 = true) ∧
    (let s : State := boxed { strand .ret with stage := 9, work := [3], reply := some ⟨40, [], 10⟩ }
     s.me.reply = some ⟨40, [], 10⟩ ∧ s.me.work = 3 :: []) ∧
    (let s : State := { boxed { strand .ret with pend := 4 } with acks := [⟨9, 0, 0, 1, .update, true⟩, ⟨9, 0, 0, 1, .store, true⟩] }
     s.acks[0]? = some ⟨9, 0, 0, 1, .update, true⟩ ∧ s.acks[1]? = some ⟨9, 0, 0, 1, .store, true⟩ ∧ s.alive 0 0 1 = true ∧ s.relocking 0 = false) ∧
    (let s : State := boxed { strand .ret with pending := [⟨5, 3, 77, 0, 64, false, false, false, none, 0, 0⟩] }
     ((s.strandOf ⟨0, 0⟩).pending.filter (fun p => !p.load && decide (p.parts = 0)))[0]? = some ⟨5, 3, 77, 0, 64, false, false, false, none, 0, 0⟩) ∧
    (let p : Pend := ⟨5, 3, 0, 1, 64, true, true, false, none, recA, scratchLoc 0 0x100⟩
     let s : State := { boxed { strand .ret with pending := [p] } with acks := [⟨9, 0, 0, 1, .data (.reg p.id 0 64 0) 7 none, true⟩] }
     s.acks[0]? = some ⟨9, 0, 0, 1, .data (.reg p.id 0 64 0) 7 none, true⟩ ∧ s.alive 0 0 1 = true ∧ (s.strandAt 0 0).dying = false ∧ s.relocking 0 = false ∧
     (s.strandAt 0 0).pending.find? (fun q => q.id = p.id) = some p ∧ p.parts = 1 ∧ p.bad = none ∧ p.width = 64 ∧ p.val = 0 ∧ p.d < 32) ∧
    (let w : PendWrite := ⟨3, 0x1000, 0x3000000000000010, [1, 2, 3], 0, 0, 1⟩
     (((has .ret).modDie 0 (fun d => { d with pwb := [w] })).dieAt 0).pwb = w :: [] ∧ (has .ret).cutOff w.loc = true ∧
     (has .ret).cutOff 0x2000000000000010 = false) ∧
    (let s : State := boxed { strand (.vredIsumQ ⟨37, 48, 3⟩) with stage := 9, work := [3], reply := some ⟨40, [], 0⟩, istate1 := 0x80 }
     s.me.reply = some ⟨40, [], 0⟩ ∧ s.me.work = [(3 : Code).toNat] ∧ s.room 3 = true ∧ isVredQ s.me.cur = true) ∧
    (let s := boxed { strand .ret with status := .parked (.reg 1) }
     (s.strandOf ⟨0, 0⟩).status = .parked (.reg 1) ∧ (s.strandOf ⟨0, 0⟩).live = true ∧ (s.strandOf ⟨0, 0⟩).dying = false ∧ (s.coreAt 0).saved = none ∧ s.relocking 0 = false) := by
  decide +kernel

/-- Answers to a core whose die relocks. -/
theorem meets_relocking : ∀ b ∈ [AckBody.reply ⟨40, [], 0⟩, .store, .update, .data (.reg 5 0 64 0) 7 none],
    let s := { (has .ret).modDie 0 (fun d => { d with relock := some 9 }) with acks := [⟨9, 0, 0, 1, b, true⟩] }
    s.relocking 0 = true ∧ s.acks[0]? = some ⟨9, 0, 0, 1, b, true⟩ ∧ s.alive 0 0 1 = true := by decide +kernel

/-- A peer whose pages hold the written words. -/
theorem meets_peer_drain :
    let w : PendWrite := ⟨3, 0x1000, 0x3000000000000010, [1, 2, 3], 0, 0, 1⟩
    let p : Peer := ⟨(Config.peerOf (w.loc % 2 ^ 60 / 65536)).1, (Config.peerOf (w.loc % 2 ^ 60 / 65536)).2, 4, 0, 0, [], [], [], [], [2], 0, 0, 0, []⟩
    let s : State := { (has .ret).modDie 0 (fun d => { d with pwb := [w] }) with peers := [p] }
    (s.dieAt 0).pwb = w :: [] ∧ spaceOf w.loc = 3 ∧ s.peers = [p] ∧ p.reaches w.loc = true := ⟨by decide +kernel, by decide +kernel, rfl, by simp [Peer.reaches, spaceOf]⟩

/-- A store of the strand that stands in its core's replay queue passes its checks again. -/
def parked : State :=
  (heap .ret []).modMyCore (fun c => { c with replay := [⟨[atWord (.store (toBytes 8 5))], .writeProtect, (0x40000000, 0x100000, 0x100000)⟩] })

theorem meets_replay :
    parked.relocking 0 = false ∧ (parked.coreAt 0).replay = [⟨[atWord (.store (toBytes 8 5))], .writeProtect, (0x40000000, 0x100000, 0x100000)⟩] ∧ (parked.coreAt 0).saved = none ∧
    (match parked.recheck (atWord (.store (toBytes 8 5))) (0x40000000, 0x100000, 0x100000) with
     | .ok (.go m', u) => decide ((u.coreAt 0).replay = (parked.coreAt 0).replay) && !u.mustWait m'
     | _ => false) = true := by decide +kernel

/-! Lanes. -/

/-- The strand in focus has fetched i and holds one group of lanes, with a few lanes and masks set. -/
def laned (i : Instr) : State :=
  boxed { strand i with g := 1, v := [(0, 0x3F800000), (1, 0x40000000), (15, 0x7F800001), (256, 2), (257, 15), (512, 0xFFFFFFFF)], m := [(0, 0x8001), (1, 0xFFFF)],
                        s := [(1, 0x40490FDB), (2, 7), (5, 15)] }

/-- Lane operands: `v2, v0, v1, v0.t` and `v2, v0, s2`. -/
def vab : FmtV := ⟨true, 1, 0, 2⟩
def vas : FmtV := ⟨false, 34, 0, 2⟩

theorem meets_lane_float :
    (let s := laned (.vfAdd vab)
     s.Begins (.vfAdd vab) ∧ vecOk vab.a = true ∧ vecOk vab.d = true ∧ vfCodes s = true ∧ s.LanesReady ∧ s.Broadcast vab.b none s ∧ s.scaleIs 0) ∧
    (let s := laned (.vfMul vas)
     s.Begins (.vfMul vas) ∧ vecOk vas.a = true ∧ vecOk vas.d = true ∧ vfCodes s = true ∧ s.LanesReady ∧ s.Broadcast vas.b (some 7) (s.took 2 false 7) ∧
     (s.took 2 false 7).scaleIs 0) ∧
    (let o : FmtVUn := ⟨true, 1, 0⟩
     let s := laned (.vfAbs o)
     s.Begins (.vfAbs o) ∧ vecOk o.d = true ∧ vf1Codes s = true ∧ s.LanesReady ∧ s.Broadcast o.b none s ∧ s.scaleIs 0) ∧
    (let o : FmtCvt := ⟨1, true, 1, 0, 0⟩
     let s := laned (.vcvt o)
     s.Begins (.vcvt o) ∧ formatsOk .any .any .any s = true ∧ vecOk o.b = true ∧ vecOk o.d = true ∧ s.LanesReady ∧ s.scaleIs 0) ∧
    (let o : FmtN := ⟨true, 1, 0⟩
     let s := laned (.vaddF32 o)
     s.Begins (.vaddF32 o) ∧ vfCodes s = true ∧ s.LanesReady ∧ s.scaleIs 0) ∧
    (let s := has (.vfAdd vab)
     s.Starts (.vfAdd vab) ∧ vecOk vab.a = true ∧ vecOk vab.d = true ∧ s.me.g = 0) := by
  unfold State.Starts State.Begins State.LanesReady State.scaleIs
  refine ⟨⟨by decide +kernel, rfl, rfl, rfl, by decide +kernel, ⟨rfl, rfl⟩, by decide⟩, ⟨by decide +kernel, rfl, rfl, rfl, by decide +kernel,
    ⟨7, ⟨rfl, by decide +kernel, rfl⟩, rfl⟩, by decide +kernel⟩, ⟨by decide +kernel, rfl, rfl, by decide +kernel, ⟨rfl, rfl⟩, by decide⟩, by decide +kernel,
    by decide +kernel, by decide +kernel⟩

theorem meets_lane_integer :
    (let s := laned (.viShl vab)
     s.Starts (.viShl vab) ∧ vecOk vab.a = true ∧ vecOk vab.d = true ∧ s.LanesReady ∧ s.Broadcast vab.b none s) ∧
    (let o : FmtN := ⟨true, 1, 0⟩
     let s := laned (.vshlI32 o)
     s.Starts (.vshlI32 o) ∧ s.LanesReady) ∧
    (let o : FmtV := ⟨true, 1, 0, 1⟩
     let s := laned (.vcmpIeq o)
     s.Begins (.vcmpIeq o) ∧ formatsOk .any .any .any s = true ∧ vecOk o.a = true ∧ maskOk o.d = true ∧ s.LanesReady ∧ s.Broadcast o.b none s ∧ s.scaleIs 0) ∧
    (let o : FmtV := ⟨true, 1, 0, 7⟩
     let s := laned (.vcmpFlt o)
     s.Begins (.vcmpFlt o) ∧ vecOk o.a = true ∧ maskOk o.d = true ∧ formatsOk .low .low .any s = true ∧ s.LanesReady ∧ s.Broadcast o.b none s ∧ s.scaleIs 0) := by
  unfold State.Starts State.Begins State.LanesReady State.scaleIs
  refine ⟨⟨by decide +kernel, rfl, rfl, by decide +kernel, rfl, rfl⟩, by decide +kernel, ⟨by decide +kernel, by decide +kernel, rfl, rfl, by decide +kernel, ⟨rfl, rfl⟩, by decide⟩,
    by decide +kernel, rfl, rfl, by decide +kernel, by decide +kernel, ⟨rfl, rfl⟩, by decide⟩

theorem meets_lane_moves :
    (let o : FmtVV := ⟨1, 0, 2⟩
     (laned (.vmskSel o)).Starts (.vmskSel o) ∧ (laned (.vpermPerm o)).Starts (.vpermPerm o) ∧ vecOk o.a = true ∧ vecOk o.b = true ∧ vecOk o.d = true ∧
     (laned (.vmskSel o)).LanesReady ∧ (laned (.vmskSel o)).Broadcast o.b none (laned (.vmskSel o))) ∧
    (let o : FmtVV := ⟨1, 0, 7⟩
     (laned (.vmskMand o)).Starts (.vmskMand o) ∧ maskOk o.a = true ∧ maskOk o.b = true ∧ maskOk o.d = true ∧ (laned (.vmskMand o)).LanesReady) ∧
    (let o : FmtVA := ⟨2, 2⟩
     let s := laned (.vmskMset o)
     s.Starts (.vmskMset o) ∧ maskOk o.d = true ∧ s.LanesReady ∧ s.Gives o.a false 7 (s.took 2 false 7) ∧ (laned (.vmskMnot o)).Starts (.vmskMnot o) ∧
     (laned (.vpermComp o)).Starts (.vpermComp o) ∧ (laned (.vpermExpd o)).Starts (.vpermExpd o) ∧ vecOk o.a = true ∧ vecOk o.d = true) ∧
    (let o : FmtVV := ⟨37, 0, 2⟩
     let s := laned (.vpermShup o)
     s.Starts (.vpermShup o) ∧ vecOk o.a = true ∧ bcOk o.b = true ∧ vecOk o.d = true ∧ s.LanesReady ∧ s.Gives (o.b - 32) false 15 (s.took 5 false 15)) ∧
    (let o : FmtVB := ⟨1, 2⟩
     (laned (.vpermRev o)).Starts (.vpermRev o) ∧ (laned (.vmovVmv o)).Starts (.vmovVmv o) ∧ vecOk o.b = true ∧ vecOk o.d = true) ∧
    (let o : FmtVV := ⟨37, 1, 2⟩
     let s := laned (.vmovStov o)
     let u := s.took 1 false 0x40490FDB
     s.Starts (.vmovStov o) ∧ bcOk o.b = true ∧ vecOk o.d = true ∧ s.LanesReady ∧ s.Gives o.a false 0x40490FDB u ∧ u.Gives (o.b - 32) false 15 (u.took 5 false 15)) := by
  unfold State.Starts State.Begins State.LanesReady State.Gives
  refine ⟨⟨by decide +kernel, by decide +kernel, rfl, rfl, rfl, by decide +kernel, rfl, rfl⟩, by decide +kernel, by decide +kernel, by decide +kernel,
    by decide +kernel, by decide +kernel⟩

/-- A strand with one group of lanes whose core's queue 0 is open to it and holds 1 and 2. -/
def queued (i : Instr) : State :=
  (laned i).modCore 0 (fun c => c.modQueue 0 (fun _ => ⟨[1, 2], some (0, 0), [], [], [true]⟩))

theorem meets_lane_scalars :
    (let o : FmtVA := ⟨1, 3⟩
     let s := laned (.vmskMfirst o)
     s.Starts (.vmskMfirst o) ∧ maskOk o.a = true ∧ dstOk o.d = true ∧ s.accepts o.d = true ∧ s.LanesReady ∧ s.NoLoop ∧ (∀ q ∈ s.me.pending, q.id ≠ s.serial)) ∧
    (let o : FmtVV := ⟨37, 0, 3⟩
     let s := laned (.vmovVtos o)
     s.Starts (.vmovVtos o) ∧ vecOk o.a = true ∧ bcOk o.b = true ∧ dstOk o.d = true ∧ s.accepts o.d = true ∧ s.LanesReady ∧ s.NoLoop ∧
     s.Gives (o.b - 32) false 15 (s.took 5 false 15)) ∧
    (let o : FmtVRed := ⟨true, 0, 3⟩
     let s := laned (.vredFmax o)
     s.Begins (.vredFmax o) ∧ vecOk o.a = true ∧ dstOk o.d = true ∧ redCodes .fmax s = true ∧ s.accepts o.d = true ∧ s.LanesReady ∧ s.NoLoop ∧ s.scaleIs 0) ∧
    (let o : FmtVV := ⟨37, 48, 3⟩
     let s := queued (.vredIsumQ o)
     let u := s.took 5 false 15
     s.Begins (.vredIsumQ o) ∧ queueOk o.a = true ∧ bcOk o.b = true ∧ dstOk o.d = true ∧ redCodes .isum s = true ∧ s.accepts o.d = true ∧
     s.Gives (o.b - 32) false 15 u ∧ u.scaleIs 0 ∧ s.me.istate1.getLsbD 63 = false ∧ (u.myCore.queue 0).admits u.slot false = true ∧
     (u.myCore.queue 0).poppers = [] ∧ (u.myCore.queue 0).entries.length < 15) ∧
    (let o : FmtVV := ⟨34, 48, 3⟩
     let s := boxed { (queued (.vredIsumQ o)).me with s := [(2, 1)] } |>.modCore 0 (fun c => c.modQueue 0 (fun _ => ⟨[1, 2], some (0, 0), [], [], [true]⟩))
     let u := s.took 2 false 1
     s.Begins (.vredIsumQ o) ∧ s.Gives (o.b - 32) false 1 u ∧ u.scaleIs 0 ∧ bitsOf (1 : Word) 0 48 ≤ (u.myCore.queue 0).entries.length ∧ u.room o.d = true) := by
  unfold State.Starts State.Begins State.LanesReady State.NoLoop State.Gives State.scaleIs
  refine ⟨?_, ?_, ?_, ?_, ?_⟩ <;> decide +kernel

theorem meets_lane_claims :
    (let o : FmtVA := ⟨5, 3⟩
     let s := has (.laneClaim o)
     s.Starts (.laneClaim o) ∧ dstOk o.d = true ∧ s.accepts o.d = true ∧ s.Gives o.a false 0 (s.took 5 false 0) ∧ ((0 : Word).toNat < 1)) ∧
    (let o : FmtVA := ⟨5, 3⟩
     let s := withS (.laneClaim o) [(5, 16)]
     s.Starts (.laneClaim o) ∧ s.Gives o.a false 16 (s.took 5 false 16) ∧ (16 : Word).toNat ≤ 16 ∧ s.me.g = 0 ∧ (s.clusterAt s.myCluster).claimants = [] ∧
     (s.took 5 false 16).resumes 0 = false ∧ 0 < (s.took 5 false 16).freeGroups 0 ∧ s.room o.d = true ∧ s.tooLate (s.clusterAt s.myCluster).lastClaim s.myRank = false ∧
     (s.modCluster 0 (fun c => { c with lastClaim := (0, 18) })).tooLate (0, 18) s.myRank = true) ∧
    (let o : FmtVA := ⟨5, 3⟩
     let s := (withS (.laneClaim o) [(5, 16)]).modCluster 0 (fun c => { c with claimants := [⟨⟨1, 0⟩, 4, 0⟩] })
     s.Starts (.laneClaim o) ∧ s.Gives o.a false 16 (s.took 5 false 16) ∧ s.me.g = 0 ∧ (s.clusterAt s.myCluster).claimants ≠ [] ∧ s.tooLate (s.clusterAt s.myCluster).lastClaim s.myRank = false) ∧
    (let o : FmtVA := ⟨1, 3⟩
     let s := boxed { strand (.laneClaim o) with g := 6 }
     s.Starts (.laneClaim o) ∧ dstOk o.d = true ∧ s.accepts o.d = true ∧ s.Gives o.a false 5 (s.took 1 false 5) ∧ (5 : Word).toNat < s.me.g ∧ s.me.laneQ = [] ∧
     s.me.laneLoads = 0) ∧
    (let o : FmtVA := ⟨2, 3⟩
     let s := boxed { strand (.laneClaim o) with g := 6 }
     s.Starts (.laneClaim o) ∧ s.Gives o.a false 7 (s.took 2 false 7) ∧ s.me.g ≠ 0 ∧ s.me.g ≤ (7 : Word).toNat ∧ s.me.laneQ = [] ∧ s.me.laneLoads = 0 ∧ s.tooLate (s.clusterAt s.myCluster).lastClaim s.myRank = false) ∧
    (let s := (boxed { strand .ret with status := .parked .lane, stage := 9, work := [3] }).modCluster 0 (fun c => { c with claimants := [⟨⟨0, 0⟩, 4, 0⟩] })
     (s.clusterAt 0).claimants = ⟨⟨0, 0⟩, 4, 0⟩ :: [] ∧ s.freeGroups 0 ≠ 0 ∧ s.relocking 0 = false ∧ (∀ i, i < 8 → (s.coreAt (8 * 0 + i)).saved = none ∨ (s.coreAt (8 * 0 + i)).halting = false)) ∧
    ((has .laneRel).Starts .laneRel ∧ (has .laneRel).me.g = 0 ∧ (boxed { strand .laneRel with g := 6 }).Starts .laneRel) ∧
    ((boxed { strand .laneSync with g := 6, shrink := some 2 }).Starts .laneSync) ∧
    (let s := has (.laneQuery ⟨3⟩)
     s.Starts (.laneQuery ⟨3⟩) ∧ dstOk (3 : Code) = true ∧ s.accepts 3 = true) ∧
    (let s := boxed { strand .ret with g := 6, shrink := some 2, rnWait := true }
     (s.strandOf ⟨0, 0⟩).live = true ∧ (s.strandOf ⟨0, 0⟩).rnWait = true ∧ (s.strandAt 0 0).shrink = some 2 ∧ 2 < (s.strandAt 0 0).g ∧
     (s.strandAt 0 0).laneQ = [] ∧ (s.strandAt 0 0).laneLoads = 0 ∧ (s.clusterAt (clusterOf 0)).claimants = []) := by
  unfold State.Starts State.Begins State.Gives
  refine ⟨?_, ?_, ?_, ?_, ?_, ?_, ?_, ?_, ?_, ?_⟩ <;> decide +kernel

/-- R261: a claim of the same arithmetic cycle goes before one of a higher core, and behind one of a lower core. -/
theorem meets_claims_of_one_cycle :
    let a : Claimant := ⟨⟨0, 3⟩, 4, 80⟩
    let b : Claimant := ⟨⟨2, 1⟩, 1, 80⟩
    let x : Claimant := ⟨⟨1, 5⟩, 2, 80⟩
    [a, b] = [a] ++ b :: [] ∧ (∀ z ∈ [a], z.cycle < x.cycle ∨ (z.cycle = x.cycle ∧ 16 * z.who.core + z.who.slot ≤ 16 * x.who.core + x.who.slot)) ∧
    b.cycle = x.cycle ∧ x.who.core < b.who.core ∧ (∀ z ∈ [a, b], z.who.slot < 16) ∧ Claimant.join x [a, b] = [a, x, b] ∧
    (∀ y ∈ [a, b], y.cycle < ({ x with cycle := 81 } : Claimant).cycle) := by decide

/-- The last element of a lane load comes: lane 1 of v2, poisoned or not, with traps elected or not. -/
def landing (bad : Option Nat) : State :=
  { boxed { strand .ret with g := 1, laneLoads := 1, laneIn := [(512, ⟨7, false, recA⟩), (513, ⟨0, false, recA + 4⟩)] } with
    acks := [⟨9, 0, 0, 1, .data (.lane 2 1 0 32 0) 0xABCD bad, true⟩] }

theorem meets_lane_data : ∀ bad ∈ [none, some 3], ∀ on ∈ [false, true],
    let s := (landing bad).modSag 0 (fun g => { g with cfg := { g.cfg with ptrap := on } })
    s.acks[0]? = some ⟨9, 0, 0, 1, .data (.lane 2 1 0 32 0) 0xABCD bad, true⟩ ∧ s.alive 0 0 1 = true ∧ (s.strandAt 0 0).dying = false ∧ s.relocking 0 = false ∧
    (s.strandAt 0 0).laneLoads = 1 ∧ (s.strandAt 0 0).laneQ = [] ∧ Tbl.sortedFrom 0 (s.strandAt 0 0).v = true ∧ Tbl.sortedFrom 0 (s.strandAt 0 0).laneIn = true ∧
    s.elects (s.strandAt 0 0).sag = on ∧
    (Tbl.upd (s.strandAt 0 0).laneIn (2 * 256 + 1) ⟨0, false, 0⟩ (fun e => { e with val := e.val ||| BitVec.ofNat 32 0xABCD, bad := e.bad || bad.isSome })).filter (fun e => e.2.bad) = (if bad.isSome then [(513, ⟨0xABCD, true, recA + 4⟩)] else []) := by decide +kernel

/-- R178: a poisoned element counts as 0 where poison traps are not elected, and raises POISON at its address where they are. -/
theorem test_lane_poison :
    (match exec (.loadDataReturn ⟨0, 0⟩ 0) (landing (some 3)) with | .next t => (t.me.laneAt 2 0, t.me.laneAt 2 1, t.me.reply.isSome) | _ => (9, 9, true)) = (7, 0, false) ∧
    (match exec (.loadDataReturn ⟨0, 0⟩ 0) (electing (landing (some 3))) with | .next t => (t.me.v, t.me.reply) | _ => ([], none)) = ([], some ⟨recA + 4, [], 14⟩) := by
  decide +kernel

/-- The elements of a lane access at the own scratchpad that mask 0 admits: lanes 0 and 15. -/
def twoLanes (f : Nat → Nat) : List (Nat × Place × Nat) := [(0, plc (f 0), 0), (15, plc (f 15), 0)]

/-- The strand in focus has fetched i and holds one group of lanes, with s1 a scratchpad address and s2 a stride of 12. -/
def lanedAt (i : Instr) (a : Word) : State := boxed { strand i with g := 1, v := [(256, 2), (271, 15)], m := [(0, 0x8001)], s := [(1, a), (2, 12)] }

theorem meets_lane_strided :
    let o : FmtV := ⟨true, 34, 1, 0⟩
    let s := lanedAt (.vlds o) recA
    let u := s.took 1 false recA
    let v := u.took 2 false 12
    (s.Starts (.vlds o) ∧ vecOk o.d = true ∧ s.LanesReady ∧ s.acquirePending = false ∧ s.Gives o.a false recA u ∧ bcOk o.b = true ∧ u.Gives (o.b - 32) false 12 v) ∧
    AdmitsAll (elementCheck .load 4 recA) (s.me.activeLanes o.y (fun i => recA + word i * 12)) v (twoLanes (fun i => 0x100 + 12 * i)) v ∧
    AdmitsAll (elementCheck .store 4 recA) (s.me.activeLanes o.y (fun i => recA + word i * 12)) v (twoLanes (fun i => 0x100 + 12 * i)) v ∧
    (v.myCore.replay = [] ∧ v.net = [] ∧ v.requestRoom 1 = true) := by
  unfold State.Starts State.Begins State.LanesReady State.Gives
  exact ⟨by decide +kernel, fun _ => rfl, fun _ => rfl, by decide +kernel⟩

/-- Sixteen elements of one byte. -/
theorem meets_lane_unit :
    let o : FmtVM := ⟨0x3F, 0, 0, 1, 0⟩
    let s := lanedAt (.vld o) recA
    let u := s.took 1 false recA
    (s.Starts (.vld o) ∧ vecOk o.d = true ∧ s.LanesReady ∧ s.acquirePending = false ∧ s.Gives o.a false recA u) ∧
    AdmitsAll (elementCheck .load 1 (recA + o.o.signExtend 64 * word 1)) (s.me.activeLanes false (fun i => recA + o.o.signExtend 64 * word 1 + word (i * 1))) u
      ((List.range 16).map (fun i => (i, plc (0xFF + i), 0))) u ∧ (u.myCore.replay = [] ∧ u.net = [] ∧ u.requestRoom 1 = true ∧ u.releaseOk 2 = true) := by
  unfold State.Starts State.Begins State.LanesReady State.Gives
  exact ⟨by decide +kernel, fun _ => rfl, by decide +kernel⟩

theorem meets_lane_indexed :
    let o : FmtV := ⟨true, 1, 1, 0⟩
    let s := lanedAt (.vsca o) recA
    let u := s.took 1 false recA
    (s.Starts (.vsca o) ∧ vecOk o.d = true ∧ s.LanesReady ∧ s.acquirePending = false ∧ s.Gives o.a false recA u ∧ vecOk o.b = true) ∧
    AdmitsAll (elementCheck .store 4 recA) (s.me.activeLanes o.y (fun i => recA + 4 * (s.me.laneAt o.b.toNat i).signExtend 64)) u
      [(0, plc 0x108, 0), (15, plc 0x13C, 0)] u ∧ (u.myCore.replay = [] ∧ u.net = [] ∧ u.requestRoom 1 = true) := by
  unfold State.Starts State.Begins State.LanesReady State.Gives
  exact ⟨by decide +kernel, fun _ => rfl, by decide +kernel⟩

/-- Bit fields of 16 bits from bit 5 of byte 0x101 on: that of lane 15 begins 240 bits later. -/
theorem meets_lane_bits :
    let o : FmtVBit := ⟨15, true, 1, 0⟩
    let s := lanedAt (.vldb o) bitA
    let u := s.took 1 false bitA
    (s.Starts (.vldb o) ∧ vecOk o.d = true ∧ s.LanesReady ∧ s.acquirePending = false ∧ s.Gives o.a false bitA u ∧ bitsOf bitA 60 4 = 8) ∧
    AdmitsAll (bitElement .load 16 bitA) (s.me.bitLanes o.y bitA 16) u [(0, bitPlace, 13), (15, { bitPlace with addr := .scratch 0 0x11F, named := bitPlace.named + 0x1C, loc := bitPlace.loc + 0x1C }, 29)] u ∧
    (u.myCore.replay = [] ∧ u.net = [] ∧ u.requestRoom 1 = true) := by
  unfold State.Starts State.Begins State.LanesReady State.Gives
  exact ⟨by decide +kernel, fun _ => rfl, by decide +kernel⟩

/-! Messages, barriers, task queues, signals and engines. -/

/-- The scratchpad of core 1. -/
def core1 : Word := 0x8000800000000000

/-- The strand in focus has fetched i and holds r; core 1 has a tenant of the same saggar. -/
def pair (i : Instr) (r : List (Nat × Word)) : State := (withS i r).modCore 1 (fun c => { c with tenant := some 0 })

/-- The sources of a record read at issue are noted one by one. -/
def reading (s : State) (ws : List Word) : State := ws.foldl (fun (s : State) w => s.pushRead ⟨w, .nothing⟩) s

theorem meets_send : ∀ t ∈ [(0 : BitVec 2), 3],
    let o : FmtSend := ⟨t, false, 2, false, 1⟩
    let s : State := { pair (.send o) [(1, core1 + 3), (2, 9)] with credits := 1 }
    let u := s.took 1 false (core1 + 3)
    let v := u.took 2 false 9
    s.Starts (.send o) ∧ s.acquirePending = false ∧ s.Gives o.a o.x (core1 + 3) u ∧ u.Gives o.b o.y 9 v ∧ v.coreNamed (core1 + 3) true = some 1 ∧
    v.releaseOk 2 = true ∧ v.requestRoom 1 = true ∧ v.coreNamed 0x100 true = none ∧ v.myCore.creditNow v.credits ≠ 0 := by
  intro t ht
  unfold State.Starts State.Begins State.Gives
  simp only [List.mem_cons, List.not_mem_nil, or_false] at ht
  rcases ht with rfl | rfl <;> decide +kernel

theorem meets_recv :
    (∀ s ∈ [withS (.recv ⟨false, 1, 3⟩) [(1, 3)], (withS (.recv ⟨false, 1, 3⟩) [(1, 3)]).modMyCore (fun c => c.setMail 3 [8, 9])],
      s.Starts (.recv ⟨false, 1, 3⟩) ∧ s.acquirePending = false ∧ dstOk (3 : Code) = true ∧ s.accepts 3 = true ∧ s.Gives 1 false 3 (s.took 1 false 3)) ∧
    (withS (.recv ⟨false, 1, 3⟩) [(1, 3)]).myCore.mailbox 3 = [] ∧
    ((withS (.recv ⟨false, 1, 3⟩) [(1, 3)]).modMyCore (fun c => c.setMail 3 [8, 9])).myCore.mailbox 3 = 8 :: [9] ∧
    ((has (.rprobe ⟨3⟩)).Starts (.rprobe ⟨3⟩) ∧ (has (.rprobe ⟨3⟩)).room 3 = true) := by
  unfold State.Starts State.Begins State.Gives; decide +kernel

/-- A put to core 1 whose counter is the next dword. -/
theorem meets_put :
    let o : FmtPut := ⟨1, false, 2, false, 1, 3⟩
    let s := pair (.put o) [(1, core1 + 0x20), (2, 9), (3, core1 + 0x28)]
    let u := s.took 1 false (core1 + 0x20)
    let v := u.took 2 false 9
    let w := v.took 3 false (core1 + 0x28)
    s.Starts (.put o) ∧ s.acquirePending = false ∧ s.me.pend < 16 ∧ s.Gives o.a o.x (core1 + 0x20) u ∧ u.Gives o.b o.y 9 v ∧ v.Gives o.d false (core1 + 0x28) w ∧
    resolve w w.myCluster w.me.sag (core1 + 0x20) 8 = some (.scratch 1 0x20) ∧ resolve w w.myCluster w.me.sag (core1 + 0x28) 8 = some (.scratch 1 0x28) ∧
    w.putLocked (.scratch 1 0x20) = none ∧ w.putLocked (.scratch 1 0x28) = none ∧
    w.crosses false (homeOf (scratchLoc 1 0x20)) (scratchLoc 1 0x20) 8 = false ∧ w.requestRoom 1 = true ∧ w.parkedPage (Addr.scratch 1 0x20).named = none := by
  unfold State.Starts State.Begins State.Gives; decide +kernel

/-- A multicast to cluster 0 alone, without a counter. -/
theorem meets_mput :
    let o : FmtPut := ⟨1, false, 2, false, 1, 56⟩
    let s := withRec (.mput o) [(1, recA), (2, 9)] [0x8000400000000020, 1]
    let u := s.took 1 false recA
    let v := u.took 2 false 9
    let w := v.took 56 false 0
    let t := reading w [0x8000400000000020, 1]
    (s.Starts (.mput o) ∧ s.acquirePending = false ∧ s.me.pend < 16 ∧ s.Gives o.a o.x recA u ∧ u.Gives o.b o.y 9 v ∧ v.Gives o.d false 0 w) ∧
    Reads 3 recA 2 w [0x8000400000000020, 1] t ∧
    ((snake 1).map (fun p => t.meshCluster ((t.originOf 0x8000400000000020).1 + p.1) ((t.originOf 0x8000400000000020).2 + p.2)) = [0].map some ∧
     resolve t t.myCluster t.me.sag (atCluster 0x8000400000000020 0) 8 = some (.slice 0 0x20) ∧ (atCluster 0x8000400000000020 0).toNat % 8 = 0 ∧
     (resolve t t.myCluster t.me.sag (atCluster 0x8000400000000020 t.myCluster) 8).bind t.putLocked = none ∧
     (resolve t t.myCluster t.me.sag (atCluster 0 t.myCluster) 8).bind t.putLocked = none ∧ t.requestRoom 1 = true ∧ t.net = []) := by
  unfold State.Starts State.Begins State.Gives
  exact ⟨by decide +kernel, reads_of_dwords rfl (by decide +kernel) (by decide +kernel) (by decide +kernel) (by decide +kernel), by decide +kernel⟩

/-- A message of the strand in slot 0 of core 0 to core 1. -/
def toCore1 (b : Body) : Msg := ⟨7, 0, 0, 1, 0, some 0, none, 1, 3, 0, 0, 0, ⟨.core, 1, 0⟩, b, 7, 0⟩

theorem meets_arrivals :
    (let m := toCore1 (.mail 3 9)
     let s : State := { pair .ret [] with net := [m] }
     s.net[0]? = some m ∧ s.misrouted m = false ∧ s.mailBehind 0 m 3 = false ∧ s.unsent 0 m = false ∧ s.mailOpen 1 3 = true ∧ s.relocking 1 = false) ∧
    (let m : Msg := ⟨7, 0, 0, 1, 0, some 0, none, 1, 0, 0, sliceLoc 0 0x20, 8, homeOf (sliceLoc 0 0x20), .put 9 none, 7, 0⟩
     ({ has .ret with net := [m] } : State).net[0]? = some m ∧ ({ has .ret with net := [m] } : State).barred 0 m = false ∧ ({ has .ret with net := [m] } : State).mustPark m = false ∧ ({ has .ret with net := [m] } : State).sentAway m = false ∧ spaceOf m.loc ≠ 3 ∧
     ∀ h ∈ m.homes, (has .ret).awakeAt h = true) ∧
    (let m : Msg := ⟨7, 0, 0, 1, 0, some 0, none, 1, 0, 0, sliceLoc 0 0x20, 8, homeOf (sliceLoc 0 0x20), .mput 9 [(sliceLoc 0 0x20, none)], 7, 0⟩
     ({ has .ret with net := [m] } : State).net[0]? = some m ∧ ({ has .ret with net := [m] } : State).barred 0 m = false ∧ ∀ h ∈ m.homes, (has .ret).awakeAt h = true) ∧
    (sliceLoc 0 0x28 + 8 ≤ sliceLoc 0 0x30 ∧ (has .ret).anyPoison (sliceLoc 0 0x28) 8 = false ∧
     (∀ i, i < 8 → Tbl.find (has .ret).errs (poisonWord (sliceLoc 0 0x28 + i)) = none)) := by decide +kernel

/-- Barrier 2 of the own core. -/
theorem meets_barriers :
    (let s := (has .ret).modCore 0 (fun c => c.setBar 2 ⟨1, 3, 1, 65535, [(⟨0, 5⟩, 8)]⟩)
     (s.coreAt 0).bar 2 = ⟨1, 3, 1, 65535, [(⟨0, 5⟩, 8)]⟩) ∧
    (let o : FmtTwo := ⟨false, 2, false, 1⟩
     let s := withS (.barInit o) [(1, 0x8000000000000002), (2, 65535)]
     let u := s.took 1 false 0x8000000000000002
     let v := u.took 2 false 65535
     s.Starts (.barInit o) ∧ s.acquirePending = false ∧ s.Gives o.a o.x 0x8000000000000002 u ∧ u.Gives o.b o.y 65535 v ∧
     v.barNamed 0x8000000000000002 = some (0, 2) ∧ bitsOf (65535 : Word) 0 16 ≠ 0) ∧
    (let o : FmtSrc := ⟨false, 1⟩
     let s := pair (.barInval o) [(1, core1 + 15)]
     let u := s.took 1 false (core1 + 15)
     s.Starts (.barInval o) ∧ s.acquirePending = false ∧ s.Gives o.a o.x (core1 + 15) u ∧ u.barNamed (core1 + 15) = some (1, 15)) ∧
    (let o : FmtUn := ⟨false, 1, 3⟩
     let s := withS (.barArrive o) [(1, 0x8000000000000002)]
     let u := s.took 1 false 0x8000000000000002
     s.Starts (.barArrive o) ∧ s.acquirePending = false ∧ dstOk o.d = true ∧ s.accepts o.d = true ∧ s.Gives o.a o.x 0x8000000000000002 u ∧
     u.barNamed 0x8000000000000002 = some (0, 2) ∧ u.releaseOk 2 = true ∧ (u.barApply 0 2 .arrive u.myRef u.me.uid).1 = some (word (2 ^ 63)) ∧
     (u.barApply 0 2 .arrive u.myRef u.me.uid).2.room o.d = true) ∧
    (let o : FmtUn := ⟨false, 1, 3⟩
     let s := (withS (.barArrwait o) [(1, 0x8000000000000002)]).modCore 0 (fun c => c.setBar 2 ⟨1, 3, 1, 0, []⟩)
     let u := s.took 1 false 0x8000000000000002
     s.Starts (.barArrwait o) ∧ s.acquirePending = false ∧ dstOk o.d = true ∧ s.accepts o.d = true ∧ s.Gives o.a o.x 0x8000000000000002 u ∧
     u.barNamed 0x8000000000000002 = some (0, 2) ∧ u.releaseOk 2 = true ∧ (u.barApply 0 2 .arrwait u.myRef u.me.uid).1 = none) ∧
    (let o : FmtA := ⟨false, 2, false, 1, 3⟩
     let s := pair (.barWait o) [(1, core1 + 2), (2, 7)]
     let u := s.took 1 false (core1 + 2)
     let v := u.took 2 false 7
     s.Starts (.barWait o) ∧ s.acquirePending = false ∧ dstOk o.d = true ∧ s.accepts o.d = true ∧ s.Gives o.a o.x (core1 + 2) u ∧ u.Gives o.b o.y 7 v ∧
     v.barNamed (core1 + 2) = some (1, 2)) ∧
    (let s : State := { pair .ret [] with net := [toCore1 (.bar 2 .arrive)] }
     s.net[0]? = some (toCore1 (.bar 2 .arrive)) ∧ s.barred 0 (toCore1 (.bar 2 .arrive)) = false ∧
     ¬(s.nextBeat 1 - 1 = (s.coreAt 1).barLast.1 ∧ 0 < (s.coreAt 1).barLast.2) ∧
     (((s.dropMsg 0).modCore 1 (fun c => { c with barLast := (s.nextBeat 1 - 1, 0) })).barApply 1 2 .arrive ⟨0, 0⟩ 1).1 = some (word (2 ^ 63))) := by
  unfold State.Starts State.Begins State.Gives
  refine ⟨?_, ?_, ?_, ?_, ?_, ?_, ?_⟩ <;> decide +kernel

/-- A core that has placed jobs 1 to 70, of which job 68 has failed and job 66 is pending. -/
def jobbed (i : Instr) (r : List (Nat × Word)) : State :=
  (withS i r).modMyCore (fun c => { c with jobNext := 71, jobsPlaced := 70, jobRing := [(66, 0), (68, 5)], tags := 0x10, tagCount := [(3, 2)] })

theorem meets_tags_and_jobs :
    (∀ f ∈ [Instr.tagwWaitany, .tagwWaitall, .tagwFfr, .jwaitPoll, .jwaitSleep], (jobbed (f ⟨false, 1, 3⟩) [(1, 68)]).Starts (f ⟨false, 1, 3⟩)) ∧
    (let s := jobbed .ret [(1, 68)]
     dstOk (3 : Code) = true ∧ s.accepts 3 = true ∧ s.Gives 1 false 68 (s.took 1 false 68) ∧ (s.took 1 false 68).room 3 = true ∧ s.myCore.jobBad 68 = false ∧
     s.myCore.jobStatus 68 ≠ 0 ∧ s.myCore.jobStatus 66 = 0 ∧ s.myCore.jobBad 66 = false ∧ s.myCore.jobBad 71 = true ∧ s.myCore.tags &&& 8 = 0 ∧
     s.myCore.tags &&& 0x18 ≠ 0 ∧ s.myCore.tags &&& 0x18 ≠ 0x18) ∧
    ((jobbed (.tagwClr ⟨false, 1⟩) [(1, 0x18)]).Starts (.tagwClr ⟨false, 1⟩)) ∧
    (let o : FmtA := ⟨false, 2, false, 1, 3⟩
     let s := jobbed (.jwaitAny o) [(1, 66), (2, 68)]
     let u := s.took 1 false 66
     let v := u.took 2 false 68
     s.Starts (.jwaitAny o) ∧ dstOk o.d = true ∧ s.accepts o.d = true ∧ s.Gives o.a o.x 66 u ∧ u.Gives o.b o.y 68 v ∧ s.myCore.jobBad 66 = false ∧
     s.myCore.jobBad 68 = false ∧ (68 + jobCycle - 66) % jobCycle < 64 ∧ (jobIds 66 68).any s.myCore.jobFuture = false ∧ jobIds 66 68 = [66] ++ 67 :: [68] ∧
     s.myCore.jobStatus 67 ≠ 0 ∧ (∀ j ∈ jobIds 66 66, s.myCore.jobStatus j = 0) ∧ 64 ≤ (60 + jobCycle - 66) % jobCycle) := by
  unfold State.Starts State.Begins State.Gives
  refine ⟨?_, ?_, ?_, ?_⟩ <;> decide +kernel

theorem meets_spawn :
    (let o : FmtA := ⟨false, 2, false, 1, 3⟩
     let s := (withRec (.spawn o) [(1, recA), (2, core1)] [0x40000, 11, 22]).modCore 1 (fun c => { c with tenant := some 0 })
     let u := s.took 1 false recA
     let v := u.took 2 false core1
     (s.Starts (.spawn o) ∧ s.acquirePending = false ∧ dstOk o.d = true ∧ s.accepts o.d = true ∧ s.Gives o.a o.x recA u ∧ u.Gives o.b o.y core1 v ∧
      resolve v v.myCluster v.me.sag recA 24 ≠ none ∧ v.coreNamed core1 false = some 1) ∧ Reads 2 recA 3 v [0x40000, 11, 22] (reading v [0x40000, 11, 22]) ∧
     (reading v [0x40000, 11, 22]).releaseOk 2 = true) ∧
    (let m := toCore1 (.spawn 0x40000 11 22 2 5 true)
     let s : State := { pair .ret [] with net := [m] }
     s.net[0]? = some m ∧ s.barred 0 m = false ∧ s.relocking 1 = false ∧ (s.coreAt 1).stopped = false ∧ (s.coreAt 1).saved = none ∧ (s.coreAt 1).awaited 0 = false ∧
     s.helperDue 1 = false ∧ s.ranBeat 1 (s.nextBeat 1 - 1) = true ∧
     s.grantBeat 1 = some (s.nextBeat 1 - 1) ∧ (s.coreAt 1).freeHelper (s.nextBeat 1 - 1) = some 1) := by
  unfold State.Starts State.Begins State.Gives
  exact ⟨⟨by decide +kernel, reads_of_dwords rfl (by decide +kernel) (by decide +kernel) (by decide +kernel) (by decide +kernel), by decide +kernel⟩, by decide +kernel⟩

/-- Queue 5 of the saggar holds two entries with one entry pc. -/
def twoEntries : List QEntry := [⟨0x40000, 1, 2, 3⟩, ⟨0x40000, 4, 5, 6⟩]
def withQueue (ring spill : List QEntry) (s : State) : State := s.modSag 0 (fun g => { g with queues := [(5, ⟨0, 0, (0, 0), ring, spill, 4, []⟩)] })

theorem meets_push :
    let o : FmtA := ⟨false, 2, false, 1, 3⟩
    let s := withQueue twoEntries [] (withRec (.qpush o) [(1, 5), (2, recA)] [0x40000, 7, 8, 9])
    let u := s.took 1 false 5
    let v := u.took 2 false recA
    (s.Starts (.qpush o) ∧ s.acquirePending = false ∧ dstOk o.d = true ∧ s.accepts o.d = true ∧ s.Gives o.a o.x 5 u ∧ u.Gives o.b o.y recA v ∧
     v.taskQueue 5 = some ⟨0, 0, (0, 0), twoEntries, [], 4, []⟩ ∧ v.taskQueue 6 = none ∧ s.tooLate (0, 0) s.myRank = false ∧ s.tooLate (0, 18) s.myRank = true) ∧ Reads 2 recA 4 v [0x40000, 7, 8, 9] (reading v [0x40000, 7, 8, 9]) ∧
    ((reading v [0x40000, 7, 8, 9]).room o.d = true ∧ (reading v [0x40000, 7, 8, 9]).releaseOk 2 = true ∧
     (reading v [0x40000, 7, 8, 9]).taskQueue 5 = some ⟨0, 0, (0, 0), twoEntries, [], 4, []⟩) := by
  unfold State.Starts State.Begins State.Gives
  exact ⟨by decide +kernel, reads_of_dwords rfl (by decide +kernel) (by decide +kernel) (by decide +kernel) (by decide +kernel), by decide +kernel⟩

theorem meets_pop :
    (let o : FmtUn := ⟨false, 1, 28⟩
     ∀ s ∈ [withQueue twoEntries [] (has (.qpop o)), withQueue [] [] (has (.qpop o))],
       s.Starts (.qpop o) ∧ s.acquirePending = false ∧ o.d.toNat ≤ 28 ∧ (∀ i, i < 4 → s.me.owes (o.d.toNat + i) = false) ∧
       s.Gives o.a o.x 5 (s.took 1 false 5) ∧ ((s.took 1 false 5).taskQueue 5).isSome = true) ∧
    (let o : FmtA := ⟨false, 2, false, 1, 3⟩
     let s := withQueue twoEntries [] (boxed { strand (.qpopv o) with g := 1 })
     let u := s.took 1 false 5
     let v := u.took 2 false 7
     s.Starts (.qpopv o) ∧ s.acquirePending = false ∧ dstOk o.d = true ∧ s.accepts o.d = true ∧ s.LanesReady ∧ s.Gives o.a o.x 5 u ∧ u.Gives o.b o.y 7 v ∧
     v.taskQueue 5 = some ⟨0, 0, (0, 0), twoEntries, [], 4, []⟩ ∧ s.tooLate (0, 0) s.myRank = false) ∧
    (let s := withQueue [] twoEntries (has .ret)
     (s.sagAt 0).bind (fun g => Tbl.find g.queues 5) = some ⟨0, 0, (0, 0), [], twoEntries, 4, []⟩) := by
  unfold State.Starts State.Begins State.Gives State.LanesReady
  refine ⟨?_, ?_, ?_⟩ <;> decide +kernel

theorem meets_signals :
    (let o : FmtTwo := ⟨false, 2, false, 1⟩
     let s := heap (.signal o) [(1, 0x40000010), (2, 1)]
     let u := s.took 1 false 0x40000010
     let v := u.took 2 false 1
     (s.Starts (.signal o) ∧ s.acquirePending = false ∧ s.me.pend < 16 ∧ s.Gives o.a o.x 0x40000010 u ∧ u.Gives o.b o.y 1 v) ∧
     Admits .update 0x40000010 8 8 (fun _ => true) v plcG v ∧ (v.releaseOk 2 = true ∧ offDevice plcG.loc = false ∧
       v.crosses false (homeOf plcG.loc) plcG.loc 8 = false ∧ bitsOf recA 60 4 ≠ 0) ∧ v.Sends plcG) ∧
    (let o : FmtA := ⟨false, 2, false, 1, 3⟩
     let s := heap (.swait o) [(1, 0x40000010), (2, 1)]
     let u := s.took 1 false 0x40000010
     let v := u.took 2 false 1
     (s.Starts (.swait o) ∧ s.acquirePending = false ∧ dstOk o.d = true ∧ s.accepts o.d = true ∧ s.Gives o.a o.x 0x40000010 u ∧ u.Gives o.b o.y 1 v) ∧
     Admits .load 0x40000010 8 8 (fun _ => true) v plcG v ∧ (v.parkedOverlap plcG.named 8 = false ∧ v.crosses true (homeOf plcG.loc) plcG.loc 8 = false ∧ v.requestRoom 1 = true)) ∧
    (let s : State := { heap .ret [] with net := [atWord (.swait 0x56)] }
     head0.engine = false ∧ head0.ecc = ⟨false, false⟩ ∧ s.Arrives head0.k (atWord (.swait 0x56)) ∧
     offDevice 0x100010 = false ∧ s.anyDead 0x100010 8 = false ∧ (s.dword 0x100010).toInt < (0x56 : Word).toInt) := by
  unfold State.Starts State.Begins State.Gives State.Sends State.Arrives
  exact ⟨⟨by decide +kernel, heap_admits .update 8 _ _ rfl (by decide +kernel), by decide +kernel, by decide +kernel⟩,
    ⟨by decide +kernel, heap_admits .load 8 _ _ rfl (by decide +kernel), by decide +kernel⟩, by decide +kernel⟩

/-- Two ranges of the own slice. -/
def srcA : Word := 0x8000400000004000
def dstA : Word := 0x8000400000009000

/-- An operand `a` at the descriptor and `b` naming tag 9. -/
def tagged (i : Instr) (ws : List Word) : State := withRec i [(1, recA), (2, 9)] ws

/-- 16 rows of bytes for band 0. -/
def matrixRec : List Word := [srcA, 64, 0x100000010]

theorem meets_matrix :
    let s := tagged (.mmrun ⟨false, 2, false, 2, false, 1, 3⟩) matrixRec
    let u := s.took 1 false recA
    let v := u.took 2 false 9
    let t := reading v matrixRec
    (s.Begins (.mmrun ⟨false, 2, false, 2, false, 1, 3⟩) ∧ dstOk (3 : Code) = true ∧ engineCodes .mmrun s = true ∧ s.acquirePending = false ∧ s.accepts 3 = true ∧ s.Gives 1 false recA u ∧
     u.Gives 2 false 9 v ∧ v.scaleIs 0) ∧ Reads (v.engineSrcs true) recA 3 v matrixRec t ∧
    (∃ q debit, Plans .mmrun false 2 9 0 recA matrixRec t q debit ∧ t.Takes [q] debit ∧ ((t.placed [q] debit).consume.room 3 = true)) := by
  unfold State.Begins State.Gives State.scaleIs State.Takes
  refine ⟨by decide +kernel, reads_of_dwords rfl (by decide +kernel) (by decide +kernel) (by decide +kernel) (by decide +kernel), ?_⟩
  exact ⟨_, _, fun _ => rfl, by decide +kernel, by decide +kernel⟩

theorem meets_matrix_limits :
    let t := reading (has (.mmrun ⟨false, 2, false, 2, false, 1, 3⟩)) matrixRec
    matrixLimits .mmrun matrixRec (t.spanOf srcA (15 * 64 + 16)) = none ∧ matrixLimits .mmrun [srcA, 64, 0x100000000] (t.spanOf srcA 0) = some 16 ∧
    t.debitOf 2 16 1 ≤ bitsOf t.myCore.ebud 24 24 ∧ formatsOk .engine .any .any t = true ∧ t.ownsBands 1 = true ∧ t.ownsBands 2 = false := by decide +kernel

/-- A prefix whose codes no engine takes. -/
theorem meets_engine_codes :
    let o : FmtA := ⟨false, 2, false, 1, 3⟩
    let s := fun (i : Instr) => boxed { strand i with st := 0x3C0100 }
    (s (.mmst o)).Begins (.mmst o) ∧ engineCodes .mmst (s (.mmst o)) = false ∧
    (s (.mmrun ⟨false, 0, false, 2, false, 1, 3⟩)).Begins (.mmrun ⟨false, 0, false, 2, false, 1, 3⟩) ∧ engineCodes .mmrun (s (.mmrun ⟨false, 0, false, 2, false, 1, 3⟩)) = false ∧
    (s (.copyFo ⟨2, false, 1, 3⟩)).Begins (.copyFo ⟨2, false, 1, 3⟩) ∧ engineCodes .mmrun (s (.copyFo ⟨2, false, 1, 3⟩)) = false := by
  unfold State.Begins; decide +kernel

/-- The strand holds an `mmsw` that has read its operands and is listed for a queue entry. -/
noncomputable def listed : State :=
  (boxed { strand (.mmsw ⟨false, 2, false, 1, 3⟩) with status := .held, reads := [⟨1, .nothing⟩, ⟨9, .nothing⟩], work := [1] }).modCluster 0 (fun c => { c with waiting := [⟨0, 0⟩] })

theorem meets_placement :
    let s := listed
    let r : StrandRef := ⟨0, 0⟩
    let p : JobPlan := ⟨{ JobDesc.zero .mmsw with bands := 1 }, 9, s.me.gov 3 3 0 0, []⟩
    (s.strandOf r).live = true ∧ (s.strandOf r).dying = false ∧ (s.strandOf r).status = .held ∧ s.running 0 = true ∧ (s.strandOf r).stage = 0 ∧
    (s.strandOf r).prefixed = false ∧ s = { s with core := 0, slot := 0 } ∧ s.NoLoop ∧ s.acquirePending = false ∧ s.accepts 3 = true ∧ s.ownsBands 1 = true ∧
    s.myCore.fullTag [p.tag] = none ∧ s.placeable [p] 0 = true ∧ (s.clusterAt s.myCluster).waiting = [r] ∧ (∀ k, k < 8 → s.replacing (8 * s.myCluster + k) = false) ∧
    (s.clusterAt s.myCluster).jobs.length < 16 := by
  unfold State.NoLoop; decide +kernel

theorem meets_mmsw :
    let o : FmtA := ⟨false, 2, false, 1, 3⟩
    let s := withS (.mmsw o) [(1, 1), (2, 9)]
    let u := s.took 1 false 1
    let v := u.took 2 false 9
    s.Starts (.mmsw o) ∧ dstOk o.d = true ∧ s.acquirePending = false ∧ s.accepts o.d = true ∧ s.Gives o.a o.x 1 u ∧ u.Gives o.b o.y 9 v ∧
    v.ownsBands 1 = true ∧ v.ownsBands 2 = false ∧ v.Takes [⟨{ JobDesc.zero .mmsw with bands := 1 }, 9, v.me.gov 3 3 0 0, []⟩] 0 := by
  unfold State.Starts State.Begins State.Gives State.Takes; decide +kernel

/-- A copy of 64 bytes. -/
def copyRec : List Word := [srcA, dstA, 64, 0]

theorem meets_copy :
    let o : FmtCopy := ⟨2, false, 1, 3⟩
    let s := tagged (.copy o) copyRec
    let u := s.took 1 false recA
    let v := u.took 2 false 9
    let t := reading v copyRec
    (s.Starts (.copy o) ∧ dstOk o.d = true ∧ s.acquirePending = false ∧ s.accepts o.d = true ∧ s.Gives o.a o.x recA u ∧ u.Gives o.b false 9 v) ∧
    Reads 2 recA 4 v copyRec t ∧ (copyLimits false copyRec (t.spanOf srcA 64) (t.spanOf dstA 64) = none ∧
      copyLimits false [srcA, dstA + 1, 0, 0] (t.spanOf srcA 0) (t.spanOf dstA 0) ≠ none ∧
      t.Takes [⟨{ JobDesc.zero .copy with src := srcA.toNat, dst := dstA.toNat, len := 64 }, 9, t.me.gov 3 3 0 0, spanRange (t.spanOf srcA 64) 64 false ++
        spanRange (t.spanOf dstA 64) 64 true⟩] 0) := by
  unfold State.Starts State.Begins State.Gives State.Takes
  exact ⟨by decide +kernel, reads_of_dwords rfl (by decide +kernel) (by decide +kernel) (by decide +kernel) (by decide +kernel), by decide +kernel⟩

/-- A copy with a follow-on whose descriptor stands at offset 0x300. -/
def followRec : List Word := [srcA, dstA, 64, 0, 0x56, 0x8000000000000300]

set_option maxRecDepth 8192 in
theorem meets_copy_follow :
    let o : FmtCopy := ⟨2, false, 1, 3⟩
    let q : List Word := [dstA, 64, 0x100000010]
    let s := (List.range 3).foldl (fun t k => t.setDword (scratchLoc 0 (0x300 + 8 * k)) (q.getD k 0)) (tagged (.copyFo o) followRec)
    let u := s.took 1 false recA
    let v := u.took 2 false 9
    let t := reading v followRec
    let t' := reading t q
    (s.Begins (.copyFo o) ∧ dstOk o.d = true ∧ engineCodes .mmrun s = true ∧ s.acquirePending = false ∧ s.accepts o.d = true ∧ s.Gives o.a o.x recA u ∧ u.Gives o.b false 9 v ∧ v.scaleIs 0) ∧
    Reads (v.engineSrcs true) recA 6 v followRec t ∧ copyLimits true followRec (t.spanOf srcA 64) (t.spanOf dstA 64) = none ∧
    Reads (v.engineSrcs true + 6) 0x8000000000000300 3 t q t' ∧ (∃ p debit, Plans .mmrun true 2 5 0 0x8000000000000300 q t' p debit) := by
  unfold State.Begins State.Gives State.scaleIs
  exact ⟨by decide +kernel, reads_of_dwords rfl (by decide +kernel) (by decide +kernel) (by decide +kernel) (by decide +kernel), by decide +kernel, reads_of_dwords rfl (by decide +kernel) (by decide +kernel) (by decide +kernel) (by decide +kernel), _, _, fun _ => rfl⟩

/-- Three elements of four bytes by indices of four bytes; a sum of 8 words of one participant. -/
def gathRec : List Word := [srcA, 0x8000400000005000, dstA, 0x20200000003]
def collRec : List Word := [srcA, dstA, 0x8000400000006000, 0x100000000008]

theorem meets_gath :
    let o : FmtA := ⟨false, 2, false, 1, 3⟩
    let s := tagged (.gath o) gathRec
    let u := s.took 1 false recA
    let v := u.took 2 false 9
    let t := reading v gathRec
    (s.Starts (.gath o) ∧ dstOk o.d = true ∧ s.acquirePending = false ∧ s.accepts o.d = true ∧ s.Gives o.a o.x recA u ∧ u.Gives o.b o.y 9 v) ∧
    Reads 2 recA 4 v gathRec t ∧ (recBits gathRec 24 4 = 3 ∧ recBits gathRec 28 1 = 2 ∧ recBits gathRec 29 1 = 2 ∧
      gathLimits gathRec (t.spanOf 0x8000400000005000 12) (t.spanOf dstA 12) = none) := by
  unfold State.Starts State.Begins State.Gives
  exact ⟨by decide +kernel, reads_of_dwords rfl (by decide +kernel) (by decide +kernel) (by decide +kernel) (by decide +kernel), by decide +kernel⟩

theorem meets_full_tag :
    ((has .ret).modMyCore (fun c => { c with tagCount := [(9, 65535)] })).myCore.fullTag [9] = some 9 := by decide +kernel

/-- A job of the strand in slot 0 of core 0 with tag 9 that writes w, on the engines of cluster 0. -/
def job (k : JobKind) (ws : List EWrite) : Job :=
  ⟨5, 0, 0, 1, 7, 9, 0, some 0, none, 0, (0, 0, 0), JobDesc.zero k, (strand .ret).gov 3 3 0 0, .running, 0, [], ws, [], 0, 0⟩
def working (js : List Job) : State :=
  ((has .ret).modMyCore (fun c => { c with tagCount := [(9, 1)], jobRing := [(7, 0)] })).modCluster 0 (fun c => { c with jobs := js, ranges := [⟨1, 2, true, 7, 0⟩] })

theorem meets_job_completion :
    let w : EWrite := ⟨0, 0x99, sliceLoc 0 0x4001, 0x7A⟩
    let j := job .copy [w]
    let s := working [j]
    (s.clusterAt 0).jobs[0]? = some j ∧ j.state = .running ∧ j.desc.kind ≠ .coll ∧ j.fail = 0 ∧ j.desc.kind.unit ≠ 3 ∧ j.desc.scope ≠ 2 ∧ j.covers = [] ∧
    j.writes = [w] ∧ w.barred s = false ∧ j.ctxAt w.loc = 0 ∧ s.fenced w.loc = false ∧ offDevice w.loc = false ∧ dropAt (s.clusterAt 0).jobs 0 = [] ∧
    Tbl.find (s.coreAt j.core).jobRing j.id = some 0 ∧ Tbl.get (s.coreAt j.core).tagCount j.tag 0 = 1 ∧ j.tag < 64 := by decide +kernel

theorem meets_jobs :
    (let s := boxed { strand (.mmsw ⟨false, 2, false, 1, 3⟩) with status := .held }
     (s.strandOf ⟨0, 0⟩).live = true ∧ (s.strandOf ⟨0, 0⟩).dying = false ∧ (s.strandOf ⟨0, 0⟩).status = .held ∧ s.running 0 = true ∧
     (s.strandOf ⟨0, 0⟩).cur = some (.mmsw ⟨false, 2, false, 1, 3⟩)) ∧
    (let s := working [{ job .mmsw [] with state := .waiting }, { job .mmsw [] with id := 8, state := .waiting }]
     (s.clusterAt 0).jobs[1]? = some { job .mmsw [] with id := 8, state := .waiting } ∧
     (s.clusterAt 0).jobBehind { job .mmsw [] with id := 8, state := .waiting } { job .mmsw [] with state := .waiting } = true) ∧
    (let s := (has .ret).modBand 0 3 (fun b => { b with active := ⟨[(1, 1)], 2⟩ })
     { JobDesc.zero .mmsw with bands := 8 }.bands = 2 ^ 3 ∧ s.band 0 3 ≠ Band.clear) ∧
    (let s := working [{ job .mmrun [] with state := .reserved }]
     (s.clusterAt 0).jobs[0]? = some { job .mmrun [] with state := .reserved }) ∧
    (let s : State := { has .ret with time := 3000, lastRefill := 2000 }
     s.time = 1000 * 3 ∧ s.lastRefill / 1000 + 1 = 3) := by decide +kernel

/-- A copy that waits for its start. -/
def waitingCopy : Job := { job .copy [] with state := .waiting, desc := { JobDesc.zero .copy with src := srcA.toNat, dst := dstA.toNat, len := 2 } }

theorem meets_copy_begins : ∃ r s1 ws s2, State.jobBytes waitingCopy waitingCopy.desc.len srcA (working [waitingCopy]) = .ok (r, s1) ∧
    State.jobTargets waitingCopy (rowBytes 0 dstA (r.map (·.1))) s1 = .ok (ws, 0, s2) ∧ r.length = ws.length ∧
    ((working [waitingCopy]).clusterAt 0).jobs[0]? = some waitingCopy ∧ (working [waitingCopy]).jobAwaitsStores 0 waitingCopy = false := by
  refine ⟨_, _, _, _, rfl, rfl, by decide +kernel, by decide +kernel, by decide +kernel⟩

theorem meets_round :
    let j := { job .coll [] with desc := { JobDesc.zero .coll with src := srcA.toNat, dst := dstA.toNat, len := 4, n := 1, npart := 1, group := 0x40 },
                                 caught := [(0, [1, 2, 3, 4])] }
    (working [j]).collJobs 0 0x40 = [(0, 0, j)] ∧ j.desc.npart = 1 ∧ j.state = .running ∧ j.fail = 0 := by decide +kernel

/-! The Galley, contexts and speculation. -/

/-- The group with serial 3 of die 0, which nothing stands above, and a continuation under no group. -/
def grp3 : Grp := ⟨0, 3⟩
def noCont : Cont := ⟨0, 0, [0, 0, 0], ⟨0, 0⟩, 0, 0, 0, 0, 0, 0, 0, false, none⟩
def someCont : Cont := { noCont with kpc := 0x50000 }

/-- The entry of a call of 0x40000 with one argument, in block 5 of bank 0, whose producer is the strand in slot 0 of core 0. -/
def entry (st : GState) (cs : List Cont) (as : List (Word × Word)) : Entry :=
  ⟨0x500, 0, 0x40000, 1, 1, [7, 0, 0], st, grp3, ⟨0, 0⟩, ⟨0, 0⟩, 1, as, cs, 1, 0, 0, 0, 0, false, []⟩

/-- A saggar that holds entry e, whose group counts n. -/
def tabled (s : State) (e : Entry) (n : Nat) (st : GState) : State :=
  (s.modSag 0 (fun g => { g with entries := [e] })).modDie 0 (fun d => { d with cone := [(3, ⟨grp3, n, st⟩)] })

/-- A call record of 0x40000 with one argument and no continuation. -/
def callRec : List Word := [0x40000, 7, 0, 0, 0x101, 0, 0, 0, 0]

set_option maxRecDepth 8192 in
theorem meets_tcall :
    let o : FmtUn := ⟨false, 1, 3⟩
    let s := withRec (.tcall o) [(1, recA)] callRec
    let u := s.took 1 false recA
    let t := reading u callRec
    (s.Starts (.tcall o) ∧ s.me.spec = none ∧ s.acquirePending = false ∧ dstOk o.d = true ∧ s.accepts o.d = true ∧ s.Gives o.a o.x recA u) ∧
    Reads 1 recA 9 u callRec t ∧ ((t.sagAt t.me.sag).isSome = true ∧ callLimits callRec = none ∧ callLimits [0x40000, 7, 0, 0, 0x104] = some 32) := by
  unfold State.Starts State.Begins State.Gives
  exact ⟨by decide +kernel, reads_of_dwords rfl (by decide +kernel) (by decide +kernel) (by decide +kernel) (by decide +kernel), by decide +kernel⟩

theorem meets_tans : ∀ d ∈ [(3 : Code), 56],
    let o : FmtA := ⟨false, 2, false, 1, d⟩
    let s := tabled (boxed { strand (.tans o) with grp := grp3, s := [(1, 0x500 * 2 ^ 24), (2, 8), (3, 9)] }) (entry .evaluating [] []) 1 .evaluating
    let u := s.took 1 false (0x500 * 2 ^ 24)
    let v := u.took 2 false 8
    let w := v.took 3 false 9
    s.Starts (.tans o) ∧ s.me.spec = none ∧ s.acquirePending = false ∧ o.b.toNat ≤ 30 ∧ dstOk o.d = true ∧ s.accepts o.d = true ∧ s.me.pend < 16 ∧
    s.Gives o.a o.x (0x500 * 2 ^ 24) u ∧ u.Gives o.b o.y 8 v ∧ v.Gives (o.b + 1) o.y 9 w ∧
    (w.sagAt w.me.sag).map (fun g => (g.badHandle 0x500, g.badHandle (2 ^ 39))) = some (false, true) ∧ w.me.grp.ser ≠ 0 ∧ w.releaseOk 2 = true := by
  intro d hd
  unfold State.Starts State.Begins State.Gives
  simp only [List.mem_cons, List.not_mem_nil, or_false] at hd
  rcases hd with rfl | rfl <;> decide +kernel

theorem meets_tret :
    let o : FmtSrc := ⟨false, 1⟩
    let s := tabled (boxed { strand (.tret o) with grp := grp3, bodies := [0x500], s := [(1, 0x500 * 2 ^ 24)] }) (entry .evaluating [] []) 1 .evaluating
    let u := s.took 1 false (0x500 * 2 ^ 24)
    s.Starts (.tret o) ∧ s.me.spec = none ∧ s.Gives o.a o.x (0x500 * 2 ^ 24) u ∧
    (u.sagAt u.me.sag).map (fun g => (g.badHandle 0x500, g.entryAt 0x500)) = some (false, some (entry .evaluating [] [])) ∧
    (entry .evaluating [] []).uid = s.me.uid ∧ (u.tansOut u.me.uid || u.incOut (u.rootOf grp3)) = false := by
  unfold State.Starts State.Begins State.Gives; decide +kernel

theorem meets_tend :
    let s := tabled (boxed { strand .tend with invoc := some ⟨grp3, none⟩ }) { entry .complete [] [] with uid := 0 } 1 .evaluating
    s.Starts .tend ∧ s.me.invoc = some ⟨grp3, none⟩ ∧ s.me.laneLoads = 0 ∧ s.tansOut s.me.uid = false ∧
    (s.sagAt s.me.sag).map (fun g => g.entries.all (fun e => decide (e.uid ≠ s.me.uid))) = some true := by
  unfold State.Starts State.Begins; decide +kernel

theorem meets_twait : ∀ e ∈ [entry .evaluating [] [], entry .complete [] [(8, 0)], entry .failed [] []],
    let s := tabled (withS (.twait ⟨false, 1, 3⟩) [(1, 0x500 * 2 ^ 24)]) e 1 .evaluating
    let u := s.took 1 false (0x500 * 2 ^ 24)
    let t := u.modSag u.me.sag (fun g => g.touch 0x500)
    s.Starts (.twait ⟨false, 1, 3⟩) ∧ s.acquirePending = false ∧ s.accepts 3 = true ∧ s.Gives 1 false (0x500 * 2 ^ 24) u ∧
    (u.sagAt u.me.sag).map (fun g => (g.badHandle 0x500, g.entryAt 0x500, g.entryAt 0x600)) = some (false, some e, none) ∧
    t.sameRoot e.grp t.me.grp = false ∧ e.pins < 65535 ∧ t.room 3 = true := by
  intro e he
  unfold State.Starts State.Begins State.Gives
  simp only [List.mem_cons, List.not_mem_nil, or_false] at he
  rcases he with rfl | rfl | rfl <;> decide +kernel

theorem meets_table_reads :
    (let o : FmtA := ⟨false, 2, false, 1, 29⟩
     let s := tabled (withS (.tnextNext o) [(1, 0x500 * 2 ^ 24), (2, 0)]) (entry .complete [] [(8, 0)]) 1 .complete
     let u := s.took 1 false (0x500 * 2 ^ 24)
     let v := u.took 2 false 0
     s.Starts (.tnextNext o) ∧ o.d.toNat ≤ 29 ∧ (∀ i, i < 3 → s.me.owes (o.d.toNat + i) = false) ∧ s.Gives o.a o.x (0x500 * 2 ^ 24) u ∧ u.Gives o.b o.y 0 v ∧
     (v.sagAt v.me.sag).map (fun g => (g.badHandle 0x500, g.entryAt 0x500)) = some (false, some (entry .complete [] [(8, 0)]))) ∧
    (let o : FmtSrc := ⟨false, 1⟩
     let s := tabled (withS (.tnextClose o) [(1, 0x500 * 2 ^ 24)]) (entry .complete [] [(8, 0)]) 1 .complete
     let u := s.took 1 false (0x500 * 2 ^ 24)
     s.Starts (.tnextClose o) ∧ s.Gives o.a o.x (0x500 * 2 ^ 24) u ∧
     (u.sagAt u.me.sag).map (fun g => (g.badHandle 0x500, g.entryAt 0x500)) = some (false, some (entry .complete [] [(8, 0)]))) ∧
    (let o : FmtUn := ⟨false, 1, 3⟩
     let s := tabled (withS (.tabol o) [(1, 0xFFFFFFFFFFFFFFFF)]) { entry .complete [] [] with pins := 0 } 1 .complete
     let u := s.took 1 false 0xFFFFFFFFFFFFFFFF
     s.Starts (.tabol o) ∧ dstOk o.d = true ∧ s.accepts o.d = true ∧ s.Gives o.a o.x 0xFFFFFFFFFFFFFFFF u ∧ (u.sagAt u.me.sag).isSome = true ∧ u.room o.d = true) ∧
    (let o : FmtA := ⟨false, 2, false, 1, 3⟩
     let s := tabled (withS (.tstat o) [(1, 0x500 * 2 ^ 24), (2, 4)]) (entry .complete [] []) 1 .complete
     let u := s.took 1 false (0x500 * 2 ^ 24)
     let v := u.took 2 false 4
     s.Starts (.tstat o) ∧ dstOk o.d = true ∧ s.accepts o.d = true ∧ s.Gives o.a o.x (0x500 * 2 ^ 24) u ∧ u.Gives o.b o.y 4 v ∧
     (v.sagAt v.me.sag).map (fun g => (g.badHandle 0x500, g.entryAt 0x500, g.entryAt 0x600)) = some (false, some (entry .complete [] []), none) ∧ v.room o.d = true) := by
  unfold State.Starts State.Begins State.Gives
  refine ⟨?_, ?_, ?_, ?_⟩ <;> decide +kernel

/-- A message of the strand in slot 0 of core 0 to the first bank of cluster 0's Galley. -/
def toGalley (b : Body) : Msg := ⟨7, 0, 0, 1, 0, some 0, none, 1, 0, 0, 0, 0, ⟨.galley, 0, 0⟩, b, 7, 0⟩
/-- A call of the entry's key. -/
def callMsg (c : Cont) : Msg := toGalley (.tcall 0 0x40000 [7, 0, 0] 1 1 c)

theorem meets_call_hit : ∀ e ∈ [entry .evaluating [] [], entry .complete [] [(8, 0)], entry .failed [] []],
    let s : State := { tabled (has .ret) e 1 .evaluating with net := [callMsg noCont] }
    s.net[0]? = some (callMsg noCont) ∧ s.barred 0 (callMsg noCont) = false ∧ (∀ h ∈ (callMsg noCont).homes, s.awakeAt h = true) ∧ noCont.kpc = 0 ∧
    (s.sagAt 0).map (fun g => g.entries.find? (fun e => decide (e.space = 0) && decide (e.pc = 0x40000) && decide (e.nargs = 1) && decide (e.aw = 1) &&
      decide (e.args = [7, 0, 0]))) = some (some e) := by
  intro e he
  simp only [List.mem_cons, List.not_mem_nil, or_false] at he
  rcases he with rfl | rfl | rfl <;> decide +kernel

/-- A call that finds no entry is given block 9 and serial 4. -/
theorem meets_call_miss :
    let s : State := { has .ret with net := [callMsg noCont] }
    s.net[0]? = some (callMsg noCont) ∧ s.barred 0 (callMsg noCont) = false ∧ (∀ h ∈ (callMsg noCont).homes, s.awakeAt h = true) ∧
    (s.sagAt 0).map (fun g => g.entries) = some [] ∧
    ((s.freeGroups' 0).dieAt 0).cone.length < 262144 ∧ ((s.freeGroups' 0).roomFor 0 0 1).1 = true ∧ (let s1 := ((s.freeGroups' 0).roomFor 0 0 1).2
     ((s1.sagAt 0).map (fun g1 => (decide (9 < g1.slotLimit), (g1.bankEntries 0).length, g1.entries)), s1.group ⟨0, 4⟩, s1.alive 0 0 1,
       (s1.strandAt 0 0).dying) = (some (true, 0, []), none, true, false)) := by decide +kernel

theorem meets_answers_home :
    let m := toGalley (.tans 0x500 8 9 grp3 true)
    let s : State := { tabled (has .ret) (entry .evaluating [someCont] []) 1 .evaluating with net := [m] }
    s.net[0]? = some m ∧ s.barred 0 m = false ∧ (∀ h ∈ m.homes, s.awakeAt h = true) ∧ (s.sagAt 0).bind (fun g => g.entryAt 0x500) = some (entry .evaluating [someCont] []) ∧
    s.sameRoot grp3 grp3 = true ∧ (entry .evaluating [someCont] []).answers.contains (8, 0) = false ∧
    ((s.dropMsg 0).roomFor 0 (handleBank 0x500) (blocksFor 1 1 1 (0 + 1) - blocksFor 1 0 1 0)).1 = true := by decide +kernel

/-- An answer for an entry that has gone, from the body that was to give it and from another strand. -/
theorem meets_answers_gone :
    (let m := toGalley (.tans 0x500 8 9 grp3 true)
     ∀ s ∈ [{ has .ret with net := [m] }, { boxed { strand .ret with bodies := [0x500], grp := grp3 } with net := [m] }],
       s.net[0]? = some m ∧ s.barred 0 m = false ∧ (∀ h ∈ m.homes, s.awakeAt h = true) ∧ ((s.sagAt 0).bind (fun g => g.entryAt 0x500)).isNone = true ∧
       s.bodyOpen m 0x500 = decide (s.me.bodies = [0x500])) := by decide +kernel

theorem meets_cones :
    (∀ c ∈ [ConeMsg.inc grp3 0 ⟨someCont, 8, 0, none, 0x500, true⟩, .dec grp3 1, .fail grp3 1],
      let s : State := { tabled (has .ret) (entry .evaluating [] []) 1 .evaluating with cone := [c] }
      s.group (s.rootOf grp3) = some ⟨grp3, 1, .evaluating⟩ ∧ s.rootOf grp3 = grp3 ∧ s.tansOut 1 = false ∧ grp3 ∈ s.allGroups) ∧
    (let s : State := { tabled (has .ret) (entry .evaluating [] []) 1 .evaluating with cone := [.dec grp3 1] }
     s.cone[0]? = some (.dec grp3 1) ∧ s.incOut grp3 = false ∧ s.failOut grp3 = false) ∧
    (let s : State := { tabled (has .ret) (entry .evaluating [someCont] []) 1 .evaluating with cone := [.ack 0 ⟨someCont, 8, 0, none, 0x500, true⟩] }
     s.cone[0]? = some (.ack 0 ⟨someCont, 8, 0, none, 0x500, true⟩) ∧
     (s.sagAt 0).bind (fun g => g.entryAt 0x500) = some (entry .evaluating [someCont] [])) ∧
    (let s : State := { (has .ret).modDie 0 (fun d => { d with cone := [(3, ⟨grp3, 1, .evaluating⟩), (4, ⟨⟨0, 4⟩, 2, .evaluating⟩)] }) with
                        cone := [.merge grp3 ⟨0, 4⟩ (callMsg noCont) 0x500] }
     s.rootOf grp3 ≠ s.rootOf ⟨0, 4⟩ ∧ s.group (s.rootOf grp3) = some ⟨grp3, 1, .evaluating⟩ ∧ s.group (s.rootOf ⟨0, 4⟩) = some ⟨⟨0, 4⟩, 2, .evaluating⟩ ∧
     (s.rootOf grp3).before (s.rootOf ⟨0, 4⟩) = true) ∧
    (∀ c ∈ [ConeMsg.complete 0 0 grp3, .failed 0 0 grp3],
      let s : State := { tabled (has .ret) (entry .evaluating [someCont] []) 1 .evaluating with cone := [c] }
      s.cone[0]? = some c ∧ (s.sagAt 0).bind (fun g => g.entryAt 0x500) = some (entry .evaluating [someCont] []) ∧
      (s.sagAt 0).bind (fun g => g.entries[0]?) = some (entry .evaluating [someCont] []) ∧ handleBank 0x500 = 0 ∧ s.rootOf grp3 = grp3 ∧
      s.entriesOf 0 0 grp3 = [entry .evaluating [someCont] []]) ∧
    (let s := (has .ret).modSag 0 (fun g => { g with invokes := [⟨someCont, 8, 0, none, 0x500, true⟩] })
     (s.sagAt 0).bind (fun g => g.invokes[0]?) = some ⟨someCont, 8, 0, none, 0x500, true⟩ ∧ (s.modCore 0 (fun c => { c with cycle := 1 })).grant 0 0 = some (1, 0)) := by
  refine ⟨?_, ?_, ?_, ?_, ?_, ?_⟩
  · intro c hc
    simp only [List.mem_cons, List.not_mem_nil, or_false] at hc
    rcases hc with rfl | rfl | rfl <;> decide +kernel
  · decide +kernel
  · decide +kernel
  · decide +kernel
  · intro c hc
    simp only [List.mem_cons, List.not_mem_nil, or_false] at hc
    rcases hc with rfl | rfl <;> decide +kernel
  · decide +kernel

/-- A `tret` that an increment on its way holds, a soft error of an entry whose group counts on or has completed, and a notice to an entry with a waiter. -/
theorem meets_notices :
    (let s : State := { tabled (boxed { strand (.tret ⟨false, 1⟩) with grp := grp3, s := [(1, 0x500 * 2 ^ 24)] }) (entry .evaluating [] []) 1 .evaluating with
                        cone := [.inc grp3 0 ⟨someCont, 8, 0, none, 0x500, true⟩] }
     let u := s.took 1 false (0x500 * 2 ^ 24)
     s.Starts (.tret ⟨false, 1⟩) ∧ s.me.spec = none ∧ s.Gives 1 false (0x500 * 2 ^ 24) u ∧ (u.tansOut u.me.uid || u.incOut (u.rootOf grp3)) = true) ∧
    (∀ st ∈ [GState.evaluating, .complete], let s := tabled (has .ret) (entry .evaluating [someCont] []) 1 st
      (s.sagAt 0).bind (fun g => g.entries[0]?) = some (entry .evaluating [someCont] []) ∧ (s.group (s.rootOf grp3)).map (·.st) = some st) ∧
    (let e : Entry := { entry .evaluating [] [(8, 0)] with waiters := [(⟨0, 0⟩, 1)] }
     let s : State := { tabled (has .ret) e 1 .complete with cone := [.complete 0 0 grp3] }
     s.cone[0]? = some (.complete 0 0 grp3) ∧ (s.sagAt 0).map (·.entries) = some [e] ∧ handleBank e.handle = 0 ∧ s.rootOf e.grp = grp3 ∧ s.alive 0 0 1 = true ∧
     s.relocking 0 = false) := by
  unfold State.Starts State.Begins State.Gives
  refine ⟨by decide +kernel, ?_, by decide +kernel⟩
  intro st hst
  simp only [List.mem_cons, List.not_mem_nil, or_false] at hst
  rcases hst with rfl | rfl <;> decide +kernel

/-- The saggar of s with contexts cs. -/
def withCtxs (cs : List (Nat × Ctx)) (s : State) : State := s.modSag 0 (fun g => { g with ctxs := cs })

theorem meets_ctalloc :
    let o : FmtA := ⟨false, 2, false, 1, 3⟩
    let s := withCtxs [(1, ⟨0, 0, 0, 3, .live, none⟩)] (withS (.ctalloc o) [(1, 1), (2, 0x20001)])
    let u := s.took 1 false 1
    let v := u.took 2 false 0x20001
    s.Starts (.ctalloc o) ∧ dstOk o.d = true ∧ s.accepts o.d = true ∧ s.Gives o.a o.x 1 u ∧ u.Gives o.b o.y 0x20001 v ∧ v.room o.d = true ∧
    (v.sagAt v.me.sag).map (fun g => (g.ctxLive 1, (g.ctx 1).map (·.depth), g.ctxLive 9)) = some (true, some 3, false) ∧
    (v.sagAt v.me.sag).map (fun g => g.freeTag) = some (some 2) ∧ (v.sagAt v.me.sag).map (fun g => g.tagWait) = some [] := by
  unfold State.Starts State.Begins State.Gives; decide +kernel

/-- The allocator is out of tags and has a strand in its list, and then a tag comes free. -/
theorem meets_tag_grant :
    let s := (has .ret).modSag 0 (fun g => { g with tagWait := [.strand ⟨0, 0⟩ 1 0 0 0] })
    (s.sagAt 0).map (fun g => (g.phases, g.tagWait, g.freeTag)) = some ([], .strand ⟨0, 0⟩ 1 0 0 0 :: [], some 1) ∧ s.alive 0 0 1 = true ∧
    s.relocking 0 = false := by decide +kernel

/-- The saggar of s with context 5 under context 0, which has written one byte at an address. -/
def withCell (va : Nat) (s : State) : State :=
  (withCtxs [(5, ⟨0, 0, 0, 1, .live, none⟩)] s).modSag 0 (fun g => { g with cells := [⟨5, va / 64, [(va % 64, 9)], []⟩] })
/-- Page walks wait for the table of the channel that holds the root of the saggar's page table. -/
def walksWait (s : State) : State := { s with repair := [(stackOf 0x10000, { Repair.init with struck := [pseudoOf 0x10000] })] }
/-- The strand has begun a retirement of context 5. -/
def retiring (s : State) : Prop :=
  let o : FmtSrc := ⟨false, 1⟩
  let u := s.took 1 false 5
  s.Starts (.ctretireCommit o) ∧ s.Gives o.a o.x 5 u ∧ u.releaseOk 2 = true ∧
  (u.sagAt u.me.sag).map (fun g => (g.ctx 5, g.ctxBusy 5)) = some (some ⟨0, 0, 0, 1, .live, none⟩, false)
/-- A `ctphase` that goes on without its strand, with tag 5 left. -/
def phase5 : PhaseRun := ⟨0, 0, 1, some 0, none, 0x40000000, 0x100000, 0x100000, 0, 1, [5]⟩
/-- A commit of the strand under way. -/
def committing : Msg := ⟨7, 0, 0, 1, 0, some 0, none, 1, 0, 0x40000010, 0x100010, 1, homeOf 0x100010, .commit 6 0, 7, 0⟩

/-- A phase at the allocator: the commit before is still under way, or its next sibling is committed. -/
theorem meets_phases :
    (let s : State := { (withCell 0x40000013 (heap .ret [])).modSag 0 (fun g => { g with phases := [phase5] }) with net := [committing] }
     (s.sagAt 0).map (·.phases) = some [phase5] ∧ s.commitsOut phase5.uid = true) ∧
    (let s := (withCell 0x40000013 (heap .ret [])).modSag 0 (fun g => { g with phases := [phase5] })
     (s.sagAt 0).map (·.phases) = some [phase5] ∧ s.commitsOut phase5.uid = false ∧
     (match s.commitCtx (phase5.committer 0) 5 with | .ok (b, _) => b | _ => false) = true) := by decide +kernel

/-- A commit whose place is known, and one to a page that a page walk has to wait for. -/
theorem meets_commits :
    (let s := withCell 0x40000013 (heap (.ctretireCommit ⟨false, 1⟩) [(1, 5)])
     let u := s.took 1 false 5
     retiring s ∧ (match u.commitCtx u.committer 5 with | .ok (true, w) => w.commitsOut w.me.uid | _ => false) = true) ∧
    (let s := withCtxs [(5, ⟨0, 0, 0, 1, .live, none⟩)] (heap (.ctretireCommit ⟨false, 1⟩) [(1, 5)])
     let u := s.took 1 false 5
     retiring s ∧ (match u.commitCtx u.committer 5 with | .ok (true, w) => !w.commitsOut w.me.uid | _ => false) = true) ∧
    (let s := walksWait (withCell 0x600003 (heap (.ctretireCommit ⟨false, 1⟩) [(1, 5)]))
     let u := s.took 1 false 5
     retiring s ∧ (match u.commitCtx u.committer 5 with | .ok (b, _) => !b | _ => false) = true) := by
  unfold retiring State.Starts State.Begins State.Gives
  refine ⟨?_, ?_, ?_⟩ <;> decide +kernel

theorem meets_contexts :
    (let o : FmtSrc := ⟨false, 1⟩
     ∀ f ∈ [Instr.ctenter, .ctretireCommit, .ctretireDiscard],
       let s := withCtxs [(5, ⟨0, 1, 0, 1, .live, none⟩)] (withS (f o) [(1, 5)])
       s.Starts (f o)) ∧
    (let s := withCtxs [(5, ⟨0, 1, 0, 1, .live, none⟩)] (withS .ret [(1, 5)])
     let u := s.took 1 false 5
     s.Gives 1 false 5 u ∧ s.me.spec = none ∧ u.releaseOk 2 = true ∧ bitsOf (5 : Word) 0 16 ≠ 0 ∧
     (u.sagAt u.me.sag).map (fun g => (g.ctxLive 5, g.ctx 5, g.ctxBusy 5)) = some (true, some ⟨0, 1, 0, 1, .live, none⟩, false)) ∧
    (let s := (withCtxs [(5, ⟨0, 0, 0, 1, .live, none⟩), (6, ⟨5, 0, 0, 2, .live, none⟩)] (has .ret)).modSag 0 (fun g => { g with cells := [⟨6, 0x1000, [(3, 9)], []⟩] })
     (s.sagAt 0).map (fun g => (g.ctx 6, g.cells.filter (fun y => y.ctx = 6))) = some (some ⟨5, 0, 0, 2, .live, none⟩, [⟨6, 0x1000, [(3, 9)], []⟩])) ∧
    (let o : FmtA := ⟨false, 2, false, 1, 3⟩
     let s := withCtxs [(5, ⟨0, 0, 0, 1, .live, none⟩)] (withS (.ctphase o) [(1, 5), (2, 1)])
     let u := s.took 1 false 5
     let v := u.took 2 false 1
     s.Starts (.ctphase o) ∧ dstOk o.d = true ∧ s.accepts o.d = true ∧ s.Gives o.a o.x 5 u ∧ u.Gives o.b o.y 1 v ∧ v.releaseOk 2 = true ∧
     (v.sagAt v.me.sag).map (fun g => (g.ctxLive 5, g.retiredSiblings 5 1)) = some (true, []) ∧ v.commitsOut v.me.uid = false ∧
     v.phaseBusy 5 1 = false ∧ v.room o.d = true) ∧
    (let o : FmtA := ⟨false, 2, false, 1, 3⟩
     let s := boxed { strand (.ctphase o) with stage := 1, work := [2, 5] }
     s.me.cur = some (.ctphase o) ∧ s.me.stage = 1 ∧ s.me.work = [2, 5] ∧ s.commitsOut s.me.uid = false ∧ s.room o.d = true) ∧
    (let o : FmtA := ⟨false, 2, false, 1, 3⟩
     let s := withS (.ctq o) [(1, 5), (2, 6)]
     let u := s.took 1 false 5
     let v := u.took 2 false 6
     s.Starts (.ctq o) ∧ dstOk o.d = true ∧ s.accepts o.d = true ∧ s.Gives o.a o.x 5 u ∧ u.Gives o.b o.y 6 v ∧ (v.sagAt v.me.sag).isSome = true ∧ v.room o.d = true) := by
  unfold State.Starts State.Begins State.Gives
  refine ⟨?_, ?_, ?_, ?_, ?_, ?_⟩ <;> decide +kernel

/-- Task 5 of domain 0, and the saggar of s with task t. -/
def task5 (st : SpecState) (tag area : Option Nat) : SpecTask :=
  ⟨0, 5, 0x40000, 1, 2, 3, true, st, tag, area, some 0, false, false, false, false, false, 0, 0, 0, false, some ⟨0, 0⟩, 0x600000, 0x600000, 0, 0x20000, 0, 0, 0, 0⟩
def withTask (t : SpecTask) (s : State) : State :=
  (withCtxs [(1, ⟨0, 0, 0, 1, .live, some ⟨0, 5⟩⟩)] s).modSag 0 (fun g => { g with specs := [t], instances := [⟨0, 0, 0, 0, 0, false, [], [], true, false, true, [], none, [0, 1]⟩], cfg := { g.cfg with undoVa := 0x600000, undoPa := 0x140000, undoAreas := 2 } })

/-- A task record. -/
def spawnRec : List Word := [0x40000, 1, 2, 3]

theorem meets_sspawn :
    let o : FmtA := ⟨false, 2, false, 1, 3⟩
    let s := withRec (.sspawnOrdered o) [(1, recA), (2, 6)] spawnRec
    let u := s.took 1 false recA
    let v := u.took 2 false 6
    let t := reading v spawnRec
    (s.Starts (.sspawnOrdered o) ∧ s.acquirePending = false ∧ dstOk o.d = true ∧ s.accepts o.d = true ∧ s.Gives o.a o.x recA u ∧ u.Gives o.b o.y 6 v) ∧
    Reads 2 recA 4 v spawnRec t ∧ ((t.sagAt t.me.sag).map (fun g => (g.specs, g.newestOf (t.domainOf t.me), g.poolFull)) = some ([], none, false) ∧
      t.room o.d = true ∧ t.releaseOk 2 = true ∧ (t.sagAt 0).map (fun g => (s.tooLate g.lastLaunch s.myRank, s.tooLate (0, 40) s.myRank)) = some (false, true) ∧
      ({ t with net := [atWord (.store (toBytes 8 5))] } : State).releaseOk 2 = false) := by
  unfold State.Starts State.Begins State.Gives
  exact ⟨by decide +kernel, reads_of_dwords rfl (by decide +kernel) (by decide +kernel) (by decide +kernel) (by decide +kernel), by decide +kernel⟩

theorem meets_spec_dispatch :
    (let s := withTask (task5 .queued none none) (has .ret)
     s.specAt 0 ⟨0, 5⟩ = some (task5 .queued none none) ∧
     (s.sagAt 0).map (fun g => (g.dispatchOk (task5 .queued none none), g.tagWait, g.freeTag)) = some (true, [], some 2)) ∧
    (let s := withTask (task5 .queued (some 1) none) (has .ret)
     s.specAt 0 ⟨0, 5⟩ = some (task5 .queued (some 1) none) ∧ (s.sagAt 0).map (fun g => (g.freeArea 0, g.holds (clusterOf 0))) = some (some 0, true) ∧ (s.modCore 0 (fun c => { c with cycle := 1 })).grant 0 0 = some (1, 0)) := by decide +kernel

/-- The channel that holds the undo area of task 5 reloads its repair table. -/
def undoWaits (s : State) : State := { s with repair := [(stackOf 0x140000, { Repair.init with struck := [pseudoOf 0x140000] })] }
/-- A record of a boosted operation whose inverse is at 0x50000. -/
def bopRec : List Word := [0x11, 0, 0x50000, 1, 2]

/-- Whatever the counters of the saggar, the undo record of task 5 lies at 0x140000, and waits there for a table. -/
theorem undo_counted (s : State) (n : Nat) (g : Saggar) (f : Counters → Counters) (h : s.sagAt n = some g)
    (hg : g.cfg.undoVa = 0x600000 ∧ g.cfg.undoPa = 0x140000 ∧ 0x600000 + 32 ≤ undoAt g.cfg.undoVa g.cfg.undoAreas) :
    ((s.count n f).undoLoc n .store 0x600000).1 = if s.tableWaits 0x140000 32 then .waits else .at_ 0x140000 := by
  have h1 : (s.count n f).sagAt n = some { g with counters := f g.counters } := by
    simp only [State.count, State.modSag, h]; exact Sys2Proof.Tbl.find_put_same _ _ _
  have h2 : (s.count n f).tableWaits 0x140000 32 = s.tableWaits 0x140000 32 := by simp only [State.count, State.modSag, h]; rfl
  obtain ⟨ha, hb, hc⟩ := hg
  rw [ha] at hc
  simp [State.undoLoc, h1, h2, ha, hb, hc]

theorem meets_bop :
    let o : FmtTwo := ⟨false, 2, false, 1⟩
    let s := withTask (task5 .running (some 1) (some 0)) ((withRec (.bop o) [(1, 0x77), (2, recA)] bopRec).modMe (fun m => { m with spec := some ⟨0, 5⟩ }))
    let u := s.took 1 false 0x77
    let v := u.took 2 false recA
    let w := reading v bopRec
    (s.Starts (.bop o) ∧ s.me.spec = some ⟨0, 5⟩ ∧ s.me.inverse = false ∧ s.me.bop = false ∧ s.acquirePending = false ∧ s.Gives o.a o.x 0x77 u ∧
     u.Gives o.b o.y recA v ∧ resolve v v.myCluster v.me.sag recA 40 = some (.scratch v.core 0x100) ∧ v.me.reads.length = 2) ∧
    Reads 2 recA 5 v bopRec w ∧ (bopLimits bopRec = none ∧ bopLimits [0, 0, 0x50001] ≠ none ∧ w.specAt w.me.sag ⟨0, 5⟩ = some (task5 .running (some 1) (some 0)) ∧
      (w.sagAt w.me.sag).map (fun g => (g.locks, g.locksFull 0x77)) = some ([], false) ∧ (task5 .running (some 1) (some 0)).solo = false ∧
      (task5 .running (some 1) (some 0)).undop - (task5 .running (some 1) (some 0)).undob ≠ 256 * 32 ∧
      (w.sagAt w.me.sag).map (fun g => (g.cfg.undoVa, g.cfg.undoPa, decide (0x600000 + 32 ≤ undoAt g.cfg.undoVa g.cfg.undoAreas))) = some (0x600000, 0x140000, true) ∧
      w.tableWaits 0x140000 32 = false ∧ (undoWaits w).tableWaits 0x140000 32 = true) := by
  unfold State.Starts State.Begins State.Gives
  exact ⟨by decide +kernel, reads_of_dwords rfl (by decide +kernel) (by decide +kernel) (by decide +kernel) (by decide +kernel), by decide +kernel⟩

theorem meets_spec_ends :
    ((boxed { strand .bopend with bop := true }).Starts .bopend ∧ (has .bopend).Starts .bopend ∧ (has .bopend).me.bop = false) ∧
    (let s := withTask (task5 .running (some 1) (some 0)) (boxed { strand .sdone with spec := some ⟨0, 5⟩ })
     s.Starts .sdone ∧ s.me.spec = some ⟨0, 5⟩ ∧ s.me.inverse = false ∧ s.me.bop = false ∧ s.specAt s.me.sag ⟨0, 5⟩ = some (task5 .running (some 1) (some 0)) ∧
     (s.sagAt s.me.sag).map (fun g => g.ctxBusy 1) = some false ∧ s.me.laneLoads = 0 ∧ s.liveStrands = [s.myRef]) ∧
    (let o : FmtSrc := ⟨false, 1⟩
     let s := withTask (task5 .running (some 1) (some 0)) (boxed { strand (.sabort o) with spec := some ⟨0, 5⟩ })
     s.Starts (.sabort o) ∧ s.Gives o.a o.x 5 (s.took 1 false 5) ∧ s.me.spec = some ⟨0, 5⟩ ∧ s.me.inverse = false ∧
     s.specAt s.me.sag ⟨0, 5⟩ = some (task5 .running (some 1) (some 0))) ∧
    (let s := withTask (task5 .aborting none (some 0)) (boxed { strand .uend with spec := some ⟨0, 5⟩, inverse := true })
     s.Starts .uend ∧ s.me.spec = some ⟨0, 5⟩ ∧ s.me.inverse = true ∧ s.me.laneLoads = 0 ∧ s.me.pend = 0 ∧ s.releaseOk 2 = true ∧
     s.specAt s.me.sag ⟨0, 5⟩ = some (task5 .aborting none (some 0)) ∧
     (task5 .aborting none (some 0)).undop = (task5 .aborting none (some 0)).undob) ∧
    (∀ st ∈ [SpecState.committing, .done],
      let s := withTask (task5 st (some 1) (some 0)) (has .ret)
      s.specAt 0 ⟨0, 5⟩ = some (task5 st (some 1) (some 0)) ∧ s.specOut 0 ⟨0, 5⟩ = false ∧
      (s.sagAt 0).map (fun g => g.commitTurn (task5 .done (some 1) (some 0))) = some true) ∧
    (let wrote := fun (va : Nat) => (withTask (task5 .done (some 1) (some 0)) (heap .ret [])).modSag 0 (fun g => { g with cells := [⟨1, va / 64, [(va % 64, 9)], []⟩], cfg := { g.cfg with heapb := 0x40000000, heapl := 0x100000, heapo := 0x100000 } })
     let t := { task5 .done (some 1) (some 0) with heapb := 0x40000000, heapl := 0x100000, heapo := 0x100000 }
     (match (wrote 0x40000013).commitCtx (t.committer 0) 1 with | .ok (true, u) => u.specOut 0 ⟨0, 5⟩ | _ => false) = true ∧
     (match (walksWait (wrote 0x600003)).commitCtx (t.committer 0) 1 with | .ok (b, _) => !b | _ => false) = true) ∧
    (let t := { task5 .aborting (some 1) (some 0) with undop := 0x600020 }
     let s := withTask t (has .ret)
     s.specAt 0 ⟨0, 5⟩ = some t ∧ (s.sagAt 0).map (fun g => g.abortsNow) = some [] ∧ t.undop ≠ t.undob ∧ s.net = [] ∧ s.cores.all (fun c => decide (c.2.replay = [])) = true ∧
     s.taskStrands 0 ⟨0, 5⟩ = [] ∧ (s.sagAt 0).map (·.phases) = some []) ∧
    (let t := { task5 .aborting none (some 0) with undop := 0x600020 }
     let s := ((withTask t (boxed { strand .ret with dying := true })).modSag 0 (fun g => { g with abortsNow := [(0, 5)] })).modCore 0 (fun c => { c with cycle := 1 })
     s.specAt 0 ⟨0, 5⟩ = some t ∧ t.helper = some ⟨0, 0⟩ ∧ (s.strandOf ⟨0, 0⟩).dying = true ∧ t.undop ≠ t.undob ∧
     (s.sagAt 0).bind (fun g => s.helperAt g t 0) = some (⟨0, 0⟩, 0) ∧ (s.undoRecord 0 (t.undop - 32)).1 = some [0, 0, 0, 0] ∧
     ((undoWaits s).undoRecord 0 (t.undop - 32)).1 = none) := by
  unfold State.Starts State.Begins State.Gives
  refine ⟨?_, ?_, ?_, ?_, ?_, ?_, ?_, ?_⟩
  case refine_5 =>
    intro st hst
    simp only [List.mem_cons, List.not_mem_nil, or_false] at hst
    rcases hst with rfl | rfl <;> decide +kernel
  all_goals decide +kernel

/-- A commutativity table of two kinds. -/
theorem meets_cload :
    let o : FmtSrc := ⟨false, 1⟩
    let s := (withRec (.cload o) [(1, recA)] [2, 0x41]).modMe (fun m => { m with priv := true })
    let u := s.took 1 false recA
    let v := reading u [2]
    (s.Starts (.cload o) ∧ s.me.priv = true ∧ s.acquirePending = false ∧ s.Gives o.a o.x recA u ∧ (has (.cload o)).Starts (.cload o) ∧ (has (.cload o)).me.priv = false) ∧
    Reads 1 recA 1 u [2] v ∧ (ctLimits [2] = none ∧ recBits [2] 0 1 = 2) ∧ Reads 2 (recA + 8) 1 v [0x41] (reading v [0x41]) ∧
    (ctAsym 2 [0x41] = none ∧ ctAsym 2 [4] ≠ none) := by
  unfold State.Starts State.Begins State.Gives
  exact ⟨by decide +kernel, reads_of_dwords rfl (by decide +kernel) (by decide +kernel) (by decide +kernel) (by decide +kernel), by decide +kernel, reads_of_dwords rfl (by decide +kernel) (by decide +kernel) (by decide +kernel) (by decide +kernel), by decide +kernel⟩
/-! Privileged operations, debug, the scheduler and the device as a whole. -/

/-- The strand in focus is privileged and holds registers r; core 1 has a tenant of the same saggar and f applied to it. -/
def sysS (i : Instr) (r : List (Nat × Word)) (f : Core → Core) : State := ((pair i r).modMe (fun m => { m with priv := true })).modCore 1 f

theorem meets_sysop :
    (let o : FmtTwo := ⟨false, 2, false, 1⟩
     let s := sysS (.sysopTlbinv o) [(1, 0x40000000), (2, 0x10000)] id
     let u := s.took 1 false 0x40000000
     let v := u.took 2 false 0x10000
     s.Starts (.sysopTlbinv o) ∧ s.me.priv = true ∧ s.Gives o.a o.x 0x40000000 u ∧ u.Gives o.b o.y 0x10000 v ∧ (⟨0, 0x40000000, 16, 0⟩ : Tlb).va < 2 ^ 64) ∧
    ((has (.sysopSample ⟨3⟩)).me.priv = false ∧ (has (.sysopSample ⟨3⟩)).Begins (.sysopSample ⟨3⟩)) := by
  unfold State.Starts State.Begins State.Gives; decide +kernel

/-- A core outside the saggar, the own core, a stopped core and a running one. -/
theorem meets_stopcore (f : FmtUn → Instr) (hf : f = Instr.sysopStopcore ∨ f = Instr.sysopResumecore) :
    ∀ x ∈ [((3072 : Word), false), (0, false), (1, true), (1, false)],
      let o : FmtUn := ⟨false, 1, 3⟩
      let s := sysS (f o) [(1, x.1)] (fun c => { c with stopped := x.2 })
      let u := s.took 1 false x.1
      s.Starts (f o) ∧ s.me.priv = true ∧ dstOk o.d = true ∧ s.accepts o.d = true ∧ s.Gives o.a o.x x.1 u ∧ u.room o.d = true ∧
      (decide (x.1.toNat < Config.cores) && s.inSaggar s.me.sag (clusterOf x.1.toNat)) = decide (x.1 ≠ 3072) ∧ (u.coreAt 1).stopped = x.2 ∧ u.isStopped 1 = x.2 := by
  unfold State.Starts State.Begins State.Gives
  intro x hx
  simp only [List.mem_cons, List.not_mem_nil, or_false] at hx
  rcases hf with rfl | rfl <;> rcases hx with rfl | rfl | rfl | rfl <;> decide +kernel

/-- A running core 1 is quiet when stopped, or not, when its strand waits for a reply. -/
theorem meets_stopcore_quiet : ∀ x ∈ [(Status.ready, true), (.out, false)],
    let s := (sysS (.sysopStopcore ⟨false, 1, 3⟩) [(1, 1)] (fun c => { c with slots := [(0, { strand .ret with status := x.1 })] })).took 1 false 1
    let r := (sysS (.sysopResumecore ⟨false, 1, 3⟩) [(1, 1)] (fun c => { c with stopped := true })).took 1 false 1
    s.isStopped 1 = false ∧ (s.stopCore 1).quiet 1 = x.2 ∧ (r.modCore 1 (fun x => { x with stopped := false })).room 3 = true ∧
    (s.modMe (fun m => { m with stage := 1, work := [1] })).me.stage = 1 ∧ (s.modMe (fun m => { m with stage := 1, work := [1] })).me.work = [1] ∧
    s.me.cur = some (.sysopStopcore ⟨false, 1, 3⟩) ∧ s.quiet 1 = x.2 ∧ (s.coreAt 1).stopped = false ∧ ((s.stopCore 1).coreAt 1).stopped = true ∧ s.room 3 = true := by
  intro x hx
  simp only [List.mem_cons, List.not_mem_nil, or_false] at hx
  rcases hx with rfl | rfl <;> decide +kernel

theorem meets_sample : ∀ p ∈ [none, some 2000],
    let s : State := { sysS (.sysopSample ⟨3⟩) [] id with pulse := p }
    s.Starts (.sysopSample ⟨3⟩) ∧ s.me.priv = true ∧ dstOk (3 : Code) = true ∧ s.accepts 3 = true ∧ s.room 3 = true ∧ s.pulse = p ∧ s.time < 2000 ∧
    ({ s with time := 2000 } : State).time = 2000 ∧ ({ s with time := 2000 } : State).Starts (.sysopSample ⟨3⟩) := by
  unfold State.Starts State.Begins
  intro p hp
  simp only [List.mem_cons, List.not_mem_nil, or_false] at hp
  rcases hp with rfl | rfl <;> decide +kernel

/-- Stores of which each is admitted where it goes, without another effect, are all checked. -/
theorem storePlaces_admits (s : State) (a : Word) (pl : Nat × Word → Place) : ∀ (l : List (Nat × Word)) (acc : List (Place × Nat × Body)),
    (∀ e ∈ l, Admits .store (a + word (8 * e.1)) 8 8 (fun _ => true) s (pl e) s) → ∀ k, storePlaces l a acc s k =
      k (acc.reverse ++ l.map (fun e => (pl e, 8, .store (toBytes 8 e.2.toNat)))) s
  | [], acc, _, k => by simp [storePlaces]
  | e :: t, acc, h, k => by
    rw [storePlaces, access, h e (by simp) _, storePlaces_admits s a pl t _ (fun x hx => h x (by simp [hx]))]
    simp

/-- A dump of core 1, which is stopped or not, to the own scratchpad. -/
def dumping (p : Bool) : State := sysS (.sysopDump ⟨false, 2, false, 1, 3⟩) [(1, 1), (2, recA)] (fun c => { c with stopped := p })

theorem meets_dump :
    (∀ p ∈ [true, false],
      let o : FmtA := ⟨false, 2, false, 1, 3⟩
      let s := dumping p
      let u := s.took 1 false 1
      let v := u.took 2 false recA
      s.Starts (.sysopDump o) ∧ s.me.priv = true ∧ s.acquirePending = false ∧ dstOk o.d = true ∧ s.accepts o.d = true ∧ s.Gives o.a o.x 1 u ∧
      u.Gives o.b o.y recA v ∧ v.room o.d = true ∧ v.inSaggar v.me.sag (clusterOf 1) = true ∧ v.isStopped 1 = p ∧ resolve v v.myCluster v.me.sag recA (8 * (v.dumpWords 1).length) ≠ none ∧
      resolve v v.myCluster v.me.sag 0x80000000000FFFF8 (8 * (v.dumpWords 1).length) = none ∧ v.requestRoom 1 = true ∧ v.releaseOk 2 = true ∧ v.myCore.replay = []) ∧
    (let v := ((dumping true).took 1 false 1).took 2 false recA
     let es := (List.range (v.dumpWords 1).length).zip (v.dumpWords 1)
     let ps := es.map (fun e => (plc (0x100 + 8 * e.1), 8, .store (toBytes 8 e.2.toNat)))
     (∀ k, storePlaces es recA [] v k = k ps v) ∧ ∀ p ∈ ps, p.1.replay = none) ∧
    (let t := (dumping true).modMe (fun m => { m with stage := 1 })
     t.me.cur = some (.sysopDump ⟨false, 2, false, 1, 3⟩) ∧ t.me.stage = 1 ∧ t.releaseOk 2 = true ∧ t.room 3 = true) := by
  unfold State.Starts State.Begins State.Gives
  refine ⟨?_, ⟨?_, ?_⟩, by decide +kernel⟩
  · intro p hp
    simp only [List.mem_cons, List.not_mem_nil, or_false] at hp
    rcases hp with rfl | rfl <;> decide +kernel
  · intro k
    have h : ∀ e ∈ (List.range ((((dumping true).took 1 false 1).took 2 false recA).dumpWords 1).length).zip ((((dumping true).took 1 false 1).took 2 false recA).dumpWords 1),
        let v := ((dumping true).took 1 false 1).took 2 false recA
        resolve v v.myCluster v.me.sag (recA + word (8 * e.1)) 8 = some (.scratch 0 (0x100 + 8 * e.1)) ∧ (recA + word (8 * e.1)).toNat % 8 = 0 ∧
        v.rangeLocked .store (Addr.scratch 0 (0x100 + 8 * e.1)).named 8 = none := by decide +kernel
    exact storePlaces_admits _ recA (fun e => plc (0x100 + 8 * e.1)) _ []
      (fun e he => admits_of_leads (h e he).1 (h e he).2.1 rfl ⟨rfl, rfl, rfl⟩ (h e he).2.2) k
  · decide +kernel

theorem meets_dump_layout : ((boxed (strand .ret)).coreAt 0).dumpSlots[0]? = some 0 ∧ (toCore1 (.mail 3 9)).slot < 256 := by decide +kernel

/-- A running core with a strand that waits for room, one that waits for a reply and one that is ready. -/
def busyCore : State :=
  (has .ret).modCore 0 (fun c => { c with slots := [(0, { strand .ret with status := .held }), (1, { strand .ret with status := .out }), (2, strand .ret)] })

theorem meets_debug :
    ((busyCore.coreAt 0).stopped = false ∧ (busyCore.strandAt 0 0).live = true ∧ (busyCore.strandAt 0 0).status = .held ∧ (busyCore.strandAt 0 0).sent = false ∧
     (busyCore.strandAt 0 1).status ≠ .held ∧ ((busyCore.stopCore 0).coreAt 0).stopped = true ∧ (busyCore.coreAt 0).saved = none) ∧
    (Config.cores ≤ 3840 ∧ 0 < Config.cores) ∧
    (∀ t ∈ [(1999 : Nat), 2000],
      let s : State := { busyCore with pulse := some 2000, time := t }
      s.pulse = some 2000 ∧ s.sampleCore 0 ≠ [] ∧ (Tbl.find s.cores 0).isSome = true) := by decide +kernel

/-- Core 0 of `ready` under STEP of a slot. -/
noncomputable def stepping (k : Nat) : State := ready.modCore 0 (fun c => { c with dctl := word (128 + 256 * k) })
/-- A strand that waits as w says, and one at a re-negotiation point with a lane load on its way. -/
def rewaiting (w : Wait) : State := (has .ret).modStrand 0 0 (fun m => { m with status := .parked w })
def renegotiating : State := (has .ret).modStrand 0 0 (fun m => { m with rnWait := true, shrink := some 1, laneLoads := 1 })
/-- Its die relocks. -/
def relocked (s : State) : State := s.modDie 0 (fun d => { d with relock := some 5000 })

theorem meets_steps :
    (∀ x ∈ [((0 : Nat), true), (1, false)],
      (stepping x.1).finishing 0 = none ∧
      ((stepping x.1).turn 0).map (fun t => ((t.coreAt 0).dctl.getLsbD 7, (t.coreAt 0).halted, t.eligible 0 x.1)) = some (true, false, x.2)) ∧
    (relocked busyCore).relocking 0 = true ∧ busyCore.relocking 0 = false ∧ busyCore.isStopped 0 = false ∧ ((has .ret).stopCore 0).isStopped 0 = true ∧
    (busyCore.strandAt 0 1).status = .out ∧ (busyCore.strandAt 0 2).status = .ready ∧ busyCore.outside 0 2 = false ∧
    renegotiating.outside 0 0 = true ∧ (rewaiting .barrier).sampleCode 0 0 = Wait.row .barrier := by
  refine ⟨?_, by decide +kernel, by decide +kernel, by decide +kernel, by decide +kernel, by decide +kernel, by decide +kernel, by decide +kernel, by decide +kernel, by decide +kernel⟩
  intro x hx
  simp only [List.mem_cons, List.not_mem_nil, or_false] at hx
  rcases hx with rfl | rfl <;> decide +kernel

/-- Core 0 with a claim of two groups in slot 0, its band 0, a pending matrix job and a wait; it is to be saved. -/
def preempted : State :=
  { (boxed { strand .ret with cur := none, g := 2 }).modCluster 0 (fun c => { c with jobs := [{ job .mmrun [] with state := .waiting }] }) with
    waiters := [⟨atWord (.swait 0), false⟩] }

theorem meets_save :
    (((has .ret).stopCore 0).coreAt 0).stopped = true ∧
    (let s := preempted
     (s.coreAt 0).stopped = false ∧ (s.coreAt 0).saved = none ∧ s.relocking 0 = false ∧ (relocked s).relocking 0 = true ∧
     (let h := s.haltCore 0
      h.strandsReady 0 = true ∧ h.jobsReady 0 = true ∧
      (match State.withdrawAll (clusterOf 0) [] ((h.clusterAt (clusterOf 0)).jobs.filter (fun j => decide (j.core = 0))) h with
       | some (jobs, t) => decide (jobs.map (·.state) = [.withdrawn]) && decide (bitsOf (t.clusterAt 0).bandMap 0 4 = 8) && (t.strandAt 0 0).live && decide ((t.strandAt 0 0).g = 2)
       | none => false) = true)) := by decide +kernel

/-- A saved core with two groups to claim again and band 0, which core 1 owns by now. -/
def savedCore : CoreSave := ⟨[(0, 1, 2)], [{ job .mmrun [] with state := .withdrawn }], [], [(0, Band.clear)], [], [], [], [], [], []⟩

/-- Core 0 is saved as v says; core 1 holds n groups, has jobs js in the queue and owns every band. -/
def resuming (v : CoreSave) (n : Nat) (js : List Job) : State :=
  (((has .ret).modCore 0 (fun c => { c with saved := some v })).modCore 1 (fun c => { c with tenant := some 0, slots := [(0, { strand .ret with g := n })] })).modCluster 0
    (fun c => { c with bandMap := 0xFEDCBA99, jobs := js })

/-- A matrix job of core 1 on band 0. -/
def other (k : Nat) : Job := { job .mmrun [] with core := 1, id := k, desc := { JobDesc.zero .mmrun with bands := 1 } }

set_option maxRecDepth 8192 in
theorem meets_resume :
    (((has .ret).coreAt 0).saved = none ∧ ((has .ret).coreAt 0).away = []) ∧
    (((resuming savedCore 0 [other 1]).coreAt 0).saved = some savedCore ∧ (resuming savedCore 0 [other 1]).bandBack 0 0 = false) ∧
    (let v := { savedCore with bands := [], jobs := [] }
     v.claims = [(0, 1, 2)] ∧ (resuming v 15 []).alive 0 0 1 = true ∧ (resuming v 15 []).freeGroups (clusterOf 0) < 2) ∧
    (let v := { savedCore with bands := [] }
     v.jobs ≠ [] ∧ 16 ≤ ((resuming v 0 ((List.range 16).map other)).clusterAt (clusterOf 0)).jobs.length) ∧
    (let s := resuming savedCore 0 []
     let b := s.bandsBack 0 savedCore
     let j := State.jobsBack 0 b.1.jobs.length b.1 b.2
     (s.coreAt 0).saved = some savedCore ∧ b.1.bands = [] ∧ j.1.jobs = [] ∧ (State.claimsBack 0 j.1.claims j.2).1 = [] ∧ savedCore.waits = [] ∧ savedCore.bars = [] ∧
     savedCore.tags = [] ∧ savedCore.rings = [] ∧ savedCore.twaits = [] ∧ savedCore.lanes = [] ∧ s.alive 0 0 1 = true ∧
     Tbl.sortedFrom 0 (s.clusterAt (clusterOf 0)).bands = true) := by
  refine ⟨?_, ?_, ?_, ?_, ?_⟩ <;> decide +kernel

/-- What is put back of a saved core: nothing, or a `swait` for b. -/
def noWaits : CoreSave := ⟨[], [], [], [], [], [], [], [], [], []⟩
def signalWait (b : Word) : Waiter := ⟨atWord (.swait b), false⟩

/-- The strand waits at a barrier of core 1, or on an empty queue. -/
def barred : State := (rewaiting .barrier).modCore 1 (fun c => { c with bars := [(2, ⟨1, 2, 1, 0, []⟩)] })
def atQueue : State := (rewaiting (.ring 1)).modSag 0 (fun g => { g with queues := [(1, ⟨0, 0, (0, 0), [], [], 8, []⟩)] })

/-- A strand beside a signal word that holds 0x55, whose channel reloads its repair table. -/
def signalled : State := heap .ret []
def wordWaits (s : State) : State := { s with repair := [(stackOf 0x100010, { Repair.init with struck := [pseudoOf 0x100010] })] }

/-- A `swait` whose signal has come, has not come, or stands behind a table that is reloaded. -/
theorem meets_waits_again :
    (noWaits.waits = [] ∧ signalled.alive 0 0 1 = true) ∧ signalled.stalled (signalWait 0x55).msg = false ∧ (∀ h ∈ (signalWait 0x55).msg.homes, signalled.awakeAt h = true) ∧
    signalled.errs = [] ∧ signalled.anyDead 0x100010 8 = false ∧ signalled.dword 0x100010 = 0x55 ∧ (wordWaits signalled).stalled (signalWait 0).msg = true ∧
    (barred.stillParked ⟨0, 0⟩ .barrier = true ∧ ((barred.coreAt 1).bar 2).st = 1 ∧ ((barred.coreAt 1).bar 2).ph = 0) ∧
    (rewaiting .ctalloc).stillParked ⟨0, 0⟩ .ctalloc = true ∧
    (atQueue.stillParked ⟨0, 0⟩ (.ring 1) = true ∧ (atQueue.sagAt (atQueue.strandOf ⟨0, 0⟩).sag).bind (fun g => Tbl.find g.queues 1) = some ⟨0, 0, (0, 0), [], [], 8, []⟩) ∧
    (rewaiting .lane).stillParked ⟨0, 0⟩ .lane = true := by
  refine ⟨?_, ?_, ?_, ?_, ?_, ?_, ?_, ?_, ?_, ?_, ?_⟩ <;> decide +kernel

/-! Launching and scheduling. -/

/-- A kernel, a node of it, and a graph of two nodes in a row. -/
def kern5 : KernelRec := ⟨5, 0x40000, 2, 0, 0, [], none, false⟩
def node (npred : Nat) (succ : List Nat) : NodeRec := ⟨5, 0, 1, 1, 3, 1, 0, npred, succ, 0, 0⟩
def graphOf (ns : List NodeRec) : GraphRec := ⟨0x77, ns, List.replicate 32 1⟩
def graph2 : GraphRec := graphOf [node 0 [1], node 1 []]

/-- The saggar of s holds the kernel and graphs xs, and f is applied to it. -/
def withGraphs (xs : List GraphRec) (f : Saggar → Saggar) (s : State) : State := s.modSag 0 (fun g => f { g with kernels := [kern5], graphs := xs })

/-- Launch records: with one patch, without one, and with a priority that is too high. -/
def launchRec : List Word := [0x77, 0x8000000000000120, 0x10001, 0x40000010]
def patchRec : List Word := [8, 0x99]

def launching (r ps : List Word) (f : Saggar → Saggar) : State := withGraphs [graph2] f (withRec (.launch ⟨false, 1, 3⟩) [(1, recA)] (r ++ ps))

theorem meets_launch (r ps : List Word) (h : (r, ps) ∈ [(launchRec, patchRec), ([0x77, 0, 0, 0], []), ([0x77, 0, 0x40000, 0], []), (launchRec, [12, 0])]) :
    let o : FmtUn := ⟨false, 1, 3⟩
    let s := launching r ps id
    let u := s.took 1 false recA
    (s.Starts (.launch o) ∧ s.acquirePending = false ∧ dstOk o.d = true ∧ s.accepts o.d = true ∧ s.Gives o.a o.x recA u) ∧ Reads 1 recA 4 u r (reading u r) ∧
    ((reading u r).sagAt (reading u r).me.sag).map (fun g => (g.launchLimits r, g.graph (recBits r 0 8), g.poolFull)) =
      some (if r = [0x77, 0, 0x40000, 0] then some 18 else none, some graph2, false) ∧
    (ps ≠ [] → recBits r 16 2 = 1 ∧ Reads 5 (r.getD 1 0) 2 (reading u r) ps (reading (reading u r) ps)) ∧
    badPatch [((ps.getD 0 0).toNat, ps.getD 1 0)] 32 = (if ps = [12, 0] then some 0 else none) ∧
    (reading (reading u r) ps).room o.d = true ∧ (reading (reading u r) ps).releaseOk 2 = true ∧
    ({ reading (reading u r) ps with net := [atWord (.store [1])] } : State).releaseOk 2 = false ∧ s.tooLate (0, 0) s.myRank = false ∧ s.tooLate (0, 40) s.myRank = true ∧
    ((reading u r).sagAt 0).map (·.lastLaunch) = some (0, 0) := by
  unfold State.Starts State.Begins State.Gives
  simp only [List.mem_cons, List.not_mem_nil, or_false, Prod.mk.injEq] at h
  rcases h with ⟨rfl, rfl⟩ | ⟨rfl, rfl⟩ | ⟨rfl, rfl⟩ | ⟨rfl, rfl⟩
  all_goals exact ⟨by decide +kernel, reads_of_dwords rfl (by decide +kernel) (by decide +kernel) (by decide +kernel) (by decide +kernel), by decide +kernel, fun h => (by first | exact absurd rfl h | exact ⟨by decide +kernel, reads_of_dwords rfl (by decide +kernel) (by decide +kernel) (by decide +kernel) (by decide +kernel)⟩), by decide +kernel, by decide +kernel, by decide +kernel, by decide +kernel⟩

/-- A full pool, and host triggers that are refused or accepted. -/
theorem meets_trigger :
    let fill := fun (g : Saggar) => { g with pool := List.replicate g.poolSize (.instance_ 1) }
    let s := { withGraphs [graph2] id (has .ret) with bringup := 8 }
    ((launching launchRec patchRec fill).sagAt 0).map (·.poolFull) = some true ∧ (has .ret).bringup.getLsbD 3 = false ∧ s.bringup.getLsbD 3 = true ∧
    (s.sagAt 0).map (fun g => (g.graph 0x77, g.graph 0x78, g.poolFull)) = some (some graph2, none, false) ∧
    ((withGraphs [graph2] fill (has .ret)).sagAt 0).map (·.poolFull) = some true ∧ sigOk false 0x40000010 = true ∧ sigOk false 0x40000011 = false ∧
    badPatch [(8, 0x99)] graph2.params.length = none ∧ s.tooLate (0, 0) 0 = false ∧ s.tooLate (0, 17) 0 = true := by decide +kernel

/-- Nothing is fenced where no repair table has failed. -/
theorem unfenced (u : State) (h : u.repair = []) (a : Nat) : u.fenced a = false := by simp [State.fenced, h, Tbl.get, Tbl.find, Repair.init]

/-- An image of one dword of text and one of data, with a relocation or without. -/
def image (rs : List RelocRec) : ImageRec :=
  ⟨0, 0x10000, List.replicate 8 0x11, List.replicate 8 0x22, 0x100000, 0x110000, 0, rs, [{ kern5 with leases := [⟨0, 64, true⟩] }], [⟨0, 0, false⟩], [2, 3, 4]⟩

theorem meets_image :
    let b := image []
    let s := has .ret
    let g := Saggar.form hostRecord
    s.sagAt b.sag = some g ∧ s.imageWaits b 2 = false ∧ (s.sagAt b.sag).map (fun g => g.cfg.root) = some 1 ∧ b.base % 65536 = 0 ∧ b.textPa % 65536 = 0 ∧ b.dataPa % 65536 = 0 ∧
    (match State.mapRun s.someCompositor.1 g b.key 0x0B ((b.text.length + 65535) / 65536) b.base b.textPa b.tables s.someCompositor.2 with
     | some (t, f1) => match State.mapRun s.someCompositor.1 g b.key 0x07 ((b.data.length + 65535) / 65536) (b.base + (b.text.length + 65535) / 65536 * 65536) b.dataPa f1 t with
       | some (u, _) => Memory.wf u.mem && u.repair.isEmpty
       | none => false
     | none => false) = true ∧ b.textPa + b.text.length ≤ b.dataPa ∧ (image [⟨0, true, true, 4⟩]).relocs = [⟨0, true, true, 4⟩] ∧ b.leaseRelocs = [⟨0, 0, false⟩] := by decide +kernel

/-- An instance of the graph of one node, or of two. -/
def inst (id : Nat) (started : Bool) : Instance := ⟨id, 0x77, 1, id, 0, false, List.replicate 32 1, [(0, 0), (1, 1)], started, false, true, [(8, 0x99)], none, []⟩
def running (ns : List NodeRec) (is : List Instance) (ts : List Task) : State :=
  withGraphs [graphOf ns] (fun g => { g with instances := is, tasks := ts, pool := is.map (fun i => .instance_ i.id), nextTask := 9 }) (has .eret)

theorem meets_graphs :
    ((withGraphs [] id (has .ret)).sagAt 0).map (fun g => (g.graphOk graph2, g.graphOk (graphOf [node 0 [1]]), g.graphOk (graphOf [node 1 [0]]))) =
      some (true, false, false) ∧
    ((graphOf [node 1 [0]]).nodes[0]? = some (node 1 [0]) ∧ 0 ∈ (node 1 [0]).succ) ∧
    (((running [node 0 []] [inst 1 false] []).sagAt 0).map (fun g => (g.instances.map (·.graph), g.nextInstance, g.graph 0x77)) =
      some ([0x77], some (inst 1 false), some (graphOf [node 0 []]))) ∧
    ((withGraphs [graph2] id (has .ret)).sagAt 0).map (·.instances) = some [] ∧
    8 + 8 ≤ graph2.params.length := by decide +kernel

/-- Tasks that are ready, running and failed, and one that still has a strand. -/
theorem meets_completion :
    (∀ st ∈ [TaskState.ready, .running, .failed],
      let s := running [node 0 [1], node 1 []] [inst 1 true] [⟨7, 1, 0, 4, [], st, true⟩]
      (s.sagAt 0).map (fun g => (g.tasks.find? (fun t => decide (t.id = 7)), s.taskBusy g 0 7 1, g.instOf ⟨7, 1, 0, 4, [], st, true⟩, g.graph 0x77)) =
        some (some ⟨7, 1, 0, 4, [], st, true⟩, false, some (inst 1 true), some graph2)) ∧
    ((running [] [] []).sagAt 0).map (fun g => (running [] [] []).taskBusy g 0 0 0) = some true ∧ (node 0 [1]).succ = [1] ∧
    ((running [node 0 [1], node 1 []] [inst 1 true] []).sagAt 0).map (fun g => g.instances.find? (fun i => decide (i.id = 1))) = some (some (inst 1 true)) ∧
    (∀ x ∈ [(false, ([] : List Task)), (true, [⟨7, 1, 0, 4, [], .running, true⟩]), (true, [])],
      let s := running [node 0 []] [inst 1 x.1] x.2
      (s.sagAt 0).map (fun g => (g.instances.find? (fun i => decide (i.id = 1)), g.tasks, g.specs)) = some (some (inst 1 x.1), x.2, []) ∧ (inst 1 x.1).sig = 0) := by
  refine ⟨?_, by decide +kernel, by decide +kernel, by decide +kernel, ?_⟩ <;> intro x hx <;> simp only [List.mem_cons, List.not_mem_nil, or_false] at hx <;>
    rcases hx with rfl | rfl | rfl <;> decide +kernel

theorem meets_signal :
    let s := (heap .ret []).modSag 0 (fun g => { g with cfg := { g.cfg with heapb := 0x40000000, heapl := 0x100000, heapo := 0x100000 } })
    (match s.sagAt 0 with
     | some g =>
       match translate s ⟨0, g.clusterNo 0, g.cfg.heapb, g.cfg.heapl, g.cfg.heapo, none⟩ .update 0x40000010 8 with
       | (.ok loc, t) => decide (loc = 0x100010) && t.dies.all (fun d => !t.bufferHolds d.1 loc 8) && !t.fenced loc && !t.anyPoison loc 8 && t.errs.isEmpty &&
           decide (spaceOf loc ≠ 3) && !t.tableWaits loc 8 && t.awakeAt (homeOf loc)
       | _ => false
     | none => false) = true := by decide +kernel

/-- An instance with a signal ends: the add is made, or waits for a table. -/
theorem meets_signal_ends :
    let i := { inst 1 true with sig := 0x40000010 }
    let s := (heap .ret []).modSag 0 (fun g => { g with instances := [i], cfg := { g.cfg with heapb := 0x40000000, heapl := 0x100000, heapo := 0x100000 } })
    let w := wordWaits s
    (s.sagAt 0).map (fun g => (g.instances.find? (fun x => decide (x.id = 1)), g.tasks, g.specs)) = some (some i, [], []) ∧ i.sig ≠ 0 ∧ i.started = true ∧
    (match s.signalEnd 0 i 1 with | .ok (b, u) => b && (u.sagAt 0).isSome | _ => false) = true ∧ (match w.signalEnd 0 i 1 with | .ok (b, _) => !b | _ => false) = true := by
  decide +kernel

/-- A node of one core with a quota, a ready task of it with a lease in the heap window, and the machine that is to dispatch it. -/
def quotaNode (q : Nat) : NodeRec := { node 0 [] with cores := 1, quota := q }
def leased (r : Bool) : Task := ⟨7, 1, 0, 4, [⟨0x40000000, 64, true⟩], .ready, r⟩
def toDispatch (q : Nat) (r : Bool) : State :=
  (running [quotaNode q] [inst 1 true] [leased r]).modSag 0 (fun g => { g with ready := [7], cfg := { g.cfg with heapb := 0x40000000, heapl := 0x100000 } }) |> fun s => { s with bringup := 0xFFF000 }

theorem meets_dispatch (q : Nat) (r : Bool) (hq : q = 1 ∨ q = 16) :
    let n := quotaNode q
    let t := leased r
    let s := toDispatch q r
    (s.sagAt 0).map (fun g => (g.headTask, g.instOf t, g.graph 0x77, g.kernels.find? (fun k => decide (k.handle = n.kern)))) =
      some (some t, some (inst 1 true), some (graphOf [n]), some kern5) ∧ (graphOf [n]).nodes[t.node]? = some n ∧ n.bands = 0 ∧ n.quota = q ∧ q ≠ 0 ∧
    (s.sagAt 0).map (fun g => s.placement g n q) = some (if q = 1 then some [(0, [(0, [1])])] else none) ∧ [1].Nodup ∧
    s.bandsFree 0 (word (Config.bandMapReset.toNat % 2 ^ 32)) = true ∧ s.grantBeat 0 = some 0 ∧ t.resident = r ∧
    (match State.resideAll 0 [] (t.leases.flatMap Lease.granules) s with | some _ => true | none => false) = true := by
  rcases hq with rfl | rfl <;> cases r <;> refine ⟨?_, ?_, ?_, ?_, ?_, ?_, ?_, ?_, ?_, ?_, ?_⟩ <;> decide +kernel

/-- A core that has granted a slot in a core cycle still to come, and a band with a pending job of another core. -/
theorem meets_dispatch_waits :
    ((toDispatch 1 true).modCore 0 (fun c => { c with grantNext := 5 })).grantBeat 0 = none ∧
    ((toDispatch 1 true).modCluster 0 (fun c => { c with jobs := [other 1], bandMap := 0xFEDCBA99 })).bandsFree 0 (word (Config.bandMapReset.toNat % 2 ^ 32)) = false := by
  decide +kernel

/-- The page of the fetched instruction is valid, in HBM, 64 KiB, and not dirty. -/
theorem meets_pages :
    let s : State := { ready with bringup := 0x1000 }
    (match s.sagAt 0 with
     | some g => decide (walk s g.cfg.root 0x10000 = .ok (some (0x40008, 0x6002B, 16))) && !g.inHeap 0x10000
     | none => false) = true ∧ Memory.wf s.mem = true ∧ (0x6002B : Word).getLsbD 10 = false ∧ (0x6002B : Word).getLsbD 0 = true ∧ (0x6002B : Word).getLsbD 4 = false ∧
    (0x6003B : Word).getLsbD 4 = true ∧ s.leafOf 0 0x10000 = some (0x6002B, 16) ∧ bitsOf (0x6002B : Word) 6 2 = 0 ∧
    s.bringup.getLsbD (12 + stackOf (leafLoc 0x6002B 16 0x10000)) = true ∧ s.editBusy 0 0x10000 = false ∧ s.fenced 0x40008 = false ∧
    (walksWait s).editBusy 0 0x10000 = true ∧ ((has .ret).coreAt 0).seatSlots 0 2 = some [1, 2] := by decide +kernel

/-- A compositor that has reported, and one that has not. -/
theorem meets_compositors : ({ ready with boot := { ready.boot with stage := 2, reporting := 1 } } : State).compUp 0 = true ∧
    ({ ready with boot := { ready.boot with stage := 2, reporting := 1 } } : State).compUp 1 = false := by decide +kernel

/-- A running task of the saggar of `ready` leases the page, and its move has come to part p. -/
noncomputable def moving (p : Nat) (net : List Msg) : State :=
  { ready.modSag 0 (fun g => { g with tasks := [⟨7, 1, 0, 4, [⟨0x10000, 64, true⟩], .running, true⟩], moves := [⟨0x10000, 16, p, 0x20, 0⟩] }) with net := net, boot := { ready.boot with stage := 2, reporting := 1 } }

/-- A table whose first channel is struck makes accesses there wait. -/
theorem struck_waits (s : State) (loc n : Nat) (hn : 0 < n) (h : spaceOf loc = 0)
    (hr : s.repair = [(stackOf loc, { Repair.init with struck := [pseudoOf loc] })]) : s.tableWaits loc n = true := by
  simp only [State.tableWaits, h, hr, decide_true, Bool.true_and, List.any_cons, List.any_nil, Bool.or_false, Bool.and_eq_true, List.any_eq_true, List.mem_range]
  exact ⟨rfl, 0, hn, by simp⟩

theorem meets_move_waits : ({ moving 1 [] with repair := [(stackOf 0x60000, { Repair.init with struck := [pseudoOf 0x60000] })] } : State).tableWaits 0x60000 65536 = true :=
  struck_waits _ _ _ (by decide) rfl rfl

theorem meets_page_moves :
    (∀ p ∈ [(1 : Nat), 2, 3],
      let s := moving p []
      (match s.sagAt 0 with
       | some g => g.leaseHolds 0x10000 65536 && decide (g.moves.find? (fun m => decide (m.lo = 0x10000)) = some ⟨0x10000, 16, p, 0x20, 0⟩)
       | none => false) = true ∧ s.writesTo 0x60000 65536 = false ∧ s.compUp 0 = true ∧ s.sealed = [] ∧
      s.repair = [] ∧ s.errs = []) ∧ (0x20 : Nat) < 2 ^ 40 ∧
    (moving 1 [{ atWord (.store (toBytes 8 5)) with loc := 0x60010 }]).writesTo 0x60000 65536 = true ∧ leafLoc 0x6002B 16 0x10000 = 0x60000 ∧
    tierHas (leafLoc (leafAt 0x6002B 0 0x20) 16 0x10000 + 65536 - 1) = true ∧ leafValid 0x6002B = true ∧ leafValid 0x6002A = false ∧
    (match ready.sagAt 0 with | some g => !g.leaseHolds 0x10000 65536 && g.moves.isEmpty | none => false) = true := by decide +kernel

/-- A host address as the signal of an instance, and a task older than every ready one. -/
theorem meets_signal_host :
    let s := has .ret
    (∀ d ∈ s.dies, s.bufferHolds d.1 (spaceBase 2 + 0x40) 8 = false) ∧ s.errs = [] ∧ spaceOf (spaceBase 2 + 0x40) = 2 ∧ s.anyPoison (spaceBase 2 + 0x40) 8 = false ∧
    (((toDispatch 1 true).sagAt 0).map (fun g => g.tasks.all (fun t => decide (t.since < 5)) && g.ready.all (fun k => g.tasks.any (fun t => decide (t.id = k))))) = some true := by
  decide +kernel

/-- A speculative task of its instance keeps a task, and its instance, from ending. -/
theorem meets_domain_open :
    let s := (running [node 0 []] [inst 1 true] [⟨7, 1, 0, 4, [], .running, true⟩]).modSag 0 (fun g => { g with specs := [{ task5 .running none none with inst := 1 }] })
    (s.sagAt 0).map (fun g => (g.specs.any (fun x => decide (x.inst = 1)), s.taskBusy g 0 7 1)) = some (true, true) := by decide +kernel
/-! The device as a whole. -/

theorem sha256_length (m : List Byte) : (sha256 m).length = 32 := by simp [sha256, beBytes]

theorem lmsClimb_length (ident : List Byte) : ∀ (n node : Nat) (x path : List Byte), x.length = 32 → (lmsClimb ident n node x path).length = 32
  | 0, _, x, _, h => h
  | n + 1, node, x, path, _ => by rw [lmsClimb]; exact lmsClimb_length ident n _ _ _ (sha256_length _)

/-- A signature whose chains and path are zeros. -/
def sigZ : List Byte := beBytes 4 0 ++ beBytes 4 3 ++ List.replicate 2176 0 ++ (beBytes 4 6 ++ List.replicate 320 0)

/-- Under some public key it verifies a given message: the root it leads to is the key's. -/
theorem lms_verifies (msg : List Byte) : ∃ key, lmsVerify key msg sigZ = true := by
  have h : ∀ root : List Byte, root.length = 32 → ((beBytes 4 6 ++ beBytes 4 3 ++ List.replicate 16 0 ++ root).length = 56) ∧
      ((beBytes 4 6 ++ beBytes 4 3 ++ List.replicate 16 (0 : Byte) ++ root).drop 8).take 16 = List.replicate 16 0 ∧
      (beBytes 4 6 ++ beBytes 4 3 ++ List.replicate 16 (0 : Byte) ++ root).take 8 = beBytes 4 6 ++ beBytes 4 3 ∧
      (beBytes 4 6 ++ beBytes 4 3 ++ List.replicate 16 (0 : Byte) ++ root).drop 24 = root := by
    intro root hr
    exact ⟨by simp [beBytes, hr], by simp [beBytes, List.take_append, List.drop_append], by simp [beBytes, List.take_append], by rfl⟩
  have hs : sigZ.length = 40 + 67 * 32 + 4 + 320 ∧ beNat (sigZ.take 4) = 0 ∧ (sigZ.drop 4).take 4 = beBytes 4 3 ∧
      (sigZ.drop (40 + 67 * 32)).take 4 = beBytes 4 6 := by decide +kernel
  obtain ⟨h1, h2, h3, h4⟩ := hs
  generalize hl : (fun (ident : List Byte) => lmsClimb ident 10 (1024 + 0) (sha256 (ident ++ beBytes 4 (1024 + 0) ++ beBytes 2 0x8282 ++ sha256 (ident ++ beBytes 4 0 ++ beBytes 2 0x8080 ++
      ((lmsDigits (sha256 (ident ++ beBytes 4 0 ++ beBytes 2 0x8181 ++ (sigZ.drop 8).take 32 ++ msg))).zip (List.range 67)).flatMap
        (fun d => lmsChain ident 0 d.2 (15 - d.1) d.1 (((sigZ.drop 40).drop (32 * d.2)).take 32))))) ((sigZ.drop (40 + 67 * 32)).drop 4)) = f
  have hf : (f (List.replicate 16 0)).length = 32 := by rw [← hl]; exact lmsClimb_length _ _ _ _ _ (sha256_length _)
  obtain ⟨k1, k2, k3, k4⟩ := h (f (List.replicate 16 0)) hf
  refine ⟨beBytes 4 6 ++ beBytes 4 3 ++ List.replicate 16 0 ++ f (List.replicate 16 0), ?_⟩
  rw [lmsVerify]
  simp only [h1, h2, h3, h4, k1, k2, k3, k4, decide_true, Bool.true_and, Bool.and_true, decide_eq_true_eq, Nat.reduceLT]
  rw [← hl]
/-- An image both of whose stages verify under one key, on a machine whose fuses hold the digest of that key. -/
theorem meets_signed : ∃ (i : FirmImage) (s : State), i.stage1 ≠ [] ∧ s.boot.stage = 0 ∧ s.boot.flashFailed = false ∧ s.verifies i.key i.stage1 i.sig1 = true ∧
    s.verifies i.key i.stage2 i.sig2 = true ∧ (∀ st so, let t : State := { s with boot := { s.boot with stage := st, source := so, image := some i } }
      t.boot.image = some i ∧ t.verifies i.key i.stage2 i.sig2 = true) := by
  obtain ⟨key, h⟩ := lms_verifies [1]
  have hv : ∀ b : Boot, State.verifies { State.reset with boot := b, fuses := ⟨sha256 key, []⟩ } key [1] sigZ = true := by
    intro b; simp only [State.verifies, h, decide_true, Bool.and_self]
  exact ⟨⟨key, [1], sigZ, [1], sigZ⟩, { State.reset with fuses := ⟨sha256 key, []⟩ }, by simp, rfl, rfl, hv _, hv _, fun _ _ => ⟨rfl, hv _⟩⟩

/-- An image that does not verify, a machine at each stage of boot, and the bits of a report. -/
theorem meets_boot :
    (∀ st ∈ [(0 : Nat), 1, 2, 3],
      let s : State := { State.reset with time := 100000000, boot := { State.reset.boot with stage := st } }
      s.boot.stage = st ∧ s.boot.reporting.getLsbD 3 = false ∧ s.boot.released + 100000000 ≤ s.time) ∧
    State.reset.verifies [] [] [] = false ∧
    (let b : BootRec := ⟨true, none, some ⟨[], [], [], [], []⟩, [(3, [(0, 7)])], 0xFFF, true, true, 3, true, true, 1, 2, [(2, 0)]⟩
     b.rom = true ∧ b.flash = none ∧ b.tables = [(3, [(0, 7)])] ∧ b.hbm.getLsbD 3 = true ∧ State.reset.bringup.getLsbD 15 = false ∧ ({ b with rom := false } : BootRec).rom = false) ∧
    ({ State.reset.boot with measures := [⟨1, [1]⟩, ⟨2, [2]⟩, ⟨4, [0]⟩] } : Boot).measures = [⟨1, [1]⟩, ⟨2, [2]⟩, ⟨4, [0]⟩] := by
  refine ⟨?_, ?_, ?_, ?_⟩ <;> decide +kernel

theorem meets_keys :
    (let s : State := { State.reset with bringup := 4, boot := { State.reset.boot with stage := 2, reported := true } }
     s.bringup.getLsbD 2 = true ∧ s.boot.reported = true ∧ (∀ r ∈ s.repair, r.2.stale = false) ∧ s.boot.stage = 2) ∧
    (∀ st ∈ [(1 : Nat), 2], let s : State := { State.reset with boot := { State.reset.boot with stage := st, measures := [⟨1, [5]⟩] } }
      s.boot.reported = false ∧ s.boot.stage = st ∧ s.boot.measures = [⟨1, [5]⟩]) ∧
    (let s : State := { State.reset with bringup := 4, repair := [(3, { Repair.init with fenced := 1, fence := [7], stale := true })] }
     (∃ r ∈ s.repair, r.2.stale = true) ∧ State.reset.bringup.getLsbD 2 = false) ∧
    (State.reset.waiters = [] ∧ State.reset.peers = [] ∧ 7 ∉ (Tbl.get State.reset.repair 3 Repair.init).fence) := by decide +kernel

/-- An atom that stands under one key, or under none, and two keys. -/
theorem meets_sealed : ∀ x ∈ [[], [(0x8000, (5 : BitVec 512))]],
    let s : State := { has .ret with keys := [(1, 5), (2, 6)], sealed := x }
    spaceOf 0x100010 < 2 ∧ 0x100010 % 32 + 8 ≤ 32 ∧ Tbl.find s.keys 1 = some 5 ∧ Tbl.find s.keys 2 = some 6 ∧ (6 : BitVec 512) ≠ 5 ∧ s.Canonical ∧
    0x100010 / 32 = 0x8000 ∧ Tbl.find s.sealed 0x8000 = (if x = [] then none else some 5) := by
  unfold State.Canonical
  intro x hx
  simp only [List.mem_cons, List.not_mem_nil, or_false] at hx
  rcases hx with rfl | rfl <;> decide +kernel

/-- A location of stack 3, pseudo-channel 7. -/
theorem meets_fenced : ∃ loc, spaceOf loc = 0 ∧ (stackOf loc, pseudoOf loc) = (stackOf 0x40000010, pseudoOf 0x40000010) ∧ stackOf loc < 12 ∧ pseudoOf loc < 512 :=
  ⟨0x40000010, by decide +kernel⟩

/-- Die 0 in a relock that began its clock stop at time 0 and ends at 1500, with a held write or none. -/
def relocking (held : Option Nat) : State := { (has .ret).modDie 0 (fun d => { d with relock := some 1500, held := held }) with time := 1500 }

theorem meets_clocks :
    (let s := has .ret
     (s.dieAt 0).relock = none ∧ 8 ≠ (s.dieAt 0).mult ∧ (s.dieAt 0).mult < 32 ∧ 6 ≤ (s.dieAt 0).mult ∧ (s.dieAt 0).mult ≤ 21) ∧
    (((relocking none).dieAt 0).relock = some 1500 ∧ ((relocking none).dieAt 0).held = none ∧ ((relocking (some 8)).dieAt 0).held = some 8 ∧
     8 ≠ ((relocking (some 8)).dieAt 0).mult ∧ (relocking none).time = 1500 ∧ ({ relocking none with time := 1499 } : State).time < 1500 ∧
     (((relocking none).modDie 0 (fun d => { d with deferred := true })).dieAt 0).deferred = true ∧
     ((relocking none).dieAt (dieOf (clusterOf 0))).relock.isSome = true ∧ ((relocking none).coreAt 0).stopped = false ∧ (relocking none).cores.length = 1 ∧
     ((relocking none).sagAt 0).map (·.specs) = some [] ∧ (relocking none).saggars.length = 1) ∧
    (let s : State := { State.reset with cores := [(0, { Core.init with stopped := true })] }
     s.saggars = [] ∧ s.cores = [(0, { Core.init with stopped := true })] ∧ dieOf (clusterOf 0) = 0) ∧
    ((has .ret).coreIdle 0 = false ∧ (has .ret).coreIdle 1 = true ∧ 20 ≤ (has .ret).dieTol (dieOf (clusterOf 1))) ∧
    (({ has .ret with time := 1000 } : State).time = ((has .ret).lastCredit / 1000 + 1) * 1000 ∧ (has .ret).time ≤ ((has .ret).lastRefill / 1000 + 1) * 1000) := by
  decide +kernel

/-- Every core of die 0 is gated; a saggar on it has a latency tolerance. -/
def asleep (tol : Word) : State :=
  { State.reset with saggars := [(0, { Saggar.form hostRecord with lattol := tol })],
                     cores := (dieClusters 0).flatMap (fun cl => (List.range 8).map (fun i => (8 * cl + i, { Core.init with gated := true }))) }

theorem find_same {α : Type} (v : α) : ∀ (l : List Nat) (k : Nat), Tbl.find (l.map (fun i => (i, v))) k = if k ∈ l then some v else none
  | [], _ => rfl
  | j :: t, k => by
    rw [List.map_cons, Tbl.find, find_same v t k]
    by_cases h : j = k
    · simp [h]
    · simp [h, Ne.symm h]

theorem asleep_core (tol : Word) (c : Nat) :
    (asleep tol).coreAt c = if c ∈ (dieClusters 0).flatMap (fun cl => (List.range 8).map (8 * cl + ·)) then { Core.init with gated := true } else Core.init := by
  have h : (asleep tol).cores = ((dieClusters 0).flatMap (fun cl => (List.range 8).map (8 * cl + ·))).map (fun i => (i, { Core.init with gated := true })) := by
    simp only [asleep, List.map_flatMap, List.map_map]; rfl
  rw [State.coreAt, h, Tbl.get, find_same]
  split <;> rfl

theorem meets_power_deep (tol : Word) : (asleep tol).deepest 0 = 4 := by
  have hs (c : Nat) : ((asleep tol).coreAt c).slots = [] := by rw [asleep_core]; split <;> rfl
  have hg (cl i : Nat) (h : cl ∈ dieClusters 0) (hi : i < 8) : ((asleep tol).coreAt (8 * cl + i)).gated = true := by
    rw [asleep_core, if_pos (List.mem_flatMap.2 ⟨cl, h, List.mem_map.2 ⟨i, List.mem_range.2 hi, rfl⟩⟩)]
  have hl (cl : Nat) : (asleep tol).freeGroups cl = Config.laneGroups := by
    have : (asleep tol).clusterSlots cl = [] := by simp [State.clusterSlots, hs]
    simp [State.freeGroups, this]
  have h1 : ((dieClusters 0).all fun cl => ((asleep tol).clusterAt cl).jobs.isEmpty && (List.range 8).all (fun i => ((asleep tol).coreAt (8 * cl + i)).gated)) = true := by
    simp only [List.all_eq_true, Bool.and_eq_true, List.mem_range]
    exact fun cl h => ⟨rfl, fun i hi => hg cl i h hi⟩
  have h2 : ((dieClusters 0).all fun cl => decide ((asleep tol).freeGroups cl = Config.laneGroups)) = true := by simp [hl]
  simp only [State.deepest, h1, h2]
  rfl

theorem meets_power_tol : ((asleep 0xFFFFFFFF).dieAt 0).relock = none ∧
    (∀ p, 2 ≤ p → p ≤ 4 → exitLatency p ≤ (asleep 0xFFFFFFFF).dieTol 0) ∧ (∀ p, 2 ≤ p → p ≤ 4 → (asleep 50).dieTol 0 < exitLatency p) ∧
    (asleep 50).dieTol 0 = 50 := by decide +kernel

/-- A `swait` comes to a stack of a die that sleeps, or is awake. -/
theorem meets_wakes : let m := atWord (.swait 0)
    let s : State := { has .ret with net := [m] }
    s.net[0]? = some m ∧ s.barred 0 m = false ∧ (∀ h ∈ m.homes, s.awakeAt h = true) ∧ m.homes = [homeOf 0x100010] ∧
    (s.modDie (stackOf 0x100010 / 3) (fun d => { d with power := 4 })).awakeAt (homeOf 0x100010) = false ∧ stackOf (0x100010 + 0) / 3 < 4 := by decide +kernel

/-- A record of a saggar on cluster 1, and one that lies on cluster 0. -/
def record1 : SaggarRec := { hostRecord with id := 1, x0 := 1, ctbase := 100, ctlim := 200 }

theorem meets_saggar_words :
    (let f := fun k => bitsOf hostRecord.part (5 * k) 5
     f 0 + f 1 + f 2 + f 3 + f 4 = 24 ∧ 1 ≤ f 0 ∧ 1 ≤ f 1 ∧ 1 ≤ f 2 ∧ 1 ≤ f 4) ∧ bitsOf (0 : Word) 0 5 = 0 ∧ (has .ret).sagAt 1 = none ∧ (has .ret).sagAt 0 ≠ none ∧ hostRecord.part ≠ 0 ∧
    Tbl.find (({ State.reset with parts := [(0, 7)] } : State).parts) 0 = some 7 ∧
    (∀ k, k < 4 → bitsOf (0x01020304 : Word) (8 * k) 8 ≠ 0) ∧ bitsOf (0x00020304 : Word) (8 * 3) 8 = 0 := by decide +kernel

theorem meets_saggar_form :
    let s : State := { has .ret with bringup := 0x3C0, krMap := [2 ^ 50], boot := { State.reset.boot with stage := 2 }, parts := [(1, Config.partitionReset)] }
    s.recordOk record1 = true ∧ s.recordOk { record1 with x0 := 0 } = false ∧ clusterOf 0 ∉ recordClusters record1 ∧ 1 ∈ recordClusters record1 := by decide +kernel

/-- A message of the saggar to core 8, which is outside it, with the tasks of the saggar. -/
def astray (ts : List Task) : State := { (has .ret).modSag 0 (fun g => { g with tasks := ts }) with net := [{ toCore1 (.mail 3 9) with home := ⟨.core, 8, 0⟩ }] }

theorem meets_saggar_ends :
    (let s := has .ret
     (s.sagAt 0).map (fun g => recordClusters g.cfg) = some [0] ∧ s.net = [] ∧ s.acks = [] ∧ (s.clusterAt 0).jobs = [] ∧ (∀ i, i < 8 → (s.coreAt (8 * 0 + i)).saved = none) ∧
     Tbl.sortedFrom 0 s.saggars = true) ∧
    ((∃ m ∈ (astray []).net, m.sag = 0) ∧ (working [job .copy []]).clusterAt 0 ≠ Cluster.init ∧ ((working [job .copy []]).clusterAt 0).jobs ≠ []) ∧
    (let m : Msg := { toCore1 (.mail 3 9) with home := ⟨.core, 8, 0⟩ }
     (astray []).net[0]? = some m ∧ (astray []).misrouted m = true ∧ ((astray []).sagAt m.sag).map (·.tasks) = some [] ∧
     (pair .ret []).misrouted (toCore1 (.mail 3 9)) = false) := by decide +kernel

/-- Peer 2 of port 1 over link 5, with held messages. -/
def peer2 (hs : List FabricMsg) (ls : List Nat) : Peer := ⟨1, 2, 0, 10, 4, hs, [], [], [], ls, 0, 0, 0, []⟩
def fmsg (seq gen : Nat) : FabricMsg := ⟨1, 2, seq, gen, 0x100010, .write [1, 2, 3]⟩
def meshed (p : Peer) : State := { has .ret with peers := [p] }

theorem meets_host_port :
    (let s : State := { has .ret with bringup := 16 }
     let h : HostAccess := ⟨false, true, true, 0x100010, [1, 2, 3], 3⟩
     s.bringup.getLsbD 4 = true ∧ (has .ret).bringup.getLsbD 4 = false ∧ h.hdm = true ∧ h.write = true ∧ h.addr + h.bytes.length ≤ Config.hbmBytes ∧
     s.fenced h.addr = false ∧ s.krTouched h.addr 3 = false ∧ ({ s with krMap := [16] } : State).krTouched h.addr 3 = true ∧ ({ h with hdm := false } : HostAccess).hdm = false ∧ s.Canonical ∧ ({ h with write := false } : HostAccess).write = false ∧ h.config = false ∧
     ({ h with config := true } : HostAccess).config = true ∧ h.addr + h.len ≤ Config.hbmBytes ∧ s.krTouched h.addr h.len = false ∧ Tbl.sortedFrom 0 s.errs = true) := by
  unfold State.Canonical; decide +kernel

/-- The table of the channel at 0x100010 is to be reloaded, as no other is. -/
theorem meets_port_waits : let s : State := { meshed (peer2 [fmsg 10 4] [5]) with repair := [(stackOf 0x100010, { Repair.init with struck := [pseudoOf 0x100010] })] }
    s.tableWaits 0x100010 3 = true ∧ (meshed (peer2 [] [5])).tableWaits 0x100010 3 = false ∧ s.peers = [peer2 [fmsg 10 4] [5]] ∧ (peer2 [fmsg 10 4] [5]).heldMsgs = [fmsg 10 4] ∧
    (fmsg 10 4).seq = (peer2 [fmsg 10 4] [5]).recvSeq ∧ s.waiters = [] ∧ (∀ e ∈ s.repair, ∀ q ∈ e.2.struck, e.1 = stackOf 0x100010 ∧ q = pseudoOf 0x100010) ∧
    stackOf 0x100010 < 12 ∧ pseudoOf 0x100010 < 512 ∧ ({ fmsg 10 4 with body := .read 3 } : FabricMsg).size = 3 ∧ s.errs = [] ∧
    ({ s with krMap := [16] } : State).krTouched 0x100010 3 = true ∧ Config.hbmBytes < ({ fmsg 10 4 with addr := Config.hbmBytes } : FabricMsg).addr + (fmsg 10 4).size := by
  decide +kernel

/-- Messages in sequence, ahead of it and behind it, at a peer that holds none, one or the same one. -/
theorem meets_fabric :
    ((meshed (peer2 [] [5])).peerAt 1 2 = some (peer2 [] [5]) ∧ (fmsg 10 4).seq = (peer2 [] [5]).recvSeq ∧ (fmsg 10 4).gen = (peer2 [] [5]).gen ∧
     (fmsg 10 3).gen ≠ (peer2 [] [5]).gen ∧ (fmsg 10 4).addr + (fmsg 10 4).size ≤ Config.hbmBytes ∧ (meshed (peer2 [] [5])).fenced (fmsg 10 4).addr = false ∧ (meshed (peer2 [] [5])).krTouched (fmsg 10 4).addr 3 = false ∧
     (meshed (peer2 [] [5])).Canonical) ∧
    ((meshed (peer2 [fmsg 11 4] [5])).peerAt 1 2 = some (peer2 [fmsg 11 4] [5]) ∧ (peer2 [fmsg 11 4] [5]).recvSeq + 1 < 2 ^ 32 ∧
     (fmsg 11 4).seq = (peer2 [fmsg 11 4] [5]).recvSeq + 1 ∧ 0 < ((fmsg 11 4).seq + 2 ^ 32 - 10) % 2 ^ 32 ∧ ((fmsg 11 4).seq + 2 ^ 32 - 10) % 2 ^ 32 < 2 ^ 31 ∧
     (fmsg 11 4).port = (fmsg 10 4).port ∧ (fmsg 11 4).peer = (fmsg 10 4).peer ∧ (meshed (peer2 [fmsg 11 4] [5])).repair = [] ∧
     (∀ x ∈ (peer2 [] [5]).heldMsgs, x.seq ≠ 11) ∧ (∃ x ∈ (peer2 [fmsg 11 4] [5]).heldMsgs, x.seq = (fmsg 11 4).seq) ∧
     2 ^ 31 ≤ ((fmsg 9 4).seq + 2 ^ 32 - 10) % 2 ^ 32) := by
  unfold State.Canonical; decide +kernel

/-- A message to the peer that frame 0 of peer memory belongs to. -/
theorem meets_lost :
    let p : Peer := { peer2 [] [5] with port := (Config.peerOf 0).1, peer := (Config.peerOf 0).2 }
    let m : Msg := { atWord (.atomic .add 1 0 true) with loc := spaceBase 3 + 16 }
    let s : State := { meshed p with net := [m] }
    s.peers = [p] ∧ p.links = [5] ∧ m ∈ s.net ∧ p.reaches m.loc = true := by
  refine ⟨rfl, rfl, by simp, ?_⟩
  have h1 : spaceOf (spaceBase 3 + 16) = 3 := by decide +kernel
  have h2 : (spaceBase 3 + 16) % 2 ^ 60 / 65536 = 0 := by decide +kernel
  simp only [Peer.reaches, h1, h2, Prod.mk.eta, decide_true, Bool.and_self]

/-- A peer with two links, with one, and with nothing of it outstanding. -/
theorem meets_links :
    ((meshed (peer2 [] [5, 6])).peers = [peer2 [] [5, 6]] ∧ ∃ l ∈ (peer2 [] [5, 6]).links, l ≠ 5) ∧ (peer2 [] [5]).links = [5] ∧
    (let s := meshed (peer2 [] [5])
     s.peerAt 1 2 = some (peer2 [] [5]) ∧ (peer2 [] [5]).unacked = [] ∧ (∀ m ∈ s.net, (peer2 [] [5]).reaches m.loc = false) ∧ (∀ d ∈ s.dies, d.2.pwb = []) ∧
     ({ peer2 [] [5] with unacked := [⟨3, 4, .access 9⟩] } : Peer).unacked ≠ [] ∧ (s.sagAt 0).isSome = true ∧
     (let t : State := { s with boot := { s.boot with stage := 2, reporting := 1 } }
      t.compUp 0 = true ∧ t.compUp 1 = false ∧ t.saggars.length = 1)) := by decide +kernel

/-- A write and an access that the peer of frame 0 of peer memory has not acknowledged. -/
theorem meets_unacked :
    let w : PendWrite := ⟨3, 0x1000, spaceBase 3 + 16, [1, 2, 3], 0, 0, 1⟩
    let m : Msg := { atWord (.atomic .add 1 0 true) with loc := spaceBase 3 + 16 }
    let p : Peer := { peer2 [] [5] with port := (Config.peerOf 0).1, peer := (Config.peerOf 0).2, unacked := [⟨3, 4, .write w⟩, ⟨4, 4, .access m.id⟩] }
    let s : State := { meshed p with net := [m] }
    s.peers = [p] ∧ spaceOf w.loc = 3 ∧ s.Canonical ∧ s.net.find? (fun x => decide (x.id = m.id)) = some m ∧ p.reaches m.loc = true := by
  have h1 : spaceOf (spaceBase 3 + 16) = 3 := by decide +kernel
  have h2 : (spaceBase 3 + 16) % 2 ^ 60 / 65536 = 0 := by decide +kernel
  refine ⟨rfl, h1, by unfold State.Canonical; decide +kernel, by simp, ?_⟩
  simp only [Peer.reaches, h1, h2, Prod.mk.eta, decide_true, Bool.and_self]

/-- Compositor 0 runs, and no page of the saggar is mapped to the channel of a peer that reaches nothing, or one is. -/
theorem meets_channel :
    let p : Peer := { peer2 [] [5] with port := (Config.peerOf 6).1, peer := (Config.peerOf 6).2 }
    let s : State := { ready with peers := [p], boot := { ready.boot with stage := 2, reporting := 1 } }
    s.compUp 0 = true ∧ s.channelMapped p = false := by decide +kernel

/-- The page of the fetched instruction may be retired once it is a peer's and no task leases it. -/
theorem meets_retire :
    let p : Peer := { peer2 [] [5] with port := (Config.peerOf 6).1, peer := (Config.peerOf 6).2 }
    let s := (ready.setDword 0x40008 0x600EB)
    p.reaches (leafLoc 0x600EB 16 0x10000) = true ∧
    (match s.sagAt 0 with
     | some g => decide (walk s g.cfg.root 0x10000 = .ok (some (0x40008, 0x600EB, 16))) && !g.leaseHolds 0x10000 65536
     | none => false) = true ∧ leafValid 0x600EB = true ∧ (0x600EB : Word).getLsbD 10 = false ∧ Memory.wf s.mem = true ∧ s.editBusy 0 0x10000 = false ∧ (walksWait s).editBusy 0 0x10000 = true := by
  have h1 : spaceOf (leafLoc 0x600EB 16 0x10000) = 3 := by decide +kernel
  have h2 : leafLoc 0x600EB 16 0x10000 % 2 ^ 60 / 65536 = 6 := by decide +kernel
  refine ⟨?_, by decide +kernel, by decide +kernel, by decide +kernel, by decide +kernel, by decide +kernel, by decide +kernel⟩
  simp only [Peer.reaches, h1, h2, Prod.mk.eta, decide_true, Bool.and_self]

/-! The ciphers, from their standards. -/

/-- FIPS 197, C.3: AES-256 of the example block. -/
theorem test_aes256 : let k := 0x1f1e1d1c1b1a191817161514131211100f0e0d0c0b0a09080706050403020100
    let p := blockAt 0xffeeddccbbaa99887766554433221100 0
    let c := blockAt 0x8960494b9049fceabf456751cab7a28e 0
    aesEncrypt (blockAt k 0) (blockAt k 16) p = c ∧ aesDecrypt (blockAt k 0) (blockAt k 16) c = p := by decide +kernel

/-- FIPS 180-4: SHA-256 of "abc". -/
theorem test_sha256 : sha256 [0x61, 0x62, 0x63] = beBytes 32 0xba7816bf8f01cfea414140de5dae2223b00361a396177a9cb410ff61f20015ad := by decide +kernel
end Sys2Proof.Tests
end

/-! What every step keeps (O2). A lemma for each function of the model that gives a state says that the state is in canonical form where the one it starts
from is. It is named after the function, so that a proof reads along the function's definition: `h.readSrc fun h => h.finish` for a form that reads an operand
and ends with a result. The kernel evaluates `translate` and `mapRun` when it compares two matches on what they give; where that happens they are made a
variable before the case split. -/
section
namespace Sys2Proof.Machine

variable {s : State}

/-- What o answers, where it is a state, is in canonical form. -/
def Keeps : Out → Prop
  | .next t => t.Canonical
  | _ => True

protected theorem Keeps.ite {o o' : Out} {p : Prop} [Decidable p] (h : Keeps o) (h' : Keeps o') : Keeps (if p then o else o') := by
  split
  · exact h
  · exact h'

protected theorem State.Canonical.foldl {α : Type} {f : State → α → State} {l : List α} {s : State} (h : s.Canonical)
    (hf : ∀ {t a}, State.Canonical t → (f t a).Canonical) : (l.foldl f s).Canonical := by
  induction l generalizing s with
  | nil => exact h
  | cons a l ih => exact ih (hf h)

protected theorem State.Canonical.ite {s t : State} {p : Prop} [Decidable p] (h : s.Canonical) (h' : t.Canonical) : (if p then s else t).Canonical := by
  split
  · exact h
  · exact h'

theorem State.Canonical.snd {α : Type} {p : α × State} (h : p.2.Canonical) {a : α} {t : State} (e : p = (a, t)) : t.Canonical := by
  subst e
  exact h

theorem State.Canonical.same {s t : State} (h : s.Canonical) (e : (t.mem, t.full, t.poison) = (s.mem, s.full, s.poison)) : t.Canonical := by
  obtain ⟨hm, hf, hp⟩ := Prod.mk.inj e |>.imp_right Prod.mk.inj
  exact Canonical.of_eq h hm hf hp

/-! What Machine/Ops keeps. -/

protected theorem State.Canonical.modCore {c : Nat} {f : Core → Core} (h : s.Canonical) : (s.modCore c f).Canonical := h
protected theorem State.Canonical.modStrand {c k : Nat} {f : Strand → Strand} (h : s.Canonical) : (s.modStrand c k f).Canonical := h.modCore
protected theorem State.Canonical.modMe {f : Strand → Strand} (h : s.Canonical) : (s.modMe f).Canonical := h.modStrand
protected theorem State.Canonical.modMyCore {f : Core → Core} (h : s.Canonical) : (s.modMyCore f).Canonical := h.modCore
protected theorem State.Canonical.modCluster {cl : Nat} {f : Cluster → Cluster} (h : s.Canonical) : (s.modCluster cl f).Canonical := h
protected theorem State.Canonical.modDie {d : Nat} {f : Die → Die} (h : s.Canonical) : (s.modDie d f).Canonical := h

protected theorem State.Canonical.modSag {g : Nat} {f : Saggar → Saggar} (h : s.Canonical) : (s.modSag g f).Canonical := by
  unfold State.modSag
  split <;> exact h

protected theorem State.Canonical.draw (h : s.Canonical) : s.draw.2.Canonical := h
protected theorem State.Canonical.tick (h : s.Canonical) : s.tick.2.Canonical := h
protected theorem State.Canonical.count {g : Nat} {f : Counters → Counters} (h : s.Canonical) : (s.count g f).Canonical := h.modSag
protected theorem State.Canonical.wakeDie {d : Nat} (h : s.Canonical) : (s.wakeDie d).Canonical := h.ite h.modDie
protected theorem State.Canonical.wakeUnit {c : Nat} (h : s.Canonical) : (s.wakeUnit c).Canonical := (h.modCore.ite h).wakeDie

protected theorem State.Canonical.wakeHome {hm : Home} (h : s.Canonical) : (s.wakeHome hm).Canonical := by
  unfold State.wakeHome
  split
  · exact h.wakeUnit
  · exact h.wakeUnit
  · exact h.wakeDie
  · exact h.wakeDie
  · exact h.wakeDie
  · exact h

protected theorem State.Canonical.upsetTable {stack pch : Nat} {double : Bool} (h : s.Canonical) : (s.upsetTable stack pch double).Canonical := h.ite h
protected theorem State.Canonical.countPoison {c k sag : Nat} (h : s.Canonical) : (s.countPoison c k sag).Canonical := h.modStrand.count

protected theorem State.Canonical.upsetQueue {c q i : Nat} {double : Bool} (h : s.Canonical) : (s.upsetQueue c q i double).Canonical :=
  h.ite (h.modCore.ite h)

protected theorem State.Canonical.upsetCell {sag ctx blk w : Nat} {double : Bool} (h : s.Canonical) : (s.upsetCell sag ctx blk w double).Canonical :=
  h.ite (h.modSag.ite h)

protected theorem State.Canonical.traced {kind : Nat} {target : Word} (h : s.Canonical) : (s.traced kind target).Canonical := h.modMyCore

protected theorem State.Canonical.poolEvent {cl : Nat} (h : s.Canonical) : (s.poolEvent cl).Canonical :=
  (h.foldl fun h => h.modStrand).ite ((h.foldl fun h => h.modStrand).ite h)

protected theorem State.Canonical.shrinkNow {c k : Nat} (h : s.Canonical) : (s.shrinkNow c k).Canonical := by
  unfold State.shrinkNow
  dsimp only
  split
  · exact h.modStrand.poolEvent.ite h
  · exact h

protected theorem State.Canonical.unlist {c k : Nat} (h : s.Canonical) : (s.unlist c k).Canonical := h
protected theorem State.Canonical.reap {c k : Nat} (h : s.Canonical) : (s.reap c k).Canonical := h.modStrand.ite h

protected theorem State.Canonical.galleyEnd {m : Strand} (h : s.Canonical) : (s.galleyEnd m).Canonical := by
  unfold State.galleyEnd
  dsimp only
  split
  · exact (h.same (by rfl)).modSag
  · exact h

protected theorem State.Canonical.failInstance {sag inst : Nat} (h : s.Canonical) : (s.failInstance sag inst).Canonical := h.modSag

protected theorem State.Canonical.failTask {sag : Nat} {task : Option Nat} (h : s.Canonical) : (s.failTask sag task).Canonical := by
  unfold State.failTask
  split
  · exact h
  · split
    · exact h
    · split
      · exact h
      · exact h.modSag.failInstance

protected theorem State.Canonical.modSpec {sag : Nat} {r : SpecRef} {f : SpecTask → SpecTask} (h : s.Canonical) : (s.modSpec sag r f).Canonical := h.modSag

protected theorem State.Canonical.setUndo {sag : Nat} {r : SpecRef} {b p : Word} (h : s.Canonical) : (s.setUndo sag r b p).Canonical :=
  h.modSpec.foldl fun h => h.modStrand

protected theorem State.Canonical.undoRead {r : Read} (h : s.Canonical) : (s.undoRead r).Canonical := by
  unfold State.undoRead
  split
  · exact h
  · exact h.modMe.ite (h.modStrand.ite h.modMe)
  · exact h.modMyCore

protected theorem State.Canonical.undoReads (h : s.Canonical) : s.undoReads.Canonical := (h.foldl fun h => h.undoRead).modMe

protected theorem State.Canonical.stopForAbort {r : StrandRef} (h : s.Canonical) : (s.stopForAbort r).Canonical := by
  unfold State.stopForAbort
  refine State.Canonical.modStrand ?_
  refine State.Canonical.unlist ?_
  refine State.Canonical.same ?_ (by rfl)
  refine State.Canonical.undoReads ?_
  refine State.Canonical.same ?_ (by rfl)
  split
  · exact h.modSag
  · exact h

protected theorem State.Canonical.beginAbort {sag : Nat} {r : SpecRef} {solo cancel fail : Bool} (h : s.Canonical) :
    (s.beginAbort sag r solo cancel fail).Canonical := by
  unfold State.beginAbort
  split
  · split
    · refine State.Canonical.foldl ?_ fun h => h.stopForAbort
      split
      · exact h.modSpec.count.modSpec
      · exact h.modSpec.count
    · exact h
  · exact h

protected theorem State.Canonical.endStrand {c k : Nat} {killed : Bool} (h : s.Canonical) : (s.endStrand c k killed).Canonical := by
  unfold State.endStrand
  refine State.Canonical.poolEvent ?_
  refine State.Canonical.modStrand ?_
  refine State.Canonical.galleyEnd ?_
  refine State.Canonical.unlist ?_
  split
  · exact h.ite h.modSpec
  · exact h

protected theorem State.Canonical.specEnded {m : Strand} (h : s.Canonical) : (s.specEnded m).Canonical := by
  unfold State.specEnded
  split
  · exact h
  · refine .ite h.modSpec.failInstance ?_
    split
    · exact h
    · split
      · exact (h.modSpec.ite h).ite h.beginAbort
      · exact h

protected theorem State.Canonical.takeTrapCode {c : Nat} {epc v : Word} {s0 : State} (h : s0.Canonical) : Keeps (takeTrapCode c epc v s0) := by
  unfold takeTrapCode
  dsimp only
  split
  · split
    · split
      · exact h.undoReads.modMe.modMyCore.endStrand.specEnded.ite h.undoReads.modMe.modMyCore.endStrand.beginAbort
      · exact h.undoReads.modMe.modMyCore.endStrand
    · exact h.undoReads.modMe.modMyCore.endStrand.failTask
  · exact h.undoReads.modMe.traced

protected theorem State.Canonical.trap {c : Cause} {v : Word} (h : s.Canonical) : Keeps (trap c v s) := h.takeTrapCode
protected theorem State.Canonical.trapFree {c : Cause} (h : s.Canonical) : Keeps (trapFree c s) := h.draw.trap

protected theorem State.Canonical.returnFromTrap (h : s.Canonical) : Keeps (returnFromTrap s) := by
  unfold returnFromTrap
  exact .ite h.trap h.modMe.traced

/-! What Machine/Operands keeps. -/

protected theorem State.Canonical.checked {privOk takes ok : Bool} {k : State → Out} (h : s.Canonical)
    (hk : ∀ {t : State}, t.Canonical → Keeps (k t)) : Keeps (checked privOk takes ok s k) := by
  unfold checked
  exact .ite (hk h) (.ite h.trap (.ite h.modMe.trap (.ite h.trap (hk h))))

protected theorem State.Canonical.plain {ok : Bool} {k : State → Out} (h : s.Canonical) (hk : ∀ {t : State}, t.Canonical → Keeps (k t)) :
    Keeps (plain ok s k) :=
  h.checked hk

protected theorem State.Canonical.park {w : Wait} (h : s.Canonical) : Keeps (park w s) := h.modMe
protected theorem State.Canonical.hold (h : s.Canonical) : Keeps (hold s) := h.modMe
protected theorem State.Canonical.holdOn {named : Nat} (h : s.Canonical) : Keeps (holdOn named s) := h.modMe
protected theorem State.Canonical.holdParked (h : s.Canonical) : Keeps (holdParked s) := h.modMe
protected theorem State.Canonical.awaitReply {d : Nat} (h : s.Canonical) : Keeps (awaitReply d s) := h.modMe
protected theorem State.Canonical.pushRead {r : Read} (h : s.Canonical) : (s.pushRead r).Canonical := h.modMe

protected theorem State.Canonical.readSrc {j : Nat} {c : Code} {y : Bool} {k : Word → State → Out} (h : s.Canonical)
    (hk : ∀ {a} {t : State}, t.Canonical → Keeps (k a t)) : Keeps (readSrc j c y s k) := by
  unfold readSrc
  dsimp only
  split
  · exact hk h
  · refine .ite (.ite (hk (h.pushRead.modMe.ite h.pushRead)) h.park) (.ite (.ite (hk (h.pushRead.modStrand.ite h.pushRead)) h.park) ?_)
    refine .ite (.ite (hk (h.pushRead.modMe.ite h.pushRead)) h.park) ?_
    split
    · split
      · exact h.trap
      · split
        · exact .ite (.ite (hk h.modMyCore.pushRead.countPoison) (hk h.modMyCore.pushRead)) h.modMyCore.park
        · exact h.modMyCore.park
    · exact hk h.pushRead

protected theorem State.Canonical.completeTo {next : Word} {fell : Bool} (h : s.Canonical) : Keeps (completeTo next fell s) := by
  unfold completeTo
  refine .ite h.modMe.modMe ?_
  split
  · split
    · exact h.modMe.modMe
    · exact .ite (h.modMe.modMe.traced.shrinkNow.modMe.ite h.modMe.modMe.traced.shrinkNow) h.modMe.modMe.traced
  · exact h.modMe.modMe

protected theorem State.Canonical.complete (h : s.Canonical) : Keeps (complete s) := h.completeTo
protected theorem State.Canonical.branchTo {target : Word} (h : s.Canonical) : Keeps (branchTo target s) := ((h.ite h.modMe).traced).completeTo
protected theorem State.Canonical.jumpTo {target : Word} (h : s.Canonical) : Keeps (jumpTo target s) := h.traced.completeTo

protected theorem State.Canonical.withDst {d : Code} {k : State → Out} (h : s.Canonical) (hk : ∀ {t : State}, t.Canonical → Keeps (k t)) :
    Keeps (withDst d s k) := by
  unfold withDst
  exact .ite (hk h) (.ite h.hold (.ite h.trap (hk h)))

protected theorem State.Canonical.writeDst {n : Nat} {v : Word} (h : s.Canonical) : ∀ {t}, writeDst n v s = .ok t → t.Canonical := by
  unfold writeDst
  intro _
  dsimp only
  split
  · rintro ⟨⟩
    exact h.modMe
  · split
    · split
      · nofun
      · rintro ⟨⟩
        exact h.modMe
    · split
      · split
        · rintro ⟨⟩
          exact h.modMyCore
        · nofun
      · rintro ⟨⟩
        exact h

protected theorem State.Canonical.joinPush {w : Wait} (h : s.Canonical) : (s.joinPush w).Canonical := by
  unfold State.joinPush
  split
  · exact h.modMyCore
  · exact h

protected theorem State.Canonical.deliverTo {n : Nat} {v : Word} {k : State → Out} (h : s.Canonical) (hk : ∀ {t : State}, t.Canonical → Keeps (k t)) :
    Keeps (deliverTo n v s k) := by
  unfold deliverTo
  split
  · exact hk (h.writeDst ‹_›)
  · exact h.joinPush.modMe.park

protected theorem State.Canonical.finish {d : Code} {v : Word} (h : s.Canonical) : Keeps (finish d v s) := h.deliverTo fun h => h.complete
protected theorem State.Canonical.startChild {k : Nat} (h : s.Canonical) : (s.startChild k).Canonical := h.modStrand

protected theorem State.Canonical.finishReply (h : s.Canonical) : Keeps (finishReply s) := by
  unfold finishReply
  split
  · exact .ite h.takeTrapCode (.ite h.trap (h.deliverTo fun h => (h.foldl fun h => h.startChild).modMe.complete))
  · exact h

protected theorem State.Canonical.later {p : Pend} (h : s.Canonical) : Keeps (later p s) := by
  unfold later
  exact .ite h.modMe.complete h.modMe

protected theorem State.Canonical.owe {p : Pend} (h : s.Canonical) : (s.owe p).Canonical := h.modMe

protected theorem State.Canonical.awaitResult {d : Nat} (h : s.Canonical) : Keeps (awaitResult d s) := by
  unfold awaitResult
  exact .ite h.complete h.modMe

protected theorem State.Canonical.awaitLoad {p : Pend} (h : s.Canonical) : Keeps (awaitLoad p s) := h.modMe
protected theorem State.Canonical.longLatency {d : Code} {v : Word} (h : s.Canonical) : Keeps (longLatency d v s) := (h.same (by rfl)).later
protected theorem State.Canonical.fillResult {c k : Nat} {p : Pend} (h : s.Canonical) : (s.fillResult c k p).Canonical := h.modStrand

protected theorem State.Canonical.two {o : FmtA} {k : Word → Word → State → Out} (h : s.Canonical)
    (hk : ∀ {a b} {t : State}, t.Canonical → Keeps (k a b t)) : Keeps (two o s k) :=
  h.readSrc fun h => h.readSrc hk

protected theorem State.Canonical.binary {o : FmtA} {f : Word → Word → Word} (h : s.Canonical) : Keeps (binary o f s) :=
  h.plain fun h => h.withDst fun h => h.two fun h => h.finish

protected theorem State.Canonical.unary {o : FmtUn} {f : Word → Word} (h : s.Canonical) : Keeps (unary o f s) :=
  h.plain fun h => h.withDst fun h => h.readSrc fun h => h.finish

/-! What Machine/Access keeps. -/

protected theorem State.Canonical.meetWalk {root va : Nat} (h : s.Canonical) : (s.meetWalk root va).Canonical :=
  h.ite ((canonical_meet _ _ (canonical_meet _ _ (canonical_meet _ _ h))).ite
    (canonical_meet _ _ (canonical_meet _ _ (canonical_meet _ _ (canonical_meet _ _ h)))))

protected theorem State.Canonical.wakeWalk {root va : Nat} (h : s.Canonical) : (s.wakeWalk root va).Canonical := h.ite (h.foldl fun h => h.wakeHome)
protected theorem State.Canonical.tlbDrop {cl sag va : Nat} (h : s.Canonical) : (s.tlbDrop cl sag va).Canonical := h.modCluster.modDie

protected theorem State.Canonical.lookup {i : Issuer} {va : Nat} (h : s.Canonical) : ∀ {a n t}, lookup s i va = .ok (some (a, n, t)) → t.Canonical := by
  unfold lookup
  intro _ _ _
  split
  · rintro ⟨⟩
    exact h
  · extract_lets fill
    split
    · rintro ⟨⟩
      exact h
    · split
      · nofun
      · extract_lets s1
        have h : s1.Canonical := h.wakeWalk.meetWalk
        split
        · nofun
        · nofun
        · split
          · extract_lets leaf e s2 s3
            have h : s3.Canonical := (canonical_setDword _ _ h).modDie
            clear_value s3
            rintro ⟨⟩
            exact h
          · nofun

protected theorem State.Canonical.setDirty {i : Issuer} {va : Nat} (h : s.Canonical) : (s.setDirty i va).Canonical := by
  unfold State.setDirty
  split
  · exact h
  · split
    · exact (canonical_setDword _ _ h).modCluster.modDie
    · exact h

theorem Prod.canonical_ite {α : Type} {p q : α × State} {c : Prop} [Decidable c] (hp : p.2.Canonical) (hq : q.2.Canonical) :
    (if c then p else q).2.Canonical := by
  split
  · exact hp
  · exact hq

protected theorem State.Canonical.paged {i : Issuer} {kd : Acc} {va n : Nat} (h : s.Canonical) : (paged s i kd va n).2.Canonical := by
  unfold paged
  extract_lets once settle r
  have honce {t : State} (h : t.Canonical) : (once t).2.1.Canonical := by
    unfold once
    split
    · exact h
    · split
      · exact h
      · exact h
      · exact h.lookup ‹_›
  have hsettle {x : Tr × State × Nat} (h : x.2.1.Canonical) : (settle x).2.Canonical := by
    unfold settle
    split
    · exact canonical_underKey _ _ _ _ h
    · refine Prod.canonical_ite h (Prod.canonical_ite h ?_)
      exact canonical_underKey _ _ _ _ h.setDirty
    · exact h
  have hr : r.2.Canonical := hsettle (honce h)
  split
  · exact hsettle (honce hr.tlbDrop)
  · exact hsettle (honce hr.tlbDrop)
  · exact hr

protected theorem State.Canonical.translate {s : State} {i : Issuer} {kd : Acc} {va : Nat} {n : Nat} (h : s.Canonical) :
    (translate s i kd va n).2.Canonical := by
  unfold translate
  extract_lets base off pa inGrant bad
  split
  · split
    · exact h
    · exact canonical_underKey _ _ _ _ h
  · clear_value bad
    split
    · exact h
    · exact h.paged

/-- What holds of an access to a place of the virtual space and of every other answer of `resolve` holds of the choice between them. -/
theorem onGlobal {α : Type} {P : α → Prop} {r : Option Addr} {F : Nat → α} {G : α} (hF : ∀ va, P (F va)) (hG : P G) :
    P (match r with | some (.global va) => F va | _ => G) := by
  split
  · exact hF _
  · exact hG

/-- The same of the choice by the kind of place that `resolve` finds. -/
theorem onAddr {α : Type} {P : α → Prop} {r : Option Addr} {N : α} {F G : Nat → Nat → α} {H : Nat → α} (hN : P N) (hF : ∀ c off, P (F c off))
    (hG : ∀ cl off, P (G cl off)) (hH : ∀ va, P (H va)) :
    P (match r with | none => N | some (.scratch c off) => F c off | some (.slice cl off) => G cl off | some (.global va) => H va) := by
  split
  · exact hN
  · exact hF _ _
  · exact hG _ _
  · exact hH _

protected theorem State.Canonical.arrive {y : Way} {kd : Acc} {a : Word} {n : Nat} {ad : Addr} {loc : Nat} {why : Option ReplayWhy}
    {k : Place → State → Out} (hk : ∀ {a} {t : State}, t.Canonical → Keeps (k a t)) (h2 : s.Canonical) : Keeps (arrive y kd a n ad loc why k s) := by
  unfold arrive
  split
  · exact h2.trap
  · exact hk h2

protected theorem State.Canonical.landed {y : Way} {kd : Acc} {a : Word} {n va : Nat} {k : Place → State → Out} {r : Tr × State}
    (h : ∀ {t : State}, t.Canonical → Keeps (y.wait t)) (hk : ∀ {a} {t : State}, t.Canonical → Keeps (k a t)) (h2 : r.2.Canonical) :
    Keeps (landed y kd a n va k r) := by
  unfold landed
  split
  · exact h2.arrive hk
  · exact h h2
  · exact h2.trap
  · exact h2.trap
  · exact h2.arrive hk
  · trivial

protected theorem State.Canonical.goTo {y : Way} {kd : Acc} {a : Word} {n : Nat} {k : Place → State → Out} {ad : Addr}
    (h : ∀ {t : State}, t.Canonical → Keeps (y.wait t)) (hk : ∀ {a} {t : State}, t.Canonical → Keeps (k a t)) (h2 : s.Canonical) :
    Keeps (goTo y kd a n k s ad) := by
  unfold goTo
  split
  · exact h2.arrive hk
  · exact h2.arrive hk
  · exact h2.translate.landed h hk

protected theorem State.Canonical.accessBy {y : Way} {kd : Acc} {a : Word} {n al : Nat} {pre : Addr → Bool} {k : Place → State → Out}
    (h : ∀ {t : State}, t.Canonical → Keeps (y.wait t)) (h1 : s.Canonical) (hk : ∀ {a} {t : State}, t.Canonical → Keeps (k a t)) :
    Keeps (accessBy y kd a n al pre s k) := by
  unfold accessBy
  split
  · exact h1.trap
  · split
    · exact h1.trap
    · split
      · exact h1.trap
      · exact h1.goTo (fun h2 => h h2) fun h2 => hk h2

protected theorem State.Canonical.postOf {op tc ctx va loc n : Nat} {home : Home} {body : Body} (h : s.Canonical) :
    (s.postOf op tc ctx va loc n home body).Canonical :=
  h

protected theorem State.Canonical.post {tc ctx va loc n : Nat} {home : Home} {body : Body} (h : s.Canonical) : (s.post tc ctx va loc n home body).Canonical :=
  h.postOf

protected theorem State.Canonical.sendWrite {p : Place} {tc ctx n : Nat} {body : Body} {k : State → Out} (h : s.Canonical)
    (hk : ∀ {t : State}, t.Canonical → Keeps (k t)) : Keeps (sendWrite p tc ctx n body s k) := by
  unfold sendWrite
  refine .ite h.hold ?_
  split
  · exact hk h.post
  · split
    · exact h.holdOn
    · exact hk (h.same (by rfl)).modMyCore

protected theorem State.Canonical.sendAll {ctx : Place → Nat} {tc : Nat} {ws : List (Place × Nat × Body)} {k : State → Out} (h : s.Canonical)
    (hk : ∀ {t : State}, t.Canonical → Keeps (k t)) : Keeps (sendAll ctx tc ws s k) := by
  unfold sendAll
  extract_lets
  exact .ite h.hold (.ite h.holdOn (hk (h.same (by rfl)).modMyCore))

protected theorem State.Canonical.sendPeer {loc : Nat} {b : SentBody} (h : s.Canonical) : (s.sendPeer loc b).Canonical := h
protected theorem State.Canonical.peerError {loc : Nat} {update : Bool} (h : s.Canonical) : (s.peerError loc update).Canonical := h
protected theorem State.Canonical.sendRead {loc : Nat} (h : s.Canonical) : (s.sendRead loc).Canonical := h.wakeHome.ite (h.peerError.ite h)
protected theorem State.Canonical.countStray {sag ctx : Nat} (h : s.Canonical) : (s.countStray sag ctx).Canonical := h.count.ite h

protected theorem State.Canonical.readDwords {s0 : State} {n : Nat} {a : Word} {acc : List Word} {k : List Word → State → Out} (h0 : s0.Canonical)
    (h : s.Canonical) (hk : ∀ {r} {t : State}, t.Canonical → Keeps (k r t)) : Keeps (readDwords s0 n a acc s k) := by
  induction n generalizing a acc s with
  | zero => exact hk h
  | succ n ih =>
    unfold readDwords
    refine h.accessBy (fun _ => h0.hold) fun h => ?_
    extract_lets ctx s1 r
    refine .ite (.ite h0.holdOn h0.hold) ?_
    have h1 : s1.Canonical := (canonical_meet _ _ h).sendRead.countStray
    split
    · exact ih h1
    · split
      · exact h1.trap
      · exact ih h1.countPoison

protected theorem State.Canonical.readRecordOf {op : Word} {j : Nat} {a : Word} {n : Nat} {k : List Word → State → Out} (h : s.Canonical)
    (hk : ∀ {a} {t : State}, t.Canonical → Keeps (k a t)) : Keeps (readRecordOf op j a n s k) := by
  unfold readRecordOf
  refine .ite (hk h) ?_
  split
  · exact h.trap
  · split
    · exact h.trap
    · exact h.readDwords h fun h => hk (h.foldl fun h => h.pushRead)

protected theorem State.Canonical.readRecord {j : Nat} {a : Word} {n : Nat} {k : List Word → State → Out} (h : s.Canonical)
    (hk : ∀ {a} {t : State}, t.Canonical → Keeps (k a t)) : Keeps (readRecord j a n s k) :=
  h.readRecordOf hk

/-! What Machine/Issue keeps. -/

/-- The state that a fetched halfword, or a fetch that fails a check, comes with is in canonical form. -/
def Fetched.Keeps : Fetched → Prop
  | .half _ t | .permission t => t.Canonical
  | _ => True

/-- The same of where a halfword lies. -/
def FetchKeeps : Except Fetched (Nat × State) → Prop
  | .ok r => r.2.Canonical
  | .error e => e.Keeps

theorem FetchKeeps.ok {r : Except Fetched (Nat × State)} {l : Nat} {t : State} (h : FetchKeeps r) (e : r = .ok (l, t)) : t.Canonical := by
  subst e
  exact h

theorem FetchKeeps.error {r : Except Fetched (Nat × State)} {f : Fetched} (h : FetchKeeps r) (e : r = .error f) : f.Keeps := by
  subst e
  exact h

theorem Fetched.Keeps.half {f : Fetched} {n : Nat} {t : State} (h : f.Keeps) (e : f = .half n t) : t.Canonical := by
  subst e
  exact h

theorem Fetched.Keeps.permission {f : Fetched} {t : State} (h : f.Keeps) (e : f = .permission t) : t.Canonical := by
  subst e
  exact h

protected theorem State.Canonical.fetchLoc {a : Word} {s : State} (h : s.Canonical) : FetchKeeps (fetchLoc a s) := by
  unfold fetchLoc
  generalize resolve s s.myCluster s.me.sag a 2 = r
  refine onAddr trivial (fun c off => canonical_meet _ _ h) (fun cl off => canonical_meet _ _ h) (fun va => ?_)
  split
  · exact (canonical_meet _ _ (h.translate.snd ‹_›)).sendRead
  · trivial
  · trivial
  · exact h.translate.snd ‹_›

protected theorem State.Canonical.fetch16 {a : Word} {s : State} (h : s.Canonical) : (fetch16 a s).Keeps := by
  unfold fetch16
  split
  · exact h.fetchLoc.ok ‹_›
  · exact h.fetchLoc.error ‹_›

protected theorem State.Canonical.fetch (h : s.Canonical) : ∀ {i t}, fetch s = .ok (i, t) → t.Canonical := by
  unfold fetch
  intro _ _
  extract_lets pc
  split
  · rintro ⟨⟩
    exact h
  · rintro ⟨⟩
    exact h.fetch16.permission ‹_›
  · rintro ⟨⟩
    exact h
  · nofun
  · have h := h.fetch16.half ‹_›
    split
    · split <;> (rintro ⟨⟩; exact h)
    · split
      · rintro ⟨⟩
        exact h
      · rintro ⟨⟩
        exact h.fetch16.permission ‹_›
      · rintro ⟨⟩
        exact h
      · nofun
      · have h := h.fetch16.half ‹_›
        split <;> (rintro ⟨⟩; exact h)

protected theorem State.Canonical.backOff {r : StrandRef} (h : s.Canonical) : (s.backOff r).Canonical := by
  unfold State.backOff
  extract_lets m
  have h1 : (State.undoReads { s with core := r.core, slot := r.slot }).Canonical := (h.same (by rfl)).undoReads
  exact .ite (h1.same (by rfl)).modStrand.modCluster h

protected theorem State.Canonical.backOffAll {c : Nat} (h : s.Canonical) : (s.backOffAll c).Canonical := h.foldl fun h => h.backOff
protected theorem State.Canonical.stopCore {c : Nat} (h : s.Canonical) : (s.stopCore c).Canonical := h.ite (h.ite h.backOffAll).modCore
protected theorem State.Canonical.resumeCore {c : Nat} (h : s.Canonical) : (s.resumeCore c).Canonical := h.modCore
protected theorem State.Canonical.elapse {n : Nat} (h : s.Canonical) : (s.elapse n).Canonical := h

protected theorem State.Canonical.atBeat {c : Nat} (h : s.Canonical) : ∀ {t}, s.atBeat c = some t → t.Canonical := by
  unfold State.atBeat
  intro _
  dsimp only
  split
  · rintro ⟨⟩
    exact (h.same (by rfl)).modCore
  · nofun

protected theorem State.Canonical.idle {c : Nat} (h : s.Canonical) : (s.idle c).Canonical := h.modCore

protected theorem State.Canonical.focus {c k : Nat} (h : s.Canonical) : (s.focus c k).Canonical :=
  (h.same (by rfl)).modCore.shrinkNow.modMe.ite (h.same (by rfl)).modCore

/-! What Machine/Flags keeps. -/

protected theorem State.Canonical.readScale {j : Nat} {k : Word → State → Out} (h : s.Canonical)
    (hk : ∀ {a} {t : State}, t.Canonical → Keeps (k a t)) : Keeps (readScale j s k) := by
  unfold readScale
  exact .ite (h.readSrc hk) (hk h)

protected theorem State.Canonical.consume (h : s.Canonical) : s.consume.Canonical := h.modMe.ite h

/-! What Machine/Sync keeps. -/

protected theorem State.Canonical.applyStore {die core slot uid sag ctx named loc : Nat} {bs : List Byte} (h : s.Canonical) :
    (s.applyStore die core slot uid sag ctx named loc bs).Canonical :=
  h.modSag.ite (h.count.ite ((h.same (by rfl)).modDie.ite (canonical_clearPoison _ _ (canonical_setBytes _ _ h))))

protected theorem State.Canonical.releasing {scope : Nat} {k : State → Out} (h : s.Canonical) (hk : ∀ {t : State}, t.Canonical → Keeps (k t)) :
    Keeps (releasing scope s k) := by
  unfold releasing
  exact .ite (hk h) h.holdParked

protected theorem State.Canonical.ordered {k : State → Out} (h : s.Canonical) (hk : ∀ {t : State}, t.Canonical → Keeps (k t)) : Keeps (ordered s k) := by
  unfold ordered
  exact .ite h.hold (hk h)

protected theorem State.Canonical.enter {c k b : Nat} {f : Strand → Strand} (h : s.Canonical) : (s.enter c k b f).Canonical := (h.same (by rfl)).modCore
protected theorem State.Canonical.relaxPower (h : s.Canonical) : s.relaxPower.Canonical := h

protected theorem State.Canonical.give {r : StrandRef} {uid : Nat} {x : Reply} (h : s.Canonical) : (s.give r uid x).Canonical :=
  (h.same (by rfl)).ite h.modStrand

/-! What Machine/Control keeps. -/

protected theorem State.Canonical.writeUndo {b p : Word} (h : s.Canonical) : (s.writeUndo b p).Canonical := by
  unfold State.writeUndo
  split
  · exact h.setUndo
  · exact h.modMe

protected theorem State.Canonical.writeSys {n : Nat} {v : Word} (h : s.Canonical) : (writeSys n v s).Canonical := by
  unfold writeSys
  split
  · exact h.modMe
  · exact h.modMe
  · exact h.modMe
  · exact h.modMe
  · exact h.modMe
  · exact h.modMe
  · exact h.modMe
  · exact h.modMe
  · exact h.modMe
  · exact h.modMe
  · exact h.modMe
  · exact h.modMe
  · exact h.modMe
  · exact h.modMe
  · exact h.modMe
  · exact h.modMe
  · exact h.modMe
  · exact h.modSag.ite h
  · exact h.modSag.ite h
  · exact h.modMe
  · exact h.writeUndo
  · exact h.writeUndo
  · exact h.modMyCore
  · exact h.modMe
  · exact h.modMe
  · exact h.modMe
  · exact h.modSag.relaxPower
  · exact h

protected theorem State.Canonical.execMfs {o : FmtMfs} (h : s.Canonical) : Keeps (execMfs o s) := h.plain fun h => h.withDst fun h => h.finish
protected theorem State.Canonical.execMts {o : FmtMts} (h : s.Canonical) : Keeps (execMts o s) := h.checked fun h => h.readSrc fun h => h.writeSys.complete

protected theorem State.Canonical.branch2 {o : FmtB} {f : Word → Word → Bool} (h : s.Canonical) : Keeps (branch2 o f s) := by
  unfold branch2
  exact h.plain fun h => h.readSrc fun h => h.readSrc fun h => .ite h.branchTo h.complete

protected theorem State.Canonical.branch1 {o : FmtZ} {f : Word → Bool} (h : s.Canonical) : Keeps (branch1 o f s) := by
  unfold branch1
  exact h.plain fun h => h.readSrc fun h => .ite h.branchTo h.complete

protected theorem State.Canonical.execJmp {o : FmtJ} (h : s.Canonical) : Keeps (execJmp o s) := h.plain fun h => h.branchTo
protected theorem State.Canonical.execCall {o : FmtJ} (h : s.Canonical) : Keeps (execCall o s) := h.plain fun h => h.withDst fun h => h.modMe.jumpTo

protected theorem State.Canonical.toTarget {t : Word} {k : State → Out} (h : s.Canonical) (hk : ∀ {t : State}, t.Canonical → Keeps (k t)) :
    Keeps (toTarget t s k) := by
  unfold toTarget
  exact .ite h.trap (hk h)

protected theorem State.Canonical.execJr {o : FmtSrc} (h : s.Canonical) : Keeps (execJr o s) :=
  h.plain fun h => h.readSrc fun h => h.toTarget fun h => h.branchTo

protected theorem State.Canonical.execCallr {o : FmtSrc} (h : s.Canonical) : Keeps (execCallr o s) :=
  h.plain fun h => h.withDst fun h => h.readSrc fun h => h.toTarget fun h => h.modMe.jumpTo

protected theorem State.Canonical.execRet (h : s.Canonical) : Keeps (execRet s) := h.plain fun h => h.readSrc fun h => h.toTarget fun h => h.jumpTo

protected theorem State.Canonical.execLoop {o : FmtLoop} (h : s.Canonical) : Keeps (execLoop o s) := by
  unfold execLoop
  refine h.plain fun h => h.readSrc fun h => .ite h.completeTo ?_
  split
  · exact h.trapFree
  · exact h.modMe.complete

protected theorem State.Canonical.claimAt {f : Fetcher} {k : Fetcher → State → Out} (h : s.Canonical)
    (hk : ∀ {a} {t : State}, t.Canonical → Keeps (k a t)) : Keeps (claimAt f s k) := by
  unfold claimAt
  exact h.accessBy (fun h => h.hold) fun h => .ite h.hold (.ite h.holdOn (h.sendWrite hk))

protected theorem State.Canonical.claimAgain (h : s.Canonical) : Keeps (claimAgain s) := by
  unfold claimAgain
  split
  · exact .ite h.hold (h.claimAt fun h => h.modMe)
  · exact h.modMe

protected theorem State.Canonical.execIloop {o : FmtLoop} (h : s.Canonical) : Keeps (execIloop o s) := by
  unfold execIloop
  refine h.plain fun h => h.ordered fun h => h.readSrc fun h => .ite h.trapFree ?_
  refine h.readRecord fun h => ?_
  split
  · exact h.trapFree
  · exact h.claimAt fun h => h.modMe

protected theorem State.Canonical.execIloopClaimReply {r : StrandRef} (h : s.Canonical) : Keeps (execIloopClaimReply r s) := by
  unfold execIloopClaimReply
  extract_lets s0 m
  split
  · extract_lets s1
    have h1 : s1.Canonical := h
    clear_value s1
    split
    split
    · exact h
    · refine .ite h1.reap ?_
      split
      · refine .ite h1.modMe.completeTo ?_
        split
        · exact h1.modMe.complete
        · exact h1
      · split
        · refine .ite h1.modMe.completeTo ?_
          extract_lets s2 s3
          have h2 : s2.Canonical := h1.modMe.traced
          split
          · have h3 : s3.Canonical := h2.shrinkNow
            exact h3.modMe.ite h3
          · exact h2
        · exact h1
  · exact h

protected theorem State.Canonical.execPfx {o : FmtP} (h : s.Canonical) : Keeps (execPfx o s) := by
  unfold execPfx
  exact .ite h.trap (h.plain fun h => h.modMe.complete)

protected theorem State.Canonical.execStrandStart {o : FmtA} (h : s.Canonical) : Keeps (execStrandStart o s) := by
  unfold execStrandStart
  refine h.plain fun h => ?_
  refine .ite h.trapFree ?_
  refine h.withDst fun h => h.two fun h => h.toTarget fun h => .ite h.hold ?_
  split
  · exact h.finish
  · exact h.enter.modMe.deliverTo fun h => h.startChild.complete

protected theorem State.Canonical.execStrandHalt (h : s.Canonical) : Keeps (execStrandHalt s) := by
  unfold execStrandHalt
  exact h.plain fun h => .ite h.hold h.endStrand.specEnded

protected theorem State.Canonical.execStrandSlot {o : FmtDst} (h : s.Canonical) : Keeps (execStrandSlot o s) := h.plain fun h => h.withDst fun h => h.finish

protected theorem State.Canonical.execStrandQbind {o : FmtTwo} (h : s.Canonical) : Keeps (execStrandQbind o s) :=
  h.plain fun h => h.readSrc fun h => h.readSrc fun h => (h.modMyCore.foldl fun h => h.modStrand).complete

protected theorem State.Canonical.execTrap {o : FmtTrap} (h : s.Canonical) : Keeps (execTrap o s) := h.plain fun h => h.takeTrapCode

protected theorem State.Canonical.execBrk {o : FmtTrap} (h : s.Canonical) : Keeps (execBrk o s) := by
  unfold execBrk
  exact h.plain fun h => .ite h.stopCore.modMyCore.modMe h.takeTrapCode

protected theorem State.Canonical.execSysc {o : FmtTrap} (h : s.Canonical) : Keeps (execSysc o s) := h.plain fun h => h.takeTrapCode

protected theorem State.Canonical.execEret (h : s.Canonical) : Keeps (execEret s) := by
  unfold execEret
  exact h.plain fun h => .ite h.returnFromTrap h.trap

/-! What Machine/Memory keeps. -/

protected theorem State.Canonical.loadSent {p : Pend} (h : s.Canonical) : Keeps (loadSent p s) := by
  unfold loadSent
  exact .ite h.awaitLoad h.later

protected theorem State.Canonical.loadAt {d : Code} {a : Word} {n : Nat} {sx acq : Bool} {ctxOf : Place → State → Nat} (h : s.Canonical) :
    Keeps (loadAt d a n sx acq ctxOf s) := by
  unfold loadAt
  refine h.accessBy (fun h => h.hold) fun h => ?_
  exact .ite (.ite h.holdOn h.hold) (h.same (by rfl)).post.loadSent

protected theorem State.Canonical.loadM {o : FmtM} {sx : Bool} (h : s.Canonical) : Keeps (loadM o sx s) :=
  h.plain fun h => h.ordered fun h => h.withDst fun h => h.readSrc fun h => h.loadAt

protected theorem State.Canonical.storeAt {a v : Word} {n : Nat} {rel : Option Nat} {ctxOf : Place → State → Nat} (h : s.Canonical) :
    Keeps (storeAt a v n rel ctxOf s) := by
  unfold storeAt
  refine h.accessBy (fun h => h.hold) fun h => ?_
  split
  · exact h.releasing fun h => .ite h.hold (h.sendWrite fun h => h.complete)
  · exact .ite h.hold (h.sendWrite fun h => h.complete)

protected theorem State.Canonical.execSt {o : FmtM} (h : s.Canonical) : Keeps (execSt o s) :=
  h.plain fun h => h.ordered fun h => h.readSrc fun h => h.readSrc fun h => h.storeAt

protected theorem State.Canonical.execLda {o : FmtLda} (h : s.Canonical) : Keeps (execLda o s) :=
  h.plain fun h => h.ordered fun h => h.withDst fun h => h.readSrc fun h => h.readSrc fun h => h.loadAt

protected theorem State.Canonical.execStl {o : FmtStl} (h : s.Canonical) : Keeps (execStl o s) :=
  h.plain fun h => h.ordered fun h => h.readSrc fun h => h.readSrc fun h => h.readSrc fun h => h.storeAt

protected theorem State.Canonical.execLdx {o : FmtLdx} (h : s.Canonical) : Keeps (execLdx o s) := by
  unfold execLdx
  refine h.plain fun h => h.ordered fun h => h.withDst fun h => h.readSrc fun h => h.readSrc fun h => ?_
  dsimp only
  split
  · exact .ite h.trap h.loadAt
  · split
    · exact h.trap
    · exact h.loadAt

protected theorem State.Canonical.bitAccess {y : Way} {kd : Acc} {op a : Word} {w : Nat} {k : Place → Nat → State → Out}
    (h : ∀ {t : State}, t.Canonical → Keeps (y.wait t)) (h1 : s.Canonical) (hk : ∀ {a b} {t : State}, t.Canonical → Keeps (k a b t)) :
    Keeps (bitAccess y kd op a w s k) := by
  unfold bitAccess
  dsimp only
  refine .ite h1.trap ?_
  split
  · exact h1.trap
  · exact h1.accessBy h hk

protected theorem State.Canonical.execLdb {o : FmtLdb} (h : s.Canonical) : Keeps (execLdb o s) := by
  unfold execLdb
  refine h.plain fun h => h.ordered fun h => h.withDst fun h => h.readSrc fun h => h.bitAccess (fun h => h.hold) fun h => ?_
  exact .ite (.ite h.holdOn h.hold) ((h.same (by rfl)).foldl fun h => h.post).loadSent

protected theorem State.Canonical.execStb {o : FmtStb} (h : s.Canonical) : Keeps (execStb o s) := by
  unfold execStb
  refine h.plain fun h => h.ordered fun h => h.readSrc fun h => h.readSrc fun h => h.bitAccess (fun h => h.hold) fun h => ?_
  exact .ite h.hold (h.sendAll fun h => h.complete)

protected theorem State.Canonical.execPref {o : FmtPref} {s : State} (h : s.Canonical) : Keeps (execPref o s) := by
  unfold execPref
  refine h.plain fun h => h.readSrc fun {a t} h => ?_
  generalize resolve t t.myCluster t.me.sag (baseOff a o.o (2 ^ o.sz.toNat)) 1 = r
  refine onGlobal (fun va => ?_) h.complete
  split
  · exact h.complete
  · exact (h.translate.snd ‹_›).complete

protected theorem State.Canonical.feAccess {kd : Acc} {a : Word} {k : Place → State → Out} (h : s.Canonical)
    (hk : ∀ {a} {t : State}, t.Canonical → Keeps (k a t)) : Keeps (feAccess kd a s k) := by
  unfold feAccess
  exact .ite h.trap (h.accessBy (fun h => h.hold) hk)

protected theorem State.Canonical.ldfe {o : FmtFe} {op : FeOp} (h : s.Canonical) : Keeps (ldfe o op s) := by
  unfold ldfe
  exact h.plain fun h => h.ordered fun h => h.withDst fun h => h.readSrc fun h => h.feAccess fun h => .ite h.holdOn (.ite h.hold h.post.awaitReply)

protected theorem State.Canonical.stfe {o : FmtFe} {op : FeOp} (h : s.Canonical) : Keeps (stfe o op s) := by
  unfold stfe
  refine h.plain fun h => h.ordered fun h => h.readSrc fun h => h.readSrc fun h => h.feAccess fun h => h.releasing fun h => .ite h.hold ?_
  refine h.sendWrite fun h => ?_
  split
  · exact h.awaitReply
  · exact h.complete

protected theorem State.Canonical.atomicAccess {op : AOp} {scope : Nat} {a : Word} {k : Place → State → Out} (h : s.Canonical)
    (hk : ∀ {a} {t : State}, t.Canonical → Keeps (k a t)) : Keeps (atomicAccess op scope a s k) := by
  unfold atomicAccess
  exact h.accessBy (fun h => h.hold) fun h => .ite h.hold (hk h)

protected theorem State.Canonical.amo {op : AOp} {o : FmtAmo} (h : s.Canonical) : Keeps (amo op o s) := by
  unfold amo
  refine h.plain fun h => h.ordered fun h => h.withDst fun h => h.readSrc fun h => h.readSrc fun h => ?_
  split
  · exact h.readSrc fun h => h.atomicAccess fun h => .ite h.holdOn (h.sendWrite fun h => h.awaitReply)
  · exact h.atomicAccess fun h => .ite h.holdOn (h.sendWrite fun h => h.awaitReply)

protected theorem State.Canonical.addPend (h : s.Canonical) : s.addPend.Canonical := h.modMe

protected theorem State.Canonical.red {op : AOp} {o : FmtRed} (h : s.Canonical) : Keeps (red op o s) := by
  unfold red
  refine h.plain fun h => h.ordered fun h => ?_
  exact .ite h.hold (h.readSrc fun h => h.readSrc fun h => h.atomicAccess fun h => h.sendWrite fun h => h.addPend.complete)

protected theorem State.Canonical.fence {cond : State → Bool} (h : s.Canonical) : Keeps (fence cond s) := by
  unfold fence
  exact h.plain fun h => .ite h.complete h.hold

protected theorem State.Canonical.fenceParked {cond : State → Bool} (h : s.Canonical) : Keeps (fenceParked cond s) := by
  unfold fenceParked
  exact h.plain fun h => .ite h.complete h.holdParked

protected theorem State.Canonical.execFenceRel {o : FmtFence} (h : s.Canonical) : Keeps (execFenceRel o s) := h.fenceParked

protected theorem State.Canonical.execFenceFull {o : FmtFence} (h : s.Canonical) : Keeps (execFenceFull o s) := by
  unfold execFenceFull
  refine h.plain fun h => h.ordered fun h => ?_
  dsimp only
  split
  · exact .ite h.modMe.complete h.modMe.holdParked
  · split
    · exact h.complete
    · exact h.holdParked

protected theorem State.Canonical.execFenceWred (h : s.Canonical) : Keeps (execFenceWred s) := h.fence
protected theorem State.Canonical.execFenceWrep (h : s.Canonical) : Keeps (execFenceWrep s) := h.fenceParked

/-! What Machine/Homes keeps. -/

protected theorem State.Canonical.answer {m : Msg} {b : AckBody} (h : s.Canonical) : (s.answer m b).Canonical := h
protected theorem State.Canonical.replyTo {m : Msg} {v : Word} (h : s.Canonical) : (s.replyTo m v).Canonical := h.answer
protected theorem State.Canonical.modIssuer {m : Msg} {f : Strand → Strand} (h : s.Canonical) : (s.modIssuer m f).Canonical := h.modStrand.ite h
protected theorem State.Canonical.dropMsg {k : Nat} (h : s.Canonical) : (s.dropMsg k).Canonical := h

protected theorem State.Canonical.strike {loc n : Nat} {en : EccRec} (h : s.Canonical) : (s.strike loc n en).Canonical :=
  canonical_meet _ _ ((canonical_upset _ _ h).ite ((canonical_upset _ _ h).ite h))

protected theorem State.Canonical.replyLoad {m : Msg} {poison : Bool} {v : Word} (h : s.Canonical) : (s.replyLoad m poison v).Canonical :=
  h.replyTo.ite (h.answer.ite (h.countPoison.ite h.count).replyTo)

protected theorem State.Canonical.settleSignals {loc : Nat} (h : s.Canonical) : (s.settleSignals loc).Canonical :=
  ((canonical_meet _ _ h).foldl fun h => h.replyLoad)

protected theorem State.Canonical.changed {loc n : Nat} (h : s.Canonical) : (s.changed loc n).Canonical := h.foldl fun h => h.settleSignals

protected theorem State.Canonical.serveFe {m : Msg} (h : s.Canonical) : (s.serveFe m).Canonical := by
  unfold State.serveFe
  split
  · split
    · exact h.replyLoad
    · exact (h.ite (canonical_setFull _ _ h)).replyLoad
    · exact h.replyTo
    · exact (h.count.ite (canonical_setFull _ _ (canonical_clearPoison _ _ (canonical_setDword _ _ h))).changed).replyTo
    · exact (h.count.ite (canonical_setFull _ _ (canonical_clearPoison _ _ (canonical_setDword _ _ h))).changed).answer
    · exact (h.count.ite (canonical_setFull _ _ h)).answer
  · exact h

protected theorem State.Canonical.serveWaiter {k : Nat} (h : s.Canonical) : (s.serveWaiter k).Canonical := by
  unfold State.serveWaiter
  split
  · exact (h.same (by rfl)).serveFe
  · exact h

protected theorem State.Canonical.settleFe {n loc : Nat} (h : s.Canonical) : (State.settleFe n s loc).Canonical := by
  induction n generalizing s with
  | zero => exact h
  | succ n ih =>
    unfold State.settleFe
    split
    · split
      · exact ih h.serveWaiter
      · exact ih h.serveWaiter
      · exact ih h.serveWaiter
      · exact h
    · split
      · exact ih h.serveWaiter
      · exact h

protected theorem State.Canonical.listWaiter {m : Msg} {w : Wait} (h : s.Canonical) : (s.listWaiter m w).Canonical := (h.same (by rfl)).modIssuer

protected theorem State.Canonical.feArrive {m : Msg} (h : s.Canonical) : (s.feArrive m).Canonical := by
  unfold State.feArrive
  split
  · exact h.serveFe.settleFe.ite h.listWaiter
  · exact h

protected theorem State.Canonical.swaitArrive {m : Msg} {bound : Word} (h : s.Canonical) : (s.swaitArrive m bound).Canonical := h.replyLoad.ite h.listWaiter

protected theorem State.Canonical.atomicApply {m : Msg} {op : AOp} {b cmp : Word} {ret : Bool} (h : s.Canonical) : (s.atomicApply m op b cmp ret).Canonical :=
  have ans {t : State} {v} (h : t.Canonical) : (if ret then t.replyTo m v else t.answer m .update).Canonical := h.replyTo.ite h.answer
  (ans h.count).ite ((ans h.count).ite (ans (canonical_setBytes _ _ h).changed))

protected theorem State.Canonical.claimApply {m : Msg} {total f minc p : Nat} (h : s.Canonical) : (s.claimApply m total f minc p).Canonical :=
  h.count.answer.ite (h.count.answer.ite (canonical_setBytes _ _ h).changed.answer)

protected theorem State.Canonical.keepBad {m : Msg} {t : State} (h : t.Canonical) : (s.keepBad m t).Canonical := h.ite h.modSag

protected theorem State.Canonical.bitsApply {m : Msg} {v mask : Lane} (h : s.Canonical) : (s.bitsApply m v mask).Canonical := by
  unfold State.bitsApply
  extract_lets old new touched t
  have ht : t.Canonical := by
    unfold t
    generalize touched = o
    cases o with
    | nil => exact h
    | cons i l => exact h.applyStore
  clear_value t
  obtain ⟨-, -, hp⟩ := h
  obtain ⟨hm, hf, -⟩ := id ht
  have hbad : ({ t with poison := s.poison, errs := s.errs } : State).Canonical := ⟨hm, hf, hp⟩
  exact .ite ht hbad.keepBad

protected theorem State.Canonical.putAt {sag : Nat} {data : Word} {loc : Nat} {counter : Option Nat} (h : s.Canonical) :
    (s.putAt sag data loc counter).Canonical := by
  have h1 l (v : Word) a n := (canonical_clearPoison a n (canonical_setDword l v h)).changed (loc := a) (n := n)
  unfold State.putAt
  split
  · exact (canonical_meet _ _ (h1 ..)).count.ite (canonical_setDword _ _ (canonical_meet _ _ (h1 ..))).changed
  · exact h1 ..

protected theorem State.Canonical.reclaim {sag : Nat} {hm : Home} (h : s.Canonical) : (s.reclaim sag hm).Canonical := by
  unfold State.reclaim
  dsimp only
  split
  · exact h
  · refine .ite h ?_
    split
    · exact h
    · split
      · exact h.beginAbort
      · exact h

protected theorem State.Canonical.parkAtHome {k : Nat} {m : Msg} (h : s.Canonical) : (s.parkAtHome k m).Canonical :=
  (h.reclaim.ite h).ite ((((h.reclaim.ite h).dropMsg).modCore).ite (((h.reclaim.ite h).modIssuer).ite (((h.reclaim.ite h).dropMsg).modCore)))

protected theorem State.Canonical.freeTag {sag src : Nat} (h : s.Canonical) : (s.freeTag sag src).Canonical := h.modSag

protected theorem State.Canonical.settled {m : Msg} (h : s.Canonical) : (s.settled m).Canonical := by
  unfold State.settled
  split
  · exact h.freeTag
  · exact h

protected theorem State.Canonical.answerLoad {m : Msg} {v : Word} {bad : Option Nat} (h : s.Canonical) : (s.answerLoad m v bad).Canonical := by
  unfold State.answerLoad
  split
  · exact h.answer
  · exact h

protected theorem State.Canonical.perform {m : Msg} {en : EccRec} (h : s.Canonical) : (s.perform m en).Canonical := by
  unfold State.perform
  split
  · exact (h.strike.same (by rfl)).foldl fun h => h.countStray.answerLoad
  · exact h.applyStore.changed.answer
  · exact h.bitsApply.answer
  · exact h.strike.atomicApply
  · exact h.strike.claimApply
  · exact h.strike.swaitArrive
  · exact h.strike.feArrive
  · exact h.putAt.answer
  · exact h.applyStore.changed.settled
  · exact h

protected theorem State.Canonical.failMsg {m : Msg} (h : s.Canonical) : (s.failMsg m).Canonical := by
  unfold State.failMsg
  split
  · exact h.peerError.answer
  · exact h.peerError.replyTo.ite h.peerError.answer
  · exact h.peerError.answer
  · exact h.peerError.answer
  · exact h.peerError.answer
  · exact h.peerError.answer
  · exact h.peerError.answer
  · exact h.peerError.answer
  · exact h.peerError.answer
  · exact h.peerError.settled
  · exact h.peerError.replyTo

protected theorem State.Canonical.reach {m : Msg} {en : EccRec} (h : s.Canonical) : (s.reach m en).Canonical := by
  unfold State.reach
  exact .ite h.failMsg (.ite h h.perform)

protected theorem State.Canonical.applyMsg {k : Nat} {m : Msg} {en : EccRec} (h : s.Canonical) : (s.applyMsg k m en).Canonical :=
  h.parkAtHome.ite (h.ite h.dropMsg.reach)

protected theorem State.Canonical.jobByteOut {cl : Nat} {j : Job} {w : EWrite} (h : s.Canonical) : (s.jobByteOut cl j w).Canonical :=
  h.wakeHome.applyStore.changed

protected theorem State.Canonical.engineWrite {cl k i : Nat} (h : s.Canonical) : (s.engineWrite cl k i).Canonical := by
  unfold State.engineWrite
  split
  · split
    · exact h.ite (h.reclaim.ite h.modCluster.jobByteOut)
    · exact h
  · exact h

protected theorem State.Canonical.wakeHomes {m : Msg} (h : s.Canonical) : (s.wakeHomes m).Canonical := h.foldl fun h => h.wakeHome

protected theorem State.Canonical.execHomeAccess {hm : HomeSel} (h : s.Canonical) : Keeps (execHomeAccess hm s) := by
  unfold execHomeAccess
  refine .ite h.engineWrite ?_
  split
  · split <;> exact .ite h h.wakeHomes.applyMsg
  · exact h

protected theorem State.Canonical.execFeOpAtHome {k : Nat} (h : s.Canonical) : Keeps (execFeOpAtHome k s) := by
  unfold execFeOpAtHome
  split
  · exact .ite h h.wakeHomes.applyMsg
  · exact h

protected theorem State.Canonical.waiterArrives {m : Msg} (h : s.Canonical) : (s.waiterArrives m).Canonical := by
  unfold State.waiterArrives
  split
  · exact (canonical_meet _ _ h.wakeHomes).swaitArrive
  · exact (canonical_meet _ _ h.wakeHomes).feArrive

protected theorem State.Canonical.execWaiterRetryBackoff {k : Nat} (h : s.Canonical) : Keeps (execWaiterRetryBackoff k s) := by
  unfold execWaiterRetryBackoff
  split
  · exact .ite h (h.same (by rfl)).waiterArrives
  · exact h

protected theorem State.Canonical.execHomeReply {k : Nat} (h : s.Canonical) : Keeps (execHomeReply k s) := by
  unfold execHomeReply
  split
  · exact .ite h.wakeUnit (.ite h (.ite (h.same (by rfl)).reap (.ite h (h.same (by rfl)).modStrand.wakeUnit)))
  · exact h

protected theorem State.Canonical.fillLoad {c k id shift bits lo : Nat} {v : Word} {bad : Option Nat} (h : s.Canonical) :
    (s.fillLoad c k id shift bits lo v bad).Canonical := by
  unfold State.fillLoad
  dsimp only
  split
  · exact h
  · split
    · split
      · exact h.fillResult
      · exact h.modStrand.ite h.countPoison.fillResult
    · exact h.modStrand

protected theorem State.Canonical.execNonreturningUpdateApplied {k : Nat} (h : s.Canonical) : Keeps (execNonreturningUpdateApplied k s) := by
  unfold execNonreturningUpdateApplied
  split
  · exact .ite h ((h.same (by rfl)).modStrand.ite (h.same (by rfl)))
  · exact h

protected theorem State.Canonical.execStoreAcknowledgement {k : Nat} (h : s.Canonical) : Keeps (execStoreAcknowledgement k s) := by
  unfold execStoreAcknowledgement
  split
  · exact h.ite h
  · exact h

protected theorem State.Canonical.execLongLatencyResult {r : StrandRef} {k : Nat} (h : s.Canonical) : Keeps (execLongLatencyResult r k s) := by
  unfold execLongLatencyResult
  split
  · exact .ite h (.ite h.modStrand.reap h.fillResult)
  · exact h

protected theorem State.Canonical.execPendingWriteDrain {die : Nat} (h : s.Canonical) : Keeps (execPendingWriteDrain die s) := by
  unfold execPendingWriteDrain
  split
  · exact .ite h.modDie.peerError (.ite h.modDie.sendPeer (canonical_setBytes _ _ h.modDie).changed)
  · exact h

protected theorem State.Canonical.failFor {sag : Nat} {task : Option Nat} {spec : Option SpecRef} (h : s.Canonical) :
    (s.failFor sag task spec).Canonical := by
  unfold State.failFor
  split
  · exact h.failTask
  · split
    · exact h.modSpec.failInstance.ite h.beginAbort
    · exact h

protected theorem State.Canonical.retryFailed {m : Msg} (h : s.Canonical) : (s.retryFailed m).Canonical := by
  unfold State.retryFailed
  split
  · exact h.count.settled
  · exact h.count.failFor.replyTo
  · exact h.count.failFor.replyTo
  · exact h.count.failFor.replyTo
  · exact h.count.failFor.answer
  · exact h.count.failFor.answer
  · exact h.count.failFor.answer
  · exact h.count.failFor

protected theorem State.Canonical.recheck {m : Msg} {heap : Word × Word × Word} (h : s.Canonical) : ∀ {r t}, s.recheck m heap = .ok (r, t) → t.Canonical := by
  unfold State.recheck
  intro r t
  extract_lets usable full commit i
  have hfull {m s} (h : s.Canonical) : (full m s).2.Canonical := by
    unfold full
    split
    · exact Prod.canonical_ite h.reclaim h
    · exact h
  split
  · rintro ⟨⟩
    exact h
  · split
    · intro e
      exact (hfull h).snd (Except.ok.inj e)
    · have ht := h.translate (i := i) (kd := .store) (va := m.va) (n := m.size)
      generalize translate .. = p at ht ⊢
      split
      · intro e
        exact (hfull ht).snd (Except.ok.inj e)
      · rintro ⟨⟩
        exact ht
      · rintro ⟨⟩
        exact ht
      · nofun
      · rintro ⟨⟩
        exact ht

protected theorem State.Canonical.drainReplay {core : Nat} (h : s.Canonical) : (s.drainReplay core).Canonical := h.modCore

protected theorem State.Canonical.retryAll {core : Nat} {l : List Msg} {heap : Word × Word × Word} (h : s.Canonical) :
    ∀ {t}, State.retryAll core l s heap = .ok t → t.Canonical := by
  induction l generalizing s with
  | nil =>
    rintro _ ⟨⟩
    exact h.drainReplay
  | cons m l ih =>
    unfold State.retryAll
    intro _
    extract_lets rest
    split
    · nofun
    · have h := h.recheck ‹_›
      split
      · rintro ⟨⟩
        exact h
      · exact ih h.modCore.wakeHomes.reach
    · exact ih (h.recheck ‹_›).modCore.countStray.settled
    · exact ih (h.recheck ‹_›).modCore.retryFailed
    · rintro ⟨⟩
      exact h.recheck ‹_›

protected theorem State.Canonical.execReplayRetry {core k : Nat} (h : s.Canonical) : Keeps (execReplayRetry core k s) := by
  unfold execReplayRetry
  dsimp only
  split
  · exact h
  · refine .ite h ?_
    split
    · exact h.retryAll ‹_›
    · trivial

/-! What Machine/Messages keeps. -/

protected theorem State.Canonical.withCredit {tc : Nat} {k : State → Out} (h : s.Canonical) (hk : ∀ {t : State}, t.Canonical → Keeps (k t)) :
    Keeps (withCredit tc s k) := by
  unfold withCredit
  exact .ite (hk h) (.ite h.hold (hk h.modMyCore))

protected theorem State.Canonical.renegotiate {parks : Bool} (h : s.Canonical) : (s.renegotiate parks).Canonical := h.shrinkNow.modMe

protected theorem State.Canonical.execSend {o : FmtSend} (h : s.Canonical) : Keeps (execSend o s) := by
  unfold execSend
  refine h.plain fun h => h.ordered fun h => h.readSrc fun h => h.readSrc fun h => ?_
  split
  · exact h.trap
  · exact h.releasing fun h => .ite h.hold (h.withCredit fun h => h.post.complete)

protected theorem State.Canonical.execRecv {o : FmtUn} (h : s.Canonical) : Keeps (execRecv o s) := by
  unfold execRecv
  refine h.plain fun h => h.ordered fun h => h.withDst fun h => h.readSrc fun h => ?_
  dsimp only
  split
  · exact h.renegotiate.park
  · exact h.modMyCore.renegotiate.finish

protected theorem State.Canonical.execRprobe {o : FmtDst} (h : s.Canonical) : Keeps (execRprobe o s) := h.plain fun h => h.withDst fun h => h.finish

protected theorem State.Canonical.execMessageArrival {k : Nat} (h : s.Canonical) : Keeps (execMessageArrival k s) := by
  unfold execMessageArrival
  split
  · split
    · exact .ite h.wakeUnit (.ite h h.dropMsg.modCore.wakeUnit)
    · exact h
  · exact h

protected theorem State.Canonical.putTarget {op a : Word} {k : Addr → State → Out} (h : s.Canonical)
    (hk : ∀ {a} {t : State}, t.Canonical → Keeps (k a t)) : Keeps (putTarget op a s k) := by
  unfold putTarget
  split
  · exact h.trap
  · split
    · exact h.trap
    · exact hk h

protected theorem State.Canonical.putAligned {a : Word} {k : State → Out} (h : s.Canonical) (hk : ∀ {t : State}, t.Canonical → Keeps (k t)) :
    Keeps (putAligned a s k) := by
  unfold putAligned
  exact .ite h.trap (hk h)

protected theorem State.Canonical.execPut {o : FmtPut} (h : s.Canonical) : Keeps (execPut o s) := by
  unfold execPut
  refine h.plain fun h => h.ordered fun h => ?_
  dsimp only
  refine .ite h.hold ?_
  refine h.readSrc fun h => h.readSrc fun h => h.readSrc fun h => h.putTarget fun h => ?_
  split
  · refine h.putAligned fun h => ?_
    split
    · exact h.trap
    · exact h.trap
    · exact .ite h.hold (.ite h.holdOn (.ite h.hold (h.withCredit fun h => h.sendWrite fun h => h.addPend.complete)))
  · refine h.putTarget fun h => .ite h.trap ?_
    refine h.putAligned fun h => h.putAligned fun h => ?_
    split
    · exact h.trap
    · exact h.trap
    · exact .ite h.hold (.ite h.holdOn (.ite h.hold (h.withCredit fun h => h.sendWrite fun h => h.addPend.complete)))

protected theorem State.Canonical.execMput {o : FmtPut} (h : s.Canonical) : Keeps (execMput o s) := by
  unfold execMput
  refine h.plain fun h => h.ordered fun h => h.readSrc fun h => h.readSrc fun h => h.readSrc fun h => h.readRecord fun h => ?_
  extract_lets dest mask org cls cls1 first
  refine .ite h.complete (.ite h.hold (.ite h.trap (.ite h.trap (.ite h.trapFree ?_))))
  refine h.putTarget fun h => ?_
  extract_lets counter
  have hcounter {k : State → Out} (hk : ∀ {t}, State.Canonical t → Keeps (k t)) : Keeps (counter k) :=
    .ite (h.putAligned hk) (h.putTarget fun h => h.putAligned fun h => h.putAligned hk)
  exact hcounter fun h => .ite h.hold (h.withCredit fun h => h.post.addPend.complete)

protected theorem State.Canonical.execPutDelivery {k : Nat} (h : s.Canonical) : Keeps (execPutDelivery k s) := by
  unfold execPutDelivery
  split
  · split
    · exact .ite h h.wakeHomes.applyMsg
    · exact h
  · exact h

protected theorem State.Canonical.execMputVisit {k : Nat} (h : s.Canonical) : Keeps (execMputVisit k s) := by
  unfold execMputVisit
  split
  · split
    · refine .ite h ?_
      split
      · exact h.wakeHomes.putAt.dropMsg.answer
      · exact h.wakeHomes.putAt
    · exact h
  · exact h

protected theorem State.Canonical.wakeBar {core : Nat} {ws : List (StrandRef × Nat)} {v : Word} (h : s.Canonical) : (s.wakeBar core ws v).Canonical :=
  h.foldl fun h => h.ite (h.modStrand.ite h)

protected theorem State.Canonical.barApply {core k : Nat} {op : BarOp} {who : StrandRef} {uid : Nat} (h : s.Canonical) :
    (s.barApply core k op who uid).2.Canonical := by
  unfold State.barApply
  dsimp only
  split
  · exact h.modCore.wakeBar
  · exact h.modCore.wakeBar
  · exact h
  · split
    · exact h
    · exact h.modCore.wakeBar.ite h.modCore
  · split
    · exact h
    · split
      · exact h
      · exact h.modCore
  · split
    · exact h
    · split
      · split
        · exact h.modCore.wakeBar
        · split
          · exact h.modCore.wakeBar
          · exact h.modCore.wakeBar.modCore
      · split
        · exact h.modCore
        · split
          · exact h.modCore
          · exact h.modCore.modCore

protected theorem State.Canonical.barOp {a : Word} {op : BarOp} {d : Option Nat} {waits : Bool} (h : s.Canonical) : Keeps (barOp a op d waits s) := by
  unfold barOp
  dsimp only
  split
  · exact h.trap
  · split
    · split
      · split
        · exact ((h.barApply.snd ‹_›).renegotiate.ite (h.barApply.snd ‹_›)).deliverTo fun h => h.complete
        · exact ((h.barApply.snd ‹_›).renegotiate.ite (h.barApply.snd ‹_›)).complete
      · exact ((h.barApply.snd ‹_›).renegotiate.ite (h.barApply.snd ‹_›)).modMe.park
    · split
      · exact (h.post.renegotiate.ite h.post).awaitReply
      · exact h.post.complete

protected theorem State.Canonical.execBarInit {o : FmtTwo} (h : s.Canonical) : Keeps (execBarInit o s) := by
  unfold execBarInit
  exact h.plain fun h => h.ordered fun h => h.readSrc fun h => h.readSrc fun h => .ite h.trapFree h.barOp

protected theorem State.Canonical.execBarArrive {o : FmtUn} (h : s.Canonical) : Keeps (execBarArrive o s) := by
  unfold execBarArrive
  exact h.plain fun h => h.ordered fun h => h.withDst fun h => h.readSrc fun h => .ite h.trap (h.releasing fun h => h.barOp)

protected theorem State.Canonical.execBarWait {o : FmtA} (h : s.Canonical) : Keeps (execBarWait o s) :=
  h.plain fun h => h.ordered fun h => h.withDst fun h => h.two fun h => h.barOp

protected theorem State.Canonical.execBarArrwait {o : FmtUn} (h : s.Canonical) : Keeps (execBarArrwait o s) := by
  unfold execBarArrwait
  exact h.plain fun h => h.ordered fun h => h.withDst fun h => h.readSrc fun h => .ite h.trap (h.releasing fun h => h.barOp)

protected theorem State.Canonical.execBarInval {o : FmtSrc} (h : s.Canonical) : Keeps (execBarInval o s) :=
  h.plain fun h => h.ordered fun h => h.readSrc fun h => h.barOp

protected theorem State.Canonical.execBarQuery {o : FmtUn} (h : s.Canonical) : Keeps (execBarQuery o s) :=
  h.plain fun h => h.ordered fun h => h.withDst fun h => h.readSrc fun h => h.barOp

protected theorem State.Canonical.execRemoteBarOp {k : Nat} (h : s.Canonical) : Keeps (execRemoteBarOp k s) := by
  unfold execRemoteBarOp
  dsimp only
  split
  · split
    · refine .ite h.wakeUnit (.ite h ?_)
      split
      · exact (h.wakeUnit.dropMsg.modCore.barApply.snd ‹_›).ite (h.wakeUnit.dropMsg.modCore.barApply.snd ‹_›).replyTo
      · exact (h.wakeUnit.dropMsg.modCore.barApply.snd ‹_›).modIssuer
    · exact h
  · exact h

protected theorem State.Canonical.execTagwWaitany {o : FmtUn} (h : s.Canonical) : Keeps (execTagwWaitany o s) := by
  unfold execTagwWaitany
  refine h.plain fun h => h.withDst fun h => h.readSrc fun h => ?_
  exact .ite h.finish h.park

protected theorem State.Canonical.execTagwWaitall {o : FmtUn} (h : s.Canonical) : Keeps (execTagwWaitall o s) := by
  unfold execTagwWaitall
  exact h.plain fun h => h.withDst fun h => h.readSrc fun h => .ite h.finish h.park

protected theorem State.Canonical.execTagwFfr {o : FmtUn} (h : s.Canonical) : Keeps (execTagwFfr o s) :=
  h.plain fun h => h.withDst fun h => h.readSrc fun h => h.finish

protected theorem State.Canonical.execTagwClr {o : FmtSrc} (h : s.Canonical) : Keeps (execTagwClr o s) :=
  h.plain fun h => h.readSrc fun h => h.modMyCore.complete

protected theorem State.Canonical.execSpawn {o : FmtA} (h : s.Canonical) : Keeps (execSpawn o s) := by
  unfold execSpawn
  refine h.plain fun h => h.ordered fun h => h.withDst fun h => h.two fun h => .ite h.trap ?_
  split
  · exact h.trap
  · exact h.readRecord fun h => h.toTarget fun h => h.releasing fun h => h.post.awaitReply

protected theorem State.Canonical.execSpawnRequest {k : Nat} (h : s.Canonical) : Keeps (execSpawnRequest k s) := by
  unfold execSpawnRequest
  dsimp only
  split
  · split
    · split
      · exact h.wakeUnit
      · split
        · exact h
        · refine .ite h.dropMsg.replyTo (.ite h ?_)
          split
          · exact h
          · split
            · exact h
            · split
              · exact h.dropMsg.replyTo
              · exact h.dropMsg.enter.wakeUnit.replyTo
    · exact h
  · exact h

protected theorem State.Canonical.modQueue {sag q : Nat} {f : TaskQueue → TaskQueue} (h : s.Canonical) : (s.modQueue sag q f).Canonical := h.modSag

protected theorem State.Canonical.serveRing {n sag q : Nat} (h : s.Canonical) : (State.serveRing n s sag q).Canonical := by
  induction n generalizing s with
  | zero => exact h
  | succ n ih =>
    unfold State.serveRing
    split
    · split
      · exact ih h.modQueue.give
      · exact h
    · exact h

protected theorem State.Canonical.execQpush {o : FmtA} (h : s.Canonical) : Keeps (execQpush o s) := by
  unfold execQpush
  refine h.plain fun h => h.ordered fun h => h.withDst fun h => h.two fun h => ?_
  split
  · exact h.trapFree
  · refine h.readRecord fun h => h.releasing fun h => .ite h.finish (.ite h.hold (.ite h.modQueue.serveRing.finish ?_))
    split <;> exact h.modQueue.finish

protected theorem State.Canonical.popRing {nb : Bool} {n : Nat} {a : Word} {k : Nat → List Word → State → Out} (h : s.Canonical)
    (hk : ∀ {a b} {t : State}, t.Canonical → Keeps (k a b t)) : Keeps (popRing nb n a s k) := by
  unfold popRing
  split
  · split
    · exact hk h
    · exact h
  · split
    · exact h.trapFree
    · refine .ite h.hold ?_
      split
      · exact hk h.modQueue
      · split
        · exact hk h.modQueue
        · exact h.modQueue.modQueue.modMe.park

protected theorem State.Canonical.qpopForm {nb : Bool} {o : FmtUn} (h : s.Canonical) : Keeps (qpopForm nb o s) := by
  unfold qpopForm
  exact h.plain fun h => h.ordered fun h => .ite h.hold (h.readSrc fun h => h.popRing fun h => h.modMe.complete)

protected theorem State.Canonical.qpopvForm {nb : Bool} {o : FmtA} (h : s.Canonical) : Keeps (qpopvForm nb o s) := by
  unfold qpopvForm
  exact h.plain fun h => h.ordered fun h => .ite h.trapFree (.ite h.hold (h.withDst fun h => h.two fun h => h.popRing fun h => h.modMe.finish))

protected theorem State.Canonical.execQueueRefill {sag q : Nat} (h : s.Canonical) : Keeps (execQueueRefill sag q s) := by
  unfold execQueueRefill
  split
  · split
    · exact .ite h.modQueue.serveRing h
    · exact h
  · exact h

protected theorem State.Canonical.signalAccess {kd : Acc} {a : Word} {k : Place → State → Out} (h : s.Canonical)
    (hk : ∀ {a} {t : State}, t.Canonical → Keeps (k a t)) : Keeps (signalAccess kd a s k) := by
  unfold signalAccess
  exact .ite h.trap (h.accessBy (fun h => h.hold) hk)

protected theorem State.Canonical.execSignal {o : FmtTwo} (h : s.Canonical) : Keeps (execSignal o s) := by
  unfold execSignal
  refine h.plain fun h => h.ordered fun h => .ite h.hold ?_
  exact h.readSrc fun h => h.readSrc fun h => h.signalAccess fun h => h.releasing fun h => .ite h.hold (h.sendWrite fun h => h.addPend.complete)

protected theorem State.Canonical.execSwait {o : FmtA} (h : s.Canonical) : Keeps (execSwait o s) := by
  unfold execSwait
  exact h.plain fun h => h.ordered fun h => h.withDst fun h => h.two fun h => h.signalAccess fun h => .ite h.holdOn (.ite h.hold h.post.awaitReply)

/-! What Machine/Tables keeps. -/

protected theorem State.Canonical.logEdit {sag va len comp kind stall : Nat} (h : s.Canonical) : (s.logEdit sag va len comp kind stall).Canonical := h
protected theorem State.Canonical.someCompositor (h : s.Canonical) : s.someCompositor.2.Canonical := h.draw
protected theorem State.Canonical.log {en : Edit} {bits stall : Nat} (h : s.Canonical) : (en.log bits stall s).Canonical := h.logEdit

protected theorem State.Canonical.setPte {loc : Nat} {v : Word} (h : s.Canonical) : (s.setPte loc v).Canonical :=
  (canonical_countDrop _ h).ite (canonical_clearPoison _ _ (canonical_setDword _ _ h.wakeHome))

protected theorem State.Canonical.pointerAt {en : Edit} {bits loc : Nat} {frames : List Nat} (h : s.Canonical) :
    ∀ {x t y}, s.pointerAt en bits loc frames = some (x, t, y) → t.Canonical := by
  unfold State.pointerAt
  intro _ _ _
  dsimp only
  split
  · rintro ⟨⟩
    exact h
  · split
    · nofun
    · split
      · rintro ⟨⟩
        exact h.setPte.log
      · nofun

protected theorem State.Canonical.writeLeaf {en : Edit} {root bits stall : Nat} {leaf : Word} {frames : List Nat} (h : s.Canonical) :
    ∀ {t x}, s.writeLeaf en root bits stall leaf frames = some (t, x) → t.Canonical := by
  unfold State.writeLeaf
  intro _ _
  split
  · nofun
  · have h := h.pointerAt ‹_›
    split
    · nofun
    · have h := h.pointerAt ‹_›
      extract_lets l3 first
      split
      · rintro ⟨⟩
        exact h.setPte.log
      · split
        · nofun
        · have h := h.pointerAt ‹_›
          split
          · rintro ⟨⟩
            exact (State.Canonical.foldl h fun h => h.setPte).log
          · rintro ⟨⟩
            exact h.setPte.log

protected theorem State.Canonical.setLeaf {en : Edit} {stall : Nat} {f : Word → Word} (h : s.Canonical) : (s.setLeaf en stall f).Canonical := by
  unfold State.setLeaf
  split
  · split
    · exact h.writeLeaf ‹_›
    · exact h
  · exact h

protected theorem State.Canonical.tlbInvalidate {sag lo hi : Nat} (h : s.Canonical) : (s.tlbInvalidate sag lo hi).Canonical := h
protected theorem State.Canonical.invalidate {sag lo n comp : Nat} (h : s.Canonical) : (s.invalidate sag lo n comp).Canonical := h.tlbInvalidate.logEdit

protected theorem State.Canonical.execPageTableEdit {comp sag : Nat} {p : PageRec} (h : s.Canonical) : Keeps (execPageTableEdit comp sag p s) := by
  unfold execPageTableEdit
  split
  · split
    · refine .ite h ?_
      split
      · exact (h.writeLeaf ‹_›).modSag
      · exact h
    · split
      · refine .ite h ?_
        split
        · exact (h.writeLeaf ‹_›).modSag
        · exact h
      · refine .ite h ?_
        split
        · exact (h.writeLeaf ‹_›).modSag
        · exact h
  · exact h

protected theorem State.Canonical.dirtyTlbs {sag va : Nat} (h : s.Canonical) : (s.dirtyTlbs sag va).Canonical := h

protected theorem State.Canonical.execDirtyLogService {comp sag va : Nat} (h : s.Canonical) : Keeps (execDirtyLogService comp sag va s) := by
  unfold execDirtyLogService
  split
  · exact .ite h.setLeaf.dirtyTlbs h
  · exact h

protected theorem State.Canonical.execPageMove {comp sag va part frame : Nat} (h : s.Canonical) : Keeps (execPageMove comp sag va part frame s) := by
  unfold execPageMove
  split
  · refine .ite h ?_
    split
    · exact .ite h h.setLeaf.invalidate.modSag
    · exact .ite h (canonical_copyFrame _ _ _ _ h).modSag
    · exact .ite h h.setLeaf.invalidate.modSag
    · exact h.setLeaf.modSag
    · exact h
  · exact h

protected theorem State.Canonical.stallTick {c cycles : Nat} (h : s.Canonical) : (s.stallTick c cycles).Canonical := h

protected theorem State.Canonical.outsideWrite {loc : Nat} {bs : List Byte} (h : s.Canonical) : (s.outsideWrite loc bs).Canonical := by
  unfold State.outsideWrite
  split
  · exact (canonical_clearPoison _ _ (canonical_setBytes _ _ h)).changed
  · exact (canonical_countDrop _ (canonical_clearPoison _ _ (h.foldl fun h => h.ite (canonical_setByte _ _ h)))).changed

protected theorem State.Canonical.residePage {sag va : Nat} {m : List MigrateRec} (h : s.Canonical) :
    ∀ {t}, s.residePage sag va m = some t → t.Canonical := by
  unfold State.residePage
  intro _
  dsimp only
  split
  · nofun
  · split
    · split
      · rintro ⟨⟩
        exact h
      · nofun
    · split
      · nofun
      · split
        · nofun
        · split
          · rintro ⟨⟩
            exact h
          · split
            · nofun
            · split
              · nofun
              · rintro ⟨⟩
                exact (canonical_copyFrame _ _ _ _ h.someCompositor).setLeaf.invalidate

protected theorem State.Canonical.resideAll {sag : Nat} {m : List MigrateRec} {l : List Nat} (h : s.Canonical) :
    ∀ {t}, State.resideAll sag m l s = some t → t.Canonical := by
  induction l generalizing s with
  | nil =>
    rintro _ ⟨⟩
    exact h
  | cons va l ih =>
    unfold State.resideAll
    intro _
    split
    · exact ih (h.residePage ‹_›)
    · nofun

/-! What Machine/Fabric keeps. -/

protected theorem State.Canonical.wakeStacks {loc n : Nat} (h : s.Canonical) : (s.wakeStacks loc n).Canonical := h.foldl fun h => h.modDie.ite h

protected theorem State.Canonical.execHostPortAccess {hm : HostAccess} (h : s.Canonical) : Keeps (execHostPortAccess hm s) := by
  unfold execHostPortAccess
  dsimp only
  refine .ite (h.ite h) ?_
  split
  · split
    · exact .ite h h.wakeStacks.outsideWrite
    · split
      · exact h
      · exact canonical_meet _ _ h.wakeStacks
  · split
    · exact (canonical_setBytes _ _ h).changed
    · exact h

protected theorem State.Canonical.modPeer {port peer : Nat} {f : Peer → Peer} (h : s.Canonical) : (s.modPeer port peer f).Canonical := h

protected theorem State.Canonical.serveMsg {p : Peer} {m : FabricMsg} (h : s.Canonical) : (s.serveMsg p m).Canonical := by
  unfold State.serveMsg
  split
  · exact h.wakeStacks.outsideWrite
  · exact (canonical_meet _ _ h.wakeStacks).modPeer

protected theorem State.Canonical.acceptMsg {p : Peer} {m : FabricMsg} (h : s.Canonical) : (s.acceptMsg p m).Canonical :=
  h.modPeer.serveMsg.ite ((canonical_countDrop _ h.modPeer).ite h.modPeer)

protected theorem State.Canonical.acceptHeld {port peer n : Nat} (h : s.Canonical) : (State.acceptHeld port peer n s).Canonical := by
  induction n generalizing s with
  | zero => exact h
  | succ n ih =>
    unfold State.acceptHeld
    split
    · split
      · exact .ite h (ih h.modPeer.acceptMsg)
      · exact h
    · exact h

protected theorem State.Canonical.execFabricMessageReceive {m : FabricMsg} (h : s.Canonical) : Keeps (execFabricMessageReceive m s) := by
  unfold execFabricMessageReceive
  dsimp only
  split
  · exact h
  · split
    · exact h.acceptMsg.acceptHeld
    · split
      · exact .ite h h.modPeer
      · exact h.modPeer

protected theorem State.Canonical.accessDone {id : Nat} {ok : Bool} (h : s.Canonical) : (s.accessDone id ok).Canonical := by
  unfold State.accessDone
  split
  · exact (h.same (by rfl)).perform.ite (h.same (by rfl)).failMsg
  · exact h

protected theorem State.Canonical.tell {port peer : Nat} (h : s.Canonical) : (s.tell port peer).Canonical := h.modPeer

protected theorem State.Canonical.execFabricAck {port peer seq : Nat} (h : s.Canonical) : Keeps (execFabricAck port peer seq s) := by
  unfold execFabricAck
  split
  · split
    · exact h
    · split
      · exact (canonical_setBytes _ _ h.modPeer).changed.ite h.modPeer.tell
      · exact h.modPeer.accessDone
  · exact h

protected theorem State.Canonical.execLinkUp {link port peer : Nat} (h : s.Canonical) : Keeps (execLinkUp link port peer s) := by
  unfold execLinkUp
  dsimp only
  refine .ite h ?_
  split
  · exact (h.same (by rfl)).modPeer
  · exact h

protected theorem State.Canonical.failPeer {p : Peer} (h : s.Canonical) : (s.failPeer p).Canonical := ((h.same (by rfl)).foldl fun h => h.failMsg).modPeer

protected theorem State.Canonical.execLinkFailure {link : Nat} (h : s.Canonical) : Keeps (execLinkFailure link s) := by
  unfold execLinkFailure
  exact .ite h ((h.same (by rfl)).foldl fun h => h.failPeer)

protected theorem State.Canonical.execPeerChannelRetire {comp sag port peer : Nat} {pages : List Nat} (h : s.Canonical) :
    Keeps (execPeerChannelRetire comp sag port peer pages s) := by
  unfold execPeerChannelRetire
  split
  · exact .ite h (.ite (h.foldl fun h => h.setLeaf.invalidate.modSag) (.ite h h.modPeer))
  · exact h

/-! What Machine/Boot keeps. -/

protected theorem State.Canonical.execDeviceReset (h : s.Canonical) : Keeps (execDeviceReset s) := by
  obtain ⟨t, e, ht⟩ := canonical_deviceReset h
  rw [e]
  exact ht

protected theorem State.Canonical.unitsUp {b : BootRec} (h : s.Canonical) : (s.unitsUp b).Canonical := h

protected theorem State.Canonical.runStage1 {b : BootRec} {source : Nat} {image : Option FirmImage} (h : s.Canonical) :
    (s.runStage1 b source image).Canonical :=
  h

protected theorem State.Canonical.romTries {b : BootRec} (h : s.Canonical) : (s.romTries b).Canonical := h.runStage1.ite (h.runStage1.ite h)
protected theorem State.Canonical.stage2Failed (h : s.Canonical) : s.stage2Failed.Canonical := (h.same (by rfl)).ite (h.same (by rfl))

protected theorem State.Canonical.execBootStage2 {kr : List Nat} {reporting : BitVec 8} (h : s.Canonical) : Keeps (execBootStage2 kr reporting s) := by
  unfold execBootStage2
  exact .ite h (.ite h.stage2Failed h)

protected theorem State.Canonical.execCompositorReportTimeout {c : Nat} (h : s.Canonical) : Keeps (execCompositorReportTimeout c s) := by
  unfold execCompositorReportTimeout
  split <;> exact h

protected theorem State.Canonical.execSpdmMeasurement (h : s.Canonical) : Keeps (execSpdmMeasurement s) := by
  unfold execSpdmMeasurement
  split <;> exact h

protected theorem State.Canonical.execKeyLoad {id : Nat} {key : BitVec 512} (h : s.Canonical) : Keeps (execKeyLoad id key s) := by
  unfold execKeyLoad
  split <;> exact h

protected theorem State.Canonical.serveFenced (h : s.Canonical) : s.serveFenced.Canonical := by
  unfold State.serveFenced
  refine (h.same (by rfl)).foldl fun h => ?_
  split
  · exact h.swaitArrive
  · exact h.serveFe

protected theorem State.Canonical.execRepairTableReload {stack pch : Nat} {shadow : Bool} (h : s.Canonical) :
    Keeps (execRepairTableReload stack pch shadow s) := by
  unfold execRepairTableReload
  exact .ite h (((h.same (by rfl)).ite (h.same (by rfl)).serveFenced).foldl fun h => h.acceptHeld)

/-! What Machine/Clocks keeps. -/

protected theorem State.Canonical.startStep {die n t : Nat} (h : s.Canonical) : (s.startStep die n t).Canonical := h.modDie

protected theorem State.Canonical.execFrequencyStep {die mult : Nat} (h : s.Canonical) : Keeps (execFrequencyStep die mult s) := by
  unfold execFrequencyStep
  exact .ite h (.ite h (.ite h.modDie (.ite h h.startStep)))

protected theorem State.Canonical.enterDeepest {die : Nat} (h : s.Canonical) : (s.enterDeepest die).Canonical := by
  unfold State.enterDeepest
  split
  · exact h.modDie
  · exact h

protected theorem State.Canonical.stopAfterRelock {die : Nat} (h : s.Canonical) : (s.stopAfterRelock die).Canonical :=
  (h.foldl fun h => h.backOffAll.ite h).foldl fun h => h.foldl fun h => (h.foldl fun h => h.stopForAbort).ite h

protected theorem State.Canonical.execRelockEnd {die : Nat} (h : s.Canonical) : Keeps (execRelockEnd die s) := by
  unfold execRelockEnd
  dsimp only
  split
  · refine .ite h ?_
    split
    · exact (h.modDie.stopAfterRelock.modDie.enterDeepest.ite h.modDie.stopAfterRelock).ite h.modDie.stopAfterRelock.startStep
    · exact h.modDie.stopAfterRelock.modDie.enterDeepest.ite h.modDie.stopAfterRelock
  · exact h

protected theorem State.Canonical.execPowerStateEntry {unit : Nat} {isCore : Bool} (h : s.Canonical) : Keeps (execPowerStateEntry unit isCore s) := by
  unfold execPowerStateEntry
  exact .ite (.ite h.modCore h) (.ite h (.ite h.modDie h.enterDeepest))

protected theorem State.Canonical.execPowerStateExit {unit : Nat} {isCore : Bool} (h : s.Canonical) : Keeps (execPowerStateExit unit isCore s) := by
  unfold execPowerStateExit
  exact .ite h.modCore h.modDie

protected theorem State.Canonical.execClass3CreditRefill (h : s.Canonical) : Keeps (execClass3CreditRefill s) := by
  unfold execClass3CreditRefill
  split <;> exact h

/-! What Machine/Contexts keeps. -/

protected theorem State.Canonical.giveTag {sag t parent phase index : Nat} {spec : Option SpecRef} (h : s.Canonical) :
    (s.giveTag sag t parent phase index spec).Canonical :=
  (h.same (by rfl)).modSag

protected theorem State.Canonical.withSag {k : Saggar → Out} (h : s.Canonical) (hk : ∀ {a}, Keeps (k a)) : Keeps (withSag s k) := by
  unfold withSag
  split
  · exact hk
  · exact h

protected theorem State.Canonical.ctallocForm {nb : Bool} {o : FmtA} (h : s.Canonical) : Keeps (ctallocForm nb o s) := by
  unfold ctallocForm
  refine h.plain fun h => h.withDst fun h => h.two fun h => h.withSag fun {g} => .ite h.trap (.ite h.trap (.ite h.trap ?_))
  split
  · exact h.giveTag.finish
  · exact .ite h.finish h.modSag.modMe.park

protected theorem State.Canonical.execCtenter {o : FmtSrc} (h : s.Canonical) : Keeps (execCtenter o s) := by
  unfold execCtenter
  exact h.plain fun h => h.readSrc fun h => h.withSag fun {g} => .ite h.trapFree (.ite h.trap h.modMe.complete)

/-- A property of what a recursion over a list gives, where the equations of the recursion cannot be used. -/
theorem brecOn_induction {α β : Type} {Q : β → Prop} {F : (l : List α) → List.below (motive := fun _ => β) l → β} (hnil : ∀ b, Q (F [] b))
    (hcons : ∀ e t (b : List.below (motive := fun _ => β) (e :: t)), Q b.1 → Q (F (e :: t) b)) (l : List α) : Q (List.brecOn (motive := fun _ => β) l F) := by
  induction l with
  | nil => exact hnil _
  | cons e t ih => exact hcons e t _ ih

/-- f, as `commitPlaces` reads its places, keeps the canonical form. -/
def PlacesKeep (f : State → Except Fault (Option (List (Nat × Option Nat × Byte)) × State)) : Prop :=
  ∀ s, s.Canonical → ∀ r t, f s = .ok (r, t) → t.Canonical

/-- The equations of `commitPlaces` are out of the kernel's reach, which would evaluate `translate` to compare them: the translation is
made a variable first. -/
theorem placesKeep_commitPlaces {i : Issuer} {parent : Nat} {l : List (Nat × Byte)} : PlacesKeep (State.commitPlaces i parent l) := by
  have hT {s i kd va n} (h : s.Canonical) : (translate s i kd va n).2.Canonical := h.translate
  delta State.commitPlaces State.commitPlaces._f
  generalize translate = T at hT
  revert T
  refine id fun T hT => brecOn_induction (Q := PlacesKeep) ?_ ?_ l
  · rintro _ _ h _ _ ⟨⟩
    exact h
  · intro e l b ih s h r t
    have step {x s} (h : s.Canonical) : (match b.1 s with | .ok (some l, s) => .ok (some (x :: l), s) | r => r) = Except.ok (r, t) → t.Canonical := by
      split
      · rintro ⟨⟩
        exact ih _ h _ _ ‹_›
      · exact ih _ h _ _
    dsimp only
    split
    · exact step h
    · split
      · exact step h
      · split
        · exact step ((hT h).snd ‹_›)
        · rintro ⟨⟩
          exact (hT h).snd ‹_›
        · rintro ⟨⟩
          exact (hT h).snd ‹_›
        · nofun
        · exact step ((hT h).snd ‹_›)

protected theorem State.Canonical.commitPlaces {i : Issuer} {parent : Nat} {l : List (Nat × Byte)} (h : s.Canonical) :
    ∀ {r t}, State.commitPlaces i parent l s = .ok (r, t) → t.Canonical :=
  placesKeep_commitPlaces _ h _ _

protected theorem State.Canonical.commitPost {c : Committer} {op src parent : Nat} {b : Nat × Option Nat × Byte} (h : s.Canonical) :
    (State.commitPost c op src parent s b).Canonical := by
  unfold State.commitPost
  split
  · exact h
  · exact h.count

protected theorem State.Canonical.commitCtx {c : Committer} {src : Nat} (h : s.Canonical) : ∀ {x t}, s.commitCtx c src = .ok (x, t) → t.Canonical := by
  unfold State.commitCtx
  intro _ _
  dsimp only
  split
  · rintro ⟨⟩
    exact h
  · split
    · nofun
    · rintro ⟨⟩
      exact h.commitPlaces ‹_›
    · rintro ⟨⟩
      exact ((h.commitPlaces ‹_›).modSag.foldl fun h => h.commitPost).freeTag

protected theorem State.Canonical.retireChecks {a : Word} {k : Nat → Ctx → State → Out} (h : s.Canonical)
    (hk : ∀ {a b} {t : State}, t.Canonical → Keeps (k a b t)) : Keeps (retireChecks a s k) := by
  unfold retireChecks
  refine h.withSag fun {g} => ?_
  extract_lets t
  split
  · exact .ite h.trap (hk h)
  · exact h.trap

protected theorem State.Canonical.retireRoles {t : Nat} {x : Ctx} {k : State → Out} (h : s.Canonical)
    (hk : ∀ {t : State}, t.Canonical → Keeps (k t)) : Keeps (retireRoles t x s k) := by
  unfold retireRoles
  exact h.withSag fun {g} => .ite h.trap (.ite h.trap (hk h))

protected theorem State.Canonical.execCtretireCommit {o : FmtSrc} (h : s.Canonical) : Keeps (execCtretireCommit o s) := by
  unfold execCtretireCommit
  refine h.plain fun h => ?_
  dsimp only
  refine .ite (.ite h.hold h.complete) ?_
  refine h.readSrc fun h => h.retireChecks fun h => .ite h.trap ?_
  refine h.retireRoles fun h => h.releasing fun h => .ite h.modSag.modMe.complete ?_
  split
  · trivial
  · exact (h.commitCtx ‹_›).hold
  · split
    · exact (h.commitCtx ‹_›).modMe.modMe.hold
    · exact (h.commitCtx ‹_›).modMe.complete

protected theorem State.Canonical.execCtretireDiscard {o : FmtSrc} (h : s.Canonical) : Keeps (execCtretireDiscard o s) :=
  h.plain fun h => h.readSrc fun h => h.retireChecks fun h => h.retireRoles fun h => (h.modSag.modMyCore.foldl fun h => h.settled).modMe.complete

protected theorem State.Canonical.phaseStep {d : Code} {n parent : Nat} {l : List Nat} (h : s.Canonical) : Keeps (phaseStep d n parent l s) := by
  induction l generalizing s with
  | nil =>
    unfold phaseStep
    exact .ite h.modMe.hold h.finish
  | cons t l ih =>
    unfold phaseStep
    refine .ite h.modMe.hold ?_
    split
    · trivial
    · exact (h.commitCtx ‹_›).modMe.hold
    · exact ih (h.commitCtx ‹_›).modMe

protected theorem State.Canonical.phaseOn {sag : Nat} {p : PhaseRun} (h : s.Canonical) : ∀ {t}, State.phaseOn sag p s = .ok t → t.Canonical := by
  unfold State.phaseOn
  intro _
  split
  · rintro ⟨⟩
    exact h
  · split
    · rintro ⟨⟩
      exact h.modSag
    · split
      · nofun
      · rintro ⟨⟩
        exact h.commitCtx ‹_›
      · rintro ⟨⟩
        exact (h.commitCtx ‹_›).modSag

protected theorem State.Canonical.phasesOn {sag : Nat} {l : List PhaseRun} (h : s.Canonical) : ∀ {t}, State.phasesOn sag l s = .ok t → t.Canonical := by
  induction l generalizing s with
  | nil =>
    rintro _ ⟨⟩
    exact h
  | cons p l ih =>
    unfold State.phasesOn
    intro _
    split
    · exact ih (h.phaseOn ‹_›)
    · nofun

protected theorem State.Canonical.grantTag {sag : Nat} (h : s.Canonical) : (s.grantTag sag).Canonical := by
  unfold State.grantTag
  split
  · split
    · exact h.modSag.ite h.modSag.giveTag.give
    · exact h.giveTag.modSag.modSpec
    · exact h
  · exact h

protected theorem State.Canonical.execTagGrant {sag : Nat} (h : s.Canonical) : Keeps (execTagGrant sag s) := by
  unfold execTagGrant
  split
  · split
    · exact (h.phasesOn ‹_›).grantTag
    · trivial
  · exact h

protected theorem State.Canonical.execCtphase {o : FmtA} (h : s.Canonical) : Keeps (execCtphase o s) := by
  unfold execCtphase
  refine h.plain fun h => .ite h.phaseStep ?_
  exact h.withDst fun h => h.two fun h => h.withSag fun {g} => .ite h.trap (.ite h.trap (.ite h.hold (h.releasing fun h => h.modSag.modMe.phaseStep)))

protected theorem State.Canonical.execCtq {o : FmtA} (h : s.Canonical) : Keeps (execCtq o s) := by
  unfold execCtq
  refine h.plain fun h => h.withDst fun h => h.two fun h => h.withSag ?_
  split
  · exact h.finish
  · exact h.finish
  · exact h.finish
  · exact h.finish
  · exact h.finish
  · exact h.finish
  · exact h.finish
  · exact h.trap

/-! What Machine/Engines keeps. -/

protected theorem State.Canonical.placeJob {p : JobPlan} {st : JobState} (h : s.Canonical) : (s.placeJob p st).Canonical :=
  (h.same (by rfl)).modMyCore.modCluster

protected theorem State.Canonical.leaveQueue (h : s.Canonical) : s.leaveQueue.Canonical := h.modCluster

protected theorem State.Canonical.place {d : Code} {ps : List JobPlan} {debit : Nat} (h : s.Canonical) : Keeps (place d ps debit s) := by
  unfold place
  dsimp only
  split
  · exact h.leaveQueue.trap
  · split
    · refine .ite h.modMe.tick.leaveQueue.hold ?_
      split
      · refine State.Canonical.finish ?_
        refine State.Canonical.consume ?_
        split
        · exact h.modMe.tick.modCluster.leaveQueue.modCluster.modMyCore
        · exact h.modMe.tick.modCluster.leaveQueue.modCluster.modMyCore.placeJob.foldl fun h => h.placeJob
      · exact h.modMe.tick.modCluster.hold
    · refine .ite h.leaveQueue.hold ?_
      split
      · refine State.Canonical.finish ?_
        refine State.Canonical.consume ?_
        split
        · exact h.modCluster.leaveQueue.modCluster.modMyCore
        · exact h.modCluster.leaveQueue.modCluster.modMyCore.placeJob.foldl fun h => h.placeJob
      · exact h.modCluster.hold

protected theorem State.Canonical.engineOps {takes codes : Bool} {o : FmtA} {k : Word → Word → Word → State → Out} (h : s.Canonical)
    (hk : ∀ {a b c} {t : State}, t.Canonical → Keeps (k a b c t)) : Keeps (engineOps takes codes o s k) := by
  unfold engineOps
  exact h.checked fun h => h.ordered fun h => h.withDst fun h => h.two fun h => .ite (h.readScale hk) (hk h)

protected theorem State.Canonical.limits {a : Word} {l : Option Nat} {k : State → Out} (h : s.Canonical)
    (hk : ∀ {t : State}, t.Canonical → Keeps (k t)) : Keeps (limits a l s k) := by
  unfold limits
  split
  · exact h.trap
  · exact hk h

protected theorem State.Canonical.planMatrix {k : JobKind} {ow : Bool} {cls tag : Nat} {sc a : Word} {r : List Word}
    {go : JobPlan → Nat → State → Out} (h : s.Canonical) (hk : ∀ {a b} {t : State}, t.Canonical → Keeps (go a b t)) :
    Keeps (planMatrix k ow cls tag sc a r s go) := by
  unfold planMatrix
  refine h.limits fun h => ?_
  split
  · split <;> exact .ite h.leaveQueue.trap (.ite h.leaveQueue.trap (hk h))
  · exact .ite h.leaveQueue.trap (.ite h.leaveQueue.trap (hk h))

protected theorem State.Canonical.matrixForm {k : JobKind} {ow : Bool} {cls : Nat} {o : FmtA} (h : s.Canonical) : Keeps (matrixForm k ow cls o s) :=
  h.engineOps fun h => h.readRecord fun h => h.planMatrix fun h => h.place

protected theorem State.Canonical.execMmsw {o : FmtA} (h : s.Canonical) : Keeps (execMmsw o s) := by
  unfold execMmsw
  refine h.engineOps fun h => ?_
  exact .ite h.leaveQueue.trap h.place

protected theorem State.Canonical.copyForm {fo : Bool} {o : FmtCopy} (h : s.Canonical) : Keeps (copyForm fo o s) := by
  unfold copyForm
  refine h.engineOps fun h => h.readRecord fun h => h.limits fun h => ?_
  exact .ite h.place (h.readRecord fun h => h.planMatrix fun h => h.place)

protected theorem State.Canonical.execEnginePlacement {r : StrandRef} (h : s.Canonical) : Keeps (execEnginePlacement r s) := by
  unfold execEnginePlacement
  dsimp only
  split
  · split
    · exact (h.same (by rfl)).copyForm
    · exact (h.same (by rfl)).copyForm
    · exact (h.same (by rfl)).matrixForm
    · exact (h.same (by rfl)).execMmsw
    · exact (h.same (by rfl)).matrixForm
    · exact (h.same (by rfl)).matrixForm
    · exact (h.same (by rfl)).engineOps fun h => h.readRecord fun h => h.limits fun h => h.place
    · exact (h.same (by rfl)).engineOps fun h => h.readRecord fun h => h.limits fun h => h.place
    · exact h
  · exact h

protected theorem State.Canonical.execEbudRefill (h : s.Canonical) : Keeps (execEbudRefill s) := by
  unfold execEbudRefill
  split <;> exact h

protected theorem State.Canonical.execJwaitPoll {o : FmtUn} (h : s.Canonical) : Keeps (execJwaitPoll o s) := by
  unfold execJwaitPoll
  exact h.plain fun h => h.withDst fun h => h.readSrc fun h => .ite h.trap h.finish

protected theorem State.Canonical.execJwaitSleep {o : FmtUn} (h : s.Canonical) : Keeps (execJwaitSleep o s) := by
  unfold execJwaitSleep
  refine h.plain fun h => h.withDst fun h => h.readSrc fun h => ?_
  exact .ite h.trap (.ite h.park h.finish)

protected theorem State.Canonical.execJwaitAny {o : FmtA} (h : s.Canonical) : Keeps (execJwaitAny o s) := by
  unfold execJwaitAny
  refine h.plain fun h => h.withDst fun h => h.two fun h => ?_
  dsimp only
  split
  · exact h.trap
  · refine .ite h.trap (.ite h.trap (.ite h.trap ?_))
    split
    · exact h.finish
    · exact h.park

/-! What Machine/Waiting keeps. -/

protected theorem State.Canonical.execStrandWake {r : StrandRef} (h : s.Canonical) : Keeps (execStrandWake r s) := by
  unfold execStrandWake
  dsimp only
  split
  · exact .ite h.modStrand h
  · exact h

/-! What Machine/Debug keeps. -/

protected theorem State.Canonical.execSysopTlbinv {o : FmtTwo} (h : s.Canonical) : Keeps (execSysopTlbinv o s) :=
  h.checked fun h => h.readSrc fun h => h.readSrc fun h => (h.tlbInvalidate.ite h.tlbInvalidate).logEdit.complete

protected theorem State.Canonical.execSysopStopcore {o : FmtUn} (h : s.Canonical) : Keeps (execSysopStopcore o s) := by
  unfold execSysopStopcore
  refine h.checked fun h => ?_
  refine .ite (.ite h.finish h.hold) ?_
  refine h.withDst fun h => h.readSrc fun h => ?_
  split
  · exact h.finish
  · exact .ite h.finish (.ite h.finish (.ite h.stopCore.finish h.stopCore.modMe.hold))

protected theorem State.Canonical.execSysopResumecore {o : FmtUn} (h : s.Canonical) : Keeps (execSysopResumecore o s) := by
  unfold execSysopResumecore
  refine h.checked fun h => h.withDst fun h => h.readSrc fun h => ?_
  split
  · exact h.finish
  · exact .ite h.resumeCore.finish h.finish

protected theorem State.Canonical.execRegisterWrite {reg unit : Nat} {w : Word} (h : s.Canonical) : Keeps (execRegisterWrite reg unit w s) := by
  unfold execRegisterWrite
  refine .ite h ?_
  split
  · exact h.modCore.stopCore.ite h.modCore.resumeCore
  · exact h.modCore
  · exact h

protected theorem State.Canonical.storePlaces {l : List (Nat × Word)} {a : Word} {acc : List (Place × Nat × Body)}
    {k : List (Place × Nat × Body) → State → Out} (h : s.Canonical) (hk : ∀ {ws} {t : State}, t.Canonical → Keeps (k ws t)) :
    Keeps (storePlaces l a acc s k) := by
  induction l generalizing acc s with
  | nil => exact hk h
  | cons e l ih => exact h.accessBy (fun h => h.hold) fun h => ih h

protected theorem State.Canonical.execSysopDump {o : FmtA} (h : s.Canonical) : Keeps (execSysopDump o s) := by
  unfold execSysopDump
  refine h.checked fun h => ?_
  refine .ite (h.releasing fun h => h.finish) ?_
  refine h.ordered fun h => h.withDst fun h => h.two fun h => ?_
  split
  · exact h.finish
  · split
    · exact h.finish
    · exact h.releasing fun h => .ite h.trap (h.storePlaces fun h => h.sendAll fun h => h.modMe.hold)

protected theorem State.Canonical.latchPulse (h : s.Canonical) : s.latchPulse.Canonical := by
  unfold State.latchPulse
  split
  · exact h.ite h
  · exact h

protected theorem State.Canonical.execSysopSample {o : FmtDst} (h : s.Canonical) : Keeps (execSysopSample o s) := by
  unfold execSysopSample
  refine h.checked fun h => h.withDst fun h => ?_
  dsimp only
  split
  · exact h.latchPulse.finish
  · exact (h.latchPulse.same (by rfl)).finish

/-! What Machine/Galley keeps. -/

protected theorem State.Canonical.modEntry {sag hm : Nat} {f : Entry → Entry} (h : s.Canonical) : (s.modEntry sag hm f).Canonical := h.modSag

protected theorem State.Canonical.roomFor {sag bank n : Nat} (h : s.Canonical) : (s.roomFor sag bank n).2.Canonical := by
  unfold State.roomFor
  split
  · split <;> exact h
  · exact h

protected theorem State.Canonical.modGroup {g : Grp} {f : Machine.Group → Machine.Group} (h : s.Canonical) : (s.modGroup g f).Canonical := by
  unfold State.modGroup
  split
  · exact h.modDie
  · exact h

protected theorem State.Canonical.freeGroups' {die : Nat} (h : s.Canonical) : (s.freeGroups' die).Canonical := h.modDie

protected theorem State.Canonical.endGroup {root : Grp} {st : GState} {note : Nat → Nat → Grp → ConeMsg} (h : s.Canonical) :
    (s.endGroup root st note).Canonical :=
  (h.foldl fun h => h.modGroup)

protected theorem State.Canonical.invoke {sag : Nat} {v : Invoke} (h : s.Canonical) : (s.invoke sag v).Canonical := (h.modEntry.same (by rfl)).ite h.modSag
protected theorem State.Canonical.counted {sag : Nat} {v : Invoke} (h : s.Canonical) : (s.counted sag v).Canonical := h.modEntry

protected theorem State.Canonical.outsideSpec {k : State → Out} (h : s.Canonical) (hk : ∀ {t : State}, t.Canonical → Keeps (k t)) :
    Keeps (outsideSpec s k) := by
  unfold outsideSpec
  exact .ite h.trapFree (hk h)

protected theorem State.Canonical.execTcall {o : FmtUn} (h : s.Canonical) : Keeps (execTcall o s) := by
  unfold execTcall
  refine h.plain fun h => h.outsideSpec fun h => h.ordered fun h => h.withDst fun h => h.readSrc fun h => h.readRecord fun h => ?_
  split
  · exact h.trap
  · split
    · exact h
    · exact h.post.awaitReply

protected theorem State.Canonical.withHandle {w : Word} {k : Saggar → Nat → State → Out} (h : s.Canonical)
    (hk : ∀ {a b} {t : State}, t.Canonical → Keeps (k a b t)) : Keeps (withHandle w s k) := by
  unfold withHandle
  split
  · exact .ite h.trap (hk h)
  · exact h

protected theorem State.Canonical.execTans {o : FmtA} (h : s.Canonical) : Keeps (execTans o s) := by
  unfold execTans
  refine h.plain fun h => h.outsideSpec fun h => h.ordered fun h => h.withDst fun h => ?_
  refine .ite h.hold ?_
  refine h.two fun h => h.readSrc fun h => .ite h.trapFree ?_
  exact h.withHandle fun h => h.releasing fun h => .ite h.post.awaitReply h.post.addPend.complete

protected theorem State.Canonical.execTret {o : FmtSrc} (h : s.Canonical) : Keeps (execTret o s) := by
  unfold execTret
  refine h.plain fun h => h.outsideSpec fun h => h.readSrc fun h => h.withHandle fun h => ?_
  split
  · exact .ite h.trapFree (.ite h.hold (h.modEntry.same (by rfl)).complete)
  · exact h.trapFree

protected theorem State.Canonical.execTend (h : s.Canonical) : Keeps (execTend s) := by
  unfold execTend
  refine h.plain fun h => ?_
  dsimp only
  split <;> exact .ite h.trapFree (.ite h.hold h.endStrand)

protected theorem State.Canonical.execTwait {o : FmtUn} (h : s.Canonical) : Keeps (execTwait o s) := by
  unfold execTwait
  refine h.plain fun h => h.ordered fun h => h.withDst fun h => h.readSrc fun h => h.withHandle fun h => ?_
  dsimp only
  split
  · exact h.finish
  · split
    · exact h.modSag.finish
    · split
      · exact .ite h.modSag.finish h.modSag.modEntry.finish
      · exact h.modSag.finish
      · exact h.modSag.modEntry.modMe.park

protected theorem State.Canonical.execTnextNext {o : FmtA} (h : s.Canonical) : Keeps (execTnextNext o s) := by
  unfold execTnextNext
  refine h.plain fun h => .ite h.hold ?_
  refine h.two fun h => h.withHandle fun h => ?_
  split
  · exact .ite h.trap h.modSag.modMe.complete
  · exact h.trap

protected theorem State.Canonical.execTnextClose {o : FmtSrc} (h : s.Canonical) : Keeps (execTnextClose o s) := by
  unfold execTnextClose
  refine h.plain fun h => h.readSrc fun h => h.withHandle fun h => ?_
  split
  · exact .ite h.trap h.modSag.complete
  · exact h.trap

protected theorem State.Canonical.execTabol {o : FmtUn} (h : s.Canonical) : Keeps (execTabol o s) := by
  unfold execTabol
  refine h.plain fun h => h.withDst fun h => h.readSrc fun h => ?_
  split
  · exact h
  · exact h.modSag.finish

protected theorem State.Canonical.execTstat {o : FmtA} (h : s.Canonical) : Keeps (execTstat o s) := by
  unfold execTstat
  refine h.plain fun h => h.withDst fun h => h.two fun h => ?_
  split
  · exact h
  · split
    · refine h.withHandle fun h => ?_
      split
      · exact h.finish
      · exact h.modSag.finish
    · exact h.finish
    · exact h.finish
    · exact h.finish
    · exact h.finish
    · exact h.trap

protected theorem State.Canonical.answerFull {m : Msg} {hm : Nat} (h : s.Canonical) : (s.answerFull m hm).Canonical := h.count.replyTo

protected theorem State.Canonical.register {sag hm : Nat} {c : Machine.Cont} (h : s.Canonical) : (s.register sag hm c).Canonical := by
  unfold State.register
  split
  · exact h.modEntry.foldl fun h => h.invoke
  · exact h

protected theorem State.Canonical.registerRoom {sag : Nat} {en : Entry} (h : s.Canonical) : (s.registerRoom sag en).2.Canonical := by
  unfold State.registerRoom
  split
  · exact h.roomFor
  · exact h

protected theorem State.Canonical.tcallAt {k : Nat} {m : Msg} {space : Nat} {pc : Word} {args : List Word} {nargs aw : Nat} {c : Machine.Cont}
    {blk ser : Nat} (h : s.Canonical) : (s.tcallAt k m space pc args nargs aw c blk ser).Canonical := by
  unfold State.tcallAt
  split
  · exact h
  · split
    · split
      · exact h.modSag.dropMsg.answerFull.ite h.modSag.dropMsg.modEntry.replyTo
      · exact h.modSag.dropMsg.replyTo
      · refine .ite h.modSag.dropMsg.replyTo (.ite h.modSag.dropMsg.replyTo (.ite h.modSag ?_))
        split
        · exact (h.modSag.registerRoom.snd ‹_›).dropMsg.answerFull
        · exact (h.modSag.registerRoom.snd ‹_›).dropMsg.register.replyTo.ite ((h.modSag.registerRoom.snd ‹_›).dropMsg.modEntry.same (by rfl))
    · refine .ite h.freeGroups'.dropMsg.answerFull ?_
      split
      · exact (h.freeGroups'.roomFor.snd ‹_›).dropMsg.answerFull
      · have h := h.freeGroups'.roomFor.snd ‹_›
        exact h.ite (h.dropMsg.modSag.modDie.modStrand.ite (h.dropMsg.modSag.same (by rfl))).replyTo

protected theorem State.Canonical.tansEnd {m : Msg} {ret : Bool} {r : Option Nat} {hm : Nat} (h : s.Canonical) : (s.tansEnd m ret r hm).Canonical := by
  unfold State.tansEnd
  split
  · exact h.replyTo
  · exact h.answer
  · exact h.answer
  · exact h.count.answer

protected theorem State.Canonical.tansAt {m : Msg} {hd : Nat} {w0 w1 : Word} {grp : Grp} {ret : Bool} (h : s.Canonical) :
    (s.tansAt m hd w0 w1 grp ret).Canonical := by
  unfold State.tansAt
  extract_lets dropped
  have hdropped {t : State} (h : t.Canonical) : (dropped t).Canonical := h.count.tansEnd
  split
  · exact (hdropped h).ite h.tansEnd
  · next e _ =>
    split
    · exact hdropped h
    · exact h.tansEnd
    · refine .ite h.tansEnd ?_
      extract_lets a n
      have hroom : (if 65535 ≤ e.answers.length then (false, s) else s.roomFor m.sag (handleBank hd) n).2.Canonical := Prod.canonical_ite h h.roomFor
      refine .ite h.tansEnd ?_
      split
      · exact hdropped ((hroom.snd ‹_›).same (by rfl))
      · exact (State.Canonical.foldl (hroom.snd ‹_›).modEntry fun h => h.invoke).tansEnd

protected theorem State.Canonical.execGalleyHomeRequest {k blk ser : Nat} (h : s.Canonical) : Keeps (execGalleyHomeRequest k blk ser s) := by
  unfold execGalleyHomeRequest
  split
  · refine .ite h ?_
    split
    · exact h.wakeHomes.tcallAt
    · exact h.wakeHomes.dropMsg.tansAt
    · exact h
  · exact h

protected theorem State.Canonical.dropCone {k : Nat} (h : s.Canonical) : (s.dropCone k).Canonical := h

protected theorem State.Canonical.execConeCountUpdate {k : Nat} (h : s.Canonical) : Keeps (execConeCountUpdate k s) := by
  unfold execConeCountUpdate
  dsimp only
  split
  · split
    · exact .ite h.dropCone.counted (.ite h.dropCone.counted h.modGroup)
    · exact h.dropCone.counted
  · refine .ite h ?_
    split
    · exact .ite h.dropCone (h.dropCone.modGroup.endGroup.ite h.dropCone.modGroup)
    · exact h.dropCone
  · exact h

protected theorem State.Canonical.execConeAcknowledgement {k : Nat} (h : s.Canonical) : Keeps (execConeAcknowledgement k s) := by
  unfold execConeAcknowledgement
  split
  · exact h.dropCone.counted.ite h.dropCone.counted.modSag
  · exact h

protected theorem State.Canonical.execGroupMerge {k : Nat} (h : s.Canonical) : Keeps (execGroupMerge k s) := by
  unfold execGroupMerge
  split
  · split
    · exact .ite h.dropCone.modEntry.register.replyTo (.ite h.dropCone.modEntry h.dropCone.modEntry.modGroup.modGroup.register.replyTo)
    · exact h.dropCone.modEntry
  · exact h

protected theorem State.Canonical.wakeTwait {ws : List (StrandRef × Nat)} {v : Nat → Word} (h : s.Canonical) : (s.wakeTwait ws v).Canonical :=
  h.foldl fun h => h.give.ite h

protected theorem State.Canonical.completeEntry {sag : Nat} {en : Entry} (h : s.Canonical) : (s.completeEntry sag en).Canonical :=
  h.modEntry.wakeTwait.modSag

protected theorem State.Canonical.execCompletionNotice {k : Nat} (h : s.Canonical) : Keeps (execCompletionNotice k s) := by
  unfold execCompletionNotice
  split
  · exact h.dropCone.foldl fun h => h.completeEntry
  · exact h

protected theorem State.Canonical.execGroupFailure {k : Nat} (h : s.Canonical) : Keeps (execGroupFailure k s) := by
  unfold execGroupFailure
  split
  · exact .ite h (h.dropCone.endGroup.ite h.dropCone)
  · exact h

protected theorem State.Canonical.failEntry {sag : Nat} {en : Entry} (h : s.Canonical) : (s.failEntry sag en).Canonical :=
  h.modSag.wakeTwait.modSag.ite h.modSag.wakeTwait

protected theorem State.Canonical.execFailureNotice {k : Nat} (h : s.Canonical) : Keeps (execFailureNotice k s) := by
  unfold execFailureNotice
  split
  · exact h.dropCone.foldl fun h => h.failEntry
  · exact h

protected theorem State.Canonical.execGalleySoftError {sag k : Nat} {record : Bool} (h : s.Canonical) : Keeps (execGalleySoftError sag k record s) := by
  unfold execGalleySoftError
  split
  · split
    · split
      · exact h.ite h.failEntry
      · exact h
    · exact .ite h h.modSag.count
    · exact h
  · exact h

protected theorem State.Canonical.execContinuationInvocation {sag k core : Nat} (h : s.Canonical) : Keeps (execContinuationInvocation sag k core s) := by
  unfold execContinuationInvocation
  dsimp only
  split
  · split
    · exact h.wakeUnit.ite h
    · exact h.modSag.enter.wakeUnit
  · exact h

/-! What Machine/Jobs keeps. -/

/-- The state in which a job stops is in canonical form. -/
def JobStop.Keeps : JobStop → Prop
  | .fail _ t | .stay t => t.Canonical
  | .broken _ => True

/-- A step of a job ends in a state in canonical form, whether it stops there or not. -/
def JobKeeps {α : Type} (st : α → State) : Except JobStop α → Prop
  | .ok r => (st r).Canonical
  | .error e => e.Keeps

theorem JobKeeps.ok {α : Type} {st : α → State} {x : Except JobStop α} {r : α} (h : JobKeeps st x) (e : x = .ok r) : (st r).Canonical := by
  subst e
  exact h

theorem JobKeeps.pair {α : Type} {x : Except JobStop (α × State)} {a : α} {t : State} (h : JobKeeps (·.2) x) (e : x = .ok (a, t)) : t.Canonical := h.ok e

theorem JobKeeps.triple {α β : Type} {x : Except JobStop (α × β × State)} {a : α} {b : β} {t : State} (h : JobKeeps (·.2.2) x)
    (e : x = .ok (a, b, t)) : t.Canonical :=
  h.ok e

theorem JobKeeps.error {α : Type} {st : α → State} {x : Except JobStop α} {r : JobStop} (h : JobKeeps st x) (e : x = .error r) : r.Keeps := by
  subst e
  exact h

theorem JobKeeps.fail {α : Type} {st : α → State} {x : Except JobStop α} {c : Nat} {t : State} (h : JobKeeps st x) (e : x = .error (.fail c t)) :
    t.Canonical :=
  h.error e

protected theorem State.Canonical.jobPlace {j : Job} {kd : Acc} {a : Word} (h : s.Canonical) : JobKeeps (·.2.2) (s.jobPlace j kd a) := by
  unfold State.jobPlace
  generalize resolve s (clusterOf j.core) j.sag a 1 = r
  refine onAddr h (fun c off => ?_) (fun cl off => h) fun va => ?_
  · split <;> exact h
  · have ht := h.translate (i := ⟨j.sag, clusterOf j.core, j.heap.1, j.heap.2.1, j.heap.2.2, some (s.leasesOf j.sag j.task)⟩) (kd := kd) (va := va) (n := 1)
    generalize translate .. = p at ht ⊢
    split
    · split <;> exact ht
    · exact ht
    · exact ht
    · exact ht
    · exact ht
    · trivial

protected theorem State.Canonical.jobRead {j : Job} {first : Bool} {n : Nat} {a : Word} (h : s.Canonical) :
    JobKeeps (·.2.2) (State.jobRead j first n a s) := by
  induction n generalizing s first a with
  | zero => exact h
  | succ n ih =>
    unfold State.jobRead
    split
    · exact h.jobPlace.error ‹_›
    · next t e =>
      have ht (l n) := canonical_meet l n (h.jobPlace.triple e)
      extract_lets s1
      have h : s1.Canonical := by
        unfold s1
        exact .ite (ht _ _).sendRead (ht _ _)
      split
      · exact (ih h).error ‹_›
      · exact (ih h).triple ‹_›

protected theorem State.Canonical.jobPoison {j : Job} {r : List (Byte × Option Nat)} (h : s.Canonical) : JobKeeps id (s.jobPoison j r) := by
  unfold State.jobPoison
  extract_lets words
  split
  · exact h
  · split
    · exact h
    · exact h.foldl fun h => h.count

protected theorem State.Canonical.jobBytes {j : Job} {n : Nat} {a : Word} (h : s.Canonical) : JobKeeps (·.2) (State.jobBytes j n a s) := by
  unfold State.jobBytes
  split
  · exact h.jobRead.error ‹_›
  · next r stray t e =>
    have ht := h.jobRead.triple e
    have hc := ht.count (f := fun c => { c with stray := wrap1 c.stray }) (g := j.sag)
    have hp := (hc.ite (p := stray = true) ht).jobPoison (j := j) (r := r)
    split
    · exact hp.error ‹_›
    · exact hp.ok ‹_›

protected theorem State.Canonical.jobTargets {j : Job} {l : List (Nat × Word × Byte)} (h : s.Canonical) : JobKeeps (·.2.2) (State.jobTargets j l s) := by
  induction l generalizing s with
  | nil => exact h
  | cons e l ih =>
    unfold State.jobTargets
    split
    · exact h.jobPlace.fail ‹_›
    · exact h.jobPlace.error ‹_›
    · next e =>
      have ht := h.jobPlace.triple e
      split
      · exact (ih ht).error ‹_›
      · exact (ih ht).triple ‹_›

protected theorem State.Canonical.modBand {cl b : Nat} {f : Band → Band} (h : s.Canonical) : (s.modBand cl b f).Canonical := h.modCluster

protected theorem State.Canonical.matrixRows {cl : Nat} {j : Job} {a b : Nat} (h : s.Canonical) : (s.matrixRows cl j a b).Canonical :=
  h.foldl fun h => h.foldl fun h => h.modBand

protected theorem State.Canonical.matrixDone {cl : Nat} {j : Job} (h : s.Canonical) : (s.matrixDone cl j).Canonical := by
  unfold State.matrixDone
  split
  · exact h.foldl fun h => h.modBand
  · exact h.matrixRows
  · exact h.matrixRows
  · exact h.matrixRows
  · exact h

protected theorem State.Canonical.setJob {cl k : Nat} {j : Job} (h : s.Canonical) : (s.setJob cl k j).Canonical := h.modCluster

protected theorem State.Canonical.startWrites {cl k : Nat} {j : Job} {ts : List (Nat × Word × Byte)} {bad : List Bool} (h : s.Canonical) :
    JobKeeps id (s.startWrites cl k j ts bad) := by
  unfold State.startWrites
  split
  · exact h.jobTargets.error ‹_›
  · exact (h.jobTargets.triple ‹_›).setJob

protected theorem State.Canonical.readRows {j : Job} {n : Nat} {l : List (Nat × Word)} (h : s.Canonical) : JobKeeps (·.2) (State.readRows j n l s) := by
  induction l generalizing s with
  | nil => exact h
  | cons e l ih =>
    unfold State.readRows
    split
    · exact h.jobBytes.error ‹_›
    · next e =>
      have ht := h.jobBytes.pair e
      split
      · exact (ih ht).error ‹_›
      · exact (ih ht).pair ‹_›

protected theorem State.Canonical.gatherAll {j : Job} {l : List Word} {i : Nat} (h : s.Canonical) : JobKeeps (·.2) (State.gatherAll j l i s) := by
  induction l generalizing s i with
  | nil => exact h
  | cons x l ih =>
    unfold State.gatherAll
    extract_lets size a
    split
    · exact h
    · split
      · exact h.jobBytes.error ‹_›
      · next e =>
        have ht := h.jobBytes.pair e
        split
        · exact (ih ht).error ‹_›
        · exact (ih ht).pair ‹_›

protected theorem State.Canonical.beginJob {cl k : Nat} {j : Job} (h : s.Canonical) : JobKeeps id (s.beginJob cl k j) := by
  unfold State.beginJob
  extract_lets failed
  have hfailed {e range} (he : e.Keeps) : JobKeeps id (failed e range) := by
    cases e with
    | fail c t => exact State.Canonical.setJob he
    | stay t => exact he
    | broken f => trivial
  split
  · split
    · exact hfailed (h.jobBytes.error ‹_›)
    · exact (h.jobBytes.pair ‹_›).startWrites
  · split
    · exact hfailed (h.jobBytes.error ‹_›)
    · next e =>
      have ht := h.jobBytes.pair e
      extract_lets ix
      split
      · exact hfailed (ht.gatherAll.error ‹_›)
      · exact (ht.gatherAll.pair ‹_›).startWrites
  · split
    · exact hfailed (h.jobBytes.error ‹_›)
    · exact (h.jobBytes.pair ‹_›).setJob
  · exact h.setJob
  · split
    · exact hfailed (h.readRows.error ‹_›)
    · exact (h.readRows.pair ‹_›).setJob
  · split
    · exact h.setJob
    · split
      · exact hfailed (h.readRows.error ‹_›)
      · exact (h.readRows.pair ‹_›).setJob
  · exact h.startWrites

protected theorem State.Canonical.execJobStart {cl k : Nat} (h : s.Canonical) : Keeps (execJobStart cl k s) := by
  unfold execJobStart
  split
  · refine .ite h ?_
    split
    · exact h.beginJob.ok ‹_›
    · trivial
    · exact h.beginJob.error ‹_›
    · exact h.beginJob.error ‹_›
  · exact h

protected theorem State.Canonical.drainJob {cl : Nat} {j : Job} {l : List EWrite} (h : s.Canonical) : (State.drainJob cl j l s).2.Canonical := by
  induction l generalizing s with
  | nil => exact h
  | cons w l ih =>
    unfold State.drainJob
    split
    · exact h
    · split
      · exact h.reclaim
      · exact ih h.jobByteOut

protected theorem State.Canonical.settleCovers {j : Job} (h : s.Canonical) : (s.settleCovers j).Canonical :=
  h.foldl fun h => h.ite (canonical_setPoison _ _ h)

protected theorem State.Canonical.retireJob {cl k : Nat} {j : Job} (h : s.Canonical) : (s.retireJob cl k j).Canonical :=
  ((h.modCluster.modCore.modCluster.ite h.modCluster.modCore).failFor).ite (h.modCluster.modCore.modCluster.ite h.modCluster.modCore)

protected theorem State.Canonical.execJobCompletion {cl k : Nat} (h : s.Canonical) : Keeps (execJobCompletion cl k s) := by
  unfold execJobCompletion
  split
  · exact .ite h (.ite h.drainJob.setJob (h.drainJob.setJob.settleCovers.matrixDone.ite h.drainJob.setJob.settleCovers).retireJob)
  · exact h

protected theorem State.Canonical.execFollowonPlacement {cl k : Nat} (h : s.Canonical) : Keeps (execFollowonPlacement cl k s) := by
  unfold execFollowonPlacement
  split
  · exact .ite h h.setJob
  · exact h

protected theorem State.Canonical.collPlan {res : List Byte} {round : Nat} {l : List (Nat × Nat × Job)} (h : s.Canonical) :
    JobKeeps (·.2) (State.collPlan res round l s) := by
  induction l generalizing s with
  | nil => exact h
  | cons e l ih =>
    unfold State.collPlan
    have hj : JobKeeps (·.2.2) (if e.2.2.fail ≠ 0 then .ok ([], 0, s) else State.jobTargets e.2.2 (rowBytes 0 (word e.2.2.desc.dst) res) s) := by
      split
      · exact h
      · exact h.jobTargets
    split
    · exact hj.error ‹_›
    · next e =>
      have ht := hj.triple e
      split
      · exact (ih ht).error ‹_›
      · exact (ih ht).pair ‹_›

protected theorem State.Canonical.execCollRoundClose {sag grp : Nat} (h : s.Canonical) : Keeps (execCollRoundClose sag grp s) := by
  unfold execCollRoundClose
  extract_lets all
  clear_value all
  split
  · exact h
  · extract_lets np round same cores size sorted elem opened res
    refine .ite h (.ite (h.foldl fun h => h.setJob) ?_)
    split
    · next l t e =>
      have ht : t.Canonical := h.collPlan.pair e
      refine State.Canonical.foldl ?_ fun h => h.setJob
      exact (ht.same (by rfl)).ite ht
    · trivial
    · exact h.collPlan.error ‹_›
    · exact h.collPlan.error ‹_›

/-! What Machine/Scalar keeps. -/

protected theorem State.Canonical.longBinary {o : FmtA} {f : Word → Word → Word} (h : s.Canonical) : Keeps (longBinary o f s) :=
  h.plain fun h => h.withDst fun h => h.two fun h => h.longLatency

protected theorem State.Canonical.immediate {o : FmtI} {f : Word → Word → Word} (h : s.Canonical) : Keeps (immediate o f s) :=
  h.plain fun h => h.withDst fun h => h.readSrc fun h => h.finish

protected theorem State.Canonical.shiftImm {o : FmtSh} {f : Word → Nat → Word} (h : s.Canonical) : Keeps (shiftImm o f s) :=
  h.plain fun h => h.withDst fun h => h.readSrc fun h => h.finish

protected theorem State.Canonical.execSlti {o : FmtI} (h : s.Canonical) : Keeps (execSlti o s) := h.immediate
protected theorem State.Canonical.execSltiu {o : FmtI} (h : s.Canonical) : Keeps (execSltiu o s) := h.immediate
protected theorem State.Canonical.execLdi {o : FmtLi} (h : s.Canonical) : Keeps (execLdi o s) := h.plain fun h => h.withDst fun h => h.finish

protected theorem State.Canonical.execLdih {o : FmtLi} (h : s.Canonical) : Keeps (execLdih o s) :=
  h.plain fun h => h.withDst fun h => h.readSrc fun h => h.finish

/-! What Machine/Lanes keeps. -/

protected theorem State.Canonical.sendLane {o : LaneOp} (h : s.Canonical) : (s.sendLane o).Canonical := h.modMe

protected theorem State.Canonical.laneChecked {takes ok : Bool} {k : State → Out} (h : s.Canonical) (hk : ∀ {t : State}, t.Canonical → Keeps (k t)) :
    Keeps (laneChecked takes ok s k) := by
  unfold laneChecked
  exact h.checked fun h => .ite h.trapFree (hk h)

protected theorem State.Canonical.readVB {j : Nat} {b : Code} {k : Option Word → State → Out} (h : s.Canonical)
    (hk : ∀ {a} {t : State}, t.Canonical → Keeps (k a t)) : Keeps (readVB j b s k) := by
  unfold readVB
  exact .ite (h.readSrc hk) (hk h)

protected theorem State.Canonical.laneTwo {fn : LaneFn} {takes : Bool} {dOk : Code → Bool} {codes : State → Bool} {o : FmtV} (h : s.Canonical) :
    Keeps (laneTwo fn takes dOk codes o s) :=
  h.laneChecked fun h => h.readVB fun h => h.readScale fun h => h.consume.sendLane.complete

protected theorem State.Canonical.laneOne {fn : LaneFn} {codes : State → Bool} {o : FmtVUn} (h : s.Canonical) : Keeps (laneOne fn codes o s) :=
  h.laneChecked fun h => h.readVB fun h => h.readScale fun h => h.consume.sendLane.complete

protected theorem State.Canonical.lanePlain {fn : LaneFn} {ok : Bool} {d a b : Nat} {src : State → (Option Word → Option Word → State → Out) → Out}
    (h : s.Canonical) (hk : ∀ {t : State} {c : Option Word → Option Word → State → Out}, t.Canonical → (∀ {x y} {u : State}, u.Canonical →
    Keeps (c x y u)) → Keeps (src t c)) : Keeps (lanePlain fn ok d a b s src) :=
  h.laneChecked fun h => hk h fun h => h.sendLane.complete

protected theorem State.Canonical.noScalar {k : Option Word → Option Word → State → Out} (h : s.Canonical)
    (hk : ∀ {a b} {t : State}, t.Canonical → Keeps (k a b t)) : Keeps (noScalar s k) :=
  hk h

protected theorem State.Canonical.laneScalar {fn : LaneFn} {masked : Bool} {d : Code} {a b : Nat} {sb : Option Word} {g : Gov} (h : s.Canonical) :
    Keeps (laneScalar fn masked d a b sb g s) :=
  (h.same (by rfl)).owe.sendLane.awaitResult

protected theorem State.Canonical.vi {f : IOp} {o : FmtV} (h : s.Canonical) : Keeps (vi f o s) := h.laneTwo
protected theorem State.Canonical.vcmp {f : COp} {o : FmtV} (h : s.Canonical) : Keeps (vcmp f o s) := h.laneTwo
protected theorem State.Canonical.execVmskSel {o : FmtVV} (h : s.Canonical) : Keeps (execVmskSel o s) := h.lanePlain fun h1 h2 => h1.readVB fun h3 => h2 h3

protected theorem State.Canonical.execVmskMand {o : FmtVV} (h : s.Canonical) : Keeps (execVmskMand o s) :=
  h.lanePlain fun h1 h2 => h1.noScalar fun h3 => h2 h3

protected theorem State.Canonical.execVmskMor {o : FmtVV} (h : s.Canonical) : Keeps (execVmskMor o s) :=
  h.lanePlain fun h1 h2 => h1.noScalar fun h3 => h2 h3

protected theorem State.Canonical.execVmskMxor {o : FmtVV} (h : s.Canonical) : Keeps (execVmskMxor o s) :=
  h.lanePlain fun h1 h2 => h1.noScalar fun h3 => h2 h3

protected theorem State.Canonical.execVmskMnot {o : FmtVA} (h : s.Canonical) : Keeps (execVmskMnot o s) :=
  h.lanePlain fun h1 h2 => h1.noScalar fun h3 => h2 h3

protected theorem State.Canonical.execVmskMset {o : FmtVA} (h : s.Canonical) : Keeps (execVmskMset o s) :=
  h.lanePlain fun h1 h2 => h1.readSrc fun h3 => h2 h3

protected theorem State.Canonical.execVmskMpop {o : FmtVA} (h : s.Canonical) : Keeps (execVmskMpop o s) :=
  h.laneChecked fun h => h.withDst fun h => h.laneScalar

protected theorem State.Canonical.execVmskMfirst {o : FmtVA} (h : s.Canonical) : Keeps (execVmskMfirst o s) :=
  h.laneChecked fun h => h.withDst fun h => h.laneScalar

protected theorem State.Canonical.execVcvt {o : FmtCvt} (h : s.Canonical) : Keeps (execVcvt o s) :=
  h.laneChecked fun h => h.readScale fun h => h.consume.sendLane.complete

protected theorem State.Canonical.vpermS {fn : LaneFn} {o : FmtVV} (h : s.Canonical) : Keeps (vpermS fn o s) :=
  h.lanePlain fun h1 h2 => h1.readVB fun h3 => h2 h3

protected theorem State.Canonical.execVpermPerm {o : FmtVV} (h : s.Canonical) : Keeps (execVpermPerm o s) :=
  h.lanePlain fun h1 h2 => h1.noScalar fun h3 => h2 h3

protected theorem State.Canonical.execVpermComp {o : FmtVA} (h : s.Canonical) : Keeps (execVpermComp o s) :=
  h.lanePlain fun h1 h2 => h1.noScalar fun h3 => h2 h3

protected theorem State.Canonical.execVpermExpd {o : FmtVA} (h : s.Canonical) : Keeps (execVpermExpd o s) :=
  h.lanePlain fun h1 h2 => h1.noScalar fun h3 => h2 h3

protected theorem State.Canonical.execVpermRev {o : FmtVB} (h : s.Canonical) : Keeps (execVpermRev o s) :=
  h.lanePlain fun h1 h2 => h1.noScalar fun h3 => h2 h3

protected theorem State.Canonical.execVmovVtos {o : FmtVV} (h : s.Canonical) : Keeps (execVmovVtos o s) :=
  h.laneChecked fun h => h.withDst fun h => h.readVB fun h => h.laneScalar

protected theorem State.Canonical.execVmovStov {o : FmtVV} (h : s.Canonical) : Keeps (execVmovStov o s) :=
  h.lanePlain fun h1 h2 => h1.readSrc fun h3 => h3.readVB fun h4 => h2 h4

protected theorem State.Canonical.execVmovVmv {o : FmtVB} (h : s.Canonical) : Keeps (execVmovVmv o s) :=
  h.lanePlain fun h1 h2 => h1.noScalar fun h3 => h2 h3

protected theorem State.Canonical.laneN {fn : LaneFn} {takes : Bool} {codes : State → Bool} {o : FmtN} (h : s.Canonical) : Keeps (laneN fn takes codes o s) :=
  h.laneChecked fun h => h.readScale fun h => h.consume.sendLane.complete

protected theorem State.Canonical.execVaddI32 {o : FmtN} (h : s.Canonical) : Keeps (execVaddI32 o s) := h.laneN
protected theorem State.Canonical.execVsubI32 {o : FmtN} (h : s.Canonical) : Keeps (execVsubI32 o s) := h.laneN
protected theorem State.Canonical.execVand {o : FmtN} (h : s.Canonical) : Keeps (execVand o s) := h.laneN
protected theorem State.Canonical.execVor {o : FmtN} (h : s.Canonical) : Keeps (execVor o s) := h.laneN
protected theorem State.Canonical.execVxor {o : FmtN} (h : s.Canonical) : Keeps (execVxor o s) := h.laneN
protected theorem State.Canonical.execVshlI32 {o : FmtN} (h : s.Canonical) : Keeps (execVshlI32 o s) := h.laneN
protected theorem State.Canonical.execVshrI32 {o : FmtN} (h : s.Canonical) : Keeps (execVshrI32 o s) := h.laneN
protected theorem State.Canonical.execVmv {o : FmtN} (h : s.Canonical) : Keeps (execVmv o s) := h.laneN
protected theorem State.Canonical.execVmulI32 {o : FmtN} (h : s.Canonical) : Keeps (execVmulI32 o s) := h.laneN

protected theorem State.Canonical.vred {f : ROp} {o : FmtVRed} (h : s.Canonical) : Keeps (vred f o s) :=
  h.laneChecked fun h => h.withDst fun h => h.readScale fun h => h.consume.laneScalar

protected theorem State.Canonical.vredQ {f : ROp} {o : FmtVV} (h : s.Canonical) : Keeps (vredQ f o s) := by
  unfold vredQ
  refine h.checked fun h => h.withDst fun h => h.readSrc fun h => h.readScale fun {sc t} h => ?_
  extract_lets g n q s1 x mine vals r used s2 done s3 s4
  have h1 : s1.Canonical := State.Canonical.ite h h.modMe
  have h4 : s4.Canonical := h1.modMe.modMyCore.foldl fun h => h.countPoison
  exact .ite h1.trap (.ite (h4.deliverTo fun h => h.modMe.complete) h4.park)

protected theorem State.Canonical.execLaneClaim {o : FmtVA} (h : s.Canonical) : Keeps (execLaneClaim o s) := by
  unfold execLaneClaim
  refine h.plain fun h => h.withDst fun h => h.readSrc fun h => ?_
  refine .ite h.trap (.ite h.hold ?_)
  split
  · exact h.modCluster.modMe.poolEvent.finish
  · exact .ite h.modCluster.modCluster.poolEvent.modMe.park (.ite h.hold (.ite h.modMe.poolEvent.finish h.modCluster.modMe.finish))

protected theorem State.Canonical.execLaneGrant {cl : Nat} (h : s.Canonical) : Keeps (execLaneGrant cl s) := by
  unfold execLaneGrant
  split
  · exact .ite h h.modCluster.modStrand.give.poolEvent
  · exact h

protected theorem State.Canonical.execLaneRel (h : s.Canonical) : Keeps (execLaneRel s) := by
  unfold execLaneRel
  exact h.plain fun h => .ite h.complete (.ite h.hold h.modMe.poolEvent.complete)

protected theorem State.Canonical.execLaneSync (h : s.Canonical) : Keeps (execLaneSync s) := by
  unfold execLaneSync
  exact h.plain fun h => .ite h.hold h.shrinkNow.complete

protected theorem State.Canonical.execLaneQuery {o : FmtDst} (h : s.Canonical) : Keeps (execLaneQuery o s) :=
  h.plain fun h => h.withDst fun h => h.longLatency

protected theorem State.Canonical.execShrinkTakesEffect {r : StrandRef} (h : s.Canonical) : Keeps (execShrinkTakesEffect r s) := by
  unfold execShrinkTakesEffect
  exact .ite h.shrinkNow h

protected theorem State.Canonical.laneElements {chk : Word → State → (Place → Nat → State → Out) → Out} {es : List (Nat × Word)}
    {acc : List (Nat × Place × Nat)} {k : List (Nat × Place × Nat) → State → Out} (h : s.Canonical)
    (hc : ∀ {a} {t : State} {c : Place → Nat → State → Out}, t.Canonical → (∀ {p b} {u : State}, u.Canonical → Keeps (c p b u)) → Keeps (chk a t c))
    (hk : ∀ {ps} {t : State}, t.Canonical → Keeps (k ps t)) : Keeps (laneElements chk es acc s k) := by
  induction es generalizing acc s with
  | nil => exact hk h
  | cons e t ih => exact hc h fun h => ih h

protected theorem State.Canonical.elementCheck {kd : Acc} {n : Nat} {op a : Word} {k : Place → Nat → State → Out} (h : s.Canonical)
    (hk : ∀ {a b} {t : State}, t.Canonical → Keeps (k a b t)) : Keeps (elementCheck kd n op a s k) := by
  unfold elementCheck
  split
  · exact h.trap
  · exact h.accessBy (fun h => h.hold) hk

protected theorem State.Canonical.sendLoads {d : Nat} {acq : Bool} {ctxOf : Place → State → Nat} {parts : Nat → List (Nat × Nat × Nat × Nat × Nat)}
    {addr : Nat → Word} {es : List (Nat × Place × Nat)} (h : s.Canonical) : Keeps (sendLoads d acq ctxOf parts addr es s) := by
  unfold sendLoads
  dsimp only
  split
  · exact h.holdOn
  · split
    · exact h.hold
    · split
      · exact (h.foldl fun h => h.postOf.modMe).modMe.awaitReply
      · exact (h.foldl fun h => h.postOf.modMe).modMe.complete

protected theorem State.Canonical.laneMemory {ok : Bool} {k : State → Out} (h : s.Canonical) (hk : ∀ {t : State}, t.Canonical → Keeps (k t)) :
    Keeps (laneMemory ok s k) := by
  unfold laneMemory
  exact h.laneChecked fun h => h.ordered fun h => .ite h.hold (hk h)

protected theorem State.Canonical.laneLoad {d n : Nat} {acq base : Bool} {op : Word} {es : List (Nat × Word)} (h : s.Canonical) :
    Keeps (laneLoad d n acq base op es s) :=
  h.laneElements (fun h1 h2 => h1.elementCheck fun h3 => h2 h3) fun h1 => h1.sendLoads

protected theorem State.Canonical.laneStore {d n : Nat} {rel : Option Nat} {base : Bool} {op : Word} {es : List (Nat × Word)} (h : s.Canonical) :
    Keeps (laneStore d n rel base op es s) := by
  unfold laneStore
  refine h.laneElements (fun h1 h2 => h1.elementCheck fun h3 => h2 h3) fun h1 => ?_
  split
  · exact h1.releasing fun h2 => .ite h2.hold (h2.sendAll fun h3 => h3.complete)
  · exact .ite h1.hold (h1.sendAll fun h2 => h2.complete)

protected theorem State.Canonical.execVld {o : FmtVM} (h : s.Canonical) : Keeps (execVld o s) := h.laneMemory fun h => h.readSrc fun h => h.laneLoad
protected theorem State.Canonical.execVst {o : FmtVM} (h : s.Canonical) : Keeps (execVst o s) := h.laneMemory fun h => h.readSrc fun h => h.laneStore

protected theorem State.Canonical.execVlds {o : FmtV} (h : s.Canonical) : Keeps (execVlds o s) :=
  h.laneMemory fun h => h.readSrc fun h => h.readSrc fun h => h.laneLoad

protected theorem State.Canonical.execVsts {o : FmtV} (h : s.Canonical) : Keeps (execVsts o s) :=
  h.laneMemory fun h => h.readSrc fun h => h.readSrc fun h => h.laneStore

protected theorem State.Canonical.execVgat {o : FmtV} (h : s.Canonical) : Keeps (execVgat o s) := h.laneMemory fun h => h.readSrc fun h => h.laneLoad
protected theorem State.Canonical.execVsca {o : FmtV} (h : s.Canonical) : Keeps (execVsca o s) := h.laneMemory fun h => h.readSrc fun h => h.laneStore

protected theorem State.Canonical.bitElement {kd : Acc} {w : Nat} {op a : Word} {k : Place → Nat → State → Out} (h : s.Canonical)
    (hk : ∀ {a b} {t : State}, t.Canonical → Keeps (k a b t)) : Keeps (bitElement kd w op a s k) :=
  h.bitAccess (fun h => h.hold) hk

protected theorem State.Canonical.execVldb {o : FmtVBit} (h : s.Canonical) : Keeps (execVldb o s) := by
  unfold execVldb
  exact h.laneMemory fun h1 => h1.readSrc fun h2 => .ite h2.trap (h2.laneElements (fun h3 h4 => h3.bitElement fun h5 => h4 h5) fun h3 => h3.sendLoads)

protected theorem State.Canonical.execVstb {o : FmtVBit} (h : s.Canonical) : Keeps (execVstb o s) := by
  unfold execVstb
  refine h.laneMemory fun h1 => h1.readSrc fun h2 => ?_
  refine .ite h2.trap ?_
  exact h2.laneElements (fun h3 h4 => h3.bitElement fun h5 => h4 h5) fun h3 => .ite h3.hold (h3.sendAll fun h4 => h4.complete)

protected theorem State.Canonical.landLanes {c k : Nat} (h : s.Canonical) : (s.landLanes c k).Canonical := by
  unfold State.landLanes
  dsimp only
  split
  · exact h.modStrand
  · exact h.modStrand.foldl fun h => h.countPoison

protected theorem State.Canonical.execLoadDataReturn {r : StrandRef} {k : Nat} (h : s.Canonical) : Keeps (execLoadDataReturn r k s) := by
  unfold execLoadDataReturn
  split
  · split
    · exact h
    · refine .ite h (.ite h (.ite (h.same (by rfl)).reap ?_))
      split
      · exact .ite h (h.same (by rfl)).fillLoad
      · exact (h.same (by rfl)).modStrand.landLanes.ite (h.same (by rfl)).modStrand
  · exact h

/-! What Machine/Preempt keeps. -/

protected theorem State.Canonical.haltCore {core : Nat} (h : s.Canonical) : (s.haltCore core).Canonical := h.backOffAll.modCore

protected theorem State.Canonical.withdraw {cl : Nat} {j : Job} {ws : List WithdrawRec} (h : s.Canonical) :
    ∀ {x t}, s.withdraw cl j ws = some (x, t) → t.Canonical := by
  unfold State.withdraw
  intro _ _
  dsimp only
  split
  · rintro ⟨⟩
    exact h
  · split
    · nofun
    · split
      · nofun
      · rintro ⟨⟩
        exact h.drainJob.settleCovers.matrixRows

protected theorem State.Canonical.withdrawAll {cl : Nat} {ws : List WithdrawRec} {l : List Job} (h : s.Canonical) :
    ∀ {js t}, State.withdrawAll cl ws l s = some (js, t) → t.Canonical := by
  induction l generalizing s with
  | nil =>
    rintro _ _ ⟨⟩
    exact h
  | cons j l ih =>
    unfold State.withdrawAll
    intro _ _
    split
    · nofun
    · split
      · nofun
      · rintro ⟨⟩
        exact ih (h.withdraw ‹_›) ‹_›

protected theorem State.Canonical.takeOut {core : Nat} {v : CoreSave} (h : s.Canonical) : (s.takeOut core v).Canonical :=
  (h.same (by rfl)).modCluster.modCore.poolEvent

protected theorem State.Canonical.bandsBack {core : Nat} {v : CoreSave} (h : s.Canonical) : (s.bandsBack core v).2.Canonical := by
  unfold State.bandsBack
  split
  · exact h.modCluster
  · exact h

protected theorem State.Canonical.jobsBack {core n : Nat} {v : CoreSave} (h : s.Canonical) : (State.jobsBack core n v s).2.Canonical := by
  induction n generalizing s v with
  | zero => exact h
  | succ n ih =>
    unfold State.jobsBack
    extract_lets cl s1
    split
    · exact h
    · split
      · exact ih h.modCore.modCluster
      · exact h.modCore

protected theorem State.Canonical.claimsBack {core : Nat} {l : List (Nat × Nat × Nat)} (h : s.Canonical) : (State.claimsBack core l s).2.Canonical := by
  induction l generalizing s with
  | nil => exact h
  | cons e l ih =>
    unfold State.claimsBack
    split
    · exact ih h
    · split
      · exact h
      · exact ih h.modStrand

protected theorem State.Canonical.bringBack {core : Nat} (h : s.Canonical) : (s.bringBack core).Canonical := by
  unfold State.bringBack
  dsimp only
  split
  · exact h.ite h.modCore
  · exact h

protected theorem State.Canonical.foundReply {r : StrandRef} {v : Word} (h : s.Canonical) : (s.foundReply r v).Canonical := h.modStrand

protected theorem State.Canonical.twaitAgain {r : StrandRef} {hm : Nat} (h : s.Canonical) : (s.twaitAgain r hm).Canonical := by
  unfold State.twaitAgain
  dsimp only
  split
  · exact h.foundReply
  · split
    · exact h.foundReply.ite h.modEntry.foundReply
    · exact h.foundReply
    · exact h.modEntry

protected theorem State.Canonical.waitAgain {core : Nat} {v : CoreSave} (h : s.Canonical) : (s.waitAgain core v).Canonical := by
  unfold State.waitAgain
  refine State.Canonical.foldl ?_ fun h => h.modCluster.ite h
  refine State.Canonical.foldl ?_ fun h => h.twaitAgain.ite h
  refine State.Canonical.foldl ?_ fun h => h.modQueue.serveRing.ite h
  refine State.Canonical.foldl ?_ fun h => ?_
  · refine (h.foldl fun h => h.ite ((h.same (by rfl)).ite h.waiterArrives)).foldl fun h => ?_
    refine .ite h ?_
    split
    · exact (h.barApply.snd ‹_›).foundReply
    · exact h.barApply.snd ‹_›
  · split
    · exact h.modSag.ite h
    · exact h

protected theorem State.Canonical.execPreemptResume {core : Nat} (h : s.Canonical) : Keeps (execPreemptResume core s) := by
  unfold execPreemptResume
  dsimp only
  split
  · exact h.bringBack
  · split
    · split
      · exact .ite h.bringBack.bandsBack.jobsBack.claimsBack.modCore h.bringBack.bandsBack.jobsBack.claimsBack.modCore.waitAgain.poolEvent.wakeUnit
      · dsimp only
        exact .ite h.bringBack.bandsBack.jobsBack.modCore h.bringBack.bandsBack.jobsBack.modCore.waitAgain.poolEvent.wakeUnit
    · dsimp only
      split
      · exact .ite h.bringBack.bandsBack.claimsBack.modCore h.bringBack.bandsBack.claimsBack.modCore.waitAgain.poolEvent.wakeUnit
      · dsimp only
        exact .ite h.bringBack.bandsBack.modCore h.bringBack.bandsBack.modCore.waitAgain.poolEvent.wakeUnit

/-! What Machine/Speculation keeps. -/

protected theorem State.Canonical.sspawnForm {ord : Bool} {o : FmtA} (h : s.Canonical) : Keeps (sspawnForm ord o s) := by
  unfold sspawnForm
  refine h.plain fun h => h.ordered fun h => h.withDst fun h => h.two fun h => h.readRecord fun h => h.releasing fun h => h.withSag fun {g} => ?_
  exact .ite h.finish (.ite h.finish (.ite h.finish (.ite h.hold (.ite h.finish h.modSag.finish))))

protected theorem State.Canonical.undoLoc {sag : Nat} {kd : Acc} {a : Word} (h : s.Canonical) : (s.undoLoc sag kd a).2.Canonical := by
  unfold State.undoLoc
  split
  · split
    · exact h
    · split <;> exact h.translate.snd ‹_›
  · exact h

protected theorem State.Canonical.execSpecTaskDispatch {sag inst seq core : Nat} (h : s.Canonical) : Keeps (execSpecTaskDispatch sag inst seq core s) := by
  unfold execSpecTaskDispatch
  dsimp only
  split
  · split
    · exact h
    · split
      · split
        · exact h.giveTag.modSpec
        · split
          · exact h
          · exact h.modSag
      · split
        · exact h.modSpec.modSag.enter.wakeUnit
        · exact h
  · exact h

protected theorem State.Canonical.pushUndo {sag : Nat} {ref : SpecRef} {t : SpecTask} {p : UndoPlace} {ws : List Word} (h : s.Canonical) :
    (s.pushUndo sag ref t p ws).Canonical := by
  unfold State.pushUndo
  refine State.Canonical.setUndo ?_
  split
  · exact h.wakeHome.applyStore
  · exact h.count

protected theorem State.Canonical.bopDecide {sag : Nat} {ref : SpecRef} {obj : Word} {r : List Word} (h : s.Canonical) :
    (s.bopDecide sag ref obj r).2.Canonical := by
  unfold State.bopDecide
  dsimp only
  split
  · split
    · exact h.beginAbort
    · split
      · exact h
      · split
        · exact h.count.beginAbort
        · exact h.count.beginAbort
        · split
          · exact h.count
          · split
            · split
              · exact h.count
              · split <;> exact h.count.beginAbort
            · split
              · exact h.count.modSag.beginAbort
              · split
                · exact h.count.undoLoc.snd ‹_›
                · exact (h.count.undoLoc.snd ‹_›).modSag.pushUndo
  · exact h

protected theorem State.Canonical.bopDone (h : s.Canonical) : Keeps (bopDone s) := h.modMe.complete

protected theorem State.Canonical.bopRun {ref : SpecRef} {obj : Word} {r : List Word} (h : s.Canonical) : Keeps (bopRun ref obj r s) := by
  unfold bopRun
  split
  · exact (h.bopDecide.snd ‹_›).trap
  · exact (h.bopDecide.snd ‹_›).bopDone
  · exact h.bopDecide.snd ‹_›
  · exact (h.bopDecide.snd ‹_›).modMe
  · exact (h.bopDecide.snd ‹_›).hold

protected theorem State.Canonical.bopAgain {q : SpecRef} {x : StrandRef} (h : s.Canonical) : (s.bopAgain q x).Canonical := by
  unfold State.bopAgain
  dsimp only
  split
  · refine .ite h ?_
    split
    · exact (h.bopDecide.snd ‹_›).modStrand.give.ite (h.bopDecide.snd ‹_›).modStrand
    · exact h.bopDecide.snd ‹_›
    · exact (h.bopDecide.snd ‹_›).modStrand
    · exact (h.bopDecide.snd ‹_›).modStrand.give.ite (h.bopDecide.snd ‹_›).modStrand
    · exact (h.bopDecide.snd ‹_›).modStrand.give.ite (h.bopDecide.snd ‹_›).modStrand
  · exact h

protected theorem State.Canonical.releaseLocks {sag : Nat} {q : SpecRef} (h : s.Canonical) : (s.releaseLocks sag q).Canonical :=
  h.modSag.foldl fun h => h.bopAgain

protected theorem State.Canonical.execBop {o : FmtTwo} (h : s.Canonical) : Keeps (execBop o s) := by
  unfold execBop
  refine h.plain fun h => ?_
  split
  · exact h.trapFree
  · extract_lets answered s1
    have h : s1.Canonical := h.modMe.ite h
    clear_value s1
    refine .ite h.bopDone (.ite h.trapFree ?_)
    refine h.ordered fun h => h.readSrc fun {a _} h => h.readSrc fun {b t} h => ?_
    extract_lets go
    have hgo {t : State} (h : t.Canonical) : Keeps (go t) := by
      refine h.readRecord fun h => ?_
      split
      · exact h.trap
      · exact h.bopRun
    clear_value go
    refine .ite (hgo h) ?_
    split
    · exact h.trap
    · exact .ite h.trap (hgo h)
    · exact h.trap

protected theorem State.Canonical.execBopend (h : s.Canonical) : Keeps (execBopend s) := by
  unfold execBopend
  exact h.plain fun h => .ite h.modMe.complete h.trapFree

protected theorem State.Canonical.execSdone (h : s.Canonical) : Keeps (execSdone s) := by
  unfold execSdone
  refine h.plain fun h => ?_
  extract_lets m
  split
  · exact h.trapFree
  · refine .ite h.trapFree (h.withSag fun {g} => ?_)
    exact .ite h.trap (.ite h.hold h.modSpec.endStrand.specEnded)

protected theorem State.Canonical.execSabort {o : FmtSrc} (h : s.Canonical) : Keeps (execSabort o s) := by
  unfold execSabort
  refine h.plain fun h => h.readSrc fun h => ?_
  split
  · exact h.trapFree
  · split
    · exact .ite h.trapFree h.beginAbort
    · split
      · exact h.trapFree
      · exact h.beginAbort

protected theorem State.Canonical.settleSpec {sag : Nat} {t : SpecTask} (h : s.Canonical) : (s.settleSpec sag t).Canonical := h.releaseLocks.modSag

protected theorem State.Canonical.execSpecTaskCommit {sag inst seq : Nat} (h : s.Canonical) : Keeps (execSpecTaskCommit sag inst seq s) := by
  unfold execSpecTaskCommit
  dsimp only
  split
  · refine .ite h (.ite h.settleSpec (.ite h ?_))
    split
    · trivial
    · exact h.commitCtx ‹_›
    · exact (h.commitCtx ‹_›).modSpec.ite (h.commitCtx ‹_›).modSpec.settleSpec
  · exact h

protected theorem State.Canonical.finishAbort {sag : Nat} {ref : SpecRef} (h : s.Canonical) : (s.finishAbort sag ref).Canonical := by
  unfold State.finishAbort
  dsimp only
  split
  · exact h
  · split
    · refine State.Canonical.failInstance ?_
      refine State.Canonical.modSag ?_
      refine State.Canonical.releaseLocks ?_
      refine State.Canonical.modSag ?_
      split
      · exact h.endStrand
      · exact h
    · split
      · refine State.Canonical.settleSpec ?_
        refine State.Canonical.releaseLocks ?_
        refine State.Canonical.modSag ?_
        split
        · exact h.endStrand
        · exact h
      · refine State.Canonical.modSag ?_
        refine State.Canonical.modSpec ?_
        split
        · refine State.Canonical.count ?_
          refine State.Canonical.releaseLocks ?_
          refine State.Canonical.modSag ?_
          split
          · exact h.endStrand
          · exact h
        · refine State.Canonical.releaseLocks ?_
          refine State.Canonical.modSag ?_
          split
          · exact h.endStrand
          · exact h

protected theorem State.Canonical.execSpecAbort {sag inst seq : Nat} (h : s.Canonical) : Keeps (execSpecAbort sag inst seq s) := by
  unfold execSpecAbort
  extract_lets ref tagged us held
  split
  · split
    · exact h
    · extract_lets turn tree mine s1 s2 s3 s4 s5
      have h2 : s2.Canonical := State.Canonical.modSag h
      have h5 : s5.Canonical := (State.Canonical.foldl h2.modSag fun h => h.endStrand).modSpec
      clear_value s2 s5
      exact .ite h (.ite h2 (h5.finishAbort.ite h5))
  · exact h

protected theorem State.Canonical.undoRecord {sag : Nat} {a : Word} (h : s.Canonical) : (s.undoRecord sag a).2.Canonical := by
  unfold State.undoRecord
  split
  · exact canonical_meet _ _ (h.undoLoc.snd ‹_›).wakeHome
  · exact h.undoLoc.snd ‹_›
  · exact h.undoLoc.snd ‹_›

protected theorem State.Canonical.execUndoReplay {sag inst seq core : Nat} (h : s.Canonical) : Keeps (execUndoReplay sag inst seq core s) := by
  unfold execUndoReplay
  dsimp only
  split
  · split
    · split
      · exact h
      · refine .ite h.finishAbort ?_
        split
        · exact h
        · split
          · exact h.undoRecord.snd ‹_›
          · exact (h.undoRecord.snd ‹_›).modSpec.enter.wakeUnit
    · split
      · exact h
      · refine .ite h.finishAbort ?_
        split
        · exact h
        · split
          · exact h.undoRecord.snd ‹_›
          · exact (h.undoRecord.snd ‹_›).modSpec.enter.wakeUnit
  · exact h

protected theorem State.Canonical.execUend (h : s.Canonical) : Keeps (execUend s) := by
  unfold execUend
  refine h.plain fun h => ?_
  dsimp only
  split
  · exact h.trapFree
  · refine .ite h.trapFree (.ite h.hold ?_)
    refine h.releasing fun h => ?_
    split
    · exact .ite h.finishAbort h.stopForAbort
    · exact h.endStrand

protected theorem State.Canonical.execCload {o : FmtSrc} (h : s.Canonical) : Keeps (execCload o s) := by
  unfold execCload
  refine h.checked fun h => h.ordered fun h => h.readSrc fun h => h.readRecord fun h => ?_
  dsimp only
  split
  · exact h.trap
  · split
    · split
      · exact h.trap
      · exact h.modSag.complete
    · refine h.readRecordOf fun h => ?_
      split
      · exact h.trap
      · exact h.modSag.complete

/-! What Machine/Scheduler keeps. -/

protected theorem State.Canonical.mapRun {comp : Nat} {g : Saggar} {key : Nat} {perm : Word} {n va pa : Nat} {frames : List Nat} (h : s.Canonical) :
    ∀ {t l}, State.mapRun comp g key perm n va pa frames s = some (t, l) → t.Canonical := by
  induction n generalizing s va pa frames with
  | zero =>
    rintro _ _ ⟨⟩
    exact h
  | succ n ih =>
    unfold State.mapRun
    intro _ _
    extract_lets leaf
    split
    · nofun
    · next t _ e =>
      have ht : t.Canonical := by
        split at e
        · exact h.writeLeaf e
        · cases e
      exact ih ht

/-- `mapRun` is made a variable, as `translate` is in `placesKeep_commitPlaces`: the kernel would evaluate it. -/
protected theorem State.Canonical.execImageLoad {b : ImageRec} (h : s.Canonical) : Keeps (execImageLoad b s) := by
  have hM {c g k p n va pa l s t l'} (h : s.Canonical) (e : State.mapRun c g k p n va pa l s = some (t, l')) : t.Canonical := h.mapRun e
  unfold execImageLoad
  generalize State.mapRun = M at hM
  revert M
  refine id fun M hM => ?_
  split
  · exact h
  · refine .ite h ?_
    split
    next e0 =>
    have hc := h.someCompositor.snd e0
    split
    · exact hc
    · next e1 =>
      have h := hM hc e1
      split
      · exact hc
      · next e2 =>
        have h := hM h e2
        have h a b c d a' b' c' d' := canonical_underKey a b c d (canonical_underKey a' b' c' d' h)
        exact (State.Canonical.foldl (State.Canonical.outsideWrite (State.Canonical.outsideWrite (h ..))) fun h => h.outsideWrite).modSag

protected theorem State.Canonical.execGraphUpload {sag : Nat} {g : GraphRec} (h : s.Canonical) : Keeps (execGraphUpload sag g s) := by
  unfold execGraphUpload
  split
  · exact .ite h.modSag h
  · exact h

protected theorem State.Canonical.accept {sag : Nat} {p : LaunchRec} {host : Bool} (h : s.Canonical) : (s.accept sag p host).Canonical := h.modSag

protected theorem State.Canonical.execTrigger {sag : Nat} {p : LaunchRec} (h : s.Canonical) : Keeps (execTrigger sag p s) := by
  unfold execTrigger
  dsimp only
  split
  · exact (h.same (by rfl)).ite (h.same (by rfl))
  · split
    · exact .ite h (.ite h (.ite h h.accept))
    · split
      · exact h
      · split
        · exact h
        · split
          · exact h
          · exact h.accept

protected theorem State.Canonical.execLaunch {o : FmtUn} (h : s.Canonical) : Keeps (execLaunch o s) := by
  unfold execLaunch
  refine h.plain fun h => h.ordered fun h => h.withDst fun h => h.readSrc fun h => h.readRecord fun h => h.withSag fun {g} => ?_
  split
  · exact h.trap
  · extract_lets n list size go
    have hgo {ps} {t : State} (h : t.Canonical) : Keeps (go ps t) := by
      unfold go
      extract_lets patches
      split
      · exact h.trap
      · exact h.releasing fun h => .ite h.hold (.ite h.finish h.accept.finish)
    exact .ite (hgo h) (h.readRecord hgo)

protected theorem State.Canonical.execInstanceLeavesPool {sag : Nat} (h : s.Canonical) : Keeps (execInstanceLeavesPool sag s) := by
  unfold execInstanceLeavesPool
  split
  · split
    · split <;> exact h
    · exact h
  · exact h

protected theorem State.Canonical.execLeaseResidency {sag : Nat} {m : List MigrateRec} (h : s.Canonical) : Keeps (execLeaseResidency sag m s) := by
  unfold execLeaseResidency
  split
  · split
    · exact (h.resideAll ‹_›).modSag
    · exact h
  · exact h

protected theorem State.Canonical.seedCore {c b : Nat} {slots : List Nat} {f : Nat → Strand → Strand} (h : s.Canonical) :
    (s.seedCore c b slots f).Canonical :=
  ((h.modCore.ite h).foldl fun h => h.enter).wakeUnit

protected theorem State.Canonical.execTaskDispatch {sag : Nat} (h : s.Canonical) : Keeps (execTaskDispatch sag s) := by
  unfold execTaskDispatch
  dsimp only
  split
  · exact h
  · split
    · exact h
    · split
      · exact h
      · split
        · exact h
        · split
          · exact h
          · split
            · exact h
            · split <;> exact .ite h (h.modSag.foldl fun h => h.modCluster.foldl fun h => h.seedCore)

protected theorem State.Canonical.execTaskCompletion {sag task : Nat} (h : s.Canonical) : Keeps (execTaskCompletion sag task s) := by
  unfold execTaskCompletion
  split
  · exact h
  · split
    · exact h
    · split <;> exact h

protected theorem State.Canonical.signalAdd {sag loc : Nat} {v : Word} (h : s.Canonical) : ∀ {t}, s.signalAdd sag loc v = some t → t.Canonical := by
  unfold State.signalAdd
  intro _
  dsimp only
  split
  · nofun
  · split
    · rintro ⟨⟩
      exact (canonical_meet _ _ h).count
    · split
      · rintro ⟨⟩
        exact (canonical_meet _ _ h).count
      · split
        · rintro ⟨⟩
          exact ((canonical_meet _ _ h).same (by rfl)).reach
        · rintro ⟨⟩
          exact (canonical_setDword _ _ (canonical_meet _ _ h).wakeHome).changed

protected theorem State.Canonical.signalEnd {sag : Nat} {i : Instance} {v : Word} (h : s.Canonical) :
    ∀ {x t}, s.signalEnd sag i v = .ok (x, t) → t.Canonical := by
  have hT {s i kd va n} (h : s.Canonical) : (translate s i kd va n).2.Canonical := h.translate
  unfold State.signalEnd
  generalize translate = T at hT
  revert T
  refine id fun T hT x t => ?_
  extract_lets add
  have hadd {loc s} (h : s.Canonical) : add loc s = .ok (x, t) → t.Canonical := by
    unfold add
    split
    · rintro ⟨⟩
      exact h.signalAdd ‹_›
    · rintro ⟨⟩
      exact h
  split
  · exact hadd h
  · split
    · rintro ⟨⟩
      exact h
    · split
      · exact hadd ((hT h).snd ‹_›)
      · rintro ⟨⟩
        exact (hT h).snd ‹_›
      · rintro ⟨⟩
        exact (hT h).snd ‹_›
      · nofun
      · rintro ⟨⟩
        exact ((hT h).snd ‹_›).count

protected theorem State.Canonical.execInstanceEnd {sag inst : Nat} (h : s.Canonical) : Keeps (execInstanceEnd sag inst s) := by
  unfold execInstanceEnd
  split
  · exact h
  · split
    · exact h
    · next i _ =>
      refine .ite h ?_
      extract_lets v
      have hsig {t b} (e : (if i.sig = 0 then .ok (true, s) else s.signalEnd sag i v) = Except.ok (b, t)) : t.Canonical := by
        split at e
        · cases e
          exact h
        · exact h.signalEnd e
      split
      · trivial
      · exact hsig ‹_›
      · next e =>
        have ht := hsig e
        exact State.Canonical.modSag ((ht.same (by rfl)).ite ht)

/-! What Machine/Saggars keeps. -/

protected theorem State.Canonical.refuse (h : s.Canonical) : s.refuse.Canonical := h

protected theorem State.Canonical.execPartitionWordWrite {sag : Nat} {w : Word} (h : s.Canonical) : Keeps (execPartitionWordWrite sag w s) := by
  unfold execPartitionWordWrite
  refine .ite h.refuse ?_
  split <;> exact h

protected theorem State.Canonical.execEnergyClassWrite {sag : Nat} {w : Word} (h : s.Canonical) : Keeps (execEnergyClassWrite sag w s) := by
  unfold execEnergyClassWrite
  exact .ite h.modSag h.refuse

protected theorem State.Canonical.passCores {cls : List Nat} {tenant : Option Nat} {heapb heapl heapo : Word} (h : s.Canonical) :
    (s.passCores cls tenant heapb heapl heapo).Canonical :=
  h.foldl fun h => h.foldl fun h => h.modCore

protected theorem State.Canonical.execSaggarForm {b : SaggarRec} (h : s.Canonical) : Keeps (execSaggarForm b s) := by
  unfold execSaggarForm
  exact .ite h.refuse h.passCores

protected theorem State.Canonical.execSaggarDissolve {sag : Nat} (h : s.Canonical) : Keeps (execSaggarDissolve sag s) := by
  unfold execSaggarDissolve
  split
  · exact h
  · extract_lets cls saved busy mine init s1 s2 s3 keep s4
    refine .ite h ?_
    have h : s1.Canonical := h.foldl fun h => h.modCluster
    have h : s3.Canonical := State.Canonical.passCores h
    have h : s4.someCompositor.2.Canonical := State.Canonical.someCompositor h
    exact (State.Canonical.foldl h fun h => h.freeGroups').logEdit.relaxPower

protected theorem State.Canonical.execTenantDrop {k : Nat} (h : s.Canonical) : Keeps (execTenantDrop k s) := by
  unfold execTenantDrop
  dsimp only
  split
  · split
    · exact h
    · split
      · exact h
      · exact ((h.same (by rfl)).foldl fun h => h.foldl fun h => h.stopCore).foldl fun h => h.failTask
  · exact h

/-! What Machine/ScalarFp keeps. -/

protected theorem State.Canonical.sfp {dbl long : Bool} {f : FOp} {o : FmtA} (h : s.Canonical) : Keeps (sfp dbl long f o s) := by
  unfold sfp
  exact h.checked fun h => h.withDst fun h => h.two fun h => .ite h.consume.modMe.longLatency h.consume.modMe.finish

protected theorem State.Canonical.sfpSqrt {dbl : Bool} {o : FmtUn} (h : s.Canonical) : Keeps (sfpSqrt dbl o s) :=
  h.checked fun h => h.withDst fun h => h.readSrc fun h => h.consume.modMe.longLatency

protected theorem State.Canonical.sfma {dbl minus : Bool} {o : FmtA} (h : s.Canonical) : Keeps (sfma dbl minus o s) :=
  h.checked fun h => h.withDst fun h => h.two fun h => h.readSrc fun h => h.consume.modMe.finish

protected theorem State.Canonical.scvt {conv : Nat → Bool → Word → Nat × Nat} {o : FmtUn} (h : s.Canonical) : Keeps (scvt conv o s) :=
  h.checked fun h => h.withDst fun h => h.readSrc fun h => h.consume.modMe.finish

protected theorem State.Canonical.scmp {dbl : Bool} {f : COp} {o : FmtA} (h : s.Canonical) : Keeps (scmp dbl f o s) :=
  h.plain fun h => h.withDst fun h => h.two fun h => h.modMe.finish

/-! What Machine/Dispatch keeps. -/

protected theorem State.Canonical.execPreemptSave (core : Nat) (ws : List WithdrawRec) (h : s.Canonical) : Keeps (execPreemptSave core ws s) := by
  unfold execPreemptSave
  refine .ite h ?_
  extract_lets s1 cl
  have h : s1.Canonical := h.haltCore
  clear_value s1
  refine .ite h ?_
  split
  · exact h
  · exact (h.withdrawAll ‹_›).takeOut

protected theorem State.Canonical.exec {i : Instr} (h : s.Canonical) : Keeps (exec i s) := by
  cases i with
  | aluAdd | aluSub | aluAnd | aluOr | aluXor | aluShl | aluShr | aluSar | aluSlt | aluSltu | aluMin | aluMax | aluMinu | aluMaxu | aluAndn | aluOrn
  | aluwAddw | aluwSubw | aluwShlw | aluwShrw | aluwSarw | bitsBext | bitsBdep | bitsSext | addrMkloc | addrMkrel => exact h.binary
  | mulMul | mulMulh | mulMulhu | mulDiv | mulDivu | mulRem | mulRemu => exact h.longBinary
  | bitsClz | bitsCtz | bitsPopc | bitsBrev | addrGetx | addrGety | addrGetc | addrGetdie => exact h.unary
  | addi | andi | ori | xori => exact h.immediate
  | shli | shri | sari | roti => exact h.shiftImm
  | slti => exact h.execSlti
  | sltiu => exact h.execSltiu
  | ldi => exact h.execLdi
  | ldih => exact h.execLdih
  | sfpFaddS | sfpFsubS | sfpFmulS | sfpFdivS | sfpFminS | sfpFmaxS | sfpFaddD | sfpFsubD | sfpFmulD | sfpFdivD | sfpFminD | sfpFmaxD => exact h.sfp
  | sfpFsqrtS | sfpFsqrtD => exact h.sfpSqrt
  | sfmaFmaS | sfmaFmsS | sfmaFmaD | sfmaFmsD => exact h.sfma
  | scvtDS | scvtSD | scvtSL | scvtDL | scvtLS | scvtLD | scvtSLu | scvtDLu | scvtLuS | scvtLuD | scvtBfS | scvtSBf | scvtHS | scvtSH => exact h.scvt
  | scmpFeqS | scmpFltS | scmpFleS | scmpFunordS | scmpFeqD | scmpFltD | scmpFleD | scmpFunordD => exact h.scmp
  | mfs => exact h.execMfs
  | mts => exact h.execMts
  | brEq | brNe | brLt | brGe | brLtu | brGeu => exact h.branch2
  | bzEq0 | bzNe0 | bzLt0 | bzGe0 | bzGt0 | bzLe0 => exact h.branch1
  | jmp => exact h.execJmp
  | call => exact h.execCall
  | jr => exact h.execJr
  | callr => exact h.execCallr
  | ret => exact h.execRet
  | loop => exact h.execLoop
  | iloop => exact h.execIloop
  | iloopClaimReply => exact h.execIloopClaimReply
  | pfx => exact h.execPfx
  | strandStart => exact h.execStrandStart
  | strandHalt => exact h.execStrandHalt
  | strandSlot => exact h.execStrandSlot
  | strandQbind => exact h.execStrandQbind
  | trap => exact h.execTrap
  | brk => exact h.execBrk
  | sysc => exact h.execSysc
  | eret => exact h.execEret
  | sysopTlbinv => exact h.execSysopTlbinv
  | sysopStopcore => exact h.execSysopStopcore
  | sysopResumecore => exact h.execSysopResumecore
  | sysopSample => exact h.execSysopSample
  | sysopDump => exact h.execSysopDump
  | ld | ldu => exact h.loadM
  | st => exact h.execSt
  | ldx => exact h.execLdx
  | ldfeLeave | ldfeTake | ldfeState => exact h.ldfe
  | stfeFill | stfeForce | stfeEmpty => exact h.stfe
  | feOpAtHome => exact h.execFeOpAtHome
  | waiterRetryBackoff => exact h.execWaiterRetryBackoff
  | amoSwap | amoCas | amoAdd | amoAnd | amoOr | amoXor | amoMax | amoMin | amo2Maxu | amo2Minu | amo2FaddS | amo2FaddBf => exact h.amo
  | redAdd | redAnd | redOr | redXor | redMax | redMin | redFaddS | redFaddBf => exact h.red
  | fenceAcq => exact h.fence
  | fenceRel => exact h.execFenceRel
  | fenceFull => exact h.execFenceFull
  | fenceWred => exact h.execFenceWred
  | fenceWrep => exact h.execFenceWrep
  | lda => exact h.execLda
  | stl => exact h.execStl
  | ldb => exact h.execLdb
  | stb => exact h.execStb
  | pref => exact h.execPref
  | send => exact h.execSend
  | recv => exact h.execRecv
  | rprobe => exact h.execRprobe
  | put => exact h.execPut
  | mput => exact h.execMput
  | messageArrival => exact h.execMessageArrival
  | putDelivery => exact h.execPutDelivery
  | mputVisit => exact h.execMputVisit
  | barInit => exact h.execBarInit
  | barArrive => exact h.execBarArrive
  | barWait => exact h.execBarWait
  | barArrwait => exact h.execBarArrwait
  | barInval => exact h.execBarInval
  | barQuery => exact h.execBarQuery
  | remoteBarOp => exact h.execRemoteBarOp
  | tagwWaitany => exact h.execTagwWaitany
  | tagwWaitall => exact h.execTagwWaitall
  | tagwFfr => exact h.execTagwFfr
  | tagwClr => exact h.execTagwClr
  | spawn => exact h.execSpawn
  | spawnRequest => exact h.execSpawnRequest
  | qpush => exact h.execQpush
  | qpop | qpopNb => exact h.qpopForm
  | qpopv | qpopvNb => exact h.qpopvForm
  | queueRefill => exact h.execQueueRefill
  | launch => exact h.execLaunch
  | signal => exact h.execSignal
  | swait => exact h.execSwait
  | vfAdd | vfSub | vfMul | vfDiv | vfMin | vfMax | vfCopysign | vfmaFma | vfmaFms | vfmaFnma | vfmaFnms | vfxFscale => exact h.laneTwo
  | vfAbs | vfNeg
  | vfxFrintN | vfxFrintZ | vfxFrintU | vfxFrintD | vfxFexpf | vfxFgetexp | vfxFgetman | vfxFrcp | vfxFrsq | vfxFclass | vfxFsqrt => exact h.laneOne
  | viAdd | viSub | viMul | viMulh | viMin | viMax | viMinu | viMaxu | viAnd | viOr | viXor | viShl | viShr | viSar | viAndn => exact h.vi
  | vcmpFeq | vcmpFne | vcmpFlt | vcmpFle | vcmpFunord | vcmpIeq | vcmpIne | vcmpIlt | vcmpIle | vcmpIltu => exact h.vcmp
  | vmskSel => exact h.execVmskSel
  | vmskMand => exact h.execVmskMand
  | vmskMor => exact h.execVmskMor
  | vmskMxor => exact h.execVmskMxor
  | vmskMnot => exact h.execVmskMnot
  | vmskMpop => exact h.execVmskMpop
  | vmskMfirst => exact h.execVmskMfirst
  | vmskMset => exact h.execVmskMset
  | vcvt => exact h.execVcvt
  | vpermBcast | vpermShup | vpermShdn => exact h.vpermS
  | vpermPerm => exact h.execVpermPerm
  | vpermComp => exact h.execVpermComp
  | vpermExpd => exact h.execVpermExpd
  | vpermRev => exact h.execVpermRev
  | vredFsum | vredFmax | vredFmin | vredIsum | vredImax | vredImin => exact h.vred
  | vredFsumQ | vredFmaxQ | vredFminQ | vredIsumQ | vredImaxQ | vredIminQ => exact h.vredQ
  | vmovVtos => exact h.execVmovVtos
  | vmovStov => exact h.execVmovStov
  | vmovVmv => exact h.execVmovVmv
  | laneClaim => exact h.execLaneClaim
  | laneRel => exact h.execLaneRel
  | laneSync => exact h.execLaneSync
  | laneQuery => exact h.execLaneQuery
  | laneGrant => exact h.execLaneGrant
  | shrinkTakesEffect => exact h.execShrinkTakesEffect
  | vld => exact h.execVld
  | vst => exact h.execVst
  | vlds => exact h.execVlds
  | vsts => exact h.execVsts
  | vgat => exact h.execVgat
  | vsca => exact h.execVsca
  | vldb => exact h.execVldb
  | vstb => exact h.execVstb
  | vaddF32 | vsubF32 | vmulF32 | vmaxF32 | vminF32 | vabsF32 | vnegF32 => exact h.laneN
  | vaddI32 => exact h.execVaddI32
  | vsubI32 => exact h.execVsubI32
  | vand => exact h.execVand
  | vor => exact h.execVor
  | vxor => exact h.execVxor
  | vshlI32 => exact h.execVshlI32
  | vshrI32 => exact h.execVshrI32
  | vmv => exact h.execVmv
  | vmulI32 => exact h.execVmulI32
  | copy | copyFo => exact h.copyForm
  | mmld | mmrun | mmst => exact h.matrixForm
  | mmsw => exact h.execMmsw
  | jwaitPoll => exact h.execJwaitPoll
  | jwaitSleep => exact h.execJwaitSleep
  | jwaitAny => exact h.execJwaitAny
  | gath | coll => exact h.engineOps fun h => h.readRecord fun h => h.limits fun h => h.place
  | enginePlacement => exact h.execEnginePlacement
  | jobStart => exact h.execJobStart
  | jobCompletion => exact h.execJobCompletion
  | followonPlacement => exact h.execFollowonPlacement
  | collRoundClose => exact h.execCollRoundClose
  | ebudRefill => exact h.execEbudRefill
  | tcall => exact h.execTcall
  | tans => exact h.execTans
  | tret => exact h.execTret
  | tnextNext => exact h.execTnextNext
  | tnextClose => exact h.execTnextClose
  | twait => exact h.execTwait
  | tend => exact h.execTend
  | tabol => exact h.execTabol
  | tstat => exact h.execTstat
  | galleyHomeRequest => exact h.execGalleyHomeRequest
  | continuationInvocation => exact h.execContinuationInvocation
  | coneCountUpdate => exact h.execConeCountUpdate
  | groupMerge => exact h.execGroupMerge
  | completionNotice => exact h.execCompletionNotice
  | groupFailure => exact h.execGroupFailure
  | failureNotice => exact h.execFailureNotice
  | galleySoftError => exact h.execGalleySoftError
  | ctalloc | ctallocNb => exact h.ctallocForm
  | ctenter => exact h.execCtenter
  | ctretireCommit => exact h.execCtretireCommit
  | ctretireDiscard => exact h.execCtretireDiscard
  | ctphase => exact h.execCtphase
  | ctq => exact h.execCtq
  | tagGrant => exact h.execTagGrant
  | sspawnOrdered | sspawnUnordered => exact h.sspawnForm
  | bop => exact h.execBop
  | bopend => exact h.execBopend
  | sdone => exact h.execSdone
  | sabort => exact h.execSabort
  | uend => exact h.execUend
  | cload => exact h.execCload
  | specTaskDispatch => exact h.execSpecTaskDispatch
  | specTaskCommit => exact h.execSpecTaskCommit
  | specAbort => exact h.execSpecAbort
  | undoReplay => exact h.execUndoReplay
  | strandWake => exact h.execStrandWake
  | longLatencyResult => exact h.execLongLatencyResult
  | loadDataReturn => exact h.execLoadDataReturn
  | homeReply => exact h.execHomeReply
  | nonreturningUpdateApplied => exact h.execNonreturningUpdateApplied
  | homeAccess => exact h.execHomeAccess
  | replayRetry => exact h.execReplayRetry
  | pendingWriteDrain => exact h.execPendingWriteDrain
  | deviceReset => exact h.execDeviceReset
  | bootStage1 => exact (h.romTries.ite h).unitsUp
  | bootStage2 => exact h.execBootStage2
  | compositorReportTimeout => exact h.execCompositorReportTimeout
  | imageLoad => exact h.execImageLoad
  | graphUpload => exact h.execGraphUpload
  | graphFree => exact h.modSag
  | trigger => exact h.execTrigger
  | instanceLeavesPool => exact h.execInstanceLeavesPool
  | leaseResidency => exact h.execLeaseResidency
  | taskDispatch => exact h.execTaskDispatch
  | taskCompletion => exact h.execTaskCompletion
  | instanceEnd => exact h.execInstanceEnd
  | pageMove => exact h.execPageMove
  | saggarForm => exact h.execSaggarForm
  | saggarDissolve => exact h.execSaggarDissolve
  | tenantDrop => exact h.execTenantDrop
  | preemptSave core ws => exact h.execPreemptSave core ws
  | preemptResume => exact h.execPreemptResume
  | debugStop => exact h.stopCore
  | debugResume => exact h.resumeCore
  | samplePulse => exact h.latchPulse
  | hostPortAccess => exact h.execHostPortAccess
  | fabricMessageReceive => exact h.execFabricMessageReceive
  | fabricAck => exact h.execFabricAck
  | linkFailure => exact h.execLinkFailure
  | linkUp => exact h.execLinkUp
  | peerChannelRetire => exact h.execPeerChannelRetire
  | class3CreditRefill => exact h.execClass3CreditRefill
  | repairTableReload => exact h.execRepairTableReload
  | keyLoad => exact h.execKeyLoad
  | spdmMeasurement => exact h.execSpdmMeasurement
  | frequencyStep => exact h.execFrequencyStep
  | relockEnd => exact h.execRelockEnd
  | powerStateEntry => exact h.execPowerStateEntry
  | powerStateExit => exact h.execPowerStateExit
  | partitionWordWrite => exact h.execPartitionWordWrite
  | energyClassWrite => exact h.execEnergyClassWrite
  | registerWrite => exact h.execRegisterWrite
  | nonInstruction | fetchFault => exact h.modMe.trap
  | storeAcknowledgement => exact h.execStoreAcknowledgement
  | coneAcknowledgement => exact h.execConeAcknowledgement
  | dirtyLogService => exact h.execDirtyLogService
  | pageTableEdit => exact h.execPageTableEdit

/-! What Machine/Cycle keeps. -/

protected theorem State.Canonical.runStrand (h : s.Canonical) : Keeps (runStrand s) := by
  unfold runStrand
  refine .ite h.finishReply (.ite h.claimAgain ?_)
  split
  · exact h.exec
  · split
    · trivial
    · exact (h.fetch ‹_›).modMe.exec

protected theorem State.Canonical.beat {c : Nat} (h : s.Canonical) : ∀ {t}, s.beat c = some t → t.Canonical := by
  unfold State.beat
  intro _
  split
  · exact fun e => h.atBeat e
  · nofun

protected theorem State.Canonical.turn {c : Nat} (h : s.Canonical) : ∀ {t}, s.turn c = some t → t.Canonical := by
  unfold State.turn
  intro t e
  obtain ⟨u, hu, rfl⟩ := Option.map_eq_some_iff.mp e
  exact (h.beat hu).stallTick

protected theorem State.Canonical.finishing {c : Nat} (h : s.Canonical) : ∀ {t}, s.finishing c = some t → t.Canonical := by
  unfold State.finishing
  intro _
  split
  · split
    · rintro ⟨⟩
      exact ((h.beat ‹_›).same (by rfl))
    · nofun
  · nofun

theorem Keeps.stepped {on : Bool} {c : Nat} {o : Out} (h : Keeps o) : Keeps (stepped on c o) := by
  unfold Machine.stepped
  split
  · exact State.Canonical.ite (State.Canonical.backOffAll h) h
  · exact h

protected theorem State.Canonical.coreCycle {c : Nat} (h : s.Canonical) : Keeps (coreCycle c s) := by
  unfold coreCycle
  split
  · exact (h.finishing ‹_›).runStrand
  · split
    · next ht =>
      have h := h.turn ht
      split
      · exact h.focus.runStrand.stepped
      · exact Keeps.stepped (o := .next _) h.idle
    · exact h

/-! What Machine/Step keeps. -/

protected theorem State.Canonical.step (h : s.Canonical) : Keeps (step s) := by
  unfold step
  split
  · exact h.coreCycle
  · exact (h.same (by rfl)).coreCycle
  · exact (h.same (by rfl)).elapse
  · exact (h.same (by rfl)).exec
  · exact canonical_upset _ _ (h.same (by rfl))
  · exact (h.same (by rfl)).upsetQueue
  · exact (h.same (by rfl)).upsetCell
  · exact (h.same (by rfl)).upsetTable

end Sys2Proof.Machine
end

section
namespace Sys2Proof.Machine

/-- Settles O1: reset lists nothing, so every read takes its default. -/
theorem resetIsCanonical : Obligations.ResetIsCanonical :=
  ⟨⟨rfl, rfl, rfl⟩, fun _ => ⟨rfl, rfl, rfl⟩⟩

/-- Settles O2, by the lemma on `step` at the end of the layer above. -/
theorem stepKeepsCanonicalMemory : Obligations.StepKeepsCanonicalMemory := by
  intro s t h e
  have hs : Keeps (step s) := h.step
  rw [e] at hs
  exact hs

end Sys2Proof.Machine
end

/-! Repair tables of a stack that a state lists twice. -/
section
namespace Sys2Proof.Machine

/-- A peer's message in sequence: a write to a byte of pseudo-channel 0 of stack 0. -/
def heldWrite : FabricMsg := ⟨0, 0, 0, 0, 0, .write [0]⟩

/-- The peer, with that message held. -/
def holdingPeer : Peer := ⟨0, 0, 0, 0, 0, [heldWrite], [], [], [], [], 0, 0, 0, []⟩

/-- The state at reset with that peer, and with stack 0 listed twice: the second entry has the error in the table of pseudo-channel 0. The
statement asks for no order of the keys. -/
def stackTwice : State :=
  { State.reset with repair := [(0, Repair.init), (0, { Repair.init with struck := [0] })], peers := [holdingPeer] }

/-- A reload changes the first entry of a stack. -/
theorem reload_stackTwice : exec (.repairTableReload 0 0 true) stackTwice =
    .next { stackTwice with repair := [(0, { Repair.init with reloads := sat1 0 }), (0, { Repair.init with struck := [0] })] } := by
  rfl

/-- Refutes O57: in `stackTwice` the error stands in an entry that the reload does not reach, as `tableWaits` looks at every entry and `Tbl.upd`
changes the first. The held message waits on, against the last clause on repair tables. -/
theorem not_bootKeysAndRepair : ¬ Obligations.BootKeysAndRepair := by
  unfold Obligations.BootKeysAndRepair
  rintro ⟨-, -, -, -, -, -, -, htables⟩
  obtain ⟨-, -, hserved⟩ := htables 0 0 stackTwice (by decide) (by decide)
  obtain ⟨t, ht, hpeers⟩ := hserved holdingPeer heldWrite rfl rfl rfl rfl (by decide)
  obtain rfl := Host.Outcome.next.inj (reload_stackTwice.symm.trans ht)
  exact absurd hpeers (by decide)

end Sys2Proof.Machine
end

/-! The encoder against the decoder (O3, O5). A word is a header, the constant of its form, plus the fields of its format. The bits of a format stay within a
mask that no header of the format touches, so that nothing carries: a field of the mask reads as it was written, and every other field (the major, the form code,
the fields that must be zero) reads as the header has it. `F.within` states the mask of the format F and `F.read_bits` that F reads back what it wrote; each form is then its
row of the decoder's table. -/
section
namespace Sys2Proof

/-- Numbers that share no bit add without a carry. -/
theorem add_eq_or_of_and_eq_zero {a b : Nat} (h : a &&& b = 0) : a + b = a ||| b := by
  have hlt : a + b < 2 ^ (a + b) := Nat.lt_two_pow_self
  have ha : a < 2 ^ (a + b) := by omega
  have hb : b < 2 ^ (a + b) := by omega
  have hv := BitVec.add_eq_or_of_and_eq_zero (BitVec.ofNat (a + b) a) (BitVec.ofNat (a + b) b)
    (BitVec.eq_of_toNat_eq (by simp [Nat.mod_eq_of_lt ha, Nat.mod_eq_of_lt hb, h]))
  simpa [Nat.mod_eq_of_lt, ha, hb, hlt] using congrArg BitVec.toNat hv

/-- b sets no bit outside the mask m. -/
def Within (b m : Nat) : Prop := b &&& m = b

theorem within_field {n : Nat} (v : BitVec n) (lo : Nat) : Within (v.toNat * 2 ^ lo) ((2 ^ n - 1) * 2 ^ lo) := by
  unfold Within
  rw [← Nat.shiftLeft_eq, ← Nat.shiftLeft_eq, ← Nat.shiftLeft_and_distrib, Nat.and_two_pow_sub_one_eq_mod, Nat.mod_eq_of_lt v.isLt]

theorem within_flag (x : Bool) (lo : Nat) : Within (x.toNat * 2 ^ lo) (2 ^ lo) := by
  cases x <;> simp [Within]

variable {b c m lo n : Nat}

theorem Within.and_eq_zero (hb : Within b m) (h : c &&& m = 0) : c &&& b = 0 := by
  rw [← hb, Nat.and_comm b m, ← Nat.and_assoc, h, Nat.zero_and]

theorem Within.add {b' m' : Nat} (hb : Within b m) (hb' : Within b' m') (h : m &&& m' = 0) : Within (b + b') (m ||| m') := by
  have hz : b &&& b' = 0 := by
    rw [← hb', Nat.and_comm b' m', ← Nat.and_assoc, ← hb, Nat.and_assoc b, h, Nat.and_zero, Nat.zero_and]
  have hm : b &&& m' = 0 := by rw [← hb, Nat.and_assoc, h, Nat.and_zero]
  have hm' : b' &&& m = 0 := by rw [← hb', Nat.and_assoc, Nat.and_comm m', h, Nat.and_zero]
  unfold Within at *
  rw [add_eq_or_of_and_eq_zero hz, Nat.and_or_distrib_right, Nat.and_or_distrib_left, Nat.and_or_distrib_left, hb, hb', hm, hm', Nat.or_zero, Nat.zero_or]

theorem Within.le (hb : Within b m) : b ≤ m := by
  rw [← hb]
  exact Nat.and_le_right

/-- Bits that a mask leaves out read as the header has them. -/
theorem Within.field_add (hb : Within b m) (h : c &&& m = 0) (hf : m / 2 ^ lo % 2 ^ n = 0) :
    (c + b) / 2 ^ lo % 2 ^ n = c / 2 ^ lo % 2 ^ n := by
  have hz : b / 2 ^ lo % 2 ^ n = 0 := by
    rw [← hb, Nat.and_div_two_pow, Nat.and_mod_two_pow, hf, Nat.and_zero]
  rw [add_eq_or_of_and_eq_zero (hb.and_eq_zero h), Nat.or_div_two_pow, Nat.or_mod_two_pow, hz, Nat.or_zero]

/-- Bits that a header leaves clear read as the fields have them. -/
theorem Within.field_add_right (hb : Within b m) (h : c &&& m = 0) (hf : c / 2 ^ lo % 2 ^ n = 0) :
    (c + b) / 2 ^ lo % 2 ^ n = b / 2 ^ lo % 2 ^ n := by
  rw [add_eq_or_of_and_eq_zero (hb.and_eq_zero h), Nat.or_div_two_pow, Nat.or_mod_two_pow, hf, Nat.zero_or]

theorem fieldAt_eq {w : Nat} {v : BitVec n} (h : w / 2 ^ lo % 2 ^ n = v.toNat) : fieldAt n w lo = v :=
  BitVec.eq_of_toNat_eq (by rw [fieldAt, BitVec.toNat_ofNat, h])

theorem bitAt_eq {w : Nat} {x : Bool} (h : w / 2 ^ lo % 2 = x.toNat) : bitAt w lo = x := by
  cases x <;> simp [bitAt, h]

/-- The bits of a header that lie in a field of the mask are clear. -/
theorem field_eq_zero (h : c &&& m = 0) (hf : m / 2 ^ lo % 2 ^ n = 2 ^ n - 1) : c / 2 ^ lo % 2 ^ n = 0 := by
  have hz : (c / 2 ^ lo &&& m / 2 ^ lo) % 2 ^ n = 0 := by rw [← Nat.and_div_two_pow, h]; simp
  rw [Nat.and_mod_two_pow, hf, Nat.and_two_pow_sub_one_eq_mod, Nat.mod_mod] at hz
  exact hz

theorem Within.fieldAt_add (hb : Within b m) (h : c &&& m = 0) (hf : m / 2 ^ lo % 2 ^ n = 2 ^ n - 1) :
    fieldAt n (c + b) lo = fieldAt n b lo :=
  fieldAt_eq (by rw [hb.field_add_right h (field_eq_zero h hf), fieldAt, BitVec.toNat_ofNat])

theorem Within.bitAt_add (hb : Within b m) (h : c &&& m = 0) (hf : m / 2 ^ lo % 2 ^ 1 = 2 ^ 1 - 1) :
    bitAt (c + b) lo = bitAt b lo := by
  have he := hb.field_add_right h (field_eq_zero h hf)
  rw [Nat.pow_one] at he
  rw [bitAt, bitAt, he]

/-- The major opcode is that of the header (R73). -/
theorem Within.major (hb : Within b m) {k : Nat} (h : c &&& m = 0) (hm : m / 2 % 128 = 0) (hk : c / 2 % 128 = k) : (c + b) / 2 % 128 = k :=
  hk ▸ hb.field_add (lo := 1) (n := 7) h hm

/-- The operation of a 16-bit instruction is that of the header (R69). -/
theorem Within.major_short (hb : Within b m) {k : Nat} (h : c &&& m = 0) (hm : m / 2 % 16 = 0) (hk : c / 2 % 16 = k) : (c + b) / 2 % 16 = k :=
  hk ▸ hb.field_add (lo := 1) (n := 4) h hm

/-- A field that the header and the mask leave clear is clear. -/
theorem Within.clear (hb : Within b m) (h : c &&& m = 0) (hm : m / 2 ^ lo % 2 ^ n = 0) (hc : c / 2 ^ lo % 2 ^ n = 0) : (c + b) / 2 ^ lo % 2 ^ n = 0 := by
  rw [hb.field_add h hm, hc]

/-- The four bytes of a word put together again. -/
theorem bytes_sum {w : Nat} (h : w < 2 ^ 32) :
    (BitVec.ofNat 8 w).toNat + 256 * (BitVec.ofNat 8 (w / 256)).toNat + 65536 * (BitVec.ofNat 8 (w / 65536)).toNat +
      16777216 * (BitVec.ofNat 8 (w / 16777216)).toNat = w := by
  simp only [BitVec.toNat_ofNat]
  omega

theorem decode_bytes_of_odd {w : Nat} {i : Instr} (hw : w < 2 ^ 32) (ho : w % 2 = 1) (hd : decodeWord w = .ok i) :
    decode [BitVec.ofNat 8 w, BitVec.ofNat 8 (w / 256), BitVec.ofNat 8 (w / 65536), BitVec.ofNat 8 (w / 16777216)] = .ok (i, []) := by
  have h0 : ¬ (BitVec.ofNat 8 w).toNat % 2 = 0 := by
    rw [BitVec.toNat_ofNat]
    omega
  rw [decode, if_neg h0, bytes_sum hw, hd]
  rfl

theorem decode_bytes_of_even {w : Nat} {i : Instr} (hw : w < 2 ^ 16) (ho : w % 2 = 0) (hd : decodeHalf w = .ok i) :
    decode [BitVec.ofNat 8 w, BitVec.ofNat 8 (w / 256)] = .ok (i, []) := by
  have h0 : (BitVec.ofNat 8 w).toNat % 2 = 0 := by
    rw [BitVec.toNat_ofNat]
    omega
  have hs : (BitVec.ofNat 8 w).toNat + 256 * (BitVec.ofNat 8 (w / 256)).toNat = w := by
    simp only [BitVec.toNat_ofNat]
    omega
  simp only [decode, if_pos h0, hs, hd]
  rfl

/-- No carry leaves the mask. -/
theorem Within.add_le (hb : Within b m) : c + b ≤ c + m :=
  Nat.add_le_add_left hb.le c

theorem Within.odd_add (hb : Within b m) (h : c &&& m = 0) (hm : m % 2 = 0) : (c + b) % 2 = c % 2 := by
  have := hb.field_add (lo := 0) (n := 1) h (by omega)
  omega

/-- A header and fields apart from it, once `decodeWord` reads them: the bytes decode. -/
theorem Within.decodes {i : Instr} (hb : Within b m) (he : encode i = c + b) (hs : isShort i = false) (h : c &&& m = 0) (hm : m % 2 = 0)
    (hc : c % 2 = 1) (hlt : (c + m) / 2 ^ 32 = 0) (hd : decodeWord (c + b) = .ok i) : decode (encodeBytes i) = .ok (i, []) := by
  have hle := hb.add_le (c := c)
  rw [encodeBytes, hs, if_neg Bool.false_ne_true, he]
  exact decode_bytes_of_odd (by omega) ((hb.odd_add h hm).trans hc) hd

theorem Within.decodes_short {i : Instr} (hb : Within b m) (he : encode i = c + b) (hs : isShort i = true) (h : c &&& m = 0) (hm : m % 2 = 0)
    (hc : c % 2 = 0) (hlt : (c + m) / 2 ^ 16 = 0) (hd : decodeHalf (c + b) = .ok i) : decode (encodeBytes i) = .ok (i, []) := by
  have hle := hb.add_le (c := c)
  rw [encodeBytes, hs, if_pos rfl, he]
  exact decode_bytes_of_even (by omega) ((hb.odd_add h hm).trans hc) hd

/-! The masks of the formats, and that each reads back what it wrote (R58, R72). -/

theorem FmtA.within (o : FmtA) : Within o.bits 0x0FFFFF00 :=
  ((((within_flag o.y 27).add (within_field o.b 21) rfl).add (within_flag o.x 20) rfl).add (within_field o.a 14) rfl).add (within_field o.d 8) rfl

theorem FmtA.read_bits (o : FmtA) (h : c &&& 0x0FFFFF00 = 0) : FmtA.read (c + o.bits) = o := by
  have hy := o.y.toNat_lt
  have hx := o.x.toNat_lt
  rw [FmtA.read, o.within.bitAt_add h rfl, o.within.fieldAt_add h rfl, o.within.bitAt_add h rfl, o.within.fieldAt_add h rfl, o.within.fieldAt_add h rfl,
    bitAt_eq (x := o.y), fieldAt_eq (v := o.b), bitAt_eq (x := o.x), fieldAt_eq (v := o.a), fieldAt_eq (v := o.d)]
  all_goals
    rw [FmtA.bits]
    omega

theorem FmtUn.within (o : FmtUn) : Within o.bits 0x001FFF00 :=
  ((within_flag o.x 20).add (within_field o.a 14) rfl).add (within_field o.d 8) rfl

theorem FmtUn.read_bits (o : FmtUn) (h : c &&& 0x001FFF00 = 0) : FmtUn.read (c + o.bits) = o := by
  have hx := o.x.toNat_lt
  rw [FmtUn.read, o.within.bitAt_add h rfl, o.within.fieldAt_add h rfl, o.within.fieldAt_add h rfl,
    bitAt_eq (x := o.x), fieldAt_eq (v := o.a), fieldAt_eq (v := o.d)]
  all_goals
    rw [FmtUn.bits]
    omega

theorem FmtSrc.within (o : FmtSrc) : Within o.bits 0x001FC000 :=
  (within_flag o.x 20).add (within_field o.a 14) rfl

theorem FmtSrc.read_bits (o : FmtSrc) (h : c &&& 0x001FC000 = 0) : FmtSrc.read (c + o.bits) = o := by
  have hx := o.x.toNat_lt
  rw [FmtSrc.read, o.within.bitAt_add h rfl, o.within.fieldAt_add h rfl,
    bitAt_eq (x := o.x), fieldAt_eq (v := o.a)]
  all_goals
    rw [FmtSrc.bits]
    omega

theorem FmtTwo.within (o : FmtTwo) : Within o.bits 0x0FFFC000 :=
  (((within_flag o.y 27).add (within_field o.b 21) rfl).add (within_flag o.x 20) rfl).add (within_field o.a 14) rfl

theorem FmtTwo.read_bits (o : FmtTwo) (h : c &&& 0x0FFFC000 = 0) : FmtTwo.read (c + o.bits) = o := by
  have hy := o.y.toNat_lt
  have hx := o.x.toNat_lt
  rw [FmtTwo.read, o.within.bitAt_add h rfl, o.within.fieldAt_add h rfl, o.within.bitAt_add h rfl, o.within.fieldAt_add h rfl,
    bitAt_eq (x := o.y), fieldAt_eq (v := o.b), bitAt_eq (x := o.x), fieldAt_eq (v := o.a)]
  all_goals
    rw [FmtTwo.bits]
    omega

theorem FmtDst.within (o : FmtDst) : Within o.bits 0x00003F00 :=
  within_field o.d 8

theorem FmtDst.read_bits (o : FmtDst) (h : c &&& 0x00003F00 = 0) : FmtDst.read (c + o.bits) = o := by
  rw [FmtDst.read, o.within.fieldAt_add h rfl,
    fieldAt_eq (v := o.d)]
  rw [FmtDst.bits]
  omega

theorem FmtI.within (o : FmtI) : Within o.bits 0xFFFFFF00 :=
  (((within_field o.i 21).add (within_flag o.x 20) rfl).add (within_field o.a 14) rfl).add (within_field o.d 8) rfl

theorem FmtI.read_bits (o : FmtI) (h : c &&& 0xFFFFFF00 = 0) : FmtI.read (c + o.bits) = o := by
  have hx := o.x.toNat_lt
  rw [FmtI.read, o.within.fieldAt_add h rfl, o.within.bitAt_add h rfl, o.within.fieldAt_add h rfl, o.within.fieldAt_add h rfl,
    fieldAt_eq (v := o.i), bitAt_eq (x := o.x), fieldAt_eq (v := o.a), fieldAt_eq (v := o.d)]
  all_goals
    rw [FmtI.bits]
    omega

theorem FmtSh.within (o : FmtSh) : Within o.bits 0x07FFFF00 :=
  (((within_field o.n 21).add (within_flag o.x 20) rfl).add (within_field o.a 14) rfl).add (within_field o.d 8) rfl

theorem FmtSh.read_bits (o : FmtSh) (h : c &&& 0x07FFFF00 = 0) : FmtSh.read (c + o.bits) = o := by
  have hx := o.x.toNat_lt
  rw [FmtSh.read, o.within.fieldAt_add h rfl, o.within.bitAt_add h rfl, o.within.fieldAt_add h rfl, o.within.fieldAt_add h rfl,
    fieldAt_eq (v := o.n), bitAt_eq (x := o.x), fieldAt_eq (v := o.a), fieldAt_eq (v := o.d)]
  all_goals
    rw [FmtSh.bits]
    omega

theorem FmtLi.within (o : FmtLi) : Within o.bits 0xFFFFFF00 :=
  (within_field o.i 14).add (within_field o.d 8) rfl

theorem FmtLi.read_bits (o : FmtLi) (h : c &&& 0xFFFFFF00 = 0) : FmtLi.read (c + o.bits) = o := by
  rw [FmtLi.read, o.within.fieldAt_add h rfl, o.within.fieldAt_add h rfl,
    fieldAt_eq (v := o.i), fieldAt_eq (v := o.d)]
  all_goals
    rw [FmtLi.bits]
    omega

theorem FmtMfs.within (o : FmtMfs) : Within o.bits 0xFFE03F00 :=
  (within_field o.i 21).add (within_field o.d 8) rfl

theorem FmtMfs.read_bits (o : FmtMfs) (h : c &&& 0xFFE03F00 = 0) : FmtMfs.read (c + o.bits) = o := by
  rw [FmtMfs.read, o.within.fieldAt_add h rfl, o.within.fieldAt_add h rfl,
    fieldAt_eq (v := o.i), fieldAt_eq (v := o.d)]
  all_goals
    rw [FmtMfs.bits]
    omega

theorem FmtMts.within (o : FmtMts) : Within o.bits 0xFFFFC000 :=
  ((within_field o.i 21).add (within_flag o.x 20) rfl).add (within_field o.a 14) rfl

theorem FmtMts.read_bits (o : FmtMts) (h : c &&& 0xFFFFC000 = 0) : FmtMts.read (c + o.bits) = o := by
  have hx := o.x.toNat_lt
  rw [FmtMts.read, o.within.fieldAt_add h rfl, o.within.bitAt_add h rfl, o.within.fieldAt_add h rfl,
    fieldAt_eq (v := o.i), bitAt_eq (x := o.x), fieldAt_eq (v := o.a)]
  all_goals
    rw [FmtMts.bits]
    omega

theorem FmtB.within (o : FmtB) : Within o.bits 0xFFFFF800 :=
  ((within_field o.p 23).add (within_field o.b 17) rfl).add (within_field o.a 11) rfl

theorem FmtB.read_bits (o : FmtB) (h : c &&& 0xFFFFF800 = 0) : FmtB.read (c + o.bits) = o := by
  rw [FmtB.read, o.within.fieldAt_add h rfl, o.within.fieldAt_add h rfl, o.within.fieldAt_add h rfl,
    fieldAt_eq (v := o.p), fieldAt_eq (v := o.b), fieldAt_eq (v := o.a)]
  all_goals
    rw [FmtB.bits]
    omega

theorem FmtZ.within (o : FmtZ) : Within o.bits 0xFFFFF800 :=
  (within_field o.p 17).add (within_field o.a 11) rfl

theorem FmtZ.read_bits (o : FmtZ) (h : c &&& 0xFFFFF800 = 0) : FmtZ.read (c + o.bits) = o := by
  rw [FmtZ.read, o.within.fieldAt_add h rfl, o.within.fieldAt_add h rfl,
    fieldAt_eq (v := o.p), fieldAt_eq (v := o.a)]
  all_goals
    rw [FmtZ.bits]
    omega

theorem FmtJ.within (o : FmtJ) : Within o.bits 0xFFFFFF00 :=
  within_field o.p 8

theorem FmtJ.read_bits (o : FmtJ) (h : c &&& 0xFFFFFF00 = 0) : FmtJ.read (c + o.bits) = o := by
  rw [FmtJ.read, o.within.fieldAt_add h rfl,
    fieldAt_eq (v := o.p)]
  rw [FmtJ.bits]
  omega

theorem FmtLoop.within (o : FmtLoop) : Within o.bits 0xFFFFC100 :=
  (((within_field o.i 21).add (within_flag o.x 20) rfl).add (within_field o.a 14) rfl).add (within_flag o.r 8) rfl

theorem FmtLoop.read_bits (o : FmtLoop) (h : c &&& 0xFFFFC100 = 0) : FmtLoop.read (c + o.bits) = o := by
  have hx := o.x.toNat_lt
  have hr := o.r.toNat_lt
  rw [FmtLoop.read, o.within.fieldAt_add h rfl, o.within.bitAt_add h rfl, o.within.fieldAt_add h rfl, o.within.bitAt_add h rfl,
    fieldAt_eq (v := o.i), bitAt_eq (x := o.x), fieldAt_eq (v := o.a), bitAt_eq (x := o.r)]
  all_goals
    rw [FmtLoop.bits]
    omega

theorem FmtP.within (o : FmtP) : Within o.bits 0x07FFFF00 :=
  (((((within_flag o.t 26).add (within_field o.r 24) rfl).add (within_field o.s 20) rfl).add (within_field o.g 16) rfl).add (within_field o.h 12) rfl).add (within_field o.k 8) rfl

theorem FmtP.read_bits (o : FmtP) (h : c &&& 0x07FFFF00 = 0) : FmtP.read (c + o.bits) = o := by
  have ht := o.t.toNat_lt
  rw [FmtP.read, o.within.bitAt_add h rfl, o.within.fieldAt_add h rfl, o.within.fieldAt_add h rfl, o.within.fieldAt_add h rfl, o.within.fieldAt_add h rfl, o.within.fieldAt_add h rfl,
    bitAt_eq (x := o.t), fieldAt_eq (v := o.r), fieldAt_eq (v := o.s), fieldAt_eq (v := o.g), fieldAt_eq (v := o.h), fieldAt_eq (v := o.k)]
  all_goals
    rw [FmtP.bits]
    omega

theorem FmtTrap.within (o : FmtTrap) : Within o.bits 0x3FE00000 :=
  within_field o.c 21

theorem FmtTrap.read_bits (o : FmtTrap) (h : c &&& 0x3FE00000 = 0) : FmtTrap.read (c + o.bits) = o := by
  rw [FmtTrap.read, o.within.fieldAt_add h rfl,
    fieldAt_eq (v := o.c)]
  rw [FmtTrap.bits]
  omega

theorem FmtM.within (o : FmtM) : Within o.bits 0xFFFFFF00 :=
  (((((within_field o.o 26).add (within_field o.c 23) rfl).add (within_field o.sz 21) rfl).add (within_flag o.x 20) rfl).add (within_field o.a 14) rfl).add (within_field o.d 8) rfl

theorem FmtM.read_bits (o : FmtM) (h : c &&& 0xFFFFFF00 = 0) : FmtM.read (c + o.bits) = o := by
  have hx := o.x.toNat_lt
  rw [FmtM.read, o.within.fieldAt_add h rfl, o.within.fieldAt_add h rfl, o.within.fieldAt_add h rfl, o.within.bitAt_add h rfl, o.within.fieldAt_add h rfl, o.within.fieldAt_add h rfl,
    fieldAt_eq (v := o.o), fieldAt_eq (v := o.c), fieldAt_eq (v := o.sz), bitAt_eq (x := o.x), fieldAt_eq (v := o.a), fieldAt_eq (v := o.d)]
  all_goals
    rw [FmtM.bits]
    omega

theorem FmtLdx.within (o : FmtLdx) : Within o.bits 0x7FFFFF00 :=
  ((((((within_flag o.u 30).add (within_field o.sz 28) rfl).add (within_flag o.y 27) rfl).add (within_field o.b 21) rfl).add (within_flag o.x 20) rfl).add (within_field o.a 14) rfl).add (within_field o.d 8) rfl

theorem FmtLdx.read_bits (o : FmtLdx) (h : c &&& 0x7FFFFF00 = 0) : FmtLdx.read (c + o.bits) = o := by
  have hu := o.u.toNat_lt
  have hy := o.y.toNat_lt
  have hx := o.x.toNat_lt
  rw [FmtLdx.read, o.within.bitAt_add h rfl, o.within.fieldAt_add h rfl, o.within.bitAt_add h rfl, o.within.fieldAt_add h rfl, o.within.bitAt_add h rfl, o.within.fieldAt_add h rfl, o.within.fieldAt_add h rfl,
    bitAt_eq (x := o.u), fieldAt_eq (v := o.sz), bitAt_eq (x := o.y), fieldAt_eq (v := o.b), bitAt_eq (x := o.x), fieldAt_eq (v := o.a), fieldAt_eq (v := o.d)]
  all_goals
    rw [FmtLdx.bits]
    omega

theorem FmtFe.within (o : FmtFe) : Within o.bits 0xFC1FFF00 :=
  (((within_field o.o 26).add (within_flag o.x 20) rfl).add (within_field o.a 14) rfl).add (within_field o.d 8) rfl

theorem FmtFe.read_bits (o : FmtFe) (h : c &&& 0xFC1FFF00 = 0) : FmtFe.read (c + o.bits) = o := by
  have hx := o.x.toNat_lt
  rw [FmtFe.read, o.within.fieldAt_add h rfl, o.within.bitAt_add h rfl, o.within.fieldAt_add h rfl, o.within.fieldAt_add h rfl,
    fieldAt_eq (v := o.o), bitAt_eq (x := o.x), fieldAt_eq (v := o.a), fieldAt_eq (v := o.d)]
  all_goals
    rw [FmtFe.bits]
    omega

theorem FmtRed.within (o : FmtRed) : Within o.bits 0x1FFFC000 :=
  (((within_field o.k 27).add (within_field o.b 21) rfl).add (within_flag o.x 20) rfl).add (within_field o.a 14) rfl

theorem FmtRed.read_bits (o : FmtRed) (h : c &&& 0x1FFFC000 = 0) : FmtRed.read (c + o.bits) = o := by
  have hx := o.x.toNat_lt
  rw [FmtRed.read, o.within.fieldAt_add h rfl, o.within.fieldAt_add h rfl, o.within.bitAt_add h rfl, o.within.fieldAt_add h rfl,
    fieldAt_eq (v := o.k), fieldAt_eq (v := o.b), bitAt_eq (x := o.x), fieldAt_eq (v := o.a)]
  all_goals
    rw [FmtRed.bits]
    omega

theorem FmtAmo.within (o : FmtAmo) : Within o.bits 0x1FFFFF00 :=
  ((((within_field o.k 27).add (within_field o.b 21) rfl).add (within_flag o.x 20) rfl).add (within_field o.a 14) rfl).add (within_field o.d 8) rfl

theorem FmtAmo.read_bits (o : FmtAmo) (h : c &&& 0x1FFFFF00 = 0) : FmtAmo.read (c + o.bits) = o := by
  have hx := o.x.toNat_lt
  rw [FmtAmo.read, o.within.fieldAt_add h rfl, o.within.fieldAt_add h rfl, o.within.bitAt_add h rfl, o.within.fieldAt_add h rfl, o.within.fieldAt_add h rfl,
    fieldAt_eq (v := o.k), fieldAt_eq (v := o.b), bitAt_eq (x := o.x), fieldAt_eq (v := o.a), fieldAt_eq (v := o.d)]
  all_goals
    rw [FmtAmo.bits]
    omega

theorem FmtFence.within (o : FmtFence) : Within o.bits 0x30000000 :=
  within_field o.k 28

theorem FmtFence.read_bits (o : FmtFence) (h : c &&& 0x30000000 = 0) : FmtFence.read (c + o.bits) = o := by
  rw [FmtFence.read, o.within.fieldAt_add h rfl,
    fieldAt_eq (v := o.k)]
  rw [FmtFence.bits]
  omega

theorem FmtLda.within (o : FmtLda) : Within o.bits 0xFFFFFF00 :=
  ((((((within_flag o.u 31).add (within_field o.sz 29) rfl).add (within_field o.k 27) rfl).add (within_field o.b 21) rfl).add (within_flag o.x 20) rfl).add (within_field o.a 14) rfl).add (within_field o.d 8) rfl

theorem FmtLda.read_bits (o : FmtLda) (h : c &&& 0xFFFFFF00 = 0) : FmtLda.read (c + o.bits) = o := by
  have hu := o.u.toNat_lt
  have hx := o.x.toNat_lt
  rw [FmtLda.read, o.within.bitAt_add h rfl, o.within.fieldAt_add h rfl, o.within.fieldAt_add h rfl, o.within.fieldAt_add h rfl, o.within.bitAt_add h rfl, o.within.fieldAt_add h rfl, o.within.fieldAt_add h rfl,
    bitAt_eq (x := o.u), fieldAt_eq (v := o.sz), fieldAt_eq (v := o.k), fieldAt_eq (v := o.b), bitAt_eq (x := o.x), fieldAt_eq (v := o.a), fieldAt_eq (v := o.d)]
  all_goals
    rw [FmtLda.bits]
    omega

theorem FmtStl.within (o : FmtStl) : Within o.bits 0x7FFFFF00 :=
  (((((within_field o.sz 29).add (within_field o.k 27) rfl).add (within_field o.b 21) rfl).add (within_flag o.x 20) rfl).add (within_field o.a 14) rfl).add (within_field o.d 8) rfl

theorem FmtStl.read_bits (o : FmtStl) (h : c &&& 0x7FFFFF00 = 0) : FmtStl.read (c + o.bits) = o := by
  have hx := o.x.toNat_lt
  rw [FmtStl.read, o.within.fieldAt_add h rfl, o.within.fieldAt_add h rfl, o.within.fieldAt_add h rfl, o.within.bitAt_add h rfl, o.within.fieldAt_add h rfl, o.within.fieldAt_add h rfl,
    fieldAt_eq (v := o.sz), fieldAt_eq (v := o.k), fieldAt_eq (v := o.b), bitAt_eq (x := o.x), fieldAt_eq (v := o.a), fieldAt_eq (v := o.d)]
  all_goals
    rw [FmtStl.bits]
    omega

theorem FmtLdb.within (o : FmtLdb) : Within o.bits 0x0FFFFF00 :=
  ((((within_flag o.e 27).add (within_field o.w 21) rfl).add (within_flag o.x 20) rfl).add (within_field o.a 14) rfl).add (within_field o.d 8) rfl

theorem FmtLdb.read_bits (o : FmtLdb) (h : c &&& 0x0FFFFF00 = 0) : FmtLdb.read (c + o.bits) = o := by
  have he := o.e.toNat_lt
  have hx := o.x.toNat_lt
  rw [FmtLdb.read, o.within.bitAt_add h rfl, o.within.fieldAt_add h rfl, o.within.bitAt_add h rfl, o.within.fieldAt_add h rfl, o.within.fieldAt_add h rfl,
    bitAt_eq (x := o.e), fieldAt_eq (v := o.w), bitAt_eq (x := o.x), fieldAt_eq (v := o.a), fieldAt_eq (v := o.d)]
  all_goals
    rw [FmtLdb.bits]
    omega

theorem FmtStb.within (o : FmtStb) : Within o.bits 0x07FFFF00 :=
  (((within_field o.w 21).add (within_flag o.x 20) rfl).add (within_field o.a 14) rfl).add (within_field o.d 8) rfl

theorem FmtStb.read_bits (o : FmtStb) (h : c &&& 0x07FFFF00 = 0) : FmtStb.read (c + o.bits) = o := by
  have hx := o.x.toNat_lt
  rw [FmtStb.read, o.within.fieldAt_add h rfl, o.within.bitAt_add h rfl, o.within.fieldAt_add h rfl, o.within.fieldAt_add h rfl,
    fieldAt_eq (v := o.w), bitAt_eq (x := o.x), fieldAt_eq (v := o.a), fieldAt_eq (v := o.d)]
  all_goals
    rw [FmtStb.bits]
    omega

theorem FmtPref.within (o : FmtPref) : Within o.bits 0xFC7FC000 :=
  (((within_field o.o 26).add (within_field o.sz 21) rfl).add (within_flag o.x 20) rfl).add (within_field o.a 14) rfl

theorem FmtPref.read_bits (o : FmtPref) (h : c &&& 0xFC7FC000 = 0) : FmtPref.read (c + o.bits) = o := by
  have hx := o.x.toNat_lt
  rw [FmtPref.read, o.within.fieldAt_add h rfl, o.within.fieldAt_add h rfl, o.within.bitAt_add h rfl, o.within.fieldAt_add h rfl,
    fieldAt_eq (v := o.o), fieldAt_eq (v := o.sz), bitAt_eq (x := o.x), fieldAt_eq (v := o.a)]
  all_goals
    rw [FmtPref.bits]
    omega

theorem FmtSend.within (o : FmtSend) : Within o.bits 0x3FFFC000 :=
  ((((within_field o.t 28).add (within_flag o.y 27) rfl).add (within_field o.b 21) rfl).add (within_flag o.x 20) rfl).add (within_field o.a 14) rfl

theorem FmtSend.read_bits (o : FmtSend) (h : c &&& 0x3FFFC000 = 0) : FmtSend.read (c + o.bits) = o := by
  have hy := o.y.toNat_lt
  have hx := o.x.toNat_lt
  rw [FmtSend.read, o.within.fieldAt_add h rfl, o.within.bitAt_add h rfl, o.within.fieldAt_add h rfl, o.within.bitAt_add h rfl, o.within.fieldAt_add h rfl,
    fieldAt_eq (v := o.t), bitAt_eq (x := o.y), fieldAt_eq (v := o.b), bitAt_eq (x := o.x), fieldAt_eq (v := o.a)]
  all_goals
    rw [FmtSend.bits]
    omega

theorem FmtPut.within (o : FmtPut) : Within o.bits 0x3FFFFF00 :=
  (((((within_field o.t 28).add (within_flag o.y 27) rfl).add (within_field o.b 21) rfl).add (within_flag o.x 20) rfl).add (within_field o.a 14) rfl).add (within_field o.d 8) rfl

theorem FmtPut.read_bits (o : FmtPut) (h : c &&& 0x3FFFFF00 = 0) : FmtPut.read (c + o.bits) = o := by
  have hy := o.y.toNat_lt
  have hx := o.x.toNat_lt
  rw [FmtPut.read, o.within.fieldAt_add h rfl, o.within.bitAt_add h rfl, o.within.fieldAt_add h rfl, o.within.bitAt_add h rfl, o.within.fieldAt_add h rfl, o.within.fieldAt_add h rfl,
    fieldAt_eq (v := o.t), bitAt_eq (x := o.y), fieldAt_eq (v := o.b), bitAt_eq (x := o.x), fieldAt_eq (v := o.a), fieldAt_eq (v := o.d)]
  all_goals
    rw [FmtPut.bits]
    omega

theorem FmtV.within (o : FmtV) : Within o.bits 0x0FEFFF00 :=
  (((within_flag o.y 27).add (within_field o.b 21) rfl).add (within_field o.a 14) rfl).add (within_field o.d 8) rfl

theorem FmtV.read_bits (o : FmtV) (h : c &&& 0x0FEFFF00 = 0) : FmtV.read (c + o.bits) = o := by
  have hy := o.y.toNat_lt
  rw [FmtV.read, o.within.bitAt_add h rfl, o.within.fieldAt_add h rfl, o.within.fieldAt_add h rfl, o.within.fieldAt_add h rfl,
    bitAt_eq (x := o.y), fieldAt_eq (v := o.b), fieldAt_eq (v := o.a), fieldAt_eq (v := o.d)]
  all_goals
    rw [FmtV.bits]
    omega

theorem FmtVUn.within (o : FmtVUn) : Within o.bits 0x0FE03F00 :=
  ((within_flag o.y 27).add (within_field o.b 21) rfl).add (within_field o.d 8) rfl

theorem FmtVUn.read_bits (o : FmtVUn) (h : c &&& 0x0FE03F00 = 0) : FmtVUn.read (c + o.bits) = o := by
  have hy := o.y.toNat_lt
  rw [FmtVUn.read, o.within.bitAt_add h rfl, o.within.fieldAt_add h rfl, o.within.fieldAt_add h rfl,
    bitAt_eq (x := o.y), fieldAt_eq (v := o.b), fieldAt_eq (v := o.d)]
  all_goals
    rw [FmtVUn.bits]
    omega

theorem FmtVV.within (o : FmtVV) : Within o.bits 0x07EFFF00 :=
  ((within_field o.b 21).add (within_field o.a 14) rfl).add (within_field o.d 8) rfl

theorem FmtVV.read_bits (o : FmtVV) (h : c &&& 0x07EFFF00 = 0) : FmtVV.read (c + o.bits) = o := by
  rw [FmtVV.read, o.within.fieldAt_add h rfl, o.within.fieldAt_add h rfl, o.within.fieldAt_add h rfl,
    fieldAt_eq (v := o.b), fieldAt_eq (v := o.a), fieldAt_eq (v := o.d)]
  all_goals
    rw [FmtVV.bits]
    omega

theorem FmtVA.within (o : FmtVA) : Within o.bits 0x000FFF00 :=
  (within_field o.a 14).add (within_field o.d 8) rfl

theorem FmtVA.read_bits (o : FmtVA) (h : c &&& 0x000FFF00 = 0) : FmtVA.read (c + o.bits) = o := by
  rw [FmtVA.read, o.within.fieldAt_add h rfl, o.within.fieldAt_add h rfl,
    fieldAt_eq (v := o.a), fieldAt_eq (v := o.d)]
  all_goals
    rw [FmtVA.bits]
    omega

theorem FmtVB.within (o : FmtVB) : Within o.bits 0x07E03F00 :=
  (within_field o.b 21).add (within_field o.d 8) rfl

theorem FmtVB.read_bits (o : FmtVB) (h : c &&& 0x07E03F00 = 0) : FmtVB.read (c + o.bits) = o := by
  rw [FmtVB.read, o.within.fieldAt_add h rfl, o.within.fieldAt_add h rfl,
    fieldAt_eq (v := o.b), fieldAt_eq (v := o.d)]
  all_goals
    rw [FmtVB.bits]
    omega

theorem FmtCvt.within (o : FmtCvt) : Within o.bits 0xFFE3FF00 :=
  ((((within_field o.g 28).add (within_flag o.y 27) rfl).add (within_field o.b 21) rfl).add (within_field o.h 14) rfl).add (within_field o.d 8) rfl

theorem FmtCvt.read_bits (o : FmtCvt) (h : c &&& 0xFFE3FF00 = 0) : FmtCvt.read (c + o.bits) = o := by
  have hy := o.y.toNat_lt
  rw [FmtCvt.read, o.within.fieldAt_add h rfl, o.within.bitAt_add h rfl, o.within.fieldAt_add h rfl, o.within.fieldAt_add h rfl, o.within.fieldAt_add h rfl,
    fieldAt_eq (v := o.g), bitAt_eq (x := o.y), fieldAt_eq (v := o.b), fieldAt_eq (v := o.h), fieldAt_eq (v := o.d)]
  all_goals
    rw [FmtCvt.bits]
    omega

theorem FmtVRed.within (o : FmtVRed) : Within o.bits 0x080FFF00 :=
  ((within_flag o.y 27).add (within_field o.a 14) rfl).add (within_field o.d 8) rfl

theorem FmtVRed.read_bits (o : FmtVRed) (h : c &&& 0x080FFF00 = 0) : FmtVRed.read (c + o.bits) = o := by
  have hy := o.y.toNat_lt
  rw [FmtVRed.read, o.within.bitAt_add h rfl, o.within.fieldAt_add h rfl, o.within.fieldAt_add h rfl,
    bitAt_eq (x := o.y), fieldAt_eq (v := o.a), fieldAt_eq (v := o.d)]
  all_goals
    rw [FmtVRed.bits]
    omega

theorem FmtVM.within (o : FmtVM) : Within o.bits 0xFFEFFF00 :=
  ((((within_field o.o 26).add (within_field o.c 23) rfl).add (within_field o.sz 21) rfl).add (within_field o.a 14) rfl).add (within_field o.d 8) rfl

theorem FmtVM.read_bits (o : FmtVM) (h : c &&& 0xFFEFFF00 = 0) : FmtVM.read (c + o.bits) = o := by
  rw [FmtVM.read, o.within.fieldAt_add h rfl, o.within.fieldAt_add h rfl, o.within.fieldAt_add h rfl, o.within.fieldAt_add h rfl, o.within.fieldAt_add h rfl,
    fieldAt_eq (v := o.o), fieldAt_eq (v := o.c), fieldAt_eq (v := o.sz), fieldAt_eq (v := o.a), fieldAt_eq (v := o.d)]
  all_goals
    rw [FmtVM.bits]
    omega

theorem FmtVBit.within (o : FmtVBit) : Within o.bits 0xF80FFF00 :=
  (((within_field o.w 28).add (within_flag o.y 27) rfl).add (within_field o.a 14) rfl).add (within_field o.d 8) rfl

theorem FmtVBit.read_bits (o : FmtVBit) (h : c &&& 0xF80FFF00 = 0) : FmtVBit.read (c + o.bits) = o := by
  have hy := o.y.toNat_lt
  rw [FmtVBit.read, o.within.fieldAt_add h rfl, o.within.bitAt_add h rfl, o.within.fieldAt_add h rfl, o.within.fieldAt_add h rfl,
    fieldAt_eq (v := o.w), bitAt_eq (x := o.y), fieldAt_eq (v := o.a), fieldAt_eq (v := o.d)]
  all_goals
    rw [FmtVBit.bits]
    omega

theorem FmtN.within (o : FmtN) : Within o.bits 0x0000FFE0 :=
  ((within_flag o.m 15).add (within_field o.b 10) rfl).add (within_field o.d 5) rfl

theorem FmtN.read_bits (o : FmtN) (h : c &&& 0x0000FFE0 = 0) : FmtN.read (c + o.bits) = o := by
  have hm := o.m.toNat_lt
  rw [FmtN.read, o.within.bitAt_add h rfl, o.within.fieldAt_add h rfl, o.within.fieldAt_add h rfl,
    bitAt_eq (x := o.m), fieldAt_eq (v := o.b), fieldAt_eq (v := o.d)]
  all_goals
    rw [FmtN.bits]
    omega

theorem FmtCopy.within (o : FmtCopy) : Within o.bits 0x07FFFF00 :=
  (((within_field o.b 21).add (within_flag o.x 20) rfl).add (within_field o.a 14) rfl).add (within_field o.d 8) rfl

theorem FmtCopy.read_bits (o : FmtCopy) (h : c &&& 0x07FFFF00 = 0) : FmtCopy.read (c + o.bits) = o := by
  have hx := o.x.toNat_lt
  rw [FmtCopy.read, o.within.fieldAt_add h rfl, o.within.bitAt_add h rfl, o.within.fieldAt_add h rfl, o.within.fieldAt_add h rfl,
    fieldAt_eq (v := o.b), bitAt_eq (x := o.x), fieldAt_eq (v := o.a), fieldAt_eq (v := o.d)]
  all_goals
    rw [FmtCopy.bits]
    omega

theorem FmtRun.within (o : FmtRun) : Within o.bits 0x7FFFFF00 :=
  ((((((within_flag o.w 30).add (within_field o.e 28) rfl).add (within_flag o.y 27) rfl).add (within_field o.b 21) rfl).add (within_flag o.x 20) rfl).add (within_field o.a 14) rfl).add (within_field o.d 8) rfl

theorem FmtRun.read_bits (o : FmtRun) (h : c &&& 0x7FFFFF00 = 0) : FmtRun.read (c + o.bits) = o := by
  have hw := o.w.toNat_lt
  have hy := o.y.toNat_lt
  have hx := o.x.toNat_lt
  rw [FmtRun.read, o.within.bitAt_add h rfl, o.within.fieldAt_add h rfl, o.within.bitAt_add h rfl, o.within.fieldAt_add h rfl, o.within.bitAt_add h rfl, o.within.fieldAt_add h rfl, o.within.fieldAt_add h rfl,
    bitAt_eq (x := o.w), fieldAt_eq (v := o.e), bitAt_eq (x := o.y), fieldAt_eq (v := o.b), bitAt_eq (x := o.x), fieldAt_eq (v := o.a), fieldAt_eq (v := o.d)]
  all_goals
    rw [FmtRun.bits]
    omega

/-! The tables of the decoder, by major (R73). -/

theorem decodeWord_major01 {w : Nat} (h : w / 2 % 128 = 0x01) : decodeWord w = decodeMajor01 w := by
  rw [decodeWord, decodeLow, h]
  rfl

theorem decodeWord_major02 {w : Nat} (h : w / 2 % 128 = 0x02) : decodeWord w = decodeMajor02 w := by
  rw [decodeWord, decodeLow, h]
  rfl

theorem decodeWord_major03 {w : Nat} (h : w / 2 % 128 = 0x03) : decodeWord w = decodeMajor03 w := by
  rw [decodeWord, decodeLow, h]
  rfl

theorem decodeWord_major04 {w : Nat} (h : w / 2 % 128 = 0x04) : decodeWord w = decodeMajor04 w := by
  rw [decodeWord, decodeLow, h]
  rfl

theorem decodeWord_major09 {w : Nat} (h : w / 2 % 128 = 0x09) : decodeWord w = decodeMajor09 w := by
  rw [decodeWord, decodeLow, h]
  rfl

theorem decodeWord_major0E {w : Nat} (h : w / 2 % 128 = 0x0E) : decodeWord w = decodeMajor0E w := by
  rw [decodeWord, decodeLow, h]
  rfl

theorem decodeWord_major0F {w : Nat} (h : w / 2 % 128 = 0x0F) : decodeWord w = decodeMajor0F w := by
  rw [decodeWord, decodeLow, h]
  rfl

theorem decodeWord_major10 {w : Nat} (h : w / 2 % 128 = 0x10) : decodeWord w = decodeMajor10 w := by
  rw [decodeWord, decodeLow, h]
  rfl

theorem decodeWord_major11 {w : Nat} (h : w / 2 % 128 = 0x11) : decodeWord w = decodeMajor11 w := by
  rw [decodeWord, decodeLow, h]
  rfl

theorem decodeWord_major12 {w : Nat} (h : w / 2 % 128 = 0x12) : decodeWord w = decodeMajor12 w := by
  rw [decodeWord, decodeLow, h]
  rfl

theorem decodeWord_major15 {w : Nat} (h : w / 2 % 128 = 0x15) : decodeWord w = decodeMajor15 w := by
  rw [decodeWord, decodeLow, h]
  rfl

theorem decodeWord_major16 {w : Nat} (h : w / 2 % 128 = 0x16) : decodeWord w = decodeMajor16 w := by
  rw [decodeWord, decodeLow, h]
  rfl

theorem decodeWord_major19 {w : Nat} (h : w / 2 % 128 = 0x19) : decodeWord w = decodeMajor19 w := by
  rw [decodeWord, decodeLow, h]
  rfl

theorem decodeWord_major1D {w : Nat} (h : w / 2 % 128 = 0x1D) : decodeWord w = decodeMajor1D w := by
  rw [decodeWord, decodeLow, h]
  rfl

theorem decodeWord_major1E {w : Nat} (h : w / 2 % 128 = 0x1E) : decodeWord w = decodeMajor1E w := by
  rw [decodeWord, decodeLow, h]
  rfl

theorem decodeWord_major1F {w : Nat} (h : w / 2 % 128 = 0x1F) : decodeWord w = decodeMajor1F w := by
  rw [decodeWord, decodeLow, h]
  rfl

theorem decodeWord_major24 {w : Nat} (h : w / 2 % 128 = 0x24) : decodeWord w = decodeMajor24 w := by
  rw [decodeWord, decodeLow, h]
  rfl

theorem decodeWord_major25 {w : Nat} (h : w / 2 % 128 = 0x25) : decodeWord w = decodeMajor25 w := by
  rw [decodeWord, decodeLow, h]
  rfl

theorem decodeWord_major26 {w : Nat} (h : w / 2 % 128 = 0x26) : decodeWord w = decodeMajor26 w := by
  rw [decodeWord, decodeLow, h]
  rfl

theorem decodeWord_major27 {w : Nat} (h : w / 2 % 128 = 0x27) : decodeWord w = decodeMajor27 w := by
  rw [decodeWord, decodeLow, h]
  rfl

theorem decodeWord_major28 {w : Nat} (h : w / 2 % 128 = 0x28) : decodeWord w = decodeMajor28 w := by
  rw [decodeWord, decodeLow, h]
  rfl

theorem decodeWord_major35 {w : Nat} (h : w / 2 % 128 = 0x35) : decodeWord w = decodeMajor35 w := by
  rw [decodeWord, decodeLow, h]
  rfl

theorem decodeWord_major36 {w : Nat} (h : w / 2 % 128 = 0x36) : decodeWord w = decodeMajor36 w := by
  rw [decodeWord, decodeLow, h]
  rfl

theorem decodeWord_major39 {w : Nat} (h : w / 2 % 128 = 0x39) : decodeWord w = decodeMajor39 w := by
  rw [decodeWord, decodeLow, h]
  rfl

theorem decodeWord_major3A {w : Nat} (h : w / 2 % 128 = 0x3A) : decodeWord w = decodeMajor3A w := by
  rw [decodeWord, decodeLow, h]
  rfl

theorem decodeWord_major40 {w : Nat} (h : w / 2 % 128 = 0x40) : decodeWord w = decodeMajor40 w := by
  rw [decodeWord, decodeHigh, h]
  rfl

theorem decodeWord_major41 {w : Nat} (h : w / 2 % 128 = 0x41) : decodeWord w = decodeMajor41 w := by
  rw [decodeWord, decodeHigh, h]
  rfl

theorem decodeWord_major42 {w : Nat} (h : w / 2 % 128 = 0x42) : decodeWord w = decodeMajor42 w := by
  rw [decodeWord, decodeHigh, h]
  rfl

theorem decodeWord_major43 {w : Nat} (h : w / 2 % 128 = 0x43) : decodeWord w = decodeMajor43 w := by
  rw [decodeWord, decodeHigh, h]
  rfl

theorem decodeWord_major44 {w : Nat} (h : w / 2 % 128 = 0x44) : decodeWord w = decodeMajor44 w := by
  rw [decodeWord, decodeHigh, h]
  rfl

theorem decodeWord_major45 {w : Nat} (h : w / 2 % 128 = 0x45) : decodeWord w = decodeMajor45 w := by
  rw [decodeWord, decodeHigh, h]
  rfl

theorem decodeWord_major47 {w : Nat} (h : w / 2 % 128 = 0x47) : decodeWord w = decodeMajor47 w := by
  rw [decodeWord, decodeHigh, h]
  rfl

theorem decodeWord_major48 {w : Nat} (h : w / 2 % 128 = 0x48) : decodeWord w = decodeMajor48 w := by
  rw [decodeWord, decodeHigh, h]
  rfl

theorem decodeWord_major49 {w : Nat} (h : w / 2 % 128 = 0x49) : decodeWord w = decodeMajor49 w := by
  rw [decodeWord, decodeHigh, h]
  rfl

theorem decodeWord_major4A {w : Nat} (h : w / 2 % 128 = 0x4A) : decodeWord w = decodeMajor4A w := by
  rw [decodeWord, decodeHigh, h]
  rfl

theorem decodeWord_major58 {w : Nat} (h : w / 2 % 128 = 0x58) : decodeWord w = decodeMajor58 w := by
  rw [decodeWord, decodeHigh, h]
  rfl

theorem decodeWord_major5D {w : Nat} (h : w / 2 % 128 = 0x5D) : decodeWord w = decodeMajor5D w := by
  rw [decodeWord, decodeHigh, h]
  rfl

theorem decodeWord_major63 {w : Nat} (h : w / 2 % 128 = 0x63) : decodeWord w = decodeMajor63 w := by
  rw [decodeWord, decodeHigh, h]
  rfl

theorem decodeWord_major68 {w : Nat} (h : w / 2 % 128 = 0x68) : decodeWord w = decodeMajor68 w := by
  rw [decodeWord, decodeHigh, h]
  rfl

theorem decodeWord_major6A {w : Nat} (h : w / 2 % 128 = 0x6A) : decodeWord w = decodeMajor6A w := by
  rw [decodeWord, decodeHigh, h]
  rfl

theorem decodeWord_major6D {w : Nat} (h : w / 2 % 128 = 0x6D) : decodeWord w = decodeMajor6D w := by
  rw [decodeWord, decodeHigh, h]
  rfl

/-- Decoding gives back a well-formed instruction. The header answers the major, the form code and every field that must be zero; `read_bits` the operands. -/
theorem decode_encodeBytes (i : Instr) (h : encode i ≠ 0) (hw : wellFormed i = true) : decode (encodeBytes i) = .ok (i, []) := by
  cases i with
  | aluAdd o | aluSub o | aluAnd o | aluOr o | aluXor o | aluShl o | aluShr o | aluSar o | aluSlt o | aluSltu o | aluMin o | aluMax o | aluMinu o
  | aluMaxu o | aluAndn o | aluOrn o =>
    refine o.within.decodes rfl rfl rfl rfl rfl rfl ?_
    rw [decodeWord_major01 (o.within.major rfl rfl rfl), decodeMajor01, o.within.field_add (lo := 28) (n := 4) rfl rfl, o.read_bits rfl]
    rfl
  | aluwAddw o | aluwSubw o | aluwShlw o | aluwShrw o | aluwSarw o =>
    refine o.within.decodes rfl rfl rfl rfl rfl rfl ?_
    rw [decodeWord_major02 (o.within.major rfl rfl rfl), decodeMajor02, o.within.field_add (lo := 28) (n := 4) rfl rfl, o.read_bits rfl]
    rfl
  | mulMul o | mulMulh o | mulMulhu o | mulDiv o | mulDivu o | mulRem o | mulRemu o =>
    refine o.within.decodes rfl rfl rfl rfl rfl rfl ?_
    rw [decodeWord_major03 (o.within.major rfl rfl rfl), decodeMajor03, o.within.field_add (lo := 28) (n := 4) rfl rfl, o.read_bits rfl]
    rfl
  | bitsClz o | bitsCtz o | bitsPopc o | bitsBrev o =>
    refine o.within.decodes rfl rfl rfl rfl rfl rfl ?_
    rw [decodeWord_major04 (o.within.major rfl rfl rfl), decodeMajor04, o.within.field_add (lo := 28) (n := 4) rfl rfl, o.read_bits rfl,
      o.within.clear (lo := 21) (n := 7) rfl rfl rfl]
    rfl
  | bitsBext o | bitsBdep o | bitsSext o =>
    refine o.within.decodes rfl rfl rfl rfl rfl rfl ?_
    rw [decodeWord_major04 (o.within.major rfl rfl rfl), decodeMajor04, o.within.field_add (lo := 28) (n := 4) rfl rfl, o.read_bits rfl]
    rfl
  | addi o | andi o | ori o | xori o | slti o | sltiu o | ldi o | ldih o | jmp o | call o | lda o =>
    refine o.within.decodes rfl rfl rfl rfl rfl rfl ?_
    rw [decodeWord, decodeLow, o.within.major rfl rfl rfl, o.read_bits rfl]
    rfl
  | shli o | shri o | sari o | roti o =>
    refine o.within.decodes rfl rfl rfl rfl rfl rfl ?_
    rw [decodeWord_major09 (o.within.major rfl rfl rfl), decodeMajor09, o.within.field_add (lo := 27) (n := 5) rfl rfl, o.read_bits rfl]
    rfl
  | addrMkloc o | addrMkrel o =>
    refine o.within.decodes rfl rfl rfl rfl rfl rfl ?_
    rw [decodeWord_major0E (o.within.major rfl rfl rfl), decodeMajor0E, o.within.field_add (lo := 28) (n := 4) rfl rfl, o.read_bits rfl]
    rfl
  | addrGetx o | addrGety o | addrGetc o | addrGetdie o =>
    refine o.within.decodes rfl rfl rfl rfl rfl rfl ?_
    rw [decodeWord_major0E (o.within.major rfl rfl rfl), decodeMajor0E, o.within.field_add (lo := 28) (n := 4) rfl rfl, o.read_bits rfl,
      o.within.clear (lo := 21) (n := 7) rfl rfl rfl]
    rfl
  | sfpFaddS o | sfpFsubS o | sfpFmulS o | sfpFdivS o | sfpFminS o | sfpFmaxS o | sfpFaddD o | sfpFsubD o | sfpFmulD o | sfpFdivD o | sfpFminD o
  | sfpFmaxD o =>
    refine o.within.decodes rfl rfl rfl rfl rfl rfl ?_
    rw [decodeWord_major0F (o.within.major rfl rfl rfl), decodeMajor0F, o.within.field_add (lo := 28) (n := 4) rfl rfl, o.read_bits rfl]
    rfl
  | sfpFsqrtS o | sfpFsqrtD o =>
    refine o.within.decodes rfl rfl rfl rfl rfl rfl ?_
    rw [decodeWord_major0F (o.within.major rfl rfl rfl), decodeMajor0F, o.within.field_add (lo := 28) (n := 4) rfl rfl, o.read_bits rfl,
      o.within.clear (lo := 21) (n := 7) rfl rfl rfl]
    rfl
  | sfmaFmaS o | sfmaFmsS o | sfmaFmaD o | sfmaFmsD o =>
    refine o.within.decodes rfl rfl rfl rfl rfl rfl ?_
    rw [decodeWord_major10 (o.within.major rfl rfl rfl), decodeMajor10, o.within.field_add (lo := 28) (n := 4) rfl rfl, o.read_bits rfl]
    rfl
  | scvtDS o | scvtSD o | scvtSL o | scvtDL o | scvtLS o | scvtLD o | scvtSLu o | scvtDLu o | scvtLuS o | scvtLuD o | scvtBfS o | scvtSBf o
  | scvtHS o | scvtSH o =>
    refine o.within.decodes rfl rfl rfl rfl rfl rfl ?_
    rw [decodeWord_major11 (o.within.major rfl rfl rfl), decodeMajor11, o.within.field_add (lo := 28) (n := 4) rfl rfl, o.read_bits rfl,
      o.within.clear (lo := 21) (n := 7) rfl rfl rfl]
    rfl
  | scmpFeqS o | scmpFltS o | scmpFleS o | scmpFunordS o | scmpFeqD o | scmpFltD o | scmpFleD o | scmpFunordD o =>
    refine o.within.decodes rfl rfl rfl rfl rfl rfl ?_
    rw [decodeWord_major12 (o.within.major rfl rfl rfl), decodeMajor12, o.within.field_add (lo := 28) (n := 4) rfl rfl, o.read_bits rfl]
    rfl
  | mfs o =>
    refine o.within.decodes rfl rfl rfl rfl rfl rfl ?_
    rw [decodeWord, decodeLow, o.within.major rfl rfl rfl, o.read_bits rfl, o.within.clear (lo := 14) (n := 7) rfl rfl rfl, hw]
    rfl
  | mts o =>
    refine o.within.decodes rfl rfl rfl rfl rfl rfl ?_
    rw [decodeWord, decodeLow, o.within.major rfl rfl rfl, o.read_bits rfl, o.within.clear (lo := 8) (n := 6) rfl rfl rfl, hw]
    rfl
  | brEq o | brNe o | brLt o | brGe o | brLtu o | brGeu o =>
    refine o.within.decodes rfl rfl rfl rfl rfl rfl ?_
    rw [decodeWord_major15 (o.within.major rfl rfl rfl), decodeMajor15, o.within.field_add (lo := 8) (n := 3) rfl rfl, o.read_bits rfl]
    rfl
  | bzEq0 o | bzNe0 o | bzLt0 o | bzGe0 o | bzGt0 o | bzLe0 o =>
    refine o.within.decodes rfl rfl rfl rfl rfl rfl ?_
    rw [decodeWord_major16 (o.within.major rfl rfl rfl), decodeMajor16, o.within.field_add (lo := 8) (n := 3) rfl rfl, o.read_bits rfl]
    rfl
  | jr o | callr o =>
    refine o.within.decodes rfl rfl rfl rfl rfl rfl ?_
    rw [decodeWord_major19 (o.within.major rfl rfl rfl), decodeMajor19, o.within.field_add (lo := 28) (n := 4) rfl rfl, o.read_bits rfl,
      o.within.clear (lo := 8) (n := 6) rfl rfl rfl, o.within.clear (lo := 21) (n := 7) rfl rfl rfl]
    rfl
  | loop o | iloop o =>
    refine o.within.decodes rfl rfl rfl rfl rfl rfl ?_
    rw [decodeWord, decodeLow, o.within.major rfl rfl rfl, o.read_bits rfl, o.within.clear (lo := 9) (n := 5) rfl rfl rfl, hw]
    rfl
  | pfx o =>
    refine o.within.decodes rfl rfl rfl rfl rfl rfl ?_
    rw [decodeWord, decodeLow, o.within.major rfl rfl rfl, o.read_bits rfl, o.within.clear (lo := 27) (n := 5) rfl rfl rfl, hw]
    rfl
  | strandStart o =>
    refine o.within.decodes rfl rfl rfl rfl rfl rfl ?_
    rw [decodeWord_major1D (o.within.major rfl rfl rfl), decodeMajor1D, o.within.field_add (lo := 28) (n := 4) rfl rfl, o.read_bits rfl]
    rfl
  | strandSlot o =>
    refine o.within.decodes rfl rfl rfl rfl rfl rfl ?_
    rw [decodeWord_major1D (o.within.major rfl rfl rfl), decodeMajor1D, o.within.field_add (lo := 28) (n := 4) rfl rfl, o.read_bits rfl,
      o.within.clear (lo := 14) (n := 14) rfl rfl rfl]
    rfl
  | strandQbind o =>
    refine o.within.decodes rfl rfl rfl rfl rfl rfl ?_
    rw [decodeWord_major1D (o.within.major rfl rfl rfl), decodeMajor1D, o.within.field_add (lo := 28) (n := 4) rfl rfl, o.read_bits rfl,
      o.within.clear (lo := 8) (n := 6) rfl rfl rfl]
    rfl
  | trap o | brk o | sysc o =>
    refine o.within.decodes rfl rfl rfl rfl rfl rfl ?_
    rw [decodeWord_major1E (o.within.major rfl rfl rfl), decodeMajor1E, o.within.field_add (lo := 30) (n := 2) rfl rfl, o.read_bits rfl,
      o.within.clear (lo := 8) (n := 13) rfl rfl rfl]
    rfl
  | sysopTlbinv o =>
    refine o.within.decodes rfl rfl rfl rfl rfl rfl ?_
    rw [decodeWord_major1F (o.within.major rfl rfl rfl), decodeMajor1F, o.within.field_add (lo := 28) (n := 4) rfl rfl, o.read_bits rfl,
      o.within.clear (lo := 8) (n := 6) rfl rfl rfl]
    rfl
  | sysopStopcore o | sysopResumecore o =>
    refine o.within.decodes rfl rfl rfl rfl rfl rfl ?_
    rw [decodeWord_major1F (o.within.major rfl rfl rfl), decodeMajor1F, o.within.field_add (lo := 28) (n := 4) rfl rfl, o.read_bits rfl,
      o.within.clear (lo := 21) (n := 7) rfl rfl rfl]
    rfl
  | sysopSample o =>
    refine o.within.decodes rfl rfl rfl rfl rfl rfl ?_
    rw [decodeWord_major1F (o.within.major rfl rfl rfl), decodeMajor1F, o.within.field_add (lo := 28) (n := 4) rfl rfl, o.read_bits rfl,
      o.within.clear (lo := 14) (n := 14) rfl rfl rfl]
    rfl
  | sysopDump o =>
    refine o.within.decodes rfl rfl rfl rfl rfl rfl ?_
    rw [decodeWord_major1F (o.within.major rfl rfl rfl), decodeMajor1F, o.within.field_add (lo := 28) (n := 4) rfl rfl, o.read_bits rfl]
    rfl
  | ld o | ldu o | st o =>
    refine o.within.decodes rfl rfl rfl rfl rfl rfl ?_
    rw [decodeWord, decodeLow, o.within.major rfl rfl rfl, o.read_bits rfl, hw]
    rfl
  | ldx o | stl o =>
    refine o.within.decodes rfl rfl rfl rfl rfl rfl ?_
    rw [decodeWord, decodeLow, o.within.major rfl rfl rfl, o.read_bits rfl, o.within.clear (lo := 31) (n := 1) rfl rfl rfl]
    rfl
  | ldfeLeave o | ldfeTake o | ldfeState o =>
    refine o.within.decodes rfl rfl rfl rfl rfl rfl ?_
    rw [decodeWord_major24 (o.within.major rfl rfl rfl), decodeMajor24, o.within.field_add (lo := 21) (n := 5) rfl rfl, o.read_bits rfl]
    rfl
  | stfeFill o | stfeForce o | stfeEmpty o =>
    refine o.within.decodes rfl rfl rfl rfl rfl rfl ?_
    rw [decodeWord_major25 (o.within.major rfl rfl rfl), decodeMajor25, o.within.field_add (lo := 21) (n := 5) rfl rfl, o.read_bits rfl]
    rfl
  | amoSwap o | amoCas o | amoAdd o | amoAnd o | amoOr o | amoXor o | amoMax o | amoMin o =>
    refine o.within.decodes rfl rfl rfl rfl rfl rfl ?_
    rw [decodeWord_major26 (o.within.major rfl rfl rfl), decodeMajor26, o.within.field_add (lo := 29) (n := 3) rfl rfl, o.read_bits rfl]
    rfl
  | amo2Maxu o | amo2Minu o | amo2FaddS o | amo2FaddBf o =>
    refine o.within.decodes rfl rfl rfl rfl rfl rfl ?_
    rw [decodeWord_major27 (o.within.major rfl rfl rfl), decodeMajor27, o.within.field_add (lo := 29) (n := 3) rfl rfl, o.read_bits rfl]
    rfl
  | redAdd o | redAnd o | redOr o | redXor o | redMax o | redMin o | redFaddS o | redFaddBf o =>
    refine o.within.decodes rfl rfl rfl rfl rfl rfl ?_
    rw [decodeWord_major28 (o.within.major rfl rfl rfl), decodeMajor28, o.within.field_add (lo := 29) (n := 3) rfl rfl, o.read_bits rfl,
      o.within.clear (lo := 8) (n := 6) rfl rfl rfl]
    rfl
  | ldb o | spawn o | qpush o | swait o =>
    refine o.within.decodes rfl rfl rfl rfl rfl rfl ?_
    rw [decodeWord, decodeLow, o.within.major rfl rfl rfl, o.read_bits rfl, o.within.clear (lo := 28) (n := 4) rfl rfl rfl]
    rfl
  | stb o =>
    refine o.within.decodes rfl rfl rfl rfl rfl rfl ?_
    rw [decodeWord, decodeLow, o.within.major rfl rfl rfl, o.read_bits rfl, o.within.clear (lo := 27) (n := 5) rfl rfl rfl]
    rfl
  | pref o =>
    refine o.within.decodes rfl rfl rfl rfl rfl rfl ?_
    rw [decodeWord, decodeLow, o.within.major rfl rfl rfl, o.read_bits rfl, o.within.clear (lo := 8) (n := 6) rfl rfl rfl,
      o.within.clear (lo := 23) (n := 3) rfl rfl rfl]
    rfl
  | send o =>
    refine o.within.decodes rfl rfl rfl rfl rfl rfl ?_
    rw [decodeWord, decodeLow, o.within.major rfl rfl rfl, o.read_bits rfl, o.within.clear (lo := 8) (n := 6) rfl rfl rfl,
      o.within.clear (lo := 30) (n := 2) rfl rfl rfl]
    rfl
  | recv o | launch o =>
    refine o.within.decodes rfl rfl rfl rfl rfl rfl ?_
    rw [decodeWord, decodeLow, o.within.major rfl rfl rfl, o.read_bits rfl, o.within.clear (lo := 21) (n := 11) rfl rfl rfl]
    rfl
  | rprobe o =>
    refine o.within.decodes rfl rfl rfl rfl rfl rfl ?_
    rw [decodeWord, decodeLow, o.within.major rfl rfl rfl, o.read_bits rfl, o.within.clear (lo := 14) (n := 18) rfl rfl rfl]
    rfl
  | put o | mput o =>
    refine o.within.decodes rfl rfl rfl rfl rfl rfl ?_
    rw [decodeWord, decodeLow, o.within.major rfl rfl rfl, o.read_bits rfl, o.within.clear (lo := 30) (n := 2) rfl rfl rfl]
    rfl
  | barInit o =>
    refine o.within.decodes rfl rfl rfl rfl rfl rfl ?_
    rw [decodeWord_major35 (o.within.major rfl rfl rfl), decodeMajor35, o.within.field_add (lo := 28) (n := 4) rfl rfl, o.read_bits rfl,
      o.within.clear (lo := 8) (n := 6) rfl rfl rfl]
    rfl
  | barArrive o | barArrwait o | barQuery o =>
    refine o.within.decodes rfl rfl rfl rfl rfl rfl ?_
    rw [decodeWord_major35 (o.within.major rfl rfl rfl), decodeMajor35, o.within.field_add (lo := 28) (n := 4) rfl rfl, o.read_bits rfl,
      o.within.clear (lo := 21) (n := 7) rfl rfl rfl]
    rfl
  | barWait o =>
    refine o.within.decodes rfl rfl rfl rfl rfl rfl ?_
    rw [decodeWord_major35 (o.within.major rfl rfl rfl), decodeMajor35, o.within.field_add (lo := 28) (n := 4) rfl rfl, o.read_bits rfl]
    rfl
  | barInval o =>
    refine o.within.decodes rfl rfl rfl rfl rfl rfl ?_
    rw [decodeWord_major35 (o.within.major rfl rfl rfl), decodeMajor35, o.within.field_add (lo := 28) (n := 4) rfl rfl, o.read_bits rfl,
      o.within.clear (lo := 8) (n := 6) rfl rfl rfl, o.within.clear (lo := 21) (n := 7) rfl rfl rfl]
    rfl
  | tagwWaitany o | tagwWaitall o | tagwFfr o =>
    refine o.within.decodes rfl rfl rfl rfl rfl rfl ?_
    rw [decodeWord_major36 (o.within.major rfl rfl rfl), decodeMajor36, o.within.field_add (lo := 28) (n := 4) rfl rfl, o.read_bits rfl,
      o.within.clear (lo := 21) (n := 7) rfl rfl rfl]
    rfl
  | tagwClr o =>
    refine o.within.decodes rfl rfl rfl rfl rfl rfl ?_
    rw [decodeWord_major36 (o.within.major rfl rfl rfl), decodeMajor36, o.within.field_add (lo := 28) (n := 4) rfl rfl, o.read_bits rfl,
      o.within.clear (lo := 8) (n := 6) rfl rfl rfl, o.within.clear (lo := 21) (n := 7) rfl rfl rfl]
    rfl
  | qpop o | qpopNb o =>
    refine o.within.decodes rfl rfl rfl rfl rfl rfl ?_
    rw [decodeWord_major39 (o.within.major rfl rfl rfl), decodeMajor39, o.within.field_add (lo := 28) (n := 4) rfl rfl, o.read_bits rfl,
      o.within.clear (lo := 21) (n := 7) rfl rfl rfl]
    rfl
  | qpopv o | qpopvNb o =>
    refine o.within.decodes rfl rfl rfl rfl rfl rfl ?_
    rw [decodeWord_major3A (o.within.major rfl rfl rfl), decodeMajor3A, o.within.field_add (lo := 28) (n := 4) rfl rfl, o.read_bits rfl]
    rfl
  | signal o =>
    refine o.within.decodes rfl rfl rfl rfl rfl rfl ?_
    rw [decodeWord, decodeLow, o.within.major rfl rfl rfl, o.read_bits rfl, o.within.clear (lo := 8) (n := 6) rfl rfl rfl,
      o.within.clear (lo := 28) (n := 4) rfl rfl rfl]
    rfl
  | vfAdd o | vfSub o | vfMul o | vfDiv o | vfMin o | vfMax o | vfCopysign o =>
    refine o.within.decodes rfl rfl rfl rfl rfl rfl ?_
    rw [decodeWord_major40 (o.within.major rfl rfl rfl), decodeMajor40, o.within.field_add (lo := 28) (n := 4) rfl rfl, o.read_bits rfl,
      o.within.clear (lo := 20) (n := 1) rfl rfl rfl]
    rfl
  | vfAbs o | vfNeg o =>
    refine o.within.decodes rfl rfl rfl rfl rfl rfl ?_
    rw [decodeWord_major40 (o.within.major rfl rfl rfl), decodeMajor40, o.within.field_add (lo := 28) (n := 4) rfl rfl, o.read_bits rfl,
      o.within.clear (lo := 14) (n := 7) rfl rfl rfl]
    rfl
  | vfmaFma o | vfmaFms o | vfmaFnma o | vfmaFnms o =>
    refine o.within.decodes rfl rfl rfl rfl rfl rfl ?_
    rw [decodeWord_major41 (o.within.major rfl rfl rfl), decodeMajor41, o.within.field_add (lo := 28) (n := 4) rfl rfl, o.read_bits rfl,
      o.within.clear (lo := 20) (n := 1) rfl rfl rfl]
    rfl
  | vfxFrintN o | vfxFrintZ o | vfxFrintU o | vfxFrintD o | vfxFexpf o | vfxFgetexp o | vfxFgetman o | vfxFrcp o | vfxFrsq o | vfxFclass o
  | vfxFsqrt o =>
    refine o.within.decodes rfl rfl rfl rfl rfl rfl ?_
    rw [decodeWord_major42 (o.within.major rfl rfl rfl), decodeMajor42, o.within.field_add (lo := 28) (n := 4) rfl rfl, o.read_bits rfl,
      o.within.clear (lo := 14) (n := 7) rfl rfl rfl]
    rfl
  | vfxFscale o =>
    refine o.within.decodes rfl rfl rfl rfl rfl rfl ?_
    rw [decodeWord_major42 (o.within.major rfl rfl rfl), decodeMajor42, o.within.field_add (lo := 28) (n := 4) rfl rfl, o.read_bits rfl,
      o.within.clear (lo := 20) (n := 1) rfl rfl rfl]
    rfl
  | viAdd o | viSub o | viMul o | viMulh o | viMin o | viMax o | viMinu o | viMaxu o | viAnd o | viOr o | viXor o | viShl o | viShr o | viSar o
  | viAndn o =>
    refine o.within.decodes rfl rfl rfl rfl rfl rfl ?_
    rw [decodeWord_major43 (o.within.major rfl rfl rfl), decodeMajor43, o.within.field_add (lo := 28) (n := 4) rfl rfl, o.read_bits rfl,
      o.within.clear (lo := 20) (n := 1) rfl rfl rfl]
    rfl
  | vcmpFeq o | vcmpFne o | vcmpFlt o | vcmpFle o | vcmpFunord o | vcmpIeq o | vcmpIne o | vcmpIlt o | vcmpIle o | vcmpIltu o =>
    refine o.within.decodes rfl rfl rfl rfl rfl rfl ?_
    rw [decodeWord_major44 (o.within.major rfl rfl rfl), decodeMajor44, o.within.field_add (lo := 28) (n := 4) rfl rfl, o.read_bits rfl,
      o.within.clear (lo := 20) (n := 1) rfl rfl rfl]
    rfl
  | vmskSel o | vmskMand o | vmskMor o | vmskMxor o =>
    refine o.within.decodes rfl rfl rfl rfl rfl rfl ?_
    rw [decodeWord_major45 (o.within.major rfl rfl rfl), decodeMajor45, o.within.field_add (lo := 28) (n := 4) rfl rfl, o.read_bits rfl,
      o.within.clear (lo := 20) (n := 1) rfl rfl rfl, o.within.clear (lo := 27) (n := 1) rfl rfl rfl]
    rfl
  | vmskMnot o | vmskMpop o | vmskMfirst o | vmskMset o =>
    refine o.within.decodes rfl rfl rfl rfl rfl rfl ?_
    rw [decodeWord_major45 (o.within.major rfl rfl rfl), decodeMajor45, o.within.field_add (lo := 28) (n := 4) rfl rfl, o.read_bits rfl,
      o.within.clear (lo := 20) (n := 8) rfl rfl rfl]
    rfl
  | vcvt o =>
    refine o.within.decodes rfl rfl rfl rfl rfl rfl ?_
    rw [decodeWord, decodeHigh, o.within.major rfl rfl rfl, o.read_bits rfl, o.within.clear (lo := 18) (n := 3) rfl rfl rfl, hw]
    rfl
  | vpermBcast o | vpermShup o | vpermShdn o | vpermPerm o =>
    refine o.within.decodes rfl rfl rfl rfl rfl rfl ?_
    rw [decodeWord_major47 (o.within.major rfl rfl rfl), decodeMajor47, o.within.field_add (lo := 28) (n := 4) rfl rfl, o.read_bits rfl,
      o.within.clear (lo := 20) (n := 1) rfl rfl rfl, o.within.clear (lo := 27) (n := 1) rfl rfl rfl]
    rfl
  | vpermComp o | vpermExpd o =>
    refine o.within.decodes rfl rfl rfl rfl rfl rfl ?_
    rw [decodeWord_major47 (o.within.major rfl rfl rfl), decodeMajor47, o.within.field_add (lo := 28) (n := 4) rfl rfl, o.read_bits rfl,
      o.within.clear (lo := 20) (n := 8) rfl rfl rfl]
    rfl
  | vpermRev o =>
    refine o.within.decodes rfl rfl rfl rfl rfl rfl ?_
    rw [decodeWord_major47 (o.within.major rfl rfl rfl), decodeMajor47, o.within.field_add (lo := 28) (n := 4) rfl rfl, o.read_bits rfl,
      o.within.clear (lo := 14) (n := 7) rfl rfl rfl, o.within.clear (lo := 27) (n := 1) rfl rfl rfl]
    rfl
  | vredFsum o | vredFmax o | vredFmin o | vredIsum o | vredImax o | vredImin o =>
    refine o.within.decodes rfl rfl rfl rfl rfl rfl ?_
    rw [decodeWord_major48 (o.within.major rfl rfl rfl), decodeMajor48, o.within.field_add (lo := 28) (n := 4) rfl rfl, o.read_bits rfl,
      o.within.clear (lo := 20) (n := 7) rfl rfl rfl]
    rfl
  | vredFsumQ o | vredFmaxQ o | vredFminQ o | vredIsumQ o | vredImaxQ o | vredIminQ o =>
    refine o.within.decodes rfl rfl rfl rfl rfl rfl ?_
    rw [decodeWord_major48 (o.within.major rfl rfl rfl), decodeMajor48, o.within.field_add (lo := 28) (n := 4) rfl rfl, o.read_bits rfl,
      o.within.clear (lo := 20) (n := 1) rfl rfl rfl, o.within.clear (lo := 27) (n := 1) rfl rfl rfl]
    rfl
  | vmovVtos o | vmovStov o =>
    refine o.within.decodes rfl rfl rfl rfl rfl rfl ?_
    rw [decodeWord_major49 (o.within.major rfl rfl rfl), decodeMajor49, o.within.field_add (lo := 28) (n := 4) rfl rfl, o.read_bits rfl,
      o.within.clear (lo := 20) (n := 1) rfl rfl rfl, o.within.clear (lo := 27) (n := 1) rfl rfl rfl]
    rfl
  | vmovVmv o =>
    refine o.within.decodes rfl rfl rfl rfl rfl rfl ?_
    rw [decodeWord_major49 (o.within.major rfl rfl rfl), decodeMajor49, o.within.field_add (lo := 28) (n := 4) rfl rfl, o.read_bits rfl,
      o.within.clear (lo := 14) (n := 7) rfl rfl rfl, o.within.clear (lo := 27) (n := 1) rfl rfl rfl]
    rfl
  | laneClaim o =>
    refine o.within.decodes rfl rfl rfl rfl rfl rfl ?_
    rw [decodeWord_major4A (o.within.major rfl rfl rfl), decodeMajor4A, o.within.field_add (lo := 28) (n := 4) rfl rfl, o.read_bits rfl,
      o.within.clear (lo := 20) (n := 8) rfl rfl rfl]
    rfl
  | laneQuery o =>
    refine o.within.decodes rfl rfl rfl rfl rfl rfl ?_
    rw [decodeWord_major4A (o.within.major rfl rfl rfl), decodeMajor4A, o.within.field_add (lo := 28) (n := 4) rfl rfl, o.read_bits rfl,
      o.within.clear (lo := 14) (n := 14) rfl rfl rfl]
    rfl
  | vld o | vst o =>
    refine o.within.decodes rfl rfl rfl rfl rfl rfl ?_
    rw [decodeWord, decodeHigh, o.within.major rfl rfl rfl, o.read_bits rfl, o.within.clear (lo := 20) (n := 1) rfl rfl rfl, hw]
    rfl
  | vlds o | vsts o | vgat o | vsca o =>
    refine o.within.decodes rfl rfl rfl rfl rfl rfl ?_
    rw [decodeWord, decodeHigh, o.within.major rfl rfl rfl, o.read_bits rfl, o.within.clear (lo := 20) (n := 1) rfl rfl rfl,
      o.within.clear (lo := 28) (n := 4) rfl rfl rfl]
    rfl
  | vldb o | vstb o =>
    refine o.within.decodes rfl rfl rfl rfl rfl rfl ?_
    rw [decodeWord, decodeHigh, o.within.major rfl rfl rfl, o.read_bits rfl, o.within.clear (lo := 20) (n := 7) rfl rfl rfl]
    rfl
  | copy o | copyFo o =>
    refine o.within.decodes rfl rfl rfl rfl rfl rfl ?_
    rw [decodeWord_major58 (o.within.major rfl rfl rfl), decodeMajor58, o.within.field_add (lo := 27) (n := 5) rfl rfl, o.read_bits rfl]
    rfl
  | mmld o | mmsw o | mmst o | gath o | coll o | tans o | tstat o | ctphase o | ctq o =>
    refine o.within.decodes rfl rfl rfl rfl rfl rfl ?_
    rw [decodeWord, decodeHigh, o.within.major rfl rfl rfl, o.read_bits rfl, o.within.clear (lo := 28) (n := 4) rfl rfl rfl]
    rfl
  | mmrun o =>
    refine o.within.decodes rfl rfl rfl rfl rfl rfl ?_
    rw [decodeWord, decodeHigh, o.within.major rfl rfl rfl, o.read_bits rfl, o.within.clear (lo := 31) (n := 1) rfl rfl rfl]
    rfl
  | jwaitPoll o | jwaitSleep o =>
    refine o.within.decodes rfl rfl rfl rfl rfl rfl ?_
    rw [decodeWord_major5D (o.within.major rfl rfl rfl), decodeMajor5D, o.within.field_add (lo := 28) (n := 4) rfl rfl, o.read_bits rfl,
      o.within.clear (lo := 21) (n := 7) rfl rfl rfl]
    rfl
  | jwaitAny o =>
    refine o.within.decodes rfl rfl rfl rfl rfl rfl ?_
    rw [decodeWord_major5D (o.within.major rfl rfl rfl), decodeMajor5D, o.within.field_add (lo := 28) (n := 4) rfl rfl, o.read_bits rfl]
    rfl
  | tcall o | twait o | tabol o =>
    refine o.within.decodes rfl rfl rfl rfl rfl rfl ?_
    rw [decodeWord, decodeHigh, o.within.major rfl rfl rfl, o.read_bits rfl, o.within.clear (lo := 21) (n := 11) rfl rfl rfl]
    rfl
  | tret o | ctenter o | sabort o | cload o =>
    refine o.within.decodes rfl rfl rfl rfl rfl rfl ?_
    rw [decodeWord, decodeHigh, o.within.major rfl rfl rfl, o.read_bits rfl, o.within.clear (lo := 8) (n := 6) rfl rfl rfl,
      o.within.clear (lo := 21) (n := 11) rfl rfl rfl]
    rfl
  | tnextNext o =>
    refine o.within.decodes rfl rfl rfl rfl rfl rfl ?_
    rw [decodeWord_major63 (o.within.major rfl rfl rfl), decodeMajor63, o.within.field_add (lo := 28) (n := 4) rfl rfl, o.read_bits rfl]
    rfl
  | tnextClose o =>
    refine o.within.decodes rfl rfl rfl rfl rfl rfl ?_
    rw [decodeWord_major63 (o.within.major rfl rfl rfl), decodeMajor63, o.within.field_add (lo := 28) (n := 4) rfl rfl, o.read_bits rfl,
      o.within.clear (lo := 8) (n := 6) rfl rfl rfl, o.within.clear (lo := 21) (n := 7) rfl rfl rfl]
    rfl
  | ctalloc o | ctallocNb o =>
    refine o.within.decodes rfl rfl rfl rfl rfl rfl ?_
    rw [decodeWord_major68 (o.within.major rfl rfl rfl), decodeMajor68, o.within.field_add (lo := 28) (n := 4) rfl rfl, o.read_bits rfl]
    rfl
  | ctretireCommit o | ctretireDiscard o =>
    refine o.within.decodes rfl rfl rfl rfl rfl rfl ?_
    rw [decodeWord_major6A (o.within.major rfl rfl rfl), decodeMajor6A, o.within.field_add (lo := 28) (n := 4) rfl rfl, o.read_bits rfl,
      o.within.clear (lo := 8) (n := 6) rfl rfl rfl, o.within.clear (lo := 21) (n := 7) rfl rfl rfl]
    rfl
  | sspawnOrdered o | sspawnUnordered o =>
    refine o.within.decodes rfl rfl rfl rfl rfl rfl ?_
    rw [decodeWord_major6D (o.within.major rfl rfl rfl), decodeMajor6D, o.within.field_add (lo := 28) (n := 4) rfl rfl, o.read_bits rfl]
    rfl
  | bop o =>
    refine o.within.decodes rfl rfl rfl rfl rfl rfl ?_
    rw [decodeWord, decodeHigh, o.within.major rfl rfl rfl, o.read_bits rfl, o.within.clear (lo := 8) (n := 6) rfl rfl rfl,
      o.within.clear (lo := 28) (n := 4) rfl rfl rfl]
    rfl
  | ret | strandHalt | eret | fenceWred | fenceWrep | laneRel | laneSync | tend | bopend | sdone | uend => rfl
  | fenceAcq o | fenceRel o | fenceFull o =>
    obtain ⟨⟨k⟩⟩ := o
    fin_cases k <;> rfl
  | vaddF32 o | vsubF32 o | vmulF32 o | vmaxF32 o | vminF32 o | vaddI32 o | vsubI32 o | vand o | vor o | vxor o | vshlI32 o | vshrI32 o | vmv o
  | vabsF32 o | vnegF32 o | vmulI32 o =>
    refine o.within.decodes_short rfl rfl rfl rfl rfl rfl ?_
    refine (if_neg h).trans ?_
    rw [o.within.major_short rfl rfl rfl, o.read_bits rfl]
    rfl
  | _ => exact absurd rfl h

/-- Settles O3, by `decode_encodeBytes`: a case for each row of the opcode map. -/
theorem decodeOfEncodeIsIdentity : Obligations.DecodeOfEncodeIsIdentity :=
  decode_encodeBytes

/-- Settles O5: the words evaluate, and a reserved code falls through its table. -/
theorem encodingsOfTheManual : Obligations.EncodingsOfTheManual := by
  refine ⟨⟨rfl, rfl, rfl, rfl, rfl⟩, fun _ => rfl, fun w h => ?_, fun w hw hf => ?_⟩
  · unfold decodeWord decodeLow decodeHigh
    generalize w / 2 % 128 = k at h ⊢
    fin_cases h <;> rfl
  · rw [decodeWord_major04 hw, decodeMajor04]
    generalize w / 2 ^ 28 % 2 ^ 4 = f at hf
    obtain ⟨f, rfl⟩ := Nat.exists_eq_add_of_le' hf
    rfl

end Sys2Proof
end

/-! The checks of R77 and `pfx` (O22). -/
section
namespace Sys2Proof.Machine

variable {s : State} {i : Instr}

theorem State.Begins.cur_eq (h : s.Begins i) : s.me.cur = some i := h.1

theorem State.Begins.stage_eq (h : s.Begins i) : s.me.stage = 0 := h.2.1

theorem State.Begins.reads_eq (h : s.Begins i) : s.me.reads = [] := h.2.2.1

theorem State.Begins.slot_lt (h : s.Begins i) : s.slot < 16 := h.2.2.2

theorem State.Starts.begins (h : s.Starts i) : s.Begins i := h.1

theorem State.Starts.unprefixed (h : s.Starts i) : s.me.prefixed = false := h.2

theorem State.Begins.curWord_eq (h : s.Begins i) : s.curWord = word (encode i) := by
  rw [State.curWord, h.cur_eq]

/-- A form that checks its operand codes with `plain`, and so takes no formats, makes the checks of R77. -/
theorem State.Begins.checks_of_plain {ok : Bool} {k : State → Out} (h : s.Begins i) (he : exec i s = plain ok s k) : Checks i s ok := by
  have hword := h.curWord_eq
  have hstage := h.stage_eq
  refine ⟨fun hp => ?_, fun hp hok => ?_⟩
  · rw [Traps, he, plain, checked_prefixed ok k hstage hp, hword, trap, State.me_modMe]
    rfl
  · subst hok
    rw [Traps, he, plain, checked_illegal false k hstage (by simp [hp]), hword]
    rfl

/-- The forms that `binary` runs (R111, R112, R114, R117). -/
theorem exec_eq_binary : ∀ f ∈ [Instr.aluAdd, .aluSub, .aluAnd, .aluOr, .aluXor, .aluShl, .aluShr, .aluSar, .aluSlt, .aluSltu, .aluMin, .aluMax,
    .aluMinu, .aluMaxu, .aluAndn, .aluOrn, .aluwAddw, .aluwSubw, .aluwShlw, .aluwShrw, .aluwSarw, .bitsBext, .bitsBdep, .bitsSext, .addrMkloc, .addrMkrel],
    ∃ g, ∀ o s, exec (f o) s = binary o g s := by
  intro f hf
  fin_cases hf <;> exact ⟨_, fun _ _ => rfl⟩

/-- The forms that `longBinary` runs (R113). -/
theorem exec_eq_longBinary : ∀ f ∈ [Instr.mulMul, .mulMulh, .mulMulhu, .mulDiv, .mulDivu, .mulRem, .mulRemu],
    ∃ g, ∀ o s, exec (f o) s = longBinary o g s := by
  intro f hf
  fin_cases hf <;> exact ⟨_, fun _ _ => rfl⟩

/-- The two-source forms, those with a long latency among them, check both sources and the destination. -/
theorem twoSource_checks : ∀ f ∈ [Instr.aluAdd, .aluSub, .aluAnd, .aluOr, .aluXor, .aluShl, .aluShr, .aluSar, .aluSlt, .aluSltu, .aluMin, .aluMax, .aluMinu,
    .aluMaxu, .aluAndn, .aluOrn, .aluwAddw, .aluwSubw, .aluwShlw, .aluwShrw, .aluwSarw, .mulMul, .mulMulh, .mulMulhu, .mulDiv, .mulDivu, .mulRem, .mulRemu,
    .bitsBext, .bitsBdep, .bitsSext, .addrMkloc, .addrMkrel],
    ∀ (o : FmtA) (s : State), s.Begins (f o) → Checks (f o) s (srcOk o.x o.a && srcOk o.y o.b && dstOk o.d) := by
  intro f hf o s h
  have hcases : (∃ g, ∀ o s, exec (f o) s = binary o g s) ∨ ∃ g, ∀ o s, exec (f o) s = longBinary o g s := by
    by_cases hm : f ∈ [Instr.mulMul, .mulMulh, .mulMulhu, .mulDiv, .mulDivu, .mulRem, .mulRemu]
    · exact .inr (exec_eq_longBinary f hm)
    · refine .inl (exec_eq_binary f ?_)
      simp only [List.mem_cons, List.not_mem_nil, or_false] at hf hm ⊢
      tauto
  rcases hcases with ⟨g, hg⟩ | ⟨g, hg⟩
  · exact h.checks_of_plain (hg o s)
  · exact h.checks_of_plain (hg o s)

theorem toNat_append_eq_add {n m : Nat} (x : BitVec n) (y : BitVec m) : (x ++ y).toNat = x.toNat * 2 ^ m + y.toNat := by
  rw [BitVec.toNat_append, ← Nat.shiftLeft_add_eq_or_of_lt y.isLt, Nat.shiftLeft_eq]

/-- Replacing bits inside a word carries into no other. -/
theorem toNat_withBits (w : Word) {lo n : Nat} (v : Nat) (h : lo + n ≤ 64) :
    (withBits w lo n v).toNat = w.toNat % 2 ^ lo + v % 2 ^ n * 2 ^ lo + w.toNat / 2 ^ (lo + n) * 2 ^ (lo + n) := by
  rw [withBits, BitVec.toNat_ofNat, Nat.mod_eq_of_lt]
  have hlow : w.toNat % 2 ^ lo < 2 ^ lo := Nat.mod_lt _ (by positivity)
  have hmid : (v % 2 ^ n + 1) * 2 ^ lo ≤ 2 ^ n * 2 ^ lo := Nat.mul_le_mul_right _ (Nat.mod_lt _ (by positivity))
  have hq : w.toNat / 2 ^ (lo + n) + 1 ≤ 2 ^ (64 - (lo + n)) := by
    refine Nat.div_lt_of_lt_mul ?_
    rw [← Nat.pow_add, Nat.add_sub_cancel' h]
    exact w.isLt
  calc
    _ < 2 ^ n * 2 ^ lo + w.toNat / 2 ^ (lo + n) * 2 ^ (lo + n) := by rw [Nat.add_mul] at hmid; omega
    _ = (w.toNat / 2 ^ (lo + n) + 1) * 2 ^ (lo + n) := by rw [Nat.pow_add]; ring
    _ ≤ 2 ^ (64 - (lo + n)) * 2 ^ (lo + n) := Nat.mul_le_mul_right _ hq
    _ = 2 ^ 64 := by rw [← Nat.pow_add, Nat.sub_add_cancel h]

/-- What `pfx` leaves in ST, field by field (R99, R136). -/
theorem pfx_latch (o : FmtP) (st : Word) :
    withBits (withBits st 10 19 (o.k.toNat + o.h.toNat * 2 ^ 4 + o.g.toNat * 2 ^ 8 + o.s.toNat * 2 ^ 12 + o.r.toNat * 2 ^ 16 + o.t.toNat * 2 ^ 18)) 8 1 1 =
      st.extractLsb' 29 35 ++ BitVec.ofBool o.t ++ o.r ++ o.s ++ o.g ++ o.h ++ o.k ++ st.extractLsb' 9 1 ++ 1#1 ++ st.extractLsb' 0 8 := by
  have ht := o.t.toNat_lt
  apply BitVec.eq_of_toNat_eq
  rw [toNat_withBits _ _ (by omega), toNat_withBits _ _ (by omega)]
  simp only [toNat_append_eq_add, BitVec.extractLsb'_toNat, BitVec.toNat_ofBool, Nat.shiftRight_eq_div_pow, BitVec.toNat_ofNat]
  omega

/-- An instruction that ends in u, the instruction still in progress there, completes (R132). -/
theorem completes_of_exec {u : State} (he : exec i s = complete u) (hcur : u.me.cur = some i) : Completes i s u :=
  ⟨he, fun hn => he.trans (complete_of_noLoop i hcur hn)⟩

theorem pfx_completes (o : FmtP) (h : s.Begins (.pfx o)) (hp : s.me.prefixed = false) (ht : s.me.inTrap = false) :
    Completes (.pfx o) s (s.modMe (fun m => { m with
      st := s.me.st.extractLsb' 29 35 ++ BitVec.ofBool o.t ++ o.r ++ o.s ++ o.g ++ o.h ++ o.k ++ s.me.st.extractLsb' 9 1 ++ 1#1 ++ s.me.st.extractLsb' 0 8 })) := by
  refine completes_of_exec ?_ (by simpa using h.cur_eq)
  change execPfx o s = _
  rw [execPfx, ht, if_neg Bool.false_ne_true, plain, checked_ok false _ (by simp [hp]), ← pfx_latch]
  exact congrArg complete (State.modMe_congr _ _ _ rfl)

theorem pfx_traps_in_handler (o : FmtP) (h : s.Begins (.pfx o)) (ht : s.me.inTrap = true) : Traps (.pfx o) s s 1 (word (encode (.pfx o))) := by
  change execPfx o s = _
  rw [execPfx, if_pos ht, h.curWord_eq]
  rfl

/-- A trap handler sees PP as 0 (R101). -/
theorem prefixed_of_inTrap (m : Strand) (h : m.inTrap = true) : m.prefixed = false := by
  simp [Strand.prefixed, h]

/-- Settles O22: every form it names runs `plain` first. -/
theorem checksAndPrefixes : Obligations.ChecksAndPrefixes := by
  refine ⟨⟨twoSource_checks, ?_, ?_, ?_, ?_, ?_, ?_, ?_⟩, fun o s => pfx_completes o, fun o s => pfx_traps_in_handler o, prefixed_of_inTrap⟩
  · intro f hf o s h
    fin_cases hf
    · exact h.checks_of_plain (show execLd o s = _ by rw [execLd, loadM])
    · exact h.checks_of_plain (show execLdu o s = _ by rw [execLdu, loadM])
  · exact fun o s h => h.checks_of_plain (show execLda o s = _ by rw [execLda])
  · exact fun o s h => h.checks_of_plain (show execLdx o s = _ by rw [execLdx])
  · exact fun o s h => h.checks_of_plain (show execLdb o s = _ by rw [execLdb])
  · exact fun o s h => h.checks_of_plain (show execSt o s = _ by rw [execSt])
  · exact fun o s h => h.checks_of_plain (show execStl o s = _ by rw [execStl])
  · exact fun o s h => h.checks_of_plain (show execStb o s = _ by rw [execStb])

end Sys2Proof.Machine
end

/-! Operands: what a source that gives nothing and a destination without room come to, and what reading and writing leave (O23, O24). -/
section
namespace Sys2Proof.Machine

variable {s : State}

/-! The bits of ST below the poison count. -/

/-- Replacing bits leaves those below them. -/
theorem toNat_withBits_mod (w : Word) {lo n : Nat} (v : Nat) (h : lo + n ≤ 64) : (withBits w lo n v).toNat % 2 ^ lo = w.toNat % 2 ^ lo := by
  rw [toNat_withBits w v h, Nat.pow_add, Nat.mul_comm (2 ^ lo) (2 ^ n), ← Nat.mul_assoc, Nat.add_mul_mod_self_right, Nat.add_mul_mod_self_right, Nat.mod_mod]

/-- A bit below those replaced is as it was. -/
theorem getLsbD_withBits_low (w : Word) {lo n i : Nat} (v : Nat) (h : lo + n ≤ 64) (hi : i < lo) : (withBits w lo n v).getLsbD i = w.getLsbD i := by
  have hbit (x : Nat) : x.testBit i = (x % 2 ^ lo).testBit i := by simp [Nat.testBit_mod_two_pow, hi]
  rw [BitVec.getLsbD, BitVec.getLsbD, hbit, toNat_withBits_mod w v h, ← hbit]

@[simp] theorem Strand.inTrap_rest (m : Strand) : m.rest.inTrap = m.inTrap := getLsbD_withBits_low _ _ (by omega) (by omega)

/-- Strands that differ in what operands touch alone agree on whether they are in a trap handler. -/
theorem inTrap_of_rest {m m' : Strand} (h : m'.rest = m.rest) : m'.inTrap = m.inTrap := by rw [← m'.inTrap_rest, h, m.inTrap_rest]

/-- A state whose strand differs in what operands touch alone has no loop to end either. -/
theorem noLoop_of_rest {u : State} (h : u.me.rest = s.me.rest) (hn : s.NoLoop) : u.NoLoop := by
  have hi : u.me.rest.innermost = s.me.rest.innermost := by rw [h]
  exact hn.imp (inTrap_of_rest h).trans (fun hl => hi.trans hl)

/-! Strands and queues, seen through changes of strands and queues. -/

/-- Changing one slot leaves the others. -/
theorem strandAt_modStrand_of_ne {c k c' k' : Nat} (f : Strand → Strand) (h : ¬(c' = c ∧ k' = k)) : (s.modStrand c k f).strandAt c' k' = s.strandAt c' k' := by
  by_cases hc : c' = c
  · subst hc
    exact s.strandAt_modStrand_slot _ _ _ _ (fun hk => h ⟨rfl, hk⟩)
  · exact s.strandAt_modStrand_core _ _ _ _ _ hc

@[simp] theorem queue_modStrand (c k c' q : Nat) (f : Strand → Strand) : ((s.modStrand c k f).coreAt c').queue q = (s.coreAt c').queue q := by
  by_cases h : c' = c
  · subst h
    rw [State.modStrand, State.coreAt_modCore]
    rfl
  · rw [State.modStrand, State.coreAt_modCore_other _ _ _ _ h]

@[simp] theorem myCore_queue_modMe (q : Nat) (f : Strand → Strand) : (s.modMe f).myCore.queue q = s.myCore.queue q := queue_modStrand ..

@[simp] theorem myCore_queue_modStrand (c k q : Nat) (f : Strand → Strand) : (s.modStrand c k f).myCore.queue q = s.myCore.queue q := queue_modStrand ..

theorem queue_modQueue_same (c : Core) (q : Nat) (f : Queue → Queue) : (c.modQueue q f).queue q = f (c.queue q) := Tbl.get_upd_same ..

theorem queue_modQueue_other (c : Core) {q r : Nat} (f : Queue → Queue) (h : r ≠ q) : (c.modQueue q f).queue r = c.queue r := Tbl.get_upd_other _ _ _ _ _ h

/-- What holds of every queue, and of a queue of the core in focus after a change, holds of every queue after the change. -/
theorem forall_queue_modQueue {P : Nat → Queue → Prop} {q : Nat} {f : Queue → Queue} (h : ∀ r, P r (s.myCore.queue r))
    (hf : P q (s.myCore.queue q) → P q (f (s.myCore.queue q))) (r : Nat) : P r ((s.modMyCore (fun c => c.modQueue q f)).myCore.queue r) := by
  rw [State.myCore_modMyCore]
  by_cases hr : r = q
  · subst hr
    rw [queue_modQueue_same]
    exact hf (h r)
  · rw [queue_modQueue_other _ _ hr]
    exact h r

/-- A change of a core that leaves its slots leaves every strand. -/
theorem strandAt_modCore {c : Nat} {f : Core → Core} (hf : ∀ x, (f x).slots = x.slots) (c' k : Nat) : (s.modCore c f).strandAt c' k = s.strandAt c' k := by
  rw [State.strandAt, State.strandAt]
  by_cases h : c' = c
  · subst h
    rw [State.coreAt_modCore, Core.slotAt, hf, Core.slotAt]
  · rw [State.coreAt_modCore_other _ _ _ _ h]

@[simp] theorem strandAt_modCore_queue (c c' k q : Nat) (f : Queue → Queue) : (s.modCore c (fun x => x.modQueue q f)).strandAt c' k = s.strandAt c' k :=
  strandAt_modCore (f := fun x => x.modQueue q f) (fun _ => rfl) c' k

/-- Changing the saggars leaves the cores. -/
@[simp] theorem coreAt_modSag (g c : Nat) (f : Saggar → Saggar) : (s.modSag g f).coreAt c = s.coreAt c := by
  rw [State.coreAt, State.modSag_cores, State.coreAt]

@[simp] theorem queue_countPoison (c k sag c' q : Nat) : ((s.countPoison c k sag).coreAt c').queue q = (s.coreAt c').queue q := by
  rw [State.countPoison, State.count, coreAt_modSag, queue_modStrand]

@[simp] theorem core_countPoison (c k sag : Nat) : (s.countPoison c k sag).core = s.core := by simp [State.countPoison, State.count]

@[simp] theorem myCore_queue_countPoison (c k sag q : Nat) : (s.countPoison c k sag).myCore.queue q = s.myCore.queue q := by
  rw [State.myCore, core_countPoison, queue_countPoison, State.myCore]

/-! What reading a source does, case by case. -/

/-- The state after the head of queue q has been popped (R256). -/
def State.dropHead (s : State) (q : Nat) : State :=
  s.modMyCore (fun c => c.modQueue q (fun x => { x with entries := x.entries.drop 1, poppers := x.poppers.filter (· != s.slot), marks := x.marks.drop 1 }))

/-- A source read notes the read, and may empty a register of the strand or of its left neighbour, or pop a queue, whose poisoned head is counted. -/
theorem took_cases (s : State) (c : Code) (y : Bool) (v : Word) :
    (∃ r, s.took c y v = s.pushRead r) ∨
    (∃ r n, s.took c y v = (s.pushRead r).modMe (fun m => m.emptyS n)) ∨
    (∃ r n, s.took c y v = (s.pushRead r).modMe (fun m => m.markWo n false)) ∨
    (∃ r n, s.took c y v = (s.pushRead r).modStrand s.core ((s.slot + 15) % 16) (fun m => m.markWo n false)) ∨
    (∃ r q, s.took c y v = (s.dropHead q).pushRead r) ∨
    (∃ r q, (s.myCore.queue q).marks.headD false = true ∧ s.took c y v = ((s.dropHead q).pushRead r).countPoison s.core s.slot s.me.sag) := by
  unfold State.took
  by_cases h48 : c.toNat < 48
  · rw [if_pos h48]
    cases y
    · exact .inl ⟨_, rfl⟩
    · by_cases h32 : c.toNat < 32
      · exact .inr (.inl ⟨_, _, if_pos h32⟩)
      · by_cases h40 : c.toNat < 40
        · exact .inr (.inr (.inr (.inl ⟨_, _, (if_neg h32).trans (if_pos h40)⟩)))
        · exact .inr (.inr (.inl ⟨_, _, (if_neg h32).trans (if_neg h40)⟩))
  · rw [if_neg h48]
    by_cases h56 : c.toNat < 56
    · rw [if_pos h56]
      by_cases hb : (s.myCore.queue (c.toNat - 48)).marks.headD false = true
      · exact .inr (.inr (.inr (.inr (.inr ⟨_, _, hb, if_pos hb⟩))))
      · exact .inr (.inr (.inr (.inr (.inl ⟨_, _, if_neg hb⟩))))
    · exact .inl ⟨_, if_neg h56⟩

@[simp] theorem myCore_queue_pushRead (r : Read) (q : Nat) : (s.pushRead r).myCore.queue q = s.myCore.queue q := myCore_queue_modMe ..

/-- Reading a source leaves every property of the queues that dropping a head keeps. -/
theorem forall_queue_took {P : Nat → Queue → Prop} (c : Code) (y : Bool) (v : Word) (h : ∀ r, P r (s.myCore.queue r))
    (hf : ∀ r x, P r x → P r { x with entries := x.entries.drop 1, poppers := x.poppers.filter (· != s.slot), marks := x.marks.drop 1 }) (q : Nat) :
    P q ((s.took c y v).myCore.queue q) := by
  have hdrop (p : Nat) : P q ((s.dropHead p).myCore.queue q) := forall_queue_modQueue h (hf p _) q
  rcases took_cases s c y v with ⟨r, he⟩ | ⟨r, n, he⟩ | ⟨r, n, he⟩ | ⟨r, n, he⟩ | ⟨r, p, he⟩ | ⟨r, p, -, he⟩ <;> rw [he]
  · rw [myCore_queue_pushRead]; exact h q
  · rw [myCore_queue_modMe, myCore_queue_pushRead]; exact h q
  · rw [myCore_queue_modMe, myCore_queue_pushRead]; exact h q
  · rw [myCore_queue_modStrand, myCore_queue_pushRead]; exact h q
  · rw [myCore_queue_pushRead]; exact hdrop p
  · rw [myCore_queue_countPoison, myCore_queue_pushRead]; exact hdrop p

/-- Reading a source leaves the bindings of the queues. -/
theorem bound_took (c : Code) (y : Bool) (v : Word) (q : Nat) : ((s.took c y v).myCore.queue q).bound = (s.myCore.queue q).bound :=
  forall_queue_took (P := fun r x => x.bound = (s.myCore.queue r).bound) c y v (fun _ => rfl) (fun _ _ h => h) q

/-! Waiting. -/

/-- A strand that reads a source which gives nothing parks on it. -/
theorem readSrc_of_lacks (j : Nat) (c : Code) (y : Bool) (k : Word → State → Out) (hj : s.me.reads.length = j) (h : s.Lacks c) :
    readSrc j c y s k = .next (s.starves c) := by
  obtain ⟨hsrc, hadm⟩ := h
  have hn : s.me.reads[j]? = none := by simp [hj]
  simp only [readSrc, hn]
  simp only [State.src] at hsrc
  simp only [State.starves]
  by_cases h32 : c.toNat < 32
  · have h48 : c.toNat < 48 := by omega
    have he : ¬ s.me.sFull.getLsbD c.toNat = true := fun hf => by rw [if_pos h32, if_pos hf] at hsrc; cases hsrc
    rw [if_pos h32, if_neg he, if_pos h48, park]
  · by_cases h40 : c.toNat < 40
    · have h48 : c.toNat < 48 := by omega
      have he : ¬ (s.strandAt s.core ((s.slot + 15) % 16)).woFull.getLsbD (c.toNat - 32) = true := fun hf => by
        rw [if_neg h32, if_pos h40, if_pos hf] at hsrc; cases hsrc
      rw [if_neg h32, if_pos h40, if_neg he, if_pos h48, park]
    · by_cases h48 : c.toNat < 48
      · have he : ¬ s.me.woFull.getLsbD (c.toNat - 40) = true := fun hf => by rw [if_neg h32, if_neg h40, if_pos h48, if_pos hf] at hsrc; cases hsrc
        rw [if_neg h32, if_neg h40, if_pos h48, if_neg he, if_pos h48, park]
      · by_cases h56 : c.toNat < 56
        · have hadm := hadm (by omega) h56
          simp only [h32, h40, h48, h56, if_true, if_false, hadm, Bool.not_true, Bool.true_and, Bool.false_eq_true] at hsrc ⊢
          cases he : (s.myCore.queue (c.toNat - 48)).entries with
          | nil => rfl
          | cons e t =>
            simp only [he, List.head?_cons, Option.map_some] at hsrc ⊢
            rw [if_neg (fun hp => by rw [if_pos hp] at hsrc; cases hsrc), park]
        · rw [if_neg h32, if_neg h40, if_neg h48, if_neg h56] at hsrc
          cases hsrc

/-- A destination register with a result still to come holds the strand (R110). -/
theorem withDst_of_owes (d : Code) (k : State → Out) (hs : s.me.stage = 0) (hd : d.toNat < 32) (h : s.me.owes d.toNat = true) :
    withDst d s k = .next (s.modMe (fun m => { m with status := .held })) := by
  simp [withDst, hs, hd, h, hold]

/-- A value for a destination without room parks the strand, which keeps the value (R254, R256, R258). -/
theorem deliverTo_of_jam (d : Code) (v : Word) (k : State → Out) (hd : dstOk d = true) (h40 : 40 ≤ d.toNat) (hs : s.me.stage = 0) (ha : s.accepts d = true)
    (hr : s.room d = false) : deliverTo d.toNat v s k = .next (s.jams d v) := by
  have h32 : ¬ d.toNat < 32 := by omega
  have h40' : ¬ d.toNat < 40 := by omega
  simp only [State.room, h32, h40', if_false] at hr
  simp only [deliverTo, writeDst, h32, if_false, State.jams]
  by_cases h48 : d.toNat < 48
  · simp only [h48, if_true, Bool.not_eq_false'] at hr ⊢
    simp only [hr, if_true, park, State.joinPush, State.modMe_modMe]
    exact congrArg _ (State.modMe_congr _ _ _ (by simp [hs]))
  · by_cases h56 : d.toNat < 56
    · simp only [State.accepts, h32, if_false] at ha
      rw [if_pos ⟨by omega, h56⟩] at ha
      simp only [h48, h56, if_true, if_false, ha, Bool.true_and] at hr ⊢
      rw [if_neg (by simpa using hr)]
      simp only [park, State.joinPush, State.modMe_modMe]
      refine congrArg _ (State.modMe_congr _ _ _ ?_)
      simp [me_modMyCore_queue, hs]
    · simp only [h48, h56, if_false, decide_eq_false_iff_not] at hr
      simp only [dstOk, Bool.or_eq_true, decide_eq_true_eq, Bool.and_eq_true] at hd
      omega

theorem slot_took (c : Code) (y : Bool) (v : Word) (h : s.slot < 16) : (s.took c y v).slot = s.slot := (took_frame c y v h).2.2.1

theorem rest_took (c : Code) (y : Bool) (v : Word) (h : s.slot < 16) : (s.took c y v).me.rest = s.me.rest := (took_frame c y v h).1

theorem length_reads_took (c : Code) (y : Bool) (v : Word) (h : s.slot < 16) : (s.took c y v).me.reads.length = s.me.reads.length + 1 :=
  (took_frame c y v h).2.2.2

/-- Reading a source leaves the stage of the instruction in progress. -/
theorem stage_took (c : Code) (y : Bool) (v : Word) (h : s.slot < 16) : (s.took c y v).me.stage = s.me.stage :=
  show (s.took c y v).me.rest.stage = s.me.rest.stage by rw [rest_took c y v h]

/-- Reading a source changes nothing of whether a destination can be promised a result. -/
theorem accepts_took (c d : Code) (y : Bool) (v : Word) (h : s.slot < 16) : (s.took c y v).accepts d = s.accepts d := by
  have hrest := rest_took (s := s) c y v h
  have hslot := slot_took (s := s) c y v h
  have howes : (s.took c y v).me.owes d.toNat = s.me.owes d.toNat := show (s.took c y v).me.rest.owes d.toNat = s.me.rest.owes d.toNat by rw [hrest]
  simp only [State.accepts, Queue.admits, bound_took, hslot, howes]

/-- A destination with room can be promised a result. -/
theorem accepts_of_room {d : Code} (h : s.room d = true) : s.accepts d = true := by
  simp only [State.room, State.accepts] at *
  split
  · next h32 => rwa [if_pos h32] at h
  · next h32 =>
    rw [if_neg h32] at h
    split
    · next h48 =>
      rw [if_neg (by omega), if_neg (by omega), if_pos h48.2, Bool.and_eq_true, Bool.and_eq_true] at h
      obtain ⟨⟨hadm, -⟩, -⟩ := h
      exact hadm
    · rfl

/-! The integer forms. -/

/-- A form that reads one source and writes what f makes of it. -/
def oneSource (ok : Bool) (d a : Code) (x : Bool) (f : Word → Word) (s : State) : Out :=
  plain ok s (fun s => withDst d s (fun s => readSrc 0 a x s (fun v s => finish d (f v) s)))

theorem exec_unary_eq_oneSource : ∀ f ∈ [Instr.bitsClz, .bitsCtz, .bitsPopc, .bitsBrev, .addrGetx, .addrGety, .addrGetc, .addrGetdie], ∀ (o : FmtUn) (s : State),
    ∃ g, exec (f o) s = oneSource (srcOk o.x o.a && dstOk o.d) o.d o.a o.x g s := by
  intro f hf o s
  fin_cases hf <;> exact ⟨_, rfl⟩

theorem exec_immediate_eq_oneSource : ∀ f ∈ [Instr.addi, .andi, .ori, .xori, .slti, .sltiu], ∀ (o : FmtI) (s : State),
    ∃ g, exec (f o) s = oneSource (srcOk o.x o.a && dstOk o.d) o.d o.a o.x g s := by
  intro f hf o s
  fin_cases hf <;> exact ⟨_, rfl⟩

theorem exec_shiftImm_eq_oneSource : ∀ f ∈ [Instr.shli, .shri, .sari, .roti], ∀ (o : FmtSh) (s : State),
    ∃ g, exec (f o) s = oneSource (srcOk o.x o.a && dstOk o.d) o.d o.a o.x g s := by
  intro f hf o s
  fin_cases hf <;> exact ⟨_, rfl⟩

theorem plain_of_starts {i : Instr} (h : s.Starts i) (k : State → Out) : plain true s k = k s := by
  exact checked_ok false k (by simp [h.unprefixed])

/-- A form of one source parks on a source that gives nothing. -/
theorem oneSource_of_lacks {i : Instr} {ok : Bool} {d a : Code} {x : Bool} (f : Word → Word) (h : s.Starts i) (hok : ok = true) (hd : s.accepts d = true)
    (ha : s.Lacks a) : oneSource ok d a x f s = .next (s.starves a) := by
  rw [oneSource, hok, plain_of_starts h, withDst_of_accepts _ _ hd]
  exact readSrc_of_lacks 0 a x _ (by rw [h.begins.reads_eq]; rfl) ha

theorem shiftLeft_count6 (a b : Word) : a <<< count6 b = BitVec.ofNat 64 (a.toNat * 2 ^ (b.toNat % 64)) := by
  apply BitVec.eq_of_toNat_eq
  rw [BitVec.toNat_shiftLeft, Nat.shiftLeft_eq, BitVec.toNat_ofNat, count6]

theorem ushiftRight_count6 (a b : Word) : a >>> count6 b = BitVec.ofNat 64 (a.toNat / 2 ^ (b.toNat % 64)) := by
  apply BitVec.eq_of_toNat_eq
  rw [BitVec.toNat_ushiftRight, Nat.shiftRight_eq_div_pow, BitVec.toNat_ofNat, count6, Nat.mod_eq_of_lt (Nat.lt_of_le_of_lt (Nat.div_le_self _ _) a.isLt)]

theorem sshiftRight_count6 (a b : Word) : a.sshiftRight (count6 b) = BitVec.ofInt 64 (a.toInt / 2 ^ (b.toNat % 64)) := by
  rw [BitVec.sshiftRight, Int.shiftRight_eq_div_pow, count6]
  norm_cast

/-- Of two equal operands the maximum is either. -/
theorem ite_slt_eq_ite_toInt_le (a b : Word) : (if a.slt b then b else a) = if a.toInt ≤ b.toInt then b else a := by
  rcases lt_trichotomy a.toInt b.toInt with h | h | h
  · rw [if_pos (BitVec.slt_iff_toInt_lt.2 h), if_pos h.le]
  · rw [BitVec.eq_of_toInt_eq h, ite_self, ite_self]
  · rw [if_neg (fun h' => absurd (BitVec.slt_iff_toInt_lt.1 h') (by omega)), if_neg (by omega)]

theorem ite_ult_eq_ite_toNat_le (a b : Word) : (if a.ult b then b else a) = if a.toNat ≤ b.toNat then b else a := by
  rcases lt_trichotomy a.toNat b.toNat with h | h | h
  · rw [if_pos (BitVec.ult_iff_lt.2 h), if_pos h.le]
  · rw [BitVec.eq_of_toNat_eq h, ite_self, ite_self]
  · rw [if_neg (fun h' => absurd (BitVec.lt_def.1 (BitVec.ult_iff_lt.1 h')) (by omega)), if_neg (by omega)]

/-- What the sixteen `alu` forms compute (R111). -/
theorem exec_alu : ∀ p ∈ [(Instr.aluAdd, fun a b : Word => a + b), (.aluSub, fun a b => a - b), (.aluAnd, fun a b => a &&& b), (.aluOr, fun a b => a ||| b),
      (.aluXor, fun a b => a ^^^ b), (.aluShl, fun a b => BitVec.ofNat 64 (a.toNat * 2 ^ (b.toNat % 64))),
      (.aluShr, fun a b => BitVec.ofNat 64 (a.toNat / 2 ^ (b.toNat % 64))), (.aluSar, fun a b => BitVec.ofInt 64 (a.toInt / 2 ^ (b.toNat % 64))),
      (.aluSlt, fun a b => if a.toInt < b.toInt then 1 else 0), (.aluSltu, fun a b => if a.toNat < b.toNat then 1 else 0),
      (.aluMin, fun a b => if a.toInt ≤ b.toInt then a else b), (.aluMax, fun a b => if a.toInt ≤ b.toInt then b else a),
      (.aluMinu, fun a b => if a.toNat ≤ b.toNat then a else b), (.aluMaxu, fun a b => if a.toNat ≤ b.toNat then b else a),
      (.aluAndn, fun a b => a &&& ~~~b), (.aluOrn, fun a b => a ||| ~~~b)], ∀ (o : FmtA) (s : State), exec (p.1 o) s = binary o p.2 s := by
  intro p hp o s
  fin_cases hp
  case _ => rfl
  case _ => rfl
  case _ => rfl
  case _ => rfl
  case _ => rfl
  case _ => exact congrArg (binary o · s) (funext₂ shiftLeft_count6)
  case _ => exact congrArg (binary o · s) (funext₂ ushiftRight_count6)
  case _ => exact congrArg (binary o · s) (funext₂ sshiftRight_count6)
  case _ => exact congrArg (binary o · s) (funext₂ fun a b => by simp [flag, BitVec.slt_iff_toInt_lt])
  case _ => exact congrArg (binary o · s) (funext₂ fun a b => by simp [flag, BitVec.ult_iff_lt, BitVec.lt_def])
  case _ => exact congrArg (binary o · s) (funext₂ fun a b => by simp only [BitVec.slt_iff_toInt_lt, ← Int.not_le, ite_not])
  case _ => exact congrArg (binary o · s) (funext₂ ite_slt_eq_ite_toInt_le)
  case _ => exact congrArg (binary o · s) (funext₂ fun a b => by simp only [BitVec.ult_iff_lt, BitVec.lt_def, ← Nat.not_le, ite_not])
  case _ => exact congrArg (binary o · s) (funext₂ ite_ult_eq_ite_toNat_le)
  case _ => rfl
  case _ => rfl

/-- Settles O23: past the checks of R77 a form waits for its destination's result, then for its sources in order, then for room. -/
theorem waitingOnOperandsParks : Obligations.WaitingOnOperandsParks := by
  refine ⟨fun p hp o s u v a b h hx hy hd => ?_, fun f hf o s h hx hd hacc hl => ?_, fun f hf o s h hx hd hacc hl => ?_, fun f hf o s h hx hd hacc hl => ?_⟩
  · have hexec : exec (p.1 o) s = withDst o.d s (fun s => two o s (fun a b s => finish o.d (p.2 a b) s)) := by
      rw [exec_alu p hp, binary, hx, hy, hd]
      exact plain_of_starts h _
    have hstage := h.begins.stage_eq
    have hreads := h.begins.reads_eq
    have hslot := h.begins.slot_lt
    rw [hexec]
    refine ⟨fun h32 ho => withDst_of_owes _ _ hstage h32 ho, fun hacc => ?_⟩
    rw [withDst_of_accepts _ _ hacc]
    refine ⟨fun hl => readSrc_of_lacks _ _ _ _ (by rw [hreads]; rfl) hl, fun hu hl => ?_, fun hu hv h40 hroom => ?_⟩
    · obtain ⟨hok, hsrc, rfl⟩ := hu
      rw [two, readSrc_of_src 0 _ _ _ _ (by rw [hreads]; rfl) hok hsrc]
      exact readSrc_of_lacks 1 _ _ _ (by rw [length_reads_took _ _ _ hslot, hreads]; rfl) hl
    · rw [two_of_gives o a b u v _ hreads hslot hu hv]
      obtain ⟨-, -, rfl⟩ := hu
      obtain ⟨-, -, rfl⟩ := hv
      have hslot' : (s.took o.a o.x a).slot < 16 := by rw [slot_took _ _ _ hslot]; exact hslot
      refine deliverTo_of_jam _ _ _ hd h40 ?_ ?_ hroom
      · rw [stage_took _ _ _ hslot', stage_took _ _ _ hslot, hstage]
      · rw [accepts_took _ _ _ _ hslot', accepts_took _ _ _ _ hslot, hacc]
  · obtain ⟨g, hg⟩ := exec_unary_eq_oneSource f hf o s
    exact hg.trans (oneSource_of_lacks g h (by simp [hx, hd]) hacc hl)
  · obtain ⟨g, hg⟩ := exec_immediate_eq_oneSource f hf o s
    exact hg.trans (oneSource_of_lacks g h (by simp [hx, hd]) hacc hl)
  · obtain ⟨g, hg⟩ := exec_shiftImm_eq_oneSource f hf o s
    exact hg.trans (oneSource_of_lacks g h (by simp [hx, hd]) hacc hl)

end Sys2Proof.Machine
end

/-! What the integer forms leave unchanged (O24). -/
section
namespace Sys2Proof.Machine

variable {s t u : State}

/-- From s to t nothing has changed but what reading sources and writing operand code d change: the operands of the strand in focus, its reads and its poison
count, queues, counters of saggars, and full bits of the window registers of the left neighbour. -/
structure OperandFrame (d : Nat) (s t : State) : Prop where
  mem : t.mem = s.mem
  full : t.full = s.full
  poison : t.poison = s.poison
  net : t.net = s.net
  clusters : t.clusters = s.clusters
  dies : t.dies = s.dies
  acks : t.acks = s.acks
  time : t.time = s.time
  core : t.core = s.core
  slot : t.slot = s.slot
  rest : t.me.rest = s.me.rest
  sreg : ∀ j, j ≠ d → t.me.sreg j = s.me.sreg j
  window : ∀ c k, ¬(c = s.core ∧ k = s.slot) → { t.strandAt c k with woFull := (s.strandAt c k).woFull } = s.strandAt c k
  others : ∀ c k, ¬(c = s.core ∧ (k = s.slot ∨ k = (s.slot + 15) % 16)) → t.strandAt c k = s.strandAt c k

namespace OperandFrame

variable {d : Nat}

theorem trans (h : OperandFrame d s t) (h' : OperandFrame d t u) : OperandFrame d s u where
  mem := h'.mem.trans h.mem
  full := h'.full.trans h.full
  poison := h'.poison.trans h.poison
  net := h'.net.trans h.net
  clusters := h'.clusters.trans h.clusters
  dies := h'.dies.trans h.dies
  acks := h'.acks.trans h.acks
  time := h'.time.trans h.time
  core := h'.core.trans h.core
  slot := h'.slot.trans h.slot
  rest := h'.rest.trans h.rest
  sreg j hj := (h'.sreg j hj).trans (h.sreg j hj)
  window c k hck := by
    have hw := h'.window c k (by rwa [h.core, h.slot])
    calc { u.strandAt c k with woFull := (s.strandAt c k).woFull }
      _ = { ({ u.strandAt c k with woFull := (t.strandAt c k).woFull } : Strand) with woFull := (s.strandAt c k).woFull } := rfl
      _ = s.strandAt c k := by rw [hw, h.window c k hck]
  others c k hck := (h'.others c k (by rwa [h.core, h.slot])).trans (h.others c k hck)

theorem modMe {f : Strand → Strand} (hrest : (f s.me).rest = s.me.rest) (hs : ∀ j, j ≠ d → (f s.me).sreg j = s.me.sreg j) : OperandFrame d s (s.modMe f) := by
  have hother (c k : Nat) (hck : ¬(c = s.core ∧ k = s.slot)) : (s.modMe f).strandAt c k = s.strandAt c k := strandAt_modStrand_of_ne f hck
  refine ⟨rfl, rfl, rfl, rfl, rfl, rfl, rfl, rfl, rfl, rfl, by rw [State.me_modMe, hrest], fun j hj => by rw [State.me_modMe, hs j hj], fun c k hck => ?_, fun c k hck => ?_⟩
  · rw [hother c k hck]
  · exact hother c k (fun h => hck ⟨h.1, .inl h.2⟩)

theorem pushRead (r : Read) : OperandFrame d s (s.pushRead r) := modMe rfl (fun _ _ => rfl)

theorem left (n : Nat) (hslot : s.slot < 16) : OperandFrame d s (s.modStrand s.core ((s.slot + 15) % 16) (fun m => m.markWo n false)) := by
  have hme := me_modStrand_other ((s.slot + 15) % 16) (fun m => m.markWo n false) (left_ne hslot)
  have hother (c k : Nat) (hck : ¬(c = s.core ∧ k = (s.slot + 15) % 16)) :
      (s.modStrand s.core ((s.slot + 15) % 16) (fun m => m.markWo n false)).strandAt c k = s.strandAt c k := strandAt_modStrand_of_ne _ hck
  refine ⟨rfl, rfl, rfl, rfl, rfl, rfl, rfl, rfl, rfl, rfl, by rw [hme], fun j _ => by rw [hme], fun c k _ => ?_, fun c k hck => ?_⟩
  · by_cases hl : c = s.core ∧ k = (s.slot + 15) % 16
    · obtain ⟨rfl, rfl⟩ := hl
      rw [State.strandAt_modStrand]
      rfl
    · rw [hother c k hl]
  · exact hother c k (fun h => hck ⟨h.1, .inr h.2⟩)

theorem queue (q : Nat) (f : Queue → Queue) : OperandFrame d s (s.modMyCore (fun c => c.modQueue q f)) := by
  refine ⟨rfl, rfl, rfl, rfl, rfl, rfl, rfl, rfl, rfl, rfl, by rw [me_modMyCore_queue], fun j _ => by rw [me_modMyCore_queue], fun c k _ => ?_, fun c k _ => ?_⟩
  · rw [State.modMyCore, strandAt_modCore_queue]
  · exact strandAt_modCore_queue ..

theorem refl (s : State) : OperandFrame d s s :=
  ⟨rfl, rfl, rfl, rfl, rfl, rfl, rfl, rfl, rfl, rfl, rfl, fun _ _ => rfl, fun _ _ _ => rfl, fun _ _ _ => rfl⟩

theorem modSag (g : Nat) (f : Saggar → Saggar) : OperandFrame d s (s.modSag g f) := by
  unfold State.modSag
  split
  · exact ⟨rfl, rfl, rfl, rfl, rfl, rfl, rfl, rfl, rfl, rfl, rfl, fun _ _ => rfl, fun _ _ _ => rfl, fun _ _ _ => rfl⟩
  · exact refl s

theorem countPoison (sag : Nat) : OperandFrame d s (s.countPoison s.core s.slot sag) :=
  (modMe (by simp only [Strand.rest, withBits_pois]) (fun _ _ => by simp only [Strand.sreg])).trans (modSag _ _)

theorem took (c : Code) (y : Bool) (v : Word) (hslot : s.slot < 16) : OperandFrame d s (s.took c y v) := by
  rcases took_cases s c y v with ⟨r, he⟩ | ⟨r, n, he⟩ | ⟨r, n, he⟩ | ⟨r, n, he⟩ | ⟨r, p, he⟩ | ⟨r, p, -, he⟩ <;> rw [he]
  · exact pushRead r
  · exact (pushRead r).trans (modMe rfl (fun _ _ => rfl))
  · exact (pushRead r).trans (modMe rfl (fun _ _ => rfl))
  · exact (pushRead r).trans (left n hslot)
  · exact (queue p _).trans (pushRead r)
  · exact ((queue p _).trans (pushRead r)).trans (countPoison _)

theorem put (c : Code) (v : Word) : OperandFrame c.toNat s (s.put c v) := by
  unfold State.put
  dsimp only
  split
  · exact modMe rfl (fun j hj => Tbl.get_set_other _ _ _ _ _ hj)
  · split
    · exact modMe rfl (fun _ _ => rfl)
    · split
      · exact queue _ _
      · exact refl s

/-- An instruction with four bytes that ends in such a frame leaves a scalar frame. -/
theorem scalarFrame_past {i : Instr} {d : Code} (h : OperandFrame d.toNat s u) (hlen : i.len = 4)
    (hclean : (∀ q, true ∉ (s.myCore.queue q).marks) → u.me.st = s.me.st ∧ u.saggars = s.saggars) : ScalarFrame s (u.past i) d := by
  have hme : (u.past i).me = { u.me.retire with pc := u.me.pc + word i.len } := State.me_modMe ..
  have hr (α : Type) (p : Strand → α) : p u.me.rest = p s.me.rest := congrArg p h.rest
  have hother (c k : Nat) (hck : ¬(c = s.core ∧ k = s.slot)) : (u.past i).strandAt c k = u.strandAt c k :=
    strandAt_modStrand_of_ne _ (fun hc => hck ⟨hc.1.trans h.core, hc.2.trans h.slot⟩)
  refine ⟨fun l => ⟨?_, ?_, ?_⟩, h.net, ?_, fun j hj => ?_, ?_, ?_, ?_, ?_, fun hq => ⟨?_, (hclean hq).2⟩, fun c k hck => ?_, fun c k hck => ?_⟩
  · exact congrArg (Tbl.get · l 0) h.mem
  · exact congrArg (fun t => (Tbl.find t l).isSome) h.full
  · exact congrArg (fun t => (Tbl.find t (poisonWord l)).isSome) h.poison
  · rw [hme]; exact hr _ Strand.st
  · rw [hme]; exact h.sreg j hj
  · rw [hme]; exact hr _ (fun m => (m.epc, m.ecause, m.eaddr, m.tvec, m.lc, m.lb, m.le))
  · rw [hme]; exact hr _ (fun m => (m.istate0, m.istate1, m.ctx, m.tspace, m.heapb, m.heapl, m.heapo, m.g, m.v, m.m))
  · rw [hme, hlen, show u.me.pc = s.me.pc from hr _ Strand.pc]; rfl
  · exact Prod.ext h.clusters (Prod.ext h.dies (Prod.ext h.acks h.time))
  · rw [hme]; exact (hclean hq).1
  · rw [hother c k hck]; exact h.window c k hck
  · rw [hother c k (fun hc => hck ⟨hc.1, .inl hc.2⟩)]; exact h.others c k hck

end OperandFrame

/-! Poison counts. -/

/-- No entry of a queue of the core in focus is poisoned. -/
def State.Unmarked (s : State) : Prop := ∀ q, true ∉ (s.myCore.queue q).marks

theorem unmarked_took (c : Code) (y : Bool) (v : Word) (h : s.Unmarked) : (s.took c y v).Unmarked :=
  forall_queue_took (P := fun _ x => true ∉ x.marks) c y v h (fun _ _ hx hm => hx (List.mem_of_mem_drop hm))

/-- Without a poisoned entry nothing is counted (R178). -/
theorem counts_took (c : Code) (y : Bool) (v : Word) (hslot : s.slot < 16) (h : s.Unmarked) :
    (s.took c y v).me.st = s.me.st ∧ (s.took c y v).saggars = s.saggars := by
  rcases took_cases s c y v with ⟨r, he⟩ | ⟨r, n, he⟩ | ⟨r, n, he⟩ | ⟨r, n, he⟩ | ⟨r, p, he⟩ | ⟨r, p, hb, he⟩
  · rw [he, State.pushRead, State.me_modMe]; exact ⟨rfl, rfl⟩
  · rw [he, State.me_modMe, State.pushRead, State.me_modMe]; exact ⟨rfl, rfl⟩
  · rw [he, State.me_modMe, State.pushRead, State.me_modMe]; exact ⟨rfl, rfl⟩
  · have hl : (s.slot + 15) % 16 ≠ (s.pushRead r).slot := left_ne hslot
    refine ⟨?_, by rw [he]; rfl⟩
    rw [he, show s.core = (s.pushRead r).core from rfl, me_modStrand_other _ _ hl, State.pushRead, State.me_modMe]
  · refine ⟨?_, by rw [he]; rfl⟩
    rw [he, State.pushRead, State.me_modMe, State.dropHead, me_modMyCore_queue]
  · refine absurd ?_ (h p)
    cases hm : (s.myCore.queue p).marks with
    | nil => rw [hm] at hb; cases hb
    | cons b t => rw [hm] at hb; rw [show b = true from hb]; exact List.mem_cons_self

theorem counts_put (c : Code) (v : Word) : (s.put c v).me.st = s.me.st ∧ (s.put c v).saggars = s.saggars := by
  unfold State.put
  dsimp only
  split
  · rw [State.me_modMe]; exact ⟨rfl, rfl⟩
  · split
    · rw [State.me_modMe]; exact ⟨rfl, rfl⟩
    · split
      · rw [me_modMyCore_queue]; exact ⟨rfl, rfl⟩
      · exact ⟨rfl, rfl⟩

/-! The forms. -/

/-- A form that ends in an operand frame, with no poisoned entry counted where there is none, leaves a scalar frame. -/
theorem scalarFrame_of_complete {i : Instr} {d : Code} (hs : s.Begins i) (hlen : i.len = 4) (hn : s.NoLoop) (he : exec i s = complete u) (ht : exec i s = .next t)
    (h : OperandFrame d.toNat s u) (hclean : s.Unmarked → u.me.st = s.me.st ∧ u.saggars = s.saggars) : ScalarFrame s t d := by
  have hcur : u.me.cur = some i := (congrArg (fun m : Strand => m.cur) h.rest).trans hs.cur_eq
  have hpast := he.trans (complete_of_noLoop i hcur (noLoop_of_rest h.rest hn))
  rw [ht] at hpast
  rw [Host.Outcome.next.inj hpast]
  exact h.scalarFrame_past hlen hclean

/-- A form of one source that writes d at once leaves a scalar frame. -/
theorem scalarFrame_of_oneSource {i : Instr} {ok : Bool} {d a : Code} {x : Bool} {f : Word → Word} {v : Word} (hi : exec i s = oneSource ok d a x f s)
    (hlen : i.len = 4) (hs : s.Begins i) (hp : s.me.prefixed = false) (hok : ok = true) (hx : srcOk x a = true)
    (ha : s.src a = some v) (hr : (s.took a x v).room d = true) (hn : s.NoLoop) (ht : exec i s = .next t) : ScalarFrame s t d := by
  have hreads := hs.reads_eq
  have hslot := hs.slot_lt
  refine scalarFrame_of_complete (u := (s.took a x v).put d (f v)) hs hlen hn ?_ ht ((OperandFrame.took a x v hslot).trans (.put d _)) (fun hm => ?_)
  · rw [hi, oneSource, hok, plain_of_starts ⟨hs, hp⟩, withDst_of_accepts d _ ((accepts_took a d x v hslot).symm.trans (accepts_of_room hr)),
      readSrc_of_src 0 a x _ v (by rw [hreads]; rfl) hx ha, finish_of_room d _ hr]
  · obtain ⟨h1, h2⟩ := counts_took a x v hslot hm
    obtain ⟨h3, h4⟩ := counts_put (s := s.took a x v) d (f v)
    exact ⟨h3.trans h1, h4.trans h2⟩

/-- A form of two sources that writes d at once leaves a scalar frame. -/
theorem scalarFrame_of_binary {i : Instr} {o : FmtA} {f : Word → Word → Word} {a b : Word} (hi : exec i s = binary o f s) (hlen : i.len = 4) (hs : s.Begins i)
    (hp : s.me.prefixed = false) (hx : srcOk o.x o.a = true) (hy : srcOk o.y o.b = true) (hd : dstOk o.d = true) (ha : s.src o.a = some a)
    (hb : (s.took o.a o.x a).src o.b = some b) (hr : ((s.took o.a o.x a).took o.b o.y b).room o.d = true) (hn : s.NoLoop) (ht : exec i s = .next t) :
    ScalarFrame s t o.d := by
  have hreads := hs.reads_eq
  have hslot := hs.slot_lt
  have hslot' : (s.took o.a o.x a).slot < 16 := by rw [slot_took _ _ _ hslot]; exact hslot
  refine scalarFrame_of_complete (u := ((s.took o.a o.x a).took o.b o.y b).put o.d (f a b)) hs hlen hn ?_ ht
    (((OperandFrame.took _ _ _ hslot).trans (.took _ _ _ hslot')).trans (.put o.d _)) (fun hm => ?_)
  · have hacc := accepts_of_room hr
    rw [accepts_took _ _ _ _ hslot', accepts_took _ _ _ _ hslot] at hacc
    rw [hi, binary, hx, hy, hd, Bool.and_self, Bool.and_self, plain_of_starts ⟨hs, hp⟩, withDst_of_accepts _ _ hacc,
      two_of_gives o a b _ _ _ hreads hslot ⟨hx, ha, rfl⟩ ⟨hy, hb, rfl⟩, finish_of_room _ _ hr]
  · obtain ⟨h1, h2⟩ := counts_took o.a o.x a hslot hm
    obtain ⟨h3, h4⟩ := counts_took o.b o.y b hslot' (unmarked_took _ _ _ hm)
    obtain ⟨h5, h6⟩ := counts_put (s := (s.took o.a o.x a).took o.b o.y b) o.d (f a b)
    exact ⟨h5.trans (h3.trans h1), h6.trans (h4.trans h2)⟩

/-- `ldi` reads no source (R116). -/
theorem scalarFrame_of_ldi (o : FmtLi) (hs : s.Begins (.ldi o)) (hp : s.me.prefixed = false) (hd : dstOk o.d = true) (hr : s.room o.d = true) (hn : s.NoLoop)
    (ht : exec (.ldi o) s = .next t) : ScalarFrame s t o.d := by
  refine scalarFrame_of_complete hs rfl hn ?_ ht (.put o.d (o.i.signExtend 64)) (fun _ => counts_put _ _)
  change execLdi o s = _
  rw [execLdi, hd, plain_of_starts ⟨hs, hp⟩, withDst_of_room _ _ hr, finish_of_room _ _ hr]

/-- The destination of `ldih`, an s register or z, has room after it has been read where it had room before. -/
theorem room_took_self (d : Code) (v : Word) (hslot : s.slot < 16) (hd : d.toNat < 32 ∨ d.toNat = 56) (hr : s.room d = true) : (s.took d false v).room d = true := by
  rcases hd with h32 | h56
  · have hacc := accepts_of_room hr
    rw [← accepts_took d d false v hslot] at hacc
    simpa [State.room, State.accepts, h32] using hacc
  · simp [State.room, h56]

/-- Settles O24: each form ends at once in its operand frame. -/
theorem scalarFormsFrame : Obligations.ScalarFormsFrame := by
  refine ⟨fun f hf o s t a b hs hp hx hy hd ha hb hr hn ht => ?_, fun f hf o s t a hs hp hx hd ha hr hn ht => ?_, fun f hf o s t a hs hp hx hd ha hr hn ht => ?_,
    fun f hf o s t a hs hp hx hd ha hr hn ht => ?_, fun o s t hs hp hd hr hn ht => scalarFrame_of_ldi o hs hp hd hr hn ht,
    fun o s t v hs hp hd ha hr hn ht => ?_⟩
  · obtain ⟨g, hg⟩ := exec_eq_binary f hf
    have hlen : (f o).len = 4 := by fin_cases hf <;> rfl
    exact scalarFrame_of_binary (hg o s) hlen hs hp hx hy hd ha hb hr hn ht
  · obtain ⟨g, hg⟩ := exec_unary_eq_oneSource f hf o s
    have hlen : (f o).len = 4 := by fin_cases hf <;> rfl
    exact scalarFrame_of_oneSource hg hlen hs hp (by simp [hx, hd]) hx ha hr hn ht
  · obtain ⟨g, hg⟩ := exec_immediate_eq_oneSource f hf o s
    have hlen : (f o).len = 4 := by fin_cases hf <;> rfl
    exact scalarFrame_of_oneSource hg hlen hs hp (by simp [hx, hd]) hx ha hr hn ht
  · obtain ⟨g, hg⟩ := exec_shiftImm_eq_oneSource f hf o s
    have hlen : (f o).len = 4 := by fin_cases hf <;> rfl
    exact scalarFrame_of_oneSource hg hlen hs hp (by simp [hx, hd]) hx ha hr hn ht
  · have hok : (decide (o.d.toNat < 32) || decide (o.d.toNat = 56)) = true := by simpa using hd
    have hsrc : srcOk false o.d = true := by simp [srcOk]; omega
    exact scalarFrame_of_oneSource rfl rfl hs hp hok hsrc ha (room_took_self o.d v hs.slot_lt hd hr) hn ht

end Sys2Proof.Machine
end

/-! Jumps, calls and returns (O16). -/
section
namespace Sys2Proof.Machine

variable {s u : State} {i : Instr}

/-- What changes with operands alone keeps the pc. -/
theorem pc_took (c : Code) (y : Bool) (v : Word) (h : s.slot < 16) : (s.took c y v).me.pc = s.me.pc :=
  show (s.took c y v).me.rest.pc = s.me.rest.pc by rw [rest_took c y v h]

theorem inTrap_took (c : Code) (y : Bool) (v : Word) (h : s.slot < 16) : (s.took c y v).me.inTrap = s.me.inTrap :=
  inTrap_of_rest (rest_took c y v h)

/-- A jump that ends in u goes on at its target where no loop can end (R132, R133). -/
theorem goesTo_of_exec {pc : Word} (he : exec i s = completeTo pc false u) : GoesTo i s u pc :=
  ⟨he, fun hn => he.trans (completeTo_of_noLoop pc false hn)⟩

/-- The first source of an instruction that has just begun is read at once (R65). -/
theorem State.Begins.readSrc_zero (h : s.Begins i) {c : Code} {y : Bool} {v : Word} (hy : srcOk y c = true) (hsrc : s.src c = some v) (k : Word → State → Out) :
    readSrc 0 c y s k = k v (s.took c y v) := by
  exact readSrc_of_src 0 c y k v (by rw [h.reads_eq]; rfl) hy hsrc

theorem withDst_lk (k : State → Out) (h : s.me.owes 31 = false) : withDst lk s k = k s := withDst_of_accepts lk k (by simp [State.accepts, lk, h])

/-- An even register target goes on (R56). -/
theorem toTarget_even {t : Word} (k : State → Out) (h : t.getLsbD 0 = false) : toTarget t s k = k s := by rw [toTarget, h, if_neg Bool.false_ne_true]

/-- An odd register target traps at the pc of the jump (R56). -/
theorem toTarget_odd {t : Word} (k : State → Out) (h : t.getLsbD 0 = true) : toTarget t s k = takeTrapCode 5 s.me.pc t s := by rw [toTarget, h, if_pos rfl]; rfl

theorem goesTo_jmp (o : FmtJ) (h : s.Starts (.jmp o)) :
    GoesTo (.jmp o) s ((if s.me.inTrap then s else s.modMe (fun m => m.leaveLoops (s.me.pc + 2 * o.p.signExtend 64))).traced 0 (s.me.pc + 2 * o.p.signExtend 64))
      (s.me.pc + 2 * o.p.signExtend 64) := by
  refine goesTo_of_exec ?_
  change execJmp o s = _
  rw [execJmp, plain_of_starts h, branchTo, dispTarget]

theorem goesTo_call (o : FmtJ) (h : s.Starts (.call o)) (ho : s.me.owes 31 = false) :
    GoesTo (.call o) s ((s.modMe (fun m => m.setS 31 (m.pc + 4))).traced 0 (s.me.pc + 2 * o.p.signExtend 64)) (s.me.pc + 2 * o.p.signExtend 64) := by
  refine goesTo_of_exec ?_
  change execCall o s = _
  rw [execCall, plain_of_starts h, withDst_lk _ ho, jumpTo, dispTarget]

theorem exec_jr (o : FmtSrc) {t : Word} (h : s.Starts (.jr o)) (hx : srcOk o.x o.a = true) (ht : s.src o.a = some t) :
    exec (.jr o) s = toTarget t (s.took o.a o.x t) (branchTo t) := by
  change execJr o s = _
  rw [execJr, hx, plain_of_starts h, h.begins.readSrc_zero hx ht]

theorem exec_callr (o : FmtSrc) {t : Word} (h : s.Starts (.callr o)) (hx : srcOk o.x o.a = true) (ho : s.me.owes 31 = false) (ht : s.src o.a = some t) :
    exec (.callr o) s = toTarget t (s.took o.a o.x t) (fun s => jumpTo t (s.modMe (fun m => m.setS 31 (m.pc + 4)))) := by
  change execCallr o s = _
  rw [execCallr, hx, plain_of_starts h, withDst_lk _ ho, h.begins.readSrc_zero hx ht]

theorem exec_ret {t : Word} (h : s.Starts .ret) (ht : s.src 31 = some t) : exec .ret s = toTarget t (s.took 31 false t) (jumpTo t) := by
  change execRet s = _
  rw [execRet, plain_of_starts h, lk, h.begins.readSrc_zero rfl ht]

/-- An empty lk parks `ret` on it. -/
theorem exec_ret_of_empty (h : s.Starts .ret) (he : s.me.sFull.getLsbD 31 = false) :
    exec .ret s = .next (s.modMe (fun m => { m with status := .parked (.reg 31) })) := by
  have hlacks : s.Lacks lk := ⟨by simp [State.src, lk, -BitVec.getLsbD_eq_getElem, he], fun h48 => absurd h48 (by decide)⟩
  change execRet s = _
  rw [execRet, plain_of_starts h]
  exact readSrc_of_lacks 0 lk false _ (by rw [h.begins.reads_eq]; rfl) hlacks

/-- Form codes 3 to 15 of `jr` are reserved. -/
theorem decodeWord_jr_reserved {w : Nat} (hw : w / 2 % 128 = 0x19) (hf : 3 ≤ w / 2 ^ 28 % 2 ^ 4) : decodeWord w = .error .reservedForm := by
  rw [decodeWord_major19 hw, decodeMajor19]
  generalize w / 2 ^ 28 % 2 ^ 4 = f at hf
  obtain ⟨f, rfl⟩ := Nat.exists_eq_add_of_le' hf
  rfl

/-- Settles O16: each form reads its target, and an odd one traps before lk is written. -/
theorem jumpsAndCallsComplete : Obligations.JumpsAndCallsComplete := by
  refine ⟨fun o s h hp => goesTo_jmp o ⟨h, hp⟩, fun o s h hp ho => goesTo_call o ⟨h, hp⟩ ho, fun o s t h hp hx ht => ⟨fun he => ?_, fun he => ?_⟩,
    fun o s t h hp hx ho ht => ⟨fun he => ?_, fun he => ?_⟩, fun s t h hp ht => ⟨fun he => ?_, fun he => ?_⟩, fun s h hp he => exec_ret_of_empty ⟨h, hp⟩ he, rfl,
    fun w => decodeWord_jr_reserved⟩
  · refine goesTo_of_exec ((exec_jr o ⟨h, hp⟩ hx ht).trans ?_)
    rw [toTarget_even _ he, branchTo, inTrap_took _ _ _ h.slot_lt]
  · rw [Traps, exec_jr o ⟨h, hp⟩ hx ht, toTarget_odd _ he, pc_took _ _ _ h.slot_lt]
  · exact goesTo_of_exec ((exec_callr o ⟨h, hp⟩ hx ho ht).trans (toTarget_even _ he))
  · rw [Traps, exec_callr o ⟨h, hp⟩ hx ho ht, toTarget_odd _ he, pc_took _ _ _ h.slot_lt]
  · exact goesTo_of_exec ((exec_ret ⟨h, hp⟩ ht).trans (toTarget_even _ he))
  · rw [Traps, exec_ret ⟨h, hp⟩ ht, toTarget_odd _ he, pc_took _ _ _ h.slot_lt]

end Sys2Proof.Machine
end

/-! A step runs the decoded instruction (O4), and the forms that take a trap (O20). -/
section
namespace Sys2Proof.Machine

variable {s t u : State} {i : Instr}

/-! Fetching. -/

/-- Two bytes that decode with nothing left over are a halfword instruction. -/
theorem decodeHalf_of_decode {a b : Byte} (h : decode [a, b] = .ok (i, [])) : ofBytes [a, b] % 2 = 0 ∧ decodeHalf (ofBytes [a, b]) = .ok i := by
  have hsum : ofBytes [a, b] = a.toNat + 256 * b.toNat := by simp [ofBytes]
  simp only [decode] at h
  split at h
  · next he =>
    refine ⟨by omega, ?_⟩
    rw [hsum]
    cases hd : decodeHalf (a.toNat + 256 * b.toNat) with
    | error e => rw [hd] at h; cases h
    | ok j => rw [hd] at h; cases h; rfl
  · cases h

/-- Four bytes whose first halfword is odd decode as a word. -/
theorem decodeWord_of_decode {a b c d : Byte} (ho : ofBytes [a, b] % 2 = 1) (h : decode [a, b, c, d] = .ok (i, [])) :
    decodeWord (ofBytes [a, b] + 65536 * ofBytes [c, d]) = .ok i := by
  have hsum : ofBytes [a, b] = a.toNat + 256 * b.toNat := by simp [ofBytes]
  have hsum' : ofBytes [a, b] + 65536 * ofBytes [c, d] = a.toNat + 256 * b.toNat + 65536 * c.toNat + 16777216 * d.toNat := by
    simp only [ofBytes]
    omega
  rw [decode, if_neg (by omega)] at h
  rw [hsum']
  cases hd : decodeWord (a.toNat + 256 * b.toNat + 65536 * c.toNat + 16777216 * d.toNat) with
  | error e => rw [hd] at h; cases h
  | ok j => rw [hd] at h; cases h; rfl

theorem codeBytes_two (s : State) (l : Nat) : s.codeBytes l 2 = [s.dieByte s.myDie l, s.dieByte s.myDie (l + 1)] := rfl

theorem fetch16_of_fetchLoc {a : Word} {l : Nat} (h : fetchLoc a s = .ok (l, t)) : fetch16 a s = .half (ofBytes (t.codeBytes l 2)) t := by
  rw [fetch16, h]

/-- A halfword instruction at the pc is fetched (R77). -/
theorem fetch_half {l : Nat} (h : fetchLoc s.me.pc s = .ok (l, t)) (hd : decode (t.codeBytes l 2) = .ok (i, [])) : fetch s = .ok (i, t) := by
  rw [codeBytes_two] at hd
  obtain ⟨he, hd⟩ := decodeHalf_of_decode hd
  rw [← codeBytes_two] at he hd
  simp only [fetch, fetch16_of_fetchLoc h, if_pos he, hd]

/-- A word instruction at the pc is fetched, halfword after halfword (R77). -/
theorem fetch_word {l l' : Nat} (h : fetchLoc s.me.pc s = .ok (l, t)) (ho : ofBytes (t.codeBytes l 2) % 2 = 1) (h' : fetchLoc (s.me.pc + 2) t = .ok (l', u))
    (hd : decode (t.codeBytes l 2 ++ u.codeBytes l' 2) = .ok (i, [])) : fetch s = .ok (i, u) := by
  rw [codeBytes_two, codeBytes_two] at hd
  rw [codeBytes_two] at ho
  have hd := decodeWord_of_decode ho hd
  rw [← codeBytes_two] at ho hd
  rw [← codeBytes_two] at hd
  have hn : ¬ ofBytes (t.codeBytes l 2) % 2 = 0 := by omega
  simp only [fetch, fetch16_of_fetchLoc h, fetch16_of_fetchLoc h', if_neg hn, hd]

/-- A strand at an instruction boundary runs what it fetches. -/
theorem runStrand_of_fetch (hs : s.me.stage = 0) (hc : s.me.cur = none) (hf : fetch s = .ok (i, t)) :
    runStrand s = exec i (t.modMe (fun m => { m with cur := some i })) := by
  rw [runStrand, if_neg (by omega), if_neg (by omega), hc]
  simp only [hf]

/-- A turn of the core in focus in which slot k issues (R251). -/
theorem step_of_choice {k : Nat} (ha : s.agenda = []) (hf : s.finishing s.core = none) (ht : s.turn s.core = some t) (hk : t.choice s.core = some k) :
    step s = stepped ((t.coreAt s.core).dctl.getLsbD 7) s.core (runStrand (t.focus s.core k)) := by
  simp only [step, ha, coreCycle, hf, ht, hk]

/-- Settles O4: the two cases are a halfword and a word. -/
theorem stepRunsTheDecodedInstruction : Obligations.StepRunsTheDecodedInstruction := by
  intro s t f1 f2 k l1 l2 i ha hf ht hk hs hc h1
  rw [step_of_choice ha hf ht hk]
  refine ⟨fun hd => ?_, fun ho h2 hd => ?_⟩
  · rw [runStrand_of_fetch hs hc (fetch_half h1 hd)]
  · rw [runStrand_of_fetch hs hc (fetch_word h1 ho h2 hd)]

/-! The pcs and memory, which a strand that backs off leaves. -/

/-- From s to t memory and every strand's pc are as they were. -/
structure PcFrame (s t : State) : Prop where
  mem : t.mem = s.mem
  pc : ∀ c k, (t.strandAt c k).pc = (s.strandAt c k).pc

namespace PcFrame

theorem refl (s : State) : PcFrame s s := ⟨rfl, fun _ _ => rfl⟩

theorem trans (h : PcFrame s t) (h' : PcFrame t u) : PcFrame s u := ⟨h'.mem.trans h.mem, fun c k => (h'.pc c k).trans (h.pc c k)⟩

theorem modStrand (c k : Nat) {f : Strand → Strand} (hf : ∀ m, (f m).pc = m.pc) : PcFrame s (s.modStrand c k f) := by
  refine ⟨rfl, fun c' k' => ?_⟩
  by_cases h : c' = c ∧ k' = k
  · obtain ⟨rfl, rfl⟩ := h
    rw [State.strandAt_modStrand, hf]
  · rw [strandAt_modStrand_of_ne f h]

theorem modMe {f : Strand → Strand} (hf : ∀ m, (f m).pc = m.pc) : PcFrame s (s.modMe f) := modStrand _ _ hf

theorem undoRead (r : Read) : PcFrame s (s.undoRead r) := by
  unfold State.undoRead
  split
  · exact refl s
  · split
    · exact modMe (fun _ => rfl)
    · split
      · exact modStrand _ _ (fun _ => rfl)
      · exact modMe (fun _ => rfl)
  · exact ⟨rfl, fun c k => by rw [State.modMyCore, strandAt_modCore_queue]⟩

theorem foldl_undoRead (rs : List Read) : PcFrame s (rs.foldl State.undoRead s) := by
  induction rs generalizing s with
  | nil => exact refl s
  | cons r rs ih => exact (undoRead r).trans ih

theorem undoReads : PcFrame s s.undoReads := (foldl_undoRead _).trans (modMe (fun _ => rfl))

/-- Which strand is in focus says nothing of memory and pcs. -/
theorem focus (c k : Nat) : PcFrame s { s with core := c, slot := k } := ⟨rfl, fun _ _ => rfl⟩

theorem modCluster (c : Nat) (f : Cluster → Cluster) : PcFrame s (s.modCluster c f) := ⟨rfl, fun _ _ => rfl⟩

theorem backOff (r : StrandRef) : PcFrame s (s.backOff r) := by
  unfold State.backOff
  dsimp only
  split
  · refine (((focus r.core r.slot).trans undoReads).trans (focus s.core s.slot)).trans ((modStrand _ _ (fun m => ?_)).trans (modCluster _ _))
    split
    · rfl
    · rfl
  · exact refl s

end PcFrame

theorem backOff_focus (r : StrandRef) : (s.backOff r).core = s.core ∧ (s.backOff r).slot = s.slot := by
  unfold State.backOff
  dsimp only
  split
  · exact ⟨rfl, rfl⟩
  · exact ⟨rfl, rfl⟩

/-- When the strands of a core back off, the focus, memory and the pcs stay (R405). -/
theorem foldl_backOff (c : Nat) (ks : List Nat) : ∀ s : State, let t := ks.foldl (fun (t : State) k => t.backOff ⟨c, k⟩) s
    PcFrame s t ∧ t.core = s.core ∧ t.slot = s.slot := by
  induction ks with
  | nil => exact fun s => ⟨.refl s, rfl, rfl⟩
  | cons k ks ih =>
    intro s
    obtain ⟨hpc, hcore, hslot⟩ := ih (s.backOff ⟨c, k⟩)
    obtain ⟨hcore', hslot'⟩ := backOff_focus (s := s) ⟨c, k⟩
    exact ⟨(PcFrame.backOff ⟨c, k⟩).trans hpc, hcore.trans hcore', hslot.trans hslot'⟩

/-- A change of a core that leaves its slots leaves memory and the pcs. -/
theorem PcFrame.modCore (c : Nat) {f : Core → Core} (hf : ∀ x, (f x).slots = x.slots) : PcFrame s (s.modCore c f) :=
  ⟨rfl, fun c' k => by rw [strandAt_modCore hf]⟩

/-- A debug stop of a running core leaves the focus, memory and the pcs, and the core has stopped (R433). -/
theorem stopCore_frame (h : s.myCore.stopped = false) : PcFrame s (s.stopCore s.core) ∧ (s.stopCore s.core).core = s.core ∧
    (s.stopCore s.core).slot = s.slot ∧ (s.stopCore s.core).myCore.stopped = true := by
  have hfold : PcFrame s (if s.relocking s.core then s else s.backOffAll s.core) ∧ (if s.relocking s.core then s else s.backOffAll s.core).core = s.core ∧
      (if s.relocking s.core then s else s.backOffAll s.core).slot = s.slot := by
    split
    · exact ⟨.refl s, rfl, rfl⟩
    · exact foldl_backOff s.core (List.range 16) s
  rw [State.stopCore, if_neg (by simpa [State.myCore] using h)]
  obtain ⟨hpc, hcore, hslot⟩ := hfold
  refine ⟨hpc.trans (.modCore _ (fun _ => rfl)), hcore, hslot, ?_⟩
  rw [State.myCore, State.modCore_core, hcore, State.coreAt_modCore]

/-- Changing the strand in focus changes the slots of its core alone. -/
theorem myCore_modMe (f : Strand → Strand) : (s.modMe f).myCore = { s.myCore with slots := Tbl.upd s.myCore.slots s.slot Strand.empty f } := State.coreAt_modCore ..

/-! The forms that trap. -/

/-- `brk` stops its core where BRKEN is set, and tells the debug module (R140, R432). -/
theorem brk_stops (o : FmtTrap) (h : s.Starts (.brk o)) (hb : s.myCore.dctl.getLsbD 5 = true) (hr : s.myCore.stopped = false) :
    ∃ t, exec (.brk o) s = .next t ∧ t.myCore.stopped = true ∧ t.myCore.brkPc = s.me.pc ∧ t.myCore.brkCode = o.c.setWidth 64 ∧ t.me.pc = s.me.pc ∧
      t.mem = s.mem := by
  obtain ⟨hpc, hcore, hslot, hstop⟩ := stopCore_frame hr
  refine ⟨((s.stopCore s.core).modMyCore (fun c => { c with brkPc := s.me.pc, brkCode := o.c.setWidth 64 })).modMe Strand.retire, ?_, ?_, ?_, ?_, ?_, ?_⟩
  · change execBrk o s = _
    rw [execBrk, plain_of_starts h, if_pos hb]
  · rw [myCore_modMe, State.myCore_modMyCore]; exact hstop
  · rw [myCore_modMe, State.myCore_modMyCore]
  · rw [myCore_modMe, State.myCore_modMyCore]
  · have hf := (hpc.trans (.modCore (s.stopCore s.core).core (f := fun c => { c with brkPc := s.me.pc, brkCode := o.c.setWidth 64 }) (fun _ => rfl))).pc s.core s.slot
    rw [State.me_modMe]
    refine Eq.trans ?_ hf
    rw [State.me, State.modMyCore, State.modCore_core, State.modCore_slot, hcore, hslot]
    rfl
  · exact hpc.mem

/-- Taking a trap always answers a next state (R401, R404). -/
theorem takeTrapCode_next (c : Nat) (epc v : Word) (s : State) : ∃ t, takeTrapCode c epc v s = .next t := by
  unfold takeTrapCode
  dsimp only
  split
  · exact ⟨_, rfl⟩
  · exact ⟨_, rfl⟩

/-- Settles O20: past the checks each form takes its trap, and `brk` may stop its core instead. -/
theorem trapFormsTakeTheirTrap : Obligations.TrapFormsTakeTheirTrap := by
  refine ⟨fun o s h hp => ?_, fun o s h hp => ?_, fun o s h hp => ⟨fun hb => ?_, fun hb hr => brk_stops o ⟨h, hp⟩ hb hr⟩,
    fun w s => ?_, fun bad a s => ?_, takeTrapCode_next⟩
  · change execTrap o s = _
    rw [execTrap, plain_of_starts ⟨h, hp⟩]
  · change execSysc o s = _
    rw [execSysc, plain_of_starts ⟨h, hp⟩]
  · change execBrk o s = _
    rw [execBrk, plain_of_starts ⟨h, hp⟩, hb, if_neg Bool.false_ne_true]
  · change execNonInstruction w s = _
    rw [execNonInstruction, trap, State.me_modMe]
    rfl
  · change execFetchFault bad a s = _
    rw [execFetchFault, trap, State.me_modMe]
    cases bad
    · rfl
    · rfl

end Sys2Proof.Machine
end

/-! Writes of system registers (O14). -/
section
namespace Sys2Proof.Tbl

variable {α : Type}

/-- What is found is listed. -/
theorem mem_of_find {t : List (Nat × α)} {k : Nat} {v : α} (h : find t k = some v) : (k, v) ∈ t := by
  induction t with
  | nil => cases h
  | cons e t ih =>
    obtain ⟨j, w⟩ := e
    rw [find] at h
    split at h
    · next hj =>
      cases h
      rw [hj]
      exact List.mem_cons_self
    · exact List.mem_cons_of_mem _ (ih h)

/-- A change of every value is a change of the value found. -/
theorem find_map (f : Nat → α → α) (t : List (Nat × α)) (k : Nat) : find (t.map (fun e => (e.1, f e.1 e.2))) k = (find t k).map (f k) := by
  induction t with
  | nil => rfl
  | cons e t ih =>
    rw [List.map_cons, find, find]
    split
    · next hj => rw [hj]; rfl
    · exact ih

end Sys2Proof.Tbl

namespace Sys2Proof.Machine

variable {s t : State}

/-! Fields of a word. -/

/-- Keeping bits [lo+n-1:lo] of a word in place is masking it. -/
theorem ofNat_field_eq_and (v : Word) (lo n : Nat) : BitVec.ofNat 64 (v.toNat / 2 ^ lo % 2 ^ n * 2 ^ lo) = v &&& BitVec.ofNat 64 ((2 ^ n - 1) * 2 ^ lo) := by
  apply BitVec.eq_of_getLsbD_eq
  intro i hi
  rw [BitVec.getLsbD_and, BitVec.getLsbD_ofNat, BitVec.getLsbD_ofNat, Nat.mul_comm _ (2 ^ lo), Nat.mul_comm _ (2 ^ lo), Nat.testBit_two_pow_mul,
    Nat.testBit_two_pow_mul, Nat.testBit_mod_two_pow, Nat.testBit_two_pow_sub_one, Nat.testBit_div_two_pow, BitVec.getLsbD]
  by_cases hlo : lo ≤ i
  · rw [Nat.sub_add_cancel hlo]
    simp [hlo, hi, Bool.and_comm]
  · simp [hlo]

/-- Clearing the n low bits is masking. -/
theorem withBits_zero_eq_and (v : Word) {n : Nat} (h : n ≤ 64) : withBits v 0 n 0 = v &&& BitVec.ofNat 64 ((2 ^ (64 - n) - 1) * 2 ^ n) := by
  have hq : v.toNat / 2 ^ n < 2 ^ (64 - n) := by
    refine Nat.div_lt_of_lt_mul ?_
    rw [← Nat.pow_add, Nat.add_sub_cancel' h]
    exact v.isLt
  rw [← ofNat_field_eq_and, Nat.mod_eq_of_lt hq, withBits]
  simp [Nat.mod_one]

theorem even_eq_and (v : Word) : even v = v &&& 0xFFFFFFFFFFFFFFFE#64 := withBits_zero_eq_and v (n := 1) (by omega)

/-- A number of at most 16 or 12 bits as a register. -/
theorem word_mod_eq_and (v : Word) (n : Nat) : word (v.toNat % 2 ^ n) = v &&& BitVec.ofNat 64 (2 ^ n - 1) := by
  simpa [word] using ofNat_field_eq_and v 0 n

theorem heapBound_eq_and (v : Word) : word (bitsOf v 16 41 * 65536) = v &&& 0x01FFFFFFFFFF0000#64 := ofNat_field_eq_and v 16 41

theorem and_ones (v : Word) : v = v &&& 0xFFFFFFFFFFFFFFFF#64 := (BitVec.and_allOnes (x := v)).symm

/-! Strands, seen through writes of registers. -/

@[simp] theorem me_modSag (g : Nat) (f : Saggar → Saggar) : (s.modSag g f).me = s.me := by
  rw [State.me, State.modSag_core, State.modSag_slot, State.strandAt, coreAt_modSag]
  rfl

/-- Changing the saggar of a formed number is seen. -/
theorem sagAt_modSag {g : Nat} {x : Saggar} (f : Saggar → Saggar) (h : s.sagAt g = some x) : (s.modSag g f).sagAt g = some (f x) := by
  rw [State.modSag, h]
  exact Tbl.find_put_same ..

/-- What each change of a list of strands keeps, changing them all keeps. -/
theorem foldl_modStrand_keeps {P : Strand → Prop} {f : Strand → Strand} (hf : ∀ m, P m → P (f m)) (c k : Nat) (l : List StrandRef) :
    ∀ s : State, P (s.strandAt c k) → P ((l.foldl (fun (s : State) x => s.modStrand x.core x.slot f) s).strandAt c k) := by
  induction l with
  | nil => exact fun _ h => h
  | cons x l ih =>
    intro s h
    refine ih _ ?_
    by_cases hx : c = x.core ∧ k = x.slot
    · obtain ⟨rfl, rfl⟩ := hx
      rw [State.strandAt_modStrand]
      exact hf _ h
    · rwa [strandAt_modStrand_of_ne f hx]

/-- A listed strand has been changed. -/
theorem foldl_modStrand_changes {P : Strand → Prop} {f : Strand → Strand} (hf : ∀ m, P (f m)) (c k : Nat) (l : List StrandRef) (hl : ⟨c, k⟩ ∈ l) :
    ∀ s : State, P ((l.foldl (fun (s : State) x => s.modStrand x.core x.slot f) s).strandAt c k) := by
  induction l with
  | nil => cases hl
  | cons x l ih =>
    intro s
    rcases List.mem_cons.1 hl with rfl | hl
    · refine foldl_modStrand_keeps (fun m _ => hf m) c k l _ ?_
      rw [State.strandAt_modStrand]
      exact hf _
    · exact ih hl _

theorem foldl_modStrand_focus (f : Strand → Strand) (l : List StrandRef) : ∀ s : State,
    (l.foldl (fun (s : State) x => s.modStrand x.core x.slot f) s).core = s.core ∧ (l.foldl (fun (s : State) x => s.modStrand x.core x.slot f) s).slot = s.slot := by
  induction l with
  | nil => exact fun _ => ⟨rfl, rfl⟩
  | cons x l ih => exact fun s => ih (s.modStrand x.core x.slot f)

/-- The strand in focus is one of the live strands where it is live. -/
theorem myRef_mem_liveStrands (h : s.me.live = true) : (⟨s.core, s.slot⟩ : StrandRef) ∈ s.liveStrands := by
  rw [State.me, State.strandAt, State.coreAt, Core.slotAt, Tbl.get, Tbl.get] at h
  cases hc : Tbl.find s.cores s.core with
  | none => rw [hc] at h; cases h
  | some x =>
    rw [hc, Option.getD_some] at h
    cases hk : Tbl.find x.slots s.slot with
    | none => rw [hk] at h; cases h
    | some m =>
      rw [hk, Option.getD_some] at h
      refine List.mem_flatMap.2 ⟨_, Tbl.mem_of_find hc, List.mem_map.2 ⟨_, List.mem_filter.2 ⟨Tbl.mem_of_find hk, h⟩, rfl⟩⟩

/-- A live strand of a speculative task is among the task's strands. -/
theorem myRef_mem_taskStrands {r : SpecRef} (h : s.me.live = true) (hr : s.me.spec = some r) : (⟨s.core, s.slot⟩ : StrandRef) ∈ s.taskStrands s.me.sag r := by
  refine List.mem_filter.2 ⟨myRef_mem_liveStrands h, ?_⟩
  have hspec : (s.strandOf ⟨s.core, s.slot⟩).spec = some r := hr
  simp only [hspec, decide_true, Bool.and_true, decide_eq_true_eq]
  rfl

theorem me_setUndo (sag : Nat) (r : SpecRef) (b p : Word) : (s.setUndo sag r b p).me =
    ((s.taskStrands sag r).foldl (fun (s : State) x => s.modStrand x.core x.slot (fun m => { m with undob := b, undop := p }))
      (s.modSpec sag r (fun t => { t with undob := b, undop := p }))).strandAt s.core s.slot := by
  obtain ⟨hcore, hslot⟩ := foldl_modStrand_focus (fun m => { m with undob := b, undop := p }) (s.taskStrands sag r)
    (s.modSpec sag r (fun t => { t with undob := b, undop := p }))
  rw [State.modSpec, State.modSag_core] at hcore
  rw [State.modSpec, State.modSag_slot] at hslot
  rw [State.me, State.setUndo, State.modSpec, hcore, hslot]

/-- After a write of the undo registers the strand in focus reads them (R326). -/
theorem me_writeUndo (b p : Word) (h : s.me.spec = none ∨ s.me.live = true) : (s.writeUndo b p).me.undob = b ∧ (s.writeUndo b p).me.undop = p := by
  unfold State.writeUndo
  split
  · next r hr =>
    have hlive : s.me.live = true := h.resolve_left (by rw [hr]; exact fun hn => by cases hn)
    rw [me_setUndo]
    exact foldl_modStrand_changes (P := fun m => m.undob = b ∧ m.undop = p) (fun _ => ⟨rfl, rfl⟩) _ _ _ (myRef_mem_taskStrands hlive hr) _
  · rw [State.me_modMe]
    exact ⟨rfl, rfl⟩

theorem cur_writeUndo (b p : Word) : (s.writeUndo b p).me.cur = s.me.cur := by
  unfold State.writeUndo
  split
  · rw [me_setUndo]
    refine foldl_modStrand_keeps (P := fun m => m.cur = s.me.cur) (f := fun m => { m with undob := b, undop := p }) (fun _ hm => hm) _ _ _ _ ?_
    rw [State.modSpec, State.strandAt, coreAt_modSag]
    rfl
  · rw [State.me_modMe]

/-- A change of every core that leaves its slots leaves every strand. -/
theorem strandAt_mapCores (f : Nat → Core → Core) (hf : ∀ c x, (f c x).slots = x.slots) (c k : Nat) :
    State.strandAt { s with cores := s.cores.map (fun e => (e.1, f e.1 e.2)) } c k = s.strandAt c k := by
  rw [State.strandAt, State.coreAt, Tbl.get, Tbl.find_map, State.strandAt, State.coreAt, Tbl.get]
  cases Tbl.find s.cores c with
  | none => rfl
  | some x => rw [Option.map_some, Option.getD_some, Option.getD_some, Core.slotAt, hf, Core.slotAt]

/-- Relaxing the power states leaves every strand (R443). -/
theorem strandAt_relaxPower (c k : Nat) : s.relaxPower.strandAt c k = s.strandAt c k := by
  refine strandAt_mapCores (s := { s with dies := _ }) (fun c x => if s.dieTol (dieOf (clusterOf c)) < 20 then { x with gated := false } else x) (fun c x => ?_) c k
  split
  · rfl
  · rfl

@[simp] theorem me_relaxPower : s.relaxPower.me = s.me := strandAt_relaxPower s.core s.slot

/-- Changing EBUD leaves the strand in focus. -/
theorem me_modMyCore_ebud (w : Word) : (s.modMyCore (fun c => { c with ebud := w })).me = s.me :=
  strandAt_modCore (f := fun c => { c with ebud := w }) (fun _ => rfl) _ _

/-- A write of a system register leaves the instruction in progress. -/
theorem cur_writeSys (n : Nat) (v : Word) : (writeSys n v s).me.cur = s.me.cur := by
  have hmaybe (b : Bool) (f : Saggar → Saggar) : (if b = true then s.modSag s.me.sag f else s).me.cur = s.me.cur := by
    split
    · rw [me_modSag]
    · rfl
  unfold writeSys
  split <;> simp only [State.me_modMe, Strand.setLc, cur_writeUndo, me_modMyCore_ebud, me_relaxPower, me_modSag, hmaybe]

theorem cur_took (c : Code) (y : Bool) (v : Word) (h : s.slot < 16) : (s.took c y v).me.cur = s.me.cur :=
  show (s.took c y v).me.rest.cur = s.me.rest.cur by rw [rest_took c y v h]

/-- `mts` writes its register and ends (R125). -/
theorem mts_completes (o : FmtMts) {v : Word} (h : s.Starts (.mts o)) (hx : srcOk o.x o.a = true) (hw : writeAllowed o.i.toNat s.me = true) (hv : s.src o.a = some v) :
    Completes (.mts o) s (writeSys o.i.toNat v (s.took o.a o.x v)) := by
  refine completes_of_exec ?_ ?_
  · change execMts o s = _
    rw [execMts, hw, hx, checked_ok false _ (by simp [h.unprefixed]), h.begins.readSrc_zero hx hv]
  · rw [cur_writeSys, cur_took o.a o.x v h.begins.slot_lt, h.begins.cur_eq]

/-- A register whose write class the strand lacks traps PRIVILEGED (R77, R125). -/
theorem mts_privileged (o : FmtMts) (h : s.Begins (.mts o)) (hw : writeAllowed o.i.toNat s.me = false) : Traps (.mts o) s s 3 (word (encode (.mts o))) := by
  change execMts o s = _
  rw [execMts, hw, checked_privileged _ _ _ h.stage_eq, h.curWord_eq]
  rfl

theorem writeAllowed_of_priv (m : Strand) (n : Nat) (h : m.priv = true) : writeAllowed n m = true := by
  simp [writeAllowed, h]

theorem writeAllowed_trap_registers (m : Strand) {n : Nat} (hn : n ∈ [1, 2, 3, 4, 5]) : writeAllowed n m = (m.priv || m.inTrap) := by
  fin_cases hn <;> rfl

theorem writeAllowed_privileged_registers (m : Strand) {n : Nat} (hn : n ∈ [0x030, 0x031, 0x032, 0x049, 0x04A, 0x050, 0x058, 0x059, 0x05A, 0x078]) :
    writeAllowed n m = m.priv := by
  fin_cases hn <;> rfl

/-! What is read back. -/

/-- The registers that keep a written value in the bits of a mask. -/
theorem readSys_writeSys_masked (v : Word) (s : State) (hlive : s.me.spec = none ∨ s.me.live = true) (hlc : Tbl.sortedFrom 0 s.me.lc = true)
    (hlb : Tbl.sortedFrom 0 s.me.lb = true) (hle : Tbl.sortedFrom 0 s.me.le = true) :
    ∀ p ∈ [(0x001, 0xFFFFFFFFFFFFFFFE#64), (0x003, 0xFFFFFFFFFFFFFFFF#64), (0x004, 0xFFFFFFFFFFFFFFFF#64), (0x005, 0x8000FFFFFFFFFFFF#64),
       (0x006, 0xFFFFFFFFFFFFFFFE#64), (0x010, 0xFFFFFFFFFFFFFFFF#64), (0x011, 0xFFFFFFFFFFFFFFFF#64), (0x012, 0xFFFFFFFFFFFFFFFF#64),
       (0x014, 0xFFFFFFFFFFFFFFFF#64), (0x015, 0xFFFFFFFFFFFFFFFF#64), (0x016, 0xFFFFFFFFFFFFFFFF#64), (0x018, 0xFFFFFFFFFFFFFFFE#64),
       (0x019, 0xFFFFFFFFFFFFFFFE#64), (0x01A, 0xFFFFFFFFFFFFFFFE#64), (0x030, 0xFFFF#64), (0x041, 0xFFF#64), (0x049, 0xFFFFFFFFFFFFE000#64),
       (0x04A, 0xFFFFFFFFFFFFFFE0#64), (0x058, 0x01FFFFFFFFFF0000#64), (0x059, 0x01FFFFFFFFFF0000#64), (0x05A, 0xFFFFFFFFFFFF0000#64)],
     readSys p.1 (writeSys p.1 v s) = v &&& p.2 := by
  have hme {α : Type} (p : Strand → α) (f : Strand → Strand) : p (s.modMe f).me = p (f s.me) := congrArg p (s.me_modMe f)
  intro p hp
  fin_cases hp
  case _ => exact (hme Strand.epc _).trans (even_eq_and v)
  case _ => exact (hme Strand.eaddr _).trans (and_ones v)
  case _ => exact (hme Strand.istate0 _).trans (and_ones v)
  case _ => exact hme Strand.istate1 _
  case _ => exact (hme Strand.tvec _).trans (even_eq_and v)
  case _ => exact (hme (Strand.lcAt · 0) _).trans ((Tbl.get_set_same _ _ _ _ hlc).trans (and_ones v))
  case _ => exact (hme (Strand.lcAt · 1) _).trans ((Tbl.get_set_same _ _ _ _ hlc).trans (and_ones v))
  case _ => exact (hme (Strand.lcAt · 2) _).trans ((Tbl.get_set_same _ _ _ _ hlc).trans (and_ones v))
  case _ => exact (hme (Strand.lbAt · 0) _).trans ((Tbl.get_set_same _ _ _ _ hlb).trans (and_ones v))
  case _ => exact (hme (Strand.lbAt · 1) _).trans ((Tbl.get_set_same _ _ _ _ hlb).trans (and_ones v))
  case _ => exact (hme (Strand.lbAt · 2) _).trans ((Tbl.get_set_same _ _ _ _ hlb).trans (and_ones v))
  case _ => exact (hme (Strand.leAt · 0) _).trans ((Tbl.get_set_same _ _ _ _ hle).trans (even_eq_and v))
  case _ => exact (hme (Strand.leAt · 1) _).trans ((Tbl.get_set_same _ _ _ _ hle).trans (even_eq_and v))
  case _ => exact (hme (Strand.leAt · 2) _).trans ((Tbl.get_set_same _ _ _ _ hle).trans (even_eq_and v))
  case _ => exact (hme (fun m => word m.ctx) _).trans (word_mod_eq_and v 16)
  case _ => exact (hme (fun m => word m.tspace) _).trans (word_mod_eq_and v 12)
  case _ => exact (me_writeUndo (withBits v 0 13 0) s.me.undop hlive).1.trans (withBits_zero_eq_and v (n := 13) (by omega))
  case _ => exact (me_writeUndo s.me.undob (withBits v 0 5 0) hlive).2.trans (withBits_zero_eq_and v (n := 5) (by omega))
  case _ => exact (hme Strand.heapb _).trans (heapBound_eq_and v)
  case _ => exact (hme Strand.heapl _).trans (heapBound_eq_and v)
  case _ => exact (hme Strand.heapo _).trans (withBits_zero_eq_and v (n := 16) (by omega))

/-- The lowest bits of a word after they have been replaced, and those above them. -/
theorem bitsOf_withBits_zero (w : Word) {n : Nat} (v : Nat) (h : n ≤ 64) (m : Nat) :
    bitsOf (withBits w 0 n v) 0 n = v % 2 ^ n ∧ bitsOf (withBits w 0 n v) n m = bitsOf w n m := by
  have hlow : v % 2 ^ n < 2 ^ n := Nat.mod_lt _ (by positivity)
  simp only [bitsOf, toNat_withBits w v (show 0 + n ≤ 64 by omega), Nat.pow_zero, Nat.zero_add, Nat.div_one, Nat.mod_one, Nat.mul_one]
  rw [Nat.add_mul_mod_self_right, Nat.mod_mod, Nat.add_mul_div_right _ _ (by positivity), Nat.div_eq_of_lt hlow, Nat.zero_add]
  exact ⟨rfl, rfl⟩

/-- EBUD takes a balance of at most CAP (R362). -/
theorem clampEbud_fields (v : Word) : bitsOf (clampEbud v) 24 40 = bitsOf v 24 40 ∧ bitsOf (clampEbud v) 0 24 = min (bitsOf v 0 24) (bitsOf v 24 24) := by
  rw [clampEbud]
  split
  · next h =>
    obtain ⟨hlow, hhigh⟩ := bitsOf_withBits_zero v (n := 24) (bitsOf v 24 24) (by omega) 40
    rw [hlow, hhigh, Nat.min_eq_right h.le]
    exact ⟨rfl, Nat.mod_mod _ _⟩
  · next h => exact ⟨rfl, by omega⟩

theorem readSys_ebud (v : Word) (s : State) : readSys 0x050 (writeSys 0x050 v s) = clampEbud v := congrArg Core.ebud (s.myCore_modMyCore _)

/-- The limits that a saggar's tag range keeps (R326). -/
theorem tagRangeOk_iff {sag lo hi : Nat} {g : Saggar} (hg : s.sagAt sag = some g) : s.tagRangeOk sag lo hi = true ↔
    lo ≠ 0 ∧ lo ≤ hi ∧ (∀ x ∈ s.saggars, x.1 ≠ sag → hi < bitsOf x.2.ctbase 0 16 ∨ bitsOf x.2.ctlim 0 16 < lo) ∧ ∀ c ∈ g.ctxs, lo ≤ c.1 ∧ c.1 ≤ hi := by
  simp only [State.tagRangeOk, hg, Bool.and_eq_true, decide_eq_true_eq, List.all_eq_true, Bool.or_eq_true, and_assoc, ne_eq, or_assoc]
  refine and_congr_right fun _ => and_congr_right fun _ => and_congr_left fun _ => forall₂_congr fun x _ => ?_
  exact ⟨fun h hn => h.resolve_left hn, fun h => or_iff_not_imp_left.2 h⟩

theorem bitsOf_zero (v : Word) (n : Nat) : bitsOf v 0 n = v.toNat % 2 ^ n := by rw [bitsOf, Nat.pow_zero, Nat.div_one]

/-- CTBASE and CTLIM take a range that keeps the limits, and no other (R326). -/
theorem readSys_writeSys_tagRange (v : Word) {g : Saggar} {n lo hi : Nat} (hg : s.sagAt s.me.sag = some g)
    (hn : (n = 0x031 ∧ lo = bitsOf v 0 16 ∧ hi = bitsOf g.ctlim 0 16) ∨ (n = 0x032 ∧ lo = bitsOf g.ctbase 0 16 ∧ hi = bitsOf v 0 16)) :
    (s.tagRangeOk s.me.sag lo hi = true → readSys n (writeSys n v s) = v &&& 0xFFFF) ∧ (¬ s.tagRangeOk s.me.sag lo hi = true → writeSys n v s = s) := by
  rcases hn with ⟨rfl, rfl, rfl⟩ | ⟨rfl, rfl, rfl⟩
  · have hw : writeSys 0x031 v s = if s.tagRangeOk s.me.sag (bitsOf v 0 16) (bitsOf g.ctlim 0 16) then s.modSag s.me.sag (fun x => { x with ctbase := v &&& 0xFFFF }) else s := by
      simp only [writeSys, hg, bitsOf_zero]
      rfl
    refine ⟨fun h => ?_, fun h => hw.trans (if_neg h)⟩
    rw [hw, if_pos h, readSys, me_modSag, sagAt_modSag _ hg]
  · have hw : writeSys 0x032 v s = if s.tagRangeOk s.me.sag (bitsOf g.ctbase 0 16) (bitsOf v 0 16) then s.modSag s.me.sag (fun x => { x with ctlim := v &&& 0xFFFF }) else s := by
      simp only [writeSys, hg, bitsOf_zero]
      rfl
    refine ⟨fun h => ?_, fun h => hw.trans (if_neg h)⟩
    rw [hw, if_pos h, readSys, me_modSag, sagAt_modSag _ hg]

theorem readSys_writeSys_lattol (v : Word) {g : Saggar} (hg : s.sagAt s.me.sag = some g) : readSys 0x078 (writeSys 0x078 v s) = v &&& 0xFFFFFFFF := by
  have hsag : (writeSys 0x078 v s).sagAt (writeSys 0x078 v s).me.sag = some { g with lattol := v &&& 0xFFFFFFFF } := by
    rw [show writeSys 0x078 v s = (s.modSag s.me.sag (fun x => { x with lattol := v &&& 0xFFFFFFFF })).relaxPower from rfl, me_relaxPower, me_modSag]
    exact sagAt_modSag _ hg
  simp only [readSys, hsag]

theorem writeSys_readOnly : ∀ n ∈ [0x020, 0x021, 0x040, 0x048, 0x060, 0x061, 0x062, 0x070, 0x071, 0x072, 0x079], ∀ (v : Word) (s : State), writeSys n v s = s := by
  intro n hn v s
  fin_cases hn <;> rfl

/-- Settles O14. -/
theorem mtsWritesSystemRegisters : Obligations.MtsWritesSystemRegisters := by
  refine ⟨⟨fun o s v h hp hx hw hv => mts_completes o ⟨h, hp⟩ hx hw hv, fun p hp v s hlive hlc hlb hle => readSys_writeSys_masked v s hlive hlc hlb hle p hp,
    fun v s => ⟨?_, ?_, ?_⟩, fun v s g n lo hi hg hn => ?_, fun v s g hg => readSys_writeSys_lattol v hg, writeSys_readOnly⟩,
    fun o s h hpriv hn => mts_privileged o h ?_, writeAllowed_of_priv, fun m hm n hn => by rw [writeAllowed_trap_registers m hn, hm, Bool.or_true]⟩
  · exact congrArg Strand.st (s.me_modMe _)
  · exact congrArg Strand.ecause (s.me_modMe _)
  · rw [readSys_ebud]
    exact clampEbud_fields v
  · dsimp only
    rw [← tagRangeOk_iff hg]
    exact readSys_writeSys_tagRange v hg hn
  · rcases hn with hn | ⟨hn, ht⟩
    · rw [writeAllowed_privileged_registers _ hn, hpriv]
    · rw [writeAllowed_trap_registers _ hn, hpriv, ht]
      rfl

end Sys2Proof.Machine
end

/-! What reading a record leaves of the strand in focus (O44). The lemmas follow the functions of an access, one each. -/
section
namespace Sys2Proof.Machine

variable {s s0 t : State}

/-- From s to t the focus is the same, and the strand in focus has changed in nothing but what operands touch. -/
structure KeepsStrand (s t : State) : Prop where
  core : t.core = s.core
  slot : t.slot = s.slot
  rest : t.me.rest = s.me.rest

namespace KeepsStrand

theorem refl (s : State) : KeepsStrand s s := ⟨rfl, rfl, rfl⟩

theorem trans (h : KeepsStrand s0 s) (h' : KeepsStrand s t) : KeepsStrand s0 t :=
  ⟨h'.core.trans h.core, h'.slot.trans h.slot, h'.rest.trans h.rest⟩

theorem cur (h : KeepsStrand s t) : t.me.cur = s.me.cur := show t.me.rest.cur = s.me.rest.cur by rw [h.rest]
theorem pc (h : KeepsStrand s t) : t.me.pc = s.me.pc := show t.me.rest.pc = s.me.rest.pc by rw [h.rest]

theorem ite {u : State} {p : Prop} [Decidable p] (h : KeepsStrand s t) (h' : KeepsStrand s u) : KeepsStrand s (if p then t else u) := by
  split
  · exact h
  · exact h'

theorem foldl {α : Type} {f : State → α → State} (l : List α) (hf : ∀ {t a}, KeepsStrand s0 t → KeepsStrand s0 (f t a)) (h : KeepsStrand s0 s) :
    KeepsStrand s0 (l.foldl f s) := by
  induction l generalizing s with
  | nil => exact h
  | cons a l ih => exact ih (hf h)

/-- What leaves the cores and the focus leaves the strand. -/
theorem same (h : KeepsStrand s0 s) (e : (t.cores, t.core, t.slot) = (s.cores, s.core, s.slot)) : KeepsStrand s0 t := by
  obtain ⟨hcores, hfocus⟩ := Prod.mk.inj e
  obtain ⟨hcore, hslot⟩ := Prod.mk.inj hfocus
  have hme : t.me = s.me := by rw [State.me, State.strandAt, State.coreAt, hcores, hcore, hslot]; rfl
  exact ⟨hcore.trans h.core, hslot.trans h.slot, by rw [hme, h.rest]⟩

theorem ofOperandFrame {d : Nat} (h : KeepsStrand s0 s) (h' : OperandFrame d s t) : KeepsStrand s0 t := h.trans ⟨h'.core, h'.slot, h'.rest⟩

/-! Memory. -/

theorem setBytes (l : Nat) (bs : List Byte) (h : KeepsStrand s0 s) : KeepsStrand s0 (s.setBytes l bs) := by
  induction bs generalizing s l with
  | nil => exact h
  | cons b t ih => exact ih _ (h.same rfl)

theorem bumpUnit {l : Nat} {f : Repair → Repair} (h : KeepsStrand s0 s) : KeepsStrand s0 (s.bumpUnit l f) := by
  unfold State.bumpUnit
  split
  · exact h.same rfl
  · exact h

theorem meetWord {l : Nat} (h : KeepsStrand s0 s) : KeepsStrand s0 (s.meetWord l) := by
  unfold State.meetWord
  split
  · exact .ite (bumpUnit (h.same rfl)) (.ite (bumpUnit (h.same rfl)) (h.same rfl))
  · exact h

theorem meet (l n : Nat) (h : KeepsStrand s0 s) : KeepsStrand s0 (s.meet l n) := .ite h (foldl _ (fun h => h.meetWord) h)

theorem modCluster {c : Nat} {f : Cluster → Cluster} (h : KeepsStrand s0 s) : KeepsStrand s0 (s.modCluster c f) := h.same rfl
theorem modDie {d : Nat} {f : Die → Die} (h : KeepsStrand s0 s) : KeepsStrand s0 (s.modDie d f) := h.same rfl

/-! Waking. -/

theorem modCore {c : Nat} {f : Core → Core} (hf : ∀ x, (f x).slots = x.slots) (h : KeepsStrand s0 s) : KeepsStrand s0 (s.modCore c f) :=
  h.trans ⟨rfl, rfl, congrArg Strand.rest (strandAt_modCore hf s.core s.slot)⟩

theorem wakeDie {d : Nat} (h : KeepsStrand s0 s) : KeepsStrand s0 (s.wakeDie d) := .ite h h.modDie
theorem wakeUnit {c : Nat} (h : KeepsStrand s0 s) : KeepsStrand s0 (s.wakeUnit c) := wakeDie (.ite (h.modCore (fun _ => rfl)) h)

theorem wakeHome {x : Home} (h : KeepsStrand s0 s) : KeepsStrand s0 (s.wakeHome x) := by
  unfold State.wakeHome
  split
  · exact h.wakeUnit
  · exact h.wakeUnit
  · exact h.wakeDie
  · exact h.wakeDie
  · exact h.wakeDie
  · exact h

/-! Translation. -/

theorem meetWalk {root va : Nat} (h : KeepsStrand s0 s) : KeepsStrand s0 (s.meetWalk root va) :=
  .ite h (.ite (((h.meet _ _).meet _ _).meet _ _) ((((h.meet _ _).meet _ _).meet _ _).meet _ _))

theorem wakeWalk {root va : Nat} (h : KeepsStrand s0 s) : KeepsStrand s0 (s.wakeWalk root va) := .ite h (foldl _ (fun h => h.wakeHome) h)

theorem tlbDrop {cl sag va : Nat} (h : KeepsStrand s0 s) : KeepsStrand s0 (s.tlbDrop cl sag va) := h.modCluster.modDie

theorem setDword {l : Nat} {v : Word} (h : KeepsStrand s0 s) : KeepsStrand s0 (s.setDword l v) := h.setBytes _ _

theorem lookup {i : Issuer} {va : Nat} (h : KeepsStrand s0 s) : ∀ {a n t}, Machine.lookup s i va = .ok (some (a, n, t)) → KeepsStrand s0 t := by
  unfold Machine.lookup
  intro _ _ _
  split
  · rintro ⟨⟩
    exact h
  · extract_lets fill
    split
    · rintro ⟨⟩
      exact h.same rfl
    · split
      · nofun
      · extract_lets s1
        have h : KeepsStrand s0 s1 := h.wakeWalk.meetWalk
        split
        · nofun
        · nofun
        · split
          · extract_lets leaf e s2 s3
            have h : KeepsStrand s0 s3 := h.setDword.modDie
            clear_value s3
            rintro ⟨⟩
            exact h.same rfl
          · nofun

theorem setDirty {i : Issuer} {va : Nat} (h : KeepsStrand s0 s) : KeepsStrand s0 (s.setDirty i va) := by
  unfold State.setDirty
  split
  · exact h
  · split
    · exact h.setDword.modCluster.modDie
    · exact h

theorem sealAtom {k : BitVec 512} {b : Bool} {n : Nat} (h : KeepsStrand s0 s) : KeepsStrand s0 (s.sealAtom k b n) := by
  unfold State.sealAtom
  split
  · exact .ite h ((h.setBytes _ _).same rfl)
  · exact .ite (h.same rfl) h

theorem underKey {kd : Acc} {l n id : Nat} (h : KeepsStrand s0 s) : KeepsStrand s0 (s.underKey kd l n id) := by
  unfold State.underKey
  refine .ite h ?_
  split
  · exact foldl _ (fun h => h.sealAtom) h
  · exact h

/-- A choice of answers, each with a state that keeps the strand. -/
theorem snd_ite {α : Type} {p q : α × State} {c : Prop} [Decidable c] (hp : KeepsStrand s0 p.2) (hq : KeepsStrand s0 q.2) : KeepsStrand s0 (if c then p else q).2 := by
  split
  · exact hp
  · exact hq

theorem paged {i : Issuer} {kd : Acc} {va n : Nat} (h : KeepsStrand s0 s) : KeepsStrand s0 (Machine.paged s i kd va n).2 := by
  unfold Machine.paged
  extract_lets once settle r
  have honce {t : State} (h : KeepsStrand s0 t) : KeepsStrand s0 (once t).2.1 := by
    unfold once
    split
    · exact h
    · split
      · exact h
      · exact h
      · exact h.lookup ‹_›
  have hsettle {x : Tr × State × Nat} (h : KeepsStrand s0 x.2.1) : KeepsStrand s0 (settle x).2 := by
    unfold settle
    split
    · exact h.underKey
    · exact snd_ite h (snd_ite h h.setDirty.underKey)
    · exact h
  have hr : KeepsStrand s0 r.2 := hsettle (honce h)
  split
  · exact hsettle (honce hr.tlbDrop)
  · exact hsettle (honce hr.tlbDrop)
  · exact hr

theorem translate {i : Issuer} {kd : Acc} {va n : Nat} (h : KeepsStrand s0 s) : KeepsStrand s0 (Machine.translate s i kd va n).2 := by
  unfold Machine.translate
  extract_lets base off pa inGrant bad
  split
  · exact snd_ite h h.underKey
  · clear_value bad
    split
    · exact h
    · exact h.paged

/-! Reads made at once. -/

theorem peerError {l : Nat} {b : Bool} (h : KeepsStrand s0 s) : KeepsStrand s0 (s.peerError l b) := h.same rfl

theorem sendRead {l : Nat} (h : KeepsStrand s0 s) : KeepsStrand s0 (s.sendRead l) := .ite h.wakeHome (.ite h.peerError (h.same rfl))

theorem modSag {g : Nat} {f : Saggar → Saggar} (h : KeepsStrand s0 s) : KeepsStrand s0 (s.modSag g f) := h.ofOperandFrame (d := 0) (.modSag g f)

theorem countStray {sag ctx : Nat} (h : KeepsStrand s0 s) : KeepsStrand s0 (s.countStray sag ctx) := .ite h.modSag h

theorem countPoison {sag : Nat} (h : KeepsStrand s0 s) : KeepsStrand s0 (s.countPoison s.core s.slot sag) := h.ofOperandFrame (d := 0) (.countPoison sag)

theorem pushRead {r : Read} (h : KeepsStrand s0 s) : KeepsStrand s0 (s.pushRead r) := h.ofOperandFrame (d := 0) (.pushRead r)

end KeepsStrand

/-! An access goes on only in states that keep the strand: two continuations that agree there give the same answer. -/

theorem arrive_congr {y : Way} {kd : Acc} {a : Word} {n : Nat} {ad : Addr} {loc : Nat} {why : Option ReplayWhy} {k k' : Place → State → Out} (h : ∀ p, k p s = k' p s) :
    arrive y kd a n ad loc why k s = arrive y kd a n ad loc why k' s := by
  unfold arrive
  split
  · rfl
  · exact h _

theorem accessBy_congr {y : Way} {kd : Acc} {a : Word} {n al : Nat} {pre : Addr → Bool} {k k' : Place → State → Out} (hs : KeepsStrand s0 s)
    (h : ∀ p t, KeepsStrand s0 t → k p t = k' p t) : accessBy y kd a n al pre s k = accessBy y kd a n al pre s k' := by
  cases hr : resolve s s.myCluster s.me.sag a n with
  | none => rw [accessBy_unresolved hr, accessBy_unresolved hr]
  | some ad =>
    rw [accessBy_resolved hr, accessBy_resolved hr]
    have hgo : goTo y kd a n k s ad = goTo y kd a n k' s ad := by
      cases ad with
      | scratch c off => exact arrive_congr (fun p => h p s hs)
      | slice cl off => exact arrive_congr (fun p => h p s hs)
      | global va =>
        have ht : KeepsStrand s0 (translate s s.issuer kd va n).2 := hs.translate
        obtain ⟨r, t, e⟩ : ∃ r t, translate s s.issuer kd va n = (r, t) := ⟨_, _, Prod.mk.eta.symm⟩
        rw [e] at ht
        rw [goTo_global e, goTo_global e]
        cases r with
        | ok loc => exact arrive_congr (fun p => h p t ht)
        | replay why loc => exact arrive_congr (fun p => h p t ht)
        | waits => rfl
        | permission => rfl
        | lease v => rfl
        | broken f => rfl
    rw [hgo]

theorem readDwords_congr {u : State} (n : Nat) {k k' : List Word → State → Out} (h : ∀ r t, KeepsStrand s0 t → k r t = k' r t) :
    ∀ {s : State} (a : Word) (acc : List Word), KeepsStrand s0 s → readDwords u n a acc s k = readDwords u n a acc s k' := by
  induction n with
  | zero => exact fun a acc hs => h _ _ hs
  | succ n ih =>
    intro s a acc hs
    rw [readDwords, readDwords]
    refine accessBy_congr hs (fun p t ht => ?_)
    have hread : KeepsStrand s0 (((t.meet p.loc 8).sendRead p.loc).countStray t.me.sag (t.tagFor p)) := ((ht.meet _ _).sendRead).countStray
    dsimp only
    split
    · rfl
    · split
      · exact ih _ _ hread
      · split
        · rfl
        · exact ih _ _ hread.countPoison

theorem readRecord_congr {j n : Nat} {a : Word} {k k' : List Word → State → Out} (h : ∀ r t, KeepsStrand s t → k r t = k' r t) :
    readRecord j a n s k = readRecord j a n s k' := by
  unfold readRecord readRecordOf
  split
  · exact h _ _ (.refl s)
  · split
    · rfl
    · split
      · rfl
      · exact readDwords_congr n (fun r t ht => h _ _ (.foldl _ (fun h => h.pushRead) ht)) _ _ (.refl s)

/-- A record that can be read is read in a state that keeps the strand in focus. -/
theorem Reads.keepsStrand {j n : Nat} {a : Word} {r : List Word} (h : Reads j a n s r t) : KeepsStrand s t := by
  classical
  by_contra hn
  have hcongr := readRecord_congr (s := s) (j := j) (n := n) (a := a) (k := fun _ _ => .refused (.notModelled ""))
    (k' := fun _ t => if KeepsStrand s t then .refused (.notModelled "") else .next t) (fun r t ht => (if_pos ht).symm)
  rw [h, h, if_neg hn] at hcongr
  cases hcongr

end Sys2Proof.Machine
end

/-! Engine instructions (O44). -/
section
namespace Sys2Proof.Machine

variable {s t u v w : State} {i : Instr}

/-! Placing a job (R211). -/

theorem myCore_modCluster (c : Nat) (f : Cluster → Cluster) : (s.modCluster c f).myCore = s.myCore := rfl

theorem myCore_placeJob (p : JobPlan) (st : JobState) : (s.placeJob p st).myCore = { s.myCore with
    tags := s.myCore.tags &&& ~~~(word (2 ^ p.tag)), tagCount := Tbl.upd s.myCore.tagCount p.tag 0 (· + 1), jobNext := nextJob s.myCore.jobNext,
    jobsPlaced := min (s.myCore.jobsPlaced + 1) jobCycle,
    jobRing := Tbl.put (Tbl.del s.myCore.jobRing (jobBefore s.myCore.jobNext 64)) s.myCore.jobNext 0 } :=
  (myCore_modCluster ..).trans (State.myCore_modMyCore (s := { s with serial := s.serial + 1 }) _)

/-- The place of a tag is cleared by the mask of its bit. -/
theorem getLsbD_and_not_two_pow (w : Word) {n : Nat} (h : n < 64) : (w &&& ~~~(word (2 ^ n))).getLsbD n = false := by
  have hbit : (word (2 ^ n)).getLsbD n = true := by
    rw [word, BitVec.getLsbD_ofNat, Nat.testBit_two_pow_self]
    simp [h]
  rw [BitVec.getLsbD_and, BitVec.getLsbD_not, hbit, decide_eq_true h]
  simp

/-- What a placed job leaves in its core and its cluster (R211, R212, R215). -/
theorem placeJob_facts (s : State) (p : JobPlan) (st : JobState) : let t := s.placeJob p st
    t.myCore.jobNext = nextJob s.myCore.jobNext ∧ t.myCore.jobStatus s.myCore.jobNext = 0 ∧ (p.tag < 64 → t.myCore.tags.getLsbD p.tag = false) ∧
    Tbl.get t.myCore.tagCount p.tag 0 = Tbl.get s.myCore.tagCount p.tag 0 + 1 ∧
    (t.clusterAt s.myCluster).ranges = (s.clusterAt s.myCluster).ranges ++ p.ranges.map (fun r => ⟨r.1, r.2.1, r.2.2, s.myCore.jobNext, s.core⟩) ∧
    ∃ j, (t.clusterAt s.myCluster).jobs = (s.clusterAt s.myCluster).jobs ++ [j] ∧
      (j.core, j.id, j.tag, j.desc, j.gov, j.state, j.fail) = (s.core, s.myCore.jobNext, p.tag, p.desc, p.gov, st, 0) := by
  dsimp only
  rw [myCore_placeJob]
  refine ⟨rfl, ?_, fun h => getLsbD_and_not_two_pow _ h, Tbl.get_upd_same .., congrArg Cluster.ranges (State.clusterAt_modCluster ..),
    _, congrArg Cluster.jobs (State.clusterAt_modCluster ..), rfl⟩
  rw [Core.jobStatus, Tbl.find_put_same]
  rfl

/-! The queue of a cluster with one strand in it (R356, R357). -/

/-- Two changes of a cluster that agree on it are one. -/
theorem modCluster_congr {c : Nat} {f g : Cluster → Cluster} (h : f (s.clusterAt c) = g (s.clusterAt c)) : s.modCluster c f = s.modCluster c g := by
  rw [State.clusterAt] at h
  simp only [State.modCluster, Tbl.upd, h]

theorem modCluster_modCluster (c : Nat) (f g : Cluster → Cluster) : (s.modCluster c f).modCluster c g = s.modCluster c (fun x => g (f x)) := by
  simp only [State.modCluster, Tbl.upd_upd]

/-- The strand in focus waits for queue entries of its cluster. -/
def State.joinQueue (s : State) : State :=
  s.modCluster s.myCluster (fun c => { c with waiting := if c.waiting.contains s.myRef then c.waiting else c.waiting ++ [s.myRef] })

theorem waiting_joinQueue (h : (s.clusterAt s.myCluster).waiting = []) : (s.joinQueue.clusterAt s.myCluster).waiting = [s.myRef] := by
  rw [State.joinQueue, State.clusterAt_modCluster, h]
  rfl

/-- A strand that joins an empty queue and leaves it again leaves it empty. -/
theorem leaveQueue_joinQueue (h : (s.clusterAt s.myCluster).waiting = []) :
    s.joinQueue.leaveQueue.modCluster s.joinQueue.myCluster (fun c => { c with lastGrant := s.joinQueue.core % 8 }) =
      s.modCluster s.myCluster (fun c => { c with waiting := [], lastGrant := s.core % 8 }) := by
  rw [State.leaveQueue, State.joinQueue]
  refine (congrArg (State.modCluster · s.myCluster _) (modCluster_modCluster s.myCluster _ _)).trans ?_
  refine (modCluster_modCluster s.myCluster _ _).trans (modCluster_congr ?_)
  have hleft : ((if (s.clusterAt s.myCluster).waiting.contains s.myRef then (s.clusterAt s.myCluster).waiting
      else (s.clusterAt s.myCluster).waiting ++ [s.myRef]).filter (· != s.myRef)) = [] := by
    rw [h]
    simp
  exact congrArg (fun l => { s.clusterAt s.myCluster with waiting := l, lastGrant := s.core % 8 }) hleft

/-- The core of the one strand that waits is served next, where no core has a job to place again. -/
theorem entryCore_of_alone (hw : (s.clusterAt s.myCluster).waiting = [s.myRef]) (hr : ∀ k, k < 8 → s.replacing (8 * s.myCluster + k) = false) :
    s.entryCore s.myCluster = some (s.core % 8) := by
  have hp (k : Nat) (hk : k < 8) : ((s.clusterAt s.myCluster).waiting.any (fun r => decide (r.core % 8 = k)) || s.replacing (8 * s.myCluster + k)) =
      decide (s.core % 8 = k) := by
    rw [hw, hr k hk, Bool.or_false, List.any_cons, List.any_nil, Bool.or_false]
    rfl
  rw [State.entryCore]
  cases h : List.find? _ _ with
  | none =>
    have hmem : s.core % 8 ∈ (List.range 8).map (fun i => ((s.clusterAt s.myCluster).lastGrant + 1 + i) % 8) :=
      List.mem_map.2 ⟨(s.core % 8 + 8 - ((s.clusterAt s.myCluster).lastGrant + 1) % 8) % 8, List.mem_range.2 (by omega), by omega⟩
    have hno := List.find?_eq_none.1 h _ hmem
    rw [hp _ (by omega)] at hno
    simp at hno
  | some k =>
    obtain ⟨i, -, hi⟩ := List.mem_map.1 (List.mem_of_find?_eq_some h)
    have hyes := List.find?_some h
    rw [hp k (by omega), decide_eq_true_eq] at hyes
    rw [hyes]

theorem entryTurn_of_alone (hw : (s.clusterAt s.myCluster).waiting = [s.myRef]) (hr : ∀ k, k < 8 → s.replacing (8 * s.myCluster + k) = false) :
    s.entryTurn = true := by
  simp [State.entryTurn, entryCore_of_alone hw hr, hw]

/-- What leaves saved work and ranges leaves what waits to be placed again. -/
theorem replacing_congr (hc : ∀ c, (t.coreAt c).saved = (s.coreAt c).saved ∧ (t.coreAt c).halting = (s.coreAt c).halting)
    (hr : ∀ cl, (t.clusterAt cl).ranges = (s.clusterAt cl).ranges) (c : Nat) : t.replacing c = s.replacing c := by
  obtain ⟨hsaved, hhalting⟩ := hc c
  simp only [State.replacing, hsaved, hhalting, hr]

theorem saved_modMe (f : Strand → Strand) (c : Nat) : ((s.modMe f).coreAt c).saved = (s.coreAt c).saved ∧ ((s.modMe f).coreAt c).halting = (s.coreAt c).halting := by
  by_cases h : c = s.core
  · subst h
    rw [State.modMe, State.modStrand, State.coreAt_modCore]
    exact ⟨rfl, rfl⟩
  · rw [State.modMe, State.modStrand, State.coreAt_modCore_other _ _ _ _ h]
    exact ⟨rfl, rfl⟩

theorem ranges_joinQueue (cl : Nat) : (s.joinQueue.clusterAt cl).ranges = (s.clusterAt cl).ranges := by
  by_cases h : cl = s.myCluster
  · subst h
    rw [State.joinQueue, State.clusterAt_modCluster]
  · rw [State.joinQueue, State.clusterAt, State.modCluster, Tbl.get_upd_other _ _ _ _ _ h, State.clusterAt]

theorem jobs_joinQueue : (s.joinQueue.clusterAt s.myCluster).jobs = (s.clusterAt s.myCluster).jobs := by
  rw [State.joinQueue, State.clusterAt_modCluster]

/-! Placement (R211). -/

/-- The state in which a strand has the order of its wait. -/
def State.numbered (s : State) : State := (s.modMe (fun m => { m with work := [s.serial] })).tick.2

/-- The jobs of an instruction are paid for and placed (R211, R217, R363). -/
def State.payAndPlace (s : State) (ps : List JobPlan) (debit : Nat) : State :=
  let s := s.modMyCore (fun c => { c with ebud := withBits c.ebud 0 24 (bitsOf c.ebud 0 24 - debit) })
  match ps with
  | [] => s
  | p :: t => t.foldl (fun (s : State) q => s.placeJob q .reserved) (s.placeJob p .waiting)

theorem placed_eq (ps : List JobPlan) (debit : Nat) :
    s.placed ps debit = (s.numbered.modCluster s.numbered.myCluster (fun c => { c with waiting := [], lastGrant := s.numbered.core % 8 })).payAndPlace ps debit := rfl

/-- The waits of an instruction without a full tag that has not waited yet (R211). -/
theorem place_of_begun (d : Code) {ps : List JobPlan} (debit : Nat) (hwork : s.me.work = []) (htag : s.myCore.fullTag (ps.map (·.tag)) = none) :
    place d ps debit s =
      if !s.numbered.placeable ps debit then hold s.numbered.leaveQueue
      else if s.numbered.joinQueue.entryTurn &&
          decide ((s.numbered.joinQueue.clusterAt s.numbered.joinQueue.myCluster).jobs.length + ps.length ≤ Config.jobQueueDepth) then
        finish d (word s.numbered.joinQueue.myCore.jobNext) ((s.numbered.joinQueue.leaveQueue.modCluster s.numbered.joinQueue.myCluster
          (fun c => { c with lastGrant := s.numbered.joinQueue.core % 8 })).payAndPlace ps debit).consume
      else hold s.numbered.joinQueue := by
  unfold place
  rw [htag]
  dsimp only
  rw [hwork, List.isEmpty_nil, if_pos rfl]
  rfl

/-- An instruction that nothing holds places its jobs, and the id of the foremost goes to d. -/
theorem place_of_takes (d : Code) {ps : List JobPlan} {debit : Nat} (h : s.Takes ps debit) :
    place d ps debit s = finish d (word s.myCore.jobNext) (s.placed ps debit).consume := by
  obtain ⟨hwork, htag, hplace, hwait, hrep, hlen⟩ := h
  have hwait : (s.numbered.clusterAt s.numbered.myCluster).waiting = [] := hwait
  have hturn : s.numbered.joinQueue.entryTurn = true := by
    refine entryTurn_of_alone (waiting_joinQueue hwait) (fun k hk => (replacing_congr (fun c => ?_) (fun cl => ?_) _).trans (hrep k hk))
    · exact saved_modMe _ c
    · exact ranges_joinQueue cl
  have hjobs : (s.numbered.joinQueue.clusterAt s.numbered.joinQueue.myCluster).jobs.length + ps.length ≤ Config.jobQueueDepth := by
    rw [show (s.numbered.joinQueue.clusterAt s.numbered.joinQueue.myCluster).jobs = (s.clusterAt s.myCluster).jobs from jobs_joinQueue]
    exact hlen
  have hnext : s.numbered.joinQueue.myCore.jobNext = s.myCore.jobNext := by
    rw [show s.numbered.joinQueue.myCore = (s.modMe (fun m => { m with work := [s.serial] })).myCore from rfl, myCore_modMe]
  have hplace : s.numbered.placeable ps debit = true := hplace
  rw [place_of_begun d debit hwork htag, hplace, if_neg (by decide), hturn, Bool.true_and, if_pos (decide_eq_true hjobs), hnext, leaveQueue_joinQueue hwait, placed_eq]

theorem KeepsStrand.placeJob {s0 : State} {p : JobPlan} {st : JobState} (h : KeepsStrand s0 s) : KeepsStrand s0 (s.placeJob p st) := by
  unfold State.placeJob
  extract_lets m id job regs s1
  exact (KeepsStrand.modCore (fun _ => rfl) (h.same rfl) : KeepsStrand s0 s1).modCluster

theorem KeepsStrand.placed (ps : List JobPlan) (debit : Nat) : KeepsStrand s.numbered (s.placed ps debit) := by
  have hstart : KeepsStrand s.numbered (((s.numbered).modCluster s.myCluster (fun c => { c with waiting := [], lastGrant := s.core % 8 })).modMyCore
      (fun c => { c with ebud := withBits c.ebud 0 24 (bitsOf c.ebud 0 24 - debit) })) := (KeepsStrand.refl _).modCluster.modCore (fun _ => rfl)
  rw [placed_eq]
  unfold State.payAndPlace
  dsimp only
  split
  · exact hstart
  · exact KeepsStrand.foldl _ (fun h => h.placeJob) hstart.placeJob

theorem cur_numbered (s : State) : s.numbered.me.cur = s.me.cur := by
  rw [show s.numbered.me = (s.modMe (fun m => { m with work := [s.serial] })).me from rfl, State.me_modMe]

/-- A strand that places its jobs and writes their id still holds its instruction. -/
theorem cur_put_consume_placed (ps : List JobPlan) (debit : Nat) (d : Code) (x : Word) : (((s.placed ps debit).consume).put d x).me.cur = s.me.cur := by
  have hplaced : (s.placed ps debit).me.cur = s.me.cur := (KeepsStrand.placed ps debit).cur.trans (cur_numbered s)
  have hput := (KeepsStrand.refl _).ofOperandFrame (OperandFrame.put (s := (s.placed ps debit).consume) d x)
  rw [hput.cur, State.consume, ← hplaced]
  split
  · rw [State.me_modMe]
    rfl
  · rfl

/-- A form that comes to the placement of jobs, its instruction still in progress, places them. -/
theorem placesJobs_of_exec {ps : List JobPlan} {debit : Nat} {d : Code} (he : exec i s = place d ps debit t) (hcur : t.me.cur = some i) :
    PlacesJobs i s t ps debit d := by
  intro htakes hroom
  refine completes_of_exec ?_ ((cur_put_consume_placed ps debit d _).trans hcur)
  rw [he, place_of_takes d htakes, finish_of_room d _ hroom]

/-! Operands of an engine instruction. -/

theorem KeepsStrand.took (c : Code) (y : Bool) (x : Word) (h : s.slot < 16) : KeepsStrand s (s.took c y x) :=
  (KeepsStrand.refl s).ofOperandFrame (OperandFrame.took (d := 0) c y x h)

theorem KeepsStrand.gives {c : Code} {y : Bool} {x : Word} (hg : s.Gives c y x u) (h : s.slot < 16) : KeepsStrand s u := by
  obtain ⟨-, -, rfl⟩ := hg
  exact .took c y x h

theorem KeepsStrand.tookScale (x : Word) (h : s.slot < 16) : KeepsStrand s (s.tookScale x) := .ite (.took _ _ _ h) (.refl s)

/-- The scale register that a pending `pfx` names is the third source (R96). -/
theorem readScale_of_scaleIs {sc : Word} (k : Word → State → Out) (hr : s.me.reads.length = 2) (h : s.scaleIs sc) : readScale 2 s k = k sc (s.tookScale sc) := by
  unfold readScale State.tookScale
  unfold State.scaleIs at h
  split
  · next hp =>
    rw [if_pos hp] at h
    have hcode : srcOk false (BitVec.ofNat 6 (bitsOf s.me.st 22 4)) = true := by
      have hlt : bitsOf s.me.st 22 4 < 2 ^ 4 := Nat.mod_lt _ (by positivity)
      simp [srcOk]
      omega
    exact readSrc_of_src 2 _ false k sc hr hcode h
  · next hp =>
    rw [if_neg hp] at h
    rw [h]

/-- An engine instruction reads its two sources once its checks, its order and its destination allow. -/
theorem engineOps_of_gives {takes codes : Bool} {o : FmtA} {a b : Word} (k : Word → Word → Word → State → Out) (h : s.Begins i)
    (hp : s.me.prefixed = true → takes = true) (hcodes : codes = true) (hd : dstOk o.d = true) (hacq : s.acquirePending = false) (hacc : s.accepts o.d = true)
    (ha : s.Gives o.a o.x a u) (hb : u.Gives o.b o.y b v) :
    engineOps takes codes o s k = if takes then readScale 2 v (fun sc s => k a b sc s) else k a b 0 v := by
  obtain ⟨hx, -, -⟩ := id ha
  obtain ⟨hy, -, -⟩ := id hb
  rw [engineOps, hx, hy, hd, hcodes, Bool.and_self, Bool.and_self, Bool.and_self, checked_ok takes _ hp, Machine.ordered, hacq, Bool.and_false,
    if_neg Bool.false_ne_true, withDst_of_accepts _ _ hacc, two_of_gives o a b u v _ h.reads_eq h.slot_lt ha hb]

/-- Two sources have been read. -/
theorem length_reads_of_gives {c c' : Code} {y y' : Bool} {a b : Word} (h : s.Begins i) (ha : s.Gives c y a u) (hb : u.Gives c' y' b v) : v.me.reads.length = 2 := by
  have hslot := h.slot_lt
  have hu := KeepsStrand.gives ha hslot
  obtain ⟨-, -, rfl⟩ := hb
  rw [length_reads_took c' y' b (hu.slot ▸ hslot)]
  obtain ⟨-, -, rfl⟩ := ha
  rw [length_reads_took c y a hslot, h.reads_eq]
  rfl

theorem KeepsStrand.givesTwo {c c' : Code} {y y' : Bool} {a b : Word} (h : s.Begins i) (ha : s.Gives c y a u) (hb : u.Gives c' y' b v) : KeepsStrand s v := by
  have hu := KeepsStrand.gives ha h.slot_lt
  exact hu.trans (KeepsStrand.gives hb (hu.slot ▸ h.slot_lt))

theorem KeepsStrand.scaled {c c' : Code} {y y' : Bool} {a b sc : Word} (h : s.Begins i) (ha : s.Gives c y a u) (hb : u.Gives c' y' b v) :
    KeepsStrand s (v.tookScale sc) := by
  have hv := KeepsStrand.givesTwo h ha hb
  exact hv.trans (.tookScale sc (hv.slot ▸ h.slot_lt))

/-- The operands of an engine instruction that takes formats: its sources and the scale register (R96). -/
theorem engineOps_scaled {codes : Bool} {o : FmtA} {a b sc : Word} (k : Word → Word → Word → State → Out) (h : s.Begins i) (hcodes : codes = true)
    (hd : dstOk o.d = true) (hacq : s.acquirePending = false) (hacc : s.accepts o.d = true) (ha : s.Gives o.a o.x a u) (hb : u.Gives o.b o.y b v)
    (hsc : v.scaleIs sc) : engineOps true codes o s k = k a b sc (v.tookScale sc) := by
  rw [engineOps_of_gives k h (fun _ => rfl) hcodes hd hacq hacc ha hb, if_pos rfl, readScale_of_scaleIs _ (length_reads_of_gives h ha hb) hsc]

/-- The operands of an engine instruction that takes no formats. -/
theorem engineOps_plain {o : FmtA} {a b : Word} (k : Word → Word → Word → State → Out) (h : s.Starts i) (hd : dstOk o.d = true) (hacq : s.acquirePending = false)
    (hacc : s.accepts o.d = true) (ha : s.Gives o.a o.x a u) (hb : u.Gives o.b o.y b v) : engineOps false true o s k = k a b 0 v := by
  rw [engineOps_of_gives k h.begins (by simp [h.unprefixed]) rfl hd hacq hacc ha hb, if_neg Bool.false_ne_true]

/-- Format codes that the form does not take are illegal operands (R76, R77). -/
theorem engineOps_illegal (o : FmtA) (k : Word → Word → Word → State → Out) (hs : s.me.stage = 0) :
    engineOps true false o s k = takeTrapCode 2 s.me.pc s.curWord s := by
  rw [engineOps, Bool.and_false, checked_illegal true _ hs (fun _ => rfl)]
  rfl

/-! Traps. -/

/-- A strand that leaves the queue for entries keeps its place in the program. -/
theorem trap_leaveQueue (c : Cause) (x : Word) : trap c x s.leaveQueue = takeTrapCode c.code s.me.pc x s.leaveQueue := rfl

theorem limits_none (a : Word) (k : State → Out) : limits a none s k = k s := rfl

/-- A broken limit traps at its field (R211). -/
theorem limits_some (a : Word) (off : Nat) (k : State → Out) : limits a (some off) s k = takeTrapCode 28 s.me.pc (a + word off) s := rfl

/-- A full tag traps (R211). -/
theorem place_of_fullTag (d : Code) (ps : List JobPlan) (debit : Nat) (s : State) (n : Nat) (h : s.myCore.fullTag (ps.map (·.tag)) = some n) :
    place d ps debit s = takeTrapCode 27 s.me.pc (word n) s.leaveQueue := by
  unfold place
  rw [h]
  exact trap_leaveQueue ..

/-! Matrix forms (R222 to R225). -/

/-- The job that a matrix descriptor asks for, for the range of n bytes at its base. -/
def matrixPlan (k : JobKind) (ow : Bool) (tag n : Nat) (sc : Word) (r : List Word) (s : State) : JobPlan where
  desc :=
    { JobDesc.zero k with
      src := (r.getD 0 0).toNat
      dst := (r.getD 0 0).toNat
      pitch := recBits r 8 8
      rows := if k = .mmld then 128 else recBits r 16 2
      acc0 := recBits r 18 2
      bands := recBits r 20 1
      flag := if k = .mmrun then ow else decide (recBits r 21 1 = 1) }
  tag := tag
  gov := s.me.gov 3 3 0 sc
  ranges := spanRange (s.spanOf (r.getD 0 0) n) n (decide (k = .mmst))

/-- The plan of a matrix form, with the limits of its descriptor, its debit and its bands in their order. -/
theorem planMatrix_eq (k : JobKind) (ow : Bool) (cls tag : Nat) (sc a : Word) (r : List Word) (s : State) (go : JobPlan → Nat → State → Out) :
    let rows := if k = .mmld then 128 else recBits r 16 2
    let n := (rows - 1) * recBits r 8 8 + 16 * matrixWidth k (s.me.gov 3 3 0 sc)
    let mask := recBits r 20 1
    let debit (s' : State) := if k = .mmrun then s'.debitOf cls rows mask else 0
    planMatrix k ow cls tag sc a r s go = limits a (matrixLimits k r (s.spanOf (r.getD 0 0) n)) s (fun s' =>
      if bitsOf s'.myCore.ebud 24 24 < debit s' then trap .energyLimit (word (debit s')) s'.leaveQueue
      else if !s'.ownsBands mask then trap .bandOwner (word mask) s'.leaveQueue
      else go (matrixPlan k ow tag n sc r s) (debit s') s') := rfl

theorem planMatrix_cases (k : JobKind) (ow : Bool) (cls tag : Nat) (sc a : Word) (r : List Word) (s : State) (go : JobPlan → Nat → State → Out) :
    let gov := s.me.gov 3 3 0 sc
    let rows := if k = .mmld then 128 else recBits r 16 2
    let n := (rows - 1) * recBits r 8 8 + 16 * matrixWidth k gov
    let mask := recBits r 20 1
    let debit := if k = .mmrun then s.debitOf cls rows mask else 0
    (∀ off, matrixLimits k r (s.spanOf (r.getD 0 0) n) = some off → planMatrix k ow cls tag sc a r s go = takeTrapCode 28 s.me.pc (a + word off) s) ∧
    (matrixLimits k r (s.spanOf (r.getD 0 0) n) = none →
      (bitsOf s.myCore.ebud 24 24 < debit → planMatrix k ow cls tag sc a r s go = takeTrapCode 29 s.me.pc (word debit) s.leaveQueue) ∧
      (debit ≤ bitsOf s.myCore.ebud 24 24 →
        (s.ownsBands mask = false → planMatrix k ow cls tag sc a r s go = takeTrapCode 30 s.me.pc (word mask) s.leaveQueue) ∧
        (s.ownsBands mask = true → ∃ p, Plans k ow cls tag sc a r s p debit ∧ p.tag = tag ∧ p.gov = gov ∧
          (p.desc.kind, p.desc.src, p.desc.dst, p.desc.pitch, p.desc.rows, p.desc.acc0, p.desc.bands) =
            (k, (r.getD 0 0).toNat, (r.getD 0 0).toNat, recBits r 8 8, rows, recBits r 18 2, mask) ∧
          (∀ x, s.spanOf (r.getD 0 0) n = .at_ x → p.ranges = [(x, x + n - 1, decide (k = .mmst))])))) := by
  intro gov rows n mask debit
  refine ⟨fun off hoff => ?_, fun hnone => ⟨fun hdebit => ?_, fun hdebit => ⟨fun hbands => ?_, fun hbands => ⟨matrixPlan k ow tag n sc r s, fun go => ?_, rfl, rfl, rfl, fun x hx => ?_⟩⟩⟩⟩
  · rw [planMatrix_eq, hoff, limits_some]
  · rw [planMatrix_eq, hnone, limits_none, if_pos hdebit, trap_leaveQueue]
    rfl
  · rw [planMatrix_eq, hnone, limits_none, if_neg (Nat.not_lt.2 hdebit), hbands, Bool.not_false, if_pos rfl, trap_leaveQueue]
    rfl
  · rw [planMatrix_eq, hnone, limits_none, if_neg (Nat.not_lt.2 hdebit), hbands, Bool.not_true, if_neg Bool.false_ne_true]
  · exact congrArg (fun y => spanRange y n (decide (k = .mmst))) hx

/-- A matrix form whose operands are read and whose descriptor makes a plan places its job. -/
theorem matrixForm_places {k : JobKind} {ow : Bool} {cls debit : Nat} {o : FmtA} {a b sc : Word} {r : List Word} {q : JobPlan}
    (he : exec i s = matrixForm k ow cls o s) (h : s.Begins i) (hd : dstOk o.d = true) (hcodes : engineCodes k s = true) (hacq : s.acquirePending = false)
    (hacc : s.accepts o.d = true) (ha : s.Gives o.a o.x a u) (hb : u.Gives o.b o.y b v) (hsc : v.scaleIs sc) (hw : w = v.tookScale sc)
    (hr : Reads (w.engineSrcs true) a 3 w r t) (hq : Plans k ow cls (bitsOf b 0 6) sc a r t q debit) : PlacesJobs i s t [q] debit o.d := by
  subst hw
  refine placesJobs_of_exec ?_ (((KeepsStrand.scaled h ha hb).trans hr.keepsStrand).cur.trans h.cur_eq)
  rw [he, matrixForm, engineOps_scaled _ h hcodes hd hacq hacc ha hb hsc, hr, hq]

/-- A matrix form with format codes that it does not take. -/
theorem matrixForm_illegal {k : JobKind} {ow : Bool} {cls : Nat} {o : FmtA} (he : exec i s = matrixForm k ow cls o s) (h : s.Begins i)
    (hcodes : engineCodes k s = false) : Traps i s s 2 (word (encode i)) := by
  rw [Traps, he, matrixForm, hcodes, engineOps_illegal o _ h.stage_eq, h.curWord_eq]

/-! The other forms. -/

theorem mmsw_cases (o : FmtA) {a b : Word} (h : s.Starts (.mmsw o)) (hd : dstOk o.d = true) (hacq : s.acquirePending = false) (hacc : s.accepts o.d = true)
    (ha : s.Gives o.a o.x a u) (hb : u.Gives o.b o.y b v) :
    (v.ownsBands (bitsOf a 0 8) = false → Traps (.mmsw o) s v.leaveQueue 30 (word (bitsOf a 0 8))) ∧
    (v.ownsBands (bitsOf a 0 8) = true →
      PlacesJobs (.mmsw o) s v [⟨{ JobDesc.zero .mmsw with bands := bitsOf a 0 8 }, bitsOf b 0 6, v.me.gov 3 3 0 0, []⟩] 0 o.d) := by
  have hkeeps := KeepsStrand.givesTwo h.begins ha hb
  have he : exec (.mmsw o) s = if !v.ownsBands (bitsOf a 0 8) then trap .bandOwner (word (bitsOf a 0 8)) v.leaveQueue
      else place o.d [⟨{ JobDesc.zero .mmsw with bands := bitsOf a 0 8 }, bitsOf b 0 6, v.me.gov 3 3 0 0, []⟩] 0 v := by
    change execMmsw o s = _
    rw [execMmsw, engineOps_plain _ h hd hacq hacc ha hb]
  refine ⟨fun hbands => ?_, fun hbands => placesJobs_of_exec ?_ (hkeeps.cur.trans h.begins.cur_eq)⟩
  · rw [Traps, he, hbands, Bool.not_false, if_pos rfl, trap_leaveQueue, hkeeps.pc]
    rfl
  · rw [he, hbands, Bool.not_true, if_neg Bool.false_ne_true]

/-- A `copy` whose operands and record are read goes on with the limits of its descriptor. -/
theorem exec_copy (o : FmtCopy) {a b : Word} {r : List Word} (h : s.Starts (.copy o)) (hd : dstOk o.d = true) (hacq : s.acquirePending = false)
    (hacc : s.accepts o.d = true) (ha : s.Gives o.a o.x a u) (hb : u.Gives o.b false b v) (hr : Reads 2 a 4 v r t) :
    exec (.copy o) s = limits a (copyLimits false r (t.spanOf (r.getD 0 0) (recBits r 16 8)) (t.spanOf (r.getD 1 0) (recBits r 16 8))) t (fun t' =>
      place o.d [⟨{ JobDesc.zero .copy with
          src := recBits r 0 8, dst := recBits r 8 8, len := recBits r 16 8, scope := recBits r 24 4 / 2 % 4, base := decide (recBits r 24 4 % 2 = 1), follow := 0 },
        bitsOf b 0 6, t'.me.gov 3 3 0 0,
        spanRange (t.spanOf (r.getD 0 0) (recBits r 16 8)) (recBits r 16 8) false ++ spanRange (t.spanOf (r.getD 1 0) (recBits r 16 8)) (recBits r 16 8) true⟩] 0 t') := by
  change copyForm false o s = _
  rw [copyForm, Bool.not_false, Bool.true_or, engineOps_plain (o := ⟨false, o.b, o.x, o.a, o.d⟩) _ h hd hacq hacc ha hb]
  exact hr _

theorem copy_cases (o : FmtCopy) {a b : Word} {r : List Word} {x y : Span} {len : Nat} (h : s.Starts (.copy o)) (hd : dstOk o.d = true) (hacq : s.acquirePending = false)
    (hacc : s.accepts o.d = true) (ha : s.Gives o.a o.x a u) (hb : u.Gives o.b false b v) (hr : Reads 2 a 4 v r t) (hlen : len = recBits r 16 8)
    (hx : x = t.spanOf (r.getD 0 0) len) (hy : y = t.spanOf (r.getD 1 0) len) :
    (∀ off, copyLimits false r x y = some off → Traps (.copy o) s t 28 (a + word off)) ∧
    (copyLimits false r x y = none → PlacesJobs (.copy o) s t [⟨{ JobDesc.zero .copy with
      src := recBits r 0 8, dst := recBits r 8 8, len := len, scope := recBits r 24 4 / 2 % 4, base := decide (recBits r 24 4 % 2 = 1), follow := 0 },
      bitsOf b 0 6, t.me.gov 3 3 0 0, spanRange x len false ++ spanRange y len true⟩] 0 o.d) := by
  subst hlen hx hy
  have he := exec_copy o h hd hacq hacc ha hb hr
  have hkeeps := (KeepsStrand.givesTwo h.begins ha hb).trans hr.keepsStrand
  refine ⟨fun off hoff => ?_, fun hnone => placesJobs_of_exec ?_ (hkeeps.cur.trans h.begins.cur_eq)⟩
  · rw [Traps, he, hoff, limits_some, hkeeps.pc]
  · rw [he, hnone, limits_none]

/-- A `copy.fo` places its copy and the job that follows it (R217). -/
theorem copyFo_places (o : FmtCopy) {t' : State} {a b sc : Word} {r q : List Word} {x y : Span} {len debit : Nat} {p : JobPlan} (h : s.Begins (.copyFo o))
    (hd : dstOk o.d = true) (hcodes : engineCodes .mmrun s = true) (hacq : s.acquirePending = false) (hacc : s.accepts o.d = true) (ha : s.Gives o.a o.x a u)
    (hb : u.Gives o.b false b v) (hsc : v.scaleIs sc) (hw : w = v.tookScale sc) (hr : Reads (w.engineSrcs true) a 6 w r t) (hlen : len = recBits r 16 8)
    (hx : x = t.spanOf (r.getD 0 0) len) (hy : y = t.spanOf (r.getD 1 0) len) (hlim : copyLimits true r x y = none)
    (hq : Reads (w.engineSrcs true + 6) (r.getD 5 0) 3 t q t')
    (hp : Plans .mmrun (decide (recBits r 32 4 / 4 % 2 = 1)) (recBits r 32 4 % 4) (recBits r 32 4 / 16 % 64) sc (r.getD 5 0) q t' p debit) :
    PlacesJobs (.copyFo o) s t' [⟨{ JobDesc.zero .copy with
      src := recBits r 0 8, dst := recBits r 8 8, len := len, scope := recBits r 24 4 / 2 % 4, base := decide (recBits r 24 4 % 2 = 1), follow := 1 },
      bitsOf b 0 6, t.me.gov 3 3 0 sc, spanRange x len false ++ spanRange y len true⟩, p] debit o.d := by
  subst hw hlen hx hy
  refine placesJobs_of_exec ?_ ((((KeepsStrand.scaled h ha hb).trans hr.keepsStrand).trans hq.keepsStrand).cur.trans h.cur_eq)
  change copyForm true o s = _
  rw [copyForm, Bool.not_true, Bool.false_or, engineOps_scaled (o := ⟨false, o.b, o.x, o.a, o.d⟩) _ h hcodes hd hacq hacc ha hb hsc]
  refine (hr _).trans ?_
  dsimp only
  rw [hlim, limits_none]
  exact (hq _).trans (hp _)

theorem gath_places (o : FmtA) {a b : Word} {r : List Word} {x y : Span} (h : s.Starts (.gath o)) (hd : dstOk o.d = true) (hacq : s.acquirePending = false)
    (hacc : s.accepts o.d = true) (ha : s.Gives o.a o.x a u) (hb : u.Gives o.b o.y b v) (hr : Reads 2 a 4 v r t) :
    let n := recBits r 24 4
    let esz := recBits r 28 1
    let isz := recBits r 29 1
    x = t.spanOf (r.getD 1 0) (if isz ≤ 3 then n * 2 ^ isz else 1) → y = t.spanOf (r.getD 2 0) (if esz ≤ 12 then n * 2 ^ esz else 1) →
    gathLimits r x y = none → PlacesJobs (.gath o) s t [⟨{ JobDesc.zero .gath with
      src := recBits r 0 8, dst := recBits r 16 8, pitch := recBits r 8 8, n := n, esz := esz, isz := isz }, bitsOf b 0 6, t.me.gov 3 3 0 0,
      spanRange x (n * 2 ^ isz) false ++ spanRange y (n * 2 ^ esz) true⟩] 0 o.d := by
  intro n esz isz hx hy hlim
  subst hx hy
  refine placesJobs_of_exec ?_ (((KeepsStrand.givesTwo h.begins ha hb).trans hr.keepsStrand).cur.trans h.begins.cur_eq)
  change execGath o s = _
  rw [execGath, engineOps_plain _ h hd hacq hacc ha hb]
  refine (hr _).trans ?_
  dsimp only
  rw [hlim, limits_none]

theorem coll_places (o : FmtA) {a b : Word} {r : List Word} {x y : Span} {len : Nat} (h : s.Starts (.coll o)) (hd : dstOk o.d = true)
    (hacq : s.acquirePending = false) (hacc : s.accepts o.d = true) (ha : s.Gives o.a o.x a u) (hb : u.Gives o.b o.y b v) (hr : Reads 2 a 6 v r t)
    (hlen : len = recBits r 24 4 * collSize (recBits r 29 1)) (hx : x = t.spanOf (r.getD 0 0) len) (hy : y = t.spanOf (r.getD 1 0) len)
    (hlim : collLimits r x y = none) : PlacesJobs (.coll o) s t [⟨{ JobDesc.zero .coll with
      src := recBits r 0 8, dst := recBits r 8 8, group := recBits r 16 8, len := len, n := recBits r 24 4, op := recBits r 28 1, fmt := recBits r 29 1,
      npart := recBits r 30 2 }, bitsOf b 0 6, t.me.gov 3 3 0 0, spanRange x len false ++ spanRange y len true⟩] 0 o.d := by
  subst hlen hx hy
  refine placesJobs_of_exec ?_ (((KeepsStrand.givesTwo h.begins ha hb).trans hr.keepsStrand).cur.trans h.begins.cur_eq)
  change execColl o s = _
  rw [execColl, engineOps_plain _ h hd hacq hacc ha hb]
  refine (hr _).trans ?_
  dsimp only
  rw [hlim, limits_none]

/-- `mmld` and `mmst` are matrix forms of two operands. -/
theorem exec_matrix : ∀ p ∈ [(Instr.mmld, JobKind.mmld), (.mmst, .mmst)], ∀ (o : FmtA) (s : State), exec (p.1 o) s = matrixForm p.2 false 0 o s := by
  intro p hp o s
  fin_cases hp <;> rfl

/-- Settles O44: each form reads its operands and its record, makes its plan and places it. -/
theorem engineFormsComplete : Obligations.EngineFormsComplete := by
  refine ⟨placeJob_facts, planMatrix_cases, fun p hp o s u v w t a b sc r q debit h hd hcodes hacq hacc ha hb hsc hw hr hq => ?_,
    fun o s u v w t a b sc r q debit h hd hcodes hacq hacc ha hb hsc hw hr hq => ?_, fun o s u v a b h hd hacq hacc ha hb => mmsw_cases o h hd hacq hacc ha hb,
    fun o s u v t a b r x y len h hd hacq hacc ha hb hr hlen hx hy => copy_cases o h hd hacq hacc ha hb hr hlen hx hy,
    fun o s u v w t t' a b sc r q x y len debit p h hd hcodes hacq hacc ha hb hsc hw hr hlen hx hy hlim hq hp =>
      copyFo_places o h hd hcodes hacq hacc ha hb hsc hw hr hlen hx hy hlim hq hp,
    fun o s u v t a b r x y h hd hacq hacc ha hb hr => gath_places o h hd hacq hacc ha hb hr,
    fun o s u v t a b r x y len h hd hacq hacc ha hb hr hlen hx hy hlim => coll_places o h hd hacq hacc ha hb hr hlen hx hy hlim, place_of_fullTag,
    fun f hf o s h hcodes => matrixForm_illegal (exec_matrix f hf o s) h hcodes, fun o s h hcodes => ?_, fun o s h hcodes => ?_⟩
  · exact matrixForm_places (exec_matrix p hp o s) h hd hcodes hacq hacc ha hb hsc hw hr hq
  · exact matrixForm_places (o := ⟨o.y, o.b, o.x, o.a, o.d⟩) (show execMmrun o s = _ by rw [execMmrun]) h hd hcodes hacq hacc ha hb hsc hw hr hq
  · exact matrixForm_illegal (show execMmrun o s = _ by rw [execMmrun]) h hcodes
  · change copyForm true o s = _
    rw [copyForm, hcodes, Bool.not_true, Bool.false_or, engineOps_illegal _ _ h.stage_eq, h.curWord_eq]

end Sys2Proof.Machine
end

/-! Scalar floating forms (O10, O11). -/
section
namespace Sys2Proof.Machine

variable {s t u v w : State} {i : Instr}

/-! What governs an instruction (R82, R99). -/

/-- Bits below those replaced are as they were. -/
theorem bitsOf_withBits_low (x : Word) {lo n : Nat} (k : Nat) {lo' n' : Nat} (h : lo + n ≤ 64) (hlow : lo' + n' ≤ lo) :
    bitsOf (withBits x lo n k) lo' n' = bitsOf x lo' n' := by
  have hmod (y : Nat) : y / 2 ^ lo' % 2 ^ n' = y % 2 ^ lo % 2 ^ (lo' + n') / 2 ^ lo' := by
    rw [Nat.mod_mod_of_dvd _ (Nat.pow_dvd_pow 2 hlow), Nat.pow_add, Nat.mod_mul_right_div_self]
  rw [bitsOf, bitsOf, hmod, hmod x.toNat, toNat_withBits_mod x k h]

@[simp] theorem Strand.prefixed_rest (m : Strand) : m.rest.prefixed = m.prefixed := by
  rw [Strand.prefixed, Strand.prefixed, Strand.inTrap_rest]
  exact congrArg (· && !m.inTrap) (getLsbD_withBits_low m.st 0 (by omega) (by omega))

/-- The formats, the mode and the saturation in force lie below the poison count. -/
@[simp] theorem Strand.gov_rest (m : Strand) (fa fb fd : Nat) (sc : Word) : m.rest.gov fa fb fd sc = m.gov fa fb fd sc := by
  have hbits {lo n : Nat} (h : lo + n ≤ 32) : bitsOf m.rest.st lo n = bitsOf m.st lo n := bitsOf_withBits_low m.st 0 (by omega) h
  have hsat : m.rest.st.getLsbD 28 = m.st.getLsbD 28 := getLsbD_withBits_low m.st 0 (by omega) (by omega)
  rw [Strand.gov, Strand.gov, Strand.prefixed_rest, hbits (by omega), hbits (by omega), hbits (by omega), hbits (by omega), hbits (by omega), hsat]

theorem KeepsStrand.gov (h : KeepsStrand s t) (fa fb fd : Nat) (sc : Word) : t.me.gov fa fb fd sc = s.me.gov fa fb fd sc := by
  rw [← Strand.gov_rest, h.rest, Strand.gov_rest]

/-! What consuming a prefix and raising flags leave (R83, R99). -/

/-- A change of the strand in focus that leaves its results to come and its window leaves the room of a destination. -/
theorem room_modMe {f : Strand → Strand} (d : Code) (hp : (f s.me).pending = s.me.pending) (hw : (f s.me).woFull = s.me.woFull) :
    (s.modMe f).room d = s.room d := by
  simp only [State.room, State.me_modMe, myCore_queue_modMe, Strand.owes, hp, hw]
  rfl

@[simp] theorem room_consume (d : Code) : s.consume.room d = s.room d := by
  unfold State.consume
  split
  · exact room_modMe d rfl rfl
  · rfl

@[simp] theorem cur_consume : s.consume.me.cur = s.me.cur := by
  unfold State.consume
  split
  · rw [State.me_modMe]
    rfl
  · rfl

@[simp] theorem serial_consume : s.consume.serial = s.serial := by
  unfold State.consume
  split
  · rfl
  · rfl

@[simp] theorem room_raiseFlags (d : Code) (f : Nat) : (s.modMe (fun m => m.raiseFlags f)).room d = s.room d := room_modMe d rfl rfl

@[simp] theorem cur_raiseFlags (f : Nat) : (s.modMe (fun m => m.raiseFlags f)).me.cur = s.me.cur := by
  rw [State.me_modMe]
  rfl

@[simp] theorem serial_took (c : Code) (y : Bool) (x : Word) : (s.took c y x).serial = s.serial := by
  rcases took_cases s c y x with ⟨r, he⟩ | ⟨r, n, he⟩ | ⟨r, n, he⟩ | ⟨r, n, he⟩ | ⟨r, p, he⟩ | ⟨r, p, -, he⟩ <;> rw [he]
  · rfl
  · rfl
  · rfl
  · rfl
  · rfl
  · rw [State.countPoison, State.count, State.modSag_serial]
    rfl

/-! How an instruction ends. -/

theorem cur_put (d : Code) (x : Word) : (s.put d x).me.cur = s.me.cur := ((KeepsStrand.refl s).ofOperandFrame (.put d x)).cur

/-- An instruction that writes its result to a destination with room completes (R109). -/
theorem completes_of_finish {d : Code} {x : Word} (he : exec i s = finish d x u) (hr : u.room d = true) (hcur : u.me.cur = some i) : Completes i s (u.put d x) :=
  completes_of_exec (he.trans (finish_of_room d x hr)) ((cur_put d x).trans hcur)

/-- An instruction whose result is still to come (R110, R176). -/
theorem later_of_exec {p : Pend} (he : exec i s = later p u) (hcur : u.me.cur = some i) : Later i s u p := by
  unfold Later
  split
  · next hd => exact completes_of_exec (he.trans (if_pos hd)) (by rw [State.me_modMe]; exact hcur)
  · next hd => exact he.trans (if_neg hd)

/-! Scalar floating forms (R119 to R123). -/

/-- The first source of an instruction has been read. -/
theorem readSrc_of_gives {j : Nat} {c : Code} {y : Bool} {x : Word} (hj : s.me.reads.length = j) (hg : s.Gives c y x u) (k : Word → State → Out) :
    readSrc j c y s k = k x u := by
  obtain ⟨hy, hsrc, rfl⟩ := hg
  exact readSrc_of_src j c y k x hj hy hsrc

/-- A destination that has room after sources have been read could be promised its value before. -/
theorem accepts_of_gives {c d : Code} {y : Bool} {x : Word} (hslot : s.slot < 16) (hg : s.Gives c y x u) (hacc : u.accepts d = true) : s.accepts d = true := by
  obtain ⟨-, -, rfl⟩ := hg
  rwa [accepts_took c d y x hslot] at hacc

/-- What a two-source floating form makes of its operands under g: a code and flags. -/
def Gov.two (g : Gov) (f : FOp) (a b : Word) : Nat × Nat := deliver g.fd g.rm g.sat (binVal f (valueOf g.fa a.toNat) (valueOf g.fb b.toNat) g.rm)

/-- A two-source form with legal codes and operands that can be read. -/
theorem sfp_of_gives {dbl long : Bool} {f : FOp} {o : FmtA} {a b : Word} (h : s.Begins i) (hd : dstOk o.d = true) (hcodes : sfpCodes dbl s = true)
    (hacc : s.accepts o.d = true) (ha : s.Gives o.a o.x a u) (hb : u.Gives o.b o.y b v) :
    let r := (s.me.gov (sfpFmt dbl) (sfpFmt dbl) (sfpFmt dbl) 0).two f a b
    let t := v.consume.modMe (fun m => m.raiseFlags r.2)
    sfp dbl long f o s = if long then longLatency o.d (word r.1) t else finish o.d (word r.1) t := by
  obtain ⟨hx, -, -⟩ := id ha
  obtain ⟨hy, -, -⟩ := id hb
  rw [sfp, hx, hy, hd, hcodes, Bool.and_self, Bool.and_self, Bool.and_self, checked_ok true _ (fun _ => rfl), withDst_of_accepts _ _ hacc,
    two_of_gives o a b u v _ h.reads_eq h.slot_lt ha hb, (KeepsStrand.givesTwo h ha hb).gov]
  rfl

/-- The two-source forms that end at once. -/
theorem exec_sfp : ∀ p ∈ [(Instr.sfpFaddS, FOp.add, false), (.sfpFsubS, .sub, false), (.sfpFmulS, .mul, false), (.sfpFminS, .min, false), (.sfpFmaxS, .max, false),
      (.sfpFaddD, .add, true), (.sfpFsubD, .sub, true), (.sfpFmulD, .mul, true), (.sfpFminD, .min, true), (.sfpFmaxD, .max, true)],
    ∀ (o : FmtA) (s : State), exec (p.1 o) s = sfp p.2.2 false p.2.1 o s := by
  intro p hp o s
  fin_cases hp <;> rfl

theorem exec_sfma : ∀ p ∈ [(Instr.sfmaFmaS, false, false), (.sfmaFmsS, true, false), (.sfmaFmaD, false, true), (.sfmaFmsD, true, true)],
    ∀ (o : FmtA) (s : State), exec (p.1 o) s = sfma p.2.2 p.2.1 o s := by
  intro p hp o s
  fin_cases hp <;> rfl

/-- The compares, and the format of their operands. -/
theorem exec_scmp : ∀ p ∈ [(Instr.scmpFeqS, COp.feq, 0), (.scmpFltS, .flt, 0), (.scmpFleS, .fle, 0), (.scmpFunordS, .funord, 0),
      (.scmpFeqD, .feq, 10), (.scmpFltD, .flt, 10), (.scmpFleD, .fle, 10), (.scmpFunordD, .funord, 10)],
    ∃ dbl, sfpFmt dbl = p.2.2 ∧ ∀ (o : FmtA) (s : State), exec (p.1 o) s = scmp dbl p.2.1 o s := by
  intro p hp
  fin_cases hp
  case _ | _ | _ | _ => exact ⟨false, rfl, fun _ _ => rfl⟩
  case _ | _ | _ | _ => exact ⟨true, rfl, fun _ _ => rfl⟩

/-- A form that ends at once once its sources are read: its flags are raised, its prefix is consumed and its result is written. -/
theorem completes_flagged {d : Code} {x : Word} {f : Nat} (he : exec i s = finish d x (v.consume.modMe (fun m => m.raiseFlags f))) (h : s.Begins i)
    (hkeeps : KeepsStrand s v) (hr : v.room d = true) : Completes i s ((v.consume.modMe (fun m => m.raiseFlags f)).put d x) := by
  refine completes_of_finish he (by rwa [room_raiseFlags, room_consume]) ?_
  rw [cur_raiseFlags, cur_consume, hkeeps.cur, h.cur_eq]

theorem KeepsStrand.slot_lt (hk : KeepsStrand s t) (h : s.slot < 16) : t.slot < 16 := hk.slot ▸ h

/-- A destination with room after two sources have been read could be promised its value before. -/
theorem accepts_of_givesTwo {c c' d : Code} {y y' : Bool} {a b : Word} (h : s.Begins i) (ha : s.Gives c y a u) (hb : u.Gives c' y' b v) (hacc : v.accepts d = true) :
    s.accepts d = true := by
  exact accepts_of_gives h.slot_lt ha (accepts_of_gives ((KeepsStrand.gives ha h.slot_lt).slot_lt h.slot_lt) hb hacc)

/-- A two-source form that ends at once. -/
theorem sfp_completes {dbl : Bool} {f : FOp} {o : FmtA} {a b : Word} (he : exec i s = sfp dbl false f o s) (h : s.Begins i) (hd : dstOk o.d = true)
    (hcodes : sfpCodes dbl s = true) (ha : s.Gives o.a o.x a u) (hb : u.Gives o.b o.y b v) (hr : v.room o.d = true) :
    let r := (s.me.gov (sfpFmt dbl) (sfpFmt dbl) (sfpFmt dbl) 0).two f a b
    Completes i s ((v.consume.modMe (fun m => m.raiseFlags r.2)).put o.d (word r.1)) :=
  completes_flagged (he.trans (sfp_of_gives h hd hcodes (accepts_of_givesTwo h ha hb (accepts_of_room hr)) ha hb)) h (.givesTwo h ha hb) hr

/-- A fused form, which reads d as its third source. -/
theorem sfma_completes {dbl minus : Bool} {o : FmtA} {a b c : Word} (he : exec i s = sfma dbl minus o s) (h : s.Begins i) (hd : dstOk o.d = true)
    (hcodes : sfpCodes dbl s = true) (ha : s.Gives o.a o.x a u) (hb : u.Gives o.b o.y b v) (hc : v.Gives o.d false c w) (hr : w.room o.d = true) :
    let g := s.me.gov (sfpFmt dbl) (sfpFmt dbl) (sfpFmt dbl) 0
    let z := valueOf g.fd c.toNat
    let r := deliver g.fd g.rm g.sat (fmaVal (valueOf g.fa a.toNat) (valueOf g.fb b.toNat) (if minus then z.flip else z) g.rm)
    Completes i s ((w.consume.modMe (fun m => m.raiseFlags r.2)).put o.d (word r.1)) := by
  obtain ⟨hx, -, -⟩ := id ha
  obtain ⟨hy, -, -⟩ := id hb
  obtain ⟨hz, -, -⟩ := id hc
  have hv := KeepsStrand.givesTwo h ha hb
  have hw := hv.trans (.gives hc (hv.slot_lt h.slot_lt))
  have hacc := accepts_of_givesTwo h ha hb (accepts_of_gives (hv.slot_lt h.slot_lt) hc (accepts_of_room hr))
  refine completes_flagged (he.trans ?_) h hw hr
  rw [sfma, hx, hy, hz, hd, hcodes, Bool.and_self, Bool.and_self, Bool.and_self, Bool.and_self, checked_ok true _ (fun _ => rfl), withDst_of_accepts _ _ hacc,
    two_of_gives o a b u v _ h.reads_eq h.slot_lt ha hb, readSrc_of_gives (length_reads_of_gives h ha hb) hc, hw.gov]

/-- A compare takes no prefix. -/
theorem scmp_completes {dbl : Bool} {f : COp} {o : FmtA} {a b : Word} (he : exec i s = scmp dbl f o s) (h : s.Starts i) (hd : dstOk o.d = true)
    (ha : s.Gives o.a o.x a u) (hb : u.Gives o.b o.y b v) (hr : v.room o.d = true) :
    let r := cmpVal f (valueOf (sfpFmt dbl) a.toNat) (valueOf (sfpFmt dbl) b.toNat)
    Completes i s ((v.modMe (fun m => m.raiseFlags r.2)).put o.d (if r.1 then 1 else 0)) := by
  obtain ⟨hx, -, -⟩ := id ha
  obtain ⟨hy, -, -⟩ := id hb
  have hacc := accepts_of_givesTwo h.begins ha hb (accepts_of_room hr)
  refine completes_of_finish (he.trans ?_) (by rwa [room_raiseFlags]) (by rw [cur_raiseFlags, (KeepsStrand.givesTwo h.begins ha hb).cur, h.begins.cur_eq])
  rw [scmp, hx, hy, hd, Bool.and_self, Bool.and_self, plain_of_starts h, withDst_of_accepts _ _ hacc,
    two_of_gives o a b u v _ h.begins.reads_eq h.begins.slot_lt ha hb]

/-- Settles O10: each form reads its sources, rounds once, and ends with its flags raised and its prefix consumed. -/
theorem scalarFloatFormsComplete : Obligations.ScalarFloatFormsComplete := by
  refine ⟨fun p hp o s s1 s2 a b h hx hy hd hcodes ha h1 hb h2 hr => ?_, fun p hp o s s1 s2 s3 a b c h hx hy hz hd hcodes ha h1 hb h2 hc h3 hr => ?_,
    fun p hp o s s2 a b h hpre hx hy hd ha hb h2 hr => ?_⟩
  · exact sfp_completes (exec_sfp p hp o s) h hd hcodes ⟨hx, ha, h1⟩ ⟨hy, hb, h2⟩ hr
  · exact sfma_completes (exec_sfma p hp o s) h hd hcodes ⟨hx, ha, h1⟩ ⟨hy, hb, h2⟩ ⟨hz, hc, h3⟩ hr
  · obtain ⟨dbl, hfmt, he⟩ := exec_scmp p hp
    rw [← hfmt]
    exact scmp_completes (he o s) ⟨h, hpre⟩ hd ⟨hx, ha, rfl⟩ ⟨hy, hb, h2⟩ hr

/-! Divisions, square roots and conversions (R110, R119, R122). -/

theorem exec_sfp_long : ∀ p ∈ [(Instr.sfpFdivS, false), (.sfpFdivD, true)], ∀ (o : FmtA) (s : State), exec (p.1 o) s = sfp p.2 true .div o s := by
  intro p hp o s
  fin_cases hp <;> rfl

theorem exec_sfpSqrt : ∀ p ∈ [(Instr.sfpFsqrtS, false), (.sfpFsqrtD, true)], ∀ (o : FmtUn) (s : State), exec (p.1 o) s = sfpSqrt p.2 o s := by
  intro p hp o s
  fin_cases hp <;> rfl

/-- A 64-bit number read as signed is the magnitude and the sign of the word. -/
theorem intVal_signed (a : Word) : intVal 64 true a.toNat = .fin (decide (a.toInt < 0)) a.toInt.natAbs 1 := by
  have hlt := a.isLt
  rw [intVal, Nat.mod_eq_of_lt hlt, BitVec.toInt_eq_toNat_cond]
  by_cases h : 2 * a.toNat < 2 ^ 64
  · have hs : (true && decide (2 ^ 64 ≤ 2 * a.toNat)) = false := by simpa using h
    rw [if_pos h, hs, if_neg Bool.false_ne_true, decide_eq_false (by omega), Int.natAbs_natCast]
  · have hs : (true && decide (2 ^ 64 ≤ 2 * a.toNat)) = true := by simpa using h
    rw [if_neg h, hs, if_pos rfl, decide_eq_true (by omega), show ((a.toNat : Int) - (2 ^ 64 : Nat)).natAbs = 2 ^ 64 - a.toNat by omega]

theorem intVal_unsigned (a : Word) : intVal 64 false a.toNat = .fin false a.toNat 1 := by
  rw [intVal, Nat.mod_eq_of_lt a.isLt, Bool.false_and, if_neg Bool.false_ne_true]

/-- A conversion from a signed number takes its sign and its magnitude (R122). -/
theorem convFromInt_signed (dst : Nat) : convFromInt true dst = fun rm sat a => deliverVal dst rm sat 0 true (.fin (decide (a.toInt < 0)) a.toInt.natAbs 1) := by
  funext rm sat a
  rw [convFromInt, intVal_signed]

theorem convFromInt_unsigned (dst : Nat) : convFromInt false dst = fun rm sat a => deliverVal dst rm sat 0 true (.fin false a.toNat 1) := by
  funext rm sat a
  rw [convFromInt, intVal_unsigned]

theorem exec_scvt : ∀ p ∈ [(Instr.scvtDS, fun (a : Word) (rm : Nat) (sat : Bool) => deliverVal 10 rm sat 0 false (valueOf 0 a.toNat)),
      (.scvtSD, fun a rm sat => deliverVal 0 rm sat 0 false (valueOf 10 a.toNat)), (.scvtBfS, fun a rm sat => deliverVal 1 rm sat 0 false (valueOf 0 a.toNat)),
      (.scvtSBf, fun a rm sat => deliverVal 0 rm sat 0 false (valueOf 1 a.toNat)), (.scvtHS, fun a rm sat => deliverVal 2 rm sat 0 false (valueOf 0 a.toNat)),
      (.scvtSH, fun a rm sat => deliverVal 0 rm sat 0 false (valueOf 2 a.toNat)),
      (.scvtSL, fun a rm sat => deliverVal 0 rm sat 0 true (.fin (decide (a.toInt < 0)) a.toInt.natAbs 1)),
      (.scvtSLu, fun a rm sat => deliverVal 0 rm sat 0 true (.fin false a.toNat 1)),
      (.scvtDL, fun a rm sat => deliverVal 10 rm sat 0 true (.fin (decide (a.toInt < 0)) a.toInt.natAbs 1)),
      (.scvtDLu, fun a rm sat => deliverVal 10 rm sat 0 true (.fin false a.toNat 1)),
      (.scvtLS, fun a rm sat => convToInt 0 true rm sat a), (.scvtLuS, fun a rm sat => convToInt 0 false rm sat a),
      (.scvtLD, fun a rm sat => convToInt 10 true rm sat a), (.scvtLuD, fun a rm sat => convToInt 10 false rm sat a)],
    ∀ (o : FmtUn) (s : State), exec (p.1 o) s = scvt (fun rm sat a => p.2 a rm sat) o s := by
  intro p hp o s
  fin_cases hp
  case _ | _ | _ | _ | _ | _ => rfl
  case _ => exact congrArg (fun c => scvt c o s) (convFromInt_signed 0)
  case _ => exact congrArg (fun c => scvt c o s) (convFromInt_unsigned 0)
  case _ => exact congrArg (fun c => scvt c o s) (convFromInt_signed 10)
  case _ => exact congrArg (fun c => scvt c o s) (convFromInt_unsigned 10)
  case _ | _ | _ | _ => rfl

/-- A result that comes later leaves the next serial number to it (R110). -/
theorem later_of_longLatency {d : Code} {x : Word} (he : exec i s = longLatency d x u) (hcur : u.me.cur = some i) (hserial : u.serial = s.serial) :
    Later i s { u with serial := s.serial + 1 } ⟨s.serial, d.toNat, x, 0, 64, false, false, false, none, 0, 0⟩ := by
  rw [← hserial]
  exact later_of_exec he hcur

theorem serial_gives {c : Code} {y : Bool} {x : Word} (hg : s.Gives c y x u) : u.serial = s.serial := by
  obtain ⟨-, -, rfl⟩ := hg
  exact serial_took c y x

/-- A long-latency form raises its flags at issue. -/
theorem later_flagged {d : Code} {x : Word} {f : Nat} (he : exec i s = longLatency d x (v.consume.modMe (fun m => m.raiseFlags f))) (h : s.Begins i)
    (hkeeps : KeepsStrand s v) (hserial : v.serial = s.serial) : Later i s { (v.consume.modMe (fun m => m.raiseFlags f)) with serial := s.serial + 1 }
      ⟨s.serial, d.toNat, x, 0, 64, false, false, false, none, 0, 0⟩ :=
  later_of_longLatency he (by rw [cur_raiseFlags, cur_consume, hkeeps.cur, h.cur_eq]) (serial_consume.trans hserial)

/-- A square root. -/
theorem sfpSqrt_later {dbl : Bool} {o : FmtUn} {a : Word} (he : exec i s = sfpSqrt dbl o s) (h : s.Begins i) (hd : dstOk o.d = true)
    (hcodes : sfpCodes dbl s = true) (hacc : s.accepts o.d = true) (ha : s.Gives o.a o.x a u) :
    let g := s.me.gov (sfpFmt dbl) (sfpFmt dbl) (sfpFmt dbl) 0
    let r := deliver g.fd g.rm g.sat (unVal .fsqrt (valueOf g.fa a.toNat))
    Later i s { (u.consume.modMe (fun m => m.raiseFlags r.2)) with serial := s.serial + 1 }
      ⟨s.serial, o.d.toNat, word r.1, 0, 64, false, false, false, none, 0, 0⟩ := by
  obtain ⟨hx, -, -⟩ := id ha
  have hu := KeepsStrand.gives ha h.slot_lt
  refine later_flagged (he.trans ?_) h hu (serial_gives ha)
  rw [sfpSqrt, hx, hd, hcodes, Bool.and_self, Bool.and_self, checked_ok true _ (fun _ => rfl), withDst_of_accepts _ _ hacc,
    readSrc_of_gives (by rw [h.reads_eq]; rfl) ha, hu.gov]

/-- A conversion. -/
theorem scvt_completes {conv : Nat → Bool → Word → Nat × Nat} {o : FmtUn} {a : Word} (he : exec i s = scvt conv o s) (h : s.Begins i) (hd : dstOk o.d = true)
    (hcodes : formatsOk .any .any .any s = true) (ha : s.Gives o.a o.x a u) (hr : u.room o.d = true) :
    let g := s.me.gov 0 0 0 0
    let r := conv g.rm g.sat a
    Completes i s ((u.consume.modMe (fun m => m.raiseFlags r.2)).put o.d (word r.1)) := by
  obtain ⟨hx, -, -⟩ := id ha
  have hu := KeepsStrand.gives ha h.slot_lt
  refine completes_flagged (he.trans ?_) h hu hr
  rw [scvt, hx, hd, hcodes, Bool.and_self, Bool.and_self, checked_ok true _ (fun _ => rfl),
    withDst_of_accepts _ _ (accepts_of_gives h.slot_lt ha (accepts_of_room hr)), readSrc_of_gives (by rw [h.reads_eq]; rfl) ha, hu.gov]

/-- Settles O11: a division or a root ends its part with its flags raised, a conversion ends at once. -/
theorem floatDivisionRootAndConversion : Obligations.FloatDivisionRootAndConversion := by
  refine ⟨fun p hp o s s1 s2 a b h hx hy hd hcodes hacc ha h1 hb h2 => ?_, fun p hp o s s1 a h hx hd hcodes hacc ha h1 => ?_,
    fun p hp o s s1 a h hx hd hcodes ha h1 hr => ?_⟩
  · have hga : s.Gives o.a o.x a s1 := ⟨hx, ha, h1⟩
    have hgb : s1.Gives o.b o.y b s2 := ⟨hy, hb, h2⟩
    exact later_flagged ((exec_sfp_long p hp o s).trans (sfp_of_gives h hd hcodes hacc hga hgb)) h (.givesTwo h hga hgb)
      ((serial_gives hgb).trans (serial_gives hga))
  · exact sfpSqrt_later (exec_sfpSqrt p hp o s) h hd hcodes hacc ⟨hx, ha, h1⟩
  · exact scvt_completes (conv := fun rm sat a => p.2 a rm sat) (exec_scvt p hp o s) h hd hcodes ⟨hx, ha, h1⟩ hr

end Sys2Proof.Machine
end

/-! Values of every IEEE format (O12). -/
section
namespace Sys2Proof.Machine

/-- An operation of two data with a NaN among them gives the quiet NaN, and NV where one of them signals (R81). -/
theorem binVal_of_nan {a b : Val} (rm : Nat) (h : a.isNan = true ∨ b.isNan = true) : ∀ f ∈ [FOp.add, .sub, .mul, .div, .min, .max],
    binVal f a b rm = nanResult (a.isSig || b.isSig) := by
  have hn : (a.isNan || b.isNan) = true := by simpa using h
  intro f hf
  fin_cases hf <;> exact if_pos hn

/-- The quiet NaN is delivered as the canonical NaN of the format. -/
theorem deliver_nanResult (rm : Nat) (sat c : Bool) : ∀ fmt ∈ [0, 1, 2, 10], deliver fmt rm sat (nanResult c) = (cnan fmt, if c = true then fNV else 0) := by
  intro fmt hfmt
  fin_cases hfmt <;> exact Prod.ext rfl (Nat.zero_or _)

theorem deliver_inf (rm : Nat) (sat neg : Bool) (fl : Nat) : ∀ fmt ∈ [0, 1, 2, 10], deliver fmt rm sat (.inf neg, fl) = (infCode fmt neg, fl) := by
  intro fmt hfmt
  fin_cases hfmt <;> exact Prod.ext rfl (Nat.zero_or _)

theorem roundInt_exact (neg : Bool) {num den : Nat} (rm : Nat) (h : num % den = 0) : roundInt neg num den rm = (num / den, false) := if_pos h

/-- To nearest, a remainder rounds up beyond half a unit, and at half of it from an odd quotient (R82). -/
theorem roundInt_nearest (neg : Bool) {num den : Nat} (h : num % den ≠ 0) :
    roundInt neg num den 0 = (if den < 2 * (num % den) ∨ (2 * (num % den) = den ∧ num / den % 2 = 1) then num / den + 1 else num / den, true) := by
  simp only [roundInt, h, if_false, Bool.or_eq_true, Bool.and_eq_true, decide_eq_true_eq]

/-- Rounding to nearest is off by half a unit at most, goes to the even neighbour from the middle, and tells whether it was exact (R82). -/
theorem roundInt_nearest_error (neg : Bool) {num den : Nat} (hden : 0 < den) :
    2 * num ≤ (2 * (roundInt neg num den 0).1 + 1) * den ∧ 2 * (roundInt neg num den 0).1 * den ≤ 2 * num + den ∧
    (2 * num = (2 * (num / den) + 1) * den → (roundInt neg num den 0).1 % 2 = 0) ∧ ((roundInt neg num den 0).2 = true ↔ num % den ≠ 0) := by
  have hdiv : num / den * den + num % den = num := Nat.div_add_mod' num den
  have hlt : num % den < den := Nat.mod_lt _ hden
  have hodd (q : Nat) : (2 * q + 1) * den = 2 * (q * den) + den := by ring
  have htwice (q : Nat) : 2 * q * den = 2 * (q * den) := by ring
  have hnext : (num / den + 1) * den = num / den * den + den := by ring
  by_cases hr : num % den = 0
  · rw [roundInt_exact neg 0 hr, hodd, htwice]
    dsimp only
    exact ⟨by omega, by omega, fun h => by omega, by simp [hr]⟩
  · rw [roundInt_nearest neg hr, hodd, hodd, htwice]
    split
    · next hup =>
      dsimp only
      rw [hnext]
      exact ⟨by omega, by omega, fun h => by omega, by simp [hr]⟩
    · next hdown =>
      dsimp only
      exact ⟨by omega, by omega, fun h => by omega, by simp [hr]⟩

/-- Settles O12: a NaN, a zero divisor, the two zeros and the rounding of a quotient to nearest. -/
theorem floatValueRules : Obligations.FloatValueRules := by
  refine ⟨fun f hf fmt hfmt fa fb rm x y sat hn => ?_, fun fmt hfmt m n p q t rm sat hp => ⟨?_, deliver_inf rm sat _ fDZ fmt hfmt⟩, by decide,
    fun neg num den hden => roundInt_nearest_error neg hden⟩
  · rw [binVal_of_nan rm hn f hf, deliver_nanResult rm sat _ fmt hfmt]
    simp only [Bool.or_eq_true]
  · have hdiv : divVal (.fin m p q) (.fin n 0 t) = (.inf (m != n), fDZ) := by simp only [divVal, hp, if_true, if_false]
    rw [hdiv, deliver_inf rm sat _ fDZ fmt hfmt]

end Sys2Proof.Machine
end

/-! Bit fields (O27). -/
section
namespace Sys2Proof.Machine

variable {s t u v : State} {i : Instr}

/-! Bank words (R98, R182). -/

theorem mem_bankWords {bo w : Nat} {x : Nat × Nat × Nat × Nat} : x ∈ bankWords bo w ↔ ∃ j < 3,
    max bo (32 * (bo / 32 + j)) < min (bo + w) (32 * (bo / 32 + j) + 32) ∧
    x = (4 * (bo / 32 + j), max bo (32 * (bo / 32 + j)) - bo, min (bo + w) (32 * (bo / 32 + j) + 32) - max bo (32 * (bo / 32 + j)),
      max bo (32 * (bo / 32 + j)) - 32 * (bo / 32 + j)) := by
  simp only [bankWords, List.mem_filterMap, List.mem_range, Option.ite_none_right_eq_some, Option.some.injEq, eq_comm (a := x)]

/-- Each bit of a field falls to the bank word that holds it. -/
theorem bankWords_cover (bo w i : Nat) (hi : i < w) (hw : w ≤ 64) : ∃ x ∈ bankWords bo w, x.2.1 ≤ i ∧ i < x.2.1 + x.2.2.1 ∧
    8 * x.1 + x.2.2.2 + (i - x.2.1) = bo + i ∧ x.2.2.2 + x.2.2.1 ≤ 32 ∧ x.1 % 4 = 0 := by
  refine ⟨_, mem_bankWords.2 ⟨(bo + i) / 32 - bo / 32, by omega, by omega, rfl⟩, ?_⟩
  dsimp only
  omega

theorem bankWords_ne_nil {bo w : Nat} (hpos : 0 < w) (hw : w ≤ 64) : bankWords bo w ≠ [] := by
  obtain ⟨x, hx, -⟩ := bankWords_cover bo w 0 hpos hw
  exact List.ne_nil_of_mem hx

/-! The checks of a bit-field access. -/

/-- An admitted access goes on in a state that keeps the strand in focus. -/
theorem Admits.keepsStrand {kd : Acc} {a : Word} {n al : Nat} {pre : Addr → Bool} {p : Place} (h : Admits kd a n al pre s p t) : KeepsStrand s t := by
  classical
  by_contra hn
  have hcongr := accessBy_congr (y := .byte) (kd := kd) (a := a) (n := n) (al := al) (pre := pre) (k := fun _ _ => .refused (.notModelled ""))
    (k' := fun _ t => if KeepsStrand s t then .refused (.notModelled "") else .next t) (.refl s) (fun p t ht => (if_pos ht).symm)
  rw [h, h, if_neg hn] at hcongr
  cases hcongr

/-- A bit field outside the mesh traps BIT_ADDRESS before its address is looked at (R182). -/
theorem bitAccess_traps {y : Way} {kd : Acc} {op a : Word} {w : Nat} (h8 : bitsOf a 60 4 ≠ 8) (h9 : bitsOf a 60 4 ≠ 9) (k : Place → Nat → State → Out) :
    bitAccess y kd op a w s k = takeTrapCode 8 s.me.pc a s := by
  rw [bitAccess, if_pos (by simp [h8, h9])]
  rfl

/-- The place of the bank word that holds the byte at place q. -/
def Place.word0 (q : Place) : Place := { q with named := q.named - q.loc % 4, loc := q.loc - q.loc % 4 }

/-- An admitted bit field goes on at the bank word that holds its first bit. -/
theorem bitAccess_of_admits {y : Way} {kd : Acc} {op a : Word} {w : Nat} {q : Place} (hk : bitsOf a 60 4 = 8 ∨ bitsOf a 60 4 = 9)
    (hr : resolve s s.myCluster s.me.sag (byteOfBit a) ((bitsOf a 0 3 + w + 7) / 8) ≠ none)
    (h : Admits kd (byteOfBit a) ((bitsOf a 0 3 + w + 7) / 8) 1 (fun _ => true) s q t) (k : Place → Nat → State → Out) :
    bitAccess y kd op a w s k = k q.word0 (q.loc % 4 * 8 + bitsOf a 0 3) t := by
  obtain ⟨ad, had⟩ := Option.ne_none_iff_exists'.1 hr
  rw [bitAccess, if_neg (by rcases hk with hk | hk <;> simp [hk])]
  dsimp only
  rw [had]
  exact h y _

/-! Bit-field loads and stores (R182). -/

/-- Without an acquire that waits for its value an access is in order (R289). -/
theorem ordered_of_free (k : State → Out) (h : s.acquirePending = false) : Machine.ordered s k = k s := by
  rw [Machine.ordered, h, Bool.and_false, if_neg Bool.false_ne_true]

/-- A load that has been sent is on its way (R176, R178). -/
theorem loads_of_exec {p : Pend} (he : exec i s = loadSent p u) (hcur : u.me.cur = some i) : Loads i s u p := by
  rw [loadSent] at he
  unfold Loads
  split
  · next hp => rw [he, if_pos hp]; rfl
  · next hp => exact later_of_exec (he.trans (if_neg hp)) hcur

theorem KeepsStrand.post {s0 : State} {tc ctx va loc n : Nat} {x : Home} {b : Body} (h : KeepsStrand s0 s) : KeepsStrand s0 (s.post tc ctx va loc n x b) := h.same rfl

/-- The place n bytes behind place r. -/
def Place.behind (r : Place) (n : Nat) : Place := { r with named := r.named + n, loc := r.loc + n }

/-- The reads of bank words ws of a field at place r are in flight, parts of one result (R182). -/
def State.readWords (s : State) (r : Place) (ws : List (Nat × Nat × Nat × Nat)) : State :=
  ws.foldl (fun (t : State) (x : Nat × Nat × Nat × Nat) =>
    t.post 1 (s.tagFor r) (r.named + x.1) (r.loc + x.1) 4 (t.homeFor (r.behind x.1) (s.tagFor r)) (.load (.reg s.serial x.2.1 x.2.2.1 x.2.2.2)))
    { s with serial := s.serial + 1 }

theorem KeepsStrand.readWords (r : Place) (ws : List (Nat × Nat × Nat × Nat)) : KeepsStrand s (s.readWords r ws) :=
  .foldl ws (fun h => h.post) ((KeepsStrand.refl s).same rfl)

/-- No bank word among ws at place r is barred by an earlier access (R287). -/
def State.WordsClear (s : State) (load : Bool) (r : Place) (ws : List (Nat × Nat × Nat × Nat)) : Prop :=
  ∀ x ∈ ws, s.crosses load (s.homeFor (r.behind x.1) (s.tagFor r)) (r.loc + x.1) 4 = false

theorem State.WordsClear.any_eq_false {load : Bool} {r : Place} {ws : List (Nat × Nat × Nat × Nat)} (h : s.WordsClear load r ws) :
    ws.any (fun x => s.crosses load (s.homeFor (r.behind x.1) (s.tagFor r)) (r.loc + x.1) 4) = false :=
  List.any_eq_false.2 (fun x hx => ne_true_of_eq_false (h x hx))

theorem ldb_cases (o : FmtLdb) {a : Word} {q : Place} (h : s.Starts (.ldb o)) (hd : dstOk o.d = true) (hacq : s.acquirePending = false) (hacc : s.accepts o.d = true)
    (ha : s.Gives o.a o.x a u) :
    let w := o.w.toNat + 1
    let bo := q.loc % 4 * 8 + bitsOf a 0 3
    let ws := bankWords bo w
    (bitsOf a 60 4 ≠ 8 → bitsOf a 60 4 ≠ 9 → Traps (.ldb o) s u 8 a) ∧
    ((bitsOf a 60 4 = 8 ∨ bitsOf a 60 4 = 9) → resolve u u.myCluster u.me.sag (byteOfBit a) ((bitsOf a 0 3 + w + 7) / 8) ≠ none →
      Admits .load (byteOfBit a) ((bitsOf a 0 3 + w + 7) / 8) 1 (fun _ => true) u q t →
      t.requestRoom ws.length = true → t.parkedOverlap q.word0.named (4 * ws.length) = false → t.WordsClear true q.word0 ws →
      Loads (.ldb o) s (t.readWords q.word0 ws) ⟨t.serial, o.d.toNat, 0, ws.length, w, o.e, true, false, none, byteOfBit a, q.word0.loc + bo / 8⟩) := by
  intro w bo ws
  obtain ⟨hx, -, -⟩ := id ha
  have hu := KeepsStrand.gives ha h.begins.slot_lt
  have he : exec (.ldb o) s = execLdb o s := rfl
  rw [execLdb, hx, hd, Bool.and_self, plain_of_starts h, ordered_of_free _ hacq, withDst_of_accepts _ _ hacc,
    readSrc_of_gives (by rw [h.begins.reads_eq]; rfl) ha] at he
  refine ⟨fun h8 h9 => ?_, fun hk hr hadm hroom hpark hclear => ?_⟩
  · rw [Traps, he, bitAccess_traps h8 h9, hu.pc]
  · have hfree : (!t.requestRoom ws.length || t.parkedOverlap q.word0.named (4 * ws.length) ||
        ws.any (fun x => t.crosses true (t.homeFor (q.word0.behind x.1) (t.tagFor q.word0)) (q.word0.loc + x.1) 4)) = false := by
      rw [hroom, hpark, hclear.any_eq_false]
      rfl
    refine loads_of_exec (he.trans ((bitAccess_of_admits hk hr hadm _).trans (if_neg (ne_true_of_eq_false hfree)))) ?_
    rw [((hu.trans hadm.keepsStrand).trans (.readWords q.word0 ws)).cur, h.begins.cur_eq]

/-- The message of the k-th write of the instruction of the strand in focus. -/
def State.writeMsg (s : State) (ctx : Place → Nat) (tc k : Nat) (w : Place × Nat × Body) : Msg :=
  ⟨s.serial + k, s.core, s.slot, s.me.uid, s.me.sag, s.me.task, s.me.spec, tc, ctx w.1, w.1.named, w.1.loc, w.2.1, s.homeFor w.1 (ctx w.1), w.2.2, s.serial, s.time⟩

/-- All the writes of an instruction are in flight, and none is parked. -/
def State.sentAll (s : State) (ctx : Place → Nat) (tc : Nat) (ws : List (Place × Nat × Body)) : State :=
  State.modMyCore { s with net := s.net ++ ((List.range ws.length).zip ws).map (fun x => s.writeMsg ctx tc x.1 x.2), serial := s.serial + ws.length }
    (fun c => { c with replay := c.replay ++ [] })

/-- Writes that meet no fault and no parked store go out together (R167, R175). -/
theorem sendAll_of_free (ctx : Place → Nat) (tc : Nat) {ws : List (Place × Nat × Body)} (k : State → Out) (hroom : s.requestRoom 1 = true)
    (hpark : s.myCore.replay = []) (hplaces : ∀ w ∈ ws, w.1.replay = none) : sendAll ctx tc ws s k = k (s.sentAll ctx tc ws) := by
  unfold sendAll
  extract_lets why parked pages m msg all out entries
  have hwhy : ∀ w ∈ ws, why w.1 = none := fun w hw => by simp only [why, hplaces w hw, State.parkedPage, hpark, List.find?_nil, Option.map_none]
  have hpages : pages = [] := by
    have hparked : parked = [] := List.filter_eq_nil_iff.2 (fun w hw => by simp [hwhy w hw])
    simp only [pages, hparked, List.map_nil, List.eraseDups_nil]
  have hout : out = all.map (fun x => s.writeMsg ctx tc x.1 x.2) :=
    congrArg (List.map _) (List.filter_eq_self.2 (fun x hx => by simp [hwhy x.2 (List.of_mem_zip hx).2]))
  have hentries : entries = [] := by simp only [entries, hpages, List.map_nil]
  rw [if_neg (by simp [hroom]), if_neg (by simp [hpages, hpark]), hout, hentries]
  rfl

/-- What a list holds of its places in order. -/
theorem map_zip_range {α β : Type} (l : List α) (f : α → β) : ((List.range l.length).zip l).map (fun x => f x.2) = l.map f := by
  calc
    _ = (((List.range l.length).zip l).map Prod.snd).map f := List.map_map.symm
    _ = l.map f := by rw [List.map_snd_zip (by rw [List.length_range])]

theorem KeepsStrand.sentAll (ctx : Place → Nat) (tc : Nat) (ws : List (Place × Nat × Body)) : KeepsStrand s (s.sentAll ctx tc ws) :=
  .modCore (fun _ => rfl) ((KeepsStrand.refl s).same rfl)

theorem me_sentAll (ctx : Place → Nat) (tc : Nat) (ws : List (Place × Nat × Body)) : (s.sentAll ctx tc ws).me = s.me :=
  strandAt_modCore (f := fun c => { c with replay := c.replay ++ [] }) (fun _ => rfl) _ _

theorem net_sentAll (ctx : Place → Nat) (tc : Nat) (ws : List (Place × Nat × Body)) :
    (s.sentAll ctx tc ws).net = s.net ++ ((List.range ws.length).zip ws).map (fun x => s.writeMsg ctx tc x.1 x.2) := rfl

/-- A core with room for several requests has room for one. -/
theorem requestRoom_one {n : Nat} (h : s.requestRoom n = true) (hn : 1 ≤ n) : s.requestRoom 1 = true := by
  simp only [State.requestRoom, decide_eq_true_eq] at *
  omega

theorem bodies_sentAll (ctx : Place → Nat) (tc : Nat) (ws : List (Place × Nat × Body)) :
    (s.sentAll ctx tc ws).net.map (·.body) = s.net.map (·.body) ++ ws.map (·.2.2) := by
  rw [net_sentAll, List.map_append, List.map_map]
  exact congrArg (_ ++ ·) (map_zip_range ws (fun w => w.2.2))

theorem locs_sentAll (ctx : Place → Nat) (tc : Nat) (ws : List (Place × Nat × Body)) :
    ((s.sentAll ctx tc ws).net.drop s.net.length).map (·.loc) = ws.map (·.1.loc) := by
  rw [net_sentAll, List.drop_left, List.map_map]
  exact map_zip_range ws (fun w => w.1.loc)

/-- The masked writes of a field with value d at bank words ws of place r (R182). -/
def Place.fieldWrites (r : Place) (d : Nat) (ws : List (Nat × Nat × Nat × Nat)) : List (Place × Nat × Body) := ws.map (fun x => r.bitsOut d x)

theorem stb_cases (o : FmtStb) {a d : Word} {q : Place} (h : s.Starts (.stb o)) (hacq : s.acquirePending = false) (ha : s.Gives o.a o.x a u)
    (hd : u.Gives o.d false d v) :
    let w := o.w.toNat + 1
    let ws := bankWords (q.loc % 4 * 8 + bitsOf a 0 3) w
    (bitsOf a 60 4 ≠ 8 → bitsOf a 60 4 ≠ 9 → Traps (.stb o) s v 8 a) ∧
    ((bitsOf a 60 4 = 8 ∨ bitsOf a 60 4 = 9) → resolve v v.myCluster v.me.sag (byteOfBit a) ((bitsOf a 0 3 + w + 7) / 8) ≠ none →
      Admits .store (byteOfBit a) ((bitsOf a 0 3 + w + 7) / 8) 1 (fun _ => true) v q t → q.replay = none →
      t.requestRoom ws.length = true → t.WordsClear false q.word0 ws → t.myCore.replay = [] →
      Completes (.stb o) s (t.sentAll (fun _ => t.tagFor q.word0) 1 (q.word0.fieldWrites d.toNat ws))) := by
  intro w ws
  obtain ⟨hx, -, -⟩ := id ha
  obtain ⟨hy, -, -⟩ := id hd
  have hv := KeepsStrand.givesTwo h.begins ha hd
  have hu : u.me.reads.length = 1 := by
    obtain ⟨-, -, rfl⟩ := ha
    rw [length_reads_took _ _ _ h.begins.slot_lt, h.begins.reads_eq]
    rfl
  have he : exec (.stb o) s = execStb o s := rfl
  rw [execStb, hx, hy, Bool.and_self, plain_of_starts h, ordered_of_free _ hacq, readSrc_of_gives (by rw [h.begins.reads_eq]; rfl) ha,
    readSrc_of_gives hu hd] at he
  refine ⟨fun h8 h9 => ?_, fun hk hr hadm hplace hroom hclear hpark => ?_⟩
  · rw [Traps, he, bitAccess_traps h8 h9, hv.pc]
  · have hany : (q.word0.fieldWrites d.toNat ws).any (fun x => t.crosses false (t.homeFor x.1 (t.tagFor q.word0)) x.1.loc 4) = false := by
      rw [Place.fieldWrites, List.any_map]
      exact hclear.any_eq_false
    have hfree : (!t.requestRoom ws.length || (q.word0.fieldWrites d.toNat ws).any (fun x => t.crosses false (t.homeFor x.1 (t.tagFor q.word0)) x.1.loc 4)) = false := by
      rw [hroom, hany]
      rfl
    have hpos : 1 ≤ ws.length := List.length_pos_iff.2 (bankWords_ne_nil (by omega) (by omega))
    have hplaces : ∀ x ∈ q.word0.fieldWrites d.toNat ws, x.1.replay = none := fun x hx => by
      obtain ⟨y, -, rfl⟩ := List.mem_map.1 hx
      exact hplace
    refine completes_of_exec (he.trans ((bitAccess_of_admits hk hr hadm _).trans ((if_neg (ne_true_of_eq_false hfree)).trans
      (sendAll_of_free _ 1 complete (requestRoom_one hroom hpos) hpark hplaces)))) ?_
    rw [((hv.trans hadm.keepsStrand).trans (.sentAll _ 1 _)).cur, h.begins.cur_eq]

/-- Settles O27: the words of a field cover it; `ldb` sends one read for each and `stb` one masked write. -/
theorem bitFieldsComplete : Obligations.BitFieldsComplete := by
  refine ⟨fun bo w i hi hw => bankWords_cover bo w i hi hw, fun o s u t a q r w bo ctx h hd hacq hacc ha hw => ?_, fun o s u v t a d q r w bo h hacq ha hd hw => ?_⟩
  · obtain ⟨htraps, hloads⟩ := ldb_cases (t := t) (q := q) o h hd hacq hacc ha
    subst hw
    refine ⟨htraps, fun hk hr hadm hplace hbo hctx hroom hpark hclear => ?_⟩
    subst hplace hbo hctx
    exact hloads hk hr hadm hroom hpark hclear
  · obtain ⟨htraps, hstores⟩ := stb_cases (t := t) (q := q) o h hacq ha hd
    subst hw
    refine ⟨htraps, fun hk hr hadm hplace hbo hq hroom hclear hpark => ?_⟩
    subst hplace hbo
    refine ⟨_, hstores hk hr hadm hq hroom hclear hpark, rfl, me_sentAll _ 1 _, ?_, ?_⟩
    · rw [bodies_sentAll, Place.fieldWrites, List.map_map]
      rfl
    · rw [locs_sentAll, Place.fieldWrites, List.map_map]
      rfl

end Sys2Proof.Machine
end

/-! Reductions and lane forms with a scalar result (O37). -/
section
namespace Sys2Proof.Machine

/-! The tree of a reduction (R104). -/

/-- What the elements that are there combine to in their order; none where there is none. -/
def combined {α : Type} (op : α → α → α) (l : List (Option α)) : Option α := l.foldr (Option.merge op) none

theorem combined_cons {α : Type} (op : α → α → α) (x : Option α) (l : List (Option α)) : combined op (x :: l) = Option.merge op x (combined op l) := rfl

/-- A level of the tree halves the places. -/
theorem length_treeLevel {α : Type} (comb : α → α → α × Nat) (l : List (Option α)) : (treeLevel comb l).1.length = (l.length + 1) / 2 := by
  induction l using treeLevel.induct comb with
  | case1 x y t ih => simp only [treeLevel, List.length_cons, ih]; omega
  | case2 x t ih => simp only [treeLevel, List.length_cons, ih]; omega
  | case3 y t ih => simp only [treeLevel, List.length_cons, ih]; omega
  | case4 x => rw [treeLevel.eq_4]; simp
  | case5 => rw [treeLevel.eq_5]; simp

/-- A level of the tree leaves what its elements combine to. -/
theorem combined_treeLevel {α : Type} {comb : α → α → α × Nat} {op : α → α → α} [Std.Associative op] (hop : ∀ x y, (comb x y).1 = op x y) (l : List (Option α)) :
    combined op (treeLevel comb l).1 = combined op l := by
  induction l using treeLevel.induct comb with
  | case1 x y t ih =>
    simp only [treeLevel, combined_cons, ih, hop]
    rw [← Std.Associative.assoc (op := Option.merge op), Option.merge_some_some]
  | case2 x t ih => simp only [treeLevel, combined_cons, ih, Option.merge_none_left]
  | case3 y t ih => simp only [treeLevel, combined_cons, ih, Option.merge_none_left]
  | case4 x => rw [treeLevel.eq_4]
  | case5 => rw [treeLevel.eq_5]

/-- The tree of n levels over 2^n places gives what its elements combine to, where the order of combinations does not matter. -/
theorem tree_eq_combined {α : Type} {comb : α → α → α × Nat} {op : α → α → α} [Std.Associative op] (hop : ∀ x y, (comb x y).1 = op x y) (n : Nat)
    (l : List (Option α)) (hl : l.length = 2 ^ n) : (tree comb n l).1 = combined op l := by
  induction n generalizing l with
  | zero =>
    obtain ⟨x, rfl⟩ := List.length_eq_one_iff.1 hl
    exact (Option.merge_none_right).symm
  | succ n ih =>
    rw [tree, ih _ (by rw [length_treeLevel, hl, Nat.pow_succ]; omega), combined_treeLevel hop]

/-- A tree without elements has no result. -/
theorem tree_of_none {α : Type} (comb : α → α → α × Nat) (n : Nat) (l : List (Option α)) (hl : ∀ x ∈ l, x = none) : (tree comb n l).1 = none := by
  have hlevel (l : List (Option α)) (hl : ∀ x ∈ l, x = none) : ∀ x ∈ (treeLevel comb l).1, x = none := by
    induction l using treeLevel.induct comb with
    | case1 x y t ih => cases hl (some x) List.mem_cons_self
    | case2 x t ih => cases hl (some x) List.mem_cons_self
    | case3 y t ih =>
      rw [List.forall_mem_cons, List.forall_mem_cons] at hl
      rw [treeLevel, List.forall_mem_cons]
      exact ⟨hl.2.1, ih hl.2.2⟩
    | case4 x => rwa [treeLevel.eq_4]
    | case5 => rwa [treeLevel.eq_5]
  induction n generalizing l with
  | zero =>
    cases l with
    | nil => rfl
    | cons x t => exact hl x List.mem_cons_self
  | succ n ih => exact ih _ (hlevel l hl)

/-! What elements combine to. -/

/-- A sum of elements is the sum of those that are there. -/
theorem combined_add (l : List (Option Lane)) : (combined (ROp.combInt .isum) l).getD 0 = (l.filterMap id).foldl (· + ·) 0 := by
  rw [List.foldl_eq_foldr]
  induction l with
  | nil => rfl
  | cons x l ih =>
    rw [combined_cons]
    cases x with
    | none => rw [Option.merge_none_left, ih]; rfl
    | some x =>
      rw [List.filterMap_cons_some (show id (some x) = some x from rfl), List.foldr_cons, ← ih]
      cases combined (ROp.combInt .isum) l with
      | none => exact (BitVec.add_zero x).symm
      | some y => rfl

theorem combined_of_none {α : Type} (op : α → α → α) {l : List (Option α)} (hl : ∀ x ∈ l, x = none) : combined op l = none := by
  induction l with
  | nil => rfl
  | cons x l ih =>
    rw [List.forall_mem_cons] at hl
    obtain ⟨rfl, hl⟩ := hl
    rw [combined_cons, Option.merge_none_left, ih hl]

/-- Where op picks the one of two elements that R puts above the other, the elements that are there combine to one of them, above them all. -/
theorem combined_of_pick {α : Type} {op : α → α → α} {R : α → α → Prop} (htrans : ∀ {x y z}, R x y → R y z → R x z) (hrefl : ∀ x, R x x)
    (hpick : ∀ x y, (op x y = x ∧ R y x) ∨ (op x y = y ∧ R x y)) (l : List (Option α)) :
    (∀ x ∈ l, x = none) ∨ ∃ y, combined op l = some y ∧ some y ∈ l ∧ ∀ z, some z ∈ l → R z y := by
  induction l with
  | nil => exact .inl nofun
  | cons a l ih =>
    cases a with
    | none =>
      rcases ih with hl | ⟨y, hy, hmem, hbound⟩
      · exact .inl (List.forall_mem_cons.2 ⟨rfl, hl⟩)
      · exact .inr ⟨y, by rw [combined_cons, Option.merge_none_left, hy], List.mem_cons_of_mem _ hmem, fun z hz => hbound z (by simpa using hz)⟩
    | some x =>
      have hcons (y : α) (hx : R x y) (hl : ∀ z, some z ∈ l → R z y) (z : α) (hz : some z ∈ some x :: l) : R z y := by
        rcases List.mem_cons.1 hz with hz | hz
        · cases hz; exact hx
        · exact hl z hz
      rcases ih with hl | ⟨y, hy, hmem, hbound⟩
      · exact .inr ⟨x, by rw [combined_cons, combined_of_none op hl, Option.merge_none_right], List.mem_cons_self,
          hcons x (hrefl x) (fun z hz => nomatch hl _ hz)⟩
      · have hcomb : combined op (some x :: l) = some (op x y) := by rw [combined_cons, hy, Option.merge_some_some]
        rcases hpick x y with ⟨hop, hR⟩ | ⟨hop, hR⟩
        · exact .inr ⟨x, by rw [hcomb, hop], List.mem_cons_self, hcons x (hrefl x) (fun z hz => htrans (hbound z hz) hR)⟩
        · exact .inr ⟨y, by rw [hcomb, hop], List.mem_cons_of_mem _ hmem, hcons y hR hbound⟩

/-! Reductions of lanes (R104, R165). -/

theorem combInt_imax_eq (x y : Lane) : ROp.combInt .imax x y = if x.toInt < y.toInt then y else x := by
  simp only [ROp.combInt, IOp.run, BitVec.slt, decide_eq_true_eq]

theorem combInt_imin_eq (x y : Lane) : ROp.combInt .imin x y = if y.toInt < x.toInt then y else x := by
  simp only [ROp.combInt, IOp.run, BitVec.slt, decide_eq_true_eq]

theorem combInt_assoc : ∀ f ∈ [ROp.isum, .imax, .imin], Std.Associative f.combInt := by
  intro f hf
  fin_cases hf
  · exact ⟨BitVec.add_assoc⟩
  · refine ⟨fun x y z => ?_⟩
    simp only [combInt_imax_eq]
    grind
  · refine ⟨fun x y z => ?_⟩
    simp only [combInt_imin_eq]
    grind

theorem signExt_toNat (x : Lane) : signExt 32 x.toNat = x.signExtend 64 := by
  rw [signExt, Nat.mod_eq_of_lt x.isLt, BitVec.signExtend, BitVec.toInt_eq_toNat_cond]
  split
  · rw [BitVec.ofInt_natCast]
  · rfl

/-- An integer reduction extends what the lanes combine to. -/
theorem reduce_int {l : List (Option Lane)} (g : Gov) (hl : l.length = 256) : ∀ f ∈ [ROp.isum, .imax, .imin],
    f.reduce g l = (((combined f.combInt l).map (·.signExtend 64)).getD (f.empty g), 0) := by
  intro f hf
  have hassoc := combInt_assoc f hf
  have htree : (tree (fun x y => (f.combInt x y, 0)) 8 l).1 = combined f.combInt l := tree_eq_combined (fun _ _ => rfl) 8 l hl
  have hint : f.isInt = true := by fin_cases hf <;> rfl
  rw [ROp.reduce, if_pos hint, ← htree]
  obtain ⟨x, fl⟩ := tree (fun x y => (f.combInt x y, 0)) 8 l
  cases x with
  | none => rfl
  | some x => exact congrArg (·, 0) (signExt_toNat x)

/-- A floating reduction of no lane at all. -/
theorem reduce_float_of_none {l : List (Option Lane)} (g : Gov) (hl : ∀ x ∈ l, x = none) {f : ROp} (hf : f.isInt = false) : f.reduce g l = (f.empty g, 0) := by
  have hvals : ∀ y ∈ l.map (fun x => x.map (fun x => valueOf g.fa x.toNat)), y = none := fun y hy => by
    obtain ⟨x, hx, rfl⟩ := List.mem_map.1 hy
    rw [hl x hx, Option.map_none]
  have htree := tree_of_none (fun x y => let r := f.comb g x y; (valueOf g.fd r.1, r.2)) 8 _ hvals
  rw [ROp.reduce, hf, if_neg Bool.false_ne_true]
  generalize tree _ 8 _ = r at htree ⊢
  obtain ⟨x, fl⟩ := r
  obtain rfl : x = none := htree
  rfl

/-- The largest lane, for R the order of numbers, and the smallest, for R its reverse. -/
theorem reduce_pick {l : List (Option Lane)} (g : Gov) (hl : l.length = 256) {f : ROp} (hf : f ∈ [ROp.isum, .imax, .imin]) {R : Int → Int → Prop}
    (htrans : ∀ {x y z}, R x y → R y z → R x z) (hrefl : ∀ x, R x x)
    (hpick : ∀ x y, (f.combInt x y = x ∧ R y.toInt x.toInt) ∨ (f.combInt x y = y ∧ R x.toInt y.toInt))
    {x : Lane} (hx : some x ∈ l) : ∃ y, some y ∈ l ∧ (f.reduce g l).1 = y.signExtend 64 ∧ ∀ z, some z ∈ l → R z.toInt (f.reduce g l).1.toInt := by
  rcases combined_of_pick (R := fun x y : Lane => R x.toInt y.toInt) htrans (fun x => hrefl x.toInt) hpick l with hn | ⟨y, hy, hmem, hbound⟩
  · cases hn _ hx
  · have hred : (f.reduce g l).1 = y.signExtend 64 := by
      rw [reduce_int g hl f hf, hy]
      rfl
    refine ⟨y, hmem, hred, fun z hz => ?_⟩
    rw [hred, BitVec.toInt_signExtend_of_le (by omega)]
    exact hbound z hz

/-- What the reductions of 256 places give. -/
theorem reduce_facts (g : Gov) (l : List (Option Lane)) (hl : l.length = 256) :
     ROp.reduce .isum g l = (((l.filterMap id).foldl (· + ·) 0).signExtend 64, 0) ∧
     (∀ x, some x ∈ l → x.toInt ≤ (ROp.reduce .imax g l).1.toInt ∧ (ROp.reduce .imin g l).1.toInt ≤ x.toInt) ∧
     ((∃ x, some x ∈ l) → ∃ x y, some x ∈ l ∧ some y ∈ l ∧ (ROp.reduce .imax g l).1 = x.signExtend 64 ∧ (ROp.reduce .imin g l).1 = y.signExtend 64) ∧
     ((∀ x ∈ l, x = none) → ROp.reduce .fsum g l = (0, 0) ∧ ROp.reduce .fmax g l = (word (infCode g.fd true), 0) ∧
       ROp.reduce .fmin g l = (word (infCode g.fd false), 0)) := by
  have hmax {x : Lane} := reduce_pick (x := x) g hl (f := .imax) (by decide) (R := (· ≤ ·)) Int.le_trans Int.le_refl
    (fun x y => by rw [combInt_imax_eq]; grind)
  have hmin {x : Lane} := reduce_pick (x := x) g hl (f := .imin) (by decide) (R := (· ≥ ·)) (fun h h' => Int.le_trans h' h) Int.le_refl
    (fun x y => by rw [combInt_imin_eq]; grind)
  refine ⟨?_, fun x hx => ?_, fun ⟨x, hx⟩ => ?_, fun hn => ⟨reduce_float_of_none g hn rfl, reduce_float_of_none g hn rfl, reduce_float_of_none g hn rfl⟩⟩
  · rw [reduce_int g hl .isum (by decide), ← combined_add]
    cases combined (ROp.combInt .isum) l with
    | none => rfl
    | some y => rfl
  · obtain ⟨-, -, -, hmax⟩ := hmax hx
    obtain ⟨-, -, -, hmin⟩ := hmin hx
    exact ⟨hmax x hx, hmin x hx⟩
  · obtain ⟨y, hy, hmax, -⟩ := hmax hx
    obtain ⟨z, hz, hmin, -⟩ := hmin hx
    exact ⟨y, z, hy, hz, hmax, hmin⟩

end Sys2Proof.Machine
end

section
namespace Sys2Proof.Machine

variable {s t u v : State} {i : Instr}

/-! Lane forms with a scalar result (R147, R161, R164, R165). -/

/-- The strand while it owes result p. -/
def Strand.owed (m : Strand) (p : Pend) : Strand := { (if p.d < 32 then m.emptyS p.d else m) with pending := m.pending ++ [p] }

theorem owe_eq_modMe (p : Pend) : s.owe p = s.modMe (fun m => m.owed p) := rfl

/-- A strand that owes a result differs in a full bit and in what it owes. -/
theorem Strand.owed_eq (m : Strand) (p : Pend) : m.owed p = { m with sFull := (m.owed p).sFull, pending := m.pending ++ [p] } := by
  unfold Strand.owed
  split
  · rfl
  · rfl

/-- The two strands hold the same lanes and masks. -/
structure Strand.SameLanes (m m' : Strand) : Prop where
  g : m'.g = m.g
  v : m'.v = m.v
  m : m'.m = m.m

namespace Strand.SameLanes

variable {m m' : Strand}

theorem vl (h : m.SameLanes m') : m'.vl = m.vl := congrArg (16 * ·) h.g
theorem laneAt (h : m.SameLanes m') (r k : Nat) : m'.laneAt r k = m.laneAt r k := congrArg (Tbl.get · (r * 256 + k) 0) h.v
theorem mask (h : m.SameLanes m') (r : Nat) : m'.mask r = m.mask r := congrArg (Tbl.get · r 0) h.m
theorem active (h : m.SameLanes m') (masked : Bool) (k : Nat) : m'.active masked k = m.active masked k := by
  rw [Strand.active, Strand.active, h.vl, h.mask]

theorem owed (m : Strand) (p : Pend) : m.SameLanes (m.owed p) := by
  rw [m.owed_eq p]
  exact ⟨rfl, rfl, rfl⟩

theorem trans {m'' : Strand} (h : m.SameLanes m') (h' : m'.SameLanes m'') : m.SameLanes m'' := ⟨h'.g.trans h.g, h'.v.trans h.v, h'.m.trans h.m⟩

theorem of_rest (h : m'.rest = m.rest) : m.SameLanes m' :=
  ⟨show m'.rest.g = m.rest.g by rw [h], show m'.rest.v = m.rest.v by rw [h], show m'.rest.m = m.rest.m by rw [h]⟩

end Strand.SameLanes

/-- A lane instruction with result x for the scalar that it owes, and flags fl. -/
def LaneOp.Gives (o : LaneOp) (m : Strand) (x : Word) (fl : Nat) : Prop := ∀ m', m.SameLanes m' → m'.runLane o = (m'.scalarOut o.pend x).raiseFlags fl

theorem Strand.raiseFlags_zero (m : Strand) : m.raiseFlags 0 = m :=
  congrArg (fun x => { m with st := x }) (BitVec.or_zero (x := m.st))

/-- A flag that is raised ends no trap handler. -/
theorem Strand.inTrap_raiseFlags {m : Strand} (fl : Nat) (h : m.inTrap = true) : (m.raiseFlags fl).inTrap = true := by
  rw [Strand.inTrap, Strand.raiseFlags, BitVec.getLsbD_or, show m.st.getLsbD 29 = true from h, Bool.true_or]

/-- An instruction that has done its part answers a next state, with its lanes and what it owes as they are. -/
theorem awaitResult_next (d : Nat) (hcur : s.me.cur = some i) (hn : s.NoLoop) : ∃ t, awaitResult d s = .next t ∧ t.mem = s.mem ∧
    (t.me.v, t.me.m, t.me.st, t.me.pending) = (s.me.v, s.me.m, s.me.st, s.me.pending) := by
  unfold awaitResult
  split
  · exact ⟨s.past i, complete_of_noLoop i hcur hn, rfl, by rw [State.past, State.me_modMe]; rfl⟩
  · exact ⟨_, rfl, rfl, by rw [State.me_modMe]⟩

/-- The one result that a strand owes under a serial number takes its value. -/
theorem pending_scalarOut_owed (m : Strand) (p : Pend) (x : Word) (hid : ∀ q ∈ m.pending, q.id ≠ p.id) :
    ((m.owed p).scalarOut p.id x).pending = m.pending ++ [{ p with val := x, parts := 0 }] := by
  have hold : m.pending.map (fun q => if decide (q.id = p.id) then { q with val := x, parts := 0 } else q) = m.pending :=
    (List.map_congr_left (fun q hq => if_neg (by simpa using hid q hq))).trans (List.map_id _)
  have hpend : (m.owed p).pending = m.pending ++ [p] := by rw [m.owed_eq p]
  simp only [Strand.scalarOut, modIf, hpend, List.map_append, hold, List.map_cons, List.map_nil, decide_true, if_true]

/-- The strand with its one result p come to x, and flags fl raised. -/
def Strand.answered (m : Strand) (p : Pend) (x : Word) (fl : Nat) : Strand := ((m.owed p).scalarOut p.id x).raiseFlags fl

theorem Strand.answered_eq (m : Strand) (p : Pend) (x : Word) (fl : Nat) :
    m.answered p x fl = { m with sFull := (m.owed p).sFull, pending := (m.answered p x fl).pending, st := m.st ||| word fl } := by
  unfold Strand.answered Strand.owed
  split
  · rfl
  · rfl

theorem Strand.pending_answered (m : Strand) (p : Pend) (x : Word) (fl : Nat) (hid : ∀ q ∈ m.pending, q.id ≠ p.id) :
    (m.answered p x fl).pending = m.pending ++ [{ p with val := x, parts := 0 }] := pending_scalarOut_owed m p x hid

/-- Raising flags, with the loop counters as they were, leaves no loop to end. -/
theorem noLoop_of_flags {fl : Nat} (hst : t.me.st = s.me.st ||| word fl) (hlc : t.me.lc = s.me.lc) (hn : s.NoLoop) : t.NoLoop := by
  refine hn.imp (fun h => ?_) (fun h => ?_)
  · exact (congrArg (·.getLsbD 29) hst).trans (Strand.inTrap_raiseFlags fl h)
  · rw [← h, Strand.innermost, Strand.lcAt, Strand.lcAt, Strand.lcAt, hlc]
    rfl

/-- A scalar result of a lane instruction, under a serial number and for a destination: its value, and how often it has still to come. -/
def Pend.scalar (id d : Nat) (x : Word) (parts : Nat) : Pend := ⟨id, d, x, parts, 64, false, false, false, none, 0, 0⟩

/-- The scalar result of a lane instruction that nothing holds back is there at once, still to be delivered (R147). -/
theorem laneScalar_next {fn : LaneFn} {masked : Bool} {a b : Nat} {sb : Option Word} {g : Gov} {x : Word} {fl : Nat} (d : Code) (hcur : s.me.cur = some i) (hn : s.NoLoop)
    (hq : s.me.laneQ = []) (hl : s.me.laneLoads = 0) (hid : ∀ q ∈ s.me.pending, q.id ≠ s.serial)
    (hx : LaneOp.Gives ⟨fn, masked, 0, a, b, sb, none, g, s.serial⟩ s.me x fl) :
    ∃ t, laneScalar fn masked d a b sb g s = .next t ∧ t.mem = s.mem ∧
      (t.me.v, t.me.m, t.me.st, t.me.pending) = (s.me.v, s.me.m, s.me.st ||| word fl, s.me.pending ++ [.scalar s.serial d.toNat x 0]) := by
  have hanswer := s.me.answered_eq (.scalar s.serial d.toNat 0 1) x fl
  have hpend := s.me.pending_answered (.scalar s.serial d.toNat 0 1) x fl hid
  have hrun : laneScalar fn masked d a b sb g s =
      awaitResult d.toNat (State.modMe { s with serial := s.serial + 1 } (fun m => m.answered (.scalar s.serial d.toNat 0 1) x fl)) := by
    rw [laneScalar, owe_eq_modMe, State.sendLane, State.modMe_modMe]
    refine congrArg (awaitResult d.toNat) (State.modMe_congr _ _ _ ?_)
    have hempty (p : Pend) : ((s.me.owed p).laneQ.isEmpty && decide ((s.me.owed p).laneLoads = 0)) = true := by
      rw [s.me.owed_eq p]
      simp [hq, hl]
    exact (if_pos (hempty _)).trans (hx _ (.owed _ _))
  have hme : (State.modMe { s with serial := s.serial + 1 } (fun m => m.answered (.scalar s.serial d.toNat 0 1) x fl)).me =
      s.me.answered (.scalar s.serial d.toNat 0 1) x fl := State.me_modMe ..
  have hloop := noLoop_of_flags (fl := fl) (by rw [hme, hanswer]) (by rw [hme, hanswer]) hn
  obtain ⟨t, ht, hmem, hkept⟩ := awaitResult_next d.toNat (by rw [hme, hanswer]; exact hcur) hloop
  refine ⟨t, hrun.trans ht, hmem, hkept.trans ?_⟩
  rw [hme, hpend, hanswer]
  rfl

/-- A strand that holds lanes passes the check of R145. -/
theorem laneChecked_of_ready {takes : Bool} (k : State → Out) (hp : s.me.prefixed = true → takes = true) (hr : s.LanesReady) : laneChecked takes true s k = k s := by
  obtain ⟨hg, -⟩ := hr
  rw [laneChecked, checked_ok takes _ hp, if_neg (by simp; omega)]

/-- A strand that has read operands has its lanes and what it owes as before, and no loop to end either. -/
theorem KeepsStrand.sameLanes (h : KeepsStrand s t) : s.me.SameLanes t.me := .of_rest h.rest
theorem KeepsStrand.laneQ (h : KeepsStrand s t) : t.me.laneQ = s.me.laneQ := show t.me.rest.laneQ = s.me.rest.laneQ by rw [h.rest]
theorem KeepsStrand.laneLoads (h : KeepsStrand s t) : t.me.laneLoads = s.me.laneLoads := show t.me.rest.laneLoads = s.me.rest.laneLoads by rw [h.rest]
theorem KeepsStrand.pending (h : KeepsStrand s t) : t.me.pending = s.me.pending := show t.me.rest.pending = s.me.rest.pending by rw [h.rest]
theorem KeepsStrand.noLoop (h : KeepsStrand s t) (hn : s.NoLoop) : t.NoLoop := noLoop_of_rest h.rest hn

/-- `vmsk.mpop` and `vmsk.mfirst` (R161). -/
theorem exec_maskScalar : ∀ p ∈ [(Instr.vmskMpop, fun (m : Strand) (a : Nat) => word ((List.range m.vl).countP (fun i => (m.mask a).getLsbD i))),
      (.vmskMfirst, fun m a => match (List.range m.vl).find? (fun i => (m.mask a).getLsbD i) with | some i => word i | none => BitVec.allOnes 64)],
    ∃ fn, (∀ (o : FmtVA) (s : State), exec (p.1 o) s = laneChecked false (maskOk o.a && dstOk o.d) s (fun s => withDst o.d s (fun s =>
        laneScalar fn false o.d o.a.toNat 0 none (s.me.gov 0 0 0 0) s))) ∧
      ∀ (m : Strand) (a : Nat) (g : Gov) (id : Nat), LaneOp.Gives ⟨fn, false, 0, a, 0, none, none, g, id⟩ m (p.2 m a) 0 := by
  intro p hp
  fin_cases hp
  · refine ⟨.mpop, fun _ _ => rfl, fun m a g id m' h => ?_⟩
    dsimp only
    rw [Strand.raiseFlags_zero, List.countP_eq_length_filter, ← h.vl, ← h.mask]
    rfl
  · refine ⟨.mfirst, fun _ _ => rfl, fun m a g id m' h => ?_⟩
    dsimp only
    rw [Strand.raiseFlags_zero, ← h.vl, ← h.mask]
    rfl

theorem maskScalar_next : ∀ p ∈ [(Instr.vmskMpop, fun (m : Strand) (a : Nat) => word ((List.range m.vl).countP (fun i => (m.mask a).getLsbD i))),
      (.vmskMfirst, fun m a => match (List.range m.vl).find? (fun i => (m.mask a).getLsbD i) with | some i => word i | none => BitVec.allOnes 64)],
    ∀ (o : FmtVA) (s : State), s.Starts (p.1 o) → maskOk o.a = true → dstOk o.d = true → s.accepts o.d = true → s.LanesReady → s.NoLoop →
      (∀ q ∈ s.me.pending, q.id ≠ s.serial) → ∃ t, exec (p.1 o) s = .next t ∧ t.mem = s.mem ∧
        (t.me.v, t.me.m, t.me.st, t.me.pending) = (s.me.v, s.me.m, s.me.st, s.me.pending ++ [.scalar s.serial o.d.toNat (p.2 s.me o.a.toNat) 0]) := by
  intro p hp o s h ha hd hacc hready hn hid
  obtain ⟨fn, he, hgives⟩ := exec_maskScalar p hp
  obtain ⟨-, -, hq, hl, -⟩ := id hready
  have hnext := laneScalar_next o.d h.begins.cur_eq hn hq hl hid (hgives s.me o.a.toNat (s.me.gov 0 0 0 0) s.serial)
  rw [he, ha, hd, Bool.and_self, laneChecked_of_ready _ (by simp [h.unprefixed]) hready, withDst_of_accepts _ _ hacc]
  have hzero : s.me.st ||| word 0 = s.me.st := BitVec.or_zero
  rwa [hzero] at hnext

theorem LaneOp.Gives.of_sameLanes {o : LaneOp} {m m' : Strand} {x : Word} {fl : Nat} (h : m.SameLanes m') (hx : o.Gives m x fl) : o.Gives m' x fl :=
  fun m'' h' => hx m'' (h.trans h')

theorem mem_gives {c : Code} {y : Bool} {x : Word} (hslot : s.slot < 16) (hg : s.Gives c y x u) : u.mem = s.mem := by
  obtain ⟨-, -, rfl⟩ := hg
  exact (OperandFrame.took (d := 0) c y x hslot).mem

/-- A broadcast operand is read as a scalar source (R67). -/
theorem readVB_of_gives {j : Nat} {b : Code} {x : Word} (hj : s.me.reads.length = j) (hb : bcOk b = true) (hg : s.Gives (b - 32) false x u)
    (k : Option Word → State → Out) : readVB j b s k = k (some x) u := by
  rw [readVB, if_pos hb, readSrc_of_gives hj hg]

theorem vtos_gives (m : Strand) (a : Nat) (b : Word) (g : Gov) (id : Nat) : LaneOp.Gives ⟨.vtos, false, 0, a, 0, some b, none, g, id⟩ m
    (if b.toNat < m.vl then (m.laneAt a b.toNat).setWidth 64 else 0) 0 := by
  intro m' h
  rw [Strand.raiseFlags_zero, ← h.vl, ← h.laneAt]
  rfl

/-- `vmov.vtos` (R164). -/
theorem vtos_next (o : FmtVV) {b : Word} (h : s.Starts (.vmovVtos o)) (ha : vecOk o.a = true) (hbc : bcOk o.b = true) (hd : dstOk o.d = true) (hacc : s.accepts o.d = true)
    (hready : s.LanesReady) (hn : s.NoLoop) (hid : ∀ q ∈ s.me.pending, q.id ≠ s.serial) (hb : s.Gives (o.b - 32) false b u) :
    ∃ t, exec (.vmovVtos o) s = .next t ∧ t.mem = s.mem ∧ t.me.v = s.me.v ∧ t.me.pending = s.me.pending ++
      [.scalar s.serial o.d.toNat (if b.toNat < s.me.vl then (s.me.laneAt o.a.toNat b.toNat).setWidth 64 else 0) 0] := by
  obtain ⟨-, -, hq, hl, -⟩ := id hready
  have hu := KeepsStrand.gives hb h.begins.slot_lt
  have hserial := serial_gives hb
  obtain ⟨t, ht, hmem, hkept⟩ := laneScalar_next o.d (hu.cur.trans h.begins.cur_eq) (hu.noLoop hn) (hu.laneQ.trans hq) (hu.laneLoads.trans hl)
    (by rwa [hu.pending, hserial]) ((vtos_gives s.me o.a.toNat b (u.me.gov 0 0 0 0) u.serial).of_sameLanes hu.sameLanes)
  simp only [Prod.mk.injEq] at hkept
  obtain ⟨hv, -, -, hpend⟩ := hkept
  refine ⟨t, ?_, hmem.trans (mem_gives h.begins.slot_lt hb), hv.trans hu.sameLanes.v, by rw [hpend, hu.pending, hserial]⟩
  rw [← ht]
  change execVmovVtos o s = _
  rw [execVmovVtos, ha, hbc, hd, Bool.and_self, Bool.and_self, laneChecked_of_ready _ (by simp [h.unprefixed]) hready, withDst_of_accepts _ _ hacc,
    readVB_of_gives (by rw [h.begins.reads_eq]; rfl) hbc hb]

/-! Plain reductions (R165). -/

/-- The scale register of a pending prefix is read as the next source (R96). -/
theorem readScale_of_next {j : Nat} {sc : Word} (k : Word → State → Out) (hj : s.me.reads.length = j) (h : s.scaleIs sc) : readScale j s k = k sc (s.tookScale sc) := by
  unfold readScale State.tookScale
  unfold State.scaleIs at h
  split
  · next hp =>
    rw [if_pos hp] at h
    have hcode : srcOk false (BitVec.ofNat 6 (bitsOf s.me.st 22 4)) = true := by
      have hlt : bitsOf s.me.st 22 4 < 2 ^ 4 := Nat.mod_lt _ (by positivity)
      simp [srcOk]
      omega
    exact readSrc_of_src j _ false k sc hj hcode h
  · next hp =>
    rw [if_neg hp] at h
    rw [h]

theorem serial_tookScale (sc : Word) : (s.tookScale sc).serial = s.serial := by
  unfold State.tookScale
  split
  · exact serial_took ..
  · rfl

theorem mem_tookScale (sc : Word) (hslot : s.slot < 16) : (s.tookScale sc).mem = s.mem := by
  unfold State.tookScale
  split
  · exact (OperandFrame.took (d := 0) _ _ _ hslot).mem
  · rfl

/-- Consuming the prefix changes ST alone. -/
theorem me_consume (s : State) : s.consume.me = { s.me with st := s.consume.me.st } := by
  unfold State.consume
  split
  · rw [State.me_modMe]
    rfl
  · rfl

theorem mem_consume : s.consume.mem = s.mem := by
  unfold State.consume
  split
  · rfl
  · rfl

theorem sameLanes_consume : s.me.SameLanes s.consume.me := by
  rw [me_consume]
  exact ⟨rfl, rfl, rfl⟩

/-- A prefix that is consumed is not one of a trap handler. -/
theorem noLoop_consume (hn : s.NoLoop) : s.consume.NoLoop := by
  unfold State.consume
  split
  · next hp =>
    have ht : ¬ s.me.inTrap = true := fun ht => by rw [prefixed_of_inTrap _ ht] at hp; cases hp
    refine .inr ?_
    rw [State.me_modMe, ← hn.resolve_left ht]
    rfl
  · exact hn

theorem red_gives (f : ROp) (m : Strand) (masked : Bool) (a : Nat) (g : Gov) (id : Nat) :
    let r := f.reduce g ((List.range 256).map (fun i => if m.active masked i then some (m.laneAt a i) else none))
    LaneOp.Gives ⟨.red f, masked, 0, a, 0, none, none, g, id⟩ m r.1 r.2 := by
  intro r m' h
  simp only [r, ← h.active masked, ← h.laneAt]
  rfl

theorem exec_vred : ∀ p ∈ [(Instr.vredFsum, ROp.fsum), (.vredFmax, .fmax), (.vredFmin, .fmin), (.vredIsum, .isum), (.vredImax, .imax), (.vredImin, .imin)],
    ∀ (o : FmtVRed) (s : State), exec (p.1 o) s = vred p.2 o s := by
  intro p hp o s
  fin_cases hp <;> rfl

/-- A reduction of lanes. -/
theorem vred_next {f : ROp} {o : FmtVRed} {sc : Word} (he : exec i s = vred f o s) (h : s.Begins i) (ha : vecOk o.a = true) (hd : dstOk o.d = true)
    (hcodes : redCodes f s = true) (hacc : s.accepts o.d = true) (hready : s.LanesReady) (hn : s.NoLoop) (hid : ∀ q ∈ s.me.pending, q.id ≠ s.serial)
    (hsc : s.scaleIs sc) :
    let r := f.reduce (s.me.gov 0 0 0 sc) ((List.range 256).map (fun i => if s.me.active o.y i then some (s.me.laneAt o.a.toNat i) else none))
    ∃ t, exec i s = .next t ∧ t.mem = s.mem ∧ t.me.v = s.me.v ∧ t.me.st = (s.tookScale sc).consume.me.st ||| word r.2 ∧
      t.me.pending = s.me.pending ++ [.scalar s.serial o.d.toNat r.1 0] := by
  intro r
  obtain ⟨-, -, hq, hl, -⟩ := id hready
  have hv := KeepsStrand.tookScale (s := s) sc h.slot_lt
  have hme := me_consume (s.tookScale sc)
  have hserial : (s.tookScale sc).consume.serial = s.serial := serial_consume.trans (serial_tookScale sc)
  have hpending : (s.tookScale sc).consume.me.pending = s.me.pending := (congrArg Strand.pending hme).trans hv.pending
  have hlanes : s.me.SameLanes (s.tookScale sc).consume.me := hv.sameLanes.trans sameLanes_consume
  obtain ⟨t, ht, hmem, hkept⟩ := laneScalar_next o.d (cur_consume.trans (hv.cur.trans h.cur_eq)) (noLoop_consume (hv.noLoop hn))
    ((congrArg Strand.laneQ hme).trans (hv.laneQ.trans hq)) ((congrArg Strand.laneLoads hme).trans (hv.laneLoads.trans hl)) (by rwa [hpending, hserial])
    ((red_gives f s.me o.y o.a.toNat (s.me.gov 0 0 0 sc) _).of_sameLanes hlanes)
  simp only [Prod.mk.injEq] at hkept
  obtain ⟨hvec, -, hst, hpend⟩ := hkept
  refine ⟨t, ?_, hmem.trans (mem_consume.trans (mem_tookScale sc h.slot_lt)), hvec.trans hlanes.v, hst, by rw [hpend, hpending, hserial]⟩
  rw [← ht, he, vred, ha, hd, hcodes, Bool.and_self, Bool.and_self, laneChecked_of_ready _ (fun _ => rfl) hready, withDst_of_accepts _ _ hacc,
    readScale_of_next _ (by rw [h.reads_eq]; rfl) hsc, hv.gov]

end Sys2Proof.Machine
end

section
namespace Sys2Proof.Machine

variable {s t u v : State} {i : Instr}

/-! Reductions over a queue (R105, R166). -/

/-- The strand at the start of a reduction over a queue: no entry is combined yet. -/
def Strand.startRed (m : Strand) (f : ROp) (g : Gov) : Strand := { m with istate1 := word (2 ^ 63), istate0 := f.empty g }

/-- The values of the entries of a queue, a poisoned entry as 0. -/
def Queue.vals (x : Queue) : List Word := (List.range x.entries.length).map (fun i => if x.marks.getD i false then 0 else x.entries.getD i 0)

theorem Queue.length_vals (x : Queue) : x.vals.length = x.entries.length := by simp [Queue.vals]

theorem Strand.count_startRed (m : Strand) (f : ROp) (g : Gov) : bitsOf (m.startRed f g).istate1 0 48 = 0 := by
  change bitsOf (word (2 ^ 63)) 0 48 = 0
  decide

/-- Combining an entry counts it. -/
theorem Strand.count_combine (m : Strand) (f : ROp) (g : Gov) (e : Word) :
    bitsOf (m.combine f g e).istate1 0 48 = (bitsOf m.istate1 0 48 + 1) % 2 ^ 48 :=
  (bitsOf_withBits_zero m.istate1 _ (show 48 ≤ 64 by omega) 0).1

/-- Combining entries counts them. -/
theorem Strand.count_foldl_combine (f : ROp) (g : Gov) (es : List Word) : ∀ m : Strand, bitsOf m.istate1 0 48 + es.length < 2 ^ 48 →
    bitsOf (es.foldl (fun m e => Strand.combine m f g e) m).istate1 0 48 = bitsOf m.istate1 0 48 + es.length := by
  induction es with
  | nil => exact fun m _ => rfl
  | cons e es ih =>
    intro m h
    rw [List.length_cons] at h
    have hcount : bitsOf (m.combine f g e).istate1 0 48 = bitsOf m.istate1 0 48 + 1 := (m.count_combine f g e).trans (Nat.mod_eq_of_lt (by omega))
    rw [List.foldl_cons, ih _ (by rw [hcount]; omega), hcount, List.length_cons]
    omega

/-- Combining entries leaves the instruction in progress. -/
theorem Strand.cur_foldl_combine (f : ROp) (g : Gov) (es : List Word) : ∀ m : Strand, (es.foldl (fun m e => Strand.combine m f g e) m).cur = m.cur := by
  induction es with
  | nil => exact fun m => rfl
  | cons e es ih => exact fun m => ih _

/-- The loop combines as many entries as are still to be counted, in order. -/
theorem Strand.combineAll_eq (f : ROp) (g : Gov) {n : Nat} (hn : n < 2 ^ 48) (es : List Word) : ∀ m : Strand,
    Strand.combineAll f g n es m = ((es.take (n - bitsOf m.istate1 0 48)).foldl (fun m e => Strand.combine m f g e) m, es.drop (n - bitsOf m.istate1 0 48)) := by
  induction es with
  | nil => simp [Strand.combineAll]
  | cons e es ih =>
    intro m
    rw [Strand.combineAll]
    by_cases h : bitsOf m.istate1 0 48 < n
    · have hcount : bitsOf (m.combine f g e).istate1 0 48 = bitsOf m.istate1 0 48 + 1 := (m.count_combine f g e).trans (Nat.mod_eq_of_lt (by omega))
      have hleft : n - bitsOf m.istate1 0 48 = n - (bitsOf m.istate1 0 48 + 1) + 1 := by omega
      rw [if_pos h, ih, hcount, hleft, List.take_succ_cons, List.drop_succ_cons, List.foldl_cons]
    · rw [if_neg h, Nat.sub_eq_zero_of_le (by omega), List.take_zero, List.drop_zero, List.foldl_nil]

/-- The strand after the entries es have been combined from the start. -/
def Strand.reduced (m : Strand) (f : ROp) (g : Gov) (es : List Word) : Strand := es.foldl (fun m e => Strand.combine m f g e) (m.startRed f g)

theorem Strand.combineAll_startRed (m : Strand) (f : ROp) (g : Gov) {n : Nat} (hn : n < 2 ^ 48) (es : List Word) :
    Strand.combineAll f g n es (m.startRed f g) = (m.reduced f g (es.take n), es.drop n) := by
  rw [Strand.combineAll_eq f g hn, Strand.count_startRed, Nat.sub_zero, Strand.reduced]

theorem Strand.count_reduced (m : Strand) (f : ROp) (g : Gov) {es : List Word} (h : es.length < 2 ^ 48) : bitsOf (m.reduced f g es).istate1 0 48 = es.length := by
  rw [Strand.reduced, Strand.count_foldl_combine f g es _ (by rwa [Strand.count_startRed, Nat.zero_add]), Strand.count_startRed, Nat.zero_add]

theorem Strand.cur_reduced (m : Strand) (f : ROp) (g : Gov) (es : List Word) : (m.reduced f g es).cur = m.cur := Strand.cur_foldl_combine f g es _

/-- The poison of each marked entry is counted. -/
def State.countMarks (s : State) (l : List Bool) : State := (l.filter id).foldl (fun (t : State) _ => t.countPoison t.core t.slot t.me.sag) s

theorem countMarks_ind {P : State → Prop} (l : List Bool) (h : P s) (hstep : ∀ t : State, P t → P (t.countPoison t.core t.slot t.me.sag)) : P (s.countMarks l) :=
  List.foldlRecOn (motive := P) _ _ h (fun t ht _ _ => hstep t ht)

theorem operandFrame_countMarks (d : Nat) (l : List Bool) : OperandFrame d s (s.countMarks l) := countMarks_ind l (.refl s) (fun _ ht => ht.trans (.countPoison _))

theorem myCore_queue_countMarks (l : List Bool) (q : Nat) : (s.countMarks l).myCore.queue q = s.myCore.queue q :=
  countMarks_ind (P := fun t => t.myCore.queue q = s.myCore.queue q) l rfl (fun _ ht => (myCore_queue_countPoison ..).trans ht)

/-- The strand in focus becomes m, and n entries of queue q are popped, which leaves ps parked there. -/
def State.popped (s : State) (m : Strand) (q n : Nat) (ps : List Nat) : State :=
  ((s.modMe (fun _ => m)).modMyCore (fun c => c.modQueue q (fun x => { x with entries := x.entries.drop n, marks := x.marks.drop n, poppers := ps }))).countMarks
    ((s.myCore.queue q).marks.take n)

/-- Popping touches nothing but queues and counts of poison once the strand is m. -/
theorem operandFrame_popped (d : Nat) (m : Strand) (q n : Nat) (ps : List Nat) : OperandFrame d (s.modMe (fun _ => m)) (s.popped m q n ps) :=
  (OperandFrame.queue q _).trans (operandFrame_countMarks d _)

theorem rest_popped (m : Strand) (q n : Nat) (ps : List Nat) : (s.popped m q n ps).me.rest = m.rest :=
  (operandFrame_popped 0 m q n ps).rest.trans (by rw [State.me_modMe])

theorem cur_popped (m : Strand) (q n : Nat) (ps : List Nat) : (s.popped m q n ps).me.cur = m.cur :=
  show (s.popped m q n ps).me.rest.cur = m.rest.cur by rw [rest_popped]

theorem istate_popped (m : Strand) (q n : Nat) (ps : List Nat) :
    (s.popped m q n ps).me.istate0 = m.istate0 ∧ (s.popped m q n ps).me.istate1 = m.istate1 := by
  have h := rest_popped (s := s) m q n ps
  exact ⟨show (s.popped m q n ps).me.rest.istate0 = m.rest.istate0 by rw [h], show (s.popped m q n ps).me.rest.istate1 = m.rest.istate1 by rw [h]⟩

theorem queue_popped (m : Strand) (q n : Nat) (ps : List Nat) : (s.popped m q n ps).myCore.queue q =
    { s.myCore.queue q with entries := (s.myCore.queue q).entries.drop n, marks := (s.myCore.queue q).marks.drop n, poppers := ps } := by
  rw [State.popped, myCore_queue_countMarks, State.myCore_modMyCore, queue_modQueue_same, myCore_queue_modMe]

/-- The forms over a queue. -/
theorem exec_vredQ : ∀ p ∈ [(Instr.vredFsumQ, ROp.fsum), (.vredFmaxQ, .fmax), (.vredFminQ, .fmin), (.vredIsumQ, .isum), (.vredImaxQ, .imax), (.vredIminQ, .imin)],
    ∀ o : FmtVV, isVredQ (some (p.1 o)) = true ∧ ∀ s : State, exec (p.1 o) s = vredQ p.2 o s := by
  intro p hp o
  fin_cases hp
  case _ | _ | _ | _ | _ | _ => exact ⟨rfl, fun _ => rfl⟩

theorem length_reads_of_first {c : Code} {y : Bool} {x : Word} (h : s.Begins i) (hg : s.Gives c y x u) : u.me.reads.length = 1 := by
  obtain ⟨-, -, rfl⟩ := hg
  rw [length_reads_took c y x h.slot_lt, h.reads_eq]
  rfl

/-- A `vred.q` that begins, its operands at hand: it combines n entries of queue q, where no other strand waits. The scalars b and sc are read in u and v. -/
structure RedReady (i : Instr) (f : ROp) (o : FmtVV) (b sc : Word) (q n : Nat) (s u v : State) : Prop where
  begins : s.Begins i
  queueCode : queueOk o.a = true
  broadcast : bcOk o.b = true
  dst : dstOk o.d = true
  codes : redCodes f s = true
  accepts : s.accepts o.d = true
  gives : s.Gives (o.b - 32) false b u
  scale : u.scaleIs sc
  read : v = u.tookScale sc
  first : s.me.istate1.getLsbD 63 = false
  queue : q = o.a.toNat - 48
  count : n = bitsOf b 0 48
  admits : (v.myCore.queue q).admits v.slot false = true
  free : (v.myCore.queue q).poppers = []

section
variable {f : ROp} {o : FmtVV} {b sc : Word} {q n : Nat}

theorem RedReady.slot_lt (h : RedReady i f o b sc q n s u v) : u.slot < 16 := (KeepsStrand.gives h.gives h.begins.slot_lt).slot_lt h.begins.slot_lt

theorem RedReady.keepsStrand (h : RedReady i f o b sc q n s u v) : KeepsStrand s v :=
  h.read ▸ (KeepsStrand.gives h.gives h.begins.slot_lt).trans (.tookScale sc h.slot_lt)

theorem RedReady.mem (h : RedReady i f o b sc q n s u v) : v.mem = s.mem := by
  rw [h.read, mem_tookScale sc h.slot_lt, mem_gives h.begins.slot_lt h.gives]

theorem RedReady.count_lt (h : RedReady i f o b sc q n s u v) : n < 2 ^ 48 := h.count ▸ Nat.mod_lt _ (by positivity)

/-- No reduction is in progress when a `vred.q` begins. -/
theorem RedReady.not_running (h : RedReady i f o b sc q n s u v) : v.me.istate1.getLsbD 63 = false := by
  rw [show v.me.istate1 = s.me.istate1 from show v.me.rest.istate1 = s.me.rest.istate1 by rw [h.keepsStrand.rest], h.first]

/-- A `vred.q` that begins combines what the queue holds, up to its count, and ends or parks there (R166). -/
theorem vredQ_eq (h : RedReady i f o b sc q n s u v) :
    let x := v.myCore.queue q
    let r := v.me.reduced f (s.me.gov 0 0 0 sc) (x.vals.take n)
    vredQ f o s = if n ≤ bitsOf r.istate1 0 48 then deliverTo o.d.toNat r.istate0 (v.popped r q (min n x.entries.length) []) (fun s => complete (s.modMe Strand.wrapUp))
      else park (.pop q) (v.popped r q (min n x.entries.length) [s.slot]) := by
  intro x r
  rw [vredQ, h.queueCode, h.broadcast, h.dst, h.codes, Bool.and_self, Bool.and_self, Bool.and_self, checked_ok true _ (fun _ => rfl), withDst_of_accepts _ _ h.accepts,
    readSrc_of_gives (by rw [h.begins.reads_eq]; rfl) h.gives, readScale_of_next _ (length_reads_of_first h.begins h.gives) h.scale, ← h.read, h.keepsStrand.gov,
    ← h.count, ← h.queue]
  extract_lets g n' q' w y mine vals p used w1 done w2 w3
  have hw : w = v.modMe (fun m => m.startRed f g) := if_neg (by rw [h.not_running]; exact Bool.false_ne_true)
  have hy : y = x := by simp only [y, hw, myCore_queue_modMe, q', x]
  have hmine : mine = true := by simp only [mine, hy, x, h.free, List.isEmpty_nil, Bool.true_or]
  have hvals : vals = x.vals := by simp only [vals, hy, Queue.vals]
  have hp : p = (r, x.vals.drop n) := by
    simp only [p, hmine, if_true, hvals, hw, State.me_modMe]
    exact v.me.combineAll_startRed f g h.count_lt x.vals
  have hused : used = min n x.entries.length := by
    simp only [used, hp, hy, List.length_drop, x.length_vals]
    omega
  have hw1 : w1 = v.modMe (fun _ => r) := by simp only [w1, hw, hp, State.modMe_modMe]
  have hslot : (v.modMe (fun _ => r)).slot = s.slot := h.keepsStrand.slot
  have hw2 : w2 = (v.modMe (fun _ => r)).modMyCore (fun c => c.modQueue q (fun z => { z with
      entries := z.entries.drop (min n x.entries.length), marks := z.marks.drop (min n x.entries.length), poppers := if done then [] else [s.slot] })) := by
    simp only [w2, hused, hw1, hslot, q']
    refine modQueue_congr q _ _ ?_
    rw [myCore_queue_modMe, h.free]
    rfl
  have hw3 : w3 = v.popped r q (min n x.entries.length) (if done then [] else [s.slot]) := by
    simp only [w3, hw2, hused, State.popped, State.countMarks, hy, x]
  have hdone : (done = true) = (n ≤ bitsOf r.istate1 0 48) := by simp only [done, hp, n', decide_eq_true_eq]
  have hadmits : (!y.admits w.slot false) = false := by rw [hy, hw, show (v.modMe (fun m => m.startRed f g)).slot = v.slot from rfl, h.admits]; rfl
  rw [hadmits, Bool.and_false, if_neg Bool.false_ne_true, hw3, hp]
  simp only [hdone, q']
  split
  · rfl
  · rfl

/-- With n entries there, a `vred.q` ends with their combination (R166). -/
theorem vredQ_completes (he : exec i s = vredQ f o s) (hi : isVredQ (some i) = true) (h : RedReady i f o b sc q n s u v) (hle : n ≤ (v.myCore.queue q).entries.length) :
    let r := v.me.reduced f (s.me.gov 0 0 0 sc) ((v.myCore.queue q).vals.take n)
    let w := v.popped r q n []
    w.room o.d = true → Completes i s ((w.put o.d r.istate0).modMe (fun m => { (if m.prefixed then m.dropPrefix else m) with istate1 := 0 })) := by
  intro r w hroom
  have htaken : ((v.myCore.queue q).vals.take n).length = n := by rw [List.length_take, Queue.length_vals, Nat.min_eq_left hle]
  have hcount : bitsOf r.istate1 0 48 = n := (Strand.count_reduced _ _ _ (by rw [htaken]; exact h.count_lt)).trans htaken
  have hcur : (w.put o.d r.istate0).me.cur = some i := by rw [cur_put, cur_popped, Strand.cur_reduced, h.keepsStrand.cur, h.begins.cur_eq]
  have hstep := he.trans (vredQ_eq h)
  rw [if_pos hcount.ge, Nat.min_eq_left hle, deliverTo_of_room _ _ _ hroom] at hstep
  refine completes_of_exec (hstep.trans (congrArg complete (State.modMe_congr _ _ _ (if_pos (by rw [hcur]; exact hi))))) ?_
  rw [State.me_modMe]
  split
  · exact hcur
  · exact hcur

/-- With fewer than n entries there, a `vred.q` combines them and parks (R166). -/
theorem vredQ_parks (he : exec i s = vredQ f o s) (h : RedReady i f o b sc q n s u v) (hless : (v.myCore.queue q).entries.length < n) :
    let r := v.me.reduced f (s.me.gov 0 0 0 sc) (v.myCore.queue q).vals
    ∃ t, exec i s = .next t ∧ t.me.status = .parked (.pop q) ∧ t.me.istate0 = r.istate0 ∧ t.me.istate1 = r.istate1 ∧
      (t.myCore.queue q).entries = [] ∧ (t.myCore.queue q).poppers = [s.slot] ∧ t.mem = s.mem := by
  intro r
  have hlt := h.count_lt
  have htaken : (v.myCore.queue q).vals.take n = (v.myCore.queue q).vals := List.take_of_length_le (by rw [Queue.length_vals]; omega)
  have hcount : bitsOf r.istate1 0 48 = (v.myCore.queue q).entries.length := (Strand.count_reduced _ _ _ (by rw [Queue.length_vals]; omega)).trans (Queue.length_vals _)
  have hstep := he.trans (vredQ_eq h)
  rw [htaken, if_neg (by rw [hcount]; omega), Nat.min_eq_right hless.le] at hstep
  obtain ⟨h0, h1⟩ := istate_popped (s := v) r q (v.myCore.queue q).entries.length [s.slot]
  refine ⟨_, hstep, by rw [State.me_modMe], by rw [State.me_modMe, ← h0], by rw [State.me_modMe, ← h1], ?_, ?_, ?_⟩
  · rw [myCore_queue_modMe, queue_popped]
    exact List.drop_length
  · rw [myCore_queue_modMe, queue_popped]
  · exact (operandFrame_popped 0 r q _ _).mem.trans h.mem

end

/-- Settles O37: the scalar results from the lanes as they stand, the tree of a reduction, and the reductions over a queue. -/
theorem laneReductionsAndMaskResults : Obligations.LaneReductionsAndMaskResults := by
  refine ⟨⟨fun p hp o s h ha hd hacc hready hn hid => ?_, fun o s u b h ha hbc hd hacc hready hn hid hb => vtos_next o h ha hbc hd hacc hready hn hid hb,
    fun p hp o s v sc h ha hd hcodes hacc hready hn hid hsc hv => ?_, reduce_facts⟩,
    fun p hp o s u v b sc q n x h hq hbc hd hcodes hacc hb hsc hv hfirst hqn hn hx hadm hfree => ?_⟩
  · obtain ⟨t, ht, hmem, hkept⟩ := maskScalar_next p hp o s h ha hd hacc hready hn hid
    simp only [Prod.mk.injEq] at hkept
    obtain ⟨hvec, hmask, hst, hpend⟩ := hkept
    exact ⟨t, ht, hmem, hvec, hmask, hst, hpend⟩
  · subst hv
    exact vred_next (exec_vred p hp o s) h ha hd hcodes hacc hready hn hid hsc
  · subst hx
    obtain ⟨hi, he⟩ := exec_vredQ p hp o
    have hready : RedReady (p.1 o) p.2 o b sc q n s u v := ⟨h, hq, hbc, hd, hcodes, hacc, hb, hsc, hv, hfirst, hqn, hn, hadm, hfree⟩
    exact ⟨vredQ_completes (he s) hi hready, vredQ_parks (he s) hready⟩

end Sys2Proof.Machine
end

/-! Integer forms that end at once (O6, O7, O8). -/
section
namespace Sys2Proof.Machine

variable {s u v : State} {i : Instr}

/-! How they run. -/

/-- A form of two sources that writes d at once ends with the value of its rule (R111). -/
theorem binary_completes {o : FmtA} {f : Word → Word → Word} {a b : Word} (he : exec i s = binary o f s) (h : s.Starts i) (hd : dstOk o.d = true)
    (ha : s.Gives o.a o.x a u) (hb : u.Gives o.b o.y b v) (hr : v.room o.d = true) : Completes i s (v.put o.d (f a b)) := by
  obtain ⟨hx, -, -⟩ := id ha
  obtain ⟨hy, -, -⟩ := id hb
  have hacc := accepts_of_givesTwo h.begins ha hb (accepts_of_room hr)
  refine completes_of_finish (he.trans ?_) hr ((KeepsStrand.givesTwo h.begins ha hb).cur.trans h.begins.cur_eq)
  rw [binary, hx, hy, hd, Bool.and_self, Bool.and_self, plain_of_starts h, withDst_of_accepts _ _ hacc,
    two_of_gives o a b u v _ h.begins.reads_eq h.begins.slot_lt ha hb]

/-- A form of one source that writes d at once ends with what it makes of the source. -/
theorem oneSource_completes {ok x : Bool} {d c : Code} {f : Word → Word} {a : Word} (he : exec i s = oneSource ok d c x f s) (h : s.Starts i) (hok : ok = true)
    (ha : s.Gives c x a u) (hr : u.room d = true) : Completes i s (u.put d (f a)) := by
  have hacc := accepts_of_gives h.begins.slot_lt ha (accepts_of_room hr)
  refine completes_of_finish (he.trans ?_) hr ((KeepsStrand.gives ha h.begins.slot_lt).cur.trans h.begins.cur_eq)
  rw [oneSource, hok, plain_of_starts h, withDst_of_accepts _ _ hacc, readSrc_of_gives (by rw [h.begins.reads_eq]; rfl) ha]

/-! The 32-bit forms (R112). -/

theorem signExt_eq (n : Nat) : signExt 32 n = (BitVec.ofNat 32 n).signExtend 64 := by
  rw [← signExt_toNat, BitVec.toNat_ofNat, signExt, signExt, Nat.mod_mod]

theorem addw_eq (a b : Word) : signExt 32 (a.toNat + b.toNat) = (a.setWidth 32 + b.setWidth 32).signExtend 64 := by
  rw [signExt_eq]
  exact congrArg _ (BitVec.eq_of_toNat_eq (by simp))

theorem subw_eq (a b : Word) : signExt 32 (a.toNat + (2 ^ 64 - b.toNat)) = (a.setWidth 32 - b.setWidth 32).signExtend 64 := by
  have hb := b.isLt
  rw [signExt_eq]
  refine congrArg _ (BitVec.eq_of_toNat_eq ?_)
  rw [BitVec.toNat_ofNat, BitVec.toNat_sub, BitVec.toNat_setWidth, BitVec.toNat_setWidth]
  omega

theorem shlw_eq (a b : Word) : signExt 32 (a.toNat * 2 ^ (b.toNat % 32)) = (a.setWidth 32 <<< (b.toNat % 32)).signExtend 64 := by
  rw [signExt_eq]
  exact congrArg _ (BitVec.eq_of_toNat_eq (by simp [Nat.shiftLeft_eq]))

theorem shrw_eq (a b : Word) : signExt 32 (a.toNat % 2 ^ 32 / 2 ^ (b.toNat % 32)) = (a.setWidth 32 >>> (b.toNat % 32)).signExtend 64 := by
  rw [← signExt_toNat, BitVec.toNat_ushiftRight, Nat.shiftRight_eq_div_pow, BitVec.toNat_setWidth]

theorem sarw_eq (a b : Word) : signExt 32 ((BitVec.ofNat 32 a.toNat).sshiftRight (b.toNat % 32)).toNat =
    ((a.setWidth 32).sshiftRight (b.toNat % 32)).signExtend 64 := signExt_toNat _

/-! Bits of a register as sums of powers of two (R114). -/

/-- A sum of distinct powers of two has the bits that are listed. -/
theorem testBit_sum_two_pow {l : List Nat} (h : l.Pairwise (· < ·)) (j : Nat) : (l.map (2 ^ ·)).sum.testBit j = decide (j ∈ l) := by
  have hmem : j ∈ l ↔ (l.map (2 ^ ·)).sum.testBit j = true := by
    rw [← Nat.mem_bitIndices, Nat.bitIndices_sum_map_two_pow h.sortedLT]
  simp [hmem]

/-- Adding up what f makes of the members of a list. -/
theorem foldl_add_eq_sum {α : Type} (f : α → Nat) (l : List α) : l.foldl (fun n x => n + f x) 0 = (l.map f).sum := by
  rw [List.sum_eq_foldl, List.foldl_map]

theorem rankBelow_eq (b : Word) (i : Nat) : rankBelow b i = (List.range i).countP (fun j => b.getLsbD j) := List.countP_eq_length_filter.symm

/-- Above a bit that is 1 there are more bits below. -/
theorem rankBelow_lt {b : Word} {i j : Nat} (hi : b.getLsbD i = true) (hij : i < j) : rankBelow b i < rankBelow b j := by
  have hsucc : rankBelow b (i + 1) = rankBelow b i + 1 := by simp [rankBelow_eq, List.range_succ, -BitVec.getLsbD_eq_getElem, hi]
  have hmono : rankBelow b (i + 1) ≤ rankBelow b j := by
    rw [rankBelow_eq, rankBelow_eq]
    exact (List.range_sublist.2 hij).countP_le
  omega

/-- Bits that are 1 at the same rank are one bit. -/
theorem eq_of_rankBelow {b : Word} {i j : Nat} (hi : b.getLsbD i = true) (hj : b.getLsbD j = true) (h : rankBelow b i = rankBelow b j) : i = j := by
  rcases Nat.lt_trichotomy i j with hlt | heq | hlt
  · exact absurd h (rankBelow_lt hi hlt).ne
  · exact heq
  · exact absurd h (rankBelow_lt hj hlt).ne'

/-- Bit j of `bext` is the bit of a under the bit of b that has j others below it. -/
theorem getLsbD_bext64 (a b : Word) (j : Nat) (hj : j < 64) :
    (bext64 a b).getLsbD j = true ↔ ∃ i < 64, b.getLsbD i = true ∧ a.getLsbD i = true ∧ rankBelow b i = j := by
  have hsorted : (((List.range 64).filter (fun i => b.getLsbD i && a.getLsbD i)).map (rankBelow b)).Pairwise (· < ·) := by
    rw [List.pairwise_map, List.pairwise_filter]
    refine List.pairwise_lt_range.imp (fun {i k} hik hi _ => rankBelow_lt ?_ hik)
    rw [Bool.and_eq_true] at hi
    exact hi.1
  have hsum : ((List.range 64).filter (fun i => b.getLsbD i && a.getLsbD i)).foldl (fun n i => n + 2 ^ rankBelow b i) 0 =
      ((((List.range 64).filter (fun i => b.getLsbD i && a.getLsbD i)).map (rankBelow b)).map (2 ^ ·)).sum := by
    rw [foldl_add_eq_sum, List.map_map]
    rfl
  rw [bext64, word, BitVec.getLsbD_ofNat, decide_eq_true hj, Bool.true_and, hsum, testBit_sum_two_pow hsorted]
  simp only [decide_eq_true_eq, List.mem_map, List.mem_filter, List.mem_range, Bool.and_eq_true, and_assoc]

/-- Bit j of `bdep` is the bit of a whose place is the rank of j in b, where b has a 1. -/
theorem getLsbD_bdep64 (a b : Word) (j : Nat) (hj : j < 64) : (bdep64 a b).getLsbD j = (b.getLsbD j && a.getLsbD (rankBelow b j)) := by
  have hsorted : ((List.range 64).filter (fun i => b.getLsbD i && a.getLsbD (rankBelow b i))).Pairwise (· < ·) := List.pairwise_lt_range.filter _
  rw [bdep64, word, BitVec.getLsbD_ofNat, decide_eq_true hj, Bool.true_and, foldl_add_eq_sum, testBit_sum_two_pow hsorted, Bool.eq_iff_iff]
  simp [hj, -BitVec.getLsbD_eq_getElem]

theorem getLsbD_bext64_rank {a b : Word} {i : Nat} (hi : i < 64) (hb : b.getLsbD i = true) : (bext64 a b).getLsbD (rankBelow b i) = a.getLsbD i := by
  have hle : rankBelow b i ≤ i := by
    rw [rankBelow_eq]
    exact List.countP_le_length.trans_eq List.length_range
  rw [Bool.eq_iff_iff, getLsbD_bext64 a b _ (by omega)]
  refine ⟨?_, fun ha => ⟨i, hi, hb, ha, rfl⟩⟩
  rintro ⟨k, -, hk, ha, hrank⟩
  rwa [← eq_of_rankBelow hk hb hrank]

/-- `bext` leaves zeros above as many bits as b has ones. -/
theorem getLsbD_bext64_high {a b : Word} {j : Nat} (hj : rankBelow b 64 ≤ j) : (bext64 a b).getLsbD j = false := by
  by_cases h64 : j < 64
  · rw [Bool.eq_false_iff, ne_eq, getLsbD_bext64 a b j h64]
    rintro ⟨i, hi, hb, -, hrank⟩
    exact absurd (rankBelow_lt hb hi) (by omega)
  · exact BitVec.getLsbD_of_ge _ _ (by omega)

/-- Leading zeros by search from the top. -/
theorem clz64_eq (a : Word) : clz64 a = ((List.range 64).find? (fun i => a.getLsbD (63 - i))).getD 64 := by
  unfold clz64
  split
  · next h0 =>
    subst h0
    rw [List.find?_eq_none.2 (by simp)]
    rfl
  · next h0 =>
    have hne : a.toNat ≠ 0 := fun h => h0 (BitVec.eq_of_toNat_eq h)
    have hlt : Nat.log2 a.toNat < 64 := (Nat.log2_lt hne).2 a.isLt
    have hfind : (List.range 64).find? (fun i => a.getLsbD (63 - i)) = some (63 - Nat.log2 a.toNat) := by
      rw [List.find?_range_eq_some]
      refine ⟨?_, List.mem_range.2 (by omega), fun j hj => ?_⟩
      · rw [Nat.sub_sub_self (by omega), BitVec.getLsbD]
        exact Nat.testBit_log2 hne
      · rw [BitVec.getLsbD, Nat.testBit_lt_two_pow ((Nat.log2_lt hne).1 (by omega))]
        rfl
    rw [hfind]
    rfl

theorem popc64_eq (a : Word) : popc64 a = (List.range 64).countP (fun i => a.getLsbD i) := List.countP_eq_length_filter.symm

theorem sext64_eq (a b : Word) : sext64 a b = BitVec.ofInt 64 (signed (b.toNat % 64 + 1) a.toNat) := by
  rw [sext64, signExt, signed]
  split
  · rw [BitVec.ofInt_natCast]
  · rfl

/-! Addresses (R117, R118). -/

theorem bitsOf_eq_toNat (w : Word) (lo n : Nat) : bitsOf w lo n = (w.extractLsb' lo n).toNat := by
  rw [BitVec.extractLsb'_toNat, Nat.shiftRight_eq_div_pow, bitsOf]

theorem bitsOf_lt (w : Word) (lo n : Nat) : bitsOf w lo n < 2 ^ n := Nat.mod_lt _ (by positivity)

theorem makeAddr_eq (tag : BitVec 4) (a b : Word) : makeAddr tag.toNat a b =
    tag ++ a.extractLsb' 0 5 ++ a.extractLsb' 5 5 ++ a.extractLsb' 10 3 ++ a.extractLsb' 13 1 ++ b.extractLsb' 0 46 := by
  have htag := tag.isLt
  have hb := bitsOf_lt b 0 46
  have h1 := bitsOf_lt a 0 5
  have h2 := bitsOf_lt a 5 5
  have h3 := bitsOf_lt a 10 3
  have h4 := bitsOf_lt a 13 1
  apply BitVec.eq_of_toNat_eq
  simp only [toNat_append_eq_add, ← bitsOf_eq_toNat, makeAddr, word, BitVec.toNat_ofNat]
  omega

/-- A field read as signed is the signed value of its bits. -/
theorem signed_toNat {n : Nat} (x : BitVec n) : signed n x.toNat = x.toInt := by
  rw [signed, Nat.mod_eq_of_lt x.isLt, BitVec.toInt_eq_toNat_cond]
  norm_cast

theorem extractLsb'_eq_iff (w : Word) (lo n : Nat) (x : BitVec n) : w.extractLsb' lo n = x ↔ bitsOf w lo n = x.toNat := by
  rw [bitsOf_eq_toNat, BitVec.toNat_inj]

/-- A coordinate of the core and a signed offset to it, as a register (R118). -/
theorem ofInt_add_signed (n : Nat) {k : Nat} (x : BitVec k) : BitVec.ofInt 64 (n + signed k x.toNat) = word n + x.signExtend 64 := by
  rw [BitVec.ofInt_add, BitVec.ofInt_natCast, signed_toNat, BitVec.signExtend]
  rfl

/-- A field of an address as a register. -/
theorem word_bitsOf (w : Word) (lo n : Nat) : word (bitsOf w lo n) = (w.extractLsb' lo n).setWidth 64 := by
  rw [bitsOf_eq_toNat, word, BitVec.ofNat_toNat]

theorem local_kind_iff (a : Word) : a.extractLsb' 60 4 = 8 ↔ bitsOf a 60 4 = 8 := extractLsb'_eq_iff a 60 4 8

theorem relative_kind_iff (a : Word) : a.extractLsb' 60 4 = 9 ↔ bitsOf a 60 4 = 9 := extractLsb'_eq_iff a 60 4 9

/-- What an address names (R118): the coordinates in it, those of the core with its offsets, or the core itself. -/
theorem addrCoords_cases (c : Nat) (a : Word) :
    (a.extractLsb' 60 4 = 8 → addrCoords c a = ((bitsOf a 55 5 : Int), (bitsOf a 50 5 : Int), bitsOf a 47 3)) ∧
    (a.extractLsb' 60 4 = 9 → addrCoords c a =
      (((c / 8 % 20 : Nat) : Int) + signed 5 (a.extractLsb' 55 5).toNat, ((c / 8 / 20 : Nat) : Int) + signed 5 (a.extractLsb' 50 5).toNat, bitsOf a 47 3)) ∧
    (a.extractLsb' 60 4 ≠ 8 → a.extractLsb' 60 4 ≠ 9 → addrCoords c a = (((c / 8 % 20 : Nat) : Int), ((c / 8 / 20 : Nat) : Int), c % 8)) := by
  rw [ne_eq, ne_eq, local_kind_iff, relative_kind_iff, ← bitsOf_eq_toNat, ← bitsOf_eq_toNat]
  refine ⟨fun h8 => if_pos h8, fun h9 => ?_, fun h8 h9 => ?_⟩
  · exact (if_neg (by omega)).trans (if_pos h9)
  · exact (if_neg h8).trans (if_neg h9)

theorem getx_eq (c : Nat) (a : Word) : BitVec.ofInt 64 (addrCoords c a).1 = if a.extractLsb' 60 4 = 8 then (a.extractLsb' 55 5).setWidth 64
    else if a.extractLsb' 60 4 = 9 then word (c / 8 % 20) + (a.extractLsb' 55 5).signExtend 64 else word (c / 8 % 20) := by
  obtain ⟨hlocal, hrel, hself⟩ := addrCoords_cases c a
  split
  · next h8 => rw [hlocal h8, ← word_bitsOf]; rfl
  · next h8 =>
    split
    · next h9 => rw [hrel h9]; exact ofInt_add_signed _ _
    · next h9 => rw [hself h8 h9]; rfl

theorem gety_eq (c : Nat) (a : Word) : BitVec.ofInt 64 (addrCoords c a).2.1 = if a.extractLsb' 60 4 = 8 then (a.extractLsb' 50 5).setWidth 64
    else if a.extractLsb' 60 4 = 9 then word (c / 8 / 20) + (a.extractLsb' 50 5).signExtend 64 else word (c / 8 / 20) := by
  obtain ⟨hlocal, hrel, hself⟩ := addrCoords_cases c a
  split
  · next h8 => rw [hlocal h8, ← word_bitsOf]; rfl
  · next h8 =>
    split
    · next h9 => rw [hrel h9]; exact ofInt_add_signed _ _
    · next h9 => rw [hself h8 h9]; rfl

theorem getc_eq (c : Nat) (a : Word) : word (addrCoords c a).2.2 =
    if a.extractLsb' 60 4 = 8 ∨ a.extractLsb' 60 4 = 9 then (a.extractLsb' 47 3).setWidth 64 else word (c % 8) := by
  obtain ⟨hlocal, hrel, hself⟩ := addrCoords_cases c a
  rw [← word_bitsOf]
  split
  · next h =>
    rcases h with h8 | h9
    · rw [hlocal h8]
    · rw [hrel h9]
  · next h => rw [hself (fun h8 => h (.inl h8)) (fun h9 => h (.inr h9))]

/-! What the forms compute. -/

/-- The forms of two sources other than `alu` (R112, R114, R117). -/
theorem exec_aluw_bits_addr : ∀ p ∈ [(Instr.aluwAddw, fun a b : Word => (a.setWidth 32 + b.setWidth 32).signExtend 64),
      (.aluwSubw, fun a b => (a.setWidth 32 - b.setWidth 32).signExtend 64), (.aluwShlw, fun a b => (a.setWidth 32 <<< (b.toNat % 32)).signExtend 64),
      (.aluwShrw, fun a b => (a.setWidth 32 >>> (b.toNat % 32)).signExtend 64), (.aluwSarw, fun a b => ((a.setWidth 32).sshiftRight (b.toNat % 32)).signExtend 64),
      (.bitsBext, bext64), (.bitsBdep, bdep64), (.bitsSext, fun a b => BitVec.ofInt 64 (signed (b.toNat % 64 + 1) a.toNat)),
      (.addrMkloc, fun a b => 8#4 ++ a.extractLsb' 0 5 ++ a.extractLsb' 5 5 ++ a.extractLsb' 10 3 ++ a.extractLsb' 13 1 ++ b.extractLsb' 0 46),
      (.addrMkrel, fun a b => 9#4 ++ a.extractLsb' 0 5 ++ a.extractLsb' 5 5 ++ a.extractLsb' 10 3 ++ a.extractLsb' 13 1 ++ b.extractLsb' 0 46)],
    ∀ (o : FmtA) (s : State), exec (p.1 o) s = binary o p.2 s := by
  intro p hp o s
  fin_cases hp
  case _ => exact congrArg (binary o · s) (funext₂ addw_eq)
  case _ => exact congrArg (binary o · s) (funext₂ subw_eq)
  case _ => exact congrArg (binary o · s) (funext₂ shlw_eq)
  case _ => exact congrArg (binary o · s) (funext₂ shrw_eq)
  case _ => exact congrArg (binary o · s) (funext₂ sarw_eq)
  case _ => rfl
  case _ => rfl
  case _ => exact congrArg (binary o · s) (funext₂ sext64_eq)
  case _ => exact congrArg (binary o · s) (funext₂ (makeAddr_eq 8#4))
  case _ => exact congrArg (binary o · s) (funext₂ (makeAddr_eq 9#4))

/-- What the forms of one source compute, on core c (R114, R118). -/
theorem exec_bits_addr : ∀ p ∈ [(Instr.bitsClz, fun (_ : Nat) (a : Word) => word (((List.range 64).find? (fun i => a.getLsbD (63 - i))).getD 64)),
       (.bitsCtz, fun _ a => word (((List.range 64).find? (fun i => a.getLsbD i)).getD 64)),
       (.bitsPopc, fun _ a => word ((List.range 64).countP (fun i => a.getLsbD i))), (.bitsBrev, fun _ a => a.reverse),
       (.addrGetx, fun c a => if a.extractLsb' 60 4 = 8 then (a.extractLsb' 55 5).setWidth 64
         else if a.extractLsb' 60 4 = 9 then word (c / 8 % 20) + (a.extractLsb' 55 5).signExtend 64 else word (c / 8 % 20)),
       (.addrGety, fun c a => if a.extractLsb' 60 4 = 8 then (a.extractLsb' 50 5).setWidth 64
         else if a.extractLsb' 60 4 = 9 then word (c / 8 / 20) + (a.extractLsb' 50 5).signExtend 64 else word (c / 8 / 20)),
       (.addrGetc, fun c a => if a.extractLsb' 60 4 = 8 ∨ a.extractLsb' 60 4 = 9 then (a.extractLsb' 47 3).setWidth 64 else word (c % 8)),
       (.addrGetdie, fun c a => addrDie c a)], ∀ (o : FmtUn) (s : State), exec (p.1 o) s = unary o (p.2 s.core) s := by
  intro p hp o s
  fin_cases hp
  case _ => exact congrArg (unary o · s) (funext fun a => congrArg word (clz64_eq a))
  case _ => rfl
  case _ => exact congrArg (unary o · s) (funext fun a => congrArg word (popc64_eq a))
  case _ => rfl
  case _ => exact congrArg (unary o · s) (funext (getx_eq s.core))
  case _ => exact congrArg (unary o · s) (funext (gety_eq s.core))
  case _ => exact congrArg (unary o · s) (funext (getc_eq s.core))
  case _ => rfl

/-- The forms with a signed immediate (R115). -/
theorem exec_immediates : ∀ p ∈ [(Instr.addi, fun a i : Word => a + i), (.andi, fun a i => a &&& i), (.ori, fun a i => a ||| i), (.xori, fun a i => a ^^^ i),
      (.slti, fun a i => if a.toInt < i.toInt then 1 else 0), (.sltiu, fun a i => if a.toNat < i.toNat then 1 else 0)],
    ∀ (o : FmtI) (s : State), exec (p.1 o) s = oneSource (srcOk o.x o.a && dstOk o.d) o.d o.a o.x (fun a => p.2 a (o.i.signExtend 64)) s := by
  intro p hp o s
  fin_cases hp
  case _ | _ | _ | _ => rfl
  case _ =>
    have hflag (a i : Word) : flag (a.slt i) = if a.toInt < i.toInt then 1 else 0 := by simp [flag, BitVec.slt_iff_toInt_lt]
    simp only [← hflag]
    rfl
  case _ =>
    have hflag (a i : Word) : flag (a.ult i) = if a.toNat < i.toNat then 1 else 0 := by simp [flag, BitVec.ult_iff_lt, BitVec.lt_def]
    simp only [← hflag]
    rfl

/-- The shifts by an immediate count (R115). -/
theorem exec_shiftImms : ∀ p ∈ [(Instr.shli, fun (a : Word) (n : Nat) => BitVec.ofNat 64 (a.toNat * 2 ^ n)), (.shri, fun a n => BitVec.ofNat 64 (a.toNat / 2 ^ n)),
      (.sari, fun a n => BitVec.ofInt 64 (a.toInt / 2 ^ n)), (.roti, fun a n => (a >>> n) ||| (a <<< (64 - n)))],
    ∀ (o : FmtSh) (s : State), exec (p.1 o) s = oneSource (srcOk o.x o.a && dstOk o.d) o.d o.a o.x (fun a => p.2 a o.n.toNat) s := by
  intro p hp o s
  have hn : count6 (word o.n.toNat) = o.n.toNat := by
    simp only [count6, word, BitVec.toNat_ofNat]
    omega
  have hmod : (word o.n.toNat).toNat % 64 = o.n.toNat := hn
  fin_cases hp
  case _ =>
    have hval (a : Word) : a <<< o.n.toNat = BitVec.ofNat 64 (a.toNat * 2 ^ o.n.toNat) := by rw [← hn, shiftLeft_count6, hn, hmod]
    simp only [← hval]
    rfl
  case _ =>
    have hval (a : Word) : a >>> o.n.toNat = BitVec.ofNat 64 (a.toNat / 2 ^ o.n.toNat) := by rw [← hn, ushiftRight_count6, hn, hmod]
    simp only [← hval]
    rfl
  case _ =>
    have hval (a : Word) : a.sshiftRight o.n.toNat = BitVec.ofInt 64 (a.toInt / 2 ^ o.n.toNat) := by rw [← hn, sshiftRight_count6, hn, hmod]
    simp only [← hval]
    rfl
  case _ =>
    have hval (a : Word) : a.rotateRight o.n.toNat = (a >>> o.n.toNat) ||| (a <<< (64 - o.n.toNat)) := by
      rw [BitVec.rotateRight_def, Nat.mod_eq_of_lt o.n.isLt]
    simp only [← hval]
    rfl

/-- Form codes 5 to 15 of `aluw` are reserved. -/
theorem decodeWord_aluw_reserved {w : Nat} (hw : w / 2 % 128 = 0x02) (hf : 5 ≤ w / 2 ^ 28 % 2 ^ 4) : decodeWord w = .error .reservedForm := by
  rw [decodeWord_major02 hw, decodeMajor02]
  generalize w / 2 ^ 28 % 2 ^ 4 = f at hf
  obtain ⟨f, rfl⟩ := Nat.exists_eq_add_of_le' hf
  rfl

/-- Settles O6. -/
theorem scalarTwoSourceFormsComplete : Obligations.ScalarTwoSourceFormsComplete := by
  have hexec := List.forall_mem_append.2 ⟨exec_alu, exec_aluw_bits_addr⟩
  exact ⟨fun p hp o s a b h hpre hx hy hd ha hb hr => binary_completes (hexec p hp o s) ⟨h, hpre⟩ hd ⟨hx, ha, rfl⟩ ⟨hy, hb, rfl⟩ hr,
    fun w => decodeWord_aluw_reserved⟩

/-- Settles O7. -/
theorem scalarOneSourceFormsComplete : Obligations.ScalarOneSourceFormsComplete := by
  refine ⟨fun p hp o s a h hpre hx hd ha hr => ?_, fun a b i hi hb => ?_⟩
  · exact oneSource_completes (exec_bits_addr p hp o s) ⟨h, hpre⟩ (by rw [hx, hd, Bool.and_self]) ⟨hx, ha, rfl⟩ hr
  · simp only [← rankBelow_eq]
    refine ⟨getLsbD_bext64_rank hi hb, ?_, fun j hj hbj => ?_, fun j => getLsbD_bext64_high⟩
    · rw [getLsbD_bdep64 a b i hi, hb, Bool.true_and]
    · rw [getLsbD_bdep64 a b j hj, hbj, Bool.false_and]

/-- Settles O8. -/
theorem immediateFormsComplete : Obligations.ImmediateFormsComplete := by
  refine ⟨fun p hp o s a h hpre hx hd ha hr => ?_, fun p hp o s a h hpre hx hd ha hr => ?_, fun o s h hpre hd hr => ?_, fun o s a h hpre hd ha hr => ?_⟩
  · exact oneSource_completes (f := fun a => p.2 a (o.i.signExtend 64)) (exec_immediates p hp o s) ⟨h, hpre⟩ (by rw [hx, hd, Bool.and_self]) ⟨hx, ha, rfl⟩ hr
  · exact oneSource_completes (f := fun a => p.2 a o.n.toNat) (exec_shiftImms p hp o s) ⟨h, hpre⟩ (by rw [hx, hd, Bool.and_self]) ⟨hx, ha, rfl⟩ hr
  · refine completes_of_finish ?_ hr h.cur_eq
    change execLdi o s = _
    rw [execLdi, hd, plain_of_starts ⟨h, hpre⟩, withDst_of_room _ _ hr]
  · have hok : (decide (o.d.toNat < 32) || decide (o.d.toNat = 56)) = true := by simpa using hd
    have hsrc : srcOk false o.d = true := by simp [srcOk]; omega
    exact oneSource_completes (i := .ldih o) (f := fun v => (v <<< 18) ||| o.i.setWidth 64) rfl ⟨h, hpre⟩ hok ⟨hsrc, ha, rfl⟩ (room_took_self o.d a h.slot_lt hd hr)

end Sys2Proof.Machine
end

/-! Long-latency integer forms (O9). -/
section
namespace Sys2Proof.Machine

variable {s u v : State} {i : Instr}

/-- A long-latency form of two sources leaves its result to come (R110). -/
theorem longBinary_later {o : FmtA} {f : Word → Word → Word} {a b : Word} (he : exec i s = longBinary o f s) (h : s.Starts i) (hd : dstOk o.d = true)
    (hacc : s.accepts o.d = true) (ha : s.Gives o.a o.x a u) (hb : u.Gives o.b o.y b v) :
    Later i s { v with serial := v.serial + 1 } ⟨v.serial, o.d.toNat, f a b, 0, 64, false, false, false, none, 0, 0⟩ := by
  obtain ⟨hx, -, -⟩ := id ha
  obtain ⟨hy, -, -⟩ := id hb
  refine later_of_exec (he.trans ?_) ((KeepsStrand.givesTwo h.begins ha hb).cur.trans h.begins.cur_eq)
  rw [longBinary, hx, hy, hd, Bool.and_self, Bool.and_self, plain_of_starts h, withDst_of_accepts _ _ hacc,
    two_of_gives o a b u v _ h.begins.reads_eq h.begins.slot_lt ha hb, longLatency]

theorem divU_eq (a b : Word) : divU a b = if b = 0 then BitVec.allOnes 64 else a / b := by
  rw [divU, word, ← BitVec.toNat_udiv, BitVec.ofNat_toNat, BitVec.setWidth_eq]

theorem remU_eq (a b : Word) : remU a b = if b = 0 then a else a % b := by
  rw [remU, word, ← BitVec.toNat_umod, BitVec.ofNat_toNat, BitVec.setWidth_eq]

theorem remS_eq (a b : Word) : remS a b = if b = 0 then a else BitVec.ofInt 64 (a.toInt - b.toInt * a.toInt.tdiv b.toInt) := by
  rw [remS, Int.tmod_def]

/-- What the long-latency forms compute (R113). -/
theorem exec_mul : ∀ p ∈ [(Instr.mulMul, fun a b : Word => a * b), (.mulMulh, fun a b => BitVec.ofInt 64 (a.toInt * b.toInt / 2 ^ 64)),
      (.mulMulhu, fun a b => BitVec.ofNat 64 (a.toNat * b.toNat / 2 ^ 64)),
      (.mulDiv, fun a b => if b = 0 then BitVec.allOnes 64 else BitVec.ofInt 64 (a.toInt.tdiv b.toInt)),
      (.mulDivu, fun a b => if b = 0 then BitVec.allOnes 64 else a / b),
      (.mulRem, fun a b => if b = 0 then a else BitVec.ofInt 64 (a.toInt - b.toInt * a.toInt.tdiv b.toInt)),
      (.mulRemu, fun a b => if b = 0 then a else a % b)], ∀ (o : FmtA) (s : State), exec (p.1 o) s = longBinary o p.2 s := by
  intro p hp o s
  fin_cases hp
  case _ => rfl
  case _ => rfl
  case _ => rfl
  case _ => rfl
  case _ => exact congrArg (longBinary o · s) (funext₂ divU_eq)
  case _ => exact congrArg (longBinary o · s) (funext₂ remS_eq)
  case _ => exact congrArg (longBinary o · s) (funext₂ remU_eq)

/-- Form codes 7 to 15 of `mul` are reserved. -/
theorem decodeWord_mul_reserved {w : Nat} (hw : w / 2 % 128 = 0x03) (hf : 7 ≤ w / 2 ^ 28 % 2 ^ 4) : decodeWord w = .error .reservedForm := by
  rw [decodeWord_major03 hw, decodeMajor03]
  generalize w / 2 ^ 28 % 2 ^ 4 = f at hf
  obtain ⟨f, rfl⟩ := Nat.exists_eq_add_of_le' hf
  rfl

/-- Settles O9. -/
theorem longLatencyIntegerFormsComplete : Obligations.LongLatencyIntegerFormsComplete := by
  refine ⟨fun p hp o s a b h hpre hx hy hd hacc ha hb => ?_, fun w => decodeWord_mul_reserved⟩
  have hlater := longBinary_later (exec_mul p hp o s) ⟨h, hpre⟩ hd hacc ⟨hx, ha, rfl⟩ ⟨hy, hb, rfl⟩
  rwa [serial_took, serial_took] at hlater

end Sys2Proof.Machine
end

/-! Reads of system registers, branches and `eret` (O13, O15, O21). -/
section
namespace Sys2Proof.Machine

variable {s u v : State} {i : Instr}

/-! System registers. -/

/-- `mfs` writes what its register reads as (R125). -/
theorem mfs_completes (o : FmtMfs) (h : s.Starts (.mfs o)) (hd : dstOk o.d = true) (hr : s.room o.d = true) :
    Completes (.mfs o) s (s.put o.d (readSys o.i.toNat s)) := by
  refine completes_of_finish ?_ hr h.begins.cur_eq
  change execMfs o s = _
  rw [execMfs, hd, plain_of_starts h, withDst_of_room _ _ hr]

/-- A field of a register that holds n. -/
theorem extractLsb'_word (n lo k : Nat) (hn : n < 2 ^ 64) : (word n).extractLsb' lo k = BitVec.ofNat k (n / 2 ^ lo) := by
  apply BitVec.eq_of_toNat_eq
  rw [BitVec.extractLsb'_toNat, Nat.shiftRight_eq_div_pow, word, BitVec.toNat_ofNat, Nat.mod_eq_of_lt hn, BitVec.toNat_ofNat]

/-- CORE names the core, its place in its cluster, and the coordinates of the cluster (R126). -/
theorem coreReg_fields {c : Nat} (hc : c < 3840) :
    (coreReg c).extractLsb' 15 12 = BitVec.ofNat 12 c ∧ (coreReg c).extractLsb' 0 3 = BitVec.ofNat 3 (c % 8) ∧
    (coreReg c).extractLsb' 3 5 = BitVec.ofNat 5 (c / 8 % 20) ∧ (coreReg c).extractLsb' 8 5 = BitVec.ofNat 5 (c / 8 / 20) := by
  have hdie : dieOf (clusterOf c) < 4 := by
    unfold dieOf dieAt
    split <;> split <;> omega
  simp only [clusterOf] at hdie
  simp only [coreReg, clusterOf, xOf, yOf]
  have hx : c / 8 % 20 < 20 := Nat.mod_lt _ (by omega)
  have hy : c / 8 / 20 < 24 := by omega
  have hk : c % 8 < 8 := Nat.mod_lt _ (by omega)
  generalize dieOf (c / 8) = d at hdie
  generalize c / 8 % 20 = x at hx
  generalize c / 8 / 20 = y at hy
  generalize c % 8 = k at hk
  rw [extractLsb'_word _ _ _ (by omega), extractLsb'_word _ _ _ (by omega), extractLsb'_word _ _ _ (by omega), extractLsb'_word _ _ _ (by omega)]
  refine ⟨congrArg _ (by omega), BitVec.eq_of_toNat_eq ?_, BitVec.eq_of_toNat_eq ?_, BitVec.eq_of_toNat_eq ?_⟩
  · simp only [BitVec.toNat_ofNat]; omega
  · simp only [BitVec.toNat_ofNat]; omega
  · simp only [BitVec.toNat_ofNat]; omega

/-- Settles O13. -/
theorem mfsReadsSystemRegisters : Obligations.MfsReadsSystemRegisters :=
  ⟨fun o _ h hpre hd hr => mfs_completes o ⟨h, hpre⟩ hd hr, fun _ => ⟨rfl, rfl, rfl, rfl, rfl, rfl, rfl, rfl, rfl, rfl, rfl⟩, fun _ hc => coreReg_fields hc⟩

/-! Branches (R128, R133). -/

/-- Where a branch goes: taken, to its target, freeing the loops it leaves; untaken, on in sequence. -/
def BranchesTo (i : Instr) (s u : State) (t : Word) (taken : Bool) : Prop :=
  if taken = true then GoesTo i s ((if s.me.inTrap then u else u.modMe (fun m => m.leaveLoops t)).traced 0 t) t else Completes i s u

/-- A branch whose sources have been read. -/
theorem branchesTo_of_exec {n : Nat} {p : BitVec n} {taken : Bool} (he : exec i s = if taken then branchTo (dispTarget u.me.pc p) u else complete u) (hk : KeepsStrand s u)
    (hcur : s.me.cur = some i) : BranchesTo i s u (s.me.pc + 2 * p.signExtend 64) taken := by
  unfold BranchesTo
  cases taken with
  | true =>
    rw [if_pos rfl] at he ⊢
    refine goesTo_of_exec (he.trans ?_)
    rw [branchTo, dispTarget, hk.pc, inTrap_of_rest hk.rest]
  | false => exact completes_of_exec he (hk.cur.trans hcur)

/-- A branch on two registers reads both plainly (R60). -/
theorem branch2_branchesTo {o : FmtB} {f : Word → Word → Bool} {a b : Word} (he : exec i s = branch2 o f s) (h : s.Starts i) (ha : s.Gives o.a false a u)
    (hb : u.Gives o.b false b v) : BranchesTo i s v (s.me.pc + 2 * o.p.signExtend 64) (f a b) := by
  obtain ⟨hx, -, -⟩ := id ha
  obtain ⟨hy, -, -⟩ := id hb
  refine branchesTo_of_exec (he.trans ?_) (.givesTwo h.begins ha hb) h.begins.cur_eq
  rw [branch2, hx, hy, Bool.and_self, plain_of_starts h, readSrc_of_gives (by rw [h.begins.reads_eq]; rfl) ha,
    readSrc_of_gives (length_reads_of_first h.begins ha) hb]

theorem branch1_branchesTo {o : FmtZ} {f : Word → Bool} {a : Word} (he : exec i s = branch1 o f s) (h : s.Starts i) (ha : s.Gives o.a false a u) :
    BranchesTo i s u (s.me.pc + 2 * o.p.signExtend 64) (f a) := by
  obtain ⟨hx, -, -⟩ := id ha
  refine branchesTo_of_exec (he.trans ?_) (.gives ha h.begins.slot_lt) h.begins.cur_eq
  rw [branch1, hx, plain_of_starts h, readSrc_of_gives (by rw [h.begins.reads_eq]; rfl) ha]

theorem slt_eq_decide (a b : Word) : a.slt b = decide (a.toInt < b.toInt) := by
  rw [Bool.eq_iff_iff, decide_eq_true_eq, BitVec.slt_iff_toInt_lt]

theorem not_slt_eq_decide (a b : Word) : (!a.slt b) = decide (b.toInt ≤ a.toInt) := by
  rw [slt_eq_decide, ← decide_not, decide_eq_decide, Int.not_lt]

theorem ult_eq_decide (a b : Word) : a.ult b = decide (a.toNat < b.toNat) := rfl

theorem not_ult_eq_decide (a b : Word) : (!a.ult b) = decide (b.toNat ≤ a.toNat) := by
  rw [ult_eq_decide, ← decide_not, decide_eq_decide, Nat.not_lt]

theorem bne_eq_decide (a b : Word) : (a != b) = decide (a ≠ b) := by
  rw [bne, beq_eq_decide, decide_not]

theorem exec_br : ∀ p ∈ [(Instr.brEq, fun a b : Word => decide (a = b)), (.brNe, fun a b => decide (a ≠ b)), (.brLt, fun a b => decide (a.toInt < b.toInt)),
      (.brGe, fun a b => decide (b.toInt ≤ a.toInt)), (.brLtu, fun a b => decide (a.toNat < b.toNat)), (.brGeu, fun a b => decide (b.toNat ≤ a.toNat))],
    ∀ (o : FmtB) (s : State), exec (p.1 o) s = branch2 o p.2 s := by
  intro p hp o s
  fin_cases hp
  case _ => exact congrArg (branch2 o · s) (funext₂ fun a b => beq_eq_decide a b)
  case _ => exact congrArg (branch2 o · s) (funext₂ bne_eq_decide)
  case _ => exact congrArg (branch2 o · s) (funext₂ slt_eq_decide)
  case _ => exact congrArg (branch2 o · s) (funext₂ not_slt_eq_decide)
  case _ => rfl
  case _ => exact congrArg (branch2 o · s) (funext₂ not_ult_eq_decide)

theorem exec_bz : ∀ p ∈ [(Instr.bzEq0, fun a : Word => decide (a = 0)), (.bzNe0, fun a => decide (a ≠ 0)), (.bzLt0, fun a => decide (a.toInt < 0)),
      (.bzGe0, fun a => decide (0 ≤ a.toInt)), (.bzGt0, fun a => decide (0 < a.toInt)), (.bzLe0, fun a => decide (a.toInt ≤ 0))],
    ∀ (o : FmtZ) (s : State), exec (p.1 o) s = branch1 o p.2 s := by
  intro p hp o s
  fin_cases hp
  case _ => exact congrArg (branch1 o · s) (funext fun a => beq_eq_decide a 0)
  case _ => exact congrArg (branch1 o · s) (funext fun a => bne_eq_decide a 0)
  case _ => exact congrArg (branch1 o · s) (funext fun a => slt_eq_decide a 0)
  case _ => exact congrArg (branch1 o · s) (funext fun a => not_slt_eq_decide a 0)
  case _ => exact congrArg (branch1 o · s) (funext fun a => slt_eq_decide 0 a)
  case _ => exact congrArg (branch1 o · s) (funext fun a => not_slt_eq_decide 0 a)

/-- Conditions 6 and 7 are reserved. -/
theorem decodeWord_branch_reserved {w : Nat} (hw : w / 2 % 128 = 0x15 ∨ w / 2 % 128 = 0x16) (hf : 6 ≤ w / 2 ^ 8 % 2 ^ 3) : decodeWord w = .error .reservedForm := by
  rcases hw with hw | hw
  · rw [decodeWord_major15 hw, decodeMajor15]
    generalize w / 2 ^ 8 % 2 ^ 3 = f at hf
    obtain ⟨f, rfl⟩ := Nat.exists_eq_add_of_le' hf
    rfl
  · rw [decodeWord_major16 hw, decodeMajor16]
    generalize w / 2 ^ 8 % 2 ^ 3 = f at hf
    obtain ⟨f, rfl⟩ := Nat.exists_eq_add_of_le' hf
    rfl

/-- Settles O15. -/
theorem branchesComplete : Obligations.BranchesComplete := by
  refine ⟨fun p hp o s s2 a b h hpre hx hy ha hb hs2 => ?_, fun p hp o s s1 a h hpre hx ha hs1 => ?_, fun w => decodeWord_branch_reserved⟩
  · exact branch2_branchesTo (exec_br p hp o s) ⟨h, hpre⟩ ⟨hx, ha, rfl⟩ ⟨hy, hb, hs2⟩
  · exact branch1_branchesTo (exec_bz p hp o s) ⟨h, hpre⟩ ⟨hx, ha, hs1⟩

/-! `eret` (R141). -/

/-- Clearing ST.TRAP is masking it. -/
theorem withBits_trap_zero (st : Word) : withBits st 29 1 0 = st &&& 0xFFFFFFFFDFFFFFFF := by
  have hmask : ∀ j < 64, (0xFFFFFFFFDFFFFFFF : Word).getLsbD j = decide (j ≠ 29) := by decide
  have hnat : (withBits st 29 1 0).toNat = 2 ^ 30 * (st.toNat / 2 ^ 30) + st.toNat % 2 ^ 29 := by
    rw [toNat_withBits _ _ (by omega)]
    omega
  apply BitVec.eq_of_getLsbD_eq
  intro j hj
  rw [BitVec.getLsbD_and, hmask j hj, BitVec.getLsbD, hnat, Nat.testBit_two_pow_mul_add _ (by omega), Nat.testBit_mod_two_pow, Nat.testBit_div_two_pow, BitVec.getLsbD]
  split
  · next hlow =>
    have hiff : j < 29 ↔ j ≠ 29 := by omega
    rw [decide_eq_decide.2 hiff, Bool.and_comm]
  · next hhigh => rw [Nat.sub_add_cancel (by omega), decide_eq_true (by omega), Bool.and_true]

/-- `eret` in a handler returns from it. -/
theorem exec_eret_of_inTrap (h : s.Begins .eret) (ht : s.me.inTrap = true) : exec .eret s = returnFromTrap s := by
  change execEret s = _
  rw [execEret, plain_of_starts ⟨h, prefixed_of_inTrap _ ht⟩, if_pos ht]

/-- Settles O21. -/
theorem eretReturns : Obligations.EretReturns := by
  refine ⟨fun s h ht he => ?_, fun s h ht he => ?_, fun s h ht hpre => ?_⟩
  · rw [exec_eret_of_inTrap h ht, returnFromTrap, he, if_neg Bool.false_ne_true]
    simp only [withBits_trap_zero]
  · rw [Traps, exec_eret_of_inTrap h ht, returnFromTrap, he, if_pos rfl]
    rfl
  · change execEret s = _
    rw [execEret, plain_of_starts ⟨h, hpre⟩, ht, if_neg Bool.false_ne_true, h.curWord_eq]
    rfl

end Sys2Proof.Machine
end

/-! Hardware loops and the iteration fetcher (O17). -/
section
namespace Sys2Proof.Machine

variable {s t u v : State} {i : Instr} {m : Strand} {k : Nat} {f : Fetcher}

/-! The end rule (R132). -/

theorem sub_one_eq_zero_iff (w : Word) : w - 1 = 0 ↔ w = 1 := sub_eq_zero

/-- At the end of a body whose chunk is used up the fetcher of its level claims again (R134). -/
theorem loopEnd_claims (n : Nat) (pc : Word) (fell : Bool) (hk : m.innermost = some k) (hf : m.fetcher = some f) (hl : f.level = k) (h1 : m.lcAt k = 1) :
    loopEnd (n + 1) m pc (even (m.leAt k)) fell = .claim { m with fetcher := some { f with i := f.i + 1 } } (even (m.leAt k)) := by
  simp only [loopEnd, hk, hf, hl, if_true, h1, sub_self, ne_eq, not_true_eq_false, if_false]

/-- At the end of a body with iterations left the strand goes back (R132). -/
theorem loopEnd_back (n : Nat) (pc : Word) (fell : Bool) (hk : m.innermost = some k) (hf : m.fetcher = none) (h1 : m.lcAt k ≠ 1) :
    loopEnd (n + 1) m pc (even (m.leAt k)) fell = .go { m with lc := Tbl.set m.lc k (m.lcAt k - 1) 0 } (even (m.lbAt k)) (some k) := by
  simp only [loopEnd, hk, hf, if_true, ne_eq, sub_one_eq_zero_iff, h1, not_false_eq_true]

/-- At the end of a body's last iteration the level is free, and the levels outside are looked at (R132). -/
theorem loopEnd_frees (n : Nat) (pc : Word) (fell : Bool) (hk : m.innermost = some k) (hf : m.fetcher = none) (h1 : m.lcAt k = 1) :
    loopEnd (n + 1) m pc (even (m.leAt k)) fell = loopEnd n (m.setLc k 0) pc (even (m.leAt k)) fell := by
  simp only [loopEnd, hk, hf, if_true, h1, sub_self, ne_eq, not_true_eq_false, if_false]

theorem loopEnd_of_noLevel (n : Nat) (pc next : Word) (fell : Bool) (hk : m.innermost = none) : loopEnd n m pc next fell = .go m next none := by
  cases n with
  | zero => rfl
  | succ n => simp only [loopEnd, hk]

/-- Freeing the only active level leaves none. -/
theorem innermost_setLc_of_only (hs : Tbl.sortedFrom 0 m.lc = true) (ho : ∀ j, j ≠ k → m.lcAt j = 0) : (m.setLc k 0).innermost = none := by
  have hzero (j : Nat) : (m.setLc k 0).lcAt j = 0 := by
    by_cases hj : j = k
    · subst hj
      exact Tbl.get_set_same m.lc j (0 : Word) 0 hs
    · exact (Tbl.get_set_other m.lc k j (0 : Word) 0 hj).trans (ho j hj)
  simp only [Strand.innermost, hzero, ne_eq, not_true_eq_false, if_false]

theorem not_inTrap_retire (ht : s.me.inTrap = false) : ¬ s.me.retire.inTrap = true := by
  rw [show s.me.retire.inTrap = s.me.inTrap from rfl, ht]
  exact Bool.false_ne_true

/-- An instruction that ends where a fetcher has to claim again leaves the claim as the strand's next stage. -/
theorem completeTo_of_claim {next pc : Word} {fell : Bool} {m' : Strand} (ht : s.me.inTrap = false) (h : loopEnd 4 s.me.retire s.me.retire.pc next fell = .claim m' pc) :
    completeTo next fell s = .next (s.modMe (fun _ => { m' with pc := pc, stage := 13 })) := by
  simp only [completeTo, if_neg (not_inTrap_retire ht), h, State.modMe_modMe]

/-- An instruction that ends with no back-edge goes on. -/
theorem completeTo_of_go {next pc : Word} {fell : Bool} {m' : Strand} (ht : s.me.inTrap = false) (h : loopEnd 4 s.me.retire s.me.retire.pc next fell = .go m' pc none) :
    completeTo next fell s = .next (s.modMe (fun _ => { m' with pc := pc })) := by
  simp only [completeTo, if_neg (not_inTrap_retire ht), h, State.modMe_modMe]

/-- A back-edge without RN goes on at the body's first halfword, and is traced (R132, R434). -/
theorem completeTo_of_back {next pc : Word} {fell : Bool} {m' : Strand} (ht : s.me.inTrap = false) (h : loopEnd 4 s.me.retire s.me.retire.pc next fell = .go m' pc (some k))
    (hrn : (s.me.lbAt k).getLsbD 0 = false) : completeTo next fell s = .next ((s.modMe (fun _ => { m' with pc := pc })).traced 0 pc) := by
  have hrn' : ¬ (s.me.retire.lbAt k).getLsbD 0 = true := by
    rw [show s.me.retire.lbAt k = s.me.lbAt k from rfl, hrn]
    exact Bool.false_ne_true
  simp only [completeTo, if_neg (not_inTrap_retire ht), h, if_neg hrn', State.modMe_modMe]

/-- Whether or not a loop ends, an instruction that ends answers a next state. -/
theorem completeTo_next (next : Word) (fell : Bool) (s : State) : ∃ t, completeTo next fell s = .next t := by
  unfold completeTo
  dsimp only
  split
  · exact ⟨_, rfl⟩
  · split
    · split
      · exact ⟨_, rfl⟩
      · split
        · exact ⟨_, rfl⟩
        · exact ⟨_, rfl⟩
    · exact ⟨_, rfl⟩

/-! `loop` (R131). -/

theorem freeLevel_took (c : Code) (y : Bool) (x : Word) (h : s.slot < 16) : (s.took c y x).me.freeLevel = s.me.freeLevel :=
  show (s.took c y x).me.rest.freeLevel = s.me.rest.freeLevel by rw [rest_took c y x h]

/-- A `loop` whose count has been read. -/
theorem exec_loop_of_src (o : FmtLoop) {n : Word} (h : s.Starts (.loop o)) (hx : srcOk o.x o.a = true) (hn : s.src o.a = some n) :
    exec (.loop o) s = if n = 0 then completeTo (s.me.pc + 4 + word (2 * o.i.toNat)) false (s.took o.a o.x n)
      else match s.me.freeLevel with
        | none => trapFree .loopDepth (s.took o.a o.x n)
        | some k => complete ((s.took o.a o.x n).modMe (fun m => m.takeLevel k n o.i.toNat o.r)) := by
  have hslot := h.begins.slot_lt
  change execLoop o s = _
  rw [execLoop, hx, plain_of_starts h, h.begins.readSrc_zero hx hn, pc_took _ _ _ hslot, freeLevel_took _ _ _ hslot] <;> rfl

theorem loop_takes_level (o : FmtLoop) {n : Word} (h : s.Starts (.loop o)) (hx : srcOk o.x o.a = true) (hn : s.src o.a = some n) (hne : n ≠ 0)
    (hk : s.me.freeLevel = some k) : Completes (.loop o) s ((s.took o.a o.x n).modMe (fun m => { m with
      lc := Tbl.put m.lc k n, lb := Tbl.set m.lb k ((m.pc + 4) ||| (if o.r then 1 else 0)) 0, le := Tbl.set m.le k (m.pc + 4 + word (2 * o.i.toNat)) 0 })) := by
  refine completes_of_exec ?_ ?_
  · rw [exec_loop_of_src o h hx hn, if_neg hne, hk]
    have hset (m : Strand) : Tbl.set m.lc k n 0 = Tbl.put m.lc k n := if_neg hne
    simp only [Strand.takeLevel, hset]
    rfl
  · rw [State.me_modMe]
    exact (cur_took o.a o.x n h.begins.slot_lt).trans h.begins.cur_eq

theorem loop_skips (o : FmtLoop) (h : s.Starts (.loop o)) (hx : srcOk o.x o.a = true) (hn : s.src o.a = some 0) :
    GoesTo (.loop o) s (s.took o.a o.x 0) (s.me.pc + 4 + word (2 * o.i.toNat)) :=
  goesTo_of_exec ((exec_loop_of_src o h hx hn).trans (if_pos rfl))

theorem loop_traps (o : FmtLoop) {n : Word} (h : s.Starts (.loop o)) (hx : srcOk o.x o.a = true) (hn : s.src o.a = some n) (hne : n ≠ 0)
    (hk : s.me.freeLevel = none) : Traps (.loop o) s (s.took o.a o.x n).draw.2 18 (s.took o.a o.x n).draw.1 := by
  have hpc : (s.took o.a o.x n).draw.2.me.pc = s.me.pc := pc_took o.a o.x n h.begins.slot_lt
  rw [Traps, exec_loop_of_src o h hx hn, if_neg hne, hk, trapFree, trap, hpc]
  rfl

/-! Claims (R134). -/

/-- A write to a place that may be sent is on its way (R175, R177). -/
theorem sendWrite_of_sends {p : Place} {tc ctx n : Nat} {b : Body} (k : State → Out) (h : s.Sends p) :
    sendWrite p tc ctx n b s k = k (s.post tc ctx p.named p.loc n (s.homeFor p ctx) b) := by
  obtain ⟨hroom, hreplay, hpage⟩ := h
  rw [sendWrite, hroom, Bool.not_true, if_neg Bool.false_ne_true, hreplay]
  simp only [hpage]

/-- A claim that is admitted and may be sent is on its way to the home of its counter. -/
theorem claimAt_of_admits {p : Place} {cnt : Word} (hcnt : word f.cnt = cnt) (ha : Admits .update cnt 8 8 (fun _ => true) s p t)
    (hc : t.crosses false (homeOf p.loc) p.loc 8 = false) (ho : t.parkedOverlap p.named 8 = false) (hs : t.Sends p) (k : Fetcher → State → Out) :
    claimAt f s k = k f (t.post 1 0 p.named p.loc 8 (homeOf p.loc) (.claim f.total f.f f.minc f.p)) := by
  rw [claimAt, hcnt, access, ha, hc, ho, if_neg Bool.false_ne_true, if_neg Bool.false_ne_true, sendWrite_of_sends _ hs]
  rfl

/-- `iloop` sends its first claim and leaves the rotation until the reply. -/
theorem iloop_claims (o : FmtLoop) {a : Word} {r : List Word} {p : Place} (h : s.Starts (.iloop o)) (hacq : s.acquirePending = false) (hg : s.Gives o.a o.x a u)
    (hf : s.me.fetcher = none) (hk : s.me.freeLevel ≠ none) (hr : Reads 1 a 6 u r v) (hn : nestOf r = some f)
    (ha : Admits .update (r.getD 0 0) 8 8 (fun _ => true) v p t) (hc : t.crosses false (homeOf p.loc) p.loc 8 = false) (ho : t.parkedOverlap p.named 8 = false)
    (hs : t.Sends p) :
    exec (.iloop o) s = .next ((t.post 1 0 p.named p.loc 8 (homeOf p.loc) (.claim f.total f.f f.minc f.p)).modMe (fun m => { m with
      fetcher := some { f with level := 3, cnt := (r.getD 0 0).toNat }, status := .out, stage := 7, work := [o.i.toNat, if o.r then 1 else 0] })) := by
  have hrest := (KeepsStrand.gives hg h.begins.slot_lt).rest
  have hf' : u.me.fetcher = none := Eq.trans (show u.me.rest.fetcher = s.me.rest.fetcher by rw [hrest]) hf
  have hlevel : u.me.freeLevel = s.me.freeLevel := show u.me.rest.freeLevel = s.me.rest.freeLevel by rw [hrest]
  have hk' : u.me.freeLevel.isNone = false := by
    rw [hlevel, Option.isNone_eq_false_iff]
    exact Option.isSome_iff_ne_none.2 hk
  obtain ⟨hx, -, -⟩ := id hg
  change execIloop o s = _
  rw [execIloop, hx, plain_of_starts h, ordered_of_free _ hacq, readSrc_of_gives (by rw [h.begins.reads_eq]; rfl) hg, hf', hk', Option.isSome_none, Bool.or_false,
    if_neg Bool.false_ne_true, hr, hn]
  have hcnt : word (r.getD 0 0).toNat = r.getD 0 0 := by rw [word, BitVec.ofNat_toNat, BitVec.setWidth_eq]
  exact claimAt_of_admits (f := { f with level := 3, cnt := (r.getD 0 0).toNat }) hcnt ha hc ho hs _

/-- A later claim follows the accesses of the body, so that it waits for an acquire among them (R289). -/
theorem claimAgain_held (hf : s.me.fetcher = some f) (h : s.acquirePending = true) : claimAgain s = .next (s.modMe (fun m => { m with status := .held })) := by
  rw [claimAgain, hf]
  exact if_pos h

theorem claimAgain_claims {p : Place} (hf : s.me.fetcher = some f) (h : s.acquirePending = false) (ha : Admits .update (word f.cnt) 8 8 (fun _ => true) s p t)
    (hc : t.crosses false (homeOf p.loc) p.loc 8 = false) (ho : t.parkedOverlap p.named 8 = false) (hs : t.Sends p) :
    claimAgain s = .next ((t.post 1 0 p.named p.loc 8 (homeOf p.loc) (.claim f.total f.f f.minc f.p)).modMe (fun m => { m with status := .out, stage := 8 })) := by
  rw [claimAgain, hf]
  exact (if_neg (by simp [h])).trans (claimAt_of_admits rfl ha hc ho hs _)

/-! The replies of claims (R134). -/

/-- Whether an answer is a reply for strand uid in the place r. -/
def Ack.repliesTo (r : StrandRef) (uid : Nat) (a : Ack) : Bool :=
  a.core = r.core && a.slot = r.slot && a.uid = uid && (match a.body with | .reply _ => true | _ => false)

/-- What a claim's reply does to the strand in focus, whose fetcher is f: it gives first index c and chunk iterations. -/
def State.claimed (s : State) (f : Fetcher) (c : Nat) (chunk : Word) : Out :=
  if s.me.stage = 7 then
    if chunk = 0 then completeTo (s.me.pc + 4 + word (2 * s.me.work.getD 0 0)) false (s.modMe (fun m => { m with fetcher := none }))
    else
      match s.me.freeLevel with
      | some k => complete (s.modMe (fun m => { (m.takeLevel k chunk (s.me.work.getD 0 0) (decide (s.me.work.getD 1 0 = 1))) with fetcher := some { f with level := k, i := c } }))
      | none => .next s
  else if s.me.stage = 8 then
    if chunk = 0 then completeTo s.me.pc false (s.modMe (fun m => m.setLc f.level 0))
    else
      let back := even (s.me.lbAt f.level)
      let t := (s.modMe (fun m => { m.retire with lc := Tbl.set m.lc f.level chunk 0, fetcher := some { f with i := c }, pc := back })).traced 0 back
      if (s.me.lbAt f.level).getLsbD 0 then
        let t' := t.shrinkNow t.core t.slot
        .next (if t'.me.shrink.isSome then t'.modMe (fun m => { m with rnWait := true }) else t')
      else .next t
  else .next s

/-- A claim's reply reaches its strand. -/
theorem exec_iloopClaimReply {r : StrandRef} {a : Ack} {x chunk : Word} {more : List Word} {c : Nat} (hr : s.relocking r.core = false) (hd : (s.strandOf r).dying = false)
    (hf : (s.strandOf r).fetcher = some f) (ha : s.acks.find? (Ack.repliesTo r (s.strandOf r).uid) = some a) (hb : a.body = .reply ⟨x, chunk :: more, c⟩) :
    exec (.iloopClaimReply r) s = State.claimed { s with acks := s.acks.filter (fun b => b.id != a.id), core := r.core, slot := r.slot } f x.toNat chunk := by
  change execIloopClaimReply r s = _
  unfold execIloopClaimReply
  dsimp only
  split
  · next ack f' hack hf' =>
    obtain rfl : a = ack := Option.some.inj (ha.symm.trans hack)
    obtain rfl : f = f' := Option.some.inj (hf.symm.trans hf')
    have hr' : ¬ State.relocking { s with acks := s.acks.filter (fun b => b.id != a.id), core := r.core, slot := r.slot } r.core = true := by
      rw [show State.relocking { s with acks := s.acks.filter (fun b => b.id != a.id), core := r.core, slot := r.slot } r.core = s.relocking r.core from rfl, hr]
      exact Bool.false_ne_true
    rw [hb, if_neg hr', if_neg (by simp [hd])]
    rfl
  · next hno => exact absurd hf (fun hf => hno a f ha hf)

theorem claimed_first_skips {c h rn : Nat} (h7 : s.me.stage = 7) (hw : s.me.work = [h, rn]) :
    s.claimed f c 0 = completeTo (s.me.pc + 4 + word (2 * h)) false (s.modMe (fun m => { m with fetcher := none })) := by
  rw [State.claimed, if_pos h7, if_pos rfl, hw]
  rfl

theorem claimed_first_takes {c h rn : Nat} {chunk : Word} (h7 : s.me.stage = 7) (hw : s.me.work = [h, rn]) (hc : chunk ≠ 0) (hk : s.me.freeLevel = some k) :
    s.claimed f c chunk = complete (s.modMe (fun m => { (m.takeLevel k chunk h (decide (rn = 1))) with fetcher := some { f with level := k, i := c } })) := by
  rw [State.claimed, if_pos h7, if_neg hc, hw, hk]
  rfl

theorem claimed_later_frees {c : Nat} (h8 : s.me.stage = 8) : s.claimed f c 0 = completeTo s.me.pc false (s.modMe (fun m => m.setLc f.level 0)) := by
  rw [State.claimed, if_neg (by omega), if_pos h8, if_pos rfl]

theorem claimed_later_goes_back {c : Nat} {chunk : Word} (h8 : s.me.stage = 8) (hc : chunk ≠ 0) (hrn : (s.me.lbAt f.level).getLsbD 0 = false) :
    s.claimed f c chunk = .next ((s.modMe (fun m => { m.retire with
      lc := Tbl.set m.lc f.level chunk 0, fetcher := some { f with i := c }, pc := even (s.me.lbAt f.level) })).traced 0 (even (s.me.lbAt f.level))) := by
  rw [State.claimed, if_neg (by omega), if_pos h8, if_neg hc, hrn]
  exact if_neg Bool.false_ne_true

/-- Settles O17: the forms first, then the claims and their replies, then the end rule. -/
theorem loopsComplete : Obligations.LoopsComplete := by
  refine ⟨⟨fun o s n k h hp hx hn hne hk => loop_takes_level o ⟨h, hp⟩ hx hn hne hk, fun o s h hp hx hn => loop_skips o ⟨h, hp⟩ hx hn,
    fun o s n h hp hx hn hne hk => loop_traps o ⟨h, hp⟩ hx hn hne hk,
    fun o s s1 s2 a r f p t h hp hx hacq ha hs1 hf hk hr hn had hc ho hsend => iloop_claims o ⟨h, hp⟩ hacq ⟨hx, ha, hs1⟩ hf hk hr hn had hc ho hsend,
    fun r s f a v chunk more c h rn k hr hd h7 hf hw ha hb => ⟨fun hc => ?_, fun hc hk => ?_⟩, fun s k f fell ht hk hf hl h1 => ?_,
    fun s t f p hf => ⟨claimAgain_held hf, fun hacq had hc ho hsend => claimAgain_claims hf hacq had hc ho hsend⟩,
    fun r s f a v chunk more c hr hd h8 hf hrn ha hb => ⟨fun hc => ?_, fun hc => ?_⟩⟩,
    fun s k fell ht hk hf hrn hne => ⟨fun h1 => ?_, fun h1 ho hs => ?_⟩, completeTo_next⟩
  · subst hc
    exact (exec_iloopClaimReply hr hd hf ha hb).trans (claimed_first_skips h7 hw)
  · exact (exec_iloopClaimReply hr hd hf ha hb).trans (claimed_first_takes h7 hw hc hk)
  · exact (completeTo_of_claim ht (loopEnd_claims 3 _ fell (m := s.me.retire) hk hf hl h1)).trans (congrArg _ (State.modMe_congr _ _ _ rfl))
  · subst hc
    exact (exec_iloopClaimReply hr hd hf ha hb).trans (claimed_later_frees h8)
  · exact (exec_iloopClaimReply hr hd hf ha hb).trans (claimed_later_goes_back h8 hc hrn)
  · refine (completeTo_of_back ht (loopEnd_back 3 _ fell (m := s.me.retire) hk hf h1) hrn).trans ?_
    rw [State.modMe_modMe]
    exact congrArg (fun t : State => Host.Outcome.next (t.traced 0 _)) (State.modMe_congr _ _ _ rfl)
  · have hgo := loopEnd_frees 3 s.me.retire.pc fell (m := s.me.retire) hk hf h1
    rw [loopEnd_of_noLevel 3 _ _ _ (innermost_setLc_of_only (m := s.me.retire) hs ho)] at hgo
    exact (completeTo_of_go ht hgo).trans (congrArg _ (State.modMe_congr _ _ _ rfl))

end Sys2Proof.Machine
end

/-! Strand slots (O18). -/
section
namespace Sys2Proof.Machine

variable {s t u v : State} {i : Instr} {k b : Nat}

/-! New strands and ended ones. -/

/-- A strand that enters another slot leaves the one in focus. -/
theorem me_enter (f : Strand → Strand) (h : k ≠ s.slot) : (s.enter s.core k b f).me = s.me :=
  (strandAt_modCore (f := fun x : Core => { x with endRec := Tbl.del x.endRec k, grantNext := max x.grantNext (b + 1) }) (fun _ => rfl) s.core s.slot).trans
    (me_modStrand_other (s := s) k _ h)

/-- A child that becomes ready leaves the strand in focus. -/
theorem me_startChild (h : k ≠ s.slot) : (s.startChild k).me = s.me := me_modStrand_other k _ h

/-- A helper's slot is one of 1 to 15 (R248). -/
theorem freeHelper_pos {c : Core} (h : c.freeHelper b = some k) : 1 ≤ k := by
  obtain ⟨j, -, rfl⟩ := List.mem_map.1 (List.mem_of_find?_eq_some h)
  omega

/-- The pool computes shrink targets, and whether a strand is live stays (R262). -/
theorem live_poolEvent (cl c k : Nat) : ((s.poolEvent cl).strandAt c k).live = (s.strandAt c k).live := by
  unfold State.poolEvent
  dsimp only
  split
  · exact foldl_modStrand_keeps (P := fun m => m.live = (s.strandAt c k).live) (f := fun m => { m with shrink := none }) (fun _ h => h) c k _ s rfl
  · split
    · refine foldl_modStrand_keeps (P := fun m => m.live = (s.strandAt c k).live)
        (f := fun m => if 2 ≤ m.g then { m with shrink := some (min (m.g - 1) _) } else m) (fun m h => ?_) c k _ s rfl
      split
      · exact h
      · exact h
    · rfl

/-- A strand that ends by its own form frees its slot (R138, R250). -/
theorem live_endStrand (c k : Nat) : ((s.endStrand c k false).strandAt c k).live = false := by
  rw [State.endStrand, live_poolEvent, State.strandAt_modStrand]
  rfl

/-! `strand.start` (R137). -/

/-- The state after the strand in focus has put a helper into slot k, at target t with argument arg, whose number is still to be written to d (R137). -/
def State.startsHelper (s : State) (k : Nat) (t arg : Word) (d : Code) : State :=
  (s.enter s.core k (s.myCore.cycle - 1) (fun x => { x with
    status := .out, stage := 12, pc := t, s := Tbl.set [] 1 arg 0, st := s.me.st &&& 3, ctx := s.me.ctx, tspace := s.me.tspace, tvec := s.me.tvec,
    heapb := s.me.heapb, heapl := s.me.heapl, heapo := s.me.heapo, priv := s.me.priv, sag := s.me.sag, task := s.me.task, spec := s.me.spec, seq := s.me.seq,
    undob := s.me.undob, undop := s.me.undop })).modMe (fun m => { m with stage := 9, work := [d.toNat, k] })

/-- The instruction in progress is the starter's, also after its child has become ready. -/
theorem cur_startsHelper {x arg : Word} (d : Code) (h : k ≠ s.slot) : (((s.startsHelper k x arg d).put d (word k)).startChild k).me.cur = s.me.cur := by
  have hput : KeepsStrand (s.startsHelper k x arg d) ((s.startsHelper k x arg d).put d (word k)) := (KeepsStrand.refl _).ofOperandFrame (.put d _)
  rw [me_startChild (by rw [hput.slot]; exact h), hput.cur, State.startsHelper, State.me_modMe, me_enter _ h]

/-- A `strand.start` of slot 0 whose target and argument have been read. -/
theorem exec_strandStart (o : FmtA) {x arg : Word} (h : s.Starts (.strandStart o)) (hd : dstOk o.d = true) (h0 : s.slot = 0) (hacc : s.accepts o.d = true)
    (ha : s.Gives o.a o.x x u) (hb : u.Gives o.b o.y arg v) (he : x.getLsbD 0 = false) :
    exec (.strandStart o) s = if v.myCore.cycle - 1 < v.myCore.grantNext then hold v
      else match v.myCore.freeHelper (v.myCore.cycle - 1) with
        | none => finish o.d 0 v
        | some k => deliverTo o.d.toNat (word k) (v.startsHelper k x arg o.d) (fun s => complete (s.startChild k)) := by
  obtain ⟨hx, -, -⟩ := id ha
  obtain ⟨hy, -, -⟩ := id hb
  have hrole : ¬ (decide (s.slot ≠ 0) && (s.me.spec.isNone || s.me.inverse)) = true := by simp [h0]
  change execStrandStart o s = _
  rw [execStrandStart, hx, hy, hd, Bool.and_self, Bool.and_self, plain_of_starts h, if_neg hrole, withDst_of_accepts _ _ hacc,
    two_of_gives o x arg u v _ h.begins.reads_eq h.begins.slot_lt ha hb, toTarget_even _ he]
  rfl

theorem strandStart_gives_slot (o : FmtA) {x arg : Word} (h : s.Starts (.strandStart o)) (hd : dstOk o.d = true) (h0 : s.slot = 0) (hacc : s.accepts o.d = true)
    (ha : s.Gives o.a o.x x u) (hb : u.Gives o.b o.y arg v) (he : x.getLsbD 0 = false) (hgrant : v.myCore.grantNext ≤ v.myCore.cycle - 1)
    (hk : v.myCore.freeHelper (v.myCore.cycle - 1) = some k) (hr : (v.startsHelper k x arg o.d).room o.d = true) :
    Completes (.strandStart o) s (((v.startsHelper k x arg o.d).put o.d (word k)).startChild k) := by
  have hkeeps := KeepsStrand.givesTwo h.begins ha hb
  have hslot : k ≠ v.slot := by
    have hpos := freeHelper_pos hk
    rw [hkeeps.slot, h0]
    omega
  refine completes_of_exec ?_ ((cur_startsHelper o.d hslot).trans (hkeeps.cur.trans h.begins.cur_eq))
  rw [exec_strandStart o h hd h0 hacc ha hb he, if_neg (by omega), hk]
  exact deliverTo_of_room o.d (word k) _ hr

/-! The other forms (R138, R139). -/

theorem exec_strandHalt (h : s.Starts .strandHalt) (hl : s.me.laneLoads = 0) : exec .strandHalt s = .next ((s.endStrand s.core s.slot false).specEnded s.me) := by
  change execStrandHalt s = _
  rw [execStrandHalt, plain_of_starts h, if_neg (by simp [hl])]

theorem strandSlot_completes (o : FmtDst) (h : s.Starts (.strandSlot o)) (hd : dstOk o.d = true) (hr : s.room o.d = true) :
    Completes (.strandSlot o) s (s.put o.d (word (s.slot + (s.myCore.liveSlots.map (fun k => 2 ^ k)).sum * 2 ^ 16))) := by
  refine completes_of_finish ?_ hr h.begins.cur_eq
  change execStrandSlot o s = _
  rw [execStrandSlot, hd, plain_of_starts h, withDst_of_room _ _ hr, foldl_add_eq_sum]

/-- A queue on which no strand is parked is emptied and bound (R258). -/
theorem strandQbind_completes (o : FmtTwo) {a b : Word} (h : s.Starts (.strandQbind o)) (ha : s.Gives o.a o.x a u) (hb : u.Gives o.b o.y b v)
    (hpop : (v.myCore.queue (bitsOf a 0 3)).poppers = []) (hpush : (v.myCore.queue (bitsOf a 0 3)).pushers = []) :
    Completes (.strandQbind o) s (v.modMyCore (fun c => c.modQueue (bitsOf a 0 3) (fun _ => ⟨[], some (bitsOf b 0 4, bitsOf b 4 4), [], [], []⟩))) := by
  obtain ⟨hx, -, -⟩ := id ha
  obtain ⟨hy, -, -⟩ := id hb
  refine completes_of_exec ?_ ?_
  · change execStrandQbind o s = _
    rw [execStrandQbind, hx, hy, Bool.and_self, plain_of_starts h, readSrc_of_gives (by rw [h.begins.reads_eq]; rfl) ha,
      readSrc_of_gives (length_reads_of_first h.begins ha) hb]
    simp only [hpop, hpush, List.append_nil, List.foldl_nil]
  · rw [me_modMyCore_queue]
    exact (KeepsStrand.givesTwo h.begins ha hb).cur.trans h.begins.cur_eq

/-- Settles O18. -/
theorem strandFormsComplete : Obligations.StrandFormsComplete := by
  refine ⟨fun o s s2 t arg h hp hx hy hd h0 hacc ha hb hs2 he => ⟨fun hgrant => ?_, fun hgrant hk hr => ?_, fun k hgrant hk hr => ?_⟩,
    fun s h hp hl => ⟨exec_strandHalt ⟨h, hp⟩ hl, live_endStrand _ _⟩, fun o s h hp hd hr => strandSlot_completes o ⟨h, hp⟩ hd hr,
    fun o s s2 a b h hp hx hy ha hb hs2 hpop hpush => strandQbind_completes o ⟨h, hp⟩ ⟨hx, ha, rfl⟩ ⟨hy, hb, hs2⟩ hpop hpush⟩
  · rw [exec_strandStart o ⟨h, hp⟩ hd h0 hacc ⟨hx, ha, rfl⟩ ⟨hy, hb, hs2⟩ he, if_pos hgrant, hold]
  · have hkeeps : KeepsStrand s s2 := KeepsStrand.givesTwo h ⟨hx, ha, rfl⟩ ⟨hy, hb, hs2⟩
    refine completes_of_finish ?_ hr (hkeeps.cur.trans h.cur_eq)
    rw [exec_strandStart o ⟨h, hp⟩ hd h0 hacc ⟨hx, ha, rfl⟩ ⟨hy, hb, hs2⟩ he, if_neg (by omega), hk]
  · exact strandStart_gives_slot o ⟨h, hp⟩ hd h0 hacc ⟨hx, ha, rfl⟩ ⟨hy, hb, hs2⟩ he hgrant hk hr

end Sys2Proof.Machine
end

/-! Answers, results and retries (O33). -/
section
namespace Sys2Proof.Machine

variable {s s0 t u : State} {c k : Nat}

/-! What a change of memory that is told to waiters leaves. -/

/-- From s to t memory and the dies are as they were. -/
structure SameStore (s t : State) : Prop where
  mem : t.mem = s.mem
  dies : t.dies = s.dies

namespace SameStore

theorem refl (s : State) : SameStore s s := ⟨rfl, rfl⟩

/-- What leaves memory and the dies. -/
theorem same (h : SameStore s0 s) (e : (t.mem, t.dies) = (s.mem, s.dies)) : SameStore s0 t := by
  obtain ⟨hmem, hdies⟩ := Prod.mk.inj e
  exact ⟨hmem.trans h.mem, hdies.trans h.dies⟩

theorem ite {p : Prop} [Decidable p] (h : SameStore s t) (h' : SameStore s u) : SameStore s (if p then t else u) := by
  split
  · exact h
  · exact h'

theorem foldl {α : Type} {f : State → α → State} (l : List α) (hf : ∀ {t a}, SameStore s0 t → SameStore s0 (f t a)) (h : SameStore s0 s) : SameStore s0 (l.foldl f s) := by
  induction l generalizing s with
  | nil => exact h
  | cons a l ih => exact ih (hf h)

theorem modSag {g : Nat} {f : Saggar → Saggar} (h : SameStore s0 s) : SameStore s0 (s.modSag g f) :=
  h.same (by rw [State.modSag_mem, State.modSag_dies])

theorem countPoison {sag : Nat} (h : SameStore s0 s) : SameStore s0 (s.countPoison c k sag) := modSag (h.same rfl)

theorem bumpUnit {l : Nat} {f : Repair → Repair} (h : SameStore s0 s) : SameStore s0 (s.bumpUnit l f) := by
  unfold State.bumpUnit
  split
  · exact h.same rfl
  · exact h

theorem meetWord {l : Nat} (h : SameStore s0 s) : SameStore s0 (s.meetWord l) := by
  unfold State.meetWord
  split
  · exact .ite (bumpUnit (h.same rfl)) (.ite (bumpUnit (h.same rfl)) (h.same rfl))
  · exact h

theorem meet (l n : Nat) (h : SameStore s0 s) : SameStore s0 (s.meet l n) := .ite h (foldl _ (fun h => h.meetWord) h)

theorem answer {m : Msg} {b : AckBody} (h : SameStore s0 s) : SameStore s0 (s.answer m b) := h.same rfl

theorem replyLoad {m : Msg} {p : Bool} {v : Word} (h : SameStore s0 s) : SameStore s0 (s.replyLoad m p v) :=
  .ite h.answer (.ite h.answer (answer (.ite h.countPoison h.modSag)))

theorem settleSignals {l : Nat} (h : SameStore s0 s) : SameStore s0 (s.settleSignals l) :=
  same (foldl _ (fun h => h.replyLoad) (h.meet l 8)) rfl

/-- Telling the waiters of a word leaves memory and the dies (R207). -/
theorem changed {l n : Nat} (h : SameStore s0 s) : SameStore s0 (s.changed l n) := foldl _ (fun h => h.settleSignals) h

end SameStore

/-- A store of several bytes is read back (R178). -/
theorem byte_setBytes_same (l : Nat) (bs : List Byte) (h : s.Canonical) : ∀ i < bs.length, (s.setBytes l bs).byte (l + i) = bs.getD i 0 := by
  induction bs generalizing s l with
  | nil => exact fun i hi => absurd hi (Nat.not_lt_zero i)
  | cons b bs ih =>
    intro i hi
    cases i with
    | zero => exact (byte_setBytes_other (l + 1) l bs (by omega)).trans (byte_setByte_same l b h)
    | succ i =>
      rw [List.length_cons] at hi
      rw [State.setBytes, show l + (i + 1) = l + 1 + i by omega, ih (l + 1) (canonical_setByte l b h) i (by omega), List.getD_cons_succ]

theorem dies_setBytes (l : Nat) (bs : List Byte) : (s.setBytes l bs).dies = s.dies := by
  induction bs generalizing s l with
  | nil => rfl
  | cons b bs ih => exact ih (s := s.setByte l b) (l + 1)

/-! Replies (R189, R405). -/

theorem exec_homeReply {id sl uid : Nat} {r : Reply} (h : s.acks[k]? = some ⟨id, c, sl, uid, .reply r, true⟩) (hr : s.relocking c = false)
    (ha : s.alive c sl uid = true) (hd : (s.strandAt c sl).dying = false) (h7 : (s.strandAt c sl).stage ≠ 7) (h8 : (s.strandAt c sl).stage ≠ 8) :
    exec (.homeReply k) s = .next ((State.modStrand { s with acks := dropAt s.acks k } c sl (fun m => { m with reply := some r, status := .ready })).wakeUnit c) := by
  change execHomeReply k s = _
  simp only [execHomeReply, h, hr, ha, hd, Bool.not_true, Bool.false_eq_true, if_false, h7, h8, decide_false, Bool.or_self]

/-- A reply without a cause is written to its destination, and the instruction is over (R109, R166). -/
theorem finishReply_of_room {v : Word} {more : List Word} {d : Code} (hr : s.me.reply = some ⟨v, more, 0⟩) (hw : s.me.work = [d.toNat]) (hroom : s.room d = true) :
    finishReply s = complete ((s.put d v).modMe Strand.wrapUp) := by
  have hadm : ¬ (decide (48 ≤ d.toNat) && decide (d.toNat < 56) && !(s.myCore.queue (d.toNat - 48)).admits s.slot true) = true := by
    have hacc := accepts_of_room hroom
    rw [State.accepts] at hacc
    simp only [Bool.and_eq_true, decide_eq_true_eq, Bool.not_eq_true']
    rintro ⟨⟨h48, h56⟩, hno⟩
    rw [if_neg (by omega), if_pos ⟨h48, h56⟩, hno] at hacc
    exact Bool.false_ne_true hacc
  simp only [finishReply, hr, hw, ne_eq, not_true_eq_false, if_false]
  rw [if_neg hadm, deliverTo_of_room d v _ hroom]
  rfl

/-- A reply with a cause is raised (R403). -/
theorem finishReply_of_cause {v : Word} {more : List Word} {d : Nat} {w : List Nat} {cause : Nat} (hr : s.me.reply = some ⟨v, more, cause⟩) (hw : s.me.work = d :: w)
    (hc : cause ≠ 0) : finishReply s = takeTrapCode cause s.me.pc v s := by
  simp only [finishReply, hr, hw]
  exact if_pos hc

/-! Acknowledgements (R177, R189). -/

theorem exec_nonreturningUpdateApplied {id sl uid : Nat} (h : s.acks[k]? = some ⟨id, c, sl, uid, .update, true⟩) (hr : s.relocking c = false) (ha : s.alive c sl uid = true) :
    exec (.nonreturningUpdateApplied k) s = .next (State.modStrand { s with acks := dropAt s.acks k } c sl (fun m => { m with pend := m.pend - 1 })) := by
  change execNonreturningUpdateApplied k s = _
  simp only [execNonreturningUpdateApplied, h, hr, ha, Bool.false_eq_true, if_false, if_true]

theorem exec_storeAcknowledgement {id sl uid : Nat} (h : s.acks[k]? = some ⟨id, c, sl, uid, .store, true⟩) (hr : s.relocking c = false) :
    exec (.storeAcknowledgement k) s = .next { s with acks := dropAt s.acks k } := by
  change execStoreAcknowledgement k s = _
  simp only [execStoreAcknowledgement, h, hr, Bool.false_eq_true, if_false]

/-! Results and load data (R110, R176). -/

/-- A result that has come fills its register, or makes its strand ready to write it. -/
theorem fillResult_eq (c k : Nat) (p : Pend) : s.fillResult c k p = s.modStrand c k (fun m =>
    let u := { m with pending := m.pending.filter (fun q => q.id != p.id) }
    if p.d < 32 ∧ ¬(m.stage = 9 ∧ m.work.head? = some p.d) then u.setS p.d p.val else { u with reply := some ⟨p.val, [], 0⟩, status := .ready }) := by
  simp only [State.fillResult, Bool.and_eq_true, decide_eq_true_eq, Bool.not_eq_true', Bool.and_eq_false_iff, decide_eq_false_iff_not, beq_eq_false_iff_ne,
    ne_eq, not_and_or]

theorem exec_longLatencyResult {r : StrandRef} {p : Pend} (h : ((s.strandOf r).pending.filter (fun p => !p.load && decide (p.parts = 0)))[k]? = some p)
    (hd : (s.strandOf r).dying = false) (hr : s.relocking r.core = false) : exec (.longLatencyResult r k) s = .next (s.fillResult r.core r.slot p) := by
  change execLongLatencyResult r k s = _
  simp only [execLongLatencyResult, h, hr, hd, Bool.false_eq_true, if_false]

/-- The bits of a load extended to a register (R179). -/
theorem signExt_eq_signed (n v : Nat) : signExt n v = BitVec.ofInt 64 (signed n v) := by
  rw [signExt, signed]
  split
  · rw [BitVec.ofInt_natCast]
  · rfl

theorem signed_mod (n v : Nat) : signed n (v % 2 ^ n) = signed n v := by rw [signed, signed, Nat.mod_mod]

/-- The last part of a load of n bits, all in one part, gives its extended value. -/
theorem extended_of_word (p : Pend) (v : Word) {n : Nat} (hw : p.width = n) (hn : n ≤ 64) :
    Pend.extended { p with val := word (v.toNat % 2 ^ n) } = if p.sx then BitVec.ofInt 64 (signed n v.toNat) else word (v.toNat % 2 ^ n) := by
  have hlt : v.toNat % 2 ^ n < 2 ^ 64 := Nat.lt_of_lt_of_le (Nat.mod_lt _ (by positivity)) (Nat.pow_le_pow_right (by omega) hn)
  have hval : (word (v.toNat % 2 ^ n)).toNat = v.toNat % 2 ^ n := by rw [word, BitVec.toNat_ofNat, Nat.mod_eq_of_lt hlt]
  rw [Pend.extended, hw, hval, Nat.mod_mod, signExt_eq_signed, signed_mod]

/-- Data that is the one part of a load to an s register, and met no poison, fills it (R176). -/
theorem fillLoad_of_part {sl n : Nat} {v : Word} {p : Pend} (hf : (s.strandAt c sl).pending.find? (fun q => q.id = p.id) = some p) (hparts : p.parts = 1)
    (hbad : p.bad = none) (hval : p.val = 0) : s.fillLoad c sl p.id 0 n 0 v none = s.fillResult c sl { p with
      val := Pend.extended { p with val := word (v.toNat % 2 ^ n) }, parts := 0, bad := none } := by
  have htake : (0 : Word) ||| word (LoadDst.take v n 0 * 2 ^ 0) = word (v.toNat % 2 ^ n) := by
    rw [LoadDst.take, Nat.pow_zero, Nat.div_one, Nat.mul_one]
    exact BitVec.zero_or
  simp only [State.fillLoad, hf, hparts, hbad, hval, htake]
  rfl

theorem exec_loadDataReturn {r : StrandRef} {id uid i sh n lo : Nat} {v : Word} (h : s.acks[k]? = some ⟨id, r.core, r.slot, uid, .data (.reg i sh n lo) v none, true⟩)
    (ha : s.alive r.core r.slot uid = true) (hd : (s.strandOf r).dying = false) (hr : s.relocking r.core = false) :
    exec (.loadDataReturn r k) s = .next (State.fillLoad { s with acks := dropAt s.acks k } r.core r.slot i sh n lo v none) := by
  have hd' : (s.strandAt r.core r.slot).dying = false := hd
  change execLoadDataReturn r k s = _
  simp only [execLoadDataReturn, h, ha, hd', hr, ne_eq, not_true_eq_false, or_self, if_false, Bool.not_true, Bool.false_eq_true, Bool.false_and]

/-! Parked stores (R175). -/

/-- Two changes of a core that agree on it are one. -/
theorem modCore_congr {f g : Core → Core} (h : f (s.coreAt c) = g (s.coreAt c)) : s.modCore c f = s.modCore c g := by
  have h' : f (Tbl.get s.cores c Core.init) = g (Tbl.get s.cores c Core.init) := h
  simp only [State.modCore, Tbl.upd, h']

/-- The entry at the head of a replay queue, of one access, is retried. -/
theorem exec_replayRetry_head {m : Msg} {why : ReplayWhy} {h : Word × Word × Word} {rest : List Replay} (hq : (s.coreAt c).replay = ⟨[m], why, h⟩ :: rest)
    (hs : (s.coreAt c).saved = none) (hr : s.relocking c = false) (ht : State.retryAll c [m] s h = .ok t) : exec (.replayRetry c 0) s = .next t := by
  change execReplayRetry c 0 s = _
  simp only [execReplayRetry, hq, hs, hr, List.getElem?_cons_zero, List.take_zero, List.any_nil, Option.isSome_none, Bool.or_self, Bool.false_eq_true, if_false, ht]

/-- An access that passes its checks stays parked while it may not be performed (R175, R287). -/
theorem retryAll_waits {m m' : Msg} {h : Word × Word × Word} (hre : s.recheck m h = .ok (.go m', u)) (hw : u.mustWait m' = true) :
    State.retryAll c [m] s h = .ok u := by
  simp only [State.retryAll, hre, hw, if_true]

/-- An access that passes its checks leaves the queue and is performed at its home (R175, R296). -/
theorem retryAll_goes {m m' : Msg} {why : ReplayWhy} {h : Word × Word × Word} {rest : List Replay} (hre : s.recheck m h = .ok (.go m', u))
    (hw : u.mustWait m' = false) (hq : (u.coreAt c).replay = ⟨[m], why, h⟩ :: rest) (hrest : ∀ r ∈ rest, r.msgs ≠ [m]) :
    State.retryAll c [m] s h =
      .ok (((((u.modCore c (fun x => { x with replay := ⟨[], why, h⟩ :: rest })).wakeHomes m').reach m' ⟨false, false⟩)).drainReplay c) := by
  have htail : modIf rest (fun r => decide (r.msgs = [m])) (fun r => { r with msgs := [] }) = rest := by
    refine (List.map_congr_left (fun r hr => ?_)).trans (List.map_id rest)
    exact if_neg (by simp [hrest r hr])
  have hqueue : u.modCore c (fun x => { x with replay := modIf x.replay (fun r => decide (r.msgs = [m])) (fun r => { r with msgs := [] }) }) =
      u.modCore c (fun x => { x with replay := ⟨[], why, h⟩ :: rest }) := by
    refine modCore_congr ?_
    have hhead : modIf (⟨[m], why, h⟩ :: rest) (fun r => decide (r.msgs = [m])) (fun r => { r with msgs := [] }) =
        ⟨[], why, h⟩ :: modIf rest (fun r => decide (r.msgs = [m])) (fun r => { r with msgs := [] }) := by
      simp [modIf]
    rw [hq, hhead, htail]
  simp only [State.retryAll, hre, hw, Bool.false_eq_true, if_false, hqueue]

/-! While a die relocks (R441). -/

theorem homeReply_relocking {id sl uid : Nat} {r : Reply} {q : Bool} (hr : s.relocking c = true) (h : s.acks[k]? = some ⟨id, c, sl, uid, .reply r, q⟩) :
    exec (.homeReply k) s = .next (s.wakeUnit c) := by
  change execHomeReply k s = _
  simp only [execHomeReply, h, hr, if_true]

theorem storeAcknowledgement_relocking {id sl uid : Nat} {q : Bool} (hr : s.relocking c = true) (h : s.acks[k]? = some ⟨id, c, sl, uid, .store, q⟩) :
    exec (.storeAcknowledgement k) s = .next s := by
  change execStoreAcknowledgement k s = _
  simp only [execStoreAcknowledgement, h, hr, if_true]

theorem nonreturningUpdateApplied_relocking {id sl uid : Nat} {q : Bool} (hr : s.relocking c = true) (h : s.acks[k]? = some ⟨id, c, sl, uid, .update, q⟩) :
    exec (.nonreturningUpdateApplied k) s = .next s := by
  change execNonreturningUpdateApplied k s = _
  simp only [execNonreturningUpdateApplied, h, hr, if_true]

theorem loadDataReturn_relocking {id sl uid i sh n lo : Nat} {v : Word} {bad : Option Nat} {q : Bool} (hr : s.relocking c = true)
    (h : s.acks[k]? = some ⟨id, c, sl, uid, .data (.reg i sh n lo) v bad, q⟩) (ha : s.alive c sl uid = true) : exec (.loadDataReturn ⟨c, sl⟩ k) s = .next s := by
  change execLoadDataReturn ⟨c, sl⟩ k s = _
  simp only [execLoadDataReturn, h, ha, hr, ne_eq, not_true_eq_false, or_self, if_false, Bool.not_true, Bool.false_eq_true, Bool.true_and, if_true]
  cases hd : (s.strandAt c sl).dying with
  | true => rw [Bool.true_or, if_pos rfl]
  | false => rw [if_neg Bool.false_ne_true, ite_self]

theorem longLatencyResult_relocking {sl : Nat} (hr : s.relocking c = true) : exec (.longLatencyResult ⟨c, sl⟩ k) s = .next s := by
  change execLongLatencyResult ⟨c, sl⟩ k s = _
  unfold execLongLatencyResult
  split
  · rw [if_pos hr]
  · rfl

theorem replayRetry_relocking (hr : s.relocking c = true) : exec (.replayRetry c k) s = .next s := by
  change execReplayRetry c k s = _
  unfold execReplayRetry
  dsimp only
  split
  · rfl
  · rw [hr, Bool.or_true, Bool.true_or, if_pos rfl]

/-- A parked strand whose wait is over may issue, unless its die relocks (R252, R441). -/
theorem exec_strandWake {r : StrandRef} {w : Wait} (hw : (s.strandOf r).status = .parked w) (hl : (s.strandOf r).live = true) (hd : (s.strandOf r).dying = false)
    (hs : (s.coreAt r.core).saved = none) (hr : s.relocking r.core = false) :
    exec (.strandWake r) s = .next (if s.waitOver r w then s.modStrand r.core r.slot (fun x => { x with status := .ready }) else s) := by
  change execStrandWake r s = _
  simp only [execStrandWake, hw, hl, hd, hs, hr, Bool.not_false, Option.isNone_none, Bool.true_and]
  cases s.waitOver r w <;> rfl

theorem strandWake_relocking {sl : Nat} (hr : s.relocking c = true) : exec (.strandWake ⟨c, sl⟩) s = .next s := by
  change execStrandWake ⟨c, sl⟩ s = _
  unfold execStrandWake
  dsimp only
  split
  · rw [hr, Bool.not_true, Bool.and_false, Bool.false_and, if_neg Bool.false_ne_true]
  · rfl

/-! The buffer of a die (R292, R412). -/

/-- The oldest write of a die's buffer reaches memory, or takes a number on its way to a peer. -/
theorem exec_pendingWriteDrain {die : Nat} {w : PendWrite} {rest : List PendWrite} (hq : (s.dieAt die).pwb = w :: rest) (hcan : s.Canonical) :
    ∃ t, exec (.pendingWriteDrain die) s = .next t ∧ (t.dieAt die).pwb = rest ∧
      (spaceOf w.loc ≠ 3 → (∀ i, i < w.bytes.length → t.byte (w.loc + i) = w.bytes.getD i 0) ∧
        (∀ l, l < w.loc ∨ w.loc + w.bytes.length ≤ l → t.byte l = s.byte l)) ∧
      (spaceOf w.loc = 3 → t.mem = s.mem ∧ (s.cutOff w.loc = false → ∀ p ∈ s.peers, p.reaches w.loc = true →
        { p with sendSeq := (p.sendSeq + 1) % 2 ^ 32, unacked := p.unacked ++ [⟨p.sendSeq, p.gen, .write w⟩] } ∈ t.peers)) := by
  have hexec : exec (.pendingWriteDrain die) s = .next (
      let s' := s.modDie die (fun d => { d with pwb := rest })
      if s.cutOff w.loc then s'.peerError w.loc false
      else if spaceOf w.loc = 3 then s'.sendPeer w.loc (.write w)
      else (s'.setBytes w.loc w.bytes).changed w.loc w.bytes.length) := by
    change execPendingWriteDrain die s = _
    simp only [execPendingWriteDrain, hq, apply_ite Host.Outcome.next]
    rfl
  have hdie (x : State) (h : x.dies = (s.modDie die (fun d => { d with pwb := rest })).dies) : (x.dieAt die).pwb = rest := by
    rw [State.dieAt, h, ← State.dieAt, State.dieAt_modDie]
  refine ⟨_, hexec, ?_⟩
  dsimp only
  by_cases hcut : s.cutOff w.loc = true
  · have hpeer : spaceOf w.loc = 3 := by
      rw [State.cutOff, Bool.and_eq_true, decide_eq_true_eq] at hcut
      exact hcut.1
    rw [if_pos hcut]
    exact ⟨hdie _ rfl, fun hne => absurd hpeer hne, fun _ => ⟨rfl, fun hno => absurd hcut (by rw [hno]; exact Bool.false_ne_true)⟩⟩
  · rw [if_neg hcut]
    by_cases hpeer : spaceOf w.loc = 3
    · rw [if_pos hpeer]
      refine ⟨hdie _ rfl, fun hne => absurd hpeer hne, fun _ => ⟨rfl, fun _ p hp hreach => ?_⟩⟩
      exact List.mem_map.2 ⟨p, hp, if_pos hreach⟩
    · rw [if_neg hpeer]
      have hsame : SameStore (State.setBytes (s.modDie die (fun d => { d with pwb := rest })) w.loc w.bytes) _ :=
        SameStore.changed (l := w.loc) (n := w.bytes.length) (.refl _)
      have hbyte (l : Nat) := congrArg (fun m => Tbl.get m l (0 : Byte)) hsame.mem
      refine ⟨hdie _ (hsame.dies.trans (dies_setBytes _ _)), fun _ => ⟨fun i hi => ?_, fun l hl => ?_⟩, fun h => absurd h hpeer⟩
      · exact (hbyte _).trans (byte_setBytes_same (s := s.modDie die (fun d => { d with pwb := rest })) w.loc w.bytes (Canonical.of_eq hcan rfl rfl rfl) i hi)
      · exact (hbyte _).trans (byte_setBytes_other (s := s.modDie die (fun d => { d with pwb := rest })) w.loc l w.bytes hl)

/-- Two changes of a strand that agree on it are one. -/
theorem modStrand_congr {sl : Nat} {f g : Strand → Strand} (h : f (s.strandAt c sl) = g (s.strandAt c sl)) : s.modStrand c sl f = s.modStrand c sl g := by
  have h' : f (Tbl.get (s.coreAt c).slots sl Strand.empty) = g (Tbl.get (s.coreAt c).slots sl Strand.empty) := h
  refine modCore_congr ?_
  simp only [Tbl.upd, h']

/-- Settles O33. -/
theorem answersReachTheirStrand : Obligations.AnswersReachTheirStrand := by
  refine ⟨fun k id c sl uid r s => exec_homeReply, fun s v more d => finishReply_of_room, fun s v more d w c => finishReply_of_cause,
    fun k id c sl uid s => exec_nonreturningUpdateApplied, fun k id c sl uid s => exec_storeAcknowledgement, fun r k s p h hd hr => ?_,
    fun r k id n uid v s p h ha hd hr hf hparts hbad hwidth hval hn hpos h32 h9 => ?_,
    fun c s m why h rest u m' hq hs hr hrest hre hqu => ⟨fun hw => ?_, fun hw => ⟨_, ?_, rfl⟩⟩,
    fun c s hr => ⟨fun k id sl uid r q => homeReply_relocking hr, fun k id sl uid q => storeAcknowledgement_relocking hr,
      fun k id sl uid q => nonreturningUpdateApplied_relocking hr, fun k id sl uid i sh n lo v bad q => loadDataReturn_relocking hr,
      fun sl k => longLatencyResult_relocking hr, fun k => replayRetry_relocking hr, fun sl => strandWake_relocking hr⟩,
    fun die s w rest => exec_pendingWriteDrain, fun r s w => exec_strandWake⟩
  · rw [exec_longLatencyResult h hd hr, fillResult_eq]
  · have hload := fillLoad_of_part (s := { s with acks := dropAt s.acks k }) (sl := r.slot) (n := n) (v := v) hf hparts hbad hval
    rw [extended_of_word p v hwidth hn, fillResult_eq] at hload
    exact (exec_loadDataReturn h ha hd hr).trans (congrArg Host.Outcome.next (hload.trans (modStrand_congr (if_pos ⟨h32, h9⟩))))
  · exact exec_replayRetry_head hq hs hr (retryAll_waits hre hw)
  · exact exec_replayRetry_head hq hs hr (retryAll_goes hre hw hqu hrest)

end Sys2Proof.Machine
end

/-! Privileged system operations (O50). -/
section
namespace Sys2Proof.Machine

variable {s t u v : State} {i : Instr} {a b x : Word} {c g k n : Nat}

/-! The checks of a `sysop` (R77, R142). -/

/-- Outside privileged mode a `sysop` traps before anything else (R77, R142). -/
theorem sysop_traps {ok : Bool} {k : State → Out} (he : exec i s = checked s.me.priv false ok s k) (h : s.Begins i) (hp : s.me.priv = false) :
    Traps i s s 3 (word (encode i)) := by
  rw [Traps, he, hp, checked_privileged _ _ _ h.stage_eq, h.curWord_eq]
  rfl

/-- In privileged mode a `sysop` with legal operand codes begins. -/
theorem sysop_begins {ok : Bool} (h : s.Starts i) (hp : s.me.priv = true) (hok : ok = true) (k : State → Out) : checked s.me.priv false ok s k = k s := by
  rw [hp, hok]
  exact plain_of_starts h k

/-! The core that a `sysop` names (R142). -/

/-- A change of a saggar that leaves its rectangle leaves which clusters lie in which saggar. -/
theorem inSaggar_modSag {f : Saggar → Saggar} (hf : ∀ x, (f x).cfg = x.cfg) (g' cl : Nat) : (s.modSag g f).inSaggar g' cl = s.inSaggar g' cl := by
  unfold State.modSag
  split
  · next y hy =>
    by_cases hg : g' = g
    · subst hg
      have hput : State.sagAt { s with saggars := Tbl.put s.saggars g' (f y) } g' = some (f y) := Tbl.find_put_same ..
      simp only [State.inSaggar, hput, hy, Saggar.holds, hf]
    · have hput : State.sagAt { s with saggars := Tbl.put s.saggars g (f y) } g' = s.sagAt g' := Tbl.find_put_other _ _ _ _ hg
      simp only [State.inSaggar, hput]
  · rfl

/-- Counting a poisoned value leaves which clusters lie in which saggar. -/
theorem inSaggar_countPoison (sag g cl : Nat) : (s.countPoison c k sag).inSaggar g cl = s.inSaggar g cl := by
  refine (inSaggar_modSag (s := s.modStrand c k _) ?_ g cl).trans rfl
  exact fun _ => rfl

/-- Reading a source leaves which clusters lie in which saggar. -/
theorem inSaggar_took (code : Code) (y : Bool) (x : Word) (g cl : Nat) : (s.took code y x).inSaggar g cl = s.inSaggar g cl := by
  rcases took_cases s code y x with ⟨r, he⟩ | ⟨r, n, he⟩ | ⟨r, n, he⟩ | ⟨r, n, he⟩ | ⟨r, q, he⟩ | ⟨r, q, -, he⟩ <;> rw [he]
  case inr.inr.inr.inr.inr => exact inSaggar_countPoison s.me.sag g cl
  all_goals rfl

/-- Reading a source leaves the log of translations. -/
theorem logRing_took (code : Code) (y : Bool) (x : Word) : (s.took code y x).logRing = s.logRing := by
  rcases took_cases s code y x with ⟨r, he⟩ | ⟨r, n, he⟩ | ⟨r, n, he⟩ | ⟨r, n, he⟩ | ⟨r, q, he⟩ | ⟨r, q, -, he⟩ <;> rw [he]
  case inr.inr.inr.inr.inr =>
    simp only [State.countPoison, State.count, State.modSag]
    split
    · rfl
    · rfl
  all_goals rfl

theorem logRing_gives {code : Code} {y : Bool} (hg : s.Gives code y x u) : u.logRing = s.logRing := by
  obtain ⟨-, -, rfl⟩ := hg
  exact logRing_took ..

theorem OperandFrame.givesTwo {code code' : Code} {y y' : Bool} (h : s.Begins i) (ha : s.Gives code y a u) (hb : u.Gives code' y' b v) : OperandFrame 0 s v := by
  have hslot : u.slot < 16 := (KeepsStrand.gives ha h.slot_lt).slot ▸ h.slot_lt
  obtain ⟨-, -, rfl⟩ := ha
  obtain ⟨-, -, rfl⟩ := hb
  exact (OperandFrame.took _ _ _ h.slot_lt).trans (.took _ _ _ hslot)

/-- A strand that only operands have changed is in the same saggar. -/
theorem KeepsStrand.sag (h : KeepsStrand s t) : t.me.sag = s.me.sag := show t.me.rest.sag = s.me.rest.sag by rw [h.rest]

theorem sysopCore_gives {code : Code} {y : Bool} {x : Word} (hg : s.Gives code y x u) (hs : s.slot < 16) (a : Word) : u.sysopCore a = s.sysopCore a := by
  obtain ⟨-, -, rfl⟩ := hg
  rw [State.sysopCore, (KeepsStrand.took code y x hs).sag, inSaggar_took, State.sysopCore]

/-- A core of the strand's own saggar (R142). -/
theorem sysopCore_of_here (h : a.toNat < Config.cores ∧ s.inSaggar s.me.sag (clusterOf a.toNat) = true) : s.sysopCore a = some a.toNat :=
  if_pos (by rw [h.2, Bool.and_true, decide_eq_true_eq]; exact h.1)

/-- Any other value names no core (R142). -/
theorem sysopCore_of_not_here (h : ¬(a.toNat < Config.cores ∧ s.inSaggar s.me.sag (clusterOf a.toNat) = true)) : s.sysopCore a = none :=
  if_neg (fun hand => h (by simpa only [Bool.and_eq_true, decide_eq_true_eq] using hand))

/-! `sysop.tlbinv` (R142, R395). -/

/-- The range of a `sysop.tlbinv`: a length of 0 stands for the whole address space (R142). -/
def State.tlbinvRange (s : State) (a b : Word) : State :=
  if b = 0 then s.tlbInvalidate s.me.sag 0 (2 ^ 64) else s.tlbInvalidate s.me.sag a.toNat (a.toNat + b.toNat)

theorem KeepsStrand.tlbinvRange (a b : Word) : KeepsStrand s (s.tlbinvRange a b) := .ite (.same (.refl s) rfl) (.same (.refl s) rfl)

/-- An invalidation leaves memory, the log and TIME. -/
theorem tlbinvRange_leaves (a b : Word) : (s.tlbinvRange a b).mem = s.mem ∧ (s.tlbinvRange a b).logRing = s.logRing ∧ (s.tlbinvRange a b).time = s.time := by
  unfold State.tlbinvRange
  split
  · exact ⟨rfl, rfl, rfl⟩
  · exact ⟨rfl, rfl, rfl⟩

theorem exec_sysopTlbinv (o : FmtTwo) (h : s.Starts (.sysopTlbinv o)) (hp : s.me.priv = true) (ha : s.Gives o.a o.x a u) (hb : u.Gives o.b o.y b v) :
    exec (.sysopTlbinv o) s = complete ((v.tlbinvRange a b).logEdit v.me.sag a.toNat b.toNat 255 1 0) := by
  obtain ⟨hx, -, -⟩ := id ha
  obtain ⟨hy, -, -⟩ := id hb
  change execSysopTlbinv o s = _
  rw [execSysopTlbinv, sysop_begins h hp (by rw [hx, hy, Bool.and_self]), readSrc_of_gives (by rw [h.begins.reads_eq]; rfl) ha,
    readSrc_of_gives (length_reads_of_first h.begins ha) hb]
  rfl

/-- Whether a translation of a saggar maps a byte of [lo, hi). -/
def Tlb.meets (e : Tlb) (sag lo hi : Nat) : Prop := e.sag = sag ∧ e.va < hi ∧ lo < e.va + 2 ^ e.bits

/-- The translations that an invalidation keeps. -/
theorem keeps_iff_not_meets (e : Tlb) (sag lo hi : Nat) :
    (!(decide (e.sag = sag) && decide (e.va < hi) && decide (lo < e.va + 2 ^ e.bits))) = true ↔ ¬e.meets sag lo hi := by
  rw [Tlb.meets, Bool.not_eq_true', ← Bool.not_eq_true, Bool.and_eq_true, Bool.and_eq_true, decide_eq_true_eq, decide_eq_true_eq, decide_eq_true_eq, and_assoc]

theorem mem_tlb_clusterAt_tlbInvalidate (sag lo hi n : Nat) (e : Tlb) :
    e ∈ ((s.tlbInvalidate sag lo hi).clusterAt n).tlb ↔ e ∈ (s.clusterAt n).tlb ∧ ¬e.meets sag lo hi := by
  rw [State.clusterAt, Tbl.get, State.tlbInvalidate, State.clusterAt, Tbl.get]
  dsimp only
  rw [Tbl.find_map (fun _ (c : Cluster) => { c with tlb := c.tlb.filter (fun e => !(decide (e.sag = sag) && decide (e.va < hi) && decide (lo < e.va + 2 ^ e.bits))) })]
  cases Tbl.find s.clusters n with
  | none => simp [Cluster.init]
  | some x => rw [Option.map_some, Option.getD_some, List.mem_filter, keeps_iff_not_meets, Option.getD_some]

theorem mem_tlb_dieAt_tlbInvalidate (sag lo hi n : Nat) (e : Tlb) :
    e ∈ ((s.tlbInvalidate sag lo hi).dieAt n).tlb ↔ e ∈ (s.dieAt n).tlb ∧ ¬e.meets sag lo hi := by
  rw [State.dieAt, Tbl.get, State.tlbInvalidate, State.dieAt, Tbl.get]
  dsimp only
  rw [Tbl.find_map (fun _ (d : Die) => { d with tlb := d.tlb.filter (fun e => !(decide (e.sag = sag) && decide (e.va < hi) && decide (lo < e.va + 2 ^ e.bits))) })]
  cases Tbl.find s.dies n with
  | none => simp [Die.init]
  | some x => rw [Option.map_some, Option.getD_some, List.mem_filter, keeps_iff_not_meets, Option.getD_some]

/-- What a `sysop.tlbinv` drops of the translations below 2^64. -/
theorem mem_tlb_tlbinvRange (a b : Word) (n : Nat) (e : Tlb) (he : e.va < 2 ^ 64) :
    let gone := e.sag = s.me.sag ∧ (b = 0 ∨ (e.va < a.toNat + b.toNat ∧ a.toNat < e.va + 2 ^ e.bits))
    (e ∈ ((s.tlbinvRange a b).clusterAt n).tlb ↔ e ∈ (s.clusterAt n).tlb ∧ ¬gone) ∧ (e ∈ ((s.tlbinvRange a b).dieAt n).tlb ↔ e ∈ (s.dieAt n).tlb ∧ ¬gone) := by
  intro gone
  unfold State.tlbinvRange
  by_cases hb : b = 0
  · have hgone : e.meets s.me.sag 0 (2 ^ 64) ↔ gone :=
      and_congr_right (fun _ => iff_of_true ⟨he, Nat.add_pos_right _ (by positivity)⟩ (.inl hb))
    rw [if_pos hb, mem_tlb_clusterAt_tlbInvalidate, mem_tlb_dieAt_tlbInvalidate, hgone]
    exact ⟨.rfl, .rfl⟩
  · have hgone : e.meets s.me.sag a.toNat (a.toNat + b.toNat) ↔ gone := and_congr_right (fun _ => (or_iff_right hb).symm)
    rw [if_neg hb, mem_tlb_clusterAt_tlbInvalidate, mem_tlb_dieAt_tlbInvalidate, hgone]
    exact ⟨.rfl, .rfl⟩

theorem sysopTlbinv_completes (o : FmtTwo) (h : s.Starts (.sysopTlbinv o)) (hp : s.me.priv = true) (ha : s.Gives o.a o.x a u) (hb : u.Gives o.b o.y b v) :
    Completes (.sysopTlbinv o) s ((v.tlbinvRange a b).logEdit v.me.sag a.toNat b.toNat 255 1 0) := by
  refine completes_of_exec (exec_sysopTlbinv o h hp ha hb) ?_
  have hlog : KeepsStrand v ((v.tlbinvRange a b).logEdit v.me.sag a.toNat b.toNat 255 1 0) :=
    .same (.tlbinvRange a b) rfl
  rw [((KeepsStrand.givesTwo h.begins ha hb).trans hlog).cur, h.begins.cur_eq]

/-! Debug stops of another core (R432, R433). -/

/-- From s to t the focus is the same, and of the cores only c may have changed. -/
structure OffCore (c : Nat) (s t : State) : Prop where
  core : t.core = s.core
  slot : t.slot = s.slot
  others : ∀ c', c' ≠ c → t.coreAt c' = s.coreAt c'

namespace OffCore

theorem refl (c : Nat) (s : State) : OffCore c s s := ⟨rfl, rfl, fun _ _ => rfl⟩

theorem trans (h : OffCore c s t) (h' : OffCore c t u) : OffCore c s u :=
  ⟨h'.core.trans h.core, h'.slot.trans h.slot, fun c' hc => (h'.others c' hc).trans (h.others c' hc)⟩

theorem modCore (f : Core → Core) : OffCore c s (s.modCore c f) := ⟨rfl, rfl, fun _ hc => State.coreAt_modCore_other _ _ _ _ hc⟩

theorem modStrand (f : Strand → Strand) : OffCore c s (s.modStrand c k f) := modCore _

theorem modCluster (cl : Nat) (f : Cluster → Cluster) : OffCore c s (s.modCluster cl f) := ⟨rfl, rfl, fun _ _ => rfl⟩

theorem undoRead (r : Read) (h : s.core = c) : OffCore c s (s.undoRead r) := by
  subst h
  unfold State.undoRead
  split
  · exact refl _ s
  · split
    · exact modStrand _
    · split
      · exact modStrand _
      · exact modStrand _
  · exact modCore _

theorem foldl_undoRead (rs : List Read) (h : s.core = c) : OffCore c s (rs.foldl State.undoRead s) := by
  induction rs generalizing s with
  | nil => exact refl c s
  | cons r rs ih =>
    have hr := undoRead r h
    exact hr.trans (ih (hr.core.trans h))

theorem undoReads (h : s.core = c) : OffCore c s s.undoReads := by
  have hreads := foldl_undoRead s.me.reads.reverse h
  refine hreads.trans ?_
  have hcore := hreads.core.trans h
  subst hcore
  exact modStrand _

theorem backOff (k : Nat) : OffCore c s (s.backOff ⟨c, k⟩) := by
  unfold State.backOff
  dsimp only
  split
  · refine ⟨rfl, rfl, fun c' hc => ?_⟩
    refine ((modCluster _ _).others c' hc).trans (((modStrand _).others c' hc).trans ?_)
    exact (undoReads (s := { s with core := c, slot := k }) rfl).others c' hc
  · exact refl c s

theorem backOffAll : OffCore c s (s.backOffAll c) := by
  unfold State.backOffAll
  induction List.range 16 generalizing s with
  | nil => exact refl c s
  | cons k ks ih => exact (backOff k).trans ih

/-- A debug stop of a core leaves every other core (R433). -/
theorem stopCore : OffCore c s (s.stopCore c) := by
  unfold State.stopCore
  split
  · exact refl c s
  · split
    · exact modCore _
    · exact backOffAll.trans (modCore _)

theorem myCore (h : OffCore c s t) (hc : c ≠ s.core) : t.myCore = s.myCore := by rw [State.myCore, h.core, h.others _ (Ne.symm hc), State.myCore]

theorem me (h : OffCore c s t) (hc : c ≠ s.core) : t.me = s.me := by
  have hcore : t.coreAt t.core = s.coreAt s.core := h.myCore hc
  rw [State.me, State.strandAt, hcore, h.slot]
  rfl

theorem room (h : OffCore c s t) (hc : c ≠ s.core) (d : Code) : t.room d = s.room d := by
  rw [State.room, h.me hc, h.myCore hc, h.slot, State.room]

end OffCore

theorem exec_sysopStopcore (o : FmtUn) (h : s.Starts (.sysopStopcore o)) (hp : s.me.priv = true) (hd : dstOk o.d = true) (hacc : s.accepts o.d = true)
    (ha : s.Gives o.a o.x a u) : (s.sysopCore a = none → exec (.sysopStopcore o) s = finish o.d 2 u) ∧
    (∀ c, s.sysopCore a = some c → exec (.sysopStopcore o) s = if c = s.core then finish o.d 3 u else if u.isStopped c then finish o.d 1 u
      else if (u.stopCore c).quiet c then finish o.d 0 (u.stopCore c) else hold ((u.stopCore c).modMe (fun m => { m with stage := 1, work := [c] }))) := by
  obtain ⟨hx, -, -⟩ := id ha
  have hstage : ¬ s.me.stage = 1 := by rw [h.begins.stage_eq]; omega
  have he : exec (.sysopStopcore o) s = execSysopStopcore o s := rfl
  rw [execSysopStopcore, sysop_begins h hp (by rw [hx, hd, Bool.and_self]), if_neg hstage, withDst_of_accepts _ _ hacc,
    readSrc_of_gives (by rw [h.begins.reads_eq]; rfl) ha] at he
  refine ⟨fun hno => ?_, fun c hc => ?_⟩
  · rw [he, sysopCore_gives ha h.begins.slot_lt, hno]
  · rw [he, sysopCore_gives ha h.begins.slot_lt, hc, ← (KeepsStrand.gives ha h.begins.slot_lt).core]

theorem exec_sysopResumecore (o : FmtUn) (h : s.Starts (.sysopResumecore o)) (hp : s.me.priv = true) (hd : dstOk o.d = true) (hacc : s.accepts o.d = true)
    (ha : s.Gives o.a o.x a u) : (s.sysopCore a = none → exec (.sysopResumecore o) s = finish o.d 2 u) ∧
    (∀ c, s.sysopCore a = some c → exec (.sysopResumecore o) s =
      if (u.coreAt c).stopped then finish o.d 0 (u.modCore c (fun x => { x with stopped := false })) else finish o.d 1 u) := by
  obtain ⟨hx, -, -⟩ := id ha
  have he : exec (.sysopResumecore o) s = execSysopResumecore o s := rfl
  rw [execSysopResumecore, sysop_begins h hp (by rw [hx, hd, Bool.and_self]), withDst_of_accepts _ _ hacc,
    readSrc_of_gives (by rw [h.begins.reads_eq]; rfl) ha] at he
  refine ⟨fun hno => ?_, fun c hc => ?_⟩
  · rw [he, sysopCore_gives ha h.begins.slot_lt, hno]
  · rw [he, sysopCore_gives ha h.begins.slot_lt, hc]
    rfl

/-- What a `sysop.stopcore` answers (R142, R143). -/
theorem sysopStopcore_cases (o : FmtUn) (h : s.Starts (.sysopStopcore o)) (hp : s.me.priv = true) (hd : dstOk o.d = true) (hacc : s.accepts o.d = true)
    (ha : s.Gives o.a o.x a u) (hr : u.room o.d = true) :
    let c := a.toNat
    let here := c < Config.cores ∧ s.inSaggar s.me.sag (clusterOf c) = true
    (¬here → Completes (.sysopStopcore o) s (u.put o.d 2)) ∧
    (here → c = s.core → Completes (.sysopStopcore o) s (u.put o.d 3)) ∧
    (here → c ≠ s.core → u.isStopped c = true → Completes (.sysopStopcore o) s (u.put o.d 1)) ∧
    (here → c ≠ s.core → u.isStopped c = false → (u.stopCore c).quiet c = true → Completes (.sysopStopcore o) s ((u.stopCore c).put o.d 0)) ∧
    (here → c ≠ s.core → u.isStopped c = false → (u.stopCore c).quiet c = false → exec (.sysopStopcore o) s = .next ((u.stopCore c).modMe
      (fun m => { m with stage := 1, work := [c], status := .held }))) := by
  obtain ⟨hnone, hsome⟩ := exec_sysopStopcore o h hp hd hacc ha
  have hkeeps : KeepsStrand s u := .gives ha h.begins.slot_lt
  have hcur : u.me.cur = some (.sysopStopcore o) := hkeeps.cur.trans h.begins.cur_eq
  refine ⟨fun hno => completes_of_finish (hnone (sysopCore_of_not_here hno)) hr hcur, fun hh hc => ?_, fun hh hc hs => ?_, fun hh hc hs hq => ?_, fun hh hc hs hq => ?_⟩
  · exact completes_of_finish ((hsome _ (sysopCore_of_here hh)).trans (if_pos hc)) hr hcur
  · exact completes_of_finish ((hsome _ (sysopCore_of_here hh)).trans ((if_neg hc).trans (if_pos hs))) hr hcur
  · have hoff : OffCore a.toNat u (u.stopCore a.toNat) := .stopCore
    have hc' : a.toNat ≠ u.core := by rwa [hkeeps.core]
    exact completes_of_finish ((hsome _ (sysopCore_of_here hh)).trans ((if_neg hc).trans ((if_neg (ne_true_of_eq_false hs)).trans (if_pos hq))))
      ((hoff.room hc' _).trans hr) ((congrArg Strand.cur (hoff.me hc')).trans hcur)
  · rw [hsome _ (sysopCore_of_here hh), if_neg hc, if_neg (ne_true_of_eq_false hs), if_neg (ne_true_of_eq_false hq), hold, State.modMe_modMe]

/-- What a `sysop.resumecore` answers (R142). -/
theorem sysopResumecore_cases (o : FmtUn) (h : s.Starts (.sysopResumecore o)) (hp : s.me.priv = true) (hd : dstOk o.d = true) (hacc : s.accepts o.d = true)
    (ha : s.Gives o.a o.x a u) (hr : u.room o.d = true) :
    let c := a.toNat
    let here := c < Config.cores ∧ s.inSaggar s.me.sag (clusterOf c) = true
    (¬here → Completes (.sysopResumecore o) s (u.put o.d 2)) ∧
    (here → (u.coreAt c).stopped = false → Completes (.sysopResumecore o) s (u.put o.d 1)) ∧
    (here → (u.coreAt c).stopped = true → ((u.modCore c (fun x => { x with stopped := false })).room o.d = true) →
      Completes (.sysopResumecore o) s ((u.modCore c (fun x => { x with stopped := false })).put o.d 0)) := by
  obtain ⟨hnone, hsome⟩ := exec_sysopResumecore o h hp hd hacc ha
  have hkeeps : KeepsStrand s u := .gives ha h.begins.slot_lt
  have hcur : u.me.cur = some (.sysopResumecore o) := hkeeps.cur.trans h.begins.cur_eq
  refine ⟨fun hno => completes_of_finish (hnone (sysopCore_of_not_here hno)) hr hcur, fun hh hs => ?_, fun hh hs hroom => ?_⟩
  · exact completes_of_finish ((hsome _ (sysopCore_of_here hh)).trans (if_neg (ne_true_of_eq_false hs))) hr hcur
  · have hresume : KeepsStrand u (u.modCore a.toNat (fun x => { x with stopped := false })) := .modCore (fun _ => rfl) (.refl u)
    exact completes_of_finish ((hsome _ (sysopCore_of_here hh)).trans (if_pos hs)) hroom (hresume.cur.trans hcur)

/-- A `sysop.stopcore` that waits for its core's stop (R143). -/
theorem exec_sysopStopcore_later (o : FmtUn) (h : s.me.stage = 1) (hw : s.me.work = [c]) :
    exec (.sysopStopcore o) s = if s.quiet c || !(s.coreAt c).stopped then finish o.d 0 s else hold s := by
  change execSysopStopcore o s = _
  rw [execSysopStopcore, checked_later _ _ _ _ (by rw [h]; omega), if_pos h, hw]
  rfl

/-! `sysop.sample` (R142, R435). -/

/-- The TIME of a new pulse is a multiple of 100, at least 2000 and less than 2100 ahead (R435). -/
theorem hundredUp_bounds (n : Nat) : hundredUp n % 100 = 0 ∧ n ≤ hundredUp n ∧ hundredUp n < n + 100 := by
  rw [hundredUp]
  omega

/-- A pulse still to come is not latched. -/
theorem latchPulse_of_pending (h : s.pulse = some n) (ht : s.time < n) : s.latchPulse = s := by
  simp only [State.latchPulse, h]
  rw [if_pos ht]

theorem latchPulse_of_none (h : s.pulse = none) : s.latchPulse = s := by simp only [State.latchPulse, h]

/-- The pulse whose TIME has come is over once it is latched, and the strand in focus and TIME stay (R435). -/
theorem latchPulse_of_due (h : s.pulse = some n) (ht : n ≤ s.time) : s.latchPulse.pulse = none ∧ s.latchPulse.time = s.time ∧ s.latchPulse.me = s.me := by
  simp only [State.latchPulse, h]
  rw [if_neg (Nat.not_lt.2 ht)]
  exact ⟨rfl, rfl, strandAt_mapCores (fun c x => { x with sampled := s.sampleCore c }) (fun _ _ => rfl) s.core s.slot⟩

theorem exec_sysopSample (o : FmtDst) (h : s.Starts (.sysopSample o)) (hp : s.me.priv = true) (hd : dstOk o.d = true) (hacc : s.accepts o.d = true) :
    (∀ p, s.latchPulse.pulse = some p → exec (.sysopSample o) s = finish o.d (word p) s.latchPulse) ∧
    (s.latchPulse.pulse = none → exec (.sysopSample o) s =
      finish o.d (word (hundredUp (s.latchPulse.time + 2000))) { s.latchPulse with pulse := some (hundredUp (s.latchPulse.time + 2000)) }) := by
  have he : exec (.sysopSample o) s = execSysopSample o s := rfl
  rw [execSysopSample, sysop_begins h hp hd, withDst_of_accepts _ _ hacc] at he
  dsimp only at he
  refine ⟨fun p hpulse => ?_, fun hpulse => ?_⟩
  · rw [he, hpulse]
  · rw [he, hpulse]

/-- What a `sysop.sample` answers: the TIME of the pending pulse, or of a new one (R142, R435). -/
theorem sysopSample_cases (o : FmtDst) (h : s.Starts (.sysopSample o)) (hp : s.me.priv = true) (hd : dstOk o.d = true) (hacc : s.accepts o.d = true)
    (hr : s.room o.d = true) :
    (∀ t, s.pulse = some t → s.time < t → Completes (.sysopSample o) s (s.put o.d (word t))) ∧
    (∀ t, s.pulse = some t → t ≤ s.time → ∃ n u, exec .samplePulse s = .next u ∧ n % 100 = 0 ∧ s.time + 2000 ≤ n ∧ n < s.time + 2100 ∧
      (u.room o.d = true → Completes (.sysopSample o) s (State.put { u with pulse := some n } o.d (word n)))) ∧
    (s.pulse = none → ∃ t, t % 100 = 0 ∧ s.time + 2000 ≤ t ∧ t < s.time + 2100 ∧
      Completes (.sysopSample o) s (State.put { s with pulse := some t } o.d (word t))) := by
  obtain ⟨hsome, hnone⟩ := exec_sysopSample o h hp hd hacc
  obtain ⟨hmod, hlow, hhigh⟩ := hundredUp_bounds (s.time + 2000)
  refine ⟨fun t hpulse ht => ?_, fun t hpulse ht => ?_, fun hpulse => ?_⟩
  · have hlatch := latchPulse_of_pending hpulse ht
    rw [hlatch] at hsome
    exact completes_of_finish (hsome t hpulse) hr h.begins.cur_eq
  · obtain ⟨hover, htime, hme⟩ := latchPulse_of_due hpulse ht
    rw [htime] at hnone
    exact ⟨_, _, rfl, hmod, hlow, hhigh, fun hroom => completes_of_finish (hnone hover) hroom ((congrArg Strand.cur hme).trans h.begins.cur_eq)⟩
  · rw [latchPulse_of_none hpulse] at hnone
    exact ⟨_, hmod, hlow, hhigh, completes_of_finish (hnone hpulse) hr h.begins.cur_eq⟩

/-! `sysop.dump` (R142, R143, R408). -/

/-- The dump of a stopped core, once a release at device scope may proceed (R408, R271). -/
def State.dumps (s : State) (c : Nat) (b : Word) : Out :=
  if (resolve s s.myCluster s.me.sag b (8 * (s.dumpWords c).length)).isNone then trap .badAddress b s
  else storePlaces ((List.range (s.dumpWords c).length).zip (s.dumpWords c)) b [] s (fun ps s =>
    sendAll s.tagFor 1 ps s (fun s => hold (s.modMe (fun m => { m with stage := 1 }))))

theorem exec_sysopDump (o : FmtA) (h : s.Starts (.sysopDump o)) (hp : s.me.priv = true) (hacq : s.acquirePending = false) (hd : dstOk o.d = true)
    (hacc : s.accepts o.d = true) (ha : s.Gives o.a o.x a u) (hb : u.Gives o.b o.y b v) :
    (s.sysopCore a = none → exec (.sysopDump o) s = finish o.d 2 v) ∧
    (∀ c, s.sysopCore a = some c → exec (.sysopDump o) s = if !v.isStopped c then finish o.d 1 v else releasing 2 v (fun s => s.dumps c b)) := by
  obtain ⟨hx, -, -⟩ := id ha
  obtain ⟨hy, -, -⟩ := id hb
  have hstage : ¬ s.me.stage = 1 := by rw [h.begins.stage_eq]; omega
  have hcore : v.sysopCore a = s.sysopCore a :=
    (sysopCore_gives hb ((KeepsStrand.gives ha h.begins.slot_lt).slot ▸ h.begins.slot_lt) a).trans (sysopCore_gives ha h.begins.slot_lt a)
  have he : exec (.sysopDump o) s = execSysopDump o s := rfl
  rw [execSysopDump, sysop_begins h hp (by rw [hx, hy, hd]; rfl), if_neg hstage, ordered_of_free _ hacq, withDst_of_accepts _ _ hacc,
    two_of_gives o a b u v _ h.begins.reads_eq h.begins.slot_lt ha hb] at he
  refine ⟨fun hno => ?_, fun c hc => ?_⟩
  · rw [he, hcore, hno]
  · rw [he, hcore, hc]
    rfl

/-- A release that must wait holds the strand (R192). -/
theorem releasing_held {scope : Nat} (h : s.releaseOk scope = false) (k : State → Out) : releasing scope s k = .next s.heldParked :=
  if_neg (ne_true_of_eq_false h)

theorem releasing_ok {scope : Nat} (h : s.releaseOk scope = true) (k : State → Out) : releasing scope s k = k s := if_pos h

/-- A record that runs beyond the end of its space is a bad address (R271). -/
theorem dumps_of_beyond (h : resolve s s.myCluster s.me.sag b (8 * (s.dumpWords c).length) = none) : s.dumps c b = trap .badAddress b s :=
  if_pos (by rw [h]; rfl)

/-- The dwords of a dump whose places are checked go out together, and the strand waits for them (R143, R408). -/
theorem dumps_of_places {ps : List (Place × Nat × Body)} (h : resolve s s.myCluster s.me.sag b (8 * (s.dumpWords c).length) ≠ none)
    (hps : ∀ k, storePlaces ((List.range (s.dumpWords c).length).zip (s.dumpWords c)) b [] s k = k ps t) (hpark : t.myCore.replay = [])
    (hroom : t.requestRoom 1 = true) (hplaces : ∀ p ∈ ps, p.1.replay = none) :
    s.dumps c b = .next ((t.sentAll t.tagFor 1 ps).modMe (fun m => { m with stage := 1, status := .held })) := by
  have hsome : ¬(resolve s s.myCluster s.me.sag b (8 * (s.dumpWords c).length)).isNone = true := by rwa [Option.isNone_iff_eq_none]
  rw [State.dumps, if_neg hsome, hps, sendAll_of_free _ _ _ hroom hpark hplaces, hold, State.modMe_modMe]

/-- What is in flight names the addresses, sizes and data of the writes sent. -/
theorem writes_sentAll (ctx : Place → Nat) (tc : Nat) (ws : List (Place × Nat × Body)) :
    (s.sentAll ctx tc ws).net.map (fun m => (m.va, m.size, m.body)) =
      s.net.map (fun m => (m.va, m.size, m.body)) ++ ws.map (fun p => (p.1.named, p.2.1, p.2.2)) := by
  rw [net_sentAll, List.map_append, List.map_map]
  exact congrArg (_ ++ ·) (map_zip_range ws (fun p => (p.1.named, p.2.1, p.2.2)))

/-- What a `sysop.dump` answers at its first step (R142, R143, R408). -/
theorem sysopDump_cases (o : FmtA) (h : s.Starts (.sysopDump o)) (hp : s.me.priv = true) (hacq : s.acquirePending = false) (hd : dstOk o.d = true)
    (hacc : s.accepts o.d = true) (ha : s.Gives o.a o.x a u) (hb : u.Gives o.b o.y b v) :
    let c := a.toNat
    let here := c < Config.cores ∧ s.inSaggar s.me.sag (clusterOf c) = true
    let ws := v.dumpWords c
    (¬here → v.room o.d = true → Completes (.sysopDump o) s (v.put o.d 2)) ∧
    (here → v.isStopped c = false → v.room o.d = true → Completes (.sysopDump o) s (v.put o.d 1)) ∧
    (here → v.isStopped c = true → v.releaseOk 2 = false → exec (.sysopDump o) s = .next v.heldParked) ∧
    (here → v.isStopped c = true → v.releaseOk 2 = true → resolve v v.myCluster v.me.sag b (8 * ws.length) = none → Traps (.sysopDump o) s v 7 b) ∧
    (∀ (ps : List (Place × Nat × Body)) (t : State), here → v.isStopped c = true → v.releaseOk 2 = true →
      resolve v v.myCluster v.me.sag b (8 * ws.length) ≠ none → (∀ k, storePlaces ((List.range ws.length).zip ws) b [] v k = k ps t) →
      t.myCore.replay = [] → t.requestRoom 1 = true → (∀ p ∈ ps, p.1.replay = none) →
      exec (.sysopDump o) s = .next ((t.sentAll t.tagFor 1 ps).modMe (fun m => { m with stage := 1, status := .held }))) := by
  obtain ⟨hnone, hsome⟩ := exec_sysopDump o h hp hacq hd hacc ha hb
  have hkeeps : KeepsStrand s v := .givesTwo h.begins ha hb
  have hcur : v.me.cur = some (.sysopDump o) := hkeeps.cur.trans h.begins.cur_eq
  have hstored (hh : a.toNat < Config.cores ∧ s.inSaggar s.me.sag (clusterOf a.toNat) = true) (hs : v.isStopped a.toNat = true) :
      exec (.sysopDump o) s = releasing 2 v (fun s => s.dumps a.toNat b) :=
    (hsome _ (sysopCore_of_here hh)).trans (if_neg (by rw [hs]; exact Bool.false_ne_true))
  refine ⟨fun hno hr => completes_of_finish (hnone (sysopCore_of_not_here hno)) hr hcur, fun hh hs hr => ?_, fun hh hs hrel => ?_, fun hh hs hrel hres => ?_,
    fun ps t hh hs hrel hres hps hpark hroom hplaces => ?_⟩
  · exact completes_of_finish ((hsome _ (sysopCore_of_here hh)).trans (if_pos (by rw [hs]; rfl))) hr hcur
  · rw [hstored hh hs, releasing_held hrel]
  · rw [Traps, hstored hh hs, releasing_ok hrel, dumps_of_beyond hres, ← hkeeps.pc]
    rfl
  · rw [hstored hh hs, releasing_ok hrel, dumps_of_places hres hps hpark hroom hplaces]

/-- A `sysop.dump` whose writes are sent waits for them to be performed (R143). -/
theorem exec_sysopDump_later (o : FmtA) (h : s.me.stage = 1) : exec (.sysopDump o) s = releasing 2 s (finish o.d 0) := by
  change execSysopDump o s = _
  rw [execSysopDump, checked_later _ _ _ _ (by rw [h]; omega), if_pos h]

/-- Settles O50: each form by its status values. -/
theorem systemOperationsComplete : Obligations.SystemOperationsComplete := by
  refine ⟨fun o2 o1 o0 o3 s hp => ?_, fun o s u v a b h hp ha hb => ?_, fun o s u a hp hd hacc ha hr => ⟨fun h => sysopStopcore_cases o h hp hd hacc ha hr,
      fun h => sysopResumecore_cases o h hp hd hacc ha hr⟩, fun o s c _ hstage hw => ⟨fun hq hs => ?_, fun hq hr => ?_⟩,
    fun o s h hp hd hacc hr => sysopSample_cases o h hp hd hacc hr, fun o s u v a b h hp hacq hd hacc ha hb => ?_, fun o s _ hstage => ⟨fun hrel => ?_, fun hrel hr => ?_⟩⟩
  · simp only [List.forall_mem_cons]
    exact ⟨fun h => sysop_traps (Eq.refl (execSysopTlbinv o2 s)) h hp, fun h => sysop_traps (Eq.refl (execSysopStopcore o1 s)) h hp,
      fun h => sysop_traps (Eq.refl (execSysopResumecore o1 s)) h hp, fun h => sysop_traps (Eq.refl (execSysopSample o0 s)) h hp,
      fun h => sysop_traps (Eq.refl (execSysopDump o3 s)) h hp, List.forall_mem_nil _⟩
  · have hframe := OperandFrame.givesTwo h.begins ha hb
    have hsag : v.me.sag = s.me.sag := (KeepsStrand.givesTwo h.begins ha hb).sag
    obtain ⟨hmem, hlog, htime⟩ := tlbinvRange_leaves (s := v) a b
    refine ⟨_, sysopTlbinv_completes o h hp ha hb, ?_, ?_, fun n e he => ?_⟩
    · exact hmem.trans hframe.mem
    · rw [State.logEdit, hlog, htime, logRing_gives hb, logRing_gives ha, hframe.time, hsag]
    · have htlb := mem_tlb_tlbinvRange (s := v) a b n e he
      have hcluster : v.clusterAt n = s.clusterAt n := by rw [State.clusterAt, hframe.clusters, State.clusterAt]
      have hdie : v.dieAt n = s.dieAt n := by rw [State.dieAt, hframe.dies, State.dieAt]
      rw [hsag, hcluster, hdie] at htlb
      exact htlb
  · rw [exec_sysopStopcore_later o hstage hw, if_neg (by rw [hq, hs]; exact Bool.false_ne_true)]
  · rw [exec_sysopStopcore_later o hstage hw, if_pos ?_, finish_of_room _ _ hr]
    rcases hq with hq | hs
    · rw [hq, Bool.true_or]
    · rw [hs, Bool.not_false, Bool.or_true]
  · obtain ⟨hforeign, hrunning, hheld, hbeyond, hsent⟩ := sysopDump_cases o h hp hacq hd hacc ha hb
    refine ⟨hforeign, hrunning, hheld, hbeyond, fun ps t hh hs hrel hres hps hpark hroom hplaces => ?_⟩
    refine ⟨_, hsent ps t hh hs hrel hres hps hpark hroom hplaces, ?_, ?_, rfl, writes_sentAll ..⟩
    · rw [State.me_modMe]
    · rw [State.me_modMe]
  · rw [exec_sysopDump_later o hstage, releasing_held hrel]
  · rw [exec_sysopDump_later o hstage, releasing_ok hrel, finish_of_room _ _ hr]

end Sys2Proof.Machine
end

/-! Lane forms that write lanes or masks (O34, O35, O36). -/
section
namespace Sys2Proof.Machine

variable {s t u v : State} {i : Instr} {m m' : Strand}

/-! Lanes and masks after they are written. -/

/-- Writing a value, the default among them, keeps the keys in order. -/
theorem sortedFrom_set {α : Type} [DecidableEq α] (l : List (Nat × α)) (k : Nat) (x d : α) (h : Tbl.sortedFrom 0 l = true) :
    Tbl.sortedFrom 0 (Tbl.set l k x d) = true := by
  unfold Tbl.set
  split
  · exact Tbl.sortedFrom_del _ _ _ h
  · exact Tbl.sortedFrom_put _ _ _ _ (Nat.zero_le _) h

theorem laneAt_setLane (d j : Nat) (x : Lane) (r k : Nat) (hj : j < 256) (hk : k < 256) (h : Tbl.sortedFrom 0 m.v = true) :
    (m.setLane d j x).laneAt r k = if r = d ∧ k = j then x else m.laneAt r k := by
  split
  · next hrk =>
    obtain ⟨rfl, rfl⟩ := hrk
    exact Tbl.get_set_same _ _ _ _ h
  · next hrk => exact Tbl.get_set_other _ _ _ _ _ (by omega)

/-- Writing lanes changes no other part of a strand. -/
theorem Strand.setLanes_eq (d : Nat) (l : List (Nat × Lane)) : ∀ m : Strand, m.setLanes d l = { m with v := (m.setLanes d l).v } := by
  induction l with
  | nil => exact fun _ => rfl
  | cons e l ih => exact fun m => ih (m.setLane d e.1 e.2)

/-- A lane of a list that is written with values f. -/
theorem laneAt_setLanes (d : Nat) (f : Nat → Lane) (r k : Nat) (hk : k < 256) (l : List Nat) (hl : ∀ j ∈ l, j < 256) :
    ∀ m : Strand, Tbl.sortedFrom 0 m.v = true → (m.setLanes d (l.map (fun j => (j, f j)))).laneAt r k = if r = d ∧ k ∈ l then f k else m.laneAt r k := by
  induction l with
  | nil => exact fun m _ => (if_neg (by simp)).symm
  | cons j l ih =>
    obtain ⟨hj, hl⟩ := List.forall_mem_cons.1 hl
    intro m h
    rw [List.map_cons, show m.setLanes d ((j, f j) :: l.map (fun j => (j, f j))) = (m.setLane d j (f j)).setLanes d (l.map (fun j => (j, f j))) from rfl,
      ih hl _ (sortedFrom_set _ _ _ _ h), laneAt_setLane d j (f j) r k hj hk h]
    by_cases hr : r = d
    · by_cases hkj : k = j
      · simp [hr, hkj]
      · simp [hr, hkj]
    · simp [hr]

/-- The strand after f is written to the lanes of register d below vl that p picks, and flags fl are raised. -/
def Strand.writeLanes (m : Strand) (d : Nat) (p : Nat → Bool) (f : Nat → Lane) (fl : Nat) : Strand :=
  (m.setLanes d (((List.range m.vl).filter p).map (fun j => (j, f j)))).raiseFlags fl

theorem Strand.writeLanes_eq (m : Strand) (d : Nat) (p : Nat → Bool) (f : Nat → Lane) (fl : Nat) :
    m.writeLanes d p f fl = { m with v := (m.writeLanes d p f fl).v, st := m.st ||| word fl } := by
  rw [Strand.writeLanes, Strand.setLanes_eq]
  rfl

theorem lanesTo_writeLanes (d : Nat) (p : Nat → Bool) (f : Nat → Lane) (fl : Nat) (hvl : m.vl ≤ 256) (hs : Tbl.sortedFrom 0 m.v = true) :
    LanesTo m (m.writeLanes d p f fl) d (fun j => decide (j < m.vl) && p j) f := by
  have hlanes (r k : Nat) (hk : k < 256) : (m.writeLanes d p f fl).laneAt r k = if r = d ∧ k ∈ (List.range m.vl).filter p then f k else m.laneAt r k :=
    laneAt_setLanes d f r k hk _ (fun j hj => Nat.lt_of_lt_of_le (List.mem_range.1 (List.mem_of_mem_filter hj)) hvl) m hs
  refine ⟨fun k hk => ?_, fun r k hr hk => ?_, by rw [Strand.writeLanes_eq]⟩
  · rw [hlanes d k hk]
    simp
  · rw [hlanes r k hk, if_neg (fun h => hr h.1)]

theorem maskTo_setMask (d : Nat) (x : BitVec 256) (fl : Nat) (hvl : m.vl ≤ 256) (hs : Tbl.sortedFrom 0 m.m = true) :
    MaskTo m ((m.setMask d x).raiseFlags fl) d x.getLsbD := by
  refine ⟨fun k hk => ?_, fun r hr => Tbl.get_set_other _ _ _ _ _ hr, rfl⟩
  have hmask : ((m.setMask d x).raiseFlags fl).mask d = x &&& BitVec.ofNat 256 (2 ^ m.vl - 1) := Tbl.get_set_same _ _ _ _ hs
  rw [hmask, BitVec.getLsbD_and, BitVec.getLsbD_ofNat, Nat.testBit_two_pow_sub_one]
  simp [hk, Nat.lt_of_lt_of_le hk hvl]

theorem getLsbD_maskOf {n : Nat} (p : Nat → Bool) (k : Nat) (hn : n ≤ 256) : (maskOf n p).getLsbD k = (decide (k < n) && p k) := by
  have hsorted : ((List.range n).filter p).Pairwise (· < ·) := List.pairwise_lt_range.filter p
  rw [maskOf, BitVec.getLsbD_ofNat, foldl_add_eq_sum, testBit_sum_two_pow hsorted, Bool.eq_iff_iff]
  simp only [Bool.and_eq_true, decide_eq_true_eq, List.mem_filter, List.mem_range]
  exact ⟨fun h => h.2, fun h => ⟨by omega, h⟩⟩

/-! What a lane instruction that takes effect does to lanes or a mask (R146). -/

/-- A lane instruction writes f to the lanes of its d below vl that p picks, and raises flags fl. -/
def LaneOp.Writes (o : LaneOp) (m : Strand) (p : Nat → Bool) (f : Nat → Lane) (fl : Nat) : Prop :=
  ∀ m', m.SameLanes m' → m'.runLane o = m'.writeLanes o.d p f fl

/-- A lane instruction writes mask x to its d, and raises flags fl. -/
def LaneOp.Masks (o : LaneOp) (m : Strand) (x : BitVec 256) (fl : Nat) : Prop := ∀ m', m.SameLanes m' → m'.runLane o = (m'.setMask o.d x).raiseFlags fl

/-- The flags of the active lanes, ORed (R146). -/
def Strand.flagsOf (m : Strand) (masked : Bool) (fl : Nat → Nat) : Nat := ((List.range 256).filter (m.active masked)).foldl (fun n j => n ||| fl j) 0

/-- A lane is active or not below vl alone. -/
theorem filter_active (m : Strand) (masked : Bool) (hvl : m.vl ≤ 256) :
    (List.range 256).filter (m.active masked) = (List.range m.vl).filter (fun j => !masked || (m.mask 0).getLsbD j) := by
  obtain ⟨n, hn⟩ := Nat.exists_eq_add_of_le hvl
  have hrange : List.range 256 = List.range m.vl ++ (List.range n).map (m.vl + ·) := by rw [← List.range_add, ← hn]
  rw [hrange, List.filter_append]
  have hnone : ((List.range n).map (m.vl + ·)).filter (m.active masked) = [] := by
    simp [Strand.active]
  rw [hnone, List.append_nil]
  exact List.filter_congr (fun j hj => by rw [Strand.active, decide_eq_true (List.mem_range.1 hj), Bool.true_and])

/-- An element-wise form writes its values to the active lanes and raises their flags. -/
theorem elementwise_eq (o : LaneOp) (f : Nat → Nat × Nat) (hvl : m.vl ≤ 256) : m.elementwise o f =
    m.writeLanes o.d (fun j => !o.masked || (m.mask 0).getLsbD j) (fun j => BitVec.ofNat 32 (f j).1) (m.flagsOf o.masked (fun j => (f j).2)) := by
  rw [Strand.flagsOf, filter_active m o.masked hvl]
  simp only [Strand.elementwise, Strand.writeLanes, List.map_map, List.foldl_map]
  rfl

/-- An element-wise form writes what it computes from the lanes. -/
theorem writes_of_elementwise {o : LaneOp} {f : Nat → Nat × Nat} (hvl : m.vl ≤ 256) (he : ∀ m', m.SameLanes m' → m'.runLane o = m'.elementwise o f) :
    o.Writes m (fun j => !o.masked || (m.mask 0).getLsbD j) (fun j => BitVec.ofNat 32 (f j).1) (m.flagsOf o.masked (fun j => (f j).2)) := by
  intro m' h
  rw [he m' h, elementwise_eq o f (h.vl ▸ hvl), Strand.flagsOf, Strand.flagsOf, h.mask,
    show m'.active o.masked = m.active o.masked from funext (h.active _)]

theorem fp_writes (f : FOp) (masked : Bool) (d a : Nat) (b : Code) (w sa : Option Word) (g : Gov) (id : Nat) (hvl : m.vl ≤ 256) :
    let r := fun (j : Nat) => f.run g (m.laneAt a j) (m.laneB w b j) (m.laneAt d j)
    LaneOp.Writes ⟨.fp f, masked, d, a, b.toNat, w, sa, g, id⟩ m (fun j => !masked || (m.mask 0).getLsbD j) (fun j => BitVec.ofNat 32 (r j).1)
      (m.flagsOf masked (fun j => (r j).2)) := by
  intro r
  refine writes_of_elementwise (f := r) hvl (fun m' h => ?_)
  simp only [r, Strand.laneB, ← h.laneAt]
  rfl

/-- The form with vector operands alone. -/
theorem fpVector_writes (f : FOp) (masked : Bool) (d a b : Nat) (sa : Option Word) (g : Gov) (id : Nat) (hvl : m.vl ≤ 256) :
    let r := fun (j : Nat) => f.run g (m.laneAt a j) (m.laneAt b j) (m.laneAt d j)
    LaneOp.Writes ⟨.fp f, masked, d, a, b, none, sa, g, id⟩ m (fun j => !masked || (m.mask 0).getLsbD j) (fun j => BitVec.ofNat 32 (r j).1)
      (m.flagsOf masked (fun j => (r j).2)) := by
  intro r
  refine writes_of_elementwise (f := r) hvl (fun m' h => ?_)
  simp only [r, ← h.laneAt]
  rfl

/-- Without flags there are none to raise. -/
theorem flagsOf_zero (m : Strand) (masked : Bool) : m.flagsOf masked (fun _ => 0) = 0 :=
  List.foldlRecOn (motive := (· = 0)) _ _ rfl (fun n hn _ _ => by rw [hn, Nat.or_self])

/-- An element-wise form without flags writes lanes. -/
theorem writes_of_lanes {o : LaneOp} {f : Nat → Lane} (hvl : m.vl ≤ 256) (he : ∀ m', m.SameLanes m' → m'.runLane o = m'.elementwise o (fun j => ((f j).toNat, 0))) :
    o.Writes m (fun j => !o.masked || (m.mask 0).getLsbD j) f 0 := by
  have h := writes_of_elementwise hvl he
  simpa only [flagsOf_zero, BitVec.ofNat_toNat, BitVec.setWidth_eq] using h

theorem int_writes (f : IOp) (masked : Bool) (d a : Nat) (b : Code) (w sa : Option Word) (g : Gov) (id : Nat) (hvl : m.vl ≤ 256) :
    LaneOp.Writes ⟨.int f, masked, d, a, b.toNat, w, sa, g, id⟩ m (fun j => !masked || (m.mask 0).getLsbD j)
      (fun j => f.run (m.laneAt a j) (m.laneB w b j)) 0 := by
  refine writes_of_lanes (o := ⟨.int f, masked, d, a, b.toNat, w, sa, g, id⟩) hvl (fun m' h => ?_)
  simp only [Strand.laneB, ← h.laneAt]
  rfl

theorem intVector_writes (f : IOp) (masked : Bool) (d a b : Nat) (sa : Option Word) (g : Gov) (id : Nat) (hvl : m.vl ≤ 256) :
    LaneOp.Writes ⟨.int f, masked, d, a, b, none, sa, g, id⟩ m (fun j => !masked || (m.mask 0).getLsbD j)
      (fun j => f.run (m.laneAt a j) (m.laneAt b j)) 0 := by
  refine writes_of_lanes (o := ⟨.int f, masked, d, a, b, none, sa, g, id⟩) hvl (fun m' h => ?_)
  simp only [← h.laneAt]
  rfl

theorem vmv_writes (masked : Bool) (d a b : Nat) (w sa : Option Word) (g : Gov) (id : Nat) (hvl : m.vl ≤ 256) :
    LaneOp.Writes ⟨.vmv, masked, d, a, b, w, sa, g, id⟩ m (fun j => !masked || (m.mask 0).getLsbD j) (fun j => m.laneAt b j) 0 := by
  refine writes_of_lanes (o := ⟨.vmv, masked, d, a, b, w, sa, g, id⟩) hvl (fun m' h => ?_)
  simp only [← h.laneAt]
  rfl

theorem cvt_writes (src dst : Nat) (masked : Bool) (d a : Nat) (b : Code) (w sa : Option Word) (g : Gov) (id : Nat) (hvl : m.vl ≤ 256) :
    let r := fun (j : Nat) => cvtRun src dst g (m.laneAt b.toNat j)
    LaneOp.Writes ⟨.cvt src dst, masked, d, a, b.toNat, w, sa, g, id⟩ m (fun j => !masked || (m.mask 0).getLsbD j) (fun j => BitVec.ofNat 32 (r j).1)
      (m.flagsOf masked (fun j => (r j).2)) := by
  intro r
  refine writes_of_elementwise (f := r) hvl (fun m' h => ?_)
  simp only [r, ← h.laneAt]
  rfl

/-- What a compare makes of two lanes under g: a mask bit and flags (R160). -/
def COp.lane (f : COp) (g : Gov) (x y : Lane) : Bool × Nat :=
  if f.isInt then (f.runInt x y, 0) else cmpVal f (valueOf g.fa x.toNat) (valueOf g.fb y.toNat)

/-- The active lanes with what a compare makes of each. -/
def Strand.compared (m : Strand) (masked : Bool) (r : Nat → Bool × Nat) : List (Nat × Bool × Nat) :=
  ((List.range m.vl).filter (fun j => !masked || (m.mask 0).getLsbD j)).map (fun j => (j, r j))

theorem any_compared (m : Strand) (masked : Bool) (r : Nat → Bool × Nat) (q : Bool → Bool) (j : Nat) :
    (m.compared masked r).any (fun e => decide (e.1 = j) && q e.2.1) = (m.active masked j && q (r j).1) := by
  rw [Bool.eq_iff_iff]
  simp only [Strand.compared, List.any_map, List.any_eq_true, List.mem_filter, List.mem_range, Function.comp_apply, Strand.active, Bool.and_eq_true, decide_eq_true_eq]
  constructor
  · rintro ⟨k, hk, rfl, hq⟩
    exact ⟨hk, hq⟩
  · exact fun ⟨hj, hq⟩ => ⟨j, hj, rfl, hq⟩

theorem foldl_flags_compared (masked : Bool) (r : Nat → Bool × Nat) (hvl : m.vl ≤ 256) :
    (m.compared masked r).foldl (fun n e => n ||| e.2.2) 0 = m.flagsOf masked (fun j => (r j).2) := by
  rw [Strand.compared, Strand.flagsOf, filter_active m masked hvl, List.foldl_map]

/-- The mask of a compare: the bits of the lanes that fail it are cleared in x, and those of the lanes that meet it set. -/
def Strand.comparedMask (m : Strand) (masked : Bool) (x : BitVec 256) (r : Nat → Bool × Nat) : BitVec 256 :=
  (x &&& ~~~(maskOf m.vl (fun j => (m.compared masked r).any (fun e => decide (e.1 = j) && !e.2.1)))) |||
    maskOf m.vl (fun j => (m.compared masked r).any (fun e => decide (e.1 = j) && e.2.1))

theorem getLsbD_comparedMask (masked : Bool) (x : BitVec 256) (r : Nat → Bool × Nat) (hvl : m.vl ≤ 256) {j : Nat} (hj : j < m.vl) :
    (m.comparedMask masked x r).getLsbD j = if m.active masked j then (r j).1 else x.getLsbD j := by
  have h256 : j < 256 := by omega
  rw [Strand.comparedMask, BitVec.getLsbD_or, BitVec.getLsbD_and, BitVec.getLsbD_not, getLsbD_maskOf _ _ hvl, getLsbD_maskOf _ _ hvl,
    any_compared m masked r (fun b => !b), any_compared m masked r (fun b => b)]
  cases m.active masked j
  · simp [h256]
  · simp [hj, h256]

theorem cmp_masks (f : COp) (masked : Bool) (d a : Nat) (b : Code) (w sa : Option Word) (g : Gov) (id : Nat) (hvl : m.vl ≤ 256) :
    let r := fun (j : Nat) => f.lane g (m.laneAt a j) (m.laneB w b j)
    LaneOp.Masks ⟨.cmp f, masked, d, a, b.toNat, w, sa, g, id⟩ m (m.comparedMask masked (m.mask d) r) (m.flagsOf masked (fun j => (r j).2)) := by
  intro r m' h
  rw [← foldl_flags_compared masked r hvl]
  simp only [r, Strand.comparedMask, Strand.compared, Strand.laneB, ← h.laneAt, ← h.mask, ← h.vl]
  rfl

/-! How a lane form ends (R146). -/

theorem vl_le_of_ready (h : s.LanesReady) : s.me.vl ≤ 256 := by
  obtain ⟨-, hg, -⟩ := h
  rw [Strand.vl]
  omega

theorem sortedLanes_of_ready (h : s.LanesReady) : Tbl.sortedFrom 0 s.me.v = true ∧ Tbl.sortedFrom 0 s.me.m = true := by
  obtain ⟨-, -, -, -, hv, hm⟩ := h
  exact ⟨hv, hm⟩

/-- A lane instruction that nothing holds back takes effect at once (R147). -/
theorem sendLane_of_idle (o : LaneOp) (hq : s.me.laneQ = []) (hl : s.me.laneLoads = 0) : s.sendLane o = s.modMe (fun m => m.runLane o) :=
  State.modMe_congr _ _ _ (if_pos (by simp [hq, hl]))

/-- A lane form that takes effect at once ends, its effect on the strand that has consumed the prefix done. -/
theorem lane_completes {o : LaneOp} (he : exec i s = complete (v.consume.sendLane o)) (h : s.Begins i) (hk : KeepsStrand s v) (hr : s.LanesReady)
    (hcur : (v.consume.me.runLane o).cur = v.consume.me.cur) : ∃ t, Completes i s t ∧ t.me = v.consume.me.runLane o ∧ t.mem = v.mem := by
  obtain ⟨-, -, hq, hl, -⟩ := hr
  have hme := me_consume v
  rw [sendLane_of_idle o ((congrArg Strand.laneQ hme).trans (hk.laneQ.trans hq)) ((congrArg Strand.laneLoads hme).trans (hk.laneLoads.trans hl))] at he
  refine ⟨_, completes_of_exec he ?_, State.me_modMe .., mem_consume⟩
  rw [State.me_modMe, hcur, cur_consume, hk.cur, h.cur_eq]

theorem lanes_complete {o : LaneOp} {p : Nat → Bool} {f : Nat → Lane} {fl : Nat} (he : exec i s = complete (v.consume.sendLane o)) (h : s.Begins i)
    (hk : KeepsStrand s v) (hmem : v.mem = s.mem) (hr : s.LanesReady) (hw : o.Writes s.me p f fl) :
    ∃ t, Completes i s t ∧ LanesTo v.me t.me o.d (fun j => decide (j < s.me.vl) && p j) f ∧ t.me.st = v.consume.me.st ||| word fl ∧ t.mem = s.mem := by
  have hsame : s.me.SameLanes v.consume.me := hk.sameLanes.trans sameLanes_consume
  have hrun := hw _ hsame
  obtain ⟨t, hc, hme, ht⟩ := lane_completes he h hk hr (by rw [hrun, Strand.writeLanes_eq])
  have hto := lanesTo_writeLanes (m := v.consume.me) o.d p f fl (hsame.vl ▸ vl_le_of_ready hr) (hsame.v ▸ (sortedLanes_of_ready hr).1)
  refine ⟨t, hc, ?_, by rw [hme, hrun, Strand.writeLanes_eq], ht.trans hmem⟩
  rw [hme, hrun, ← hsame.vl]
  rw [me_consume] at hto ⊢
  exact hto

theorem Strand.setMask_raiseFlags_eq (m : Strand) (d : Nat) (x : BitVec 256) (fl : Nat) :
    (m.setMask d x).raiseFlags fl = { m with m := (m.setMask d x).m, st := m.st ||| word fl } := rfl

theorem masks_complete {o : LaneOp} {x : BitVec 256} {fl : Nat} (he : exec i s = complete (v.consume.sendLane o)) (h : s.Begins i)
    (hk : KeepsStrand s v) (hmem : v.mem = s.mem) (hr : s.LanesReady) (hw : o.Masks s.me x fl) :
    ∃ t, Completes i s t ∧ MaskTo v.me t.me o.d x.getLsbD ∧ t.me.st = v.consume.me.st ||| word fl ∧ t.mem = s.mem := by
  have hsame : s.me.SameLanes v.consume.me := hk.sameLanes.trans sameLanes_consume
  have hrun := hw _ hsame
  obtain ⟨t, hc, hme, ht⟩ := lane_completes he h hk hr (by rw [hrun, Strand.setMask_raiseFlags_eq])
  have hto := maskTo_setMask (m := v.consume.me) o.d x fl (hsame.vl ▸ vl_le_of_ready hr) (hsame.m ▸ (sortedLanes_of_ready hr).2)
  refine ⟨t, hc, ?_, by rw [hme, hrun, Strand.setMask_raiseFlags_eq], ht.trans hmem⟩
  rw [hme, hrun]
  rw [me_consume] at hto ⊢
  exact hto

/-- A mask form says what it sets below vl alone. -/
theorem MaskTo.congr {d : Nat} {f g : Nat → Bool} (h : MaskTo m m' d f) (hfg : ∀ j, j < m.vl → f j = g j) : MaskTo m m' d g := by
  obtain ⟨hbits, hrest⟩ := h
  exact ⟨fun j hj => (hbits j hj).trans (hfg j hj), hrest⟩

/-! Operands of lane forms. -/

/-- A source beyond those latched is read like the next one (R65). -/
theorem readSrc_beyond {j : Nat} (hj : s.me.reads.length ≤ j) (c : Code) (y : Bool) (k : Word → State → Out) :
    readSrc j c y s k = readSrc s.me.reads.length c y s k := by
  rw [readSrc, readSrc, List.getElem?_eq_none hj, List.getElem?_eq_none le_rfl]

theorem readScale_beyond {j : Nat} (hj : s.me.reads.length ≤ j) (k : Word → State → Out) : readScale j s k = readScale s.me.reads.length s k := by
  rw [readScale, readScale, readSrc_beyond hj]

/-- Lane operand b is read where it is a broadcast, and the scale register after it (R67, R96). -/
theorem operands_of_broadcast {b : Code} {w : Option Word} {sc : Word} (h : s.Begins i) (hb : s.Broadcast b w u) (hsc : u.scaleIs sc)
    (k : Option Word → Word → State → Out) : readVB 0 b s (fun x s => readScale 1 s (fun sc s => k x sc s)) = k w sc (u.tookScale sc) := by
  unfold State.Broadcast at hb
  split at hb
  · next hbc =>
    obtain ⟨x, hg, rfl⟩ := hb
    rw [readVB_of_gives (by rw [h.reads_eq]; rfl) hbc hg, readScale_of_next _ (length_reads_of_first h hg) hsc]
  · next hbc =>
    obtain ⟨rfl, rfl⟩ := hb
    rw [readVB, if_neg hbc, readScale_beyond (by rw [h.reads_eq]; exact Nat.zero_le _), readScale_of_next _ rfl hsc]

theorem KeepsStrand.broadcast {b : Code} {w : Option Word} (h : s.Begins i) (hb : s.Broadcast b w u) : KeepsStrand s u := by
  unfold State.Broadcast at hb
  split at hb
  · obtain ⟨x, hg, -⟩ := hb
    exact .gives hg h.slot_lt
  · obtain ⟨-, rfl⟩ := hb
    exact .refl _

theorem mem_broadcast {b : Code} {w : Option Word} (h : s.Begins i) (hb : s.Broadcast b w u) : u.mem = s.mem := by
  unfold State.Broadcast at hb
  split at hb
  · obtain ⟨x, hg, -⟩ := hb
    exact mem_gives h.slot_lt hg
  · obtain ⟨-, rfl⟩ := hb
    rfl

end Sys2Proof.Machine
end

/-! Element-wise lane forms (O34, O35). -/
section
namespace Sys2Proof.Machine

variable {s t u v : State} {i : Instr} {m m' : Strand}

theorem laneTwo_of_broadcast {fn : LaneFn} {takes : Bool} {dOk : Code → Bool} {codes : State → Bool} {o : FmtV} {w : Option Word} {sc : Word} (h : s.Begins i)
    (hp : s.me.prefixed = true → takes = true) (ha : vecOk o.a = true) (hd : dOk o.d = true) (hcodes : codes s = true) (hr : s.LanesReady)
    (hb : s.Broadcast o.b w u) (hsc : u.scaleIs sc) : laneTwo fn takes dOk codes o s =
      complete ((u.tookScale sc).consume.sendLane ⟨fn, o.y, o.d.toNat, o.a.toNat, o.b.toNat, w, none, s.me.gov 0 0 0 sc, 0⟩) := by
  have hk : KeepsStrand s (u.tookScale sc) := (KeepsStrand.broadcast h hb).trans (.tookScale sc ((KeepsStrand.broadcast h hb).slot_lt h.slot_lt))
  rw [laneTwo, ha, hd, hcodes, Bool.and_self, Bool.and_self, laneChecked_of_ready _ hp hr, operands_of_broadcast h hb hsc, hk.gov]

theorem laneOne_of_broadcast {fn : LaneFn} {codes : State → Bool} {o : FmtVUn} {w : Option Word} {sc : Word} (h : s.Begins i)
    (hd : vecOk o.d = true) (hcodes : codes s = true) (hr : s.LanesReady) (hb : s.Broadcast o.b w u) (hsc : u.scaleIs sc) : laneOne fn codes o s =
      complete ((u.tookScale sc).consume.sendLane ⟨fn, o.y, o.d.toNat, 0, o.b.toNat, w, none, s.me.gov 0 0 0 sc, 0⟩) := by
  have hk : KeepsStrand s (u.tookScale sc) := (KeepsStrand.broadcast h hb).trans (.tookScale sc ((KeepsStrand.broadcast h hb).slot_lt h.slot_lt))
  rw [laneOne, hd, hcodes, Bool.and_self, laneChecked_of_ready _ (fun _ => rfl) hr, operands_of_broadcast h hb hsc, hk.gov]

theorem laneN_of_ready {fn : LaneFn} {takes : Bool} {codes : State → Bool} {o : FmtN} {sc : Word} (h : s.Begins i) (hp : s.me.prefixed = true → takes = true)
    (hcodes : codes s = true) (hr : s.LanesReady) (hsc : s.scaleIs sc) : laneN fn takes codes o s =
      complete ((s.tookScale sc).consume.sendLane ⟨fn, o.m, o.d.toNat, o.d.toNat, o.b.toNat, none, none, s.me.gov 0 0 0 sc, 0⟩) := by
  rw [laneN, hcodes, laneChecked_of_ready _ hp hr, readScale_of_next _ (by rw [h.reads_eq]; rfl) hsc, (KeepsStrand.tookScale sc h.slot_lt).gov]

/-- A lane form of a strand without lanes traps NO_LANES (R145, log 1). -/
theorem laneChecked_noLanes {takes : Bool} (k : State → Out) (h : s.Begins i) (hp : s.me.prefixed = true → takes = true) (hg : s.me.g = 0) :
    laneChecked takes true s k = takeTrapCode 21 s.me.pc s.draw.1 s.draw.2 := by
  rw [laneChecked, checked_ok takes _ hp, if_pos (by simp [h.stage_eq, hg])]
  rfl

/-! Floating forms (R153 to R158). -/

theorem exec_floatTwo : ∀ p ∈ [(Instr.vfAdd, FOp.add, vfCodes), (.vfSub, .sub, vfCodes), (.vfMul, .mul, vfCodes), (.vfDiv, .div, vfCodes), (.vfMin, .min, vfCodes),
      (.vfMax, .max, vfCodes), (.vfCopysign, .copysign, vfCodes), (.vfmaFma, .fma, vfCodes), (.vfmaFms, .fms, vfCodes), (.vfmaFnma, .fnma, vfCodes),
      (.vfmaFnms, .fnms, vfCodes), (.vfxFscale, .fscale, formatsOk .low .any .low)],
    ∀ (o : FmtV) (s : State), exec (p.1 o) s = laneTwo (.fp p.2.1) true vecOk p.2.2 o s := by
  intro p hp o s
  fin_cases hp <;> rfl

theorem exec_floatOne : ∀ p ∈ [(Instr.vfAbs, FOp.abs, vf1Codes), (.vfNeg, .neg, vf1Codes), (.vfxFrintN, .frintN, vf1Codes), (.vfxFrintZ, .frintZ, vf1Codes),
      (.vfxFrintU, .frintU, vf1Codes), (.vfxFrintD, .frintD, vf1Codes), (.vfxFexpf, .fexpf, vf1Codes), (.vfxFgetexp, .fgetexp, vf1Codes),
      (.vfxFgetman, .fgetman, vf1Codes), (.vfxFrcp, .frcp, vf1Codes), (.vfxFrsq, .frsq, vf1Codes), (.vfxFclass, .fclass, formatsOk .any .low .any),
      (.vfxFsqrt, .fsqrt, vf1Codes)],
    ∀ (o : FmtVUn) (s : State), exec (p.1 o) s = laneOne (.fp p.2.1) p.2.2 o s := by
  intro p hp o s
  fin_cases hp <;> rfl

theorem exec_floatN : ∀ p ∈ [(Instr.vaddF32, FOp.add, vfCodes), (.vsubF32, .sub, vfCodes), (.vmulF32, .mul, vfCodes), (.vmaxF32, .max, vfCodes),
      (.vminF32, .min, vfCodes), (.vabsF32, .abs, vf1Codes), (.vnegF32, .neg, vf1Codes)],
    ∀ (o : FmtN) (s : State), exec (p.1 o) s = laneN (.fp p.2.1) true p.2.2 o s := by
  intro p hp o s
  fin_cases hp <;> rfl

/-- The scale register is read after the operands (R96). -/
theorem KeepsStrand.broadcastScaled {b : Code} {w : Option Word} (sc : Word) (h : s.Begins i) (hb : s.Broadcast b w u) : KeepsStrand s (u.tookScale sc) :=
  (KeepsStrand.broadcast h hb).trans (.tookScale sc ((KeepsStrand.broadcast h hb).slot_lt h.slot_lt))

theorem mem_broadcastScaled {b : Code} {w : Option Word} (sc : Word) (h : s.Begins i) (hb : s.Broadcast b w u) : (u.tookScale sc).mem = s.mem :=
  (mem_tookScale sc ((KeepsStrand.broadcast h hb).slot_lt h.slot_lt)).trans (mem_broadcast h hb)

/-- A floating form ends with its values in the active lanes and their flags in ST (R146). -/
theorem float_completes {o : LaneOp} {f : Nat → Nat × Nat} (he : exec i s = complete (v.consume.sendLane o)) (h : s.Begins i) (hk : KeepsStrand s v) (hmem : v.mem = s.mem)
    (hr : s.LanesReady) (hw : o.Writes s.me (fun j => !o.masked || (s.me.mask 0).getLsbD j) (fun j => BitVec.ofNat 32 (f j).1) (s.me.flagsOf o.masked (fun j => (f j).2))) :
    ∃ t, Completes i s t ∧ LanesTo v.me t.me o.d (s.me.active o.masked) (fun j => BitVec.ofNat 32 (f j).1) ∧
      t.me.st = v.consume.me.st ||| word (((List.range 256).filter (s.me.active o.masked)).foldl (fun n j => n ||| (f j).2) 0) ∧ t.mem = s.mem :=
  lanes_complete he h hk hmem hr hw

theorem vcvt_of_ready {o : FmtCvt} {sc : Word} (h : s.Begins i) (hb : vecOk o.b = true) (hd : vecOk o.d = true) (hcodes : anyCodes s = true) (hr : s.LanesReady)
    (hsc : s.scaleIs sc) : execVcvt o s =
      complete ((s.tookScale sc).consume.sendLane ⟨.cvt o.h.toNat o.g.toNat, o.y, o.d.toNat, 0, o.b.toNat, none, none, s.me.gov 0 0 0 sc, 0⟩) := by
  rw [execVcvt, hb, hd, hcodes, Bool.and_self, Bool.and_self, laneChecked_of_ready _ (fun _ => rfl) hr, readScale_of_next _ (by rw [h.reads_eq]; rfl) hsc,
    (KeepsStrand.tookScale sc h.slot_lt).gov]

/-- Formats of a prefix restrict no instruction that follows none (R120). -/
theorem formatsOk_of_unprefixed (a b d : Accept) (h : s.me.prefixed = false) : formatsOk a b d s = true := by
  simp [formatsOk, h]

theorem float_noLanes {fn : LaneFn} {takes : Bool} {codes : State → Bool} {o : FmtV} (he : exec i s = laneTwo fn takes vecOk codes o s) (h : s.Starts i)
    (hcodes : codes s = true) (ha : vecOk o.a = true) (hd : vecOk o.d = true) (hg : s.me.g = 0) : Traps i s s.draw.2 21 s.draw.1 := by
  have hp : s.me.prefixed = true → takes = true := by simp [h.unprefixed]
  rw [Traps, he, laneTwo, ha, hd, hcodes, Bool.and_self, Bool.and_self, laneChecked_noLanes _ h.begins hp hg]

/-- Settles O34. -/
theorem laneFloatFormsComplete : Obligations.LaneFloatFormsComplete := by
  refine ⟨fun p hp o s u v w sc h ha hd hcodes hr hb hsc hv => ?_, fun p hp o s u v w sc h hd hcodes hr hb hsc hv => ?_,
    fun o s v sc h hb hd hcodes hr hsc hv => ?_, fun p hp o s v sc h hcodes hr hsc hv => ?_, fun f hf o s h ha hd hg => ?_⟩
  · subst hv
    have hc := float_completes ((exec_floatTwo p hp o s).trans (laneTwo_of_broadcast h (fun _ => rfl) ha hd hcodes hr hb hsc)) h (.broadcastScaled sc h hb)
      (mem_broadcastScaled sc h hb) hr (fp_writes p.2.1 _ _ _ o.b w none _ 0 (vl_le_of_ready hr))
    exact hc
  · subst hv
    have hc := float_completes ((exec_floatOne p hp o s).trans (laneOne_of_broadcast h hd hcodes hr hb hsc)) h (.broadcastScaled sc h hb)
      (mem_broadcastScaled sc h hb) hr (fp_writes p.2.1 _ _ _ o.b w none _ 0 (vl_le_of_ready hr))
    exact hc
  · subst hv
    have hc := float_completes (i := .vcvt o) (vcvt_of_ready h hb hd hcodes hr hsc) h (.tookScale sc h.slot_lt) (mem_tookScale sc h.slot_lt) hr
      (cvt_writes _ _ _ _ _ o.b none none _ 0 (vl_le_of_ready hr))
    exact hc
  · subst hv
    have hc := float_completes ((exec_floatN p hp o s).trans (laneN_of_ready h (fun _ => rfl) hcodes hr hsc)) h (.tookScale sc h.slot_lt) (mem_tookScale sc h.slot_lt) hr
      (fpVector_writes p.2.1 _ _ _ _ none _ 0 (vl_le_of_ready hr))
    exact hc
  · simp only [List.mem_cons, List.not_mem_nil, or_false] at hf
    obtain rfl | rfl | rfl := hf
    · exact float_noLanes (fn := .fp .add) rfl h (formatsOk_of_unprefixed _ _ _ h.unprefixed) ha hd hg
    · exact float_noLanes (fn := .int .add) (takes := false) (codes := fun _ => true) rfl h rfl ha hd hg
    · exact float_noLanes (fn := .fp .mul) rfl h (formatsOk_of_unprefixed _ _ _ h.unprefixed) ha hd hg

/-! Integer forms and compares (R155, R159, R160). -/

theorem KeepsStrand.prefixed (h : KeepsStrand s t) : t.me.prefixed = s.me.prefixed := by
  rw [← Strand.prefixed_rest, h.rest, Strand.prefixed_rest]

/-- Without a prefix there is no scale register and nothing to consume (R96, R99). -/
theorem scaleIs_of_unprefixed (h : s.me.prefixed = false) : s.scaleIs 0 ∧ s.tookScale 0 = s ∧ s.consume = s := by
  simp [State.scaleIs, State.tookScale, State.consume, h]

theorem st_or_zero (x : Word) : x ||| word 0 = x := BitVec.or_zero

/-- An integer form ends with its values in the active lanes and ST as it was. -/
theorem int_completes {o : LaneOp} {f : Nat → Lane} (he : exec i s = complete (v.consume.sendLane o)) (h : s.Starts i) (hk : KeepsStrand s v) (hmem : v.mem = s.mem)
    (hr : s.LanesReady) (hw : o.Writes s.me (fun j => !o.masked || (s.me.mask 0).getLsbD j) f 0) :
    ∃ t, Completes i s t ∧ LanesTo v.me t.me o.d (s.me.active o.masked) f ∧ t.me.st = v.me.st ∧ t.mem = s.mem := by
  obtain ⟨-, -, hv⟩ := scaleIs_of_unprefixed (hk.prefixed.trans h.unprefixed)
  obtain ⟨t, hc, hto, hst, hm⟩ := lanes_complete he h.begins hk hmem hr hw
  exact ⟨t, hc, hto, by rw [hst, hv, st_or_zero], hm⟩

/-- The integer forms by what they compute, with a vector or broadcast b. -/
theorem exec_intTwo : ∀ p ∈ [(Instr.viAdd, fun a b : Lane => a + b), (.viSub, fun a b => a - b), (.viMul, fun a b => a * b),
      (.viMulh, fun a b => BitVec.ofInt 32 (a.toInt * b.toInt / 2 ^ 32)), (.viMin, fun a b => if a.toInt ≤ b.toInt then a else b),
      (.viMax, fun a b => if b.toInt ≤ a.toInt then a else b), (.viMinu, fun a b => if a.toNat ≤ b.toNat then a else b),
      (.viMaxu, fun a b => if b.toNat ≤ a.toNat then a else b), (.viAnd, fun a b => a &&& b), (.viOr, fun a b => a ||| b), (.viXor, fun a b => a ^^^ b),
      (.viShl, fun a b => a <<< (b.toNat % 32)), (.viShr, fun a b => a >>> (b.toNat % 32)),
      (.viSar, fun a b => BitVec.ofInt 32 (a.toInt / 2 ^ (b.toNat % 32))), (.viAndn, fun a b => a &&& ~~~b)],
    ∃ f : IOp, (∀ a b, f.run a b = p.2 a b) ∧ ∀ (o : FmtV) (s : State), exec (p.1 o) s = vi f o s := by
  simp only [List.forall_mem_cons, List.not_mem_nil, false_imp_iff, implies_true, and_true]
  refine ⟨⟨.add, fun _ _ => rfl, fun _ _ => rfl⟩, ⟨.sub, fun _ _ => rfl, fun _ _ => rfl⟩, ⟨.mul, fun _ _ => rfl, fun _ _ => rfl⟩, ⟨.mulh, fun _ _ => rfl, fun _ _ => rfl⟩,
    ⟨.min, fun a b => ?_, fun _ _ => rfl⟩, ⟨.max, fun a b => ?_, fun _ _ => rfl⟩, ⟨.minu, fun a b => ?_, fun _ _ => rfl⟩, ⟨.maxu, fun a b => ?_, fun _ _ => rfl⟩,
    ⟨.and, fun _ _ => rfl, fun _ _ => rfl⟩, ⟨.or, fun _ _ => rfl, fun _ _ => rfl⟩, ⟨.xor, fun _ _ => rfl, fun _ _ => rfl⟩, ⟨.shl, fun _ _ => rfl, fun _ _ => rfl⟩,
    ⟨.shr, fun _ _ => rfl, fun _ _ => rfl⟩, ⟨.sar, fun a b => ?_, fun _ _ => rfl⟩, ⟨.andn, fun _ _ => rfl, fun _ _ => rfl⟩⟩
  · simp only [IOp.run, BitVec.slt, decide_eq_true_eq, ← not_le (a := a.toInt), ite_not]
  · simp only [IOp.run, BitVec.slt, decide_eq_true_eq, ← not_le (b := a.toInt), ite_not]
  · simp only [IOp.run, BitVec.ult, decide_eq_true_eq, ← not_le (a := a.toNat), ite_not]
  · simp only [IOp.run, BitVec.ult, decide_eq_true_eq, ← not_le (b := a.toNat), ite_not]
  · rw [IOp.run, BitVec.sshiftRight, Int.shiftRight_eq_div_pow]
    norm_cast

/-- The integer forms of two registers by what they compute. -/
theorem exec_intN : ∀ p ∈ [(Instr.vaddI32, fun a b : Lane => a + b), (.vsubI32, fun a b => a - b), (.vand, fun a b => a &&& b), (.vor, fun a b => a ||| b),
      (.vxor, fun a b => a ^^^ b), (.vshlI32, fun a b => a <<< (b.toNat % 32)), (.vshrI32, fun a b => a >>> (b.toNat % 32)), (.vmv, fun _ b => b),
      (.vmulI32, fun a b => a * b)],
    ∃ fn : LaneFn, (∀ (m : Strand) (masked : Bool) (d a b id : Nat) (g : Gov), m.vl ≤ 256 → LaneOp.Writes ⟨fn, masked, d, a, b, none, none, g, id⟩ m
      (fun j => !masked || (m.mask 0).getLsbD j) (fun j => p.2 (m.laneAt a j) (m.laneAt b j)) 0) ∧
      ∀ (o : FmtN) (s : State), exec (p.1 o) s = laneN fn false (fun _ => true) o s := by
  have hint (f : IOp) (m : Strand) (masked : Bool) (d a b id : Nat) (g : Gov) := intVector_writes (m := m) f masked d a b none g id
  simp only [List.forall_mem_cons, List.not_mem_nil, false_imp_iff, implies_true, and_true]
  exact ⟨⟨.int .add, hint .add, fun _ _ => rfl⟩, ⟨.int .sub, hint .sub, fun _ _ => rfl⟩, ⟨.int .and, hint .and, fun _ _ => rfl⟩, ⟨.int .or, hint .or, fun _ _ => rfl⟩,
    ⟨.int .xor, hint .xor, fun _ _ => rfl⟩, ⟨.int .shl, hint .shl, fun _ _ => rfl⟩, ⟨.int .shr, hint .shr, fun _ _ => rfl⟩,
    ⟨.vmv, fun m masked d a b id g => vmv_writes masked d a b none none g id, fun _ _ => rfl⟩, ⟨.int .mul, hint .mul, fun _ _ => rfl⟩⟩

/-- The integer compares by their relation. -/
theorem exec_intCompare : ∀ p ∈ [(Instr.vcmpIeq, fun a b : Lane => decide (a = b)), (.vcmpIne, fun a b => decide (a ≠ b)), (.vcmpIlt, fun a b => decide (a.toInt < b.toInt)),
      (.vcmpIle, fun a b => decide (a.toInt ≤ b.toInt)), (.vcmpIltu, fun a b => decide (a.toNat < b.toNat))],
    ∃ f : COp, (∀ g a b, f.lane g a b = (p.2 a b, 0)) ∧ ∀ (o : FmtV) (s : State), exec (p.1 o) s = laneTwo (.cmp f) true maskOk anyCodes o s := by
  simp only [List.forall_mem_cons, List.not_mem_nil, false_imp_iff, implies_true, and_true]
  refine ⟨⟨.ieq, fun g a b => congrArg (·, 0) ?_, fun _ _ => rfl⟩, ⟨.ine, fun g a b => congrArg (·, 0) ?_, fun _ _ => rfl⟩, ⟨.ilt, fun _ _ _ => rfl, fun _ _ => rfl⟩,
    ⟨.ile, fun g a b => congrArg (·, 0) ?_, fun _ _ => rfl⟩, ⟨.iltu, fun _ _ _ => rfl, fun _ _ => rfl⟩⟩
  · exact beq_eq_decide a b
  · rw [COp.runInt, bne, beq_eq_decide, ← decide_not]
  · change (!decide (b.toInt < a.toInt)) = decide (a.toInt ≤ b.toInt)
    rw [← decide_not, decide_eq_decide, not_lt]

/-- The floating compares by their relation. -/
theorem exec_floatCompare : ∀ p ∈ [(Instr.vcmpFeq, COp.feq), (.vcmpFne, .fne), (.vcmpFlt, .flt), (.vcmpFle, .fle), (.vcmpFunord, .funord)],
    (∀ g a b, p.2.lane g a b = cmpVal p.2 (valueOf g.fa a.toNat) (valueOf g.fb b.toNat)) ∧
      ∀ (o : FmtV) (s : State), exec (p.1 o) s = laneTwo (.cmp p.2) true maskOk (formatsOk .low .low .any) o s := by
  simp only [List.forall_mem_cons, List.not_mem_nil, false_imp_iff, implies_true, and_true]
  exact ⟨⟨fun _ _ _ => rfl, fun _ _ => rfl⟩, ⟨fun _ _ _ => rfl, fun _ _ => rfl⟩, ⟨fun _ _ _ => rfl, fun _ _ => rfl⟩, ⟨fun _ _ _ => rfl, fun _ _ => rfl⟩,
    ⟨fun _ _ _ => rfl, fun _ _ => rfl⟩⟩

/-- A compare ends with a mask bit for each active lane, and the lanes' flags in ST (R160). -/
theorem compare_completes {f : COp} {codes : State → Bool} {o : FmtV} {w : Option Word} {sc : Word} {r : Nat → Bool × Nat}
    (he : exec i s = laneTwo (.cmp f) true maskOk codes o s) (h : s.Begins i)
    (hd : maskOk o.d = true) (ha : vecOk o.a = true) (hcodes : codes s = true) (hr : s.LanesReady) (hb : s.Broadcast o.b w u) (hsc : u.scaleIs sc)
    (hlane : ∀ j, f.lane (s.me.gov 0 0 0 sc) (s.me.laneAt o.a.toNat j) (s.me.laneB w o.b j) = r j) :
    ∃ t, Completes i s t ∧ MaskTo (u.tookScale sc).me t.me o.d.toNat (fun j => if s.me.active o.y j then (r j).1 else (s.me.mask o.d.toNat).getLsbD j) ∧
      t.me.st = (u.tookScale sc).consume.me.st ||| word (s.me.flagsOf o.y (fun j => (r j).2)) ∧ t.mem = s.mem := by
  have hvl := vl_le_of_ready hr
  have hk : KeepsStrand s (u.tookScale sc) := .broadcastScaled sc h hb
  have hm := cmp_masks (m := s.me) f o.y o.d.toNat o.a.toNat o.b w none (s.me.gov 0 0 0 sc) 0 hvl
  simp only [hlane] at hm
  obtain ⟨t, hc, hto, hst, hmem⟩ := masks_complete (he.trans (laneTwo_of_broadcast h (fun _ => rfl) ha hd hcodes hr hb hsc)) h hk
    (mem_broadcastScaled sc h hb) hr hm
  exact ⟨t, hc, hto.congr (fun j hj => getLsbD_comparedMask o.y _ r hvl (hk.sameLanes.vl ▸ hj)), hst, hmem⟩

/-- Settles O35. -/
theorem laneIntegerFormsComplete : Obligations.LaneIntegerFormsComplete := by
  refine ⟨fun p hp o s u w h ha hd hr hb => ?_, fun p hp o s h hr => ?_, fun p hp o s u v w sc h ha hd hcodes hr hb hsc hv => ?_,
    fun p hp o s u v w sc h ha hd hcodes hr hb hsc hv => ?_⟩
  · obtain ⟨f, hf, he⟩ := exec_intTwo p hp
    have hk := KeepsStrand.broadcast h.begins hb
    obtain ⟨hsc, htook, -⟩ := scaleIs_of_unprefixed (hk.prefixed.trans h.unprefixed)
    have hl := laneTwo_of_broadcast (fn := .int f) (takes := false) (codes := fun _ => true) h.begins (by simp [h.unprefixed]) ha hd rfl hr hb hsc
    rw [htook] at hl
    have hc := int_completes ((he o s).trans hl) h hk (mem_broadcast h.begins hb) hr (int_writes f _ _ _ o.b w none _ 0 (vl_le_of_ready hr))
    simp only [hf] at hc
    exact hc
  · obtain ⟨fn, hw, he⟩ := exec_intN p hp
    obtain ⟨hsc, htook, -⟩ := scaleIs_of_unprefixed h.unprefixed
    have hl := laneN_of_ready (o := o) (fn := fn) (takes := false) (codes := fun _ => true) h.begins (by simp [h.unprefixed]) rfl hr hsc
    rw [htook] at hl
    have hc := int_completes ((he o s).trans hl) h (.refl s) rfl hr (hw _ _ _ _ _ _ _ (vl_le_of_ready hr))
    exact hc
  · obtain ⟨f, hf, he⟩ := exec_intCompare p hp
    subst hv
    obtain ⟨t, hc, hto, hst, hmem⟩ := compare_completes (he o s) h hd ha hcodes hr hb hsc (fun j => hf _ _ _)
    exact ⟨t, hc, hto, by rw [hst, flagsOf_zero, st_or_zero], hmem⟩
  · obtain ⟨hf, he⟩ := exec_floatCompare p hp
    subst hv
    intro g r
    have hc := compare_completes (he o s) h hd ha hcodes hr hb hsc (fun j => hf _ _ _)
    exact hc

end Sys2Proof.Machine
end

/-! Masks, permutes and moves of lanes (O36). -/
section
namespace Sys2Proof.Machine

variable {s t u v : State} {i : Instr} {m m' : Strand}

/-! What each form writes. -/

theorem raiseFlags_zero (m : Strand) : m.raiseFlags 0 = m := by
  rw [Strand.raiseFlags, st_or_zero]

/-- A form that writes every lane below vl. -/
theorem writes_of_every {o : LaneOp} {f : Nat → Lane} (he : ∀ m', m.SameLanes m' → m'.runLane o = m'.setLanes o.d ((List.range m'.vl).map (fun j => (j, f j)))) :
    o.Writes m (fun _ => true) f 0 := by
  intro m' h
  rw [he m' h, Strand.writeLanes, raiseFlags_zero, List.filter_true]

theorem sel_writes (d a : Nat) (b : Code) (w sa : Option Word) (g : Gov) (id : Nat) : LaneOp.Writes ⟨.sel, false, d, a, b.toNat, w, sa, g, id⟩ m (fun _ => true)
    (fun j => if (m.mask 0).getLsbD j then m.laneAt a j else m.laneB w b j) 0 := by
  refine writes_of_every (fun m' h => ?_)
  simp only [Strand.laneB, ← h.laneAt, ← h.mask]
  rfl

theorem bcast_writes (d a b : Nat) (w : Word) (sa : Option Word) (g : Gov) (id : Nat) : LaneOp.Writes ⟨.bcast, false, d, a, b, some w, sa, g, id⟩ m (fun _ => true)
    (fun _ => if w.toNat < m.vl then m.laneAt a w.toNat else 0) 0 := by
  refine writes_of_every (fun m' h => ?_)
  simp only [← h.laneAt, ← h.vl]
  rfl

theorem shup_writes (d a b : Nat) (w : Word) (sa : Option Word) (g : Gov) (id : Nat) : LaneOp.Writes ⟨.shup, false, d, a, b, some w, sa, g, id⟩ m (fun _ => true)
    (fun j => if w.toNat ≤ j then m.laneAt a (j - w.toNat) else 0) 0 := by
  refine writes_of_every (fun m' h => ?_)
  simp only [← h.laneAt]
  rfl

theorem shdn_writes (d a b : Nat) (w : Word) (sa : Option Word) (g : Gov) (id : Nat) : LaneOp.Writes ⟨.shdn, false, d, a, b, some w, sa, g, id⟩ m (fun _ => true)
    (fun j => if j + w.toNat < m.vl then m.laneAt a (j + w.toNat) else 0) 0 := by
  refine writes_of_every (fun m' h => ?_)
  simp only [← h.laneAt, ← h.vl]
  rfl

theorem perm_writes (d a b : Nat) (w sa : Option Word) (g : Gov) (id : Nat) : LaneOp.Writes ⟨.perm, false, d, a, b, w, sa, g, id⟩ m (fun _ => true)
    (fun j => if (m.laneAt b j).toNat < m.vl then m.laneAt a (m.laneAt b j).toNat else 0) 0 := by
  refine writes_of_every (fun m' h => ?_)
  simp only [← h.laneAt, ← h.vl]
  rfl

theorem comp_writes (d a b : Nat) (w sa : Option Word) (g : Gov) (id : Nat) : LaneOp.Writes ⟨.comp, false, d, a, b, w, sa, g, id⟩ m (fun _ => true)
    (fun j => (m.m0Lanes[j]?).elim 0 (m.laneAt a)) 0 := by
  refine writes_of_every (fun m' h => ?_)
  simp only [Strand.runLane, Strand.m0Lanes, ← h.mask, ← h.vl]
  refine congrArg _ (List.map_congr_left (fun j _ => congrArg (Prod.mk j) ?_))
  cases ((List.range m'.vl).filter (fun j => (m'.mask 0).getLsbD j))[j]? with
  | none => rfl
  | some k => exact h.laneAt a k

theorem expd_writes (d a b : Nat) (w sa : Option Word) (g : Gov) (id : Nat) : LaneOp.Writes ⟨.expd, false, d, a, b, w, sa, g, id⟩ m (fun _ => true)
    (fun j => if (m.mask 0).getLsbD j then m.laneAt a (m.m0Below j) else 0) 0 := by
  refine writes_of_every (fun m' h => ?_)
  simp only [Strand.m0Below, ← h.laneAt, ← h.mask]
  rfl

theorem rev_writes (d a b : Nat) (w sa : Option Word) (g : Gov) (id : Nat) : LaneOp.Writes ⟨.rev, false, d, a, b, w, sa, g, id⟩ m (fun _ => true)
    (fun j => m.laneAt b (m.vl - 1 - j)) 0 := by
  refine writes_of_every (fun m' h => ?_)
  simp only [← h.laneAt, ← h.vl]
  rfl

/-- The one lane below n that has a number is that of its number. -/
theorem filter_range_eq (n k : Nat) : (List.range n).filter (fun j => decide (j = k)) = if k < n then [k] else [] := by
  induction n with
  | zero => rfl
  | succ n ih =>
    rw [List.range_succ, List.filter_append, ih]
    rcases Nat.lt_trichotomy k n with h | rfl | h
    · simp [h, Nat.lt_succ_of_lt h, Nat.ne_of_gt h]
    · simp
    · simp [Nat.not_lt_of_gt h, show ¬ k < n + 1 by omega, Nat.ne_of_lt h]

theorem stov_writes (d a b : Nat) (w x : Word) (g : Gov) (id : Nat) : LaneOp.Writes ⟨.stov, false, d, a, b, some w, some x, g, id⟩ m
    (fun j => decide (j = w.toNat)) (fun _ => x.setWidth 32) 0 := by
  intro m' h
  rw [Strand.writeLanes, raiseFlags_zero, filter_range_eq, apply_ite (List.map _), apply_ite (m'.setLanes d)]
  rfl

/-! How such a form ends. -/

theorem lanePlain_of_ready {fn : LaneFn} {d a b : Nat} {src : State → (Option Word → Option Word → State → Out) → Out} {sb sa : Option Word} (h : s.Starts i)
    (hr : s.LanesReady) (hk : KeepsStrand s v) (hsrc : ∀ k, src s k = k sb sa v) :
    lanePlain fn true d a b s src = complete (v.consume.sendLane ⟨fn, false, d, a, b, sb, sa, s.me.gov 0 0 0 0, 0⟩) := by
  obtain ⟨-, -, hv⟩ := scaleIs_of_unprefixed (hk.prefixed.trans h.unprefixed)
  rw [lanePlain, laneChecked_of_ready _ (by simp [h.unprefixed]) hr, hsrc, hk.gov, hv]

/-- A form that writes lanes without flags ends with them (R163). -/
theorem move_completes {o : LaneOp} {f : Nat → Lane} (he : exec i s = complete (v.consume.sendLane o)) (h : s.Begins i) (hk : KeepsStrand s v) (hmem : v.mem = s.mem)
    (hr : s.LanesReady) (hw : o.Writes s.me (fun _ => true) f 0) : ∃ t, Completes i s t ∧ LanesTo v.me t.me o.d (fun j => decide (j < s.me.vl)) f := by
  obtain ⟨t, hc, hto, -⟩ := lanes_complete he h hk hmem hr hw
  simp only [Bool.and_true] at hto
  exact ⟨t, hc, hto⟩

/-- A mask form ends with its mask (R161). -/
theorem mask_completes {o : LaneOp} {x : BitVec 256} {f : Nat → Bool} (he : exec i s = complete (v.consume.sendLane o)) (h : s.Begins i) (hk : KeepsStrand s v)
    (hmem : v.mem = s.mem) (hr : s.LanesReady) (hw : ∀ m', s.me.SameLanes m' → m'.runLane o = m'.setMask o.d x)
    (hx : ∀ j, j < s.me.vl → x.getLsbD j = f j) : ∃ t, Completes i s t ∧ MaskTo v.me t.me o.d f := by
  obtain ⟨t, hc, hto, -⟩ := masks_complete (x := x) (fl := 0) he h hk hmem hr (fun m' hs => by rw [hw m' hs, raiseFlags_zero])
  exact ⟨t, hc, hto.congr (fun j hj => hx j (hk.sameLanes.vl ▸ hj))⟩

theorem exec_maskTwo : ∀ p ∈ [(Instr.vmskMand, fun a b => a && b), (.vmskMor, fun a b => a || b), (.vmskMxor, fun a b => a != b)],
    ∃ (fn : LaneFn) (f : BitVec 256 → BitVec 256 → BitVec 256), (∀ (o : FmtVV) (s : State), exec (p.1 o) s =
      lanePlain fn (maskOk o.a && maskOk o.b && maskOk o.d) o.d.toNat o.a.toNat o.b.toNat s noScalar) ∧
    (∀ (x y : BitVec 256) (j : Nat), (f x y).getLsbD j = p.2 (x.getLsbD j) (y.getLsbD j)) ∧
    ∀ (m : Strand) (d a b : Nat) (w sa : Option Word) (g : Gov) (id : Nat),
      m.runLane ⟨fn, false, d, a, b, w, sa, g, id⟩ = m.setMask d (f (m.mask a) (m.mask b)) := by
  simp only [List.forall_mem_cons, List.not_mem_nil, false_imp_iff, implies_true, and_true]
  exact ⟨⟨.mand, _, fun _ _ => rfl, fun _ _ _ => BitVec.getLsbD_and, fun _ _ _ _ _ _ _ _ => rfl⟩, ⟨.mor, _, fun _ _ => rfl, fun _ _ _ => BitVec.getLsbD_or, fun _ _ _ _ _ _ _ _ => rfl⟩,
    ⟨.mxor, _, fun _ _ => rfl, fun _ _ _ => by simp, fun _ _ _ _ _ _ _ _ => rfl⟩⟩

/-- The permutes with a scalar b. -/
theorem exec_permScalar : ∀ p ∈ [(Instr.vpermBcast, fun (vl k : Nat) (a : Nat → Lane) (_ : Nat) => if k < vl then a k else 0),
      (.vpermShup, fun _ k a i => if k ≤ i then a (i - k) else 0), (.vpermShdn, fun vl k a i => if i + k < vl then a (i + k) else 0)],
    ∃ fn : LaneFn, (∀ (o : FmtVV) (s : State), exec (p.1 o) s = vpermS fn o s) ∧ ∀ (m : Strand) (d a b : Nat) (w : Word) (sa : Option Word) (g : Gov) (id : Nat),
      LaneOp.Writes ⟨fn, false, d, a, b, some w, sa, g, id⟩ m (fun _ => true) (p.2 m.vl w.toNat (m.laneAt a)) 0 := by
  simp only [List.forall_mem_cons, List.not_mem_nil, false_imp_iff, implies_true, and_true]
  exact ⟨⟨.bcast, fun _ _ => rfl, fun _ => bcast_writes⟩, ⟨.shup, fun _ _ => rfl, fun _ => shup_writes⟩, ⟨.shdn, fun _ _ => rfl, fun _ => shdn_writes⟩⟩

/-- A lane operand b that is read as the first source. -/
theorem readVB_of_broadcast {b : Code} {w : Option Word} (h : s.Begins i) (hb : s.Broadcast b w u) (k : Option Word → State → Out) : readVB 0 b s k = k w u := by
  unfold State.Broadcast at hb
  split at hb
  · next hbc =>
    obtain ⟨x, hg, rfl⟩ := hb
    exact readVB_of_gives (by rw [h.reads_eq]; rfl) hbc hg k
  · next hbc =>
    obtain ⟨rfl, rfl⟩ := hb
    exact if_neg hbc

/-- A mask of the lanes below n. -/
theorem mset_runs (m : Strand) (d a b : Nat) (w : Option Word) (x : Word) (g : Gov) (id : Nat) :
    m.runLane ⟨.mset, false, d, a, b, w, some x, g, id⟩ = m.setMask d (maskOf m.vl (fun j => decide (j < x.toNat))) := rfl

theorem exec_vmskMnot (o : FmtVA) (s : State) :
    exec (.vmskMnot o) s = lanePlain .mnot (maskOk o.a && maskOk o.d) o.d.toNat o.a.toNat 0 s noScalar := rfl

theorem exec_vpermPerm (o : FmtVV) (s : State) :
    exec (.vpermPerm o) s = lanePlain .perm (vecOk o.a && vecOk o.b && vecOk o.d) o.d.toNat o.a.toNat o.b.toNat s noScalar := rfl

/-- A form without scalar sources, its codes good. -/
theorem lanePlain_noScalar {fn : LaneFn} {ok : Bool} {d a b : Nat} (h : s.Starts i) (hr : s.LanesReady) (hok : ok = true) :
    lanePlain fn ok d a b s noScalar = complete (s.consume.sendLane ⟨fn, false, d, a, b, none, none, s.me.gov 0 0 0 0, 0⟩) := by
  subst hok
  exact lanePlain_of_ready h hr (.refl s) (fun _ => rfl)

theorem mset_of_gives {o : FmtVA} {x : Word} (h : s.Starts (.vmskMset o)) (hd : maskOk o.d = true) (hr : s.LanesReady) (hg : s.Gives o.a false x u) :
    exec (.vmskMset o) s = complete (u.consume.sendLane ⟨.mset, false, o.d.toNat, 0, 0, none, some x, s.me.gov 0 0 0 0, 0⟩) := by
  change execVmskMset o s = _
  have hsrc : srcOk false o.a = true := hg.1
  rw [execVmskMset, hsrc, hd, Bool.and_self]
  exact lanePlain_of_ready h hr (.gives hg h.begins.slot_lt) (fun k => readSrc_of_gives (by rw [h.begins.reads_eq]; rfl) hg _)

theorem vpermS_of_gives {fn : LaneFn} {o : FmtVV} {x : Word} (h : s.Starts i) (ha : vecOk o.a = true) (hb : bcOk o.b = true) (hd : vecOk o.d = true) (hr : s.LanesReady)
    (hg : s.Gives (o.b - 32) false x u) :
    vpermS fn o s = complete (u.consume.sendLane ⟨fn, false, o.d.toNat, o.a.toNat, 0, some x, none, s.me.gov 0 0 0 0, 0⟩) := by
  rw [vpermS, ha, hb, hd, Bool.and_self, Bool.and_self]
  exact lanePlain_of_ready h hr (.gives hg h.begins.slot_lt) (fun k => readVB_of_gives (by rw [h.begins.reads_eq]; rfl) hb hg _)

theorem stov_of_gives {o : FmtVV} {x y : Word} (h : s.Starts (.vmovStov o)) (hb : bcOk o.b = true) (hd : vecOk o.d = true) (hr : s.LanesReady)
    (hx : s.Gives o.a false x u) (hy : u.Gives (o.b - 32) false y v) :
    exec (.vmovStov o) s = complete (v.consume.sendLane ⟨.stov, false, o.d.toNat, 0, 0, some y, some x, s.me.gov 0 0 0 0, 0⟩) := by
  change execVmovStov o s = _
  have hsrc : srcOk false o.a = true := hx.1
  rw [execVmovStov, hsrc, hb, hd, Bool.and_self, Bool.and_self]
  refine lanePlain_of_ready h hr (.givesTwo h.begins hx hy) (fun k => ?_)
  rw [readSrc_of_gives (by rw [h.begins.reads_eq]; rfl) hx, readVB_of_gives (length_reads_of_first h.begins hx) hb hy]

theorem sel_of_broadcast {o : FmtVV} {w : Option Word} (h : s.Starts (.vmskSel o)) (ha : vecOk o.a = true) (hd : vecOk o.d = true) (hr : s.LanesReady)
    (hb : s.Broadcast o.b w u) :
    exec (.vmskSel o) s = complete (u.consume.sendLane ⟨.sel, false, o.d.toNat, o.a.toNat, o.b.toNat, w, none, s.me.gov 0 0 0 0, 0⟩) := by
  change execVmskSel o s = _
  rw [execVmskSel, ha, hd, Bool.and_self]
  exact lanePlain_of_ready h hr (.broadcast h.begins hb) (fun k => readVB_of_broadcast h.begins hb _)

theorem mem_givesTwo {c c' : Code} {y y' : Bool} {a b : Word} (h : s.Begins i) (ha : s.Gives c y a u) (hb : u.Gives c' y' b v) : v.mem = s.mem :=
  (mem_gives ((KeepsStrand.gives ha h.slot_lt).slot_lt h.slot_lt) hb).trans (mem_gives h.slot_lt ha)

/-- Settles O36. -/
theorem laneMovesComplete : Obligations.LaneMovesComplete := by
  refine ⟨fun o s u w h ha hd hr hb => ?_, fun p hp o s h ha hb hd hr => ?_, fun o s h ha hd hr => ?_, fun o s u a h hd hr hg => ?_,
    fun p hp o s u b h ha hb hd hr hg => ?_, fun o s h ha hb hd hr => ?_, fun o s ha hd hr => ⟨fun h => ?_, fun h => ?_⟩,
    fun o s hb hd hr => ⟨fun h => ?_, fun h => ?_⟩, fun o s u v a b h hb hd hr ha hg => ?_⟩
  · have hc := move_completes (sel_of_broadcast h ha hd hr hb) h.begins (.broadcast h.begins hb) (mem_broadcast h.begins hb) hr (sel_writes _ _ _ _ _ _ _)
    exact hc
  · obtain ⟨fn, f, he, hf, hrun⟩ := exec_maskTwo p hp
    have hl := lanePlain_noScalar (fn := fn) (d := o.d.toNat) (a := o.a.toNat) (b := o.b.toNat) h hr (show (maskOk o.a && maskOk o.b && maskOk o.d) = true by rw [ha, hb, hd]; rfl)
    have hc := mask_completes ((he o s).trans hl) h.begins (.refl s) rfl hr (x := f (s.me.mask o.a.toNat) (s.me.mask o.b.toNat))
      (f := fun j => p.2 ((s.me.mask o.a.toNat).getLsbD j) ((s.me.mask o.b.toNat).getLsbD j)) (fun m' hs => by rw [hrun, hs.mask, hs.mask]) (fun j _ => hf _ _ j)
    exact hc
  · have hl := lanePlain_noScalar (fn := .mnot) (d := o.d.toNat) (a := o.a.toNat) (b := 0) h hr (show (maskOk o.a && maskOk o.d) = true by rw [ha, hd]; rfl)
    have hvl := vl_le_of_ready hr
    have hc := mask_completes ((exec_vmskMnot o s).trans hl) h.begins (.refl s) rfl hr (x := ~~~(s.me.mask o.a.toNat)) (f := fun j => !(s.me.mask o.a.toNat).getLsbD j)
      (fun m' hs => by rw [← hs.mask]; rfl) (fun j hj => by rw [BitVec.getLsbD_not, decide_eq_true (show j < 256 by omega), Bool.true_and])
    exact hc
  · have hl := mset_of_gives h hd hr hg
    have hc := mask_completes (x := maskOf s.me.vl (fun j => decide (j < a.toNat))) (f := fun j => decide (j < a.toNat)) hl h.begins (.gives hg h.begins.slot_lt)
      (mem_gives h.begins.slot_lt hg) hr (fun m' hs => (mset_runs m' _ _ _ _ a _ _).trans (by rw [hs.vl]))
      (fun j hj => by rw [getLsbD_maskOf _ _ (vl_le_of_ready hr), decide_eq_true hj, Bool.true_and])
    exact hc
  · obtain ⟨fn, he, hw⟩ := exec_permScalar p hp
    have hc := move_completes ((he o s).trans (vpermS_of_gives h ha hb hd hr hg)) h.begins (.gives hg h.begins.slot_lt) (mem_gives h.begins.slot_lt hg) hr (hw _ _ _ _ _ _ _ _)
    exact hc
  · have hl := lanePlain_noScalar (fn := .perm) (d := o.d.toNat) (a := o.a.toNat) (b := o.b.toNat) h hr (show (vecOk o.a && vecOk o.b && vecOk o.d) = true by rw [ha, hb, hd]; rfl)
    have hc := move_completes ((exec_vpermPerm o s).trans hl) h.begins (.refl s) rfl hr (perm_writes _ _ _ _ _ _ _)
    exact hc
  · have he : exec (.vpermComp o) s = lanePlain .comp (vecOk o.a && vecOk o.d) o.d.toNat o.a.toNat 0 s noScalar := rfl
    have hl := he.trans (lanePlain_noScalar h hr (by rw [ha, hd]; rfl))
    obtain ⟨t, hc, hto⟩ := move_completes hl h.begins (.refl s) rfl hr (comp_writes _ _ _ _ _ _ _)
    refine ⟨t, hc, ?_⟩
    convert hto using 2 with j
    split <;> simp_all [Strand.m0Lanes]
  · have he : exec (.vpermExpd o) s = lanePlain .expd (vecOk o.a && vecOk o.d) o.d.toNat o.a.toNat 0 s noScalar := rfl
    have hl := he.trans (lanePlain_noScalar h hr (by rw [ha, hd]; rfl))
    have hc := move_completes hl h.begins (.refl s) rfl hr (expd_writes _ _ _ _ _ _ _)
    exact hc
  · have he : exec (.vpermRev o) s = lanePlain .rev (vecOk o.b && vecOk o.d) o.d.toNat 0 o.b.toNat s noScalar := rfl
    have hl := he.trans (lanePlain_noScalar h hr (by rw [hb, hd]; rfl))
    have hc := move_completes hl h.begins (.refl s) rfl hr (rev_writes _ _ _ _ _ _ _)
    exact hc
  · have he : exec (.vmovVmv o) s = lanePlain .vmv (vecOk o.b && vecOk o.d) o.d.toNat 0 o.b.toNat s noScalar := rfl
    have hl := he.trans (lanePlain_noScalar h hr (by rw [hb, hd]; rfl))
    have hc := move_completes hl h.begins (.refl s) rfl hr (vmv_writes _ _ _ _ _ _ _ _ (vl_le_of_ready hr))
    exact hc
  · obtain ⟨t, hc, hto, -⟩ := lanes_complete (stov_of_gives h hb hd hr ha hg) h.begins (.givesTwo h.begins ha hg) (mem_givesTwo h.begins ha hg) hr
      (stov_writes _ _ _ _ _ _ _)
    simp only [Bool.and_comm, ← Bool.decide_and] at hto
    exact ⟨t, hc, hto⟩

end Sys2Proof.Machine
end

/-! Lane claims and the lane pool (O38). -/
section
namespace Sys2Proof.Machine

variable {s t u v : State} {i : Instr} {m m' : Strand}

/-! The pool and a shrink change nothing but lanes and shrink targets (R151, R262). -/

/-- The pool sets the shrink target of some strands. -/
theorem poolEvent_cases (s : State) (cl : Nat) : s.poolEvent cl = s ∨ ∃ (f : Strand → Strand) (l : List StrandRef), (∀ m, ∃ x, f m = { m with shrink := x }) ∧
    s.poolEvent cl = l.foldl (fun (t : State) r => t.modStrand r.core r.slot f) s := by
  unfold State.poolEvent
  dsimp only
  split
  · exact .inr ⟨fun m => { m with shrink := none }, _, fun m => ⟨none, rfl⟩, rfl⟩
  · split
    · refine .inr ⟨fun m => if 2 ≤ m.g then { m with shrink := some (min (m.g - 1) _) } else m, _, fun m => ?_, rfl⟩
      by_cases h2 : 2 ≤ m.g
      · exact ⟨_, if_pos h2⟩
      · exact ⟨m.shrink, if_neg h2⟩
    · exact .inl rfl

theorem strandAt_poolEvent (s : State) (cl c k : Nat) : ∃ x, (s.poolEvent cl).strandAt c k = { s.strandAt c k with shrink := x } := by
  obtain he | ⟨f, l, hf, he⟩ := poolEvent_cases s cl
  · exact ⟨_, by rw [he]⟩
  · rw [he]
    refine foldl_modStrand_keeps (P := fun m => ∃ x, m = { s.strandAt c k with shrink := x }) (fun m hm => ?_) c k l s ⟨_, rfl⟩
    obtain ⟨x, rfl⟩ := hm
    exact hf _

/-- Changing strands changes nothing beside the cores. -/
theorem foldl_modStrand_eq (f : Strand → Strand) (l : List StrandRef) : ∀ s : State, l.foldl (fun (t : State) r => t.modStrand r.core r.slot f) s =
    { s with cores := (l.foldl (fun (t : State) r => t.modStrand r.core r.slot f) s).cores } := by
  induction l with
  | nil => exact fun _ => rfl
  | cons x l ih => exact fun s => ih (s.modStrand x.core x.slot f)

theorem poolEvent_eq (s : State) (cl : Nat) : s.poolEvent cl = { s with cores := (s.poolEvent cl).cores } := by
  obtain he | ⟨f, l, -, he⟩ := poolEvent_cases s cl
  · rw [he]
  · rw [he]
    exact foldl_modStrand_eq f l s

@[simp] theorem mem_poolEvent (s : State) (cl : Nat) : (s.poolEvent cl).mem = s.mem := by rw [poolEvent_eq]

@[simp] theorem clusterAt_poolEvent (s : State) (cl c : Nat) : (s.poolEvent cl).clusterAt c = s.clusterAt c := by
  rw [poolEvent_eq]
  rfl

/-- The strand in focus after a pool event. -/
theorem me_poolEvent (s : State) (cl : Nat) : ∃ x, (s.poolEvent cl).me = { s.me with shrink := x } := by
  have hcore : (s.poolEvent cl).core = s.core := by rw [poolEvent_eq]
  have hslot : (s.poolEvent cl).slot = s.slot := by rw [poolEvent_eq]
  rw [State.me, hcore, hslot]
  exact strandAt_poolEvent s cl s.core s.slot

theorem cur_poolEvent (s : State) (cl : Nat) : (s.poolEvent cl).me.cur = s.me.cur := by
  obtain ⟨x, hx⟩ := me_poolEvent s cl
  rw [hx]

/-- Without waiters the pool drops the shrink targets of its holders (R262). -/
theorem shrink_poolEvent (cl c k : Nat) (hcl : (s.clusterAt cl).claimants = []) (hn : (s.strandAt c k).shrink = none) : ((s.poolEvent cl).strandAt c k).shrink = none := by
  unfold State.poolEvent
  dsimp only
  rw [hcl, if_pos List.isEmpty_nil]
  exact foldl_modStrand_keeps (P := fun m => m.shrink = none) (f := fun m => { m with shrink := none }) (fun _ _ => rfl) c k _ s hn

theorem shrinkNow_cases (s : State) (c k : Nat) : s.shrinkNow c k = s ∨
    ∃ n, s.shrinkNow c k = (s.modStrand c k (fun x => { x.dropGroups n with shrink := none })).poolEvent (clusterOf c) := by
  unfold State.shrinkNow
  dsimp only
  split
  · split
    · exact .inr ⟨_, rfl⟩
    · exact .inl rfl
  · exact .inl rfl

theorem me_shrinkNow (s : State) : (s.shrinkNow s.core s.slot).me.cur = s.me.cur := by
  obtain he | ⟨n, he⟩ := shrinkNow_cases s s.core s.slot
  · rw [he]
  · rw [he, cur_poolEvent, show (s.modStrand s.core s.slot (fun x => { x.dropGroups n with shrink := none })).me = _ from State.me_modMe ..]
    rfl

/-! Waiters of a pool (R261). -/

/-- A claim comes before another where both reach the pool in one cycle and its core, then slot, is lower. -/
def Claimant.before (x y : Claimant) : Bool :=
  decide (x.cycle = y.cycle) && (decide (x.who.core < y.who.core) || (decide (x.who.core = y.who.core) && decide (x.who.slot < y.who.slot)))

theorem Claimant.join_cons (x y : Claimant) (l : List Claimant) : Claimant.join x (y :: l) = if x.before y then x :: y :: l else y :: Claimant.join x l := rfl

theorem Claimant.mem_join (x y : Claimant) (l : List Claimant) : y ∈ Claimant.join x l ↔ y = x ∨ y ∈ l := by
  induction l with
  | nil => simp [Claimant.join]
  | cons z l ih =>
    rw [Claimant.join_cons]
    split
    · exact List.mem_cons
    · rw [List.mem_cons, ih, List.mem_cons]
      tauto

/-- A claim passes the waiters that it does not come before. -/
theorem Claimant.join_append (x : Claimant) (pre post : List Claimant) (h : ∀ z ∈ pre, x.before z = false) : Claimant.join x (pre ++ post) = pre ++ Claimant.join x post := by
  induction pre with
  | nil => rfl
  | cons z pre ih =>
    obtain ⟨hz, hpre⟩ := List.forall_mem_cons.1 h
    rw [List.cons_append, Claimant.join_cons, hz, if_neg Bool.false_ne_true, ih hpre, List.cons_append]

theorem Claimant.before_of_earlier {x y : Claimant} (h : y.cycle < x.cycle) : x.before y = false := by
  rw [Claimant.before, decide_eq_false (by omega), Bool.false_and]

theorem Claimant.before_of_place {x y : Claimant} (h : 16 * y.who.core + y.who.slot ≤ 16 * x.who.core + x.who.slot) (hx : x.who.slot < 16) (hy : y.who.slot < 16) :
    x.before y = false := by
  rw [Claimant.before, Bool.and_eq_false_iff]
  refine .inr ?_
  simp only [Bool.or_eq_false_iff, Bool.and_eq_false_iff, decide_eq_false_iff_not]
  omega

theorem Claimant.join_place (x y : Claimant) (pre post : List Claimant)
    (hpre : ∀ z ∈ pre, z.cycle < x.cycle ∨ (z.cycle = x.cycle ∧ 16 * z.who.core + z.who.slot ≤ 16 * x.who.core + x.who.slot)) (hcycle : y.cycle = x.cycle)
    (hcore : x.who.core < y.who.core) (hslots : ∀ z ∈ pre ++ y :: post, z.who.slot < 16) (hx : x.who.slot < 16) :
    Claimant.join x (pre ++ y :: post) = pre ++ x :: y :: post := by
  have hbefore : x.before y = true := by simp [Claimant.before, hcycle, hcore]
  rw [Claimant.join_append x pre _ (fun z hz => ?_), Claimant.join_cons, if_pos hbefore]
  obtain hz' | ⟨-, hz'⟩ := hpre z hz
  · exact Claimant.before_of_earlier hz'
  · exact Claimant.before_of_place hz' hx (hslots z (List.mem_append_left _ hz))

/-! The lane instructions on the claim (R149, R150). -/

/-- Reading a source changes nothing that a claim looks at beside the strand. -/
theorem pool_of_gives {c : Code} {y : Bool} {x : Word} (h : s.Begins i) (hg : s.Gives c y x u) :
    u.myRef = s.myRef ∧ u.myCluster = s.myCluster ∧ u.poolCycle = s.poolCycle ∧ u.myRank = s.myRank ∧ ∀ cl, u.clusterAt cl = s.clusterAt cl := by
  obtain ⟨-, -, rfl⟩ := hg
  have hf := OperandFrame.took (d := 0) c y x h.slot_lt
  simp only [State.myRef, State.myCluster, State.poolCycle, State.myRank, State.clusterAt, hf.core, hf.slot, hf.time, hf.clusters, implies_true, and_self]

theorem lanesDone_iff (m : Strand) : m.lanesDone = true ↔ m.laneQ = [] ∧ m.laneLoads = 0 := by
  rw [Strand.lanesDone, Bool.and_eq_true, List.isEmpty_iff, decide_eq_true_eq]

/-- What `lane.claim` does with its count a, once that has been read. -/
def laneClaimOf (d : Code) (a : Word) (s : State) : Out :=
  let claimed := s.modCluster s.myCluster (fun c => { c with lastClaim := (s.poolCycle, s.myRank) })
  if a.toNat < 1 ∨ 16 < a.toNat then trap .laneRequest a s
  else if (s.me.g = 0 ∨ s.me.g ≤ a.toNat) ∧ s.tooLate (s.clusterAt s.myCluster).lastClaim s.myRank = true then hold s
  else if s.me.g = 0 then
    if ((s.clusterAt s.myCluster).claimants = [] ∧ s.resumes s.myCluster = false) ∧ 0 < s.freeGroups s.myCluster then
      finish d (word (min a.toNat (s.freeGroups s.myCluster)))
        ((claimed.modMe (fun m => { m with g := min a.toNat (s.freeGroups s.myCluster), v := [], m := [] })).poolEvent s.myCluster)
    else park .lane (((claimed.modCluster claimed.myCluster (fun c => { c with claimants := Claimant.join ⟨s.myRef, a.toNat, s.poolCycle⟩ c.claimants })).poolEvent
      s.myCluster).modMe (fun m => { m with stage := 9, work := [d.toNat] }))
  else if s.me.laneQ = [] ∧ s.me.laneLoads = 0 then
    if a.toNat < s.me.g then
      finish d a ((s.modMe (fun m => { m.dropGroups a.toNat with shrink := match m.shrink with | some t => if a.toNat ≤ t then none else some t | none => none })).poolEvent
        s.myCluster)
    else
      let g := s.me.g + min (a.toNat - s.me.g) (if (s.clusterAt s.myCluster).claimants = [] then s.freeGroups s.myCluster else 0)
      finish d (word g) (claimed.modMe (fun m => { m with g := g }))
  else hold s

theorem exec_laneClaim_of_gives {o : FmtVA} {a : Word} (h : s.Starts (.laneClaim o)) (hd : dstOk o.d = true) (hacc : s.accepts o.d = true) (hg : s.Gives o.a false a u) :
    exec (.laneClaim o) s = laneClaimOf o.d a u := by
  change execLaneClaim o s = _
  have hsrc : srcOk false o.a = true := hg.1
  rw [execLaneClaim, hsrc, hd, Bool.and_self, plain_of_starts h, withDst_of_accepts _ _ hacc, readSrc_of_gives (by rw [h.begins.reads_eq]; rfl) hg, laneClaimOf]
  simp only [Bool.or_eq_true, Bool.and_eq_true, Bool.not_eq_true', decide_eq_true_eq, List.isEmpty_iff, lanesDone_iff, ← Bool.not_eq_true, ite_not]
  by_cases hgz : u.me.g = 0
  · simp only [hgz, true_and, true_or, if_true]
    rfl
  · simp only [hgz, false_and, false_or, if_false]
    rfl

@[simp] theorem clusterAt_modMe (f : Strand → Strand) (c : Nat) : (s.modMe f).clusterAt c = s.clusterAt c := rfl
@[simp] theorem mem_modMe (f : Strand → Strand) : (s.modMe f).mem = s.mem := rfl
@[simp] theorem mem_modCluster (c : Nat) (f : Cluster → Cluster) : (s.modCluster c f).mem = s.mem := rfl
@[simp] theorem myCluster_modCluster (c : Nat) (f : Cluster → Cluster) : (s.modCluster c f).myCluster = s.myCluster := rfl

/-- A count that no claim has is refused (R149). -/
theorem laneClaimOf_refused (d : Code) {a : Word} (h : a.toNat < 1 ∨ 16 < a.toNat) : laneClaimOf d a s = trap .laneRequest a s := if_pos h

theorem laneClaimOf_late (d : Code) {a : Word} (h1 : 1 ≤ a.toNat) (h16 : a.toNat ≤ 16) (hg : s.me.g ≤ a.toNat)
    (hlate : s.tooLate (s.clusterAt s.myCluster).lastClaim s.myRank = true) : laneClaimOf d a s = hold s := by
  rw [laneClaimOf, if_neg (by omega), if_pos ⟨.inr hg, hlate⟩]

theorem laneClaimOf_first (d : Code) {a : Word} (h1 : 1 ≤ a.toNat) (h16 : a.toNat ≤ 16) (hg : s.me.g = 0)
    (hlate : s.tooLate (s.clusterAt s.myCluster).lastClaim s.myRank = false) (hcl : (s.clusterAt s.myCluster).claimants = []) (hres : s.resumes s.myCluster = false)
    (hfree : 0 < s.freeGroups s.myCluster) : laneClaimOf d a s = finish d (word (min a.toNat (s.freeGroups s.myCluster)))
      (((s.modCluster s.myCluster (fun c => { c with lastClaim := (s.poolCycle, s.myRank) })).modMe
        (fun m => { m with g := min a.toNat (s.freeGroups s.myCluster), v := [], m := [] })).poolEvent s.myCluster) := by
  rw [laneClaimOf, if_neg (by omega), if_neg (by simp [hlate]), if_pos hg, if_pos ⟨⟨hcl, hres⟩, hfree⟩]

theorem laneClaimOf_waits (d : Code) {a : Word} (h1 : 1 ≤ a.toNat) (h16 : a.toNat ≤ 16) (hg : s.me.g = 0)
    (hlate : s.tooLate (s.clusterAt s.myCluster).lastClaim s.myRank = false)
    (hwait : (s.clusterAt s.myCluster).claimants ≠ [] ∨ s.resumes s.myCluster = true ∨ s.freeGroups s.myCluster = 0) : ∃ t, laneClaimOf d a s = .next t ∧
      t.me.status = .parked .lane ∧ t.me.stage = 9 ∧ t.me.work = [d.toNat] ∧
      (t.clusterAt s.myCluster).claimants = Claimant.join ⟨s.myRef, a.toNat, s.poolCycle⟩ (s.clusterAt s.myCluster).claimants ∧
      (t.clusterAt s.myCluster).lastClaim = (s.poolCycle, s.myRank) ∧ t.mem = s.mem := by
  have hnot : ¬(((s.clusterAt s.myCluster).claimants = [] ∧ s.resumes s.myCluster = false) ∧ 0 < s.freeGroups s.myCluster) := by
    rintro ⟨⟨hcl, hres⟩, hfree⟩
    rcases hwait with h | h | h
    · exact h hcl
    · exact Bool.false_ne_true (hres.symm.trans h)
    · omega
  rw [laneClaimOf, if_neg (by omega), if_neg (by simp [hlate]), if_pos hg, if_neg hnot]
  refine ⟨_, rfl, ?_⟩
  simp only [State.me_modMe, clusterAt_modMe, mem_modMe, clusterAt_poolEvent, mem_poolEvent, myCluster_modCluster, State.clusterAt_modCluster, mem_modCluster, and_self]

theorem laneClaimOf_shrinks (d : Code) {a : Word} (h1 : 1 ≤ a.toNat) (h16 : a.toNat ≤ 16) (hg : a.toNat < s.me.g) (hq : s.me.laneQ = []) (hl : s.me.laneLoads = 0) :
    laneClaimOf d a s = finish d a
      ((s.modMe (fun m => { m.dropGroups a.toNat with shrink := match m.shrink with | some t => if a.toNat ≤ t then none else some t | none => none })).poolEvent
        s.myCluster) := by
  rw [laneClaimOf, if_neg (by omega), if_neg (by omega), if_neg (by omega), if_pos ⟨hq, hl⟩, if_pos hg]

theorem laneClaimOf_grows (d : Code) {a : Word} (h16 : a.toNat ≤ 16) (hne : s.me.g ≠ 0) (hg : s.me.g ≤ a.toNat)
    (hlate : s.tooLate (s.clusterAt s.myCluster).lastClaim s.myRank = false) (hq : s.me.laneQ = []) (hl : s.me.laneLoads = 0) :
    let g := s.me.g + min (a.toNat - s.me.g) (if (s.clusterAt s.myCluster).claimants = [] then s.freeGroups s.myCluster else 0)
    laneClaimOf d a s = finish d (word g)
      ((s.modCluster s.myCluster (fun c => { c with lastClaim := (s.poolCycle, s.myRank) })).modMe (fun m => { m with g := g })) := by
  intro g
  rw [laneClaimOf, if_neg (by omega), if_neg (by simp [hlate]), if_neg hne, if_pos ⟨hq, hl⟩, if_neg (by omega)]

/-! Grants (R149, R261). -/

/-- A unit answers a strand whose die does not relock at once (R441). -/
theorem give_of_awake (r : StrandRef) (uid : Nat) (x : Reply) (h : s.relocking r.core = false) :
    s.give r uid x = s.modStrand r.core r.slot (fun m => { m with reply := some x }) := by
  rw [State.give, h, if_neg Bool.false_ne_true]

theorem clusterAt_modStrand (c k cl : Nat) (f : Strand → Strand) : (s.modStrand c k f).clusterAt cl = s.clusterAt cl := rfl

theorem strandOf_modStrand (r : StrandRef) (f : Strand → Strand) : (s.modStrand r.core r.slot f).strandOf r = f (s.strandOf r) := State.strandAt_modStrand ..

theorem strandOf_poolEvent (s : State) (cl : Nat) (r : StrandRef) : ∃ x, (s.poolEvent cl).strandOf r = { s.strandOf r with shrink := x } := strandAt_poolEvent s cl r.core r.slot

theorem laneGrant_grants {cl : Nat} {c : Claimant} {rest : List Claimant} (hcl : (s.clusterAt cl).claimants = c :: rest) (hfree : s.freeGroups cl ≠ 0)
    (hrel : s.relocking c.who.core = false) (hres : s.resumes cl = false) : ∃ t, exec (.laneGrant cl) s = .next t ∧
      (t.strandOf c.who).g = min c.n (s.freeGroups cl) ∧ (t.strandOf c.who).v = [] ∧ (t.strandOf c.who).m = [] ∧
      (t.strandOf c.who).reply = some ⟨word (min c.n (s.freeGroups cl)), [], 0⟩ ∧ (t.clusterAt cl).claimants = rest ∧ t.mem = s.mem := by
  change ∃ t, execLaneGrant cl s = .next t ∧ _
  rw [execLaneGrant, hcl]
  dsimp only
  rw [if_neg (by simp [hfree, hres]), give_of_awake _ _ _ (by exact hrel)]
  refine ⟨_, rfl, ?_⟩
  obtain ⟨x, hx⟩ := strandOf_poolEvent (((s.modCluster cl (fun x => { x with claimants := rest })).modStrand c.who.core c.who.slot
    (fun m => { m with g := min c.n (s.freeGroups cl), v := [], m := [] })).modStrand c.who.core c.who.slot
    (fun m => { m with reply := some ⟨word (min c.n (s.freeGroups cl)), [], 0⟩ })) cl c.who
  rw [strandOf_modStrand, strandOf_modStrand] at hx
  rw [hx, clusterAt_poolEvent, mem_poolEvent]
  refine ⟨rfl, rfl, rfl, rfl, ?_, rfl⟩
  rw [clusterAt_modStrand, clusterAt_modStrand, State.clusterAt_modCluster]

theorem resumes_eq_false {cl : Nat} (h : ∀ i, i < 8 → (s.coreAt (8 * cl + i)).saved = none ∨ (s.coreAt (8 * cl + i)).halting = false) : s.resumes cl = false := by
  rw [State.resumes, List.any_eq_false]
  intro i hi hb
  rw [Bool.and_eq_true] at hb
  obtain ⟨hsaved, hhalt⟩ := hb
  rcases h i (List.mem_range.1 hi) with hn | hn
  · rw [hn] at hsaved
    cases hsaved
  · rw [hn] at hhalt
    cases hhalt

/-! Releases and shrinks (R150, R151). -/

theorem shrinkNow_takes_effect {c k n : Nat} (hs : (s.strandAt c k).shrink = some n) (hn : n < (s.strandAt c k).g) (hq : (s.strandAt c k).laneQ = [])
    (hl : (s.strandAt c k).laneLoads = 0) : s.shrinkNow c k = (s.modStrand c k (fun x => { x.dropGroups n with shrink := none })).poolEvent (clusterOf c) := by
  rw [State.shrinkNow, hs]
  exact if_pos (by simp [hn, hq, hl])

/-- Settles O38. -/
theorem laneClaimsComplete : Obligations.LaneClaimsComplete := by
  refine ⟨fun o s u a h hd hacc hg => ?_, fun x l => ⟨fun y => Claimant.mem_join x y l, fun hl => ?_, fun pre y post hl hpre hcycle hcore hslots hx => ?_⟩,
    fun cl s c rest hcl hfree hrel hres => laneGrant_grants hcl hfree hrel (resumes_eq_false hres), fun s h => ⟨fun hg => ?_, fun hq hl hg => ?_⟩,
    fun s h hdone => ?_, fun o s h hd hacc => ?_, fun r s hlive hrn => ?_, fun c k n s hs hn hq hl hcl => ?_⟩
  · have hk := KeepsStrand.gives hg h.begins.slot_lt
    have hgr := hk.sameLanes.g
    have hcur := hk.cur.trans h.begins.cur_eq
    have he := exec_laneClaim_of_gives h hd hacc hg
    obtain ⟨href, hcl, hcycle, hrank, hclusters⟩ := pool_of_gives h.begins hg
    have hlate : u.tooLate (u.clusterAt u.myCluster).lastClaim u.myRank = s.tooLate (s.clusterAt s.myCluster).lastClaim s.myRank := by
      rw [State.tooLate, State.tooLate, hcl, hcycle, hrank, hclusters]
    have hclaimants : (u.clusterAt u.myCluster).claimants = (s.clusterAt s.myCluster).claimants := by rw [hclusters, hcl]
    rw [← hgr, ← hclaimants, ← hlate, ← hcycle, ← hrank, ← hk.laneQ, ← hk.laneLoads]
    refine ⟨fun hn => ?_, fun h1 h16 hle hl => he.trans (laneClaimOf_late _ h1 h16 hle hl), fun h1 h16 hz hl hc hr hf => ?_, fun h1 h16 hz hl hw => ?_,
      fun h1 h16 hlt hq hl => ?_, fun hz hle h16 hlate hq hl => ?_⟩
    · rw [Traps, he, laneClaimOf_refused _ hn, trap, hk.pc]
      rfl
    · intro g v hroom
      refine completes_of_finish (he.trans (laneClaimOf_first _ h1 h16 hz hl hc hr hf)) hroom ?_
      rw [cur_poolEvent, State.me_modMe]
      exact hcur
    · obtain ⟨t, ht, hst, hstage, hwork, hjoin, hlast, hmem⟩ := laneClaimOf_waits o.d h1 h16 hz hl hw
      rw [← hcl, ← href]
      rw [hcycle] at hjoin
      exact ⟨t, he.trans ht, hst, hstage, hwork, hjoin, hlast, hmem.trans (mem_gives h.begins.slot_lt hg)⟩
    · intro v hroom
      refine completes_of_finish (he.trans (laneClaimOf_shrinks _ h1 h16 hlt hq hl)) hroom ?_
      rw [cur_poolEvent, State.me_modMe]
      exact hcur
    · intro g v hroom
      refine completes_of_finish (he.trans (laneClaimOf_grows _ h16 hz hle hlate hq hl)) hroom ?_
      rw [State.me_modMe]
      exact hcur
  · have hj := Claimant.join_append x l [] (fun y hy => Claimant.before_of_earlier (hl y hy))
    rwa [List.append_nil] at hj
  · subst hl
    exact Claimant.join_place x y pre post hpre hcycle hcore hslots hx
  · refine completes_of_exec ?_ h.begins.cur_eq
    change execLaneRel s = _
    rw [execLaneRel, plain_of_starts h, if_pos hg]
  · refine completes_of_exec ?_ ?_
    · change execLaneRel s = _
      rw [execLaneRel, plain_of_starts h, if_neg hg, (lanesDone_iff _).2 ⟨hq, hl⟩]
      rfl
    · rw [cur_poolEvent, State.me_modMe]
      exact h.begins.cur_eq
  · refine completes_of_exec ?_ ((me_shrinkNow s).trans h.begins.cur_eq)
    change execLaneSync s = _
    have hhold : (s.me.shrink.isSome && !s.me.lanesDone) = false := by
      rcases hdone with hs | hd
      · rw [hs]
        rfl
      · rw [(lanesDone_iff _).2 hd, Bool.not_true, Bool.and_false]
    rw [execLaneSync, plain_of_starts h, hhold, if_neg Bool.false_ne_true]
  · refine later_of_longLatency ?_ h.begins.cur_eq rfl
    change execLaneQuery o s = _
    rw [execLaneQuery, hd, plain_of_starts h, withDst_of_accepts _ _ hacc]
    refine congrArg (fun n => longLatency o.d (word n) s) ?_
    cases s.me.shrink
    · simp only [Option.isSome_none, Bool.false_eq_true, if_false, if_true]
      omega
    · simp only [Option.isSome_some, if_true, reduceCtorEq, if_false]
      omega
  · change execShrinkTakesEffect r s = _
    rw [execShrinkTakesEffect, hlive, hrn]
    rfl
  · rw [shrinkNow_takes_effect hs hn hq hl]
    obtain ⟨x, hx⟩ := strandAt_poolEvent (s.modStrand c k (fun x => { x.dropGroups n with shrink := none })) (clusterOf c) c k
    rw [State.strandAt_modStrand] at hx
    refine ⟨by rw [hx]; rfl, shrink_poolEvent _ _ _ hcl (by rw [State.strandAt_modStrand])⟩

end Sys2Proof.Machine
end

/-! Named barriers (O41). -/
section
namespace Sys2Proof.Machine

variable {s t u v : State} {i : Instr} {m m' : Strand}

/-! Nothing but replies of strands changes. -/

/-- From s to t the focus is the same, and strands have changed in nothing but their replies. -/
structure OnlyReplies (s t : State) : Prop where
  core : t.core = s.core
  slot : t.slot = s.slot
  strand : ∀ c k, ∃ r, t.strandAt c k = { s.strandAt c k with reply := r }

namespace OnlyReplies

theorem refl (s : State) : OnlyReplies s s := ⟨rfl, rfl, fun _ _ => ⟨_, rfl⟩⟩

theorem trans (h : OnlyReplies s t) (h' : OnlyReplies t u) : OnlyReplies s u := by
  refine ⟨h'.core.trans h.core, h'.slot.trans h.slot, fun c k => ?_⟩
  obtain ⟨r, hr⟩ := h.strand c k
  obtain ⟨r', hr'⟩ := h'.strand c k
  exact ⟨r', by rw [hr', hr]⟩

theorem reply (c k : Nat) (x : Reply) : OnlyReplies s (s.modStrand c k (fun m => { m with reply := some x })) := by
  refine ⟨rfl, rfl, fun c' k' => ?_⟩
  by_cases h : c' = c ∧ k' = k
  · obtain ⟨rfl, rfl⟩ := h
    exact ⟨_, State.strandAt_modStrand ..⟩
  · exact ⟨_, strandAt_modStrand_of_ne _ h⟩

theorem setBar (c k : Nat) (b : Bar) : OnlyReplies s (s.modCore c (fun x => x.setBar k b)) :=
  ⟨rfl, rfl, fun c' k' => ⟨_, strandAt_modCore (f := fun x => x.setBar k b) (fun _ => rfl) c' k'⟩⟩

theorem alive (h : OnlyReplies s t) (c k uid : Nat) : t.alive c k uid = s.alive c k uid := by
  obtain ⟨r, hr⟩ := h.strand c k
  rw [State.alive, State.alive, hr]

theorem me (h : OnlyReplies s t) : ∃ r, t.me = { s.me with reply := r } := by
  rw [State.me, h.core, h.slot]
  exact h.strand s.core s.slot

theorem cur (h : OnlyReplies s t) : t.me.cur = s.me.cur := by
  obtain ⟨r, hr⟩ := h.me
  rw [hr]

end OnlyReplies

/-! Waiters that wake (R198). -/

/-- What holds before, and each reply to a waiter keeps, holds after the waiters of a barrier have been woken. -/
theorem wakeBar_induct {P : State → Prop} {core : Nat} {x : Word} {ws : List (StrandRef × Nat)} (hs : P s)
    (hstrand : ∀ t c k, P t → P (t.modStrand c k (fun m => { m with reply := some ⟨x, [], 0⟩ })))
    (hacks : ∀ (t : State) (l : List Ack) (n : Nat), P t → P { t with acks := l, serial := n }) : P (s.wakeBar core ws x) := by
  refine List.foldlRecOn (motive := P) ws _ hs (fun t ht w _ => ?_)
  split
  · exact ht
  · split
    · exact hstrand t _ _ ht
    · exact hacks t _ _ ht

theorem onlyReplies_wakeBar (core : Nat) (ws : List (StrandRef × Nat)) (x : Word) : OnlyReplies s (s.wakeBar core ws x) :=
  wakeBar_induct (P := OnlyReplies s) (.refl s) (fun _ c k ht => ht.trans (.reply c k _)) (fun _ _ _ ht => ht.trans ⟨rfl, rfl, fun _ _ => ⟨_, rfl⟩⟩)

theorem bar_modStrand (c k c' n : Nat) (f : Strand → Strand) : ((s.modStrand c k f).coreAt c').bar n = (s.coreAt c').bar n := by
  by_cases h : c' = c
  · subst h
    rw [State.modStrand, State.coreAt_modCore]
    rfl
  · rw [State.modStrand, s.coreAt_modCore_other _ _ _ h]

theorem bar_wakeBar (core c n : Nat) (ws : List (StrandRef × Nat)) (x : Word) : ((s.wakeBar core ws x).coreAt c).bar n = (s.coreAt c).bar n :=
  wakeBar_induct (P := fun t => (t.coreAt c).bar n = (s.coreAt c).bar n) rfl (fun _ _ _ ht => (bar_modStrand ..).trans ht) (fun _ _ _ ht => ht)

/-- A live waiter of the barrier's own core has its reply. -/
theorem reply_wakeBar {core : Nat} {x : Word} {w : StrandRef × Nat} (hcore : w.1.core = core) {ws : List (StrandRef × Nat)} (hw : w ∈ ws) :
    ∀ s : State, s.alive w.1.core w.1.slot w.2 = true → ((s.wakeBar core ws x).strandOf w.1).reply = some ⟨x, [], 0⟩ := by
  induction ws with
  | nil => cases hw
  | cons w' ws ih =>
    intro s halive
    have hcons : s.wakeBar core (w' :: ws) x = (s.wakeBar core [w'] x).wakeBar core ws x := rfl
    rw [hcons]
    rcases List.mem_cons.1 hw with rfl | hw
    · have hone : s.wakeBar core [w] x = s.modStrand w.1.core w.1.slot (fun m => { m with reply := some ⟨x, [], 0⟩ }) := by
        refine (if_neg (by simp [halive])).trans (if_pos hcore)
      refine wakeBar_induct (P := fun t => (t.strandOf w.1).reply = some ⟨x, [], 0⟩) (by rw [hone, strandOf_modStrand]) (fun t c k ht => ?_) (fun _ _ _ ht => ht)
      by_cases h : w.1.core = c ∧ w.1.slot = k
      · obtain ⟨rfl, rfl⟩ := h
        rw [strandOf_modStrand]
      · rw [State.strandOf, strandAt_modStrand_of_ne _ h]
        exact ht
    · exact ih hw _ (by rwa [(onlyReplies_wakeBar core [w'] x).alive])

/-! Operations on a barrier (R198). -/

/-- A barrier that differs from the one of reset is kept. -/
theorem bar_setBar (c k : Nat) {b : Bar} (hb : b.st ≠ 0) : ((s.modCore c (fun x => x.setBar k b)).coreAt c).bar k = b := by
  have hne : b ≠ ⟨0, 0, 0, 0, []⟩ := fun h => hb (congrArg Bar.st h)
  rw [State.coreAt_modCore, Core.bar, Core.setBar, Tbl.set, if_neg hne, Tbl.get_put_same]

/-- What becomes of a barrier whose phase an arrival ends, or does not. -/
def Bar.arrived (b : Bar) : Bar := if b.a + 1 = b.n then { b with a := 0, ph := (b.ph + 1) % 65536, waiters := [] } else { b with a := b.a + 1 }

/-- A strand arrives at a barrier (R198). -/
def State.arriveAt (s : State) (c k : Nat) : State :=
  let b := (s.coreAt c).bar k
  if b.a + 1 = b.n then (s.modCore c (fun x => x.setBar k { b with a := 0, ph := (b.ph + 1) % 65536, waiters := [] })).wakeBar c b.waiters 0
  else s.modCore c (fun x => x.setBar k { b with a := b.a + 1 })

/-- A strand waits at a barrier for the end of phase p (R198). -/
def State.waitAt (s : State) (c k p : Nat) (who : StrandRef) (uid : Nat) : Option Word × State :=
  let b := (s.coreAt c).bar k
  if b.st ≠ 1 then (some 1, s) else if b.ph ≠ p then (some 0, s) else (none, s.modCore c (fun x => x.setBar k { b with waiters := b.waiters ++ [(who, uid)] }))

section apply
variable (s : State) (c k : Nat) (who : StrandRef) (uid : Nat)

theorem barApply_init (n : Nat) : s.barApply c k (.init n) who uid =
    (some 0, (s.modCore c (fun x => x.setBar k ⟨1, n, 0, 0, []⟩)).wakeBar c ((s.coreAt c).bar k).waiters 1) := rfl

theorem barApply_inval : s.barApply c k .inval who uid =
    (some 0, (s.modCore c (fun x => x.setBar k { (s.coreAt c).bar k with st := 2, a := 0, waiters := [] })).wakeBar c ((s.coreAt c).bar k).waiters 1) := rfl

theorem barApply_query {b : Bar} (hb : (s.coreAt c).bar k = b) :
    s.barApply c k .query who uid = (some (word (b.st * 2 ^ 48 + b.ph * 2 ^ 32 + b.n * 2 ^ 16 + b.a)), s) := by
  subst hb
  rfl

theorem barApply_arrive : s.barApply c k .arrive who uid =
    if ((s.coreAt c).bar k).st ≠ 1 then (some (word (2 ^ 63 + ((s.coreAt c).bar k).ph)), s) else (some (word ((s.coreAt c).bar k).ph), s.arriveAt c k) := rfl

theorem barApply_arrwait : s.barApply c k .arrwait who uid =
    if ((s.coreAt c).bar k).st ≠ 1 then (some 1, s) else (s.arriveAt c k).waitAt c k ((s.coreAt c).bar k).ph who uid := rfl

theorem onlyReplies_arriveAt : OnlyReplies s (s.arriveAt c k) := by
  unfold State.arriveAt
  dsimp only
  split
  · exact (OnlyReplies.setBar c k _).trans (onlyReplies_wakeBar ..)
  · exact .setBar c k _

theorem onlyReplies_waitAt (p : Nat) : OnlyReplies s (s.waitAt c k p who uid).2 := by
  unfold State.waitAt
  dsimp only
  split
  · exact .refl s
  · split
    · exact .refl s
    · exact .setBar c k _

theorem onlyReplies_barApply (op : BarOp) : OnlyReplies s (s.barApply c k op who uid).2 := by
  cases op with
  | init n => exact (OnlyReplies.setBar c k _).trans (onlyReplies_wakeBar ..)
  | inval => exact (OnlyReplies.setBar c k _).trans (onlyReplies_wakeBar ..)
  | query => exact .refl s
  | arrive =>
    rw [barApply_arrive]
    split
    · exact .refl s
    · exact onlyReplies_arriveAt s c k
  | wait p => exact onlyReplies_waitAt s c k who uid p
  | arrwait =>
    rw [barApply_arrwait]
    split
    · exact .refl s
    · exact (onlyReplies_arriveAt s c k).trans (onlyReplies_waitAt _ c k who uid _)

end apply

theorem arriveAt_last {c k : Nat} (ha : ((s.coreAt c).bar k).a + 1 = ((s.coreAt c).bar k).n) : s.arriveAt c k =
    (s.modCore c (fun x => x.setBar k { (s.coreAt c).bar k with a := 0, ph := (((s.coreAt c).bar k).ph + 1) % 65536, waiters := [] })).wakeBar c
      ((s.coreAt c).bar k).waiters 0 := if_pos ha

theorem arriveAt_early {c k : Nat} (ha : ((s.coreAt c).bar k).a + 1 ≠ ((s.coreAt c).bar k).n) :
    s.arriveAt c k = s.modCore c (fun x => x.setBar k { (s.coreAt c).bar k with a := ((s.coreAt c).bar k).a + 1 }) := if_neg ha

theorem bar_arriveAt (c k : Nat) (hst : ((s.coreAt c).bar k).st = 1) : ((s.arriveAt c k).coreAt c).bar k = ((s.coreAt c).bar k).arrived := by
  have hne : ((s.coreAt c).bar k).st ≠ 0 := by omega
  rw [Bar.arrived]
  split
  · next ha => rw [arriveAt_last ha, bar_wakeBar, bar_setBar c k (by exact hne)]
  · next ha => rw [arriveAt_early ha, bar_setBar c k (by exact hne)]

theorem waitAt_invalid {c k p : Nat} {who : StrandRef} {uid : Nat} (h : ((s.coreAt c).bar k).st ≠ 1) : s.waitAt c k p who uid = (some 1, s) := if_pos h

theorem waitAt_over {c k p : Nat} {who : StrandRef} {uid : Nat} (hst : ((s.coreAt c).bar k).st = 1) (hp : ((s.coreAt c).bar k).ph ≠ p) :
    s.waitAt c k p who uid = (some 0, s) := (if_neg (not_not.2 hst)).trans (if_pos hp)

theorem waitAt_waits {c k p : Nat} {who : StrandRef} {uid : Nat} (hst : ((s.coreAt c).bar k).st = 1) (hp : ((s.coreAt c).bar k).ph = p) : s.waitAt c k p who uid =
    (none, s.modCore c (fun x => x.setBar k { (s.coreAt c).bar k with waiters := ((s.coreAt c).bar k).waiters ++ [(who, uid)] })) :=
  (if_neg (not_not.2 hst)).trans (if_neg (not_not.2 hp))

/-! Operations of the own core and of another one (R198, R266). -/

/-- A strand at a re-negotiation point, or not (R151). -/
def State.pointAt (s : State) (waits parks : Bool) : State := if waits then s.renegotiate parks else s

section operation
variable {a x : Word} {op : BarOp} {c k d : Nat} {waits : Bool}

theorem barOp_own (hn : s.barNamed a = some (c, k)) (hc : c = s.core) (happ : s.barApply c k op s.myRef s.me.uid = (some x, t)) :
    barOp a op none waits s = complete (t.pointAt waits false) := by
  rw [barOp, hn]
  dsimp only
  rw [if_pos hc, happ]
  rfl

theorem barOp_own_writes (hn : s.barNamed a = some (c, k)) (hc : c = s.core) (happ : s.barApply c k op s.myRef s.me.uid = (some x, t)) :
    barOp a op (some d) waits s = deliverTo d x (t.pointAt waits false) complete := by
  rw [barOp, hn]
  dsimp only
  rw [if_pos hc, happ]
  rfl

theorem barOp_own_parks (hn : s.barNamed a = some (c, k)) (hc : c = s.core) (happ : s.barApply c k op s.myRef s.me.uid = (none, t)) :
    barOp a op (some d) waits s = .next ((t.pointAt waits true).modMe (fun m => { m with stage := 9, work := [d], status := .parked .barrier })) := by
  rw [barOp, hn]
  dsimp only
  rw [if_pos hc, happ]
  exact congrArg Host.Outcome.next (State.modMe_modMe ..)

theorem barOp_other (hn : s.barNamed a = some (c, k)) (hc : c ≠ s.core) :
    barOp a op none waits s = complete (s.post 1 0 0 0 0 ⟨.core, c, 0⟩ (.bar k op)) := by
  rw [barOp, hn]
  dsimp only
  rw [if_neg hc]

theorem barOp_other_awaits (hn : s.barNamed a = some (c, k)) (hc : c ≠ s.core) :
    barOp a op (some d) waits s = awaitReply d ((s.post 1 0 0 0 0 ⟨.core, c, 0⟩ (.bar k op)).pointAt waits true) := by
  rw [barOp, hn]
  dsimp only
  rw [if_neg hc]
  rfl

end operation

theorem cur_renegotiate (s : State) (parks : Bool) : (s.renegotiate parks).me.cur = s.me.cur := by
  rw [State.renegotiate, State.me_modMe]
  exact me_shrinkNow s

theorem cur_pointAt (s : State) (waits parks : Bool) : (s.pointAt waits parks).me.cur = s.me.cur := by
  cases waits
  · rfl
  · exact cur_renegotiate s parks

/-- The strand after a barrier operation of its own. -/
theorem cur_barApply {op : BarOp} {c k uid : Nat} {who : StrandRef} {r : Option Word} (h : s.barApply c k op who uid = (r, t)) : t.me.cur = s.me.cur := by
  have hkeeps := (onlyReplies_barApply s c k who uid op).cur
  rwa [h] at hkeeps

/-- An operation that no strand waits for, at its core. -/
theorem barOp_completes {op : BarOp} {a x : Word} {c k : Nat} (he : exec i s = barOp a op none false v) (hcur : v.me.cur = some i) (hn : v.barNamed a = some (c, k))
    (hx : (v.barApply c k op v.myRef v.me.uid).1 = some x) :
    (c = v.core → Completes i s (v.barApply c k op v.myRef v.me.uid).2) ∧ (c ≠ v.core → Completes i s (v.post 1 0 0 0 0 ⟨.core, c, 0⟩ (.bar k op))) := by
  refine ⟨fun hc => ?_, fun hc => ?_⟩
  · have happ : v.barApply c k op v.myRef v.me.uid = (some x, (v.barApply c k op v.myRef v.me.uid).2) := Prod.ext hx rfl
    exact completes_of_exec (he.trans (barOp_own hn hc happ)) ((cur_barApply happ).trans hcur)
  · exact completes_of_exec (he.trans (barOp_other hn hc)) hcur

/-- An operation whose result is written to d. -/
theorem barOp_delivers {op : BarOp} {a x : Word} {c k : Nat} {d : Code} {waits : Bool} (he : exec i s = barOp a op (some d.toNat) waits v) (hcur : v.me.cur = some i)
    (hn : v.barNamed a = some (c, k)) (hc : c = v.core) (happ : v.barApply c k op v.myRef v.me.uid = (some x, t)) (hroom : (t.pointAt waits false).room d = true) :
    Completes i s ((t.pointAt waits false).put d x) :=
  completes_of_finish (he.trans (barOp_own_writes hn hc happ)) hroom ((cur_pointAt ..).trans ((cur_barApply happ).trans hcur))

theorem barOp_awaits {op : BarOp} {a : Word} {c k : Nat} {d : Code} {waits : Bool} (he : exec i s = barOp a op (some d.toNat) waits v)
    (hn : v.barNamed a = some (c, k)) (hc : c ≠ v.core) : Awaits i s ((v.post 1 0 0 0 0 ⟨.core, c, 0⟩ (.bar k op)).pointAt waits true) d.toNat :=
  he.trans (barOp_other_awaits hn hc)

/-- `bar.init` with a count and operands that can be read. -/
theorem exec_barInit_of_gives {o : FmtTwo} {a b : Word} (h : s.Starts (.barInit o)) (hacq : s.acquirePending = false) (ha : s.Gives o.a o.x a u)
    (hb : u.Gives o.b o.y b v) (hcount : bitsOf b 0 16 ≠ 0) : exec (.barInit o) s = barOp a (.init (bitsOf b 0 16)) none false v := by
  have hx : srcOk o.x o.a = true := ha.1
  have hy : srcOk o.y o.b = true := hb.1
  change execBarInit o s = _
  rw [execBarInit, hx, hy, Bool.and_self, plain_of_starts h, ordered_of_free _ hacq, readSrc_of_gives (by rw [h.begins.reads_eq]; rfl) ha,
    readSrc_of_gives (length_reads_of_first h.begins ha) hb, decide_eq_false hcount, Bool.and_false, if_neg Bool.false_ne_true]

theorem exec_barInval_of_gives {o : FmtSrc} {a : Word} (h : s.Starts (.barInval o)) (hacq : s.acquirePending = false) (ha : s.Gives o.a o.x a u) :
    exec (.barInval o) s = barOp a .inval none false u := by
  have hx : srcOk o.x o.a = true := ha.1
  change execBarInval o s = _
  rw [execBarInval, hx, plain_of_starts h, ordered_of_free _ hacq, readSrc_of_gives (by rw [h.begins.reads_eq]; rfl) ha]

/-- The operations of one operand with a result; the arrivals are releases at device scope (R198). -/
theorem exec_barArrival_of_gives : ∀ p ∈ [(Instr.barArrive, BarOp.arrive, false), (.barQuery, .query, false), (.barArrwait, .arrwait, true)],
    ∀ {o : FmtUn} {s u : State} {a : Word} {c k : Nat}, s.Starts (p.1 o) → s.acquirePending = false → dstOk o.d = true → s.accepts o.d = true → s.Gives o.a o.x a u →
      u.barNamed a = some (c, k) → u.releaseOk 2 = true → exec (p.1 o) s = barOp a p.2.1 (some o.d.toNat) p.2.2 u := by
  simp only [List.forall_mem_cons, List.not_mem_nil, false_imp_iff, implies_true, and_true]
  refine ⟨fun {o s u a c k} h hacq hd hacc ha hn hrel => ?_, fun {o s u a c k} h hacq hd hacc ha hn hrel => ?_, fun {o s u a c k} h hacq hd hacc ha hn hrel => ?_⟩
  · have hx : srcOk o.x o.a = true := ha.1
    change execBarArrive o s = _
    rw [execBarArrive, hx, hd, Bool.and_self, plain_of_starts h, ordered_of_free _ hacq, withDst_of_accepts _ _ hacc, readSrc_of_gives (by rw [h.begins.reads_eq]; rfl) ha,
      hn, if_neg (by simp), releasing_ok hrel]
  · have hx : srcOk o.x o.a = true := ha.1
    change execBarQuery o s = _
    rw [execBarQuery, hx, hd, Bool.and_self, plain_of_starts h, ordered_of_free _ hacq, withDst_of_accepts _ _ hacc, readSrc_of_gives (by rw [h.begins.reads_eq]; rfl) ha]
  · have hx : srcOk o.x o.a = true := ha.1
    change execBarArrwait o s = _
    rw [execBarArrwait, hx, hd, Bool.and_self, plain_of_starts h, ordered_of_free _ hacq, withDst_of_accepts _ _ hacc, readSrc_of_gives (by rw [h.begins.reads_eq]; rfl) ha,
      hn, if_neg (by simp), releasing_ok hrel]

theorem exec_barWait_of_gives {o : FmtA} {a b : Word} (h : s.Starts (.barWait o)) (hacq : s.acquirePending = false) (hd : dstOk o.d = true) (hacc : s.accepts o.d = true)
    (ha : s.Gives o.a o.x a u) (hb : u.Gives o.b o.y b v) : exec (.barWait o) s = barOp a (.wait (bitsOf b 0 16)) (some o.d.toNat) true v := by
  have hx : srcOk o.x o.a = true := ha.1
  have hy : srcOk o.y o.b = true := hb.1
  change execBarWait o s = _
  rw [execBarWait, hx, hy, hd, Bool.and_self, Bool.and_self, plain_of_starts h, ordered_of_free _ hacq, withDst_of_accepts _ _ hacc,
    two_of_gives o a b u v _ h.begins.reads_eq h.begins.slot_lt ha hb]

/-- Whether an operation of another core has no reply (log 47). -/
def BarOp.silent : BarOp → Bool
  | .init _ | .inval => true
  | _ => false

section remote
variable {j k : Nat} {m : Msg} {op : BarOp} (hm : s.net[j]? = some m) (hbody : m.body = .bar k op) (hbar : s.barred j m = false)
  (hrel : s.relocking m.home.unit = false) (hlast : ¬(s.nextBeat m.home.unit - 1 = (s.coreAt m.home.unit).barLast.1 ∧ m.core < (s.coreAt m.home.unit).barLast.2))
include hm hbody hbar hrel hlast

/-- A barrier operation of another core that must wait parks its strand (R266). -/
theorem remoteBarOp_parks (happ : (((s.wakeUnit m.home.unit).dropMsg j).modCore m.home.unit (fun c => { c with barLast := (s.nextBeat m.home.unit - 1, m.core) })).barApply
      m.home.unit k op ⟨m.core, m.slot⟩ m.uid = (none, t)) : exec (.remoteBarOp j) s = .next (t.modIssuer m (fun y => { y with status := .parked .barrier })) := by
  change execRemoteBarOp j s = _
  rw [execRemoteBarOp, hm]
  dsimp only
  rw [hbody]
  dsimp only
  rw [hrel, if_neg Bool.false_ne_true, hbar, if_neg (by simpa using hlast), happ]

theorem remoteBarOp_answers {x : Word} (happ : (((s.wakeUnit m.home.unit).dropMsg j).modCore m.home.unit
      (fun c => { c with barLast := (s.nextBeat m.home.unit - 1, m.core) })).barApply m.home.unit k op ⟨m.core, m.slot⟩ m.uid = (some x, t)) :
    exec (.remoteBarOp j) s = .next (if op.silent then t else t.replyTo m x) := by
  change execRemoteBarOp j s = _
  rw [execRemoteBarOp, hm]
  dsimp only
  rw [hbody]
  dsimp only
  rw [hrel, if_neg Bool.false_ne_true, hbar, if_neg (by simpa using hlast), happ]
  cases op <;> rfl

end remote

/-- Settles O41. -/
theorem barriersComplete : Obligations.BarriersComplete := by
  refine ⟨fun s c k who uid b hb => ?_, fun o s u v a b c k h hacq ha hb hn hcount => ?_, fun o s u a c k h hacq ha hn => ?_,
    fun p hp o s u t a x c k h hacq hd hacc ha hn hrel => ?_, fun o s u t a x c k h hacq hd hacc ha hn hrel => ?_,
    fun o s u v t a b x c k h hacq hd hacc ha hb hn => ?_, fun j s t m k op x hm hbody hbar hrel hlast => ?_⟩
  · subst hb
    have harrive (hst : ((s.coreAt c).bar k).st = 1) : s.barApply c k .arrive who uid = (some (word ((s.coreAt c).bar k).ph), s.arriveAt c k) :=
      (barApply_arrive ..).trans (if_neg (not_not.2 hst))
    have harrwait (hst : ((s.coreAt c).bar k).st = 1) : s.barApply c k .arrwait who uid = (s.arriveAt c k).waitAt c k ((s.coreAt c).bar k).ph who uid :=
      (barApply_arrwait ..).trans (if_neg (not_not.2 hst))
    refine ⟨fun n _ => ⟨rfl, ?_⟩, ⟨rfl, ?_⟩, barApply_query s c k who uid rfl, fun hst => ⟨(barApply_arrive ..).trans (if_pos hst), (barApply_arrwait ..).trans (if_pos hst)⟩, fun hst ha => ⟨?_, ?_⟩,
      fun hst ha hph => ?_, fun p => ⟨waitAt_invalid, waitAt_over, waitAt_waits⟩⟩
    · rw [barApply_init, bar_wakeBar, bar_setBar c k (by exact Nat.one_ne_zero)]
    · rw [barApply_inval, bar_wakeBar, bar_setBar c k (by exact Nat.succ_ne_zero 1)]
    · rw [harrive hst, arriveAt_early ha]
    · have hbar := bar_arriveAt (s := s) c k hst
      rw [Bar.arrived, if_neg ha] at hbar
      rw [harrwait hst, waitAt_waits (by rw [hbar]; exact hst) (by rw [hbar])]
      refine ⟨_, rfl, ?_⟩
      rw [hbar, bar_setBar c k (by rw [hst]; exact Nat.one_ne_zero)]
    · have hbar := bar_arriveAt (s := s) c k hst
      rw [Bar.arrived, if_pos ha] at hbar
      rw [harrive hst, harrwait hst]
      refine ⟨rfl, ?_, hbar, fun w hw hcore halive => ?_⟩
      · rw [waitAt_over (by rw [hbar]; exact hst) (by rw [hbar]; dsimp only; omega)]
      · rw [arriveAt_last ha]
        exact reply_wakeBar hcore hw _ (by rw [(OnlyReplies.setBar c k _).alive]; exact halive)
  · have hk := KeepsStrand.givesTwo h.begins ha hb
    have hx : (v.barApply c k (.init (bitsOf b 0 16)) v.myRef v.me.uid).1 = some 0 := by rw [barApply_init]
    rw [← hk.core]
    exact barOp_completes (exec_barInit_of_gives h hacq ha hb hcount) (hk.cur.trans h.begins.cur_eq) hn hx
  · have hk := KeepsStrand.gives ha h.begins.slot_lt
    have hx : (u.barApply c k .inval u.myRef u.me.uid).1 = some 0 := by rw [barApply_inval]
    rw [← hk.core]
    exact barOp_completes (exec_barInval_of_gives h hacq ha) (hk.cur.trans h.begins.cur_eq) hn hx
  · have hk := KeepsStrand.gives ha h.begins.slot_lt
    have he : exec (p.1 o) s = barOp a p.2 (some o.d.toNat) false u := by
      simp only [List.mem_cons, List.not_mem_nil, or_false] at hp
      obtain rfl | rfl := hp
      · exact exec_barArrival_of_gives (.barArrive, .arrive, false) (by simp) h hacq hd hacc ha hn hrel
      · exact exec_barArrival_of_gives (.barQuery, .query, false) (by simp) h hacq hd hacc ha hn hrel
    rw [← hk.core]
    exact ⟨fun hc happ hroom => barOp_delivers (t := t) (waits := false) he (hk.cur.trans h.begins.cur_eq) hn hc happ hroom, fun hc => barOp_awaits (waits := false) he hn hc⟩
  · have hk := KeepsStrand.gives ha h.begins.slot_lt
    have he := exec_barArrival_of_gives (.barArrwait, .arrwait, true) (by simp) h hacq hd hacc ha hn hrel
    rw [← hk.core]
    exact ⟨fun hc happ hroom => barOp_delivers (t := t) (waits := true) he (hk.cur.trans h.begins.cur_eq) hn hc happ hroom, fun hc happ => he.trans (barOp_own_parks (waits := true) hn hc happ),
      fun hc => barOp_awaits (waits := true) he hn hc⟩
  · have hk := KeepsStrand.givesTwo h.begins ha hb
    have he := exec_barWait_of_gives h hacq hd hacc ha hb
    rw [← hk.core]
    exact ⟨fun hc happ hroom => barOp_delivers (t := t) (waits := true) he (hk.cur.trans h.begins.cur_eq) hn hc happ hroom, fun hc happ => he.trans (barOp_own_parks (waits := true) hn hc happ),
      fun hc => barOp_awaits (waits := true) he hn hc⟩
  · refine ⟨remoteBarOp_parks hm hbody hbar hrel hlast, fun happ => ⟨fun hop => ?_, fun hop => ?_⟩⟩
    · have he := remoteBarOp_answers hm hbody hbar hrel hlast happ
      rcases hop with rfl | ⟨n, rfl⟩
      · exact he
      · exact he
    · subst hop
      exact remoteBarOp_answers hm hbody hbar hrel hlast happ

end Sys2Proof.Machine
end

/-! Lane memory (O39). -/
section
namespace Sys2Proof.Machine

variable {s t u v : State} {i : Instr} {m m' : Strand}

/-! The checks of the elements keep the strand. -/

/-- A check of an element goes on only in states that keep the strand in focus: continuations that agree there give the same answer. -/
def KeepsInCheck (chk : Word → State → (Place → Nat → State → Out) → Out) : Prop :=
  ∀ (a : Word) (s0 s : State) (k k' : Place → Nat → State → Out), KeepsStrand s0 s → (∀ p bo t, KeepsStrand s0 t → k p bo t = k' p bo t) → chk a s k = chk a s k'

theorem keepsInCheck_element (kd : Acc) (n : Nat) (op : Word) : KeepsInCheck (elementCheck kd n op) := by
  intro a s0 s k k' hs hk
  unfold elementCheck
  split
  · rfl
  · exact accessBy_congr hs (fun p t ht => hk p 0 t ht)

theorem keepsInCheck_bit (kd : Acc) (w : Nat) (op : Word) : KeepsInCheck (bitElement kd w op) := by
  intro a s0 s k k' hs hk
  unfold bitElement bitAccess
  refine ite_congr rfl (fun _ => rfl) (fun _ => ?_)
  dsimp only
  split
  · rfl
  · exact accessBy_congr hs (fun p t ht => hk _ _ t ht)

theorem laneElements_congr {chk : Word → State → (Place → Nat → State → Out) → Out} (hchk : KeepsInCheck chk) {k k' : List (Nat × Place × Nat) → State → Out}
    (h : ∀ ps t, KeepsStrand u t → k ps t = k' ps t) (es : List (Nat × Word)) :
    ∀ (acc : List (Nat × Place × Nat)) (s : State), KeepsStrand u s → laneElements chk es acc s k = laneElements chk es acc s k' := by
  induction es with
  | nil => exact fun acc s hs => h _ s hs
  | cons e es ih => exact fun acc s hs => hchk e.2 u s _ _ hs (fun p bo t ht => ih _ t ht)

/-- Elements that pass their checks leave the strand as it was. -/
theorem AdmitsAll.keepsStrand {chk : Word → State → (Place → Nat → State → Out) → Out} {es : List (Nat × Word)} {ps : List (Nat × Place × Nat)}
    (hchk : KeepsInCheck chk) (h : AdmitsAll chk es s ps t) : KeepsStrand s t := by
  classical
  by_contra hn
  have hcongr := laneElements_congr hchk (u := s) (k := fun _ _ => .refused (.notModelled ""))
    (k' := fun _ t => if KeepsStrand s t then .refused (.notModelled "") else .next t) (fun p t ht => (if_pos ht).symm) es [] s (.refl s)
  rw [h, h, if_neg hn] at hcongr
  cases hcongr

theorem Strand.SameLanes.activeLanes (h : m.SameLanes m') (masked : Bool) (addr : Nat → Word) : m'.activeLanes masked addr = m.activeLanes masked addr := by
  rw [Strand.activeLanes, Strand.activeLanes, h.vl, h.mask]

/-! Reads in flight. -/

/-- The reads of the elements ps of a lane load into register d (R167). -/
def laneReads (d : Nat) (parts : Nat → List (Nat × Nat × Nat × Nat × Nat)) (ps : List (Nat × Place × Nat)) : List (Place × Nat × LoadDst) :=
  ps.flatMap (fun e => (parts e.2.2).map (fun x =>
    (({ e.2.1 with named := e.2.1.named + x.1, loc := e.2.1.loc + x.1 } : Place), x.2.1, LoadDst.lane d e.1 x.2.2.1 x.2.2.2.1 x.2.2.2.2)))

/-- One read of a lane load is in flight. -/
def State.postRead (op : Nat) (ctxOf : Place → State → Nat) (s : State) (r : Place × Nat × LoadDst) : State :=
  (s.postOf op 1 (ctxOf r.1 s) r.1.named r.1.loc r.2.1 (s.homeFor r.1 (ctxOf r.1 s)) (.load r.2.2)).modMe (fun m => { m with laneLoads := m.laneLoads + 1 })

/-- The reads of a lane load are in flight. -/
def State.postReads (op : Nat) (ctxOf : Place → State → Nat) (s : State) (rs : List (Place × Nat × LoadDst)) : State := rs.foldl (State.postRead op ctxOf) s

section reads
variable {op : Nat} {ctxOf : Place → State → Nat}

theorem me_postRead (r : Place × Nat × LoadDst) : (s.postRead op ctxOf r).me = { s.me with laneLoads := s.me.laneLoads + 1 } := State.me_modMe ..

theorem me_postReads (rs : List (Place × Nat × LoadDst)) : ∀ s : State, (s.postReads op ctxOf rs).me = { s.me with laneLoads := s.me.laneLoads + rs.length } := by
  induction rs with
  | nil => exact fun _ => rfl
  | cons r rs ih =>
    intro s
    refine (ih (s.postRead op ctxOf r)).trans ?_
    rw [me_postRead, List.length_cons, Nat.add_assoc, Nat.add_comm 1]

theorem net_postReads (rs : List (Place × Nat × LoadDst)) : ∀ s : State, (s.postReads op ctxOf rs).net.map (fun m => (m.loc, m.size, m.body)) =
    s.net.map (fun m => (m.loc, m.size, m.body)) ++ rs.map (fun r => (r.1.loc, r.2.1, Body.load r.2.2)) := by
  induction rs with
  | nil => exact fun s => (List.append_nil _).symm
  | cons r rs ih =>
    intro s
    refine (ih (s.postRead op ctxOf r)).trans ?_
    have hone : (s.postRead op ctxOf r).net.map (fun m => (m.loc, m.size, m.body)) = s.net.map (fun m => (m.loc, m.size, m.body)) ++ [(r.1.loc, r.2.1, Body.load r.2.2)] :=
      List.map_append
    rw [hone, List.map_cons, List.append_assoc]
    rfl

/-- Reads in flight change neither memory nor saggars. -/
theorem postReads_frame (rs : List (Place × Nat × LoadDst)) : ∀ s : State, (s.postReads op ctxOf rs).mem = s.mem ∧ (s.postReads op ctxOf rs).saggars = s.saggars := by
  induction rs with
  | nil => exact fun _ => ⟨rfl, rfl⟩
  | cons r rs ih => exact fun s => ih (s.postRead op ctxOf r)

end reads

theorem crosses_of_net_nil (h : s.net = []) (load : Bool) (x : Home) (loc n : Nat) : s.crosses load x loc n = false := by
  rw [State.crosses, h, List.any_nil]

theorem parkedOverlap_of_replay_nil (h : s.myCore.replay = []) (named n : Nat) : s.parkedOverlap named n = false := by
  rw [State.parkedOverlap, h, List.any_nil]

/-- The state after the reads of a lane load have been sent. -/
def State.lanesSent (s : State) (d : Nat) (acq : Bool) (ctxOf : Place → State → Nat) (parts : Nat → List (Nat × Nat × Nat × Nat × Nat)) (addr : Nat → Word)
    (ps : List (Nat × Place × Nat)) : State :=
  (s.postReads s.serial ctxOf (laneReads d parts ps)).modMe (fun m => { m with
    laneAcq := m.laneAcq || (acq && !ps.isEmpty), laneIn := ps.foldl (fun t e => Tbl.put t (d * 256 + e.1) (LaneIn.mk 0 false (addr e.1))) [] })

section loads
variable {d : Nat} {acq : Bool} {ctxOf : Place → State → Nat} {parts : Nat → List (Nat × Nat × Nat × Nat × Nat)} {addr : Nat → Word} {ps : List (Nat × Place × Nat)}

theorem me_lanesSent : (s.lanesSent d acq ctxOf parts addr ps).me = { s.me with
    laneLoads := s.me.laneLoads + (laneReads d parts ps).length, laneAcq := s.me.laneAcq || (acq && !ps.isEmpty),
    laneIn := ps.foldl (fun t e => Tbl.put t (d * 256 + e.1) (LaneIn.mk 0 false (addr e.1))) [] } := by
  rw [State.lanesSent, State.me_modMe, me_postReads]

theorem poisonTraps_lanesSent : (s.lanesSent d acq ctxOf parts addr ps).poisonTraps = s.poisonTraps := by
  have hsag : (s.lanesSent d acq ctxOf parts addr ps).saggars = s.saggars := (postReads_frame _ s).2
  simp only [State.poisonTraps, State.sagAt, hsag, me_lanesSent]

theorem mem_lanesSent : (s.lanesSent d acq ctxOf parts addr ps).mem = s.mem := (postReads_frame _ s).1

/-- A lane load that nothing bars sends its reads (R167, R176). -/
theorem sendLoads_of_free (hreplay : s.myCore.replay = []) (hnet : s.net = []) (hroom : s.requestRoom 1 = true) : sendLoads d acq ctxOf parts addr ps s =
    if s.poisonTraps = true ∧ ps ≠ [] then awaitReply 56 (s.lanesSent d acq ctxOf parts addr ps) else complete (s.lanesSent d acq ctxOf parts addr ps) := by
  have hfind : (laneReads d parts ps).find? (fun r => s.parkedOverlap r.1.named r.2.1) = none :=
    List.find?_eq_none.2 (fun r _ => by rw [parkedOverlap_of_replay_nil hreplay]; exact Bool.false_ne_true)
  have hcross : (laneReads d parts ps).any (fun r => s.crosses true (s.homeFor r.1 (ctxOf r.1 s)) r.1.loc r.2.1) = false :=
    List.any_eq_false.2 (fun r _ => by rw [crosses_of_net_nil hnet]; exact Bool.false_ne_true)
  have hgo : ((!ps.isEmpty && !s.requestRoom 1) || (laneReads d parts ps).any (fun r => s.crosses true (s.homeFor r.1 (ctxOf r.1 s)) r.1.loc r.2.1)) = false := by
    rw [hroom, hcross, Bool.not_true, Bool.and_false, Bool.or_false]
  unfold laneReads at hfind hgo
  unfold sendLoads
  dsimp only
  rw [hfind]
  dsimp only
  rw [hgo, if_neg Bool.false_ne_true]
  refine ite_congr ?_ (fun _ => rfl) (fun _ => rfl)
  rw [Bool.and_eq_true]
  refine congrArg₂ And (congrArg (· = true) poisonTraps_lanesSent) ?_
  simp

/-- A lane load ends, or awaits its data where poison traps are elected, with one read in flight for each part of each element. -/
theorem laneLoad_ends (he : exec i s = sendLoads d acq ctxOf parts addr ps t) (h : s.Begins i) (hk : KeepsStrand s t) (hr : s.LanesReady)
    (hreplay : t.myCore.replay = []) (hnet : t.net = []) (hroom : t.requestRoom 1 = true) :
    ∃ w, (if t.poisonTraps = true ∧ ps ≠ [] then Awaits i s w 56 else Completes i s w) ∧ w.me.laneLoads = (laneReads d parts ps).length ∧
      w.net.map (fun m => (m.loc, m.size, m.body)) = (laneReads d parts ps).map (fun r => (r.1.loc, r.2.1, Body.load r.2.2)) ∧ w.mem = t.mem := by
  obtain ⟨-, -, -, hl, -⟩ := hr
  refine ⟨t.lanesSent d acq ctxOf parts addr ps, ?_, ?_, ?_, mem_lanesSent⟩
  · rw [sendLoads_of_free hreplay hnet hroom] at he
    split
    · next hp => exact he.trans (if_pos hp)
    · next hp => exact completes_of_exec (he.trans (if_neg hp)) (by rw [me_lanesSent]; exact hk.cur.trans h.cur_eq)
  · rw [me_lanesSent]
    dsimp only
    rw [hk.laneLoads, hl, Nat.zero_add]
  · refine (net_postReads _ t).trans ?_
    rw [hnet, List.map_nil, List.nil_append]

/-- A lane store ends with one write in flight for each element. -/
theorem laneStore_ends {ctx : Place → Nat} {ws : List (Place × Nat × Body)} (he : exec i s = sendAll ctx 1 ws t complete) (h : s.Begins i) (hk : KeepsStrand s t)
    (hreplay : t.myCore.replay = []) (hnet : t.net = []) (hroom : t.requestRoom 1 = true) (hplaces : ∀ w ∈ ws, w.1.replay = none) :
    ∃ w, Completes i s w ∧ w.net.map (fun m => (m.loc, m.size, m.body)) = ws.map (fun w => (w.1.loc, w.2.1, w.2.2)) ∧ w.mem = t.mem ∧ w.me.v = s.me.v := by
  refine ⟨t.sentAll ctx 1 ws, completes_of_exec (he.trans (sendAll_of_free ctx 1 complete hroom hreplay hplaces)) ?_, ?_, rfl, ?_⟩
  · rw [me_sentAll]
    exact hk.cur.trans h.cur_eq
  · rw [net_sentAll, hnet, List.nil_append, List.map_map]
    exact map_zip_range ws (fun w => (w.1.loc, w.2.1, w.2.2))
  · rw [me_sentAll, hk.sameLanes.v]

end loads

/-- The reads of elements in one part each. -/
theorem laneReads_one (d n : Nat) (ps : List (Nat × Place × Nat)) : (laneReads d (fun _ => [(0, n, 0, 8 * n, 0)]) ps).map (fun r => (r.1.loc, r.2.1, Body.load r.2.2)) =
    ps.map (fun e => (e.2.1.loc, n, Body.load (.lane d e.1 0 (8 * n) 0))) := by
  induction ps with
  | nil => rfl
  | cons e ps ih => exact congrArg (_ :: ·) ih

theorem laneReads_one_length (d n : Nat) (ps : List (Nat × Place × Nat)) : (laneReads d (fun _ => [(0, n, 0, 8 * n, 0)]) ps).length = ps.length := by
  have h := congrArg List.length (laneReads_one d n ps)
  rwa [List.length_map, List.length_map] at h

/-! The instructions. -/

/-- A lane memory instruction of a strand whose earlier ones have ended goes on (R167). -/
theorem laneMemory_of_ready (k : State → Out) (h : s.Starts i) (hr : s.LanesReady) (hacq : s.acquirePending = false) : laneMemory true s k = k s := by
  obtain ⟨-, -, hq, hl, -⟩ := id hr
  rw [laneMemory, laneChecked_of_ready _ (by simp [h.unprefixed]) hr, ordered_of_free _ hacq, (lanesDone_iff _).2 ⟨hq, hl⟩]
  rfl

theorem laneLoad_of_admits {d n : Nat} {acq base : Bool} {op : Word} {es : List (Nat × Word)} {ps : List (Nat × Place × Nat)}
    (h : AdmitsAll (elementCheck .load n op) es s ps t) :
    laneLoad d n acq base op es s = sendLoads d acq (baseCtx base) (fun _ => [(0, n, 0, 8 * n, 0)]) (elementAddr es) ps t := h _

theorem laneStore_of_admits {d n : Nat} {rel : Option Nat} {base : Bool} {op : Word} {es : List (Nat × Word)} {ps : List (Nat × Place × Nat)}
    (h : AdmitsAll (elementCheck .store n op) es s ps t) (hrel : ∀ scope, rel = some scope → t.releaseOk scope = true) (hnet : t.net = []) :
    laneStore d n rel base op es s =
      sendAll (fun p => baseCtx base p t) 1 (ps.map (fun e => (e.2.1, n, Body.store (toBytes n (t.me.laneAt d e.1).toNat)))) t complete := by
  have hcross : ps.any (fun e => t.crosses false (t.homeFor e.2.1 (baseCtx base e.2.1 t)) e.2.1.loc n) = false :=
    List.any_eq_false.2 (fun e _ => by rw [crosses_of_net_nil hnet]; exact Bool.false_ne_true)
  refine (h _).trans ?_
  cases rel with
  | none => exact if_neg (ne_true_of_eq_false hcross)
  | some scope => exact (releasing_ok (hrel scope rfl) _).trans (if_neg (ne_true_of_eq_false hcross))

section elements
variable {d n : Nat} {base : Bool} {op : Word} {es : List (Nat × Word)} {ps : List (Nat × Place × Nat)}

/-- A lane load whose elements pass their checks (R167, R168). -/
theorem elementLoad_ends {acq : Bool} (he : exec i s = laneLoad d n acq base op es v) (h : s.Starts i) (hv : KeepsStrand s v) (hr : s.LanesReady)
    (hadm : AdmitsAll (elementCheck .load n op) es v ps t) (hreplay : t.myCore.replay = []) (hnet : t.net = []) (hroom : t.requestRoom 1 = true) :
    ∃ w, (if t.poisonTraps = true ∧ ps ≠ [] then Awaits i s w 56 else Completes i s w) ∧ w.me.laneLoads = ps.length ∧ w.net.map (fun m => (m.loc, m.size, m.body)) =
      ps.map (fun e => (e.2.1.loc, n, Body.load (.lane d e.1 0 (8 * n) 0))) ∧ w.mem = t.mem := by
  have hk := hv.trans (hadm.keepsStrand (keepsInCheck_element _ _ _))
  have hends := laneLoad_ends (he.trans (laneLoad_of_admits hadm)) h.begins hk hr hreplay hnet hroom
  rwa [laneReads_one, laneReads_one_length] at hends

/-- A lane store whose elements pass their checks and meet no fault (R167, R168). -/
theorem elementStore_ends {rel : Option Nat} (he : exec i s = laneStore d n rel base op es v) (h : s.Starts i) (hv : KeepsStrand s v)
    (hadm : AdmitsAll (elementCheck .store n op) es v ps t) (hrel : ∀ scope, rel = some scope → t.releaseOk scope = true)
    (hreplay : t.myCore.replay = []) (hnet : t.net = []) (hroom : t.requestRoom 1 = true) (hplaces : ∀ e ∈ ps, e.2.1.replay = none) :
    ∃ w, Completes i s w ∧ w.net.map (fun m => (m.loc, m.size, m.body)) =
      ps.map (fun e => (e.2.1.loc, n, Body.store (toBytes n (s.me.laneAt d e.1).toNat))) ∧ w.mem = t.mem ∧ w.me.v = s.me.v := by
  have hk := hv.trans (hadm.keepsStrand (keepsInCheck_element _ _ _))
  have hends := laneStore_ends (he.trans (laneStore_of_admits hadm hrel hnet)) h.begins hk hreplay hnet hroom (fun w hw => by
    obtain ⟨e, hmem, rfl⟩ := List.mem_map.1 hw
    exact hplaces e hmem)
  rw [List.map_map] at hends
  simp only [hk.sameLanes.laneAt] at hends
  exact hends

end elements

section heads
variable {a b : Word}

theorem vld_of_gives {o : FmtVM} {n : Nat} (h : s.Starts (.vld o)) (hd : vecOk o.d = true) (hr : s.LanesReady) (hacq : s.acquirePending = false)
    (ha : s.Gives o.a false a u) (hn : n = 2 ^ o.sz.toNat) : exec (.vld o) s = laneLoad o.d.toNat n (decide (2 ≤ o.c.toNat)) (decide (o.c.toNat = 1))
      (a + o.o.signExtend 64 * word n) (s.me.activeLanes false (fun i => a + o.o.signExtend 64 * word n + word (i * n))) u := by
  subst hn
  have hx : srcOk false o.a = true := ha.1
  rw [← (KeepsStrand.gives ha h.begins.slot_lt).sameLanes.activeLanes]
  change execVld o s = _
  rw [execVld, hx, hd, Bool.and_self, laneMemory_of_ready _ h hr hacq, readSrc_of_gives (by rw [h.begins.reads_eq]; rfl) ha]
  rfl

theorem vst_of_gives {o : FmtVM} {n : Nat} (h : s.Starts (.vst o)) (hd : vecOk o.d = true) (hr : s.LanesReady) (hacq : s.acquirePending = false)
    (ha : s.Gives o.a false a u) (hn : n = 2 ^ o.sz.toNat) : exec (.vst o) s = laneStore o.d.toNat n (if 2 ≤ o.c.toNat then some (o.c.toNat - 2) else none)
      (decide (o.c.toNat = 1)) (a + o.o.signExtend 64 * word n) (s.me.activeLanes false (fun i => a + o.o.signExtend 64 * word n + word (i * n))) u := by
  subst hn
  have hx : srcOk false o.a = true := ha.1
  rw [← (KeepsStrand.gives ha h.begins.slot_lt).sameLanes.activeLanes]
  change execVst o s = _
  rw [execVst, hx, hd, Bool.and_self, laneMemory_of_ready _ h hr hacq, readSrc_of_gives (by rw [h.begins.reads_eq]; rfl) ha]
  rfl

/-- The head of a lane access with a stride (R169). -/
theorem strided_of_gives {o : FmtV} {f : Instr} (k : Word → Word → State → Out) (h : s.Starts f) (hd : vecOk o.d = true) (hb : bcOk o.b = true) (hr : s.LanesReady)
    (hacq : s.acquirePending = false) (hx : s.Gives o.a false a u) (hy : u.Gives (o.b - 32) false b v) :
    laneMemory (srcOk false o.a && bcOk o.b && vecOk o.d) s (fun s => readSrc 0 o.a false s (fun a s => readSrc 1 (o.b - 32) false s (fun b s => k a b s))) = k a b v := by
  have hsrc : srcOk false o.a = true := hx.1
  rw [hsrc, hb, hd, Bool.and_self, Bool.and_self, laneMemory_of_ready _ h hr hacq, readSrc_of_gives (by rw [h.begins.reads_eq]; rfl) hx,
    readSrc_of_gives (length_reads_of_first h.begins hx) hy]

/-- The head of a lane access by indices (R169). -/
theorem indexed_of_gives {o : FmtV} {f : Instr} (k : Word → State → Out) (h : s.Starts f) (hd : vecOk o.d = true) (hb : vecOk o.b = true) (hr : s.LanesReady)
    (hacq : s.acquirePending = false) (hx : s.Gives o.a false a u) :
    laneMemory (srcOk false o.a && vecOk o.b && vecOk o.d) s (fun s => readSrc 0 o.a false s (fun a s => k a s)) = k a u := by
  have hsrc : srcOk false o.a = true := hx.1
  rw [hsrc, hb, hd, Bool.and_self, Bool.and_self, laneMemory_of_ready _ h hr hacq, readSrc_of_gives (by rw [h.begins.reads_eq]; rfl) hx]

/-- The head of a bit-packed lane access (R170). -/
theorem packed_of_gives {o : FmtVBit} {f : Instr} (k : Word → State → Out) (h : s.Starts f) (hd : vecOk o.d = true) (hr : s.LanesReady)
    (hacq : s.acquirePending = false) (hx : s.Gives o.a false a u) :
    laneMemory (srcOk false o.a && vecOk o.d) s (fun s => readSrc 0 o.a false s (fun a s => k a s)) = k a u := by
  have hsrc : srcOk false o.a = true := hx.1
  rw [hsrc, hd, Bool.and_self, laneMemory_of_ready _ h hr hacq, readSrc_of_gives (by rw [h.begins.reads_eq]; rfl) hx]

end heads

/-- The address of lane i of an access with a stride b, or with indices in register r (R169). -/
def Strand.address (m : Strand) (strided : Bool) (a b : Word) (r i : Nat) : Word := if strided then a + word i * b else a + 4 * (m.laneAt r i).signExtend 64

/-- The operand b of a lane access: a stride that is read, or a vector register (R169). -/
theorem KeepsStrand.laneOperands {o : FmtV} {strided : Bool} {a b : Word} (h : s.Begins i) (ha : s.Gives o.a false a u)
    (hb : if strided then bcOk o.b = true ∧ u.Gives (o.b - 32) false b v else vecOk o.b = true ∧ v = u) : KeepsStrand s v := by
  cases strided with
  | true => exact .givesTwo h ha hb.2
  | false =>
    obtain ⟨-, rfl⟩ := hb
    exact .gives ha h.slot_lt

theorem exec_elementLoads : ∀ p ∈ [(Instr.vlds, true), (.vgat, false)], ∀ {o : FmtV} {s u v : State} {a b : Word}, s.Starts (p.1 o) → vecOk o.d = true → s.LanesReady →
    s.acquirePending = false → s.Gives o.a false a u → (if p.2 then bcOk o.b = true ∧ u.Gives (o.b - 32) false b v else vecOk o.b = true ∧ v = u) →
    exec (p.1 o) s = laneLoad o.d.toNat 4 false false a (s.me.activeLanes o.y (s.me.address p.2 a b o.b.toNat)) v := by
  simp only [List.forall_mem_cons, List.not_mem_nil, false_imp_iff, implies_true, and_true]
  refine ⟨fun {o s u v a b} h hd hr hacq ha hb => ?_, fun {o s u v a b} h hd hr hacq ha hb => ?_⟩
  · obtain ⟨hbc, hb⟩ := hb
    have hl := (KeepsStrand.givesTwo h.begins ha hb).sameLanes
    change execVlds o s = _
    rw [execVlds, strided_of_gives _ h hd hbc hr hacq ha hb, hl.activeLanes]
    rfl
  · obtain ⟨hvec, rfl⟩ := hb
    have hl := (KeepsStrand.gives ha h.begins.slot_lt).sameLanes
    change execVgat o s = _
    rw [execVgat, indexed_of_gives _ h hd hvec hr hacq ha, hl.activeLanes]
    simp only [hl.laneAt]
    rfl

theorem exec_elementStores : ∀ p ∈ [(Instr.vsts, true), (.vsca, false)], ∀ {o : FmtV} {s u v : State} {a b : Word}, s.Starts (p.1 o) → vecOk o.d = true → s.LanesReady →
    s.acquirePending = false → s.Gives o.a false a u → (if p.2 then bcOk o.b = true ∧ u.Gives (o.b - 32) false b v else vecOk o.b = true ∧ v = u) →
    exec (p.1 o) s = laneStore o.d.toNat 4 none false a (s.me.activeLanes o.y (s.me.address p.2 a b o.b.toNat)) v := by
  simp only [List.forall_mem_cons, List.not_mem_nil, false_imp_iff, implies_true, and_true]
  refine ⟨fun {o s u v a b} h hd hr hacq ha hb => ?_, fun {o s u v a b} h hd hr hacq ha hb => ?_⟩
  · obtain ⟨hbc, hb⟩ := hb
    have hl := (KeepsStrand.givesTwo h.begins ha hb).sameLanes
    change execVsts o s = _
    rw [execVsts, strided_of_gives _ h hd hbc hr hacq ha hb, hl.activeLanes]
    rfl
  · obtain ⟨hvec, rfl⟩ := hb
    have hl := (KeepsStrand.gives ha h.begins.slot_lt).sameLanes
    change execVsca o s = _
    rw [execVsca, indexed_of_gives _ h hd hvec hr hacq ha, hl.activeLanes]
    simp only [hl.laneAt]
    rfl

/-! Bit-packed elements (R170). -/

/-- The parts of a bit-packed element of w bits at bit offset bo: one read of each bank word. -/
def packedParts (w bo : Nat) : List (Nat × Nat × Nat × Nat × Nat) := (bankWords bo w).map (fun x => (x.1, 4, x.2.1, x.2.2.1, x.2.2.2))

theorem laneReads_packed (d w : Nat) (ps : List (Nat × Place × Nat)) : (laneReads d (packedParts w) ps).map (fun r => (r.1.loc, Body.load r.2.2)) =
    ps.flatMap (fun e => (bankWords e.2.2 w).map (fun b => (e.2.1.loc + b.1, Body.load (.lane d e.1 b.2.1 b.2.2.1 b.2.2.2)))) := by
  simp only [laneReads, packedParts, List.map_flatMap, List.map_map]
  rfl

theorem bitLanes_of_same (h : m.SameLanes m') (masked : Bool) (a : Word) (w : Nat) : m'.bitLanes masked a w = m.bitLanes masked a w := h.activeLanes masked _

/-- A lane access outside the mesh traps before any element is looked at (R170). -/
theorem not_mesh {a : Word} (h8 : bitsOf a 60 4 ≠ 8) (h9 : bitsOf a 60 4 ≠ 9) : (decide (bitsOf a 60 4 ≠ 8) && decide (bitsOf a 60 4 ≠ 9)) = true := by simp [h8, h9]

theorem mesh {a : Word} (h : bitsOf a 60 4 = 8 ∨ bitsOf a 60 4 = 9) : (decide (bitsOf a 60 4 ≠ 8) && decide (bitsOf a 60 4 ≠ 9)) = false := by
  rcases h with h | h <;> simp [h]

theorem vldb_traps {o : FmtVBit} {a : Word} (h : s.Starts (.vldb o)) (hd : vecOk o.d = true) (hr : s.LanesReady) (hacq : s.acquirePending = false)
    (ha : s.Gives o.a false a u) (h8 : bitsOf a 60 4 ≠ 8) (h9 : bitsOf a 60 4 ≠ 9) : Traps (.vldb o) s u 8 a := by
  rw [Traps, ← (KeepsStrand.gives ha h.begins.slot_lt).pc]
  exact (packed_of_gives _ h hd hr hacq ha).trans (if_pos (not_mesh h8 h9))

theorem vldb_of_admits {o : FmtVBit} {a : Word} {w : Nat} {ps : List (Nat × Place × Nat)} (h : s.Starts (.vldb o)) (hd : vecOk o.d = true) (hr : s.LanesReady)
    (hacq : s.acquirePending = false) (ha : s.Gives o.a false a u) (hw : w = o.w.toNat + 1) (hmesh : bitsOf a 60 4 = 8 ∨ bitsOf a 60 4 = 9)
    (hadm : AdmitsAll (bitElement .load w a) (s.me.bitLanes o.y a w) u ps t) :
    exec (.vldb o) s = sendLoads o.d.toNat false (baseCtx false) (packedParts w) (fun j => byteOfBit (elementAddr (s.me.bitLanes o.y a w) j)) ps t := by
  subst hw
  rw [← bitLanes_of_same (KeepsStrand.gives ha h.begins.slot_lt).sameLanes] at hadm ⊢
  exact (packed_of_gives _ h hd hr hacq ha).trans ((if_neg (ne_true_of_eq_false (mesh hmesh))).trans (hadm _))

theorem vstb_of_admits {o : FmtVBit} {a : Word} {w : Nat} {ps : List (Nat × Place × Nat)} (h : s.Starts (.vstb o)) (hd : vecOk o.d = true) (hr : s.LanesReady)
    (hacq : s.acquirePending = false) (ha : s.Gives o.a false a u) (hw : w = o.w.toNat + 1) (hmesh : bitsOf a 60 4 = 8 ∨ bitsOf a 60 4 = 9)
    (hadm : AdmitsAll (bitElement .store w a) (s.me.bitLanes o.y a w) u ps t) (hnet : t.net = []) : exec (.vstb o) s =
      sendAll t.tagFor 1 (ps.flatMap (fun e => (bankWords e.2.2 w).map (fun x => e.2.1.bitsOut (t.me.laneAt o.d.toNat e.1).toNat x))) t complete := by
  subst hw
  rw [← bitLanes_of_same (KeepsStrand.gives ha h.begins.slot_lt).sameLanes] at hadm
  refine (packed_of_gives _ h hd hr hacq ha).trans ((if_neg (ne_true_of_eq_false (mesh hmesh))).trans ((hadm _).trans (if_neg ?_)))
  rw [Bool.not_eq_true, List.any_eq_false]
  exact fun x _ => by rw [crosses_of_net_nil hnet]; exact Bool.false_ne_true

/-! The data of a lane load (R167). -/

/-- The lane that an element gives: 0 for a poisoned one. -/
def LaneIn.lane (e : LaneIn) : Lane := if e.bad then 0 else e.val

/-- The strand after the elements of a lane load have been written to their lanes. -/
def Strand.landed (m : Strand) (l : List (Nat × LaneIn)) : Strand := l.foldl (fun (m : Strand) e => m.setLane (e.1 / 256) (e.1 % 256) e.2.lane) m

theorem Strand.landed_eq (l : List (Nat × LaneIn)) : ∀ m : Strand, m.landed l = { m with v := (m.landed l).v } := by
  induction l with
  | nil => exact fun _ => rfl
  | cons e l ih => exact fun m => ih (m.setLane (e.1 / 256) (e.1 % 256) e.2.lane)

/-- Each lane takes the element of its own, and a lane without one stays. -/
theorem laneAt_landed (l : List (Nat × LaneIn)) : ∀ (b : Nat) (m : Strand), Tbl.sortedFrom b l = true → Tbl.sortedFrom 0 m.v = true → ∀ g j, j < 256 →
    (m.landed l).laneAt g j = (Tbl.find l (g * 256 + j)).elim (m.laneAt g j) LaneIn.lane := by
  induction l with
  | nil => exact fun _ _ _ _ _ _ _ => rfl
  | cons e l ih =>
    obtain ⟨key, e⟩ := e
    intro b m hl hm g j hj
    rw [Tbl.sortedFrom, Bool.and_eq_true] at hl
    obtain ⟨-, hl⟩ := hl
    have hset := laneAt_setLane (m := m) (key / 256) (key % 256) e.lane g j (Nat.mod_lt _ (by omega)) hj hm
    refine (ih _ (m.setLane (key / 256) (key % 256) e.lane) hl (sortedFrom_set _ _ _ _ hm) g j hj).trans ?_
    rw [hset, Tbl.find]
    by_cases hkey : key = g * 256 + j
    · rw [if_pos (show g = key / 256 ∧ j = key % 256 by omega), if_pos hkey, Tbl.find_none_of_gt l (key + 1) _ (by omega) hl]
      rfl
    · rw [if_neg (show ¬(g = key / 256 ∧ j = key % 256) by omega), if_neg hkey]

/-- Counting poison changes the flags of a strand alone. -/
theorem strandAt_countPoison (c k sag : Nat) : ∃ x, (s.countPoison c k sag).strandAt c k = { s.strandAt c k with st := x } := by
  rw [State.countPoison, State.count, State.strandAt, coreAt_modSag]
  exact ⟨_, State.strandAt_modStrand ..⟩

theorem mem_countPoison (c k sag : Nat) : (s.countPoison c k sag).mem = s.mem := by
  rw [State.countPoison, State.count, State.modSag_eq]
  rfl

theorem foldl_countPoison (c k sag : Nat) (l : List (Nat × LaneIn)) : ∀ s : State,
    (l.foldl (fun (t : State) _ => t.countPoison c k sag) s).mem = s.mem ∧
      ∃ x, (l.foldl (fun (t : State) _ => t.countPoison c k sag) s).strandAt c k = { s.strandAt c k with st := x } := by
  induction l with
  | nil => exact fun s => ⟨rfl, _, rfl⟩
  | cons e l ih =>
    intro s
    obtain ⟨hmem, x, hx⟩ := ih (s.countPoison c k sag)
    obtain ⟨y, hy⟩ := strandAt_countPoison (s := s) c k sag
    exact ⟨hmem.trans (mem_countPoison c k sag), x, hx.trans (by rw [hy])⟩

/-- A strand whose lane load has ended: its elements are gone, and where it awaits them it goes on. -/
def Strand.loadEnds (m : Strand) : Strand :=
  { m with laneIn := [], laneAcq := false, reply := if m.stage = 9 then some ⟨0, [], 0⟩ else m.reply, status := if m.stage = 9 then .ready else m.status }

/-- The poisoned elements of a strand's lane load. -/
def Strand.badElements (m : Strand) : List (Nat × LaneIn) := m.laneIn.filter (fun e => e.2.bad)

/-- Where poison traps are elected the first poisoned element raises POISON and no lane changes (R167). -/
theorem landLanes_traps {c k : Nat} {e : Nat × LaneIn} {rest : List (Nat × LaneIn)} (hel : s.elects (s.strandAt c k).sag = true)
    (hbad : (s.strandAt c k).badElements = e :: rest) : s.landLanes c k = s.modStrand c k (fun m => { m.loadEnds with reply := some ⟨e.2.addr, [], 14⟩ }) := by
  unfold Strand.badElements at hbad
  unfold State.landLanes
  dsimp only
  rw [hel, hbad]
  rfl

/-- Otherwise the elements go to their lanes, and poisoned ones are counted (R167). -/
theorem landLanes_lands {c k : Nat} (h : s.elects (s.strandAt c k).sag = false ∨ ∀ e ∈ (s.strandAt c k).laneIn, e.2.bad = false) :
    s.landLanes c k = (s.strandAt c k).badElements.foldl (fun (t : State) _ => t.countPoison c k (s.strandAt c k).sag)
      (s.modStrand c k (fun m => (m.landed m.laneIn).drainLanes.loadEnds)) := by
  have hnone : (if s.elects (s.strandAt c k).sag then (s.strandAt c k).badElements.head? else none) = none := by
    rcases h with h | h
    · rw [h, if_neg Bool.false_ne_true]
    · rw [Strand.badElements, List.filter_eq_nil_iff.2 (fun e he => by simp [h e he]), List.head?_nil, ite_self]
  unfold Strand.badElements at hnone
  unfold State.landLanes
  dsimp only
  rw [hnone]
  rfl

theorem drainLanes_of_idle (h : m.laneQ = []) : m.drainLanes = m := by
  rw [Strand.drainLanes, h, List.foldl_nil, ← h]

/-- What a strand's lanes and lane loads are after its elements have landed. -/
theorem landLanes_frame {c k : Nat} (h : s.elects (s.strandAt c k).sag = false ∨ ∀ e ∈ (s.strandAt c k).laneIn, e.2.bad = false) (hq : (s.strandAt c k).laneQ = []) :
    (s.landLanes c k).mem = s.mem ∧ ((s.landLanes c k).strandAt c k).laneLoads = (s.strandAt c k).laneLoads ∧ ((s.landLanes c k).strandAt c k).laneIn = [] ∧
      ((s.landLanes c k).strandAt c k).v = ((s.strandAt c k).landed (s.strandAt c k).laneIn).v := by
  obtain ⟨hmem, x, hx⟩ := foldl_countPoison c k (s.strandAt c k).sag (s.strandAt c k).badElements (s.modStrand c k (fun m => (m.landed m.laneIn).drainLanes.loadEnds))
  rw [State.strandAt_modStrand] at hx
  rw [landLanes_lands h, hx, drainLanes_of_idle (by rw [Strand.landed_eq]; exact hq)]
  refine ⟨hmem, ?_, rfl, rfl⟩
  rw [Strand.landed_eq]
  rfl

/-- The strand after data has come for one element of its lane load (R167). -/
def Strand.tookElement (m : Strand) (key : Nat) (f : LaneIn → LaneIn) : Strand :=
  { m with laneLoads := m.laneLoads - 1, laneIn := Tbl.upd m.laneIn key ⟨0, false, 0⟩ f }

/-- An element of a lane load with the bits of v from lo on put into it, and whether they met poison. -/
def LaneIn.takes (sh n lo : Nat) (v : Word) (bad : Option Nat) (e : LaneIn) : LaneIn :=
  { e with val := e.val ||| BitVec.ofNat 32 (v.toNat / 2 ^ lo % 2 ^ n * 2 ^ sh), bad := e.bad || bad.isSome }

/-- The state after data of an acknowledgement has come for one element of a lane load (R167). -/
def State.tookData (s : State) (r : StrandRef) (k key : Nat) (f : LaneIn → LaneIn) : State :=
  State.modStrand { s with acks := dropAt s.acks k } r.core r.slot (fun m => m.tookElement key f)

theorem strandOf_tookData (r : StrandRef) (k key : Nat) (f : LaneIn → LaneIn) : (s.tookData r k key f).strandAt r.core r.slot = (s.strandOf r).tookElement key f :=
  State.strandAt_modStrand ..

/-- The last data of a lane load has come (R167). -/
theorem exec_lastLaneData {r : StrandRef} {k id uid d j sh n lo : Nat} {v : Word} {bad : Option Nat}
    (hack : s.acks[k]? = some ⟨id, r.core, r.slot, uid, .data (.lane d j sh n lo) v bad, true⟩) (halive : s.alive r.core r.slot uid = true)
    (hdying : (s.strandOf r).dying = false) (hrel : s.relocking r.core = false) (hlast : (s.strandOf r).laneLoads = 1) :
    exec (.loadDataReturn r k) s = .next ((s.tookData r k (d * 256 + j) (LaneIn.takes sh n lo v bad)).landLanes r.core r.slot) := by
  have hd : (s.strandAt r.core r.slot).dying = false := hdying
  have hloads : ((s.tookData r k (d * 256 + j) (LaneIn.takes sh n lo v bad)).strandAt r.core r.slot).laneLoads = 0 := by
    rw [strandOf_tookData, Strand.tookElement, hlast]
  change execLoadDataReturn r k s = _
  simp only [execLoadDataReturn, hack, halive, hd, hrel, ne_eq, not_true_eq_false, or_self, if_false, Bool.not_true, Bool.false_eq_true, Bool.false_and]
  exact congrArg Host.Outcome.next (if_pos hloads)

theorem elects_tookData (r : StrandRef) (k key g : Nat) (f : LaneIn → LaneIn) : (s.tookData r k key f).elects g = s.elects g := rfl

section data
variable {r : StrandRef} {k id uid d j sh n lo : Nat} {v : Word} {bad : Option Nat}
  (hack : s.acks[k]? = some ⟨id, r.core, r.slot, uid, .data (.lane d j sh n lo) v bad, true⟩) (halive : s.alive r.core r.slot uid = true)
  (hdying : (s.strandOf r).dying = false) (hrel : s.relocking r.core = false) (hlast : (s.strandOf r).laneLoads = 1)
include hack halive hdying hrel hlast

/-- The last data of a lane load puts its elements into their lanes (R167). -/
theorem lastLaneData_lands (hq : (s.strandOf r).laneQ = []) (hv : Tbl.sortedFrom 0 (s.strandOf r).v = true) (hin : Tbl.sortedFrom 0 (s.strandOf r).laneIn = true)
    (hland : s.elects (s.strandOf r).sag = false ∨ ∀ e ∈ ((s.strandOf r).tookElement (d * 256 + j) (LaneIn.takes sh n lo v bad)).laneIn, e.2.bad = false) :
    ∃ t, exec (.loadDataReturn r k) s = .next t ∧ t.mem = s.mem ∧ (t.strandOf r).laneLoads = 0 ∧ (t.strandOf r).laneIn = [] ∧ ∀ g l, l < 256 → (t.strandOf r).laneAt g l =
      (Tbl.find ((s.strandOf r).tookElement (d * 256 + j) (LaneIn.takes sh n lo v bad)).laneIn (g * 256 + l)).elim ((s.strandOf r).laneAt g l) LaneIn.lane := by
  have hstrand := strandOf_tookData (s := s) r k (d * 256 + j) (LaneIn.takes sh n lo v bad)
  obtain ⟨hmem, hloads, hinNil, hlanes⟩ := landLanes_frame (s := s.tookData r k (d * 256 + j) (LaneIn.takes sh n lo v bad)) (c := r.core) (k := r.slot)
    (by rw [hstrand, elects_tookData]; exact hland) (by rw [hstrand]; exact hq)
  rw [hstrand] at hloads hlanes
  refine ⟨_, exec_lastLaneData hack halive hdying hrel hlast, hmem, hloads.trans (by rw [Strand.tookElement, hlast]), hinNil, fun g l hl => ?_⟩
  exact (congrArg (Tbl.get · (g * 256 + l) 0) hlanes).trans (laneAt_landed _ 0 ((s.strandOf r).tookElement (d * 256 + j) (LaneIn.takes sh n lo v bad)) (Tbl.sortedFrom_put _ _ _ _ (Nat.zero_le _) hin) hv g l hl)

/-- Where poison traps are elected and an element is poisoned, the last data raises POISON (R167, R178). -/
theorem lastLaneData_traps {e : Nat × LaneIn} {rest : List (Nat × LaneIn)} (hel : s.elects (s.strandOf r).sag = true)
    (hbad : ((s.strandOf r).tookElement (d * 256 + j) (LaneIn.takes sh n lo v bad)).badElements = e :: rest) :
    ∃ t, exec (.loadDataReturn r k) s = .next t ∧ t.mem = s.mem ∧ (t.strandOf r).v = (s.strandOf r).v ∧ (t.strandOf r).reply = some ⟨e.2.addr, [], 14⟩ := by
  have hstrand := strandOf_tookData (s := s) r k (d * 256 + j) (LaneIn.takes sh n lo v bad)
  have htraps := landLanes_traps (s := s.tookData r k (d * 256 + j) (LaneIn.takes sh n lo v bad)) (c := r.core) (k := r.slot) (e := e) (rest := rest)
    (by rw [hstrand, elects_tookData]; exact hel) (by rw [hstrand, hbad])
  refine ⟨_, (exec_lastLaneData hack halive hdying hrel hlast).trans (congrArg Host.Outcome.next htraps), rfl, ?_⟩
  rw [strandOf_modStrand, State.strandOf, hstrand]
  simp only [Strand.loadEnds, Strand.tookElement, and_self]

end data

/-- Settles O39. -/
theorem laneMemoryCompletes : Obligations.LaneMemoryCompletes := by
  refine ⟨fun o s u t a n ps h hd hr hacq ha hn hadm hreplay hnet hroom => ?_, fun o s u t a n ps h hd hr hacq ha hn hadm hrel hreplay hnet hroom hplaces => ?_,
    fun p hp o s u v t a b ps h hd hr hacq ha hb hadm hreplay hnet hroom => ?_, fun p hp o s u v t a b ps h hd hr hacq ha hb hadm hreplay hnet hroom hplaces => ?_,
    fun o s u t a w ps h hd hr hacq ha hw => ⟨vldb_traps h hd hr hacq ha, fun hmesh hadm hreplay hnet hroom => ?_⟩,
    fun o s u t a w ps h hd hr hacq ha hw hmesh hadm hreplay hnet hroom hplaces => ?_, fun r k id uid d j sh n lo s v bad hack halive hdying hrel hlast hq hv hin => ?_⟩
  · exact elementLoad_ends (vld_of_gives h hd hr hacq ha hn) h (.gives ha h.begins.slot_lt) hr hadm hreplay hnet hroom
  · refine elementStore_ends (vst_of_gives h hd hr hacq ha hn) h (.gives ha h.begins.slot_lt) hadm (fun scope hs => ?_) hreplay hnet hroom hplaces
    obtain ⟨h2, hs⟩ := Option.ite_none_right_eq_some.1 hs
    exact Option.some.inj hs ▸ hrel h2
  · exact elementLoad_ends (exec_elementLoads p hp h hd hr hacq ha hb) h (.laneOperands h.begins ha hb) hr hadm hreplay hnet hroom
  · exact elementStore_ends (exec_elementStores p hp h hd hr hacq ha hb) h (.laneOperands h.begins ha hb) hadm (fun _ hs => nomatch hs) hreplay hnet hroom hplaces
  · have hk := (KeepsStrand.gives ha h.begins.slot_lt).trans (hadm.keepsStrand (keepsInCheck_bit _ _ _))
    obtain ⟨x, hx, hloads, hreads, hmem⟩ := laneLoad_ends (vldb_of_admits h hd hr hacq ha hw hmesh hadm) h.begins hk hr hreplay hnet hroom
    have hlen := congrArg List.length hreads
    have hbodies := congrArg (List.map (fun x : Nat × Nat × Body => (x.1, x.2.2))) hreads
    rw [List.map_map, List.map_map] at hbodies
    rw [List.length_map, List.length_map] at hlen
    exact ⟨x, hx, hbodies.trans (laneReads_packed _ _ _), hloads.trans hlen.symm, hmem⟩
  · have hk := (KeepsStrand.gives ha h.begins.slot_lt).trans (hadm.keepsStrand (keepsInCheck_bit _ _ _))
    obtain ⟨x, hx, hwrites, hmem, -⟩ := laneStore_ends (vstb_of_admits h hd hr hacq ha hw hmesh hadm hnet) h.begins hk hreplay hnet hroom (fun y hy => by
      obtain ⟨e, he, hy⟩ := List.mem_flatMap.1 hy
      obtain ⟨b, -, rfl⟩ := List.mem_map.1 hy
      exact hplaces e he)
    refine ⟨x, hx, ?_, hmem⟩
    have hbodies := congrArg (List.map (fun x : Nat × Nat × Body => (x.1, x.2.2))) hwrites
    simp only [List.map_map, List.map_flatMap, hk.sameLanes.laneAt] at hbodies
    exact hbodies
  · intro ins
    refine ⟨fun hland => ?_, fun e rest hel hbad => lastLaneData_traps hack halive hdying hrel hlast hel hbad⟩
    obtain ⟨t, ht, hmem, hloads, hnil, hlanes⟩ := lastLaneData_lands hack halive hdying hrel hlast hq hv hin hland
    refine ⟨t, ht, hmem, hloads, hnil, fun g l hl => ?_⟩
    have hlane : (t.strandOf r).laneAt g l = (Tbl.find ins (g * 256 + l)).elim ((s.strandOf r).laneAt g l) LaneIn.lane := hlanes g l hl
    rw [hlane]
    cases Tbl.find ins (g * 256 + l) <;> rfl

end Sys2Proof.Machine
end

/-! Fences (O30). -/
section
namespace Sys2Proof.Machine

variable {s t u v : State} {i : Instr}

/-! What the conditions of a fence look at (R191). -/

theorem acquireOk_modMe {f : Strand → Strand} (hp : (f s.me).pending = s.me.pending) (hl : (f s.me).laneLoads = s.me.laneLoads) :
    (s.modMe f).acquireOk = s.acquireOk := by
  simp only [State.acquireOk, State.loadsOut, State.me_modMe, hp, hl]

theorem storesOut_modMe {f : Strand → Strand} (hu : (f s.me).uid = s.me.uid) (scope : Nat) : (s.modMe f).storesOut scope = s.storesOut scope := by
  simp only [State.storesOut, State.me_modMe, hu]
  rfl

theorem releaseOk_modMe {f : Strand → Strand} (hu : (f s.me).uid = s.me.uid) (hp : (f s.me).pending = s.me.pending) (hl : (f s.me).laneLoads = s.me.laneLoads)
    (scope : Nat) : (s.modMe f).releaseOk scope = s.releaseOk scope := by
  have hloads : (s.modMe f).loadsOut = s.loadsOut := by simp only [State.loadsOut, State.me_modMe, hp, hl]
  rw [State.releaseOk, myCore_modMe, hloads, storesOut_modMe hu, State.releaseOk]

/-- A release waits for the replay queue, for loads, and at device scope for every earlier write of the strand (R191). -/
theorem clear_of_releaseOk {scope : Nat} (h : s.releaseOk scope = true) : s.myCore.replay = [] ∧ s.acquireOk = true ∧
    ∀ m ∈ s.net, m.uid = s.me.uid → m.core = s.core → m.body.released = true → ¬2 ≤ scope := by
  simp only [State.releaseOk, Bool.and_eq_true, Bool.not_eq_true', List.isEmpty_iff] at h
  obtain ⟨⟨hreplay, hloads⟩, hstores⟩ := h
  refine ⟨hreplay, by rw [State.acquireOk, hloads]; rfl, fun m hm huid hcore hrel hscope => ?_⟩
  have hout : s.storesOut scope = true := by
    rw [State.storesOut, Bool.or_eq_true]
    refine .inl (List.any_eq_true.2 ⟨m, hm, ?_⟩)
    have hperf : m.performed scope = false := by rw [Msg.performed, decide_eq_false (by omega), Bool.false_and]
    simp [huid, hcore, hrel, hperf]
  rw [hstores] at hout
  cases hout

/-! The forms. -/

/-- A fence ends where its condition holds and holds its strand otherwise. -/
theorem fence_cases {cond : State → Bool} (he : exec i s = fence cond s) (h : s.Starts i) :
    if cond s = true then Completes i s s else exec i s = .next (s.modMe (fun m => { m with status := .held })) := by
  rw [fence, plain_of_starts h] at he
  split
  · next hc => exact completes_of_exec (he.trans (if_pos hc)) h.begins.cur_eq
  · next hc => exact he.trans (if_neg hc)

/-- A fence that waits for the replay queue holds its strand on the stores parked there. -/
theorem fenceParked_cases {cond : State → Bool} (he : exec i s = fenceParked cond s) (h : s.Starts i) :
    if cond s = true then Completes i s s else exec i s = .next s.heldParked := by
  rw [fenceParked, plain_of_starts h] at he
  split
  · next hc => exact completes_of_exec (he.trans (if_pos hc)) h.begins.cur_eq
  · next hc => exact he.trans (if_neg hc)

/-- The state after `fence.full` has noted the serial at its issue. -/
def State.noted (s : State) : State := s.modMe (fun m => { m with stage := 1, work := [s.serial] })

/-- Whether nothing is left of the writes that a `fence.full` of scope k found on their way through its die's ports (R286, R292). -/
def State.drainedOf (s : State) (k : Nat) : Bool := decide (k ≠ 3) || !((s.portWrites s.myDie).any (fun w => decide (w.id < s.serial)))

/-- The writes found on their way are those with an earlier serial. -/
theorem drainedOf_eq_true_iff (k : BitVec 2) : s.drainedOf k.toNat = true ↔ (k ≠ 3 ∨ ∀ w ∈ s.portWrites s.myDie, s.serial ≤ w.id) := by
  have hk : k.toNat ≠ 3 ↔ k ≠ 3 := (BitVec.toNat_ne (x := k) (y := 3)).symm
  simp only [State.drainedOf, Bool.or_eq_true, decide_eq_true_eq, Bool.not_eq_true', List.any_eq_false, Nat.not_lt, hk]

theorem exec_fenceFull (o : FmtFence) (h : s.Starts (.fenceFull o)) (hacq : s.acquirePending = false) :
    exec (.fenceFull o) s = if (s.acquireOk && s.releaseOk o.k.toNat && s.drainedOf o.k.toNat) = true then complete s.noted else .next s.noted.heldParked := by
  change execFenceFull o s = _
  have hnoted : (if s.me.stage = 0 then s.modMe (fun m => { m with stage := 1, work := [s.serial] }) else s) = s.noted := if_pos h.begins.stage_eq
  have hacqOk : s.noted.acquireOk = s.acquireOk := acquireOk_modMe rfl rfl
  have hrel : s.noted.releaseOk o.k.toNat = s.releaseOk o.k.toNat := releaseOk_modMe rfl rfl rfl _
  have hwork : s.noted.me.work = [s.serial] := by rw [State.noted, State.me_modMe]
  rw [execFenceFull, plain_of_starts h, ordered_of_free _ hacq]
  dsimp only
  rw [hnoted, hacqOk, hrel, hwork]
  rfl

theorem fenceFull_completes (o : FmtFence) (h : s.Starts (.fenceFull o)) (hacq : s.acquirePending = false) (ha : s.acquireOk = true)
    (hr : s.releaseOk o.k.toNat = true) (hd : o.k ≠ 3 ∨ ∀ w ∈ s.portWrites s.myDie, s.serial ≤ w.id) : Completes (.fenceFull o) s s.noted := by
  refine completes_of_exec ((exec_fenceFull o h hacq).trans (if_pos ?_)) ?_
  · rw [ha, hr, (drainedOf_eq_true_iff o.k).2 hd]
    rfl
  · rw [State.noted, State.me_modMe, h.begins.cur_eq]

theorem fenceFull_holds (o : FmtFence) (h : s.Starts (.fenceFull o)) (hacq : s.acquirePending = false)
    (hw : s.acquireOk = false ∨ s.releaseOk o.k.toNat = false ∨ (o.k = 3 ∧ ∃ w ∈ s.portWrites s.myDie, w.id < s.serial)) :
    exec (.fenceFull o) s = .next s.noted.heldParked := by
  refine (exec_fenceFull o h hacq).trans (if_neg ?_)
  rw [Bool.and_eq_true, Bool.and_eq_true, drainedOf_eq_true_iff]
  rintro ⟨⟨ha, hr⟩, hd⟩
  rcases hw with hw | hw | ⟨hk, w, hw, hlt⟩
  · rw [ha] at hw
    cases hw
  · rw [hr] at hw
    cases hw
  · exact absurd (hd.resolve_left (not_not_intro hk) w hw) (Nat.not_le.2 hlt)

/-- An access or fence behind an acquire that waits for its value is held (R289). -/
theorem ordered_held (k : State → Out) (hs : s.me.stage = 0) (h : s.acquirePending = true) :
    Machine.ordered s k = .next (s.modMe (fun m => { m with status := .held })) := by
  rw [Machine.ordered, h, hs]
  rfl

/-- Settles O30: each fence is its condition, and that of `fence.full` is looked at once the fence has noted the serial. -/
theorem fencesComplete : Obligations.FencesComplete := by
  refine ⟨fun o s h => fence_cases rfl h, fun o s h => fenceParked_cases (cond := fun s => s.releaseOk o.k.toNat) rfl h, fun o s h hacq ha hr hd => fenceFull_completes o h hacq ha hr hd,
    fun o s h => ⟨fun hacq => ?_, fun hacq hw => fenceFull_holds o h hacq hw⟩, fun s h => ?_, fun s h => ?_, fun s scope h => ?_⟩
  · change execFenceFull o s = _
    rw [execFenceFull, plain_of_starts h, ordered_held _ h.begins.stage_eq hacq]
  · have hc := fence_cases (cond := fun s => decide (s.me.pend = 0)) rfl h
    simpa only [decide_eq_true_eq] using hc
  · have hc := fenceParked_cases (cond := fun s => s.myCore.replay.isEmpty) rfl h
    simpa only [List.isEmpty_iff] using hc
  · obtain ⟨hreplay, hacq, hnet⟩ := clear_of_releaseOk h
    exact ⟨hreplay, hacq, hnet⟩

end Sys2Proof.Machine
end

/-! Loads (O25). -/
section
namespace Sys2Proof.Machine

variable {s s0 t u v w : State} {i : Instr}

/-! What a translation leaves: the strands and what is in flight (R386 to R391). -/

/-- From s to t the focus, every strand, what is in flight and the time are as they were. -/
structure KeepsStrands (s t : State) : Prop where
  core : t.core = s.core
  slot : t.slot = s.slot
  strands : ∀ c k, t.strandAt c k = s.strandAt c k
  net : t.net = s.net
  time : t.time = s.time

namespace KeepsStrands

theorem refl (s : State) : KeepsStrands s s := ⟨rfl, rfl, fun _ _ => rfl, rfl, rfl⟩

theorem trans (h : KeepsStrands s0 s) (h' : KeepsStrands s t) : KeepsStrands s0 t :=
  ⟨h'.core.trans h.core, h'.slot.trans h.slot, fun c k => (h'.strands c k).trans (h.strands c k), h'.net.trans h.net, h'.time.trans h.time⟩

theorem me (h : KeepsStrands s t) : t.me = s.me := by rw [State.me, h.core, h.slot, h.strands, State.me]

/-- What leaves the cores, the focus, the net and the time leaves the strands. -/
theorem same (h : KeepsStrands s0 s) (e : (t.cores, t.core, t.slot, t.net, t.time) = (s.cores, s.core, s.slot, s.net, s.time)) : KeepsStrands s0 t := by
  obtain ⟨hcores, e⟩ := Prod.mk.inj e
  obtain ⟨hcore, e⟩ := Prod.mk.inj e
  obtain ⟨hslot, e⟩ := Prod.mk.inj e
  obtain ⟨hnet, htime⟩ := Prod.mk.inj e
  exact h.trans ⟨hcore, hslot, fun c k => by rw [State.strandAt, State.coreAt, hcores]; rfl, hnet, htime⟩

theorem ite {p : Prop} [Decidable p] (h : KeepsStrands s t) (h' : KeepsStrands s u) : KeepsStrands s (if p then t else u) := by
  split
  · exact h
  · exact h'

theorem foldl {α : Type} {f : State → α → State} (l : List α) (hf : ∀ {t a}, KeepsStrands s0 t → KeepsStrands s0 (f t a)) (h : KeepsStrands s0 s) :
    KeepsStrands s0 (l.foldl f s) := by
  induction l generalizing s with
  | nil => exact h
  | cons a l ih => exact ih (hf h)

theorem setBytes (l : Nat) (bs : List Byte) (h : KeepsStrands s0 s) : KeepsStrands s0 (s.setBytes l bs) := by
  induction bs generalizing s l with
  | nil => exact h
  | cons b t ih => exact ih _ (h.same rfl)

theorem bumpUnit {l : Nat} {f : Repair → Repair} (h : KeepsStrands s0 s) : KeepsStrands s0 (s.bumpUnit l f) := by
  unfold State.bumpUnit
  split
  · exact h.same rfl
  · exact h

theorem meetWord {l : Nat} (h : KeepsStrands s0 s) : KeepsStrands s0 (s.meetWord l) := by
  unfold State.meetWord
  split
  · exact .ite (bumpUnit (h.same rfl)) (.ite (bumpUnit (h.same rfl)) (h.same rfl))
  · exact h

theorem meet (l n : Nat) (h : KeepsStrands s0 s) : KeepsStrands s0 (s.meet l n) := .ite h (foldl _ (fun h => h.meetWord) h)

theorem modCluster {c : Nat} {f : Cluster → Cluster} (h : KeepsStrands s0 s) : KeepsStrands s0 (s.modCluster c f) := h.same rfl
theorem modDie {d : Nat} {f : Die → Die} (h : KeepsStrands s0 s) : KeepsStrands s0 (s.modDie d f) := h.same rfl

theorem modCore {c : Nat} {f : Core → Core} (hf : ∀ x, (f x).slots = x.slots) (h : KeepsStrands s0 s) : KeepsStrands s0 (s.modCore c f) :=
  h.trans ⟨rfl, rfl, strandAt_modCore hf, rfl, rfl⟩

theorem wakeDie {d : Nat} (h : KeepsStrands s0 s) : KeepsStrands s0 (s.wakeDie d) := .ite h h.modDie
theorem wakeUnit {c : Nat} (h : KeepsStrands s0 s) : KeepsStrands s0 (s.wakeUnit c) := wakeDie (.ite (h.modCore (fun _ => rfl)) h)

theorem wakeHome {x : Home} (h : KeepsStrands s0 s) : KeepsStrands s0 (s.wakeHome x) := by
  unfold State.wakeHome
  split
  · exact h.wakeUnit
  · exact h.wakeUnit
  · exact h.wakeDie
  · exact h.wakeDie
  · exact h.wakeDie
  · exact h

theorem meetWalk {root va : Nat} (h : KeepsStrands s0 s) : KeepsStrands s0 (s.meetWalk root va) :=
  .ite h (.ite (((h.meet _ _).meet _ _).meet _ _) ((((h.meet _ _).meet _ _).meet _ _).meet _ _))

theorem wakeWalk {root va : Nat} (h : KeepsStrands s0 s) : KeepsStrands s0 (s.wakeWalk root va) := .ite h (foldl _ (fun h => h.wakeHome) h)

theorem tlbDrop {cl sag va : Nat} (h : KeepsStrands s0 s) : KeepsStrands s0 (s.tlbDrop cl sag va) := h.modCluster.modDie

theorem setDword {l : Nat} {x : Word} (h : KeepsStrands s0 s) : KeepsStrands s0 (s.setDword l x) := h.setBytes _ _

theorem lookup {y : Issuer} {va : Nat} (h : KeepsStrands s0 s) : ∀ {a n t}, Machine.lookup s y va = .ok (some (a, n, t)) → KeepsStrands s0 t := by
  unfold Machine.lookup
  intro _ _ _
  split
  · rintro ⟨⟩
    exact h
  · extract_lets fill
    split
    · rintro ⟨⟩
      exact h.same rfl
    · split
      · nofun
      · extract_lets s1
        have h : KeepsStrands s0 s1 := h.wakeWalk.meetWalk
        split
        · nofun
        · nofun
        · split
          · extract_lets leaf e s2 s3
            have h : KeepsStrands s0 s3 := h.setDword.modDie
            clear_value s3
            rintro ⟨⟩
            exact h.same rfl
          · nofun

theorem setDirty {y : Issuer} {va : Nat} (h : KeepsStrands s0 s) : KeepsStrands s0 (s.setDirty y va) := by
  unfold State.setDirty
  split
  · exact h
  · split
    · exact h.setDword.modCluster.modDie
    · exact h

theorem sealAtom {k : BitVec 512} {b : Bool} {n : Nat} (h : KeepsStrands s0 s) : KeepsStrands s0 (s.sealAtom k b n) := by
  unfold State.sealAtom
  split
  · exact .ite h ((h.setBytes _ _).same rfl)
  · exact .ite (h.same rfl) h

theorem underKey {kd : Acc} {l n id : Nat} (h : KeepsStrands s0 s) : KeepsStrands s0 (s.underKey kd l n id) := by
  unfold State.underKey
  refine .ite h ?_
  split
  · exact foldl _ (fun h => h.sealAtom) h
  · exact h

theorem snd_ite {α : Type} {p q : α × State} {c : Prop} [Decidable c] (hp : KeepsStrands s0 p.2) (hq : KeepsStrands s0 q.2) :
    KeepsStrands s0 (if c then p else q).2 := by
  split
  · exact hp
  · exact hq

theorem paged {y : Issuer} {kd : Acc} {va n : Nat} (h : KeepsStrands s0 s) : KeepsStrands s0 (Machine.paged s y kd va n).2 := by
  unfold Machine.paged
  extract_lets once settle r
  have honce {t : State} (h : KeepsStrands s0 t) : KeepsStrands s0 (once t).2.1 := by
    unfold once
    split
    · exact h
    · split
      · exact h
      · exact h
      · exact h.lookup ‹_›
  have hsettle {x : Tr × State × Nat} (h : KeepsStrands s0 x.2.1) : KeepsStrands s0 (settle x).2 := by
    unfold settle
    split
    · exact h.underKey
    · exact snd_ite h (snd_ite h h.setDirty.underKey)
    · exact h
  have hr : KeepsStrands s0 r.2 := hsettle (honce h)
  split
  · exact hsettle (honce hr.tlbDrop)
  · exact hsettle (honce hr.tlbDrop)
  · exact hr

theorem translate {y : Issuer} {kd : Acc} {va n : Nat} (h : KeepsStrands s0 s) : KeepsStrands s0 (Machine.translate s y kd va n).2 := by
  unfold Machine.translate
  extract_lets base off pa inGrant bad
  split
  · exact snd_ite h h.underKey
  · clear_value bad
    split
    · exact h
    · exact h.paged

theorem of_translate {y : Issuer} {kd : Acc} {va n : Nat} {r : Tr} (ht : Machine.translate s y kd va n = (r, t)) (h : KeepsStrands s0 s) :
    KeepsStrands s0 t := by
  have hk := h.translate (y := y) (kd := kd) (va := va) (n := n)
  rw [ht] at hk
  exact hk

end KeepsStrands

/-! Reading a load's operands. -/

theorem cur_of_keepsStrand (h : s.Begins i) (hk : KeepsStrand s t) : t.me.cur = some i := hk.cur.trans h.cur_eq

/-! Loads of one register (R176 to R181). -/

/-- A load that its checks allow at a place, and that may be sent, is one read in flight, whose value is still to come. -/
theorem loads_of_admits {d : Code} {a : Word} {n ctx : Nat} {sx acq : Bool} {ctxOf : Place → State → Nat} {q : Place}
    (he : exec i s = loadAt d a n sx acq ctxOf u) (h : s.Begins i) (hk : KeepsStrand s u) (hadm : Admits .load a n n (fun _ => true) u q t)
    (hctx : ctxOf q t = ctx) (hready : t.loadReady q ctx n = true) :
    Loads i s ({ t with serial := t.serial + 1 }.post 1 ctx q.named q.loc n (t.homeFor q ctx) (.load (.reg t.serial 0 (8 * n) 0)))
      ⟨t.serial, d.toNat, 0, 1, 8 * n, sx, true, acq, none, a, q.loc⟩ := by
  refine loads_of_exec ?_ (cur_of_keepsStrand h ((hk.trans hadm.keepsStrand).same rfl))
  rw [he, loadAt, access, hadm]
  dsimp only
  rw [hctx, hready, Bool.not_true, if_neg Bool.false_ne_true]

theorem exec_loadM_of_gives {o : FmtM} {sx : Bool} {a : Word} (he : exec i s = loadM o sx s) (h : s.Starts i) (hd : dstOk o.d = true)
    (hacq : s.acquirePending = false) (hacc : s.accepts o.d = true) (ha : s.Gives o.a o.x a u) :
    exec i s = loadAt o.d (baseOff a o.o (2 ^ o.sz.toNat)) (2 ^ o.sz.toNat) sx (decide (2 ≤ o.c.toNat)) (baseCtx (decide (o.c.toNat = 1))) u := by
  rw [he, loadM, ha.1, hd, Bool.and_self, plain_of_starts h, ordered_of_free _ hacq, withDst_of_accepts _ _ hacc,
    readSrc_of_gives (by rw [h.begins.reads_eq]; rfl) ha]

/-- Under `.base` a plain access goes to base memory. -/
theorem baseCtx_eq (c : BitVec 3) (q : Place) (t : State) : baseCtx (decide (c.toNat = 1)) q t = if c = 1 then 0 else t.tagFor q := by
  have hc : c.toNat = 1 ↔ c = 1 := (BitVec.toNat_inj (x := c) (y := 1))
  simp only [baseCtx, hc, decide_eq_true_eq]

theorem exec_lda_of_gives (o : FmtLda) {a b : Word} (h : s.Starts (.lda o)) (hd : dstOk o.d = true) (hacq : s.acquirePending = false)
    (hacc : s.accepts o.d = true) (ha : s.Gives o.a o.x a u) (hb : u.Gives o.b false b v) :
    exec (.lda o) s = loadAt o.d (a + b) (2 ^ o.sz.toNat) (!o.u) true (baseCtx false) v := by
  change execLda o s = _
  rw [execLda, ha.1, hb.1, hd, Bool.and_self, Bool.and_self, plain_of_starts h, ordered_of_free _ hacq, withDst_of_accepts _ _ hacc,
    readSrc_of_gives (by rw [h.begins.reads_eq]; rfl) ha, readSrc_of_gives (length_reads_of_first h.begins ha) hb]

/-- The context that an `ldx` asks for: scratchpads carry none. -/
def ldxCtx (n : Nat) (p : Place) (_ : State) : Nat := match p.addr with | .scratch .. => 0 | _ => n

theorem ldxCtx_of_global {n : Nat} {q : Place} (h : q.addr.isGlobal = true) (t : State) : ldxCtx n q t = n := by
  unfold ldxCtx
  split
  · next c off hq =>
    rw [hq] at h
    cases h
  · rfl

theorem exec_ldx_of_gives (o : FmtLdx) {a b : Word} {g : Saggar} (h : s.Starts (.ldx o)) (hd : dstOk o.d = true) (hacq : s.acquirePending = false)
    (hacc : s.accepts o.d = true) (ha : s.Gives o.a o.x a u) (hb : u.Gives o.b o.y b v) (hg : v.sagAt v.me.sag = some g) :
    exec (.ldx o) s = if g.ldxOk (b.toNat % 65536) = false then trap .contextInvalid (word (b.toNat % 65536)) v
      else loadAt o.d a (2 ^ o.sz.toNat) (!o.u) false (ldxCtx (b.toNat % 65536)) v := by
  change execLdx o s = _
  rw [execLdx, ha.1, hb.1, hd, Bool.and_self, Bool.and_self, plain_of_starts h, ordered_of_free _ hacq, withDst_of_accepts _ _ hacc,
    readSrc_of_gives (by rw [h.begins.reads_eq]; rfl) ha, readSrc_of_gives (length_reads_of_first h.begins ha) hb]
  simp only [hg, bitsOf_zero, Bool.not_eq_true']
  rfl

/-! `pref` (R183). -/

/-- What a hint makes of s: where its address r is global, what the translation x of that address leaves unless it met no frame. -/
def State.hintedBy (s : State) (x : Nat → Tr × State) (r : Option Addr) : State := match r with
  | some (.global va) => match x va with
    | (.broken _, _) => s
    | (_, t) => t
  | _ => s

theorem hintedBy_broken {x : Nat → Tr × State} {va : Nat} {f : Fault} (hx : x va = (.broken f, t)) : s.hintedBy x (some (.global va)) = s := by
  rw [State.hintedBy, hx]

theorem hintedBy_found {x : Nat → Tr × State} {va : Nat} {r : Tr} (hx : x va = (r, t)) (hr : ∀ f, r ≠ .broken f) :
    s.hintedBy x (some (.global va)) = t := by
  rw [State.hintedBy, hx]
  cases r with
  | broken f => exact absurd rfl (hr f)
  | ok | waits | permission | lease | replay => rfl

/-- The state that a hint for address a leaves. -/
def State.hinted (s : State) (a : Word) : State := s.hintedBy (fun va => translate s s.issuer .load va 1) (resolve s s.myCluster s.me.sag a 1)

theorem hintedBy_of_local (x : Nat → Tr × State) {r : Option Addr} (hr : ∀ va, r ≠ some (.global va)) : s.hintedBy x r = s := by
  unfold State.hintedBy
  split
  · next va => exact absurd rfl (hr va)
  · rfl

theorem KeepsStrands.hintedBy {x : Nat → Tr × State} (hx : ∀ {va r t}, x va = (r, t) → KeepsStrands s t) (r : Option Addr) :
    KeepsStrands s (s.hintedBy x r) := by
  unfold State.hintedBy
  split
  · split
    · exact .refl s
    · next h => exact hx h
  · exact .refl s

theorem hinted_of_local {a : Word} (hr : ∀ va, resolve s s.myCluster s.me.sag a 1 ≠ some (.global va)) : s.hinted a = s := hintedBy_of_local _ hr

theorem exec_pref_of_gives (o : FmtPref) {a : Word} (h : s.Starts (.pref o)) (ha : s.Gives o.a o.x a u) :
    exec (.pref o) s = complete (u.hinted (baseOff a o.o (2 ^ o.sz.toNat))) := by
  change execPref o s = _
  rw [execPref, ha.1, plain_of_starts h, readSrc_of_gives (by rw [h.begins.reads_eq]; rfl) ha, State.hinted]
  obtain ⟨x, hx⟩ : ∃ x : Nat → Tr × State, ∀ va, translate u u.issuer .load va 1 = x va := ⟨_, fun _ => rfl⟩
  simp only [hx]
  split
  · next va hr =>
    split
    · next hb => rw [hr, hintedBy_broken hb]
    · next hno hf => rw [hr, hintedBy_found hf hno]
  · next hno => rw [hintedBy_of_local _ hno]

theorem KeepsStrands.hinted (a : Word) : KeepsStrands s (s.hinted a) := .hintedBy (fun h => KeepsStrands.of_translate h (.refl s)) _

/-- A hint ends in a state that has at most made a translation. -/
theorem pref_completes (o : FmtPref) {a : Word} (h : s.Starts (.pref o)) (ha : s.Gives o.a o.x a u) :
    ∃ t, Completes (.pref o) s t ∧ t.net = s.net ∧ t.me = u.me := by
  have hcur : u.me.cur = some (.pref o) := cur_of_keepsStrand h.begins (.gives ha h.begins.slot_lt)
  have hk := KeepsStrands.hinted (s := u) (baseOff a o.o (2 ^ o.sz.toNat))
  have hnet : u.net = s.net := by
    obtain ⟨-, -, rfl⟩ := ha
    exact (OperandFrame.took (d := 0) _ _ _ h.begins.slot_lt).net
  exact ⟨_, completes_of_exec (exec_pref_of_gives o h ha) (by rw [hk.me, hcur]), hk.net.trans hnet, hk.me⟩

theorem pref_completes_local (o : FmtPref) {a : Word} (h : s.Starts (.pref o)) (ha : s.Gives o.a o.x a u)
    (hr : ∀ va, resolve u u.myCluster u.me.sag (baseOff a o.o (2 ^ o.sz.toNat)) 1 ≠ some (.global va)) : Completes (.pref o) s u := by
  have he := exec_pref_of_gives o h ha
  rw [hinted_of_local hr] at he
  exact completes_of_exec he (cur_of_keepsStrand h.begins (.gives ha h.begins.slot_lt))

/-! Data that met poison (R178). -/

theorem bitsOf_withBits_pois (x : Word) (n : Nat) : bitsOf (withBits x 32 16 n) 32 16 = n % 65536 := by
  rw [bitsOf, toNat_withBits _ _ (by omega)]
  omega

theorem pois_countPoison (c k sag : Nat) :
    bitsOf ((s.countPoison c k sag).strandAt c k).st 32 16 = min (bitsOf (s.strandAt c k).st 32 16 + 1) 65535 := by
  have hst : ((s.countPoison c k sag).strandAt c k).st =
      withBits (s.strandAt c k).st 32 16 (min (bitsOf (s.strandAt c k).st 32 16 + 1) 65535) := by
    rw [State.countPoison, State.count, State.strandAt, coreAt_modSag]
    exact congrArg Strand.st (State.strandAt_modStrand ..)
  rw [hst, bitsOf_withBits_pois]
  omega

theorem st_fillResult (c k : Nat) (p : Pend) : ((s.fillResult c k p).strandAt c k).st = (s.strandAt c k).st := by
  rw [fillResult_eq, State.strandAt_modStrand]
  dsimp only
  split
  · rfl
  · rfl

section poisoned

variable {r : StrandRef} {k sh bits lo l : Nat} {a : Ack} {p : Pend} {x : Word} (hk : s.acks[k]? = some a) (hcore : a.core = r.core) (hslot : a.slot = r.slot)
  (hbody : a.body = .data (.reg p.id sh bits lo) x (some l)) (halive : s.alive r.core r.slot a.uid = true) (hdying : (s.strandOf r).dying = false)
  (hrelock : s.relocking r.core = false)

include hk hcore hslot hbody halive hdying hrelock in
/-- Data that met poison reaches its pending result. -/
theorem exec_poisonedData : exec (.loadDataReturn r k) s = .next (State.fillLoad { s with acks := dropAt s.acks k } r.core r.slot p.id sh bits lo x (some l)) := by
  obtain ⟨id, c, sl, uid, body, req⟩ := a
  obtain rfl : c = r.core := hcore
  obtain rfl : sl = r.slot := hslot
  obtain rfl : body = _ := hbody
  have hd : (s.strandAt r.core r.slot).dying = false := hdying
  change execLoadDataReturn r k s = _
  simp only [execLoadDataReturn, hk, halive, hd, hrelock, ne_eq, not_true_eq_false, or_self, if_false, Bool.not_true, Bool.false_eq_true, Bool.false_and]

variable (hfind : (s.strandOf r).pending.find? (fun q => q.id = p.id) = some p) (hparts : p.parts = 1) (hbad : p.bad = none)

include hfind hparts hbad in
/-- The one part of a load has met poison: POISON at its first byte where traps are elected, else a value and a count. -/
theorem fillLoad_poisoned : State.fillLoad { s with acks := dropAt s.acks k } r.core r.slot p.id sh bits lo x (some l) =
    let t : State := { s with acks := dropAt s.acks k }
    let p' := { p with val := p.val ||| word (LoadDst.take x bits lo * 2 ^ sh), parts := 0, bad := some l }
    if s.elects (s.strandOf r).sag = true then t.modStrand r.core r.slot (fun m => { m with
      pending := m.pending.filter (fun q => q.id != p.id), status := .ready, reply := some ⟨p.addr + word (l - p.loc), [], 14⟩ })
    else (t.countPoison r.core r.slot (s.strandOf r).sag).fillResult r.core r.slot { p' with val := p'.extended } := by
  have hs : State.strandAt { s with acks := dropAt s.acks k } r.core r.slot = s.strandOf r := rfl
  have hel (g : Nat) : State.elects { s with acks := dropAt s.acks k } g = s.elects g := rfl
  simp only [State.fillLoad, hs, hfind, hparts, hbad, hel]
  rfl

end poisoned

/-- Settles O25: the load forms are one access and one read each, `pref` a translation, and the data a result or POISON. -/
theorem loadsComplete : Obligations.LoadsComplete := by
  refine ⟨fun p hp o s u t a q n ctx h hd hacq hacc ha hn hadm hctx hready => ?_, fun o s u v t a b q n h hd hacq hacc ha hb hn hadm hready => ?_,
    fun o s u v t a b q n g h hd hacq hacc ha hb hn hg => ⟨fun hno => ?_, fun hok hadm hglob hready => ?_⟩,
    fun o s u a h ha => ⟨pref_completes o h ha, pref_completes_local o h ha⟩,
    fun r k s a p x sh bits lo l hk hcore hslot hbody halive hdying hrelock hfind hparts hbad => ⟨fun hel => ?_, fun hel => ?_⟩,
    fun s d x _ hw hr => finishReply_of_cause hr hw (by omega)⟩
  · subst hn hctx
    have he : exec (p.1 o) s = loadM o p.2 s := by
      fin_cases hp
      · rfl
      · rfl
    exact loads_of_admits (exec_loadM_of_gives he h hd hacq hacc ha) h.begins (.gives ha h.begins.slot_lt) hadm (baseCtx_eq o.c q t) hready
  · subst hn
    exact loads_of_admits (exec_lda_of_gives o h hd hacq hacc ha hb) h.begins (.givesTwo h.begins ha hb) hadm rfl hready
  · rw [Traps, exec_ldx_of_gives o h hd hacq hacc ha hb hg, if_pos hno, trap, (KeepsStrand.givesTwo h.begins ha hb).pc]
    rfl
  · subst hn
    exact loads_of_admits ((exec_ldx_of_gives o h hd hacq hacc ha hb hg).trans (if_neg (by rw [hok]; exact Bool.noConfusion))) h.begins
      (.givesTwo h.begins ha hb) hadm (ldxCtx_of_global hglob t) hready
  · rw [exec_poisonedData hk hcore hslot hbody halive hdying hrelock, fillLoad_poisoned hfind hparts hbad]
    exact congrArg Host.Outcome.next (if_pos hel)
  · refine ⟨_, exec_poisonedData hk hcore hslot hbody halive hdying hrelock, ?_, ?_⟩
    · rw [fillLoad_poisoned hfind hparts hbad]
      dsimp only
      rw [if_neg (by rw [hel]; exact Bool.false_ne_true), fillResult_eq]
      exact mem_countPoison ..
    · rw [fillLoad_poisoned hfind hparts hbad]
      dsimp only
      rw [if_neg (by rw [hel]; exact Bool.false_ne_true)]
      exact (congrArg (fun x => bitsOf x 32 16) (st_fillResult ..)).trans (pois_countPoison ..)

end Sys2Proof.Machine
end

/-! Stores (O26). -/
section
namespace Sys2Proof.Machine

variable {s s0 t u v w : State} {i : Instr}

/-! What the end of an instruction leaves in memory. -/

/-- From s to t the bytes of memory and the full bits of its words are as they were. -/
structure SameWords (s t : State) : Prop where
  mem : t.mem = s.mem
  full : t.full = s.full

/-- Memory is as it was in every state that an answer goes on in. -/
def OutSameWords (s : State) (o : Out) : Prop := ∀ t, o = .next t → SameWords s t

namespace SameWords

theorem refl (s : State) : SameWords s s := ⟨rfl, rfl⟩

/-- What leaves memory and its full bits. -/
theorem same (h : SameWords s0 s) (e : (t.mem, t.full) = (s.mem, s.full)) : SameWords s0 t := by
  obtain ⟨hmem, hfull⟩ := Prod.mk.inj e
  exact ⟨hmem.trans h.mem, hfull.trans h.full⟩

theorem byte (h : SameWords s t) (l : Nat) : t.byte l = s.byte l := by rw [State.byte, h.mem, State.byte]
theorem isFull (h : SameWords s t) (l : Nat) : t.isFull l = s.isFull l := by rw [State.isFull, h.full, State.isFull]

theorem ite {p : Prop} [Decidable p] (h : SameWords s t) (h' : SameWords s u) : SameWords s (if p then t else u) := by
  split
  · exact h
  · exact h'

theorem next (h : SameWords s t) : OutSameWords s (.next t) := by
  rintro _ ⟨⟩
  exact h

theorem modMe {f : Strand → Strand} (h : SameWords s0 s) : SameWords s0 (s.modMe f) := h.same rfl

theorem traced {k : Nat} {x : Word} (h : SameWords s0 s) : SameWords s0 (s.traced k x) := h.same rfl

theorem poolEvent {cl : Nat} (h : SameWords s0 s) : SameWords s0 (s.poolEvent cl) := by
  rw [poolEvent_eq]
  exact h.same rfl

theorem shrinkNow {c k : Nat} (h : SameWords s0 s) : SameWords s0 (s.shrinkNow c k) := by
  obtain he | ⟨n, he⟩ := shrinkNow_cases s c k
  · rw [he]
    exact h
  · rw [he]
    exact poolEvent (h.same rfl)

theorem completeTo {pc : Word} {fell : Bool} (h : SameWords s0 s) : OutSameWords s0 (Machine.completeTo pc fell s) := by
  unfold Machine.completeTo
  dsimp only
  split
  · exact h.modMe.modMe.next
  · split
    · split
      · exact h.modMe.modMe.next
      · split
        · exact next (.ite h.modMe.modMe.traced.shrinkNow.modMe h.modMe.modMe.traced.shrinkNow)
        · exact h.modMe.modMe.traced.next
    · exact h.modMe.modMe.next

theorem complete (h : SameWords s0 s) : OutSameWords s0 (Machine.complete s) := h.completeTo

end SameWords

/-! A store admitted at a place (R175, R192). -/

/-- The state in which the message of a write to place p waits in the replay queue behind a fault (R175, R395). -/
def State.parks (s : State) (p : Place) (why : ReplayWhy) (tc ctx n : Nat) (body : Body) : State :=
  State.modMyCore { s with serial := s.serial + 1 } (fun c => { c with replay := c.replay ++ [⟨[⟨s.serial, s.core, s.slot, s.me.uid, s.me.sag, s.me.task, s.me.spec,
    tc, ctx, p.named, p.loc, n, s.homeFor p ctx, body, s.serial, s.time⟩], why, (s.me.heapb, s.me.heapl, s.me.heapo)⟩] })

/-- A write that meets a replay-class fault waits in the replay queue. -/
theorem sendWrite_of_replay {p : Place} {tc ctx n : Nat} {b : Body} {why : ReplayWhy} (k : State → Out) (hroom : s.requestRoom 1 = true)
    (hreplay : p.replay = some why) (hdepth : s.myCore.replay.length < 16) : sendWrite p tc ctx n b s k = k (s.parks p why tc ctx n b) := by
  rw [sendWrite, hroom, Bool.not_true, if_neg Bool.false_ne_true, hreplay]
  exact if_neg (Nat.not_le.2 hdepth)

/-- A write is sent, parked or held, and changes nothing in memory. -/
theorem sameWords_sendWrite {p : Place} {tc ctx n : Nat} {b : Body} {k : State → Out} (hk : ∀ {t}, SameWords s t → OutSameWords s (k t)) :
    OutSameWords s (sendWrite p tc ctx n b s k) := by
  unfold sendWrite
  split
  · exact .next ((SameWords.refl s).same rfl)
  · split
    · exact hk ((SameWords.refl s).same rfl)
    · split
      · exact .next ((SameWords.refl s).same rfl)
      · exact hk ((SameWords.refl s).same rfl)

/-- What a store does at place q once nothing orders it: it is held while an earlier access of its core crosses it, else sent. -/
def storeTo (q : Place) (v : Word) (n ctx : Nat) (s : State) : Out :=
  if s.crosses false (s.homeFor q ctx) q.loc n then hold s else sendWrite q 1 ctx n (.store (toBytes n v.toNat)) s complete

theorem storeTo_of_clear {q : Place} {v : Word} {n ctx : Nat} (hc : s.crosses false (s.homeFor q ctx) q.loc n = false) :
    storeTo q v n ctx s = sendWrite q 1 ctx n (.store (toBytes n v.toNat)) s complete := by
  rw [storeTo, hc, if_neg Bool.false_ne_true]

/-- A store that its checks allow goes to its place, after the release it asks for. -/
theorem storeAt_of_admits {a x : Word} {n : Nat} {ctxOf : Place → State → Nat} {q : Place} (rel : Option Nat)
    (hadm : Admits .store a n n (fun _ => true) s q t) (hrel : ∀ scope ∈ rel, t.releaseOk scope = true) :
    storeAt a x n rel ctxOf s = storeTo q x n (ctxOf q t) t := by
  rw [storeAt, access, hadm]
  cases rel with
  | none => rfl
  | some scope => exact releasing_ok (hrel scope rfl) _

/-- A store whose release has to wait is held on the parked stores. -/
theorem storeAt_held {a x : Word} {n scope : Nat} {ctxOf : Place → State → Nat} {q : Place} (hadm : Admits .store a n n (fun _ => true) s q t)
    (hrel : t.releaseOk scope = false) : storeAt a x n (some scope) ctxOf s = .next t.heldParked := by
  rw [storeAt, access, hadm]
  exact releasing_held hrel _

theorem sameWords_storeTo {q : Place} {x : Word} {n ctx : Nat} : OutSameWords s (storeTo q x n ctx s) := by
  unfold storeTo
  split
  · exact (SameWords.refl s).modMe.next
  · exact sameWords_sendWrite (fun h => h.complete)

/-! The forms (R179, R180). -/

/-- The scope of the release that an `st` form asks for (R192). -/
def relOf (c : BitVec 3) : Option Nat := if 2 ≤ c.toNat then some (c.toNat - 2) else none

theorem releaseOk_of_mem_relOf {c : BitVec 3} (h : 2 ≤ c.toNat → s.releaseOk (c.toNat - 2) = true) : ∀ scope ∈ relOf c, s.releaseOk scope = true := by
  intro scope hs
  obtain ⟨hc, rfl⟩ := Option.ite_none_right_eq_some.1 hs |>.imp_right Option.some.inj
  exact h hc

theorem exec_st_of_gives (o : FmtM) {a d : Word} (h : s.Starts (.st o)) (hacq : s.acquirePending = false) (ha : s.Gives o.a o.x a u)
    (hd : u.Gives o.d false d v) :
    exec (.st o) s = storeAt (baseOff a o.o (2 ^ o.sz.toNat)) d (2 ^ o.sz.toNat) (relOf o.c) (baseCtx (decide (o.c.toNat = 1))) v := by
  change execSt o s = _
  rw [execSt, ha.1, hd.1, Bool.and_self, plain_of_starts h, ordered_of_free _ hacq, readSrc_of_gives (by rw [h.begins.reads_eq]; rfl) ha,
    readSrc_of_gives (length_reads_of_first h.begins ha) hd]
  rfl

theorem exec_stl_of_gives (o : FmtStl) {a b d : Word} (h : s.Starts (.stl o)) (hacq : s.acquirePending = false) (ha : s.Gives o.a o.x a u)
    (hb : u.Gives o.b false b v) (hd : v.Gives o.d false d w) :
    exec (.stl o) s = storeAt (a + b) d (2 ^ o.sz.toNat) (some o.k.toNat) (baseCtx false) w := by
  change execStl o s = _
  rw [execStl, ha.1, hb.1, hd.1, Bool.and_self, Bool.and_self, plain_of_starts h, ordered_of_free _ hacq, readSrc_of_gives (by rw [h.begins.reads_eq]; rfl) ha,
    readSrc_of_gives (length_reads_of_first h.begins ha) hb, readSrc_of_gives (length_reads_of_gives h.begins ha hb) hd]

theorem KeepsStrand.givesThree {a b d : Word} {ca cb cd : Code} {ya yb yd : Bool} (h : s.Begins i) (ha : s.Gives ca ya a u) (hb : u.Gives cb yb b v)
    (hd : v.Gives cd yd d w) : KeepsStrand s w :=
  have hk := KeepsStrand.givesTwo h ha hb
  hk.trans (.gives hd (hk.slot_lt h.slot_lt))

theorem KeepsStrand.parks {q : Place} {why : ReplayWhy} {tc ctx n : Nat} {b : Body} (h : KeepsStrand s0 s) : KeepsStrand s0 (s.parks q why tc ctx n b) :=
  .modCore (fun _ => rfl) (h.same rfl)

/-- Settles O26: past its operands a store is one access and one write, which is sent, parked or held. -/
theorem storesComplete : Obligations.StoresComplete := by
  refine ⟨fun o s u v t a d q n ctx h hacq ha hd hn hadm hctx hrel hc => ?_, fun o s u v w t a b d q n h hacq ha hb hd hn hadm hrel hc hsends => ?_,
    fun o s u v t a d q n h hacq ha hd hn hadm hc hrel => ?_⟩
  · subst hn
    have hk : KeepsStrand s t := (KeepsStrand.givesTwo h.begins ha hd).trans hadm.keepsStrand
    have he : exec (.st o) s = storeTo q d (2 ^ o.sz.toNat) ctx t := by
      rw [exec_st_of_gives o h hacq ha hd, baseOff, storeAt_of_admits _ hadm (releaseOk_of_mem_relOf hrel), baseCtx_eq, hctx]
    refine ⟨fun hsends => ?_, fun why hroom hwhy hdepth => ?_, fun w hw l => ?_⟩
    · exact completes_of_exec (he.trans ((storeTo_of_clear hc).trans (sendWrite_of_sends _ hsends))) (cur_of_keepsStrand h.begins hk.post)
    · exact completes_of_exec (he.trans ((storeTo_of_clear hc).trans (sendWrite_of_replay _ hroom hwhy hdepth))) (cur_of_keepsStrand h.begins hk.parks)
    · have hsame : SameWords t w := sameWords_storeTo w (he.symm.trans hw)
      exact ⟨hsame.byte l, hsame.isFull l⟩
  · subst hn
    have hk : KeepsStrand s t := (KeepsStrand.givesThree h.begins ha hb hd).trans hadm.keepsStrand
    refine completes_of_exec ?_ (cur_of_keepsStrand h.begins hk.post)
    rw [exec_stl_of_gives o h hacq ha hb hd, storeAt_of_admits _ hadm (by simpa using hrel)]
    exact (storeTo_of_clear hc).trans (sendWrite_of_sends _ hsends)
  · subst hn
    rw [exec_st_of_gives o h hacq ha hd, relOf, if_pos hc]
    exact storeAt_held hadm hrel

end Sys2Proof.Machine
end

/-! Atomics and reductions (O29). -/
section
namespace Sys2Proof.Machine

variable {s t u v w : State} {i : Instr}

/-! An atomic admitted at a place (R174, R175, R188). -/

theorem atomicAccess_of_admits {op : AOp} {scope : Nat} {a : Word} {q : Place} (k : Place → State → Out)
    (hadm : Admits .update a op.size op.size (s.scopeTakes scope) s q t) (hc : t.crosses false (homeOf q.loc) q.loc op.size = false) :
    atomicAccess op scope a s k = k q t := by
  rw [atomicAccess, access, hadm]
  exact if_neg (ne_true_of_eq_false hc)

/-- An atomic that may be sent is on its way, and its strand awaits the old value (R189). -/
theorem awaits_of_admits {op : AOp} {scope d : Nat} {a b c : Word} {q : Place}
    (he : exec i s = atomicAccess op scope a u (fun p s => if s.parkedOverlap p.named op.size then holdOn p.named s
      else sendWrite p 1 0 op.size (.atomic op b c true) s (awaitReply d)))
    (hadm : Admits .update a op.size op.size (u.scopeTakes scope) u q t) (hc : t.crosses false (homeOf q.loc) q.loc op.size = false)
    (ho : t.parkedOverlap q.named op.size = false) (hs : t.Sends q) :
    Awaits i s (t.post 1 0 q.named q.loc op.size (homeOf q.loc) (.atomic op b c true)) d := by
  rw [Awaits, he, atomicAccess_of_admits _ hadm hc, ho, if_neg Bool.false_ne_true, sendWrite_of_sends _ hs]
  rfl

/-! The forms (R186). -/

theorem amo_awaits {op : AOp} (o : FmtAmo) {a b : Word} {q : Place} (he : exec i s = amo op o s) (hop : op ≠ .cas) (h : s.Starts i) (hd : dstOk o.d = true)
    (hacq : s.acquirePending = false) (hacc : s.accepts o.d = true) (ha : s.Gives o.a o.x a u) (hb : u.Gives o.b false b v)
    (hadm : Admits .update a op.size op.size (v.scopeTakes o.k.toNat) v q t) (hc : t.crosses false (homeOf q.loc) q.loc op.size = false)
    (ho : t.parkedOverlap q.named op.size = false) (hs : t.Sends q) :
    Awaits i s (t.post 1 0 q.named q.loc op.size (homeOf q.loc) (.atomic op b 0 true)) o.d.toNat := by
  refine awaits_of_admits (he.trans ?_) hadm hc ho hs
  have hcas : decide (op = .cas) = false := decide_eq_false hop
  rw [amo, hcas, ha.1, hb.1, hd, Bool.not_false, Bool.true_or, Bool.and_self, Bool.and_self, Bool.and_self, plain_of_starts h, ordered_of_free _ hacq, withDst_of_accepts _ _ hacc,
    readSrc_of_gives (by rw [h.begins.reads_eq]; rfl) ha, readSrc_of_gives (length_reads_of_first h.begins ha) hb, if_neg Bool.false_ne_true]

theorem amoCas_awaits (o : FmtAmo) {a b c : Word} {q : Place} (h : s.Starts (.amoCas o)) (hd : dstOk o.d = true)
    (hacq : s.acquirePending = false) (hacc : s.accepts o.d = true) (ha : s.Gives o.a o.x a u) (hb : u.Gives o.b false b v) (hcmp : v.Gives o.d false c w)
    (hadm : Admits .update a 8 8 (w.scopeTakes o.k.toNat) w q t) (hc : t.crosses false (homeOf q.loc) q.loc 8 = false)
    (ho : t.parkedOverlap q.named 8 = false) (hs : t.Sends q) :
    Awaits (.amoCas o) s (t.post 1 0 q.named q.loc 8 (homeOf q.loc) (.atomic .cas b c true)) o.d.toNat := by
  have he : exec (.amoCas o) s = amo .cas o s := rfl
  refine awaits_of_admits (op := .cas) (he.trans ?_) hadm hc ho hs
  have hcas : decide (AOp.cas = .cas) = true := rfl
  rw [amo, hcas, ha.1, hb.1, hd, hcmp.1, Bool.or_true, Bool.and_self, Bool.and_self, Bool.and_self, plain_of_starts h, ordered_of_free _ hacq, withDst_of_accepts _ _ hacc,
    readSrc_of_gives (by rw [h.begins.reads_eq]; rfl) ha, readSrc_of_gives (length_reads_of_first h.begins ha) hb, if_pos rfl,
    readSrc_of_gives (length_reads_of_gives h.begins ha hb) hcmp]

/-- A reduction is held while its core has no room to count it. -/
theorem red_held {op : AOp} (o : FmtRed) (he : exec i s = red op o s) (h : s.Starts i) (hacq : s.acquirePending = false) (hx : srcOk o.x o.a = true)
    (hy : srcOk false o.b = true) (hp : 16 ≤ s.me.pend) : exec i s = .next (s.modMe (fun m => { m with status := .held })) := by
  have hroom : s.pendRoom = false := decide_eq_false (Nat.not_lt.2 hp)
  rw [he, red, hx, hy, Bool.and_self, plain_of_starts h, ordered_of_free _ hacq, hroom]
  rfl

theorem red_completes {op : AOp} (o : FmtRed) {a b : Word} {q : Place} (he : exec i s = red op o s) (h : s.Starts i) (hacq : s.acquirePending = false)
    (hp : s.me.pend < 16) (ha : s.Gives o.a o.x a u) (hb : u.Gives o.b false b v)
    (hadm : Admits .update a op.size op.size (v.scopeTakes o.k.toNat) v q t) (hc : t.crosses false (homeOf q.loc) q.loc op.size = false) (hs : t.Sends q) :
    Completes i s ((t.post 1 0 q.named q.loc op.size (homeOf q.loc) (.atomic op b 0 false)).modMe (fun m => { m with pend := m.pend + 1 })) := by
  have hk : KeepsStrand s t := (KeepsStrand.givesTwo h.begins ha hb).trans hadm.keepsStrand
  have hroom : s.pendRoom = true := decide_eq_true hp
  refine completes_of_exec (he.trans ?_) ((congrArg Strand.cur (State.me_modMe ..)).trans (cur_of_keepsStrand h.begins hk.post))
  rw [red, ha.1, hb.1, Bool.and_self, plain_of_starts h, ordered_of_free _ hacq, hroom, Bool.not_true, if_neg Bool.false_ne_true,
    readSrc_of_gives (by rw [h.begins.reads_eq]; rfl) ha, readSrc_of_gives (length_reads_of_first h.begins ha) hb, atomicAccess_of_admits _ hadm hc,
    sendWrite_of_sends _ hs]
  rfl

/-- Settles O29: an atomic is one access and one message whose reply the strand awaits; a reduction is counted in PEND and goes on. -/
theorem atomicsAndReductionsComplete : Obligations.AtomicsAndReductionsComplete := by
  refine ⟨fun p hp o s u v t a b q h hd hacq hacc ha hb hadm hc ho hs => ?_, fun o s u v w t a b c q h hd hacq hacc ha hb hcmp hadm hc ho hs =>
    amoCas_awaits o h hd hacq hacc ha hb hcmp hadm hc ho hs, fun p hp o s u v t a b q h hacq hx hy => ?_⟩
  · have he : exec (p.1 o) s = amo p.2 o s ∧ p.2 ≠ .cas := by
      fin_cases hp <;> exact ⟨rfl, by decide⟩
    exact amo_awaits o he.1 he.2 h hd hacq hacc ha hb hadm hc ho hs
  · have he : exec (p.1 o) s = red p.2 o s := by
      fin_cases hp <;> rfl
    exact ⟨red_held o he h hacq hx hy, fun hp ha hb hadm hc hs => red_completes o he h hacq hp ha hb hadm hc hs⟩

end Sys2Proof.Machine
end

/-! Homes that take a message at once, and full/empty words (O28). -/
section
namespace Sys2Proof.Machine

variable {s s0 t u v w : State} {i : Instr} {m : Msg}

/-! Reading a word in which no error stands, at a home that is awake (R417, R442). -/

theorem foldl_of_fixed {α β : Type} {f : β → α → β} {b : β} : ∀ {l : List α}, (∀ a ∈ l, f b a = b) → l.foldl f b = b
  | [], _ => rfl
  | a :: l, h => by
    rw [List.foldl_cons, h a List.mem_cons_self]
    exact foldl_of_fixed (fun x hx => h x (List.mem_cons_of_mem _ hx))

theorem meet_of_clean {l n : Nat} (h : ∀ i, i < n → Tbl.find s.errs (poisonWord (l + i)) = none) : s.meet l n = s := by
  unfold State.meet
  split
  · rfl
  · exact foldl_of_fixed (fun i hi => by rw [State.meetWord, h i (List.mem_range.1 hi)])

theorem wakeHomes_of_awake (h : ∀ x ∈ m.homes, s.awakeAt x = true) : s.wakeHomes m = s := foldl_of_fixed (fun x hx => wakeHome_awake (h x hx))

/-- A read that no error strikes, of words without an error, leaves the state. -/
theorem strike_of_clean {l n : Nat} (h : ∀ i, i < n → Tbl.find s.errs (poisonWord (l + i)) = none) : s.strike l n ⟨false, false⟩ = s := meet_of_clean h

/-! A message whose home takes it now (R275). -/

theorem toPeer_of_arrives {k : Nat} (h : s.Arrives k m) : m.toPeer = false := by
  obtain ⟨-, -, -, -, -, -, hspace, -, -⟩ := h
  unfold Msg.toPeer
  by_cases hk : m.home.kind = .fabric
  · simp [hspace hk]
  · simp [hk]

theorem applyMsg_of_arrives {k : Nat} (h : s.Arrives k m) (e : EccRec) : s.applyMsg k m e = (s.dropMsg k).perform m e := by
  have hpeer := toPeer_of_arrives h
  obtain ⟨-, -, hpark, hbehind, hbuffer, haway, hspace, -, -⟩ := h
  have hcut : ¬ (decide (m.home.kind = .fabric) && (s.dropMsg k).cutOff m.loc) = true := by
    rw [Bool.and_eq_true, decide_eq_true_eq]
    rintro ⟨hk, hc⟩
    simp [State.cutOff, hspace hk] at hc
  have hreach : (s.dropMsg k).reach m e = (s.dropMsg k).perform m e := by
    rw [State.reach, if_neg hcut, hpeer, if_neg Bool.false_ne_true]
  unfold State.applyMsg
  cases hp : m.body.parks with
  | true => simp only [hpark hp, hbuffer, haway, hreach, Bool.and_false, Bool.not_true, Bool.false_and, Bool.or_self, Bool.false_eq_true, if_false]
  | false => simp only [hbehind hp, hbuffer, haway, hreach, Bool.false_and, Bool.and_false, Bool.or_self, Bool.false_eq_true, if_false]

/-- A full/empty operation is performed at its home. -/
theorem exec_feOpAtHome_of_arrives {k : Nat} {op : FeOp} {d : Word} (h : s.Arrives k m) (hb : m.body = .fe op d) :
    exec (.feOpAtHome k) s = .next ((s.dropMsg k).feArrive m) := by
  have happly := applyMsg_of_arrives h ⟨false, false⟩
  obtain ⟨hnet, hbar, -, -, -, -, -, hclean, hawake⟩ := h
  have hperform : (s.dropMsg k).perform m ⟨false, false⟩ = (s.dropMsg k).feArrive m := by
    rw [State.perform, hb]
    exact congrArg (State.feArrive · m) (strike_of_clean (s := s.dropMsg k) hclean)
  have hop : m.body.feOp.isNone = false := by rw [hb]; rfl
  change execFeOpAtHome k s = _
  rw [execFeOpAtHome, hnet]
  dsimp only
  rw [hop, hbar, if_neg (by simp), wakeHomes_of_awake hawake, happly, hperform]

/-! What looking at a word for its waiters, and writing bytes, leaves (R185, R207). -/

/-- A store of bytes changes memory alone. -/
theorem setBytes_eq (l : Nat) (bs : List Byte) : s.setBytes l bs = { s with mem := (s.setBytes l bs).mem } := by
  induction bs generalizing s l with
  | nil => rfl
  | cons b bs ih =>
    rw [State.setBytes, ih (s := s.setByte l b) (l + 1)]
    rfl

/-- What is not listed is not listed in a part of the list either. -/
theorem find_filter_of_none {α : Type} (q : Nat × α → Bool) {k : Nat} : ∀ {l : List (Nat × α)}, Tbl.find l k = none → Tbl.find (l.filter q) k = none
  | [], _ => rfl
  | (j, x) :: l, h => by
    rw [Tbl.find] at h
    split at h
    · cases h
    · next hj =>
      rw [List.filter_cons]
      split
      · rw [Tbl.find, if_neg hj]
        exact find_filter_of_none q h
      · exact find_filter_of_none q h

/-- The word of key p holds neither poison nor an error. -/
def State.SoundWord (s : State) (p : Nat) : Prop := Tbl.find s.poison p = none ∧ Tbl.find s.errs p = none

/-- From s to t no waiter has been listed, what is in flight is as it was, and no word has become unsound. -/
structure Settles (s t : State) : Prop where
  waiters : ∀ w ∈ t.waiters, w ∈ s.waiters
  net : t.net = s.net
  sound : ∀ p, s.SoundWord p → t.SoundWord p

namespace Settles

theorem refl (s : State) : Settles s s := ⟨fun _ h => h, rfl, fun _ h => h⟩

/-- What leaves the waiters, what is in flight, and the poison and errors of memory. -/
theorem same (h : Settles s0 s) (e : (t.waiters, t.net, t.poison, t.errs) = (s.waiters, s.net, s.poison, s.errs)) : Settles s0 t := by
  obtain ⟨hwaiters, e⟩ := Prod.mk.inj e
  obtain ⟨hnet, e⟩ := Prod.mk.inj e
  obtain ⟨hpoison, herrs⟩ := Prod.mk.inj e
  refine ⟨fun w hw => h.waiters w (hwaiters ▸ hw), hnet.trans h.net, fun p hp => ?_⟩
  rw [State.SoundWord, hpoison, herrs]
  exact h.sound p hp

theorem ite {p : Prop} [Decidable p] (h : Settles s t) (h' : Settles s u) : Settles s (if p then t else u) := by
  split
  · exact h
  · exact h'

theorem foldl {α : Type} {f : State → α → State} (l : List α) (hf : ∀ {t a}, Settles s0 t → Settles s0 (f t a)) (h : Settles s0 s) :
    Settles s0 (l.foldl f s) := by
  induction l generalizing s with
  | nil => exact h
  | cons a l ih => exact ih (hf h)

theorem count {g : Nat} {f : Counters → Counters} (h : Settles s0 s) : Settles s0 (s.count g f) :=
  h.same (by rw [State.count, State.modSag_waiters, State.modSag_net, State.modSag_poison, State.modSag_errs])

theorem countPoison {c k g : Nat} (h : Settles s0 s) : Settles s0 (s.countPoison c k g) := count (h.same rfl)

theorem bumpUnit {l : Nat} {f : Repair → Repair} (h : Settles s0 s) : Settles s0 (s.bumpUnit l f) := by
  unfold State.bumpUnit
  split
  · exact h.same rfl
  · exact h

/-- An error is met in the word that holds it: that word may be poisoned then, and no other. -/
theorem meetWord {l : Nat} (h : Settles s0 s) : Settles s0 (s.meetWord l) := by
  unfold State.meetWord
  split
  · next double hd =>
    have hne {p : Nat} (hp : s.SoundWord p) : p ≠ poisonWord l := by
      rintro rfl
      rw [hp.2] at hd
      cases hd
    have hdel : Settles s0 { s with errs := Tbl.del s.errs (poisonWord l) } :=
      ⟨h.waiters, h.net, fun p hp => ⟨(h.sound p hp).1, (Tbl.find_del_other _ _ _ (hne (h.sound p hp))).trans (h.sound p hp).2⟩⟩
    have hpois : Settles s0 (State.setPoison { s with errs := Tbl.del s.errs (poisonWord l) } l true) :=
      ⟨hdel.waiters, hdel.net, fun p hp => ⟨(Tbl.find_put_other _ _ _ _ (hne (h.sound p hp))).trans (hdel.sound p hp).1, (hdel.sound p hp).2⟩⟩
    exact .ite hpois.bumpUnit (.ite hdel.bumpUnit (hdel.same rfl))
  · exact h

theorem meet {l n : Nat} (h : Settles s0 s) : Settles s0 (s.meet l n) := .ite h (foldl _ (fun h => h.meetWord) h)

theorem answer {b : AckBody} (h : Settles s0 s) : Settles s0 (s.answer m b) := h.same rfl

theorem replyLoad {p : Bool} {x : Word} (h : Settles s0 s) : Settles s0 (s.replyLoad m p x) :=
  .ite h.answer (.ite h.answer (answer (.ite h.countPoison h.count)))

theorem settleSignals {l : Nat} (h : Settles s0 s) : Settles s0 (s.settleSignals l) := by
  unfold State.settleSignals
  extract_lets x v met t
  have ht : Settles s0 t := foldl _ (fun h => h.replyLoad) h.meet
  exact ⟨fun w hw => ht.waiters w (List.mem_filter.1 hw).1, ht.net, ht.sound⟩

theorem changed {l n : Nat} (h : Settles s0 s) : Settles s0 (s.changed l n) := foldl _ (fun h => h.settleSignals) h

theorem setBytes {l : Nat} {bs : List Byte} (h : Settles s0 s) : Settles s0 (s.setBytes l bs) := by
  rw [setBytes_eq]
  exact h.same rfl

theorem setDword {l : Nat} {x : Word} (h : Settles s0 s) : Settles s0 (s.setDword l x) := h.setBytes

theorem clearPoison {l n : Nat} (h : Settles s0 s) : Settles s0 (s.clearPoison l n) :=
  ⟨h.waiters, h.net, fun p hp => ⟨find_filter_of_none _ (h.sound p hp).1, find_filter_of_none _ (h.sound p hp).2⟩⟩

theorem setFull {l : Nat} {b : Bool} (h : Settles s0 s) : Settles s0 (s.setFull l b) := h.same rfl

end Settles

/-! Waiters of a word (R185). -/

theorem placeOf_eq_none_iff {α : Type} {p : α → Bool} {l : List α} : placeOf p l = none ↔ ∀ x ∈ l, p x = false := by
  induction l with
  | nil => simp [placeOf]
  | cons x l ih =>
    rw [placeOf, List.forall_mem_cons]
    cases p x <;> simp [ih]

theorem listedFe_of_settles {l : Nat} {f : FeOp} (h : Settles s t) (hs : s.listedFe l f = none) : t.listedFe l f = none :=
  placeOf_eq_none_iff.2 (fun w hw => placeOf_eq_none_iff.1 hs w (h.waiters w hw))

/-- A word for which nobody waits is settled. -/
theorem settleFe_of_unlisted {l : Nat} (h : ∀ f, s.listedFe l f = none) : ∀ n, State.settleFe n s l = s
  | 0 => rfl
  | n + 1 => by
    rw [State.settleFe, h .leave, h .take, h .fill]
    split
    · rfl
    · rfl

/-! What a full/empty operation does to a word that is neither fenced nor poisoned (R184). -/

section word

variable {d : Word} (hf : s.fenced m.loc = false) (hp : s.poisoned m.loc = false)

include hf hp in
theorem dead_of_sound : s.dead m.loc = false := by rw [State.dead, hp, hf, Bool.or_false]

include hf hp in
theorem serveFe_state (hb : m.body = .fe .state d) : s.serveFe m = s.replyTo m (if s.isFull m.loc then 1 else 0) := by
  unfold State.serveFe
  simp only [hb, hf, dead_of_sound hf hp, Bool.false_eq_true, if_false, Nat.add_zero]
  split
  · rfl
  · rfl

include hf hp in
theorem serveFe_leave (hb : m.body = .fe .leave d) : s.serveFe m = s.replyTo m (s.dword m.loc) := by
  unfold State.serveFe
  simp only [hb, dead_of_sound hf hp]
  rfl

include hf hp in
theorem serveFe_take (hb : m.body = .fe .take d) : s.serveFe m = (s.setFull m.loc false).replyTo m (s.dword m.loc) := by
  unfold State.serveFe
  simp only [hb, hf, dead_of_sound hf hp, Bool.false_and, Bool.or_self, Bool.false_eq_true, if_false]
  exact if_pos rfl

/-- The word of a message takes value d and is full, and those who wait for its value look at it. -/
def State.filled (s : State) (m : Msg) (d : Word) : State := (((s.setDword m.loc d).clearPoison m.loc 8).setFull m.loc true).changed m.loc 8

include hf in
theorem serveFe_fill (hb : m.body = .fe .fill d) : s.serveFe m = (s.filled m d).replyTo m 0 := by
  unfold State.serveFe
  simp only [hb, hf, Bool.false_eq_true, if_false]
  rfl

include hf in
theorem serveFe_force (hb : m.body = .fe .force d) : s.serveFe m = (s.filled m d).answer m .store := by
  unfold State.serveFe
  simp only [hb, hf, Bool.false_eq_true, if_false]
  rfl

include hf in
theorem serveFe_empty (hb : m.body = .fe .empty d) : s.serveFe m = (s.setFull m.loc false).answer m .store := by
  unfold State.serveFe
  simp only [hb, hf, Bool.false_eq_true, if_false]

end word

theorem Settles.filled {d : Word} : Settles s (s.filled m d) := (Settles.refl s).setDword.clearPoison.setFull.changed

/-- Whether the condition of a full/empty form holds of a word with full bit f (R184). -/
def FeOp.ready (op : FeOp) (f : Bool) : Bool := match op with
  | .state | .force | .empty => true
  | .leave | .take => f
  | .fill => !f

/-- An operation whose condition holds is served at once, and when nobody waits for the word that is all. -/
theorem feArrive_of_ready {op : FeOp} {d : Word} (hb : m.body = .fe op d) (hr : op.ready (s.isFull m.loc) = true) (hl : ∀ f, s.listedFe m.loc f = none)
    (hu : s.serveFe m = u) (hn : Settles s u) : s.feArrive m = u := by
  have hnow : s.feArrive m = State.settleFe (s.waiters.length + 1) (s.serveFe m) m.loc := by
    unfold State.feArrive
    rw [hb]
    exact if_pos (by cases op <;> simp_all [FeOp.ready])
  rw [hnow, hu, settleFe_of_unlisted (fun f => listedFe_of_settles hn (hl f))]

/-- An operation whose condition does not hold is listed, and its strand parks. -/
theorem feArrive_of_not_ready {op : FeOp} {d : Word} (hb : m.body = .fe op d) (hr : op.ready (s.isFull m.loc) = false) (hf : s.fenced m.loc = false)
    (hroom : s.listRoom m.home = true) :
    s.feArrive m = State.modIssuer { s with waiters := s.waiters ++ [⟨m, false⟩] } m (fun x => { x with status := .parked .fullEmpty }) := by
  have hlist : s.feArrive m = s.listWaiter m .fullEmpty := by
    unfold State.feArrive
    rw [hb]
    exact if_neg (by cases op <;> simp_all [FeOp.ready])
  rw [hlist, State.listWaiter, hroom]
  rfl

/-- A waiter that its home had no room for arrives again once its word may be read (R185, R419). -/
theorem exec_waiterRetryBackoff_fe {j : Nat} {op : FeOp} {d : Word} (hb : m.body = .fe op d) (hw : t.waiters[j]? = some ⟨m, true⟩) :
    (t.stalled m = true → exec (.waiterRetryBackoff j) t = .next t) ∧
    (t.stalled m = false → (∀ h ∈ m.homes, t.awakeAt h = true) → (∀ i, i < 8 → Tbl.find t.errs (poisonWord (m.loc + i)) = none) →
      exec (.waiterRetryBackoff j) t = .next (State.feArrive { t with waiters := dropAt t.waiters j } m)) := by
  have he : exec (.waiterRetryBackoff j) t = execWaiterRetryBackoff j t := rfl
  rw [execWaiterRetryBackoff, hw] at he
  refine ⟨fun hs => ?_, fun hs hawake hclean => ?_⟩
  · rw [he]
    dsimp only
    rw [hs]
    rfl
  · have harr : State.waiterArrives { t with waiters := dropAt t.waiters j } m = State.feArrive { t with waiters := dropAt t.waiters j } m := by
      unfold State.waiterArrives
      rw [wakeHomes_of_awake (s := { t with waiters := dropAt t.waiters j }) hawake, hb]
      exact congrArg (State.feArrive · m) (meet_of_clean (s := { t with waiters := dropAt t.waiters j }) hclean)
    rw [he]
    dsimp only
    rw [hs, harr]
    rfl

/-! The forms at the strand (R184). -/

theorem feAccess_traps {kd : Acc} {a : Word} (k : Place → State → Out) (h : bitsOf a 60 4 = 8 ∨ bitsOf a 60 4 = 9) : feAccess kd a s k = trap .feSpace a s :=
  if_pos (by simpa using h)

theorem feAccess_of_admits {kd : Acc} {a : Word} {q : Place} (k : Place → State → Out) (h8 : bitsOf a 60 4 ≠ 8) (h9 : bitsOf a 60 4 ≠ 9)
    (hadm : Admits kd a 8 8 (fun _ => true) s q t) : feAccess kd a s k = k q t :=
  (if_neg (by simp [h8, h9])).trans (hadm .byte k)

/-- What an `ldfe` form does at its place. -/
def ldfeTo (op : FeOp) (d : Nat) (q : Place) (s : State) : Out :=
  if s.parkedOverlap q.named 8 then holdOn q.named s
  else if !s.requestRoom 1 || s.crosses true (homeOf q.loc) q.loc 8 then hold s
  else awaitReply d (s.post 1 0 q.named q.loc 8 (homeOf q.loc) (.fe op 0))

theorem ldfe_of_gives {op : FeOp} {o : FmtFe} {a : Word} (h : s.Starts i) (hd : dstOk o.d = true) (hacq : s.acquirePending = false)
    (hacc : s.accepts o.d = true) (ha : s.Gives o.a o.x a u) : ldfe o op s = feAccess .load (baseOff a o.o 8) u (ldfeTo op o.d.toNat) := by
  rw [ldfe, ha.1, hd, Bool.and_self, plain_of_starts h, ordered_of_free _ hacq, withDst_of_accepts _ _ hacc, readSrc_of_gives (by rw [h.begins.reads_eq]; rfl) ha]
  rfl

theorem ldfe_cases {op : FeOp} {o : FmtFe} {a : Word} {q : Place} (he : exec i s = ldfe o op s) (h : s.Starts i) (hd : dstOk o.d = true)
    (hacq : s.acquirePending = false) (hacc : s.accepts o.d = true) (ha : s.Gives o.a o.x a u) :
    let ea := baseOff a o.o 8
    ((bitsOf ea 60 4 = 8 ∨ bitsOf ea 60 4 = 9) → Traps i s u 10 ea) ∧
    (bitsOf ea 60 4 ≠ 8 → bitsOf ea 60 4 ≠ 9 → Admits .load ea 8 8 (fun _ => true) u q t → t.requestRoom 1 = true → t.parkedOverlap q.named 8 = false →
      t.crosses true (homeOf q.loc) q.loc 8 = false → Awaits i s (t.post 1 0 q.named q.loc 8 (homeOf q.loc) (.fe op 0)) o.d.toNat) := by
  rw [ldfe_of_gives h hd hacq hacc ha] at he
  refine ⟨fun hs => ?_, fun h8 h9 hadm hroom ho hc => ?_⟩
  · rw [Traps, he, feAccess_traps _ hs, trap, (KeepsStrand.gives ha h.begins.slot_lt).pc]
    rfl
  · rw [Awaits, he, feAccess_of_admits _ h8 h9 hadm, ldfeTo, ho, hroom, hc]
    rfl

/-- What an `stfe` form does at its place. -/
def stfeTo (op : FeOp) (d : Word) (q : Place) (s : State) : Out :=
  releasing 2 s (fun s =>
    if s.crosses false (homeOf q.loc) q.loc 8 then hold s
    else sendWrite q 1 0 8 (.fe op d) s (if op = .fill then awaitReply 56 else complete))

theorem stfe_of_gives {op : FeOp} {o : FmtFe} {a d : Word} (h : s.Starts i) (hz : op = .empty → o.d.toNat = 56) (hacq : s.acquirePending = false)
    (ha : s.Gives o.a o.x a u) (hd : u.Gives o.d false d v) : stfe o op s = feAccess .store (baseOff a o.o 8) v (stfeTo op d) := by
  have hcode : (decide (op ≠ .empty) || decide (o.d.toNat = 56)) = true := by
    by_cases hop : op = .empty
    · simp [hz hop]
    · simp [hop]
  rw [stfe, ha.1, hd.1, hcode, Bool.and_self, Bool.and_self, plain_of_starts h, ordered_of_free _ hacq, readSrc_of_gives (by rw [h.begins.reads_eq]; rfl) ha,
    readSrc_of_gives (length_reads_of_first h.begins ha) hd]
  rfl

theorem stfe_cases {op : FeOp} {o : FmtFe} {a d : Word} {q : Place} (he : exec i s = stfe o op s) (h : s.Starts i) (hz : op = .empty → o.d.toNat = 56)
    (hacq : s.acquirePending = false) (ha : s.Gives o.a o.x a u) (hd : u.Gives o.d false d v) :
    let ea := baseOff a o.o 8
    ((bitsOf ea 60 4 = 8 ∨ bitsOf ea 60 4 = 9) → Traps i s v 10 ea) ∧
    (bitsOf ea 60 4 ≠ 8 → bitsOf ea 60 4 ≠ 9 → Admits .store ea 8 8 (fun _ => true) v q t → t.releaseOk 2 = true →
      t.crosses false (homeOf q.loc) q.loc 8 = false → t.Sends q →
      let w := t.post 1 0 q.named q.loc 8 (homeOf q.loc) (.fe op d)
      if op = .fill then Awaits i s w 56 else Completes i s w) := by
  have hk := KeepsStrand.givesTwo h.begins ha hd
  rw [stfe_of_gives h hz hacq ha hd] at he
  refine ⟨fun hs => ?_, fun h8 h9 hadm hrel hc hsends => ?_⟩
  · rw [Traps, he, feAccess_traps _ hs, trap, hk.pc]
    rfl
  · have hsent : exec i s = (if op = .fill then awaitReply 56 else complete) (t.post 1 0 q.named q.loc 8 (homeOf q.loc) (.fe op d)) := by
      rw [he, feAccess_of_admits _ h8 h9 hadm, stfeTo, releasing_ok hrel, hc, if_neg Bool.false_ne_true, sendWrite_of_sends _ hsends]
      rfl
    dsimp only
    split
    · next hop =>
      rw [if_pos hop] at hsent
      exact hsent
    · next hop =>
      rw [if_neg hop] at hsent
      exact completes_of_exec hsent (cur_of_keepsStrand h.begins (hk.trans hadm.keepsStrand).post)

/-- Settles O28: the forms at the strand, what a home does with each, and a waiter that comes again. -/
theorem fullEmptyFormsComplete : Obligations.FullEmptyFormsComplete := by
  refine ⟨⟨fun p hp o s u t a q h hd hacq hacc ha => ?_, fun p hp o s u v t a d q h hz hacq ha hd => ?_⟩, fun k s m op d h hb hf hp hl => ?_⟩
  · have he : exec (p.1 o) s = ldfe o p.2 s := by
      fin_cases hp <;> rfl
    exact ldfe_cases he h hd hacq hacc ha
  · have he : exec (p.1 o) s = stfe o p.2 s := by
      fin_cases hp <;> rfl
    exact stfe_cases he h hz hacq ha hd
  · rw [exec_feOpAtHome_of_arrives h hb]
    refine ⟨?_, ?_, ?_, ?_, ?_, ?_, ?_, fun j t hw => exec_waiterRetryBackoff_fe hb hw⟩
    · rintro rfl
      exact congrArg _ (feArrive_of_ready (s := s.dropMsg k) hb rfl hl (serveFe_state hf hp hb) (.answer (.refl _)))
    · rintro rfl hfull
      exact congrArg _ (feArrive_of_ready (s := s.dropMsg k) hb hfull hl (serveFe_leave hf hp hb) (.answer (.refl _)))
    · rintro rfl hfull
      exact congrArg _ (feArrive_of_ready (s := s.dropMsg k) hb hfull hl (serveFe_take hf hp hb) (.answer (.setFull (.refl _))))
    · rintro rfl hempty
      exact congrArg _ (feArrive_of_ready (s := s.dropMsg k) hb (congrArg (!·) hempty) hl (serveFe_fill hf hb) (.answer .filled))
    · rintro rfl
      exact congrArg _ (feArrive_of_ready (s := s.dropMsg k) hb rfl hl (serveFe_force hf hb) (.answer .filled))
    · rintro rfl
      exact congrArg _ (feArrive_of_ready (s := s.dropMsg k) hb rfl hl (serveFe_empty hf hb) (.answer (.setFull (.refl _))))
    · intro hno hroom
      have hready : op.ready (s.isFull m.loc) = false := by
        rcases hno with ⟨rfl | rfl, hfull⟩ | ⟨rfl, hfull⟩
        · exact hfull
        · exact hfull
        · rw [FeOp.ready, hfull]
          rfl
      exact congrArg _ (feArrive_of_not_ready (s := s.dropMsg k) hb hready hf hroom)

end Sys2Proof.Machine
end

/-! What homes do with reads, writes and atomics (O32). -/
section
namespace Sys2Proof.Machine

variable {s s0 t u v w : State} {i : Instr} {m : Msg}

/-! Telling the waiters of a word (R207): the words that are waited for hold neither poison nor errors. -/

/-- From s to t some waiters have been answered, and nothing else has happened. -/
def OnlyTold (s t : State) : Prop := ∃ as ws, t = { s with acks := s.acks ++ as, waiters := ws } ∧ ∀ w ∈ ws, w ∈ s.waiters

namespace OnlyTold

theorem refl (s : State) : OnlyTold s s := ⟨[], s.waiters, by rw [List.append_nil], fun _ h => h⟩

theorem trans (h : OnlyTold s t) (h' : OnlyTold t u) : OnlyTold s u := by
  obtain ⟨as, ws, rfl, hws⟩ := h
  obtain ⟨bs, vs, rfl, hvs⟩ := h'
  exact ⟨as ++ bs, vs, by rw [List.append_assoc], fun w hw => hws w (hvs w hw)⟩

theorem answer (b : AckBody) : OnlyTold s (s.answer m b) := ⟨_, _, rfl, fun _ h => h⟩

theorem replyLoad (x : Word) : OnlyTold s (s.replyLoad m false x) := answer _

theorem foldl {α : Type} {f : State → α → State} : ∀ {l : List α} {s : State}, (∀ {t a}, a ∈ l → OnlyTold s t → OnlyTold t (f t a)) → OnlyTold s (l.foldl f s)
  | [], s, _ => refl s
  | a :: l, s, hf => by
    have ha := hf List.mem_cons_self (refl s)
    exact ha.trans (foldl (fun hx ht => hf (List.mem_cons_of_mem _ hx) (ha.trans ht)))

theorem mem (h : OnlyTold s t) : t.mem = s.mem := by obtain ⟨as, ws, rfl, -⟩ := h; rfl
theorem full (h : OnlyTold s t) : t.full = s.full := by obtain ⟨as, ws, rfl, -⟩ := h; rfl
theorem cores (h : OnlyTold s t) : t.cores = s.cores := by obtain ⟨as, ws, rfl, -⟩ := h; rfl
theorem net (h : OnlyTold s t) : t.net = s.net := by obtain ⟨as, ws, rfl, -⟩ := h; rfl
theorem byte (h : OnlyTold s t) (l : Nat) : t.byte l = s.byte l := by obtain ⟨as, ws, rfl, -⟩ := h; rfl
theorem isFull (h : OnlyTold s t) (l : Nat) : t.isFull l = s.isFull l := by obtain ⟨as, ws, rfl, -⟩ := h; rfl
theorem anyDead (h : OnlyTold s t) (l n : Nat) : t.anyDead l n = s.anyDead l n := by obtain ⟨as, ws, rfl, -⟩ := h; rfl
theorem errs (h : OnlyTold s t) : t.errs = s.errs := by obtain ⟨as, ws, rfl, -⟩ := h; rfl

end OnlyTold

/-- No word that a listed operation waits for holds poison or an error, or is fenced. -/
def State.Sound (s : State) : Prop :=
  ∀ w ∈ s.waiters, s.anyDead w.msg.loc 8 = false ∧ ∀ i, i < 8 → Tbl.find s.errs (poisonWord (w.msg.loc + i)) = none

/-- The waiters of a sound word whose bound is met are answered. -/
theorem settleSignals_told {l : Nat} (hd : s.anyDead l 8 = false) (he : ∀ i, i < 8 → Tbl.find s.errs (poisonWord (l + i)) = none) :
    OnlyTold s (s.settleSignals l) := by
  unfold State.settleSignals
  rw [meet_of_clean he]
  dsimp only
  rw [hd]
  exact (OnlyTold.foldl (fun _ _ => .replyLoad _)).trans ⟨[], _, by rw [List.append_nil], fun w hw => (List.mem_filter.1 hw).1⟩

/-- When the words that are waited for are sound, a change of memory answers waiters and does nothing else. -/
theorem changed_told {l n : Nat} (h : s.Sound) : OnlyTold s (s.changed l n) := by
  refine OnlyTold.foldl (fun {t a} ha ht => ?_)
  obtain ⟨hd, he⟩ := h a (List.mem_filter.1 ha).1
  exact settleSignals_told (by rw [ht.anyDead, hd]) (fun i hi => by rw [ht.errs, he i hi])

/-! Writing bytes. -/

theorem State.Sound.setBytes {l : Nat} {bs : List Byte} (h : s.Sound) : (s.setBytes l bs).Sound := by
  rw [setBytes_eq]
  exact h

theorem dead_clearPoison {l n a : Nat} (h : s.dead a = false) : (s.clearPoison l n).dead a = false := by
  obtain ⟨hp, hf⟩ := Bool.or_eq_false_iff.1 h
  refine Bool.or_eq_false_iff.2 ⟨?_, hf⟩
  rw [State.poisoned, Option.isSome_eq_false_iff, Option.isNone_iff_eq_none] at hp ⊢
  exact find_filter_of_none _ hp

theorem State.Sound.clearPoison {l n : Nat} (h : s.Sound) : (s.clearPoison l n).Sound := by
  intro w hw
  obtain ⟨hd, he⟩ := h w hw
  refine ⟨List.any_eq_false.2 (fun i hi => ?_), fun i hi => find_filter_of_none _ (he i hi)⟩
  rw [dead_clearPoison (Bool.eq_false_iff.2 (List.any_eq_false.1 hd i hi))]
  exact Bool.false_ne_true

theorem length_toBytes (n v : Nat) : (toBytes n v).length = n := by
  induction n generalizing v with
  | zero => rfl
  | succ n ih => rw [toBytes, List.length_cons, ih]

/-! Messages that their home takes now (R275). -/

theorem exec_homeAccess_barred {h : HomeSel} (he : h.engine = false) (hm : s.net[h.k]? = some m) (hb : s.barred h.k m = true) :
    exec (.homeAccess h) s = .next s := by
  change execHomeAccess h s = _
  unfold execHomeAccess
  rw [he, hm]
  dsimp only
  rw [hb, Bool.or_true]
  rfl

/-- Whether a message is a plain access, which `HOME_ACCESS` performs. -/
def Body.plainAccess : Body → Bool
  | .load _ | .store _ | .bits .. | .atomic .. | .claim .. | .swait _ | .commit .. => true
  | _ => false

theorem exec_homeAccess_of_arrives {h : HomeSel} (he : h.engine = false) (hecc : h.ecc = ⟨false, false⟩) (ha : s.Arrives h.k m)
    (hb : m.body.plainAccess = true) : exec (.homeAccess h) s = .next ((s.dropMsg h.k).perform m ⟨false, false⟩) := by
  have happly := applyMsg_of_arrives ha ⟨false, false⟩
  obtain ⟨hnet, hbar, -, -, -, -, -, -, hawake⟩ := ha
  have hnot : ¬ (!m.body.plainAccess || s.barred h.k m) = true := by rw [hb, hbar]; exact Bool.false_ne_true
  change execHomeAccess h s = _
  unfold execHomeAccess
  rw [he, hnet]
  refine (if_neg Bool.false_ne_true).trans ((if_neg hnot).trans ?_)
  rw [wakeHomes_of_awake hawake, hecc, happly]

/-! Reads (R169, R178). -/

theorem cutOff_of_onDevice {l : Nat} (h : offDevice l = false) : s.cutOff l = false := by
  simp only [offDevice, Bool.or_eq_false_iff, decide_eq_false_iff_not] at h
  rw [State.cutOff, decide_eq_false h.2, Bool.false_and]

theorem readByteAs_base {die sag va l : Nat} (hoff : offDevice l = false) (hd : s.dead l = false) : s.readByteAs die sag 0 va l = (s.byte l, false) := by
  unfold State.readByteAs
  simp [hd, State.dieByte, cutOff_of_onDevice hoff, hoff]

/-- A read of base memory gives its bytes, and meets no poison. -/
theorem readHome_base (hctx : m.ctx = 0) (hloc : ∀ i, i < m.size → offDevice (m.loc + i) = false ∧ s.dead (m.loc + i) = false) :
    s.readHome m = (ofBytes (s.bytes m.loc m.size), none) := by
  have hbyte : ∀ i ∈ List.range m.size, s.readByteAs m.die m.sag m.ctx (m.va + i) (m.loc + i) = (s.byte (m.loc + i), false) := fun i hi => by
    obtain ⟨hoff, hd⟩ := hloc i (List.mem_range.1 hi)
    rw [hctx]
    exact readByteAs_base hoff hd
  unfold State.readHome State.readAs
  rw [List.map_congr_left (fun i hi => congrArg Prod.fst (hbyte i hi)), List.find?_eq_none.2 (fun i hi => by rw [hbyte i hi]; exact Bool.false_ne_true)]
  rfl

/-- The load of a message and those of its twins are answered with value x. -/
def State.answerTwins (s : State) (m : Msg) (x : Word) : State :=
  (m :: s.net.filter m.twin).foldl (fun (t : State) y => (t.countStray y.sag y.ctx).answerLoad y x none) { s with net := s.net.filter (fun y => !m.twin y) }

theorem perform_load {dst : LoadDst} (hb : m.body = .load dst) (hctx : m.ctx = 0) (hclean : ∀ i, i < m.size → Tbl.find s.errs (poisonWord (m.loc + i)) = none)
    (hloc : ∀ i, i < m.size → offDevice (m.loc + i) = false ∧ s.dead (m.loc + i) = false) :
    s.perform m ⟨false, false⟩ = s.answerTwins m (word (ofBytes (s.bytes m.loc m.size))) := by
  unfold State.perform
  simp only [hb]
  rw [strike_of_clean hclean, readHome_base hctx hloc]
  rfl

theorem countStray_eq (g n : Nat) : s.countStray g n = { s with saggars := (s.countStray g n).saggars } := by
  unfold State.countStray
  split_ifs
  · exact State.modSag_eq ..
  · rfl

/-- Answering a load tells its strand, and may count a stray access. -/
theorem answerLoad_countStray (y : Msg) (x : Word) : ∃ as, (s.countStray y.sag y.ctx).answerLoad y x none =
    { s with acks := s.acks ++ as, saggars := (s.countStray y.sag y.ctx).saggars } ∧
    ∀ d, y.body = .load d → (⟨y.id, y.core, y.slot, y.uid, .data d x none, true⟩ : Ack) ∈ as := by
  rw [countStray_eq]
  unfold State.answerLoad
  split
  · next d hd =>
    refine ⟨_, rfl, fun d' hd' => ?_⟩
    obtain rfl : d = d' := by
      rw [hd] at hd'
      cases hd'
      rfl
    rw [hd]
    exact List.mem_singleton_self _
  · next hno => exact ⟨[], by rw [List.append_nil], fun d hd => absurd hd (hno d)⟩

/-- What answering loads leaves in memory and in flight, and which answers there are. -/
theorem answerLoads_frame (x : Word) : ∀ (l : List Msg) (s : State), ∃ as sg,
    l.foldl (fun (t : State) y => (t.countStray y.sag y.ctx).answerLoad y x none) s = { s with acks := s.acks ++ as, saggars := sg } ∧
    ∀ y ∈ l, ∀ d, y.body = .load d → (⟨y.id, y.core, y.slot, y.uid, .data d x none, true⟩ : Ack) ∈ as
  | [], s => ⟨[], s.saggars, by rw [List.append_nil]; rfl, fun _ h => absurd h List.not_mem_nil⟩
  | y :: l, s => by
    obtain ⟨as, he, hy⟩ := answerLoad_countStray (s := s) y x
    obtain ⟨bs, sg, hl, hall⟩ := answerLoads_frame x l { s with acks := s.acks ++ as, saggars := (s.countStray y.sag y.ctx).saggars }
    refine ⟨as ++ bs, sg, ?_, fun z hz d hd => ?_⟩
    · rw [List.foldl_cons, he, hl, List.append_assoc]
    · rcases List.mem_cons.1 hz with rfl | hz
      · exact List.mem_append_left _ (hy d hd)
      · exact List.mem_append_right _ (hall z hz d hd)

/-- A load without twins is answered, and nothing else happens. -/
theorem answerTwins_of_single {dst : LoadDst} {x : Word} (hb : m.body = .load dst) (hctx : m.ctx = 0) (h : ∀ y ∈ s.net, m.twin y = false) :
    s.answerTwins m x = s.answer m (.data dst x none) := by
  have hsame : s.net.filter (fun y => !m.twin y) = s.net := List.filter_eq_self.2 (fun y hy => by rw [h y hy]; rfl)
  have hnone : s.net.filter m.twin = [] := List.filter_eq_nil_iff.2 (fun y hy => by rw [h y hy]; exact Bool.false_ne_true)
  unfold State.answerTwins
  rw [hsame, hnone, List.foldl_cons, List.foldl_nil, hctx, State.answerLoad, hb]
  rfl

/-- The answers that the twins of a load get, and what is still in flight then. -/
theorem answerTwins_frame (x : Word) : ∃ as sg, s.answerTwins m x = { s with net := s.net.filter (fun y => !m.twin y), acks := s.acks ++ as, saggars := sg } ∧
    ∀ y ∈ s.net, m.twin y = true → ∀ d, y.body = .load d → (⟨y.id, y.core, y.slot, y.uid, .data d x none, true⟩ : Ack) ∈ as := by
  obtain ⟨as, sg, he, hall⟩ := answerLoads_frame x (m :: s.net.filter m.twin) { s with net := s.net.filter (fun y => !m.twin y) }
  exact ⟨as, sg, he, fun y hy ht => hall y (List.mem_cons_of_mem _ (List.mem_filter.2 ⟨hy, ht⟩))⟩

/-! Writes and atomics (R186, R187, R292). -/

/-- What a home that has put bytes at a location leaves of memory and of the cores. -/
structure Written (s : State) (l : Nat) (bs : List Byte) (t : State) : Prop where
  inside : ∀ i, i < bs.length → t.byte (l + i) = bs.getD i 0
  outside : ∀ a, a < l ∨ l + bs.length ≤ a → t.byte a = s.byte a
  full : ∀ a, t.isFull a = s.isFull a
  cores : t.cores = s.cores
  net : t.net = s.net

theorem Written.of_setBytes {l : Nat} {bs : List Byte} (h : s.Canonical) : Written s l bs (s.setBytes l bs) := by
  refine ⟨byte_setBytes_same l bs h, fun a ha => byte_setBytes_other l a bs ha, ?_, ?_, ?_⟩
  · intro a
    rw [setBytes_eq]
    rfl
  · rw [setBytes_eq]
  · rw [setBytes_eq]

theorem Written.told {l : Nat} {bs : List Byte} (h : Written s l bs t) (ht : OnlyTold t u) : Written s l bs u where
  inside i hi := (ht.byte _).trans (h.inside i hi)
  outside a ha := (ht.byte _).trans (h.outside a ha)
  full a := (ht.isFull a).trans (h.full a)
  cores := ht.cores.trans h.cores
  net := ht.net.trans h.net

theorem Written.clearPoison {l a n : Nat} {bs : List Byte} (h : Written s l bs t) : Written s l bs (t.clearPoison a n) := ⟨h.inside, h.outside, h.full, h.cores, h.net⟩

/-- A home puts a store's bytes at its place and answers. -/
theorem perform_store {bs : List Byte} (hb : m.body = .store bs) (hctx : m.ctx = 0) (hoff : offDevice m.loc = false) (hf : s.fenced m.loc = false)
    (hs : s.Sound) (hcanon : s.Canonical) : ∃ t, s.perform m ⟨false, false⟩ = t.answer m .store ∧ Written s m.loc bs t := by
  have happly : s.applyStore m.die m.core m.slot m.uid m.sag m.ctx m.va m.loc bs = (s.setBytes m.loc bs).clearPoison m.loc bs.length := by
    unfold State.applyStore
    rw [if_neg (not_not.2 hctx), if_neg (ne_true_of_eq_false hf), if_neg (ne_true_of_eq_false hoff)]
  refine ⟨((s.setBytes m.loc bs).clearPoison m.loc bs.length).changed m.loc m.size, ?_,
    (Written.clearPoison (.of_setBytes hcanon)).told (changed_told (.clearPoison (.setBytes hs)))⟩
  unfold State.perform
  rw [hb]
  dsimp only
  rw [happly]

/-- A home replaces the old value of an atomic's place by the new one, and answers with the old value where it is asked for. -/
theorem perform_atomic {op : AOp} {b c : Word} {ret : Bool} (hb : m.body = .atomic op b c ret) (hf : s.fenced m.loc = false)
    (hclean : ∀ i, i < m.size → Tbl.find s.errs (poisonWord (m.loc + i)) = none) (hp : s.anyPoison m.loc m.size = false) (hs : s.Sound) (hcanon : s.Canonical) :
    let old := word (ofBytes (s.bytes m.loc m.size))
    ∃ t, s.perform m ⟨false, false⟩ = t.answer m (if ret then .reply ⟨old, [], 0⟩ else .update) ∧ Written s m.loc (toBytes m.size (op.new old b c)) t := by
  intro old
  refine ⟨_, ?_, (Written.of_setBytes hcanon).told (changed_told (l := m.loc) (n := m.size) (.setBytes hs))⟩
  unfold State.perform
  simp only [hb]
  rw [strike_of_clean hclean, State.atomicApply, if_neg (ne_true_of_eq_false hf), if_neg (ne_true_of_eq_false hp)]
  cases ret with
  | false => rfl
  | true => rfl

theorem size_pos (op : AOp) : 0 < op.size := by cases op <;> decide

theorem anyPoison_of_sound {l n : Nat} (h : ∀ i, i < n → s.dead (l + i) = false) : s.anyPoison l n = false :=
  List.any_eq_false.2 (fun i hi => by rw [(Bool.or_eq_false_iff.1 (h i (List.mem_range.1 hi))).1]; exact Bool.false_ne_true)

/-! The new values of atomics (R186). -/

theorem slt_eq_false_iff {x y : Word} : x.slt y = false ↔ y.toInt ≤ x.toInt := by
  rw [BitVec.slt, decide_eq_false_iff_not, Int.not_lt]

theorem new_cas (a b c : Word) : AOp.new .cas a b c = (if a = c then b else a).toNat := by
  rw [AOp.new]
  split
  · rfl
  · rfl

theorem new_max (a b c : Word) (h : b.toInt ≤ a.toInt) : AOp.new .max a b c = a.toNat := by
  rw [AOp.new, slt_eq_false_iff.2 h, if_neg Bool.false_ne_true]

theorem new_min (a b c : Word) (h : a.toInt ≤ b.toInt) : AOp.new .min a b c = a.toNat := by
  rw [AOp.new, slt_eq_false_iff.2 h, if_neg Bool.false_ne_true]

/-- The larger of two signed numbers, the operand being it. -/
theorem new_max_operand (a b c : Word) (h : a.toInt ≤ b.toInt) : AOp.new .max a b c = b.toNat := by
  obtain h | h := Int.lt_or_eq_of_le h
  · have hs : a.slt b = true := decide_eq_true h
    rw [AOp.new, hs, if_pos rfl]
  · rw [new_max a b c h.ge, BitVec.eq_of_toInt_eq h]

/-- The smaller of two signed numbers, the operand being it. -/
theorem new_min_operand (a b c : Word) (h : b.toInt ≤ a.toInt) : AOp.new .min a b c = b.toNat := by
  obtain h | h := Int.lt_or_eq_of_le h
  · have hs : b.slt a = true := decide_eq_true h
    rw [AOp.new, hs, if_pos rfl]
  · rw [new_min a b c h.ge, BitVec.eq_of_toInt_eq h]

/-- Settles O32: a home answers reads with what memory holds, puts writes at their place and makes an atomic one step. -/
theorem homesApplyAccesses : Obligations.HomesApplyAccesses := by
  refine ⟨fun h s m he hm hb => exec_homeAccess_barred he hm hb, fun h s m he hecc ha hctx hoff hloc hs => ?_, fun a b c => ?_⟩
  · have hexec := exec_homeAccess_of_arrives he hecc ha
    have hclean : ∀ i, i < m.size → Tbl.find s.errs (poisonWord (m.loc + i)) = none := by
      obtain ⟨-, -, -, -, -, -, -, hclean, -⟩ := ha
      exact hclean
    refine ⟨fun dst hb hno => ?_, fun dst hb => ?_, fun bs hb hlen hpos hcanon => ?_, fun op b c ret hb hsize hcanon => ?_⟩
    · rw [hexec (by rw [hb]; rfl), perform_load (s := s.dropMsg h.k) hb hctx hclean hloc, answerTwins_of_single hb hctx hno]
      rfl
    · obtain ⟨as, sg, hans, hall⟩ := answerTwins_frame (s := s.dropMsg h.k) (m := m) (word (ofBytes (s.bytes m.loc m.size)))
      refine ⟨_, (hexec (by rw [hb]; rfl)).trans (congrArg _ ((perform_load (s := s.dropMsg h.k) hb hctx hclean hloc).trans hans)), rfl, fun x hx htwin => ⟨fun hin => ?_,
        fun d hd => List.mem_append_right _ (hall x hx htwin d hd)⟩⟩
      have hno := (List.mem_filter.1 hin).2
      rw [htwin] at hno
      exact Bool.false_ne_true hno
    · obtain ⟨-, hdead⟩ := hloc 0 hpos
      obtain ⟨t, ht, hw⟩ := perform_store (s := s.dropMsg h.k) hb hctx hoff (Bool.or_eq_false_iff.1 hdead).2 hs hcanon
      refine ⟨t.answer m .store, (hexec (by rw [hb]; rfl)).trans (congrArg _ ht), ?_, ?_, hw.full, hw.cores, ?_, hw.net⟩
      · rw [← hlen]
        exact hw.inside
      · rw [← hlen]
        exact hw.outside
      · refine List.mem_append_right _ ?_
        rw [hb]
        exact List.mem_singleton_self _
    · obtain ⟨-, hdead⟩ := hloc 0 (hsize ▸ size_pos op)
      obtain ⟨t, ht, hw⟩ := perform_atomic (s := s.dropMsg h.k) hb (Bool.or_eq_false_iff.1 hdead).2 hclean (anyPoison_of_sound (fun i hi => (hloc i hi).2)) hs hcanon
      have hlen := length_toBytes m.size (op.new (word (ofBytes (s.bytes m.loc m.size))) b c)
      refine ⟨_, (hexec (by rw [hb]; rfl)).trans (congrArg _ ht), fun i hi => hw.inside i (hlen.symm ▸ hi), fun l hl => hw.outside l (hlen.symm ▸ hl), hw.full, hw.cores, ?_⟩
      refine List.mem_append_right _ ?_
      rw [hb]
      exact List.mem_singleton_self _
  · exact ⟨rfl, new_cas a b c, rfl, rfl, rfl, rfl, fun h => ⟨new_max a b c h, new_min_operand a b c h⟩, fun h => ⟨new_max_operand a b c h, new_min a b c h⟩,
      fun h => ⟨Nat.max_eq_left h, Nat.min_eq_right h⟩, fun h => ⟨Nat.max_eq_right h, Nat.min_eq_left h⟩⟩

end Sys2Proof.Machine
end

/-! The checks of an access (O31). -/
section
namespace Sys2Proof.Machine

variable {s t : State} {y : Way} {kd : Acc} {a : Word} {n al loc : Nat} {pre : Addr → Bool} {ad : Addr} {g : Saggar}

/-! Resolving an address, and the first checks (R173, R174). -/

/-- An address of no known kind names nothing. -/
theorem resolve_of_kind {cl sag : Nat} (h : bitsOf a 60 4 ∉ [0, 8, 9]) : resolve s cl sag a n = none := by
  simp only [List.mem_cons, List.not_mem_nil, or_false, not_or] at h
  obtain ⟨h0, h8, h9⟩ := h
  unfold resolve
  simp only [if_neg h0, h8, h9, decide_false, Bool.or_self, Bool.false_eq_true, if_false]

/-- A mesh-local address leads to its own location at once. -/
theorem leads_of_local (h : (∃ c off, ad = .scratch c off ∧ loc = scratchLoc c off) ∨ (∃ cl off, ad = .slice cl off ∧ loc = sliceLoc cl off)) :
    Leads kd n s ad loc none s := by
  rcases h with ⟨c, off, rfl, rfl⟩ | ⟨cl, off, rfl, rfl⟩
  · exact ⟨rfl, rfl, rfl⟩
  · exact ⟨rfl, rfl, rfl⟩

/-- An aligned access in scope to bytes of which one is locked traps at that byte (R283). -/
theorem access_locked {j : Nat} (k : Place → State → Out) (hr : resolve s s.myCluster s.me.sag a n = some ad) (ha : a.toNat % al = 0) (hp : pre ad = true)
    (hl : Leads kd n s ad loc none s) (hq : s.rangeLocked kd ad.named n = some j) : access kd a n al pre s k = trap .rangeLocked (a + word j) s := by
  rw [access, accessBy_resolved hr, if_neg (not_not.2 ha), if_neg (by rw [hp]; exact Bool.false_ne_true), goTo_of_leads hl, arrive, hq]
  rfl

/-! Translation in the heap window, and outside it (R385, R391, R393, R424). -/

section window

variable {i : Issuer} {va : Nat}

/-- How far an address lies above an issuer's HEAPB, its window's length, and the physical address that HEAPO gives it. -/
def Issuer.heapOff (i : Issuer) (va : Nat) : Nat := (va + 2 ^ 64 - bitsOf i.heapb 16 41 * 65536) % 2 ^ 64
def Issuer.heapLen (i : Issuer) : Nat := bitsOf i.heapl 16 41 * 65536
def Issuer.heapPa (i : Issuer) (va : Nat) : Nat := bitsOf i.heapo 16 40 * 65536 + i.heapOff va

/-- The key that an issuer's heap is under. -/
def Issuer.heapKey (i : Issuer) : Nat := bitsOf i.heapo 56 8

/-- What keeps an address of the window from being translated. -/
def Issuer.heapBars (s : State) (g : Saggar) (i : Issuer) (kd : Acc) (va n : Nat) : Bool :=
  decide (kd = .fetch) || !(decide (g.cfg.grantBase ≤ i.heapPa va) && decide (i.heapPa va + n ≤ g.cfg.grantBase + g.cfg.grantLen)) ||
    (Tbl.find s.keys i.heapKey).isNone || s.noAccess (i.heapPa va)

theorem heapBars_iff : i.heapBars s g kd va n = true ↔ kd = .fetch ∨ ¬(g.cfg.grantBase ≤ i.heapPa va ∧ i.heapPa va + n ≤ g.cfg.grantBase + g.cfg.grantLen) ∨
    Tbl.find s.keys i.heapKey = none ∨ s.noAccess (i.heapPa va) = true := by
  simp only [Issuer.heapBars, Bool.or_eq_true, decide_eq_true_eq, Bool.not_eq_true', Bool.and_eq_false_iff, decide_eq_false_iff_not, not_and_or,
    Option.isNone_iff_eq_none, or_assoc]

theorem translate_window (hg : s.sagAt i.sag = some g) (hw : i.heapOff va < i.heapLen) :
    translate s i kd va n = if i.heapBars s g kd va n then (.permission, s) else (.ok (i.heapPa va), s.underKey kd (i.heapPa va) n i.heapKey) := by
  unfold translate
  dsimp only
  rw [hg]
  exact if_pos hw

/-- Whether byte j of an access is under a lease that allows it. -/
def leased (kd : Acc) (ls : List Lease) (va j : Nat) : Bool :=
  ls.any (fun l => decide (l.base ≤ va + j) && decide (va + j < l.base + l.len) && (!kd.writes || l.rw))

theorem leased_iff {ls : List Lease} {j : Nat} :
    leased kd ls va j = true ↔ ∃ l ∈ ls, l.base ≤ va + j ∧ va + j < l.base + l.len ∧ (kd.writes = true → l.rw = true) := by
  simp only [leased, List.any_eq_true, Bool.and_eq_true, decide_eq_true_eq, Bool.or_eq_true, Bool.not_eq_true', and_assoc]
  refine exists_congr fun l => and_congr_right fun _ => and_congr_right fun _ => and_congr_right fun _ => ?_
  cases kd.writes <;> simp

/-- Outside the window the first byte without a lease is reported. -/
theorem translate_unleased {ls : List Lease} {j : Nat} (hw : i.heapLen ≤ i.heapOff va) (hls : i.leases = some ls) (hj : j < n) (hno : leased kd ls va j = false)
    (hbefore : ∀ j', j' < j → leased kd ls va j' = true) : translate s i kd va n = (.lease (va + j), s) := by
  have hfind : (List.range n).find? (fun j => !leased kd ls va j) = some j := by
    rw [List.find?_range_eq_some]
    exact ⟨by rw [hno]; rfl, List.mem_range.2 hj, fun j' hj' => by rw [hbefore j' hj']; rfl⟩
  unfold translate
  dsimp only
  rw [hls]
  refine (if_neg (Nat.not_lt.2 hw)).trans ?_
  dsimp only
  rw [show (fun j => !ls.any (fun l => decide (l.base ≤ va + j) && decide (va + j < l.base + l.len) && (!kd.writes || l.rw))) = fun j => !leased kd ls va j from rfl, hfind]

end window

/-- Settles O31: the checks in their order, then the heap window by its grant and key, and the leases outside it. -/
theorem accessChecksInOrder : Obligations.AccessChecksInOrder := by
  refine ⟨fun s cl sag n a h => resolve_of_kind h, fun kd a n al pre s k => ⟨fun hr => accessBy_unresolved hr k, fun ad hr => ⟨fun ha => ?_, fun ha hp => ?_,
    fun ha hp loc hloc => ⟨fun hq => admits_of_leads hr ha hp (leads_of_local hloc) hq, fun j hq => access_locked k hr ha hp (leads_of_local hloc) hq⟩⟩⟩,
    fun kd va n s i g hg => ?_⟩
  · rw [access, accessBy_resolved hr, if_pos ha]
    rfl
  · rw [access, accessBy_resolved hr, if_neg (not_not.2 ha), hp]
    rfl
  · intro off pa
    refine ⟨fun hw hkd hlo hhi hkey hno => ?_, fun hw hkey => ?_, fun hw hout => ?_, fun ls j hw hls hj hno hbefore => ?_⟩
    · exact (translate_window hg hw).trans (if_neg (by
        rw [heapBars_iff, not_or, not_or, not_or]
        exact ⟨hkd, fun h => h ⟨hlo, hhi⟩, Option.isSome_iff_ne_none.1 hkey, ne_true_of_eq_false hno⟩))
    · exact (translate_window hg hw).trans (if_pos (heapBars_iff.2 (.inr (.inr (.inl hkey)))))
    · exact (translate_window hg hw).trans (if_pos (heapBars_iff.2 (.inr (.inl (fun h => hout.elim (Nat.not_lt.2 h.1) (Nat.not_lt.2 h.2))))))
    · exact translate_unleased hw hls hj (Bool.eq_false_iff.2 (fun h => by
        obtain ⟨l, hl, hl'⟩ := leased_iff.1 h
        exact hno l hl hl')) (fun j' hj' => leased_iff.2 (hbefore j' hj'))

end Sys2Proof.Machine
end

/-! Messages, puts and multicast (O40). -/
section
namespace Sys2Proof.Machine

variable {s s0 t u v w : State} {i : Instr} {m : Msg}

/-! A field of a core that a change of it leaves. -/

theorem coreAt_modCore_keeps {β : Type} {p : Core → β} {c : Nat} {f : Core → Core} (hf : ∀ x, p (f x) = p x) (c' : Nat) :
    p ((s.modCore c f).coreAt c') = p (s.coreAt c') := by
  by_cases h : c' = c
  · rw [h, State.coreAt_modCore, hf]
  · rw [State.coreAt_modCore_other _ _ _ _ h]

/-- Reading a source leaves every part of its core but the queues and the slots. -/
theorem myCore_took_keeps {β : Type} {p : Core → β} (hq : ∀ x q f, p (Core.modQueue x q f) = p x) (hs : ∀ (x : Core) l, p { x with slots := l } = p x)
    (c : Code) (y : Bool) (x : Word) : p (s.took c y x).myCore = p s.myCore := by
  have hstrand {t : State} (c k : Nat) (f : Strand → Strand) : p (t.modStrand c k f).myCore = p t.myCore := coreAt_modCore_keeps (fun x => hs x _) _
  have hdrop (q : Nat) : p (s.dropHead q).myCore = p s.myCore := coreAt_modCore_keeps (fun x => hq x q _) _
  rcases took_cases s c y x with ⟨r, he⟩ | ⟨r, n, he⟩ | ⟨r, n, he⟩ | ⟨r, n, he⟩ | ⟨r, q, he⟩ | ⟨r, q, -, he⟩
  · rw [he]; exact hstrand ..
  · rw [he]; exact (hstrand ..).trans (hstrand ..)
  · rw [he]; exact (hstrand ..).trans (hstrand ..)
  · rw [he]; exact (hstrand ..).trans (hstrand ..)
  · rw [he]; exact (hstrand ..).trans (hdrop q)
  · have hpois : p (((s.dropHead q).pushRead r).countPoison s.core s.slot s.me.sag).myCore = p ((s.dropHead q).pushRead r).myCore := by
      rw [State.countPoison, State.count, State.myCore, State.modSag_core, coreAt_modSag]
      exact hstrand ..
    rw [he, hpois]
    exact (hstrand ..).trans (hdrop q)

theorem mailbox_of_gives {c : Code} {y : Bool} {x : Word} (hg : s.Gives c y x u) (k : Nat) : u.myCore.mailbox k = s.myCore.mailbox k := by
  obtain ⟨-, -, rfl⟩ := hg
  exact myCore_took_keeps (p := fun x => x.mailbox k) (fun _ _ _ => rfl) (fun _ _ => rfl) c y x

/-! Class-3 credit (R415). -/

/-- The state after a class-3 message has taken a credit of its core. -/
def State.credited (s : State) : State := s.modMyCore (fun c => { c with credit := c.creditNow s.credits - 1, creditAt := s.credits })

theorem withCredit_of_class {tc : Nat} (k : State → Out) (h : tc ≠ 3) : withCredit tc s k = k s := if_pos h

theorem withCredit_none (k : State → Out) (h : s.myCore.creditNow s.credits = 0) : withCredit 3 s k = hold s := by
  rw [withCredit, if_neg (by omega), if_pos h]

theorem withCredit_some (k : State → Out) (h : s.myCore.creditNow s.credits ≠ 0) : withCredit 3 s k = k s.credited := by
  rw [withCredit, if_neg (by omega), if_neg h]
  rfl

theorem KeepsStrand.credited (h : KeepsStrand s0 s) : KeepsStrand s0 s.credited := .modCore (fun _ => rfl) h

/-! `send`, `recv` and `rprobe` (R193, R194). -/

/-- A `send` reads its operands, and its target is looked for (R193). -/
theorem send_cases (o : FmtSend) {a b : Word} (h : s.Starts (.send o)) (hacq : s.acquirePending = false) (ha : s.Gives o.a o.x a u) (hb : u.Gives o.b o.y b v) :
    (v.coreNamed a true = none → exec (.send o) s = trap .badAddress a v) ∧
    ∀ c, v.coreNamed a true = some c → v.releaseOk 2 = true → v.requestRoom 1 = true → exec (.send o) s =
      withCredit o.t.toNat v (fun s => complete (s.post o.t.toNat 0 0 0 8 ⟨.core, c, 0⟩ (.mail (bitsOf a 0 2) b))) := by
  have he : exec (.send o) s = execSend o s := rfl
  rw [execSend, ha.1, hb.1, Bool.and_self, plain_of_starts h, ordered_of_free _ hacq, readSrc_of_gives (by rw [h.begins.reads_eq]; rfl) ha,
    readSrc_of_gives (length_reads_of_first h.begins ha) hb] at he
  refine ⟨fun hno => ?_, fun c hc hrel hroom => ?_⟩
  · rw [he, hno]
  · rw [he, hc]
    exact (releasing_ok hrel _).trans (if_neg (by rw [hroom]; exact Bool.false_ne_true))

theorem recv_cases (o : FmtUn) {a : Word} (h : s.Starts (.recv o)) (hacq : s.acquirePending = false) (hd : dstOk o.d = true) (hacc : s.accepts o.d = true)
    (ha : s.Gives o.a o.x a u) :
    (s.myCore.mailbox (bitsOf a 0 2) = [] → exec (.recv o) s = park (.recv (bitsOf a 0 2)) (u.renegotiate true)) ∧
    ∀ x rest, s.myCore.mailbox (bitsOf a 0 2) = x :: rest →
      exec (.recv o) s = finish o.d x ((u.modMyCore (fun c => c.setMail (bitsOf a 0 2) rest)).renegotiate false) := by
  have he : exec (.recv o) s = execRecv o s := rfl
  rw [execRecv, ha.1, hd, Bool.and_self, plain_of_starts h, ordered_of_free _ hacq, withDst_of_accepts _ _ hacc,
    readSrc_of_gives (by rw [h.begins.reads_eq]; rfl) ha] at he
  rw [← mailbox_of_gives ha]
  rw [he]
  dsimp only
  refine ⟨fun hno => ?_, fun x rest hx => ?_⟩
  · split
    · rfl
    · next hx => exact absurd (hx.symm.trans hno) (List.cons_ne_nil _ _)
  · split
    · next hno => exact absurd (hx.symm.trans hno) (List.cons_ne_nil _ _)
    · next hx' =>
      obtain ⟨rfl, rfl⟩ := List.cons.inj (hx'.symm.trans hx)
      rfl

/-- The lengths of the mailboxes as the digits of one number. -/
theorem foldl_mailboxes (c : Core) (b : Nat) : (List.range 4).foldl (fun n k => n + (c.mailbox k).length * b ^ (8 * k)) 0 =
    (c.mailbox 0).length + (c.mailbox 1).length * b ^ 8 + (c.mailbox 2).length * b ^ 16 + (c.mailbox 3).length * b ^ 24 := by
  rw [show List.range 4 = [0, 1, 2, 3] from rfl]
  simp only [List.foldl_cons, List.foldl_nil, Nat.mul_zero, Nat.pow_zero, Nat.mul_one, Nat.zero_add, Nat.reduceMul]

theorem rprobe_completes (o : FmtDst) (h : s.Starts (.rprobe o)) (hd : dstOk o.d = true) (hroom : s.room o.d = true) :
    Completes (.rprobe o) s (s.put o.d (word ((s.myCore.mailbox 0).length + (s.myCore.mailbox 1).length * 2 ^ 8 + (s.myCore.mailbox 2).length * 2 ^ 16 +
      (s.myCore.mailbox 3).length * 2 ^ 24))) := by
  refine completes_of_finish ?_ hroom h.begins.cur_eq
  change execRprobe o s = _
  rw [execRprobe, hd, plain_of_starts h, withDst_of_room _ _ hroom, foldl_mailboxes]

/-! `put` (R195). -/

theorem putTarget_of_mesh {op a : Word} {ad : Addr} (k : Addr → State → Out) (hr : resolve s s.myCluster s.me.sag a 8 = some ad) (hg : ad.isGlobal = false) :
    putTarget op a s k = k ad s := by
  rw [putTarget, hr]
  exact if_neg (ne_true_of_eq_false hg)

theorem putAligned_of_aligned {a : Word} (k : State → Out) (h : a.toNat % 8 = 0) : putAligned a s k = k s := if_neg (not_not.2 h)

/-- What a `put` of b at ad with counter cnt does once its targets are found: a locked byte of the target, then of the counter, traps. -/
def putGo (tc : Nat) (a b d : Word) (ad : Addr) (cnt : Option Addr) (s : State) : Out :=
  match s.putLocked ad, cnt.bind s.putLocked with
  | some j, _ => trap .rangeLocked (a + word j) s
  | none, some j => trap .rangeLocked (d + word j) s
  | none, none =>
    if s.crosses false (homeOf ad.loc) ad.loc 8 then hold s
    else if (s.parkedPage ad.named).isSome && decide (Config.replayDepth ≤ s.myCore.replay.length) then holdOn ad.named s
    else if !s.requestRoom 1 then hold s
    else withCredit tc s (fun s => sendWrite ⟨ad, ad.named, ad.loc, none⟩ tc 0 8 (.put b (cnt.map Addr.loc)) s (fun s => complete s.addPend))

theorem putGo_locked {tc j : Nat} {a b d : Word} {ad : Addr} (cnt : Option Addr) (h : s.putLocked ad = some j) :
    putGo tc a b d ad cnt s = trap .rangeLocked (a + word j) s := by
  rw [putGo, h]

/-- The state after a `put` has left: its message is in flight and counted in PEND. -/
def State.putSent (s : State) (tc : Nat) (ad : Addr) (body : Body) : State :=
  (s.post tc 0 ad.named ad.loc 8 (homeOf ad.loc) body).modMe (fun m => { m with pend := m.pend + 1 })

theorem putGo_sends {tc : Nat} {a b d : Word} {ad : Addr} {cnt : Option Addr} (h : s.putLocked ad = none) (hcnt : cnt.bind s.putLocked = none)
    (hc : s.crosses false (homeOf ad.loc) ad.loc 8 = false) (hroom : s.requestRoom 1 = true) (hpage : s.parkedPage ad.named = none) (htc : tc ≠ 3) :
    putGo tc a b d ad cnt s = complete (s.putSent tc ad (.put b (cnt.map Addr.loc))) := by
  rw [putGo, h, hcnt]
  dsimp only
  rw [hc, hpage, hroom, withCredit_of_class _ htc, sendWrite_of_sends _ ⟨hroom, rfl, hpage⟩]
  rfl

theorem put_cases (o : FmtPut) {a b d : Word} {ad : Addr} (h : s.Starts (.put o)) (hacq : s.acquirePending = false) (hpend : s.me.pend < 16)
    (ha : s.Gives o.a o.x a u) (hb : u.Gives o.b o.y b v) (hd : v.Gives o.d false d w) (hr : resolve w w.myCluster w.me.sag a 8 = some ad)
    (hg : ad.isGlobal = false) (hal : a.toNat % 8 = 0) :
    (o.d.toNat = 56 → exec (.put o) s = putGo o.t.toNat a b d ad none w) ∧
    ∀ cd, o.d.toNat ≠ 56 → resolve w w.myCluster w.me.sag d 8 = some cd → cd.isGlobal = false → d.toNat % 8 = 0 →
      (cd.cluster ≠ ad.cluster → exec (.put o) s = trap .badAddress d w) ∧
      (cd.cluster = ad.cluster → exec (.put o) s = putGo o.t.toNat a b d ad (some cd) w) := by
  have hroom : s.pendRoom = true := decide_eq_true hpend
  have he : exec (.put o) s = execPut o s := rfl
  rw [execPut, ha.1, hb.1, hd.1, Bool.and_self, Bool.and_self, plain_of_starts h, ordered_of_free _ hacq, hroom, Bool.not_true, if_neg Bool.false_ne_true,
    readSrc_of_gives (by rw [h.begins.reads_eq]; rfl) ha, readSrc_of_gives (length_reads_of_first h.begins ha) hb,
    readSrc_of_gives (length_reads_of_gives h.begins ha hb) hd, putTarget_of_mesh _ hr hg] at he
  refine ⟨fun hz => ?_, fun cd hz hcr hcg hcal => ⟨fun hne => ?_, fun hsame => ?_⟩⟩
  · exact he.trans ((if_pos hz).trans (putAligned_of_aligned _ hal))
  · exact he.trans ((if_neg hz).trans ((putTarget_of_mesh _ hcr hcg).trans (if_pos hne)))
  · exact he.trans ((if_neg hz).trans ((putTarget_of_mesh _ hcr hcg).trans ((if_neg (not_not.2 hsame)).trans
      ((putAligned_of_aligned _ hal).trans (putAligned_of_aligned _ hcal)))))

/-! `mput` (R196). -/

theorem KeepsStrand.pend (h : KeepsStrand s t) : t.me.pend = s.me.pend := show t.me.rest.pend = s.me.rest.pend by rw [h.rest]

/-- An `mput` reads its operands and its record; with MASK 0 that is all. -/
theorem mput_none (o : FmtPut) {a b d : Word} {r : List Word} (h : s.Starts (.mput o)) (hacq : s.acquirePending = false) (ha : s.Gives o.a o.x a u)
    (hb : u.Gives o.b o.y b v) (hd : v.Gives o.d false d w) (hr : Reads 3 a 2 w r t) (hm : r.getD 1 0 = 0) : Completes (.mput o) s t := by
  have hk : KeepsStrand s t := (KeepsStrand.givesThree h.begins ha hb hd).trans hr.keepsStrand
  refine completes_of_exec ?_ (cur_of_keepsStrand h.begins hk)
  change execMput o s = _
  rw [execMput, ha.1, hb.1, hd.1, Bool.and_self, Bool.and_self, plain_of_starts h, ordered_of_free _ hacq, readSrc_of_gives (by rw [h.begins.reads_eq]; rfl) ha,
    readSrc_of_gives (length_reads_of_first h.begins ha) hb, readSrc_of_gives (length_reads_of_gives h.begins ha hb) hd, hr]
  exact if_pos hm

/-- A kind of mesh-local addresses is none other (R173). -/
theorem not_mesh_of_kind {n : Nat} (h : n = 8 ∨ n = 9) : (decide (n ≠ 8) && decide (n ≠ 9)) = false := by
  rcases h with rfl | rfl <;> rfl

section mput

variable {o : FmtPut} {a b d : Word} {r : List Word} {cs : List Nat} {c0 : Nat} {ad cd : Addr}

/-- The location of an address, if there is one. -/
def locOf : Option Addr → Nat
  | some x => x.loc
  | none => 0

/-- The location of the dword that an address names at a cluster. -/
def State.meshLoc (s : State) (a : Word) (cl : Nat) : Nat := locOf (resolve s s.myCluster s.me.sag (atCluster a cl) 8)

/-- The dwords that an `mput` writes, and the counters that follow them. -/
def State.mputTargets (s : State) (o : FmtPut) (dest d : Word) (cs : List Nat) : List (Nat × Option Nat) :=
  cs.map (fun cl => (s.meshLoc dest cl, if o.d.toNat = 56 then none else some (s.meshLoc d cl)))

/-- The state after an `mput` has left: its packet is in flight and counted in PEND. -/
def State.mputSent (s : State) (tc l : Nat) (body : Body) : State :=
  (s.post tc 0 0 l 8 (homeOf l) body).modMe (fun m => { m with pend := m.pend + 1 })

theorem mput_sends (h : s.Starts (.mput o)) (hacq : s.acquirePending = false) (hpend : s.me.pend < 16) (ha : s.Gives o.a o.x a u)
    (hb : u.Gives o.b o.y b v) (hd : v.Gives o.d false d w) (hr : Reads 3 a 2 w r t) (hm : r.getD 1 0 ≠ 0)
    (hkind : bitsOf (r.getD 0 0) 60 4 = 8 ∨ bitsOf (r.getD 0 0) 60 4 = 9)
    (hcs : (snake (r.getD 1 0)).map (fun p => t.meshCluster ((t.originOf (r.getD 0 0)).1 + p.1) ((t.originOf (r.getD 0 0)).2 + p.2)) = cs.map some)
    (hc0 : cs.head? = some c0) (had : resolve t t.myCluster t.me.sag (atCluster (r.getD 0 0) c0) 8 = some ad) (hg : ad.isGlobal = false)
    (hal : (atCluster (r.getD 0 0) c0).toNat % 8 = 0)
    (hcd : o.d.toNat ≠ 56 → (bitsOf d 60 4 = 8 ∨ bitsOf d 60 4 = 9) ∧ resolve t t.myCluster t.me.sag (atCluster d c0) 8 = some cd ∧ cd.isGlobal = false ∧
      (atCluster d c0).toNat % 8 = 0)
    (hroom : t.requestRoom 1 = true) (hnet : t.net = []) (htc : o.t ≠ 3) :
    Completes (.mput o) s (t.mputSent o.t.toNat (t.meshLoc (r.getD 0 0) c0) (.mput b (t.mputTargets o (r.getD 0 0) d cs))) := by
  have hk : KeepsStrand s t := (KeepsStrand.givesThree h.begins ha hb hd).trans hr.keepsStrand
  have hcur : (t.mputSent o.t.toNat (t.meshLoc (r.getD 0 0) c0) (.mput b (t.mputTargets o (r.getD 0 0) d cs))).me.cur = some (.mput o) :=
    (congrArg Strand.cur (State.me_modMe ..)).trans (cur_of_keepsStrand h.begins hk.post)
  refine completes_of_exec ?_ hcur
  change execMput o s = _
  rw [execMput, ha.1, hb.1, hd.1, Bool.and_self, Bool.and_self, plain_of_starts h, ordered_of_free _ hacq, readSrc_of_gives (by rw [h.begins.reads_eq]; rfl) ha,
    readSrc_of_gives (length_reads_of_first h.begins ha) hb, readSrc_of_gives (length_reads_of_gives h.begins ha hb) hd, hr]
  have hpr : t.pendRoom = true := decide_eq_true (hk.pend ▸ hpend)
  have hany : (cs.map some).any Option.isNone = false := by simp
  have hids : (cs.map some).filterMap id = cs := by simp
  have hhead : cs.headD 0 = c0 := by rw [List.headD_eq_head?_getD, hc0]; rfl
  have hdest := not_mesh_of_kind hkind
  have hcount : (decide (o.d.toNat ≠ 56) && decide (bitsOf d 60 4 ≠ 8) && decide (bitsOf d 60 4 ≠ 9)) = false := by
    by_cases hz : o.d.toNat = 56
    · rw [decide_eq_false (not_not.2 hz), Bool.false_and, Bool.false_and]
    · rw [Bool.and_assoc, not_mesh_of_kind (hcd hz).1, Bool.and_false]
  have hnone (ds : List (Nat × Option Nat)) : ds.any (fun x => t.crosses false (homeOf x.1) x.1 8) = false :=
    List.any_eq_false.2 (fun x _ => by rw [crosses_of_net_nil hnet]; exact Bool.false_ne_true)
  have htc' : o.t.toNat ≠ 3 := fun h => htc (BitVec.eq_of_toNat_eq h)
  have hfirst : ((t.mputTargets o (r.getD 0 0) d cs).headD (0, none)).1 = t.meshLoc (r.getD 0 0) c0 := by
    rw [State.mputTargets, List.headD_eq_head?_getD, List.head?_map, hc0]
    rfl
  dsimp only
  rw [if_neg hm, hpr, Bool.not_true, if_neg Bool.false_ne_true, hdest, if_neg Bool.false_ne_true, hcount, if_neg Bool.false_ne_true, hcs, hany,
    if_neg Bool.false_ne_true, hids, hhead, putTarget_of_mesh _ had hg]
  have hgo : (if (!t.requestRoom 1 || (t.mputTargets o (r.getD 0 0) d cs).any (fun x => t.crosses false (homeOf x.1) x.1 8)) = true then hold t
      else withCredit o.t.toNat t (fun s => complete (s.post o.t.toNat 0 0 ((t.mputTargets o (r.getD 0 0) d cs).headD (0, none)).1 8
        (homeOf ((t.mputTargets o (r.getD 0 0) d cs).headD (0, none)).1) (.mput b (t.mputTargets o (r.getD 0 0) d cs))).addPend)) =
      complete (t.mputSent o.t.toNat (t.meshLoc (r.getD 0 0) c0) (.mput b (t.mputTargets o (r.getD 0 0) d cs))) := by
    rw [hroom, hnone, Bool.not_true, Bool.or_self, if_neg Bool.false_ne_true, withCredit_of_class _ htc', hfirst]
    rfl
  obtain ⟨R, hR⟩ : ∃ R : State → Word → Option Addr, ∀ s a, resolve s s.myCluster s.me.sag a 8 = R s a := ⟨_, fun _ _ => rfl⟩
  obtain ⟨A, hA⟩ : ∃ A : Word → Nat → Word, ∀ a n, atCluster a n = A a n := ⟨_, fun _ _ => rfl⟩
  have hcd' (hz : o.d.toNat ≠ 56) := hcd hz
  simp only [State.mputTargets, State.meshLoc, hR, hA] at hgo hal hcd' ⊢
  by_cases hz : o.d.toNat = 56
  · exact (if_pos hz).trans ((putAligned_of_aligned _ hal).trans hgo)
  · obtain ⟨-, hcr, hcg, hcal⟩ := hcd' hz
    exact (if_neg hz).trans ((putTarget_of_mesh _ ((hR _ _).trans hcr) hcg).trans ((putAligned_of_aligned _ hal).trans ((putAligned_of_aligned _ hcal).trans hgo)))

end mput

end Sys2Proof.Machine
end

section
namespace Sys2Proof.Machine

variable {s s0 t u v w : State} {i : Instr} {m : Msg} {k : Nat}

/-- A trap before which the strand has kept its place stands at the instruction's address. -/
theorem traps_of_trap {c : Cause} {x : Word} (he : exec i s = trap c x u) (hk : KeepsStrand s u) : Traps i s u c.code x := by rw [Traps, ← hk.pc]; exact he

/-! What arrives (R193, R195, R196). -/

/-- A message that nothing holds enters its mailbox and wakes its unit (R193). -/
theorem messageArrival_enters {box : Nat} {x : Word} (hm : s.net[k]? = some m) (hb : m.body = .mail box x) (hlock : s.relocking m.home.unit = false)
    (hroute : s.misrouted m = false) (hbehind : s.mailBehind k m box = false) (hsent : s.unsent k m = false) (hopen : s.mailOpen m.home.unit box = true) :
    exec (.messageArrival k) s = .next (((s.dropMsg k).modCore m.home.unit (fun c => c.setMail box (c.mailbox box ++ [x]))).wakeUnit m.home.unit) := by
  change execMessageArrival k s = _
  rw [execMessageArrival, hm]
  dsimp only
  rw [hb]
  dsimp only
  rw [hlock, hroute, hbehind, hsent, hopen]
  rfl

/-- A put whose home may take it is written there (R195). -/
theorem putDelivery_writes {x : Word} {c : Option Nat} (hm : s.net[k]? = some m) (hb : m.body = .put x c) (hbar : s.barred k m = false)
    (hawake : ∀ h ∈ m.homes, s.awakeAt h = true) (hpark : s.mustPark m = false) (haway : s.sentAway m = false) (hspace : spaceOf m.loc ≠ 3) :
    exec (.putDelivery k) s = .next (((s.dropMsg k).putAt m.sag x m.loc c).answer m .update) := by
  have hparks : m.body.parks = true := by rw [hb]; rfl
  have hbuffer : s.awaitsBuffer m = false := by rw [State.awaitsBuffer, hb]
  have hcut : (s.dropMsg k).cutOff m.loc = false := by rw [State.cutOff, decide_eq_false hspace, Bool.false_and]
  have hpeer : m.toPeer = false := by rw [Msg.toPeer, decide_eq_false hspace, Bool.and_false, Bool.false_and]
  have happly : s.applyMsg k m ⟨false, false⟩ = (s.dropMsg k).perform m ⟨false, false⟩ := by
    rw [State.applyMsg, hparks, hpark, hbuffer, haway, Bool.and_false, if_neg Bool.false_ne_true, Bool.not_true, Bool.false_and, Bool.or_self, Bool.or_self,
      if_neg Bool.false_ne_true, State.reach, hcut, Bool.and_false, if_neg Bool.false_ne_true, hpeer, if_neg Bool.false_ne_true]
  have hperform : (s.dropMsg k).perform m ⟨false, false⟩ = ((s.dropMsg k).putAt m.sag x m.loc c).answer m .update := by rw [State.perform, hb]
  change execPutDelivery k s = _
  rw [execPutDelivery, hm]
  dsimp only
  rw [hb]
  dsimp only
  rw [hbar, if_neg Bool.false_ne_true, wakeHomes_of_awake hawake, happly, hperform]

theorem Settles.putAt {g l : Nat} {x : Word} {c : Option Nat} (h : Settles s0 s) : Settles s0 (s.putAt g x l c) := by
  have hdata : Settles s0 (((s.setDword l x).clearPoison l 8).changed l 8) := h.setDword.clearPoison.changed
  cases c with
  | none => exact hdata
  | some c => exact .ite hdata.meet.count hdata.meet.setDword.changed

/-- At its last cluster a multicast packet writes and is answered (R196). -/
theorem mputVisit_last {x : Word} {e : Nat × Option Nat} (hm : s.net[k]? = some m) (hbar : s.barred k m = false) (hawake : ∀ h ∈ m.homes, s.awakeAt h = true)
    (hb : m.body = .mput x [e]) : exec (.mputVisit k) s = .next (((s.putAt m.sag x e.1 e.2).dropMsg k).answer m .update) := by
  change execMputVisit k s = _
  rw [execMputVisit, hm]
  dsimp only
  rw [hb]
  dsimp only
  rw [hbar, if_neg Bool.false_ne_true, wakeHomes_of_awake hawake]

/-- At any other it writes and goes on to the next (R196). -/
theorem mputVisit_next {x : Word} {e e' : Nat × Option Nat} {rest : List (Nat × Option Nat)} (hm : s.net[k]? = some m) (hbar : s.barred k m = false)
    (hawake : ∀ h ∈ m.homes, s.awakeAt h = true) (hb : m.body = .mput x (e :: e' :: rest)) :
    exec (.mputVisit k) s = .next { s.putAt m.sag x e.1 e.2 with net := setAt s.net k { m with loc := e'.1, home := homeOf e'.1, body := .mput x (e' :: rest) } } := by
  have hnet : (s.putAt m.sag x e.1 e.2).net = s.net := (Settles.refl s).putAt.net
  change execMputVisit k s = _
  rw [execMputVisit, hm]
  dsimp only
  rw [hb]
  dsimp only
  rw [hbar, if_neg Bool.false_ne_true, wakeHomes_of_awake hawake, hnet]

/-! What a put leaves in memory (R195). -/

theorem byte_of_mem (h : t.mem = s.mem) (a : Nat) : t.byte a = s.byte a := by rw [State.byte, h, State.byte]

theorem dword_congr {l : Nat} (h : ∀ i, i < 8 → t.byte (l + i) = s.byte (l + i)) : t.dword l = s.dword l := by
  have hbytes : t.bytes l 8 = s.bytes l 8 := List.map_congr_left (fun i hi => h i (List.mem_range.1 hi))
  rw [State.dword, State.dword, hbytes]

/-- A dword is read back where its bytes stand. -/
theorem dword_of_bytes {l : Nat} {x : Word} (h : ∀ i, i < 8 → t.byte (l + i) = (toBytes 8 x.toNat).getD i 0) : t.dword l = x := by
  have hbytes : t.bytes l 8 = toBytes 8 x.toNat := by
    refine List.ext_getElem (by rw [length_toBytes]; rw [State.bytes, List.length_map, List.length_range]) (fun i hi hi' => ?_)
    have hi8 : i < 8 := by rwa [length_toBytes] at hi'
    simp only [State.bytes, List.getElem_map, List.getElem_range, h i hi8, List.getD_eq_getElem _ _ hi']
  rw [State.dword, hbytes, ofBytes_toBytes _ _ (by omega)]
  exact BitVec.ofNat_toNat ..

section putAt

variable {g l c : Nat} {x : Word}

theorem byte_setDword_other {a : Nat} (h : a < l ∨ l + 8 ≤ a) : (s.setDword l x).byte a = s.byte a :=
  byte_setBytes_other _ _ _ (by rwa [length_toBytes])

theorem dword_setDword (h : s.Canonical) : (s.setDword l x).dword l = x :=
  dword_of_bytes (fun i hi => byte_setBytes_same _ _ h i (by rwa [length_toBytes]))

theorem mem_putAt_none : (s.putAt g x l none).mem = (s.setDword l x).mem :=
  (SameStore.changed (.same (.refl _) rfl) : SameStore (s.setDword l x) (s.putAt g x l none)).mem

theorem putAt_some : s.putAt g x l (some c) = if ((s.putAt g x l none).meet c 8).anyPoison c 8 then
      ((s.putAt g x l none).meet c 8).count g (fun c => { c with poisoned := sat1 c.poisoned })
    else (((s.putAt g x l none).meet c 8).setDword c (((s.putAt g x l none).meet c 8).dword c + 1)).changed c 8 := rfl

theorem mem_meet_putAt : ((s.putAt g x l none).meet c 8).mem = (s.putAt g x l none).mem := (SameStore.meet c 8 (.refl _)).mem

/-- A put writes its dword, and no byte elsewhere but in its counter. -/
theorem byte_putAt_some {a : Nat} (ha : a < c ∨ c + 8 ≤ a) : (s.putAt g x l (some c)).byte a = (s.putAt g x l none).byte a := by
  rw [putAt_some]
  split
  · exact byte_of_mem ((SameStore.modSag (.refl _)).mem.trans mem_meet_putAt) a
  · rw [byte_of_mem (SameStore.changed (.refl _)).mem, byte_setDword_other ha, byte_of_mem mem_meet_putAt]

theorem dword_putAt_none (h : s.Canonical) : (s.putAt g x l none).dword l = x :=
  (dword_congr (fun _ _ => byte_of_mem mem_putAt_none _)).trans (dword_setDword h)

theorem byte_putAt_none {a : Nat} (ha : a < l ∨ l + 8 ≤ a) : (s.putAt g x l none).byte a = s.byte a :=
  (byte_of_mem mem_putAt_none a).trans (byte_setDword_other ha)

/-- The counter of a put is counted up where its words are sound. -/
theorem counter_putAt (h : s.Canonical) (hdis : c + 8 ≤ l ∨ l + 8 ≤ c) (hp : s.anyPoison c 8 = false)
    (he : ∀ i, i < 8 → Tbl.find s.errs (poisonWord (c + i)) = none) : (s.putAt g x l (some c)).dword c = s.dword c + 1 := by
  have hsound (i : Nat) (hi : i < 8) : (s.putAt g x l none).SoundWord (poisonWord (c + i)) := by
    refine (Settles.refl s).putAt.sound _ ⟨?_, he i hi⟩
    have hpi := List.any_eq_false.1 hp i (List.mem_range.2 hi)
    rwa [State.poisoned, Bool.not_eq_true, Option.isSome_eq_false_iff, Option.isNone_iff_eq_none] at hpi
  have hmeet : (s.putAt g x l none).meet c 8 = s.putAt g x l none := meet_of_clean (fun i hi => (hsound i hi).2)
  have hpois : (s.putAt g x l none).anyPoison c 8 = false :=
    List.any_eq_false.2 (fun i hi => by rw [State.poisoned, (hsound i (List.mem_range.1 hi)).1]; exact Bool.false_ne_true)
  have hold : (s.putAt g x l none).dword c = s.dword c := dword_congr (fun _ _ => byte_putAt_none (by omega))
  rw [putAt_some, hmeet, hpois, if_neg Bool.false_ne_true, hold]
  exact (dword_congr (fun i _ => byte_of_mem (SameStore.changed (.refl _)).mem _)).trans (dword_setDword (State.Canonical.putAt h))

end putAt

/-- Settles O40, by the cases of each form and of each arrival. -/
theorem messagesComplete : Obligations.MessagesComplete := by
  unfold Obligations.MessagesComplete
  refine ⟨fun o s u v a b c h hacq ha hb => ?send, fun o s u a h hacq hd hacc ha => ?recv, fun o s h hd hroom => rprobe_completes o h hd hroom,
    fun o s u v w a b d ad h hacq hpend ha hb hd hr hg hal => ?put, fun o s u v w t a b d r h hacq hpend ha hb hd hr => ⟨mput_none o h hacq ha hb hd hr, ?mput⟩,
    fun k s m box x hm hb hlock hroute hbehind hsent hopen => messageArrival_enters hm hb hlock hroute hbehind hsent hopen,
    fun k s m x c hm hb hbar hawake hpark haway hspace => putDelivery_writes hm hb hbar hawake hpark haway hspace,
    fun k s m x e hm hbar hawake => ⟨mputVisit_last hm hbar hawake, fun e' rest hb => ⟨_, mputVisit_next hm hbar hawake hb, rfl, rfl⟩⟩,
    fun s g x l c hcan hdis => ⟨dword_putAt_none hcan, (dword_congr (fun _ _ => byte_putAt_some (by omega))).trans (dword_putAt_none hcan),
      counter_putAt hcan hdis, fun a hl hc => (byte_putAt_some hc).trans (byte_putAt_none hl)⟩⟩
  case send =>
    obtain ⟨hno, hsend⟩ := send_cases o h hacq ha hb
    have hcur {tc : Nat} {x : Home} {b : Body} : (v.post tc 0 0 0 8 x b).me.cur = some (.send o) := cur_of_keepsStrand h.begins (KeepsStrand.givesTwo h.begins ha hb).post
    have hcred {tc : Nat} {x : Home} {b : Body} : (v.credited.post tc 0 0 0 8 x b).me.cur = some (.send o) :=
      cur_of_keepsStrand h.begins (KeepsStrand.givesTwo h.begins ha hb).credited.post
    refine ⟨fun hn => traps_of_trap (hno hn) (KeepsStrand.givesTwo h.begins ha hb), fun hc hrel hroom => ⟨fun ht => ?_, fun ht hcr => ?_, fun ht hcr => ?_⟩⟩
    · exact completes_of_exec ((hsend c hc hrel hroom).trans (withCredit_of_class _ (fun h => ht (BitVec.eq_of_toNat_eq h)))) hcur
    · rw [hsend c hc hrel hroom, ht]
      exact withCredit_none _ hcr
    · refine completes_of_exec ?_ hcred
      rw [hsend c hc hrel hroom, ht]
      exact withCredit_some _ hcr
  case recv =>
    obtain ⟨hno, hsome⟩ := recv_cases o h hacq hd hacc ha
    refine ⟨hno, ?_⟩
    intro x rest hx w hroom
    refine completes_of_finish (hsome x rest hx) hroom ((cur_renegotiate _ _).trans ?_)
    exact cur_of_keepsStrand h.begins (KeepsStrand.modCore (fun _ => rfl) (KeepsStrand.gives ha h.begins.slot_lt))
  case put =>
    obtain ⟨hz, hnz⟩ := put_cases o h hacq hpend ha hb hd hr hg hal
    have hk : KeepsStrand s w := KeepsStrand.givesThree h.begins ha hb hd
    have hcur {tc : Nat} {body : Body} : (w.putSent tc ad body).me.cur = some (.put o) :=
      (congrArg Strand.cur (State.me_modMe ..)).trans (cur_of_keepsStrand h.begins hk.post)
    refine ⟨fun j ho hj => traps_of_trap ((hz ho).trans (putGo_locked _ hj)) hk, fun hlock hc hroom hpage ht => ?_⟩
    have htc : o.t.toNat ≠ 3 := fun h => ht (BitVec.eq_of_toNat_eq h)
    refine ⟨fun ho => completes_of_exec ((hz ho).trans (putGo_sends hlock rfl hc hroom hpage htc)) hcur, fun cd ho hcr hcg hcal => ?_⟩
    obtain ⟨hne, hsame⟩ := hnz cd ho hcr hcg hcal
    exact ⟨fun hcl => traps_of_trap (hne hcl) hk, fun hcl hcl' => completes_of_exec ((hsame hcl).trans (putGo_sends hlock hcl' hc hroom hpage htc)) hcur⟩
  case mput =>
    intro cs c0 ad cd hm hkind hcs hc0 had hg hal hcd hroom hnet htc
    have hsends := mput_sends h hacq hpend ha hb hd hr hm hkind hcs hc0 had hg hal hcd hroom hnet htc
    obtain ⟨R, hR⟩ : ∃ R : Word → Nat → Option Addr, ∀ a n, resolve t t.myCluster t.me.sag (atCluster a n) 8 = R a n := ⟨_, fun _ _ => rfl⟩
    simp only [State.mputSent, State.mputTargets, State.meshLoc, hR] at hsends ⊢
    exact hsends

end Sys2Proof.Machine
end

/-! Copy tags and waits on jobs (O42). -/
section
namespace Sys2Proof.Machine

variable {s t u v : State} {i : Instr}

/-- Reading a source leaves its core's tags and jobs. -/
theorem jobs_of_gives {c : Code} {y : Bool} {x : Word} (hg : s.Gives c y x u) :
    u.myCore.tags = s.myCore.tags ∧ u.myCore.tagCount = s.myCore.tagCount ∧ u.myCore.jobRing = s.myCore.jobRing ∧ u.myCore.jobsPlaced = s.myCore.jobsPlaced := by
  obtain ⟨-, -, rfl⟩ := hg
  have h := myCore_took_keeps (p := fun x => (x.tags, x.tagCount, x.jobRing, x.jobsPlaced)) (s := s) (fun _ _ _ => rfl) (fun _ _ => rfl) c y x
  simpa only [Prod.mk.injEq] using h

theorem jobStatus_of_gives {c : Code} {y : Bool} {x : Word} (hg : s.Gives c y x u) (n : Nat) : u.myCore.jobStatus n = s.myCore.jobStatus n := by
  rw [Core.jobStatus, Core.jobStatus, (jobs_of_gives hg).2.2.1]

theorem jobFuture_of_gives {c : Code} {y : Bool} {x : Word} (hg : s.Gives c y x u) (n : Nat) : u.myCore.jobFuture n = s.myCore.jobFuture n := by
  rw [Core.jobFuture, Core.jobFuture, (jobs_of_gives hg).2.2.2]

theorem jobBad_of_gives {c : Code} {y : Bool} {x : Word} (hg : s.Gives c y x u) (n : Nat) : u.myCore.jobBad n = s.myCore.jobBad n := by
  rw [Core.jobBad, Core.jobBad, jobFuture_of_gives hg]

/-- A form with one source and one destination reads its source (R109). -/
theorem unary_of_gives (o : FmtUn) {a : Word} {ok : Bool} (k : Word → State → Out) (h : s.Starts i) (hok : ok = true) (hacc : s.accepts o.d = true)
    (ha : s.Gives o.a o.x a u) : plain ok s (fun s => withDst o.d s (fun s => readSrc 0 o.a o.x s k)) = k a u := by
  rw [hok, plain_of_starts h, withDst_of_accepts _ _ hacc, readSrc_of_gives (by rw [h.begins.reads_eq]; rfl) ha]

section tags

variable {o : FmtUn} {a : Word}

/-! Copy tags (R199, R281). -/

theorem waitany_cases (h : s.Starts (.tagwWaitany o)) (hd : dstOk o.d = true) (hacc : s.accepts o.d = true) (ha : s.Gives o.a o.x a u) :
    exec (.tagwWaitany o) s = if (a = 0 || s.myCore.tags &&& a ≠ 0) = true then finish o.d (s.myCore.tags &&& a) u else park (.tag a false) u := by
  rw [← (jobs_of_gives ha).1]
  exact unary_of_gives o _ h (by rw [ha.1, hd]; rfl) hacc ha

theorem waitall_cases (h : s.Starts (.tagwWaitall o)) (hd : dstOk o.d = true) (hacc : s.accepts o.d = true) (ha : s.Gives o.a o.x a u) :
    exec (.tagwWaitall o) s = if s.myCore.tags &&& a = a then finish o.d a u else park (.tag a true) u := by
  rw [← (jobs_of_gives ha).1]
  exact unary_of_gives o _ h (by rw [ha.1, hd]; rfl) hacc ha

/-- The lowest bit of a word, or all ones where it has none (R199). -/
def lowestBit (x : Word) : Word := match (List.range 64).find? (fun t => x.getLsbD t) with
  | some t => word t
  | none => BitVec.allOnes 64

theorem lowestBit_zero : lowestBit 0 = BitVec.allOnes 64 := by decide

theorem lowestBit_spec {x : Word} (h : x ≠ 0) : x.getLsbD (lowestBit x).toNat = true ∧ ∀ j, j < (lowestBit x).toNat → x.getLsbD j = false := by
  unfold lowestBit
  split
  · next t ht =>
    obtain ⟨hbit, hlt, hbelow⟩ := List.find?_range_eq_some.1 ht
    have hnat : (word t).toNat = t := by rw [word, BitVec.toNat_ofNat, Nat.mod_eq_of_lt]; have := List.mem_range.1 hlt; omega
    rw [hnat]
    exact ⟨hbit, fun j hj => by simpa using hbelow j hj⟩
  · next ht =>
    refine absurd (BitVec.eq_of_getLsbD_eq (fun j hj => ?_)) h
    simpa using List.find?_eq_none.1 ht j (List.mem_range.2 hj)

theorem ffr_eq (h : s.Starts (.tagwFfr o)) (hd : dstOk o.d = true) (hacc : s.accepts o.d = true) (ha : s.Gives o.a o.x a u) :
    exec (.tagwFfr o) s = finish o.d (lowestBit (a &&& s.myCore.tags)) u := by
  rw [← (jobs_of_gives ha).1]
  exact unary_of_gives o _ h (by rw [ha.1, hd]; rfl) hacc ha

/-- A sum of powers of two over a set of places is the number with those bits. -/
theorem testBit_sum (p : Nat → Bool) (n : Nat) : (List.range n).foldl (fun m t => if p t then m + 2 ^ t else m) 0 < 2 ^ n ∧
    ∀ j, ((List.range n).foldl (fun m t => if p t then m + 2 ^ t else m) 0).testBit j = (decide (j < n) && p j) := by
  induction n with
  | zero => exact ⟨Nat.one_pos, fun j => Nat.zero_testBit j⟩
  | succ n ih =>
    obtain ⟨hlt, hbit⟩ := ih
    rw [List.range_succ, List.foldl_append]
    generalize (List.range n).foldl (fun m t => if p t then m + 2 ^ t else m) 0 = m at hlt hbit ⊢
    simp only [List.foldl_cons, List.foldl_nil]
    have hpow : 2 ^ (n + 1) = 2 ^ n + 2 ^ n := by omega
    cases hp : p n with
    | false =>
      refine ⟨by simp only [Bool.false_eq_true, if_false]; omega, fun j => ?_⟩
      simp only [Bool.false_eq_true, if_false, hbit]
      by_cases hj : j = n
      · simp [hj, hp]
      · rw [decide_eq_decide.2 (show j < n ↔ j < n + 1 by omega)]
    | true =>
      refine ⟨by simp only [if_true]; omega, fun j => ?_⟩
      simp only [if_true]
      rcases Nat.lt_trichotomy j n with hj | rfl | hj
      · rw [Nat.add_comm, Nat.testBit_two_pow_add_gt hj, hbit, decide_eq_true hj, decide_eq_true (by omega : j < n + 1)]
      · rw [Nat.add_comm, Nat.testBit_two_pow_add_eq, Nat.testBit_lt_two_pow hlt, hp, decide_eq_true (Nat.lt_succ_self j)]
        rfl
      · rw [Nat.testBit_lt_two_pow (Nat.lt_of_lt_of_le (by omega) (Nat.pow_le_pow_right (by omega) (by omega : n + 1 ≤ j))), decide_eq_false (by omega), Bool.false_and]

/-- The bits of the masked tags that are idle. -/
def Core.idleMask (c : Core) (a : Word) : Word := word ((List.range 64).foldl (fun n t => if a.getLsbD t && c.tagIdle t then n + 2 ^ t else n) 0)

theorem getLsbD_idleMask (c : Core) (a : Word) {j : Nat} (hj : j < 64) : (c.idleMask a).getLsbD j = (a.getLsbD j && c.tagIdle j) := by
  rw [Core.idleMask, word, BitVec.getLsbD_ofNat, (testBit_sum _ 64).2, decide_eq_true hj, Bool.true_and, Bool.true_and]

theorem clr_completes (o : FmtSrc) (h : s.Starts (.tagwClr o)) (ha : s.Gives o.a o.x a u) :
    Completes (.tagwClr o) s (u.modMyCore (fun c => { c with tags := s.myCore.tags &&& ~~~(s.myCore.idleMask a) })) := by
  obtain ⟨htags, hcount, -, -⟩ := jobs_of_gives ha
  have hidle (t : Nat) : u.myCore.tagIdle t = s.myCore.tagIdle t := by rw [Core.tagIdle, Core.tagIdle, hcount]
  have hmask : u.myCore.idleMask a = s.myCore.idleMask a := by simp only [Core.idleMask, hidle]
  refine completes_of_exec ?_ (cur_of_keepsStrand h.begins (KeepsStrand.modCore (fun _ => rfl) (KeepsStrand.gives ha h.begins.slot_lt)))
  have he : exec (.tagwClr o) s = execTagwClr o s := rfl
  rw [execTagwClr, ha.1, plain_of_starts h, readSrc_of_gives (by rw [h.begins.reads_eq]; rfl) ha] at he
  refine he.trans (congrArg complete (modCore_congr ?_))
  rw [← htags, ← hmask]
  rfl

end tags

/-! `jwait` (R214, R215). -/

section jwait

variable {o : FmtUn} {a b : Word}

theorem poll_cases (h : s.Starts (.jwaitPoll o)) (hd : dstOk o.d = true) (hacc : s.accepts o.d = true) (ha : s.Gives o.a o.x a u) :
    exec (.jwaitPoll o) s = if s.myCore.jobBad a.toNat = true then trap .jobId a u else finish o.d (s.myCore.jobStatus a.toNat) u := by
  rw [← jobBad_of_gives ha, ← jobStatus_of_gives ha]
  exact unary_of_gives o _ h (by rw [ha.1, hd]; rfl) hacc ha

theorem sleep_cases (h : s.Starts (.jwaitSleep o)) (hd : dstOk o.d = true) (hacc : s.accepts o.d = true) (ha : s.Gives o.a o.x a u) :
    exec (.jwaitSleep o) s = if s.myCore.jobBad a.toNat = true then trap .jobId a u
      else if s.myCore.jobStatus a.toNat = 0 then park (.job a.toNat a.toNat) u else finish o.d (s.myCore.jobStatus a.toNat) u := by
  rw [← jobBad_of_gives ha, ← jobStatus_of_gives ha]
  exact unary_of_gives o _ h (by rw [ha.1, hd]; rfl) hacc ha

/-- What `jwait.any` does once its ids are those of jobs: a range of 64 or more traps, and any other ends with its first job that is no longer pending. -/
def anyOf (o : FmtA) (a b : Word) (s : State) : Out :=
  if 64 ≤ (b.toNat + jobCycle - a.toNat) % jobCycle then trap .jobId a s
  else if (jobIds a.toNat b.toNat).any s.myCore.jobFuture then trap .jobId a s
  else match (jobIds a.toNat b.toNat).find? (fun i => decide (s.myCore.jobStatus i ≠ 0)) with
    | some i => finish o.d (word i) s
    | none => park (.job a.toNat b.toNat) s

theorem any_eq (o : FmtA) (h : s.Starts (.jwaitAny o)) (hd : dstOk o.d = true) (hacc : s.accepts o.d = true) (ha : s.Gives o.a o.x a u) (hb : u.Gives o.b o.y b v)
    (hja : s.myCore.jobBad a.toNat = false) (hjb : s.myCore.jobBad b.toNat = false) : exec (.jwaitAny o) s = anyOf o a b v := by
  rw [← jobBad_of_gives ha, ← jobBad_of_gives hb] at hja hjb
  have he : exec (.jwaitAny o) s = execJwaitAny o s := rfl
  rw [execJwaitAny, ha.1, hb.1, hd, Bool.and_self, Bool.and_self, plain_of_starts h, withDst_of_accepts _ _ hacc,
    two_of_gives o a b u v _ h.begins.reads_eq h.begins.slot_lt ha hb] at he
  exact he.trans ((if_neg (ne_true_of_eq_false hja)).trans ((if_neg (ne_true_of_eq_false hjb)).trans rfl))

theorem jobBad_iff (c : Core) (i : Nat) : c.jobBad i = true ↔ (i = 0 ∨ 2 ^ 48 - 1 < i ∨ (c.jobsPlaced < 2 ^ 48 - 1 ∧ c.jobsPlaced < i)) := by
  simp only [Core.jobBad, Core.jobFuture, Bool.or_eq_true, Bool.and_eq_true, decide_eq_true_eq, or_assoc]
  rfl

end jwait

/-- Settles O42, by the cases of each form. -/
theorem copyTagsAndJobWaits : Obligations.CopyTagsAndJobWaits := by
  unfold Obligations.CopyTagsAndJobWaits
  refine ⟨⟨fun o s u a hd hacc ha => ⟨fun h => ?any, fun h => ?all, fun h hroom => ?ffr⟩, fun o s u a h ha => ⟨_, clr_completes o h ha, fun j hj => ?clr⟩⟩,
    fun o s u a hd hacc ha => ⟨fun h => ?poll, fun h => ?sleep⟩, fun o s u v a b h hd hacc ha hb hja hjb => ?jany, jobBad_iff⟩
  case any =>
    have hcur := cur_of_keepsStrand h.begins (KeepsStrand.gives ha h.begins.slot_lt)
    refine ⟨fun hgo hroom => completes_of_finish ((waitany_cases h hd hacc ha).trans (if_pos ?_)) hroom hcur,
      fun hne hno => (waitany_cases h hd hacc ha).trans (if_neg ?_)⟩
    · rcases hgo with h0 | hr
      · rw [decide_eq_true h0, Bool.true_or]
      · rw [decide_eq_true hr, Bool.or_true]
    · rw [decide_eq_false hne, decide_eq_false (not_not.2 hno)]
      exact Bool.false_ne_true
  case all =>
    have hcur := cur_of_keepsStrand h.begins (KeepsStrand.gives ha h.begins.slot_lt)
    exact ⟨fun hall hroom => completes_of_finish ((waitall_cases h hd hacc ha).trans (if_pos hall)) hroom hcur,
      fun hno => (waitall_cases h hd hacc ha).trans (if_neg hno)⟩
  case ffr =>
    have hcur := cur_of_keepsStrand h.begins (KeepsStrand.gives ha h.begins.slot_lt)
    exact ⟨_, completes_of_finish (ffr_eq h hd hacc ha) hroom hcur, fun h0 => by rw [h0, lowestBit_zero], lowestBit_spec⟩
  case clr => rw [BitVec.getLsbD_and, BitVec.getLsbD_not, getLsbD_idleMask _ _ hj, decide_eq_true hj, Bool.true_and]
  case poll =>
    have hk := KeepsStrand.gives ha h.begins.slot_lt
    exact ⟨fun hbad => traps_of_trap ((poll_cases h hd hacc ha).trans (if_pos hbad)) hk,
      fun hok hroom => completes_of_finish ((poll_cases h hd hacc ha).trans (if_neg (ne_true_of_eq_false hok))) hroom (cur_of_keepsStrand h.begins hk)⟩
  case sleep =>
    have hk := KeepsStrand.gives ha h.begins.slot_lt
    have hgo (hok : s.myCore.jobBad a.toNat = false) := (sleep_cases h hd hacc ha).trans (if_neg (ne_true_of_eq_false hok))
    exact ⟨fun hbad => traps_of_trap ((sleep_cases h hd hacc ha).trans (if_pos hbad)) hk,
      fun hok hne hroom => completes_of_finish ((hgo hok).trans (if_neg hne)) hroom (cur_of_keepsStrand h.begins hk), fun hok h0 => (hgo hok).trans (if_pos h0)⟩
  case jany =>
    have hk := KeepsStrand.givesTwo h.begins ha hb
    have hany := any_eq o h hd hacc ha hb hja hjb
    have hstatus (n : Nat) : v.myCore.jobStatus n = s.myCore.jobStatus n := (jobStatus_of_gives hb n).trans (jobStatus_of_gives ha n)
    have hfuture : v.myCore.jobFuture = s.myCore.jobFuture := funext (fun n => (jobFuture_of_gives hb n).trans (jobFuture_of_gives ha n))
    refine ⟨fun hfar => traps_of_trap (hany.trans (if_pos hfar)) hk, fun hnear hhad => ?_⟩
    have hgo : anyOf o a b v = _ := (if_neg (Nat.not_le.2 hnear)).trans (if_neg (by rw [hfuture, hhad]; exact Bool.false_ne_true))
    refine ⟨fun i pre post hids hpre hi hroom => completes_of_finish (hany.trans (hgo.trans ?_)) hroom (cur_of_keepsStrand h.begins hk), fun hnone => hany.trans (hgo.trans ?_)⟩
    · have hfind : (jobIds a.toNat b.toNat).find? (fun i => decide (v.myCore.jobStatus i ≠ 0)) = some i := by
        rw [hids, List.find?_append, List.find?_eq_none.2 (fun j hj => by rw [hstatus, hpre j hj]; decide), Option.none_or,
          List.find?_cons_of_pos (by rw [hstatus]; exact decide_eq_true hi)]
      rw [hfind]
    · have hfind : (jobIds a.toNat b.toNat).find? (fun i => decide (v.myCore.jobStatus i ≠ 0)) = none :=
        List.find?_eq_none.2 (fun j hj => by rw [hstatus, hnone j hj]; decide)
      rw [hfind]
      rfl

end Sys2Proof.Machine
end

/-! The time at which a record has been read (O43, O54). -/
section
namespace Sys2Proof.Machine

variable {s s0 t u v w : State} {i : Instr}

/-- Two continuations that agree wherever a translation can lead give the same answer. -/
theorem accessBy_congr_of {P : State → Prop} {y : Way} {kd : Acc} {a : Word} {n al : Nat} {pre : Addr → Bool} {k k' : Place → State → Out} (hs : P s)
    (htr : ∀ va, P (translate s s.issuer kd va n).2) (h : ∀ p t, P t → k p t = k' p t) : accessBy y kd a n al pre s k = accessBy y kd a n al pre s k' := by
  cases hr : resolve s s.myCluster s.me.sag a n with
  | none => rw [accessBy_unresolved hr, accessBy_unresolved hr]
  | some ad =>
    rw [accessBy_resolved hr, accessBy_resolved hr]
    have hgo : goTo y kd a n k s ad = goTo y kd a n k' s ad := by
      cases ad with
      | scratch c off => exact arrive_congr (fun p => h p s hs)
      | slice cl off => exact arrive_congr (fun p => h p s hs)
      | global va =>
        have ht := htr va
        obtain ⟨r, t, e⟩ : ∃ r t, translate s s.issuer kd va n = (r, t) := ⟨_, _, Prod.mk.eta.symm⟩
        rw [e] at ht
        rw [goTo_global e, goTo_global e]
        cases r with
        | ok loc => exact arrive_congr (fun p => h p t ht)
        | replay why loc => exact arrive_congr (fun p => h p t ht)
        | waits => rfl
        | permission => rfl
        | lease v => rfl
        | broken f => rfl
    rw [hgo]

theorem time_countPoison (c k g : Nat) : (s.countPoison c k g).time = s.time := State.modSag_time ..

theorem time_countStray (g c : Nat) : (s.countStray g c).time = s.time := by rw [countStray_eq]

theorem time_sendRead (l : Nat) : (s.sendRead l).time = s.time := by
  unfold State.sendRead
  split
  · exact (KeepsStrands.refl s).wakeHome.time
  · split <;> rfl

theorem readDwords_congr_time {u : State} (n : Nat) {T : Nat} {k k' : List Word → State → Out} (h : ∀ r t, t.time = T → k r t = k' r t) :
    ∀ {s : State} (a : Word) (acc : List Word), s.time = T → readDwords u n a acc s k = readDwords u n a acc s k' := by
  induction n with
  | zero => exact fun a acc hs => h _ _ hs
  | succ n ih =>
    intro s a acc hs
    rw [readDwords, readDwords]
    refine accessBy_congr_of (P := fun t => t.time = T) hs (fun va => (KeepsStrands.refl s).translate.time.trans hs) (fun p t ht => ?_)
    have hread : (((t.meet p.loc 8).sendRead p.loc).countStray t.me.sag (t.tagFor p)).time = T :=
      (time_countStray _ _).trans ((time_sendRead _).trans (((KeepsStrands.refl t).meet _ _).time.trans ht))
    dsimp only
    split
    · rfl
    · split
      · exact ih _ _ hread
      · split
        · rfl
        · exact ih _ _ ((time_countPoison _ _ _).trans hread)

theorem readRecord_congr_time {j n : Nat} {a : Word} {k k' : List Word → State → Out} (h : ∀ r t, t.time = s.time → k r t = k' r t) :
    readRecord j a n s k = readRecord j a n s k' := by
  have hpush (r : List Word) (t : State) : (r.foldl (fun (s : State) w => s.pushRead ⟨w, .nothing⟩) t).time = t.time := by
    induction r generalizing t with
    | nil => rfl
    | cons x r ih => exact ih _
  unfold readRecord readRecordOf
  split
  · exact h _ _ rfl
  · split
    · rfl
    · split
      · rfl
      · exact readDwords_congr_time n (fun r t ht => h _ _ ((hpush r t).trans ht)) _ _ rfl

/-- A record that can be read is read at once. -/
theorem Reads.time {j n : Nat} {a : Word} {r : List Word} (h : Reads j a n s r t) : t.time = s.time := by
  by_contra hn
  have hcongr := readRecord_congr_time (s := s) (j := j) (n := n) (a := a) (k := fun _ _ => .refused (.notModelled ""))
    (k' := fun _ t => if t.time = s.time then .refused (.notModelled "") else .next t) (fun r t ht => (if_pos ht).symm)
  rw [h, h, if_neg hn] at hcongr
  cases hcongr

theorem time_of_gives {c : Code} {y : Bool} {x : Word} (h : s.slot < 16) (hg : s.Gives c y x u) : u.time = s.time := by
  obtain ⟨-, -, rfl⟩ := hg
  exact (OperandFrame.took (d := 0) c y x h).time

theorem time_of_givesTwo {c c' : Code} {y y' : Bool} {a b : Word} (h : s.Begins i) (ha : s.Gives c y a u) (hb : u.Gives c' y' b v) : v.time = s.time :=
  (time_of_gives ((KeepsStrand.gives ha h.slot_lt).slot ▸ h.slot_lt) hb).trans (time_of_gives h.slot_lt ha)

/-- The place of a strand's operation among those of its cycle is the same from its first check on (R275, R375). -/
theorem tooLate_of_keepsStrand (hk : KeepsStrand s t) (ht : t.time = s.time) (last : Nat × Nat) : t.tooLate last t.myRank = s.tooLate last s.myRank := by
  rw [State.tooLate, State.tooLate, State.poolCycle, State.poolCycle, ht, State.myRank, State.myRank, hk.core, hk.slot]

theorem place_of_keepsStrand (hk : KeepsStrand s t) (ht : t.time = s.time) : (t.poolCycle, t.myRank) = (s.poolCycle, s.myRank) := by
  rw [State.poolCycle, State.poolCycle, ht, State.myRank, State.myRank, hk.core, hk.slot]

end Sys2Proof.Machine
end

/-! Spawns and completion signals (O43). -/
section
namespace Sys2Proof.Machine

variable {s s0 t u v w : State} {i : Instr} {m : Msg} {k : Nat}

/-! `spawn` (R200, R249). -/

/-- A form with two sources and one destination reads its sources (R109). -/
theorem binary_of_gives (o : FmtA) {a b : Word} {ok : Bool} (k : Word → Word → State → Out) (h : s.Starts i) (hok : ok = true) (hacq : s.acquirePending = false)
    (hacc : s.accepts o.d = true) (ha : s.Gives o.a o.x a u) (hb : u.Gives o.b o.y b v) :
    plain ok s (fun s => ordered s (fun s => withDst o.d s (fun s => two o s k))) = k a b v := by
  rw [hok, plain_of_starts h, ordered_of_free _ hacq, withDst_of_accepts _ _ hacc, two_of_gives o a b u v _ h.begins.reads_eq h.begins.slot_lt ha hb]

theorem spawn_awaits (o : FmtA) {a b : Word} {c : Nat} {r : List Word} (h : s.Starts (.spawn o)) (hacq : s.acquirePending = false) (hd : dstOk o.d = true)
    (hacc : s.accepts o.d = true) (ha : s.Gives o.a o.x a u) (hb : u.Gives o.b o.y b v) (hres : resolve v v.myCluster v.me.sag a 24 ≠ none)
    (hc : v.coreNamed b false = some c) (hr : Reads 2 a 3 v r t) (heven : (r.getD 0 0).getLsbD 0 = false) (hrel : t.releaseOk 2 = true) :
    Awaits (.spawn o) s (t.post 1 t.me.ctx 0 0 0 ⟨.core, c, 0⟩
      (.spawn (r.getD 0 0) (r.getD 1 0) (r.getD 2 0) (bitsOf t.me.st 0 2) t.me.tspace t.me.priv)) o.d.toNat := by
  have hsome : (resolve v v.myCluster v.me.sag a 24).isNone = false := Option.isNone_eq_false_iff.2 (Option.isSome_iff_ne_none.2 hres)
  change execSpawn o s = _
  rw [execSpawn, binary_of_gives o _ h (by rw [ha.1, hb.1, hd]; rfl) hacq hacc ha hb, hsome, Bool.and_false, if_neg Bool.false_ne_true, hc]
  refine (hr _).trans ?_
  exact (if_neg (ne_true_of_eq_false heven)).trans (releasing_ok hrel _)

section request

variable {pc a0 a1 : Word} {rm ts b j : Nat} {pr : Bool}

/-- What a core does with a spawn that has come to it and that it looks at in this cycle. -/
theorem spawnRequest_eq (hm : s.net[k]? = some m) (hb : m.body = .spawn pc a0 a1 rm ts pr) (hbar : s.barred k m = false) (hlock : s.relocking m.home.unit = false)
    (hopen : (s.coreAt m.home.unit).stopped = false ∧ (s.coreAt m.home.unit).saved = none ∧ (s.coreAt m.home.unit).awaited m.sag = false)
    (hdue : s.helperDue m.home.unit = false) (hbeat : s.grantBeat m.home.unit = some b) (hran : s.ranBeat m.home.unit b = true) :
    exec (.spawnRequest k) s = match (s.coreAt m.home.unit).freeHelper b with
      | none => .next ((s.dropMsg k).replyTo m 0)
      | some j =>
        let z := (s.coreAt m.home.unit).slotAt 0
        let t := (s.dropMsg k).enter m.home.unit j b (fun n => { n with
          pc := pc, s := Tbl.set (Tbl.set (Tbl.set [] 1 a0 0) 2 a1 0) 3 (word (m.core * 16 + m.slot)) 0, st := word rm, ctx := m.ctx, tspace := ts,
          tvec := z.tvec, heapb := z.heapb, heapl := z.heapl, heapo := z.heapo, priv := pr, sag := m.sag, task := m.task })
        .next ((t.wakeUnit m.home.unit).replyTo m (word j)) := by
  obtain ⟨hstop, hsaved, haway⟩ := hopen
  change execSpawnRequest k s = _
  rw [execSpawnRequest, hm]
  dsimp only
  rw [hb]
  dsimp only
  rw [hlock, hbar, hstop, hsaved, haway, hdue, hbeat]
  dsimp only
  rw [hran]
  rfl

theorem spawnRequest_bounced (hm : s.net[k]? = some m) (hb : m.body = .spawn pc a0 a1 rm ts pr) (hbar : s.barred k m = false) (hlock : s.relocking m.home.unit = false)
    (hshut : (s.coreAt m.home.unit).stopped = true ∨ (s.coreAt m.home.unit).saved.isSome = true ∨ (s.coreAt m.home.unit).awaited m.sag = true) :
    exec (.spawnRequest k) s = .next ((s.dropMsg k).replyTo m 0) := by
  change execSpawnRequest k s = _
  rw [execSpawnRequest, hm]
  dsimp only
  rw [hb]
  dsimp only
  rw [hlock, hbar, if_neg Bool.false_ne_true, if_neg Bool.false_ne_true, if_pos (by simpa only [Bool.or_eq_true, or_assoc] using hshut)]

/-- The strand that a spawn starts (R200). -/
def spawned (m : Msg) (z : Strand) (pc a0 a1 : Word) (rm ts : Nat) (pr : Bool) (n : Strand) : Strand := { n with
  pc := pc, s := Tbl.set (Tbl.set (Tbl.set [] 1 a0 0) 2 a1 0) 3 (word (m.core * 16 + m.slot)) 0, st := word rm, ctx := m.ctx, tspace := ts,
  tvec := z.tvec, heapb := z.heapb, heapl := z.heapl, heapo := z.heapo, priv := pr, sag := m.sag, task := m.task }

theorem sreg_spawned (m : Msg) (z : Strand) (n : Strand) : (spawned m z pc a0 a1 rm ts pr n).sreg 1 = a0 ∧ (spawned m z pc a0 a1 rm ts pr n).sreg 2 = a1 ∧
    (spawned m z pc a0 a1 rm ts pr n).sreg 3 = word (m.core * 16 + m.slot) := by
  have h1 : Tbl.sortedFrom 0 (Tbl.set ([] : List (Nat × Word)) 1 a0 0) = true := sortedFrom_set _ _ _ _ rfl
  have h2 : Tbl.sortedFrom 0 (Tbl.set (Tbl.set ([] : List (Nat × Word)) 1 a0 0) 2 a1 0) = true := sortedFrom_set _ _ _ _ h1
  refine ⟨?_, ?_, Tbl.get_set_same _ _ _ _ h2⟩
  · exact (Tbl.get_set_other _ _ _ _ _ (by decide)).trans ((Tbl.get_set_other _ _ _ _ _ (by decide)).trans (Tbl.get_set_same _ _ _ _ rfl))
  · exact (Tbl.get_set_other _ _ _ _ _ (by decide)).trans (Tbl.get_set_same _ _ _ _ h1)

theorem strandAt_wakeUnit (c c' k : Nat) : (s.wakeUnit c).strandAt c' k = s.strandAt c' k := (KeepsStrands.refl s).wakeUnit.strands c' k

/-- A wake leaves every part of a core but whether it is gated. -/
theorem core_wakeUnit {β : Type} {p : Core → β} (hp : ∀ (x : Core), p { x with gated := false } = p x) (c c' : Nat) :
    p ((s.wakeUnit c).coreAt c') = p (s.coreAt c') := by
  have hdie (t : State) (d : Nat) : (t.wakeDie d).coreAt c' = t.coreAt c' := by
    unfold State.wakeDie
    split <;> rfl
  rw [State.wakeUnit, hdie]
  split
  · exact coreAt_modCore_keeps (by exact hp) c'
  · rfl

theorem strandAt_enter (c : Nat) (f : Strand → Strand) :
    (s.enter c j b f).strandAt c j = f { Strand.empty with live := true, uid := s.serial, nextIssue := b + 1 } :=
  (strandAt_modCore (by intro x; rfl) c j).trans (State.strandAt_modStrand (s := s) ..)

theorem grantNext_enter (c : Nat) (f : Strand → Strand) : ((s.enter c j b f).coreAt c).grantNext = max (s.coreAt c).grantNext (b + 1) := by
  refine (congrArg Core.grantNext (State.coreAt_modCore ..)).trans ?_
  have hmod (g : Strand → Strand) : ((s.modStrand c j g).coreAt c).grantNext = (s.coreAt c).grantNext :=
    coreAt_modCore_keeps (p := Core.grantNext) (by intro x; rfl) c
  exact congrArg (max · (b + 1)) (hmod _)

theorem grantNext_le_of_grantBeat {c : Nat} (h : s.grantBeat c = some b) : (s.coreAt c).grantNext ≤ b := by
  unfold State.grantBeat at h
  extract_lets n at h
  split at h
  · rw [← Option.some.inj h]
    exact Nat.le_max_left ..
  · cases h

end request

/-! Signals (R205 to R207). -/

theorem signal_cases (o : FmtTwo) {a b : Word} (h : s.Starts (.signal o)) (hacq : s.acquirePending = false) (hpend : s.me.pend < 16) (ha : s.Gives o.a o.x a u)
    (hb : u.Gives o.b o.y b v) : exec (.signal o) s = signalAccess .update a v (fun p s => releasing (if offDevice p.loc then 3 else 2) s (fun s =>
      if s.crosses false (homeOf p.loc) p.loc 8 then hold s else sendWrite p 1 0 8 (.atomic .add b 0 false) s (fun s => complete s.addPend))) := by
  have hroom : s.pendRoom = true := decide_eq_true hpend
  change execSignal o s = _
  rw [execSignal, ha.1, hb.1, Bool.and_self, plain_of_starts h, ordered_of_free _ hacq, hroom, Bool.not_true, if_neg Bool.false_ne_true,
    readSrc_of_gives (by rw [h.begins.reads_eq]; rfl) ha, readSrc_of_gives (length_reads_of_first h.begins ha) hb]

theorem signalAccess_of_admits {kd : Acc} {a : Word} {p : Place} (k : Place → State → Out) (h0 : bitsOf a 60 4 = 0) (hadm : Admits kd a 8 8 (fun _ => true) s p t) :
    signalAccess kd a s k = k p t := (if_neg (not_not.2 h0)).trans (hadm _ k)

theorem signal_completes (o : FmtTwo) {a b : Word} {p : Place} (h : s.Starts (.signal o)) (hacq : s.acquirePending = false) (hpend : s.me.pend < 16)
    (ha : s.Gives o.a o.x a u) (hb : u.Gives o.b o.y b v) (h0 : bitsOf a 60 4 = 0) (hadm : Admits .update a 8 8 (fun _ => true) v p t)
    (hrel : t.releaseOk (if offDevice p.loc then 3 else 2) = true) (hc : t.crosses false (homeOf p.loc) p.loc 8 = false) (hs : t.Sends p) :
    Completes (.signal o) s ((t.post 1 0 p.named p.loc 8 (homeOf p.loc) (.atomic .add b 0 false)).modMe (fun m => { m with pend := m.pend + 1 })) := by
  have hk : KeepsStrand s t := (KeepsStrand.givesTwo h.begins ha hb).trans hadm.keepsStrand
  refine completes_of_exec ?_ ((congrArg Strand.cur (State.me_modMe ..)).trans (cur_of_keepsStrand h.begins hk.post))
  rw [signal_cases o h hacq hpend ha hb, signalAccess_of_admits _ h0 hadm, releasing_ok hrel, hc, if_neg Bool.false_ne_true, sendWrite_of_sends _ hs]
  rfl

theorem swait_awaits (o : FmtA) {a b : Word} {p : Place} (h : s.Starts (.swait o)) (hacq : s.acquirePending = false) (hd : dstOk o.d = true)
    (hacc : s.accepts o.d = true) (ha : s.Gives o.a o.x a u) (hb : u.Gives o.b o.y b v) (h0 : bitsOf a 60 4 = 0)
    (hadm : Admits .load a 8 8 (fun _ => true) v p t) (ho : t.parkedOverlap p.named 8 = false) (hc : t.crosses true (homeOf p.loc) p.loc 8 = false)
    (hroom : t.requestRoom 1 = true) : Awaits (.swait o) s (t.post 1 0 p.named p.loc 8 (homeOf p.loc) (.swait b)) o.d.toNat := by
  change execSwait o s = _
  rw [execSwait, binary_of_gives o _ h (by rw [ha.1, hb.1, hd]; rfl) hacq hacc ha hb, signalAccess_of_admits _ h0 hadm, ho, if_neg Bool.false_ne_true, hroom, hc]
  rfl

/-- An `swait` at the home of a sound word is answered where its bound is reached, and waits where it is not (R207). -/
theorem swaitArrive_eq {m : Msg} {b : Word} (hd : s.anyDead m.loc 8 = false) :
    s.swaitArrive m b = if b.sle (s.dword m.loc) then s.replyTo m (s.dword m.loc) else s.listWaiter m .signal := by
  have hfenced : s.fenced m.loc = false := by
    have h0 := List.any_eq_false.1 hd 0 (by decide)
    rw [Nat.add_zero, State.dead, Bool.not_eq_true, Bool.or_eq_false_iff] at h0
    exact h0.2
  have hvalue : s.signalValue m.loc = s.dword m.loc := if_neg (ne_true_of_eq_false hd)
  have hanswer : s.replyLoad m (s.anyDead m.loc 8) (s.dword m.loc) = s.replyTo m (s.dword m.loc) := if_pos (by rw [hd]; rfl)
  rw [State.swaitArrive, hvalue, hanswer, hfenced, Bool.false_or]

theorem swaitArrive_met {m : Msg} {b : Word} (hd : s.anyDead m.loc 8 = false) (hle : b.toInt ≤ (s.dword m.loc).toInt) :
    s.swaitArrive m b = s.replyTo m (s.dword m.loc) := by
  rw [swaitArrive_eq hd, BitVec.sle, decide_eq_true hle, if_pos rfl]

theorem swaitArrive_unmet {m : Msg} {b : Word} (hd : s.anyDead m.loc 8 = false) (hlt : (s.dword m.loc).toInt < b.toInt) :
    s.swaitArrive m b = s.listWaiter m .signal := by
  rw [swaitArrive_eq hd, BitVec.sle, decide_eq_false (Int.not_le.2 hlt), if_neg Bool.false_ne_true]

/-- An `swait` is performed at its home. -/
theorem exec_homeAccess_swait {h : HomeSel} {b : Word} (he : h.engine = false) (hecc : h.ecc = ⟨false, false⟩) (ha : s.Arrives h.k m) (hb : m.body = .swait b) :
    exec (.homeAccess h) s = .next ((s.dropMsg h.k).swaitArrive m b) := by
  have hclean := ha.2.2.2.2.2.2.2.1
  have hperform : (s.dropMsg h.k).perform m ⟨false, false⟩ = (s.dropMsg h.k).swaitArrive m b := by
    rw [State.perform, hb]
    exact congrArg (State.swaitArrive · m b) (strike_of_clean (s := s.dropMsg h.k) hclean)
  rw [exec_homeAccess_of_arrives he hecc ha (by rw [hb]; rfl), hperform]

end Sys2Proof.Machine
end

/-! Task queues (O43). -/
section
namespace Sys2Proof.Machine

variable {s s0 t u v w : State} {i : Instr}

/-! The entries that a pop takes (R202, R203). -/

/-- Looking up every place of a list gives the list. -/
theorem filterMap_getElem {α : Type} (l : List α) : (List.range l.length).filterMap (fun i => l[i]?) = l := by
  induction l with
  | nil => rfl
  | cons a l ih =>
    rw [List.length_cons, List.range_succ_eq_map, List.filterMap_cons_some (List.getElem?_cons_zero), List.filterMap_map]
    exact congrArg (a :: ·) ih

theorem length_filterMap_getElem {α : Type} {r : List α} {l : List Nat} (h : ∀ i ∈ l, i < r.length) : (l.filterMap (fun i => r[i]?)).length = l.length := by
  induction l with
  | nil => rfl
  | cons i l ih =>
    rw [List.filterMap_cons_some (List.getElem?_eq_getElem (h i List.mem_cons_self)), List.length_cons, List.length_cons,
      ih (fun j hj => h j (List.mem_cons_of_mem _ hj))]

/-- The places that are on a list of distinct places and those that are not are all places. -/
theorem length_split {n : Nat} {l : List Nat} (hd : l.Nodup) (hl : ∀ i ∈ l, i < n) : l.length + ((List.range n).filter (fun i => !l.contains i)).length = n := by
  have hin : ((List.range n).filter (fun i => l.contains i)).length = l.length := by
    refine ((List.perm_ext_iff_of_nodup (List.nodup_range.filter _) hd).2 (fun i => ?_)).length_eq
    rw [List.mem_filter, List.mem_range, List.contains_iff_mem]
    exact ⟨fun h => h.2, fun h => ⟨hl i h, h⟩⟩
  have hsplit := List.length_eq_length_filter_add (l := List.range n) (fun i => l.contains i)
  rw [hin, List.length_range] at hsplit
  exact hsplit.symm

/-- The places of a ring whose entries a pop of n takes. -/
def takenPlaces (n : Nat) (e : QEntry) (ring : List QEntry) : List Nat :=
  ((List.range (min 64 ring.length)).filter (fun i => match ring[i]? with | some x => decide (x.pc = e.pc) | none => false)).take n

theorem takeEntries_cons (n : Nat) (e : QEntry) (l : List QEntry) : takeEntries n (e :: l) =
    ((takenPlaces n e (e :: l)).filterMap (fun i => (e :: l)[i]?),
      ((List.range (e :: l).length).filter (fun i => !(takenPlaces n e (e :: l)).contains i)).filterMap (fun i => (e :: l)[i]?)) := rfl

theorem takenPlaces_spec {n : Nat} {e : QEntry} {ring : List QEntry} : (takenPlaces n e ring).Nodup ∧ (takenPlaces n e ring).length ≤ n ∧
    ∀ i ∈ takenPlaces n e ring, ∃ x, ring[i]? = some x ∧ x.pc = e.pc := by
  refine ⟨(List.nodup_range.filter _).sublist (List.take_sublist ..), List.length_take_le .., fun i hi => ?_⟩
  have hp := (List.mem_filter.1 (List.mem_of_mem_take hi)).2
  split at hp
  · next x hx => exact ⟨x, hx, of_decide_eq_true hp⟩
  · cases hp

/-- The oldest entry is taken first. -/
theorem takenPlaces_cons (n : Nat) (e : QEntry) (l : List QEntry) : ∃ is : List Nat, takenPlaces (n + 1) e (e :: l) = 0 :: is.take n := by
  have hmin : min 64 (e :: l).length = min 63 l.length + 1 := by rw [List.length_cons]; omega
  unfold takenPlaces
  rw [hmin, List.range_succ_eq_map, List.filter_cons_of_pos (by rw [List.getElem?_cons_zero]; exact decide_eq_true rfl)]
  exact ⟨_, List.take_succ_cons⟩

theorem takeEntries_one (e : QEntry) (l : List QEntry) : takeEntries 1 (e :: l) = ([e], l) := by
  obtain ⟨is, his⟩ := takenPlaces_cons 0 e l
  have hrest : (List.range (e :: l).length).filter (fun i => !(List.contains [0] i)) = (List.range l.length).map Nat.succ := by
    rw [List.length_cons, List.range_succ_eq_map, List.filter_cons_of_neg (by simp), List.filter_eq_self.2]
    intro i hi
    obtain ⟨j, -, rfl⟩ := List.mem_map.1 hi
    simp
  rw [takeEntries_cons, his, List.take_zero, hrest, List.filterMap_map]
  exact congrArg (Prod.mk [e]) (filterMap_getElem l)

theorem takeEntries_spec {n : Nat} (e : QEntry) (l : List QEntry) (hn : 0 < n) : (takeEntries n (e :: l)).1.head? = some e ∧ (takeEntries n (e :: l)).1.length ≤ n ∧
    (∀ x ∈ (takeEntries n (e :: l)).1, x.pc = e.pc) ∧ (takeEntries n (e :: l)).1.length + (takeEntries n (e :: l)).2.length = l.length + 1 := by
  obtain ⟨hdistinct, hlen, hpc⟩ := takenPlaces_spec (n := n) (e := e) (ring := e :: l)
  have hlt (i : Nat) (hi : i ∈ takenPlaces n e (e :: l)) : i < (e :: l).length := by
    obtain ⟨x, hx, -⟩ := hpc i hi
    exact (List.getElem?_eq_some_iff.1 hx).1
  rw [takeEntries_cons]
  refine ⟨?_, (List.length_filterMap_le ..).trans hlen, fun x hx => ?_, ?_⟩
  · obtain ⟨n, rfl⟩ := Nat.exists_eq_add_of_lt hn
    obtain ⟨is, his⟩ := takenPlaces_cons (0 + n) e l
    rw [his]
    rfl
  · obtain ⟨i, hi, hix⟩ := List.mem_filterMap.1 hx
    obtain ⟨y, hy, hpcy⟩ := hpc i hi
    rw [Option.some.inj (hix.symm.trans hy), hpcy]
  · rw [length_filterMap_getElem hlt, length_filterMap_getElem (fun i hi => List.mem_range.1 (List.mem_filter.1 hi).1), length_split hdistinct hlt, List.length_cons]

/-! The queues of a saggar (R201). -/

/-- Queue q of a saggar. -/
def State.queueAt (s : State) (sag q : Nat) : Option TaskQueue := (s.sagAt sag).bind (fun g => Tbl.find g.queues q)

theorem queueAt_eq_some {sag q : Nat} {x : TaskQueue} : s.queueAt sag q = some x ↔ ∃ g, s.sagAt sag = some g ∧ Tbl.find g.queues q = some x := Option.bind_eq_some_iff

theorem queueAt_of_taskQueue {a : Word} {x : TaskQueue} (h : s.taskQueue a = some x) : s.queueAt s.me.sag (bitsOf a 0 8) = some x := by
  unfold State.taskQueue at h
  split at h
  · cases h
  · exact h

theorem queueAt_modQueue {sag q : Nat} {x : TaskQueue} (f : TaskQueue → TaskQueue) (h : s.queueAt sag q = some x) : (s.modQueue sag q f).queueAt sag q = some (f x) := by
  obtain ⟨g, hg, hx⟩ := queueAt_eq_some.1 h
  refine queueAt_eq_some.2 ⟨_, sagAt_modSag _ hg, ?_⟩
  simp only [hx]
  exact Tbl.find_put_same ..

theorem serveRing_of_unawaited {sag q : Nat} {x : TaskQueue} (h : s.queueAt sag q = some x) (hw : x.waiters = []) : State.serveRing 1 s sag q = s := by
  rw [State.queueAt] at h
  rw [State.serveRing, h]
  dsimp only
  rw [hw]

theorem me_modQueue (sag q : Nat) (f : TaskQueue → TaskQueue) : (s.modQueue sag q f).me = s.me := me_modSag ..

theorem KeepsStrand.modQueue {sag q : Nat} {f : TaskQueue → TaskQueue} (h : KeepsStrand s0 s) : KeepsStrand s0 (s.modQueue sag q f) := h.modSag

theorem room_modSag (g : Nat) (f : Saggar → Saggar) (d : Code) : (s.modSag g f).room d = s.room d := by
  rw [State.room, State.room, me_modSag, State.myCore, State.modSag_core, coreAt_modSag, State.modSag_slot, State.myCore]

theorem room_modQueue (sag q : Nat) (f : TaskQueue → TaskQueue) (d : Code) : (s.modQueue sag q f).room d = s.room d := room_modSag ..

end Sys2Proof.Machine
end

/-! Pushes and pops (O43). -/
section
namespace Sys2Proof.Machine

variable {s s0 t u v w : State} {i : Instr}

/-- An operation has reached queue q of its saggar in this cycle, and left f of it there (R275, R382). -/
def State.reached (s : State) (q : Nat) (f : TaskQueue → TaskQueue) : State :=
  s.modQueue s.me.sag q (fun x => { (f x) with last := (s.poolCycle, s.myRank) })

theorem queueAt_reached {q : Nat} {x : TaskQueue} {f : TaskQueue → TaskQueue} (h : s.queueAt s.me.sag q = some x) :
    (s.reached q f).queueAt s.me.sag q = some { (f x) with last := (s.poolCycle, s.myRank) } := queueAt_modQueue _ h

theorem room_reached (q : Nat) (f : TaskQueue → TaskQueue) (d : Code) : (s.reached q f).room d = s.room d := room_modQueue ..

/-! `qpush` (R201, R381). -/

section push

variable {o : FmtA} {a b : Word} {x : TaskQueue} {r : List Word}

/-- The entry that a `qpush` has read. -/
def entryOf (r : List Word) : QEntry := ⟨r.getD 0 0, r.getD 1 0, r.getD 2 0, r.getD 3 0⟩

/-- What a `qpush` of a valid entry does in its cycle: the ring takes it, or the spill segment, or nothing does. -/
def pushEntry (d : Code) (a : Word) (x : TaskQueue) (e : QEntry) (s : State) : Out :=
  if s.tooLate x.last s.myRank then hold s
  else if x.spill.isEmpty && decide (x.ring.length < 512) then
    finish d 0 (State.serveRing 1 (s.reached (bitsOf a 0 8) (fun x => { x with ring := x.ring ++ [e] })) s.me.sag (bitsOf a 0 8))
  else if x.spill.length < x.spillSize then finish d 1 (s.reached (bitsOf a 0 8) (fun x => { x with spill := x.spill ++ [e] }))
  else finish d 2 (s.reached (bitsOf a 0 8) id)

/-- What a `qpush` does once it has read its entry and its release may proceed. -/
def pushOf (d : Code) (a : Word) (x : TaskQueue) (r : List Word) (s : State) : Out :=
  if r.getD 0 0 = 0 || (r.getD 0 0).getLsbD 0 then finish d 3 s else pushEntry d a x (entryOf r) s

theorem qpush_cases (h : s.Starts (.qpush o)) (hacq : s.acquirePending = false) (hd : dstOk o.d = true) (hacc : s.accepts o.d = true)
    (ha : s.Gives o.a o.x a u) (hb : u.Gives o.b o.y b v) :
    (v.taskQueue a = none → exec (.qpush o) s = trapFree .queueInvalid v) ∧
    (v.taskQueue a = some x → Reads 2 b 4 v r t → exec (.qpush o) s = releasing 2 t (pushOf o.d a x r)) := by
  have he : exec (.qpush o) s = execQpush o s := rfl
  rw [execQpush, binary_of_gives o _ h (by rw [ha.1, hb.1, hd]; rfl) hacq hacc ha hb] at he
  refine ⟨fun hq => ?_, fun hq hr => ?_⟩
  · rw [he, hq]
  · rw [he, hq]
    exact hr _

theorem pushOf_code (h : r.getD 0 0 = 0 ∨ (r.getD 0 0).getLsbD 0 = true) : pushOf o.d a x r s = finish o.d 3 s :=
  if_pos (by rwa [Bool.or_eq_true, decide_eq_true_eq])

theorem pushOf_valid (h0 : r.getD 0 0 ≠ 0) (heven : (r.getD 0 0).getLsbD 0 = false) : pushOf o.d a x r s = pushEntry o.d a x (entryOf r) s := by
  rw [pushOf, decide_eq_false h0, heven, Bool.or_self, if_neg Bool.false_ne_true]

section entry

variable {d : Code} {e : QEntry}

theorem pushEntry_late (hl : s.tooLate x.last s.myRank = true) : pushEntry d a x e s = hold s := by rw [pushEntry, if_pos hl]

theorem pushEntry_ring (hl : s.tooLate x.last s.myRank = false) (hs : x.spill = []) (hr : x.ring.length < 512) (hw : x.waiters = []) (hq : s.taskQueue a = some x) :
    pushEntry d a x e s = finish d 0 (s.reached (bitsOf a 0 8) (fun x => { x with ring := x.ring ++ [e] })) := by
  have hroom : (x.spill.isEmpty && decide (x.ring.length < 512)) = true := by rw [hs, decide_eq_true hr]; rfl
  rw [pushEntry, hl, if_neg Bool.false_ne_true, if_pos hroom]
  exact congrArg (finish d 0) (serveRing_of_unawaited (queueAt_reached (queueAt_of_taskQueue hq)) hw)

theorem pushEntry_full (hl : s.tooLate x.last s.myRank = false) (hf : x.spill ≠ [] ∨ 512 ≤ x.ring.length) : pushEntry d a x e s =
    if x.spill.length < x.spillSize then finish d 1 (s.reached (bitsOf a 0 8) (fun x => { x with spill := x.spill ++ [e] }))
    else finish d 2 (s.reached (bitsOf a 0 8) id) := by
  have hroom : ¬ (x.spill.isEmpty && decide (x.ring.length < 512)) = true := by
    rw [Bool.and_eq_true, List.isEmpty_iff, decide_eq_true_eq]
    exact fun h => hf.elim (fun hs => hs h.1) (fun hr => absurd h.2 (Nat.not_lt.2 hr))
  rw [pushEntry, hl, if_neg Bool.false_ne_true, if_neg hroom]

end entry

end push

/-! Pops (R202, R203). -/

/-- The strand in focus is listed behind those that wait for the ring of queue q; it may take n entries. -/
def State.ringWaits (s : State) (q n : Nat) : State :=
  (s.modQueue s.me.sag q (fun x => { x with waiters := x.waiters ++ [(s.myRef, s.me.uid)] })).modMe (fun m => { m with stage := 10, work := [n] })

theorem me_reached (q : Nat) (f : TaskQueue → TaskQueue) : (s.reached q f).me = s.me := me_modQueue ..

theorem myRef_reached (q : Nat) (f : TaskQueue → TaskQueue) : (s.reached q f).myRef = s.myRef := by
  rw [State.myRef, State.reached, State.modQueue, State.modSag_core, State.modSag_slot, State.myRef]

section pop

variable {nb : Bool} {n : Nat} {a : Word} {x : TaskQueue} {k : Nat → List Word → State → Out}
variable (hstage : s.me.stage = 0) (hq : s.taskQueue a = some x)

include hstage hq

theorem popRing_eq : popRing nb n a s k = if s.tooLate x.last s.myRank then hold s else
    match x.ring with
    | _ :: _ => k (takeEntries n x.ring).1.length (entryWords (takeEntries n x.ring).1) (s.reached (bitsOf a 0 8) (fun x' => { x' with ring := (takeEntries n x.ring).2 }))
    | [] => if nb then k 0 [] (s.reached (bitsOf a 0 8) id) else park (.ring (bitsOf a 0 8)) ((s.reached (bitsOf a 0 8) id).ringWaits (bitsOf a 0 8) n) := by
  rw [popRing, if_neg (by rw [hstage]; decide), hq]
  dsimp only
  split
  · rfl
  · cases hring : x.ring with
    | cons e l => rfl
    | nil => rfl

theorem popRing_late (hl : s.tooLate x.last s.myRank = true) : popRing nb n a s k = hold s := by rw [popRing_eq hstage hq, if_pos hl]

variable (hl : s.tooLate x.last s.myRank = false)

include hl

theorem popRing_takes (hne : x.ring ≠ []) : popRing nb n a s k = k (takeEntries n x.ring).1.length (entryWords (takeEntries n x.ring).1)
    (s.reached (bitsOf a 0 8) (fun x' => { x' with ring := (takeEntries n x.ring).2 })) := by
  rw [popRing_eq hstage hq, hl, if_neg Bool.false_ne_true]
  cases hring : x.ring with
  | cons e l => rfl
  | nil => exact absurd hring hne

theorem popRing_finds_none (he : x.ring = []) : popRing nb n a s k = if nb then k 0 [] (s.reached (bitsOf a 0 8) id) else park (.ring (bitsOf a 0 8)) ((s.reached (bitsOf a 0 8) id).ringWaits (bitsOf a 0 8) n) := by
  rw [popRing_eq hstage hq, hl, if_neg Bool.false_ne_true, he]

end pop

end Sys2Proof.Machine
end

/-! The forms on task queues, and the obligation (O43). -/
section
namespace Sys2Proof.Machine

variable {s s0 t u v w : State} {i : Instr}

/-- The four registers of a `qpop` from d on, as the words of an entry, or 0 (R202). -/
def Strand.putPopped (m : Strand) (d : Nat) (ws : List Word) : Strand := (List.range 4).foldl (fun (m : Strand) i => m.setS (d + i) (ws.getD i 0)) m

theorem cur_putPopped (m : Strand) (d : Nat) (ws : List Word) : (m.putPopped d ws).cur = m.cur := rfl

theorem KeepsStrand.uid (h : KeepsStrand s t) : t.me.uid = s.me.uid := show t.me.rest.uid = s.me.rest.uid by rw [h.rest]

theorem KeepsStrand.stage (h : KeepsStrand s t) : t.me.stage = s.me.stage := show t.me.rest.stage = s.me.rest.stage by rw [h.rest]

theorem KeepsStrand.groups (h : KeepsStrand s t) : t.me.g = s.me.g := show t.me.rest.g = s.me.rest.g by rw [h.rest]

theorem KeepsStrand.myRef (h : KeepsStrand s t) : t.myRef = s.myRef := by rw [State.myRef, State.myRef, h.core, h.slot]

/-! `qpop` (R202). -/

section qpop

variable {nb : Bool} {o : FmtUn} {a : Word} {x : TaskQueue}

theorem qpop_eq (he : exec i s = qpopForm nb o s) (h : s.Starts i) (hacq : s.acquirePending = false) (hd : o.d.toNat ≤ 28)
    (howes : ∀ i, i < 4 → s.me.owes (o.d.toNat + i) = false) (ha : s.Gives o.a o.x a u) :
    exec i s = popRing nb 1 a u (fun _ ws s => complete (s.modMe (fun m => m.putPopped o.d.toNat ws))) := by
  have hno : ¬ (decide (s.me.stage = 0) && (List.range 4).any (fun i => s.me.owes (o.d.toNat + i))) = true := by
    rw [Bool.and_eq_true]
    rintro ⟨-, hany⟩
    obtain ⟨j, hj, hw⟩ := List.any_eq_true.1 hany
    rw [howes j (List.mem_range.1 hj)] at hw
    cases hw
  rw [he, qpopForm, ha.1, decide_eq_true hd, Bool.and_self, plain_of_starts h, ordered_of_free _ hacq]
  exact (if_neg hno).trans (readSrc_of_gives (by rw [h.begins.reads_eq]; rfl) ha _)

end qpop

/-! `qpopv` (R203). -/

section qpopv

variable {nb : Bool} {o : FmtA} {a b : Word} {x : TaskQueue}

theorem qpopv_eq (he : exec i s = qpopvForm nb o s) (h : s.Starts i) (hacq : s.acquirePending = false) (hd : dstOk o.d = true) (hacc : s.accepts o.d = true)
    (hl : s.LanesReady) (ha : s.Gives o.a o.x a u) (hb : u.Gives o.b o.y b v) :
    exec i s = popRing nb s.me.g a v (fun n ws s => finish o.d (word n) (s.modMe (fun m => m.putEntries (bitsOf b 0 5) ws))) := by
  obtain ⟨hpos, -, hqueue, hloads, -, -⟩ := hl
  have hg : ¬ (decide (s.me.stage = 0) && decide (s.me.g = 0)) = true := by
    rw [decide_eq_false (Nat.pos_iff_ne_zero.1 hpos), Bool.and_false]
    exact Bool.false_ne_true
  have hbusy : ¬ (decide (s.me.stage = 0) && (decide (s.me.laneLoads ≠ 0) || !s.me.laneQ.isEmpty)) = true := by
    rw [hloads, hqueue, Bool.and_eq_true]
    exact fun h => absurd h.2 (by decide)
  have hgroups : v.me.g = s.me.g := (KeepsStrand.givesTwo h.begins ha hb).groups
  rw [he, qpopvForm, ha.1, hb.1, hd, Bool.and_self, Bool.and_self, plain_of_starts h, ordered_of_free _ hacq]
  refine (if_neg hg).trans ((if_neg hbusy).trans ?_)
  rw [withDst_of_accepts _ _ hacc, two_of_gives o a b u v _ h.begins.reads_eq h.begins.slot_lt ha hb, hgroups]

theorem cur_putEntries (m : Strand) (n : Nat) (ws : List Word) : (m.putEntries n ws).cur = m.cur := by
  unfold Strand.putEntries
  induction List.range m.vl generalizing m with
  | nil => rfl
  | cons j l ih => exact (ih _).trans rfl

end qpopv

/-! QUEUE_REFILL (R381). -/

theorem queueRefill_moves {sag q : Nat} {x : TaskQueue} {e : QEntry} {rest : List QEntry} (hq : s.queueAt sag q = some x) (hs : x.spill = e :: rest)
    (hr : x.ring.length < 512) (hw : x.waiters = []) :
    exec (.queueRefill sag q) s = .next (s.modQueue sag q (fun x => { x with ring := x.ring ++ [e], spill := rest })) := by
  have hserve := serveRing_of_unawaited (queueAt_modQueue (fun x => { x with ring := x.ring ++ [e], spill := rest }) hq) hw
  rw [State.queueAt] at hq
  change execQueueRefill sag q s = _
  rw [execQueueRefill, hq]
  dsimp only
  rw [hs]
  exact (if_pos hr).trans (by rw [hserve])

/-- A core that can grants a slot to a spawn, and answers with it (R200). -/
theorem spawnRequest_grants {m : Msg} {k rm ts b j : Nat} {pc a0 a1 : Word} {pr : Bool} (hm : s.net[k]? = some m) (hb : m.body = .spawn pc a0 a1 rm ts pr)
    (hbar : s.barred k m = false) (hlock : s.relocking m.home.unit = false)
    (hopen : (s.coreAt m.home.unit).stopped = false ∧ (s.coreAt m.home.unit).saved = none ∧ (s.coreAt m.home.unit).awaited m.sag = false)
    (hdue : s.helperDue m.home.unit = false) (hbeat : s.grantBeat m.home.unit = some b) (hran : s.ranBeat m.home.unit b = true)
    (hfree : (s.coreAt m.home.unit).freeHelper b = some j) : exec (.spawnRequest k) s =
      .next ((((s.dropMsg k).enter m.home.unit j b (spawned m ((s.coreAt m.home.unit).slotAt 0) pc a0 a1 rm ts pr)).wakeUnit m.home.unit).replyTo m (word j)) := by
  rw [spawnRequest_eq hm hb hbar hlock hopen hdue hbeat hran, hfree]
  rfl

section settle

variable {o : FmtA} {a b : Word} {x : TaskQueue}

/-- Queue q of the saggar of s after its last operation was that of the strand in focus. -/
theorem queueAt_done (hk : KeepsStrand s u) (ht : u.time = s.time) (hq : u.taskQueue a = some x) (f : TaskQueue → TaskQueue) :
    (u.reached (bitsOf a 0 8) f).queueAt s.me.sag (bitsOf a 0 8) = some { (f x) with last := (s.poolCycle, s.myRank) } := by
  rw [← place_of_keepsStrand hk ht, ← hk.sag]
  exact queueAt_reached (queueAt_of_taskQueue hq)

/-- What a push that reaches its queue leaves, as the obligation writes it. -/
theorem touched (hk : KeepsStrand s t) (ht : t.time = s.time) (q : Nat) (f : TaskQueue → TaskQueue) :
    t.modQueue t.me.sag q (fun x => { (f x) with last := (s.poolCycle, s.myRank) }) = t.reached q f := by rw [← place_of_keepsStrand hk ht]; rfl

end settle

section pops

variable {o : FmtUn} {nb : Bool} {a : Word} {x : TaskQueue}

/-- The state after a `qpop` has written the words it took. -/
def State.popped4 (s : State) (d q : Nat) (f : TaskQueue → TaskQueue) (ws : List Word) : State := (s.reached q f).modMe (fun m => m.putPopped d ws)

theorem me_popped4 (d q : Nat) (f : TaskQueue → TaskQueue) (ws : List Word) : (s.popped4 d q f ws).me = s.me.putPopped d ws := by
  rw [State.popped4, State.me_modMe, me_reached]

theorem mem_parked (q n : Nat) : ((s.reached q id).ringWaits q n).mem = s.mem := by
  rw [State.ringWaits, State.reached, State.modQueue, State.modQueue]
  exact (State.modSag_mem ..).trans (State.modSag_mem ..)

theorem queueAt_parked {q n : Nat} (h : s.queueAt s.me.sag q = some x) : ((s.reached q id).ringWaits q n).queueAt s.me.sag q =
    some { x with waiters := x.waiters ++ [(s.myRef, s.me.uid)], last := (s.poolCycle, s.myRank) } := by
  have hq := queueAt_modQueue (fun x => { x with waiters := x.waiters ++ [(s.myRef, s.me.uid)] }) (queueAt_reached (f := id) h)
  rw [State.ringWaits, me_reached, myRef_reached]
  exact hq

/-- What a `qpop` does with the queue that it reaches (R202). -/
theorem qpop_cases (he : exec i s = qpopForm nb o s) (h : s.Starts i) (hacq : s.acquirePending = false) (hd : o.d.toNat ≤ 28)
    (howes : ∀ i, i < 4 → s.me.owes (o.d.toNat + i) = false) (ha : s.Gives o.a o.x a u) (hq : u.taskQueue a = some x) :
    (s.tooLate x.last s.myRank = true → exec i s = hold u) ∧
    (∀ e rest, s.tooLate x.last s.myRank = false → x.ring = e :: rest → ∃ t, Completes i s t ∧
      t.queueAt s.me.sag (bitsOf a 0 8) = some { x with ring := rest, last := (s.poolCycle, s.myRank) } ∧
      t.me = ((((u.me.setS o.d.toNat e.pc).setS (o.d.toNat + 1) e.a0).setS (o.d.toNat + 2) e.a1).setS (o.d.toNat + 3) e.a2)) ∧
    (s.tooLate x.last s.myRank = false → x.ring = [] → nb = true → ∃ t, Completes i s t ∧
      t.queueAt s.me.sag (bitsOf a 0 8) = some { x with last := (s.poolCycle, s.myRank) } ∧ t.me = (
      (((u.me.setS o.d.toNat 0).setS (o.d.toNat + 1) 0).setS (o.d.toNat + 2) 0).setS (o.d.toNat + 3) 0)) ∧
    (s.tooLate x.last s.myRank = false → x.ring = [] → nb = false → ∃ t, exec i s = .next t ∧ t.me.status = .parked (.ring (bitsOf a 0 8)) ∧ t.mem = s.mem ∧
      t.queueAt s.me.sag (bitsOf a 0 8) = some { x with waiters := x.waiters ++ [(s.myRef, s.me.uid)], last := (s.poolCycle, s.myRank) }) := by
  have hk : KeepsStrand s u := KeepsStrand.gives ha h.begins.slot_lt
  have ht : u.time = s.time := time_of_gives h.begins.slot_lt ha
  have hstage : u.me.stage = 0 := hk.stage.trans h.begins.stage_eq
  have hexec := qpop_eq he h hacq hd howes ha
  have hcur (f : TaskQueue → TaskQueue) (ws : List Word) : (u.popped4 o.d.toNat (bitsOf a 0 8) f ws).me.cur = some i := by
    rw [me_popped4, cur_putPopped, cur_of_keepsStrand h.begins hk]
  have hlate : u.tooLate x.last u.myRank = s.tooLate x.last s.myRank := tooLate_of_keepsStrand hk ht _
  rw [← hlate]
  refine ⟨fun hl => hexec.trans (popRing_late hstage hq hl), fun e rest hl hr => ?_, fun hl hr hnb => ?_, fun hl hr hnb => ?_⟩
  · rw [popRing_takes hstage hq hl (by rw [hr]; exact List.cons_ne_nil _ _), hr, takeEntries_one] at hexec
    exact ⟨_, completes_of_exec hexec (hcur _ _), queueAt_done hk ht hq (fun x => { x with ring := rest }), me_popped4 ..⟩
  · rw [popRing_finds_none hstage hq hl hr, if_pos hnb] at hexec
    exact ⟨_, completes_of_exec hexec (hcur _ _), queueAt_done hk ht hq id, me_popped4 ..⟩
  · rw [popRing_finds_none hstage hq hl hr, if_neg (by rw [hnb]; exact Bool.false_ne_true)] at hexec
    have hmem : u.mem = s.mem := by
      obtain ⟨-, -, rfl⟩ := ha
      exact (OperandFrame.took (d := 0) _ _ _ h.begins.slot_lt).mem
    refine ⟨_, hexec, congrArg Strand.status (State.me_modMe ..), (mem_parked (s := u) (bitsOf a 0 8) 1).trans hmem, ?_⟩
    rw [← hk.sag, ← hk.myRef, ← hk.uid, ← place_of_keepsStrand hk ht]
    exact queueAt_parked (n := 1) (queueAt_of_taskQueue hq)

end pops

section popvs

variable {o : FmtA} {nb : Bool} {a b : Word} {x : TaskQueue}

/-- The state after a `qpopv` has written the words it took. -/
def State.poppedLanes (s : State) (n q : Nat) (f : TaskQueue → TaskQueue) (ws : List Word) : State := (s.reached q f).modMe (fun m => m.putEntries n ws)

/-- What a `qpopv` does with the queue that it reaches (R203). -/
theorem qpopv_cases (he : exec i s = qpopvForm nb o s) (h : s.Starts i) (hacq : s.acquirePending = false) (hd : dstOk o.d = true) (hacc : s.accepts o.d = true)
    (hl : s.LanesReady) (ha : s.Gives o.a o.x a u) (hb : u.Gives o.b o.y b v) (hq : v.taskQueue a = some x) (hlate : s.tooLate x.last s.myRank = false) :
    (x.ring ≠ [] →
      let w := v.poppedLanes (bitsOf b 0 5) (bitsOf a 0 8) (fun y => { y with ring := (takeEntries s.me.g x.ring).2 }) (entryWords (takeEntries s.me.g x.ring).1)
      w.room o.d = true → Completes i s (w.put o.d (word (takeEntries s.me.g x.ring).1.length))) ∧
    (x.ring = [] → nb = true → (v.poppedLanes (bitsOf b 0 5) (bitsOf a 0 8) id []).room o.d = true →
      Completes i s ((v.poppedLanes (bitsOf b 0 5) (bitsOf a 0 8) id []).put o.d 0)) := by
  have hk : KeepsStrand s v := KeepsStrand.givesTwo h.begins ha hb
  have ht : v.time = s.time := time_of_givesTwo h.begins ha hb
  have hstage : v.me.stage = 0 := hk.stage.trans h.begins.stage_eq
  have hexec := qpopv_eq he h hacq hd hacc hl ha hb
  have hlate' : v.tooLate x.last v.myRank = false := (tooLate_of_keepsStrand hk ht _).trans hlate
  have hcur (f : TaskQueue → TaskQueue) (ws : List Word) : (v.poppedLanes (bitsOf b 0 5) (bitsOf a 0 8) f ws).me.cur = some i := by
    rw [State.poppedLanes, State.me_modMe, cur_putEntries, me_reached, cur_of_keepsStrand h.begins hk]
  refine ⟨fun hne => ?_, fun hr hnb hroom => ?_⟩
  · intro w hroom
    rw [popRing_takes hstage hq hlate' hne] at hexec
    exact completes_of_finish hexec hroom (hcur _ _)
  · rw [popRing_finds_none hstage hq hlate' hr, if_pos hnb] at hexec
    exact completes_of_finish hexec hroom (hcur _ _)

end popvs

/-- Settles O43, by the cases of each form and of each arrival. -/
theorem spawnsQueuesAndSignalsComplete : Obligations.SpawnsQueuesAndSignalsComplete := by
  unfold Obligations.SpawnsQueuesAndSignalsComplete
  refine ⟨fun o s u v t a b c r h hacq hd hacc ha hb hres hc hr heven hrel => spawn_awaits o h hacq hd hacc ha hb hres hc hr heven hrel,
    fun k s m pc a0 a1 rm ts pr hm hb hbar hlock => ?request, fun o s u v t a b x r h hacq hd hacc ha hb => ?push,
    fun p hp o s u a x h hacq hd howes ha hq => ?pop, fun p hp o s u v a b x h hacq hd hacc hl ha hb hq hlate => ?popv,
    fun n e l hn => takeEntries_spec e l hn, fun sag q s g x e rest hg hx hs hr hw => ?refill,
    fun o s u v t a b p h hacq hpend ha hb => ⟨fun h0 => ?signal, fun h0 hadm hrel hc hs => signal_completes o h hacq hpend ha hb h0 hadm hrel hc hs⟩,
    fun o s u v t a b p h hacq hd hacc ha hb h0 hadm ho hc hroom => swait_awaits o h hacq hd hacc ha hb h0 hadm ho hc hroom,
    fun h s m b he hecc ha hb hoff hd => ⟨fun hle => ?met, fun hlt => ?unmet⟩⟩
  case request =>
    intro x
    refine ⟨spawnRequest_bounced hm hb hbar hlock, fun b hstop hsaved haway hdue hbeat hran hfree => ?_, fun b j hstop hsaved haway hdue hbeat hran hfree => ?_⟩
    · rw [spawnRequest_eq hm hb hbar hlock ⟨hstop, hsaved, haway⟩ hdue hbeat hran, hfree]
    · have hnext : (((s.dropMsg k).enter m.home.unit j b (spawned m (x.slotAt 0) pc a0 a1 rm ts pr)).coreAt m.home.unit).grantNext = b + 1 := by
        have hle : ((s.dropMsg k).coreAt m.home.unit).grantNext ≤ b := grantNext_le_of_grantBeat hbeat
        exact (grantNext_enter _ _).trans (Nat.max_eq_right (Nat.le_succ_of_le hle))
      have hslot := (strandAt_wakeUnit m.home.unit m.home.unit j).trans
        (strandAt_enter (s := s.dropMsg k) (j := j) (b := b) m.home.unit (spawned m (x.slotAt 0) pc a0 a1 rm ts pr))
      refine ⟨_, spawnRequest_grants hm hb hbar hlock ⟨hstop, hsaved, haway⟩ hdue hbeat hran hfree, (core_wakeUnit (p := Core.grantNext) (fun _ => rfl) _ _).trans hnext, ?_⟩
      intro n
      have hn : n = spawned m (x.slotAt 0) pc a0 a1 rm ts pr { Strand.empty with live := true, uid := (s.dropMsg k).serial, nextIssue := b + 1 } := hslot
      rw [hn]
      obtain ⟨h1, h2, h3⟩ := sreg_spawned (pc := pc) (a0 := a0) (a1 := a1) (rm := rm) (ts := ts) (pr := pr) m (x.slotAt 0)
        { Strand.empty with live := true, uid := (s.dropMsg k).serial, nextIssue := b + 1 }
      have hcounts : m.body.counts = false := by rw [hb]; rfl
      exact ⟨rfl, rfl, h1, h2, h3, rfl, rfl, rfl, rfl, rfl, rfl, rfl, rfl, by rw [← hcounts]; exact List.mem_append_right _ List.mem_cons_self⟩
  case push =>
    have hkv : KeepsStrand s v := KeepsStrand.givesTwo h.begins ha hb
    have htv : v.time = s.time := time_of_givesTwo h.begins ha hb
    refine ⟨fun hq => traps_of_trap ((qpush_cases (x := x) (r := r) (t := t) h hacq hd hacc ha hb).1 hq) (hkv.same rfl), fun hq hr hroom => ?_⟩
    have hexec := (qpush_cases h hacq hd hacc ha hb).2 hq hr
    have hk : KeepsStrand s t := hkv.trans hr.keepsStrand
    have ht : t.time = s.time := hr.time.trans htv
    have hcur : t.me.cur = some (.qpush o) := cur_of_keepsStrand h.begins hk
    refine ⟨fun hrel => hexec.trans (releasing_held hrel _), fun h0 hrel => completes_of_finish (hexec.trans ((releasing_ok hrel _).trans (pushOf_code h0))) hroom hcur,
      fun h0 heven hrel => ?_⟩
    have hentry : exec (.qpush o) s = pushEntry o.d a x (entryOf r) t := hexec.trans ((releasing_ok hrel _).trans (pushOf_valid h0 heven))
    have hreached (f : TaskQueue → TaskQueue) (n : Word) (he : pushEntry o.d a x (entryOf r) t = finish o.d n (t.reached (bitsOf a 0 8) f)) :
        Completes (.qpush o) s ((t.reached (bitsOf a 0 8) f).put o.d n) := by
      refine completes_of_finish (hentry.trans he) ((room_reached _ _ _).trans hroom) ?_
      rw [me_reached, hcur]
    intro e late touch
    have htouch (f : TaskQueue → TaskQueue) : touch f = t.reached (bitsOf a 0 8) f := touched hk ht _ f
    have hlate : t.tooLate x.last t.myRank = late := tooLate_of_keepsStrand hk ht _
    simp only [htouch]
    refine ⟨fun hl => hentry.trans (pushEntry_late (hlate.trans hl)), fun hl hs hring hw hqt => ?_, fun hl hf hlt => ?_, fun hl hf hle => ?_⟩
    · exact hreached _ _ (pushEntry_ring (hlate.trans hl) hs hring hw hqt)
    · exact hreached _ _ ((pushEntry_full (hlate.trans hl) hf).trans (if_pos hlt))
    · exact hreached _ _ ((pushEntry_full (hlate.trans hl) hf).trans (if_neg (Nat.not_lt.2 hle)))
  case pop =>
    have he : exec (p.1 o) s = qpopForm p.2 o s := by
      fin_cases hp <;> rfl
    exact qpop_cases he h hacq hd howes ha hq
  case popv =>
    have he : exec (p.1 o) s = qpopvForm p.2 o s := by
      fin_cases hp <;> rfl
    have hk : KeepsStrand s v := KeepsStrand.givesTwo h.begins ha hb
    have ht : v.time = s.time := time_of_givesTwo h.begins ha hb
    intro touch
    have htouch (f : TaskQueue → TaskQueue) : touch f = v.reached (bitsOf a 0 8) f := touched hk ht _ f
    simp only [htouch]
    exact qpopv_cases he h hacq hd hacc hl ha hb hq hlate
  case refill =>
    exact ⟨_, queueRefill_moves (queueAt_eq_some.2 ⟨g, hg, hx⟩) hs hr hw, queueAt_modQueue (fun x => { x with ring := x.ring ++ [e], spill := rest }) (queueAt_eq_some.2 ⟨g, hg, hx⟩)⟩
  case signal =>
    exact traps_of_trap ((signal_cases o h hacq hpend ha hb).trans (if_pos h0)) (KeepsStrand.givesTwo h.begins ha hb)
  case met => rw [exec_homeAccess_swait he hecc ha hb, swaitArrive_met (s := s.dropMsg h.k) hd hle]; rfl
  case unmet => rw [exec_homeAccess_swait he hecc ha hb, swaitArrive_unmet (s := s.dropMsg h.k) hd hlt]

end Sys2Proof.Machine
end

/-! Launches and triggers (O54). -/
section
namespace Sys2Proof.Machine

variable {s s0 t u v w : State} {i : Instr} {g : Saggar} {r : List Word}

/-! The limits of a record (R204). -/

theorem sigOk_iff (x : Word) : sigOk false x = true ↔ bitsOf x 57 7 = 0 ∧ x.toNat % 8 = 0 := by
  simp only [sigOk, Bool.false_or, Bool.and_eq_true, decide_eq_true_eq]

theorem launchLimits_eq_none_iff (g : Saggar) (r : List Word) : g.launchLimits r = none ↔ (g.graph (recBits r 0 8)).isSome = true ∧ recBits r 8 8 % 8 = 0 ∧
    recBits r 16 2 ≤ 64 ∧ (recBits r 8 8 = 0 → recBits r 16 2 = 0) ∧ recBits r 18 1 ≤ 3 ∧ recBits r 19 5 = 0 ∧ bitsOf (r.getD 3 0) 57 7 = 0 ∧
    (r.getD 3 0).toNat % 8 = 0 := by
  have hpatch : (decide (64 < recBits r 16 2) || (decide (recBits r 8 8 = 0) && decide (recBits r 16 2 ≠ 0))) = false ↔
      recBits r 16 2 ≤ 64 ∧ (recBits r 8 8 = 0 → recBits r 16 2 = 0) := by
    simp only [Bool.or_eq_false_iff, Bool.and_eq_false_iff, decide_eq_false_iff_not, Nat.not_lt, not_not]
    exact and_congr_right (fun _ => by tauto)
  have hsig : (!sigOk false (r.getD 3 0)) = false ↔ bitsOf (r.getD 3 0) 57 7 = 0 ∧ (r.getD 3 0).toNat % 8 = 0 := by rw [Bool.not_eq_false', sigOk_iff]
  rw [Saggar.launchLimits, Option.map_eq_none_iff, List.find?_eq_none]
  simp only [List.forall_mem_cons, Bool.not_eq_true, hpatch, hsig, List.not_mem_nil, false_implies, implies_true, and_true, and_assoc,
    Option.isNone_eq_false_iff, decide_eq_false_iff_not, not_not, Nat.not_lt]

/-! Acceptance (R375, R337). -/

theorem newAreas_spec (g : Saggar) : g.newAreas.length ≤ g.cfg.undoEach ∧ ∀ a ∈ g.newAreas, a < g.cfg.undoAreas ∧ ∀ y ∈ g.instances, a ∉ y.areas := by
  refine ⟨List.length_take_le .., fun a ha => ?_⟩
  obtain ⟨hin, hfree⟩ := List.mem_filter.1 (List.mem_of_mem_take ha)
  rw [Bool.not_eq_true', List.any_eq_false] at hfree
  exact ⟨List.mem_range.1 hin, fun y hy hmem => hfree y hy (List.contains_iff_mem.2 hmem)⟩

theorem room_accept (n : Nat) (p : LaunchRec) (host : Bool) (d : Code) : (s.accept n p host).room d = s.room d := room_modSag ..

theorem KeepsStrand.accept {n : Nat} {p : LaunchRec} {host : Bool} (h : KeepsStrand s0 s) : KeepsStrand s0 (s.accept n p host) := h.modSag

/-! `launch` (R204, R374, R375). -/

section launch

variable {o : FmtUn} {a : Word} {ps : List Word}

/-- The patches of a launch record, read from its patch list. -/
def patchesOf (n : Nat) (ps : List Word) : List (Nat × Word) := (List.range n).map (fun i => ((ps.getD (2 * i) 0).toNat, ps.getD (2 * i + 1) 0))

/-- What a `launch` of r in saggar g does once it has read its patches. -/
def launchOf (o : FmtUn) (r : List Word) (g : Saggar) (ps : List Word) (s : State) : Out :=
  match badPatch (patchesOf (recBits r 16 2) ps) (match g.graph (recBits r 0 8) with | some x => x.params.length | none => 0) with
  | some i => trap .launchRecord (r.getD 1 0 + word (16 * i)) s
  | none => releasing 2 s (fun s =>
      if s.tooLate g.lastLaunch s.myRank then hold s
      else if g.poolFull then finish o.d 1 s
      else finish o.d 0 (s.accept s.me.sag ⟨recBits r 0 8, recBits r 18 1, recBits r 8 8, recBits r 16 2, 0, r.getD 3 0, false, patchesOf (recBits r 16 2) ps⟩ false))

theorem launch_eq (h : s.Starts (.launch o)) (hacq : s.acquirePending = false) (hd : dstOk o.d = true) (hacc : s.accepts o.d = true)
    (ha : s.Gives o.a o.x a u) (hr : Reads 1 a 4 u r t) (hg : t.sagAt t.me.sag = some g) :
    (∀ off, g.launchLimits r = some off → exec (.launch o) s = trap .launchRecord (a + word off) t) ∧
    (g.launchLimits r = none → exec (.launch o) s = if recBits r 16 2 = 0 then launchOf o r g [] t
      else readRecord 5 (r.getD 1 0) (2 * recBits r 16 2) t (launchOf o r g)) := by
  have he : exec (.launch o) s = execLaunch o s := rfl
  rw [execLaunch, ha.1, hd, Bool.and_self, plain_of_starts h, ordered_of_free _ hacq, withDst_of_accepts _ _ hacc,
    readSrc_of_gives (by rw [h.begins.reads_eq]; rfl) ha, hr, withSag, hg] at he
  dsimp only at he
  refine ⟨fun off hoff => ?_, fun hok => ?_⟩
  · rw [he, hoff]
  · rw [he, hok]
    rfl

/-- The state in which a launch has read its patches. -/
def Patched (r : List Word) (t : State) (ps : List Word) (w : State) : Prop :=
  (recBits r 16 2 = 0 → ps = [] ∧ w = t) ∧ (recBits r 16 2 ≠ 0 → Reads 5 (r.getD 1 0) (2 * recBits r 16 2) t ps w)

theorem Patched.keepsStrand (h : Patched r t ps w) : KeepsStrand t w ∧ w.time = t.time := by
  by_cases hn : recBits r 16 2 = 0
  · obtain ⟨-, rfl⟩ := h.1 hn
    exact ⟨.refl _, rfl⟩
  · exact ⟨(h.2 hn).keepsStrand, (h.2 hn).time⟩

theorem launch_patched (h : s.Starts (.launch o)) (hacq : s.acquirePending = false) (hd : dstOk o.d = true) (hacc : s.accepts o.d = true)
    (ha : s.Gives o.a o.x a u) (hr : Reads 1 a 4 u r t) (hg : t.sagAt t.me.sag = some g) (hok : g.launchLimits r = none) (hp : Patched r t ps w) :
    exec (.launch o) s = launchOf o r g ps w := by
  refine ((launch_eq h hacq hd hacc ha hr hg).2 hok).trans ?_
  split
  · next hn =>
    obtain ⟨rfl, rfl⟩ := hp.1 hn
    rfl
  · next hn => exact hp.2 hn _

section graph

variable {x : GraphRec} (hx : g.graph (recBits r 0 8) = some x)

include hx

theorem launchOf_bad {n : Nat} (hbad : badPatch (patchesOf (recBits r 16 2) ps) x.params.length = some n) :
    launchOf o r g ps s = trap .launchRecord (r.getD 1 0 + word (16 * n)) s := by
  rw [launchOf, hx]
  dsimp only
  rw [hbad]

theorem launchOf_good (hgood : badPatch (patchesOf (recBits r 16 2) ps) x.params.length = none) :
    launchOf o r g ps s = releasing 2 s (fun s =>
      if s.tooLate g.lastLaunch s.myRank then hold s
      else if g.poolFull then finish o.d 1 s
      else finish o.d 0 (s.accept s.me.sag ⟨recBits r 0 8, recBits r 18 1, recBits r 8 8, recBits r 16 2, 0, r.getD 3 0, false, patchesOf (recBits r 16 2) ps⟩ false)) := by
  rw [launchOf, hx]
  dsimp only
  rw [hgood]

end graph

end launch

/-! Triggers (R373, R375, R431). -/

/-- Whether a trigger keeps the limits of its record and of its graph x (R373). -/
def triggerFits (p : LaunchRec) (x : GraphRec) : Bool :=
  decide (p.prio ≤ 3) && sigOk p.hostSig p.sig && decide (p.patch % 8 = 0) && decide (p.npatch ≤ 64) && (decide (p.patch ≠ 0) || decide (p.npatch = 0)) &&
    decide (p.rest = 0) && decide (p.patches.length = p.npatch) && (badPatch p.patches x.params.length).isNone

section trigger

variable {sag : Nat} {p : LaunchRec}

/-- The state after a trigger has been refused with an error. -/
def State.triggerFault (s : State) : State := { s with capFaults := s.capFaults + 1, completions := s.completions ++ [(0, 3)] }

theorem trigger_before (h : s.bringup.getLsbD 3 = false) : exec (.trigger sag p) s = .next { s with completions := s.completions ++ [(0, 2)] } := by
  change execTrigger sag p s = _
  rw [execTrigger, h]
  rfl

theorem trigger_unknown (hb : s.bringup.getLsbD 3 = true) (hg : s.sagAt sag = some g) (hx : g.graph p.graph = none) :
    exec (.trigger sag p) s = .next s.triggerFault := by
  change execTrigger sag p s = _
  rw [execTrigger, hb, if_pos rfl, hg]
  dsimp only
  rw [hx]
  rfl

theorem trigger_eq {x : GraphRec} (hb : s.bringup.getLsbD 3 = true) (hg : s.sagAt sag = some g) (hx : g.graph p.graph = some x) :
    exec (.trigger sag p) s = if !triggerFits p x then .next s.triggerFault else if s.tooLate g.lastLaunch 0 then .next s
      else if g.poolFull then .next { s with completions := s.completions ++ [(0, 2)] } else .next (s.accept sag p true) := by
  change execTrigger sag p s = _
  rw [execTrigger, hb, if_pos rfl, hg]
  dsimp only
  rw [hx]
  rfl

/-- The limits that a trigger breaks, as the obligation lists them. -/
def TriggerBreaks (p : LaunchRec) (x : GraphRec) : Prop :=
  3 < p.prio ∨ p.sig.toNat % 8 ≠ 0 ∨ (p.hostSig = false ∧ bitsOf p.sig 57 7 ≠ 0) ∨ p.patch % 8 ≠ 0 ∨ 64 < p.npatch ∨
    (p.patch = 0 ∧ p.npatch ≠ 0) ∨ p.rest ≠ 0 ∨ (badPatch p.patches x.params.length).isSome = true

theorem fits_iff (p : LaunchRec) (x : GraphRec) : triggerFits p x = true ↔ p.prio ≤ 3 ∧ ((p.hostSig = true ∨ bitsOf p.sig 57 7 = 0) ∧ p.sig.toNat % 8 = 0) ∧ p.patch % 8 = 0 ∧
    p.npatch ≤ 64 ∧ (p.patch ≠ 0 ∨ p.npatch = 0) ∧ p.rest = 0 ∧ p.patches.length = p.npatch ∧ badPatch p.patches x.params.length = none := by
  simp only [triggerFits, sigOk, Bool.and_eq_true, Bool.or_eq_true, decide_eq_true_eq, Option.isNone_iff_eq_none, and_assoc]

theorem not_fits_of_breaks {x : GraphRec} (h : TriggerBreaks p x) : triggerFits p x = false := by
  rw [← Bool.not_eq_true, fits_iff]
  rintro ⟨hprio, ⟨hsig, hal⟩, hpatch, hn, hlist, hrest, -, hbad⟩
  rcases h with h | h | ⟨hhost, hzero⟩ | h | h | ⟨hp0, hn0⟩ | h | h
  · exact absurd hprio (Nat.not_le.2 h)
  · exact h hal
  · exact hsig.elim (fun hs => absurd (hhost.symm.trans hs) Bool.false_ne_true) hzero
  · exact h hpatch
  · exact absurd hn (Nat.not_le.2 h)
  · exact hlist.elim (fun hp => hp hp0) hn0
  · exact h hrest
  · rw [hbad] at h
    cases h

end trigger

/-- Settles O54, by the checks of a record in their order. -/
theorem launchesAndTriggers : Obligations.LaunchesAndTriggers := by
  unfold Obligations.LaunchesAndTriggers
  refine ⟨fun o s u t a r g h hacq hd hacc ha hr hg => ⟨?limits, ?patched⟩, launchLimits_eq_none_iff, fun s sag p host g hg => ?accept, fun sag p s => ⟨trigger_before, ?trigger⟩⟩
  case limits =>
    have hk : KeepsStrand s t := (KeepsStrand.gives ha h.begins.slot_lt).trans hr.keepsStrand
    exact fun off hoff => traps_of_trap ((launch_eq h hacq hd hacc ha hr hg).1 off hoff) hk
  case patched =>
    intro ps w hok hnone hsome patches x hx
    have hp : Patched r t ps w := ⟨hnone, hsome⟩
    have hexec := launch_patched h hacq hd hacc ha hr hg hok hp
    have hk : KeepsStrand s w := (KeepsStrand.gives ha h.begins.slot_lt).trans (hr.keepsStrand.trans hp.keepsStrand.1)
    have ht : w.time = s.time := hp.keepsStrand.2.trans (hr.time.trans (time_of_gives h.begins.slot_lt ha))
    have hlate : w.tooLate g.lastLaunch w.myRank = s.tooLate g.lastLaunch s.myRank := tooLate_of_keepsStrand hk ht _
    have hcur : w.me.cur = some (.launch o) := cur_of_keepsStrand h.begins hk
    have hgo (hgood : badPatch (patchesOf (recBits r 16 2) ps) x.params.length = none) := hexec.trans (launchOf_good hx hgood)
    refine ⟨fun n hbad => traps_of_trap (hexec.trans (launchOf_bad hx hbad)) hk, fun hgood hrel => (hgo hgood).trans (releasing_held hrel _),
      fun hgood hrel hl => (hgo hgood).trans ((releasing_ok hrel _).trans (if_pos (hlate.trans hl))), fun hgood hroom hrel hl => ?_⟩
    have hnow := (hgo hgood).trans ((releasing_ok hrel _).trans (if_neg (ne_true_of_eq_false (hlate.trans hl))))
    exact ⟨fun hfull => completes_of_finish (hnow.trans (if_pos hfull)) hroom hcur,
      fun hfull => completes_of_finish (hnow.trans (if_neg (ne_true_of_eq_false hfull))) ((room_accept ..).trans hroom)
        (cur_of_keepsStrand h.begins hk.accept)⟩
  case accept =>
    obtain ⟨hlen, hareas⟩ := newAreas_spec g
    exact ⟨_, sagAt_modSag _ hg, rfl, rfl, rfl, rfl, _, rfl, rfl, hlen, hareas⟩
  case trigger =>
    intro g hb hg
    refine ⟨trigger_unknown hb hg, fun x hx hbreaks => (trigger_eq hb hg hx).trans (if_pos (by rw [not_fits_of_breaks hbreaks]; rfl)),
      fun x hx hprio hal hsig hpatch hn hlist hrest hlen hbad => ?_⟩
    have hfits : triggerFits p x = true := (fits_iff p x).2 ⟨hprio, ⟨hsig, hal⟩, hpatch, hn, hlist, hrest, hlen, hbad⟩
    have hgo := (trigger_eq hb hg hx).trans (if_neg (by rw [hfits]; decide))
    exact ⟨fun hl => hgo.trans (if_pos hl), fun hl hfull => hgo.trans ((if_neg (ne_true_of_eq_false hl)).trans (if_pos hfull)),
      fun hl hfull => hgo.trans ((if_neg (ne_true_of_eq_false hl)).trans (if_neg (ne_true_of_eq_false hfull)))⟩

end Sys2Proof.Machine
end

/-! Pre-emption: the save (O53). -/
section
namespace Sys2Proof.Machine

variable {s s0 t u v w : State} {core : Nat}

/-! A change of every value of a table, and what a pool event leaves. -/

theorem get_map_values {α : Type} {f : α → α} {d : α} (hd : f d = d) (l : List (Nat × α)) (k : Nat) :
    Tbl.get (l.map (fun e => (e.1, f e.2))) k d = f (Tbl.get l k d) := by
  rw [Tbl.get, Tbl.find_map (fun _ => f), Tbl.get]
  cases Tbl.find l k with
  | none => exact hd.symm
  | some x => rfl

theorem foldl_modStrand_core {β : Type} {p : Core → β} (hp : ∀ (x : Core) l, p { x with slots := l } = p x) (f : Strand → Strand) (c : Nat) (l : List StrandRef) :
    ∀ s : State, p ((l.foldl (fun (t : State) r => t.modStrand r.core r.slot f) s).coreAt c) = p (s.coreAt c) := by
  induction l with
  | nil => exact fun _ => rfl
  | cons r l ih => exact fun s => (ih _).trans (coreAt_modCore_keeps (fun x => hp x _) c)

/-- A pool event leaves every part of a core but the strands. -/
theorem poolEvent_core {β : Type} {p : Core → β} (hp : ∀ (x : Core) l, p { x with slots := l } = p x) (cl c : Nat) :
    p ((s.poolEvent cl).coreAt c) = p (s.coreAt c) := by
  obtain he | ⟨f, l, -, he⟩ := poolEvent_cases s cl
  · rw [he]
  · rw [he]
    exact foldl_modStrand_core hp f c l s

theorem foldl_modStrand_other {f : Strand → Strand} {c k : Nat} {l : List StrandRef} : (∀ r ∈ l, ¬(c = r.core ∧ k = r.slot)) →
    ∀ s : State, (l.foldl (fun (t : State) r => t.modStrand r.core r.slot f) s).strandAt c k = s.strandAt c k := by
  induction l with
  | nil => exact fun _ _ => rfl
  | cons r l ih =>
    exact fun h s => (ih (fun r' hr' => h r' (List.mem_cons_of_mem _ hr')) _).trans (strandAt_modStrand_of_ne f (h r List.mem_cons_self))

/-- A strand without groups takes no part in a pool event (R262). -/
theorem strandAt_poolEvent_of_groupless {cl c k : Nat} (h : (s.strandAt c k).g = 0) : (s.poolEvent cl).strandAt c k = s.strandAt c k := by
  have hnot : ∀ r ∈ (s.clusterSlots cl).filter (fun r => decide (0 < (s.strandOf r).g)), ¬(c = r.core ∧ k = r.slot) := by
    rintro r hr ⟨rfl, rfl⟩
    have hpos := of_decide_eq_true (List.mem_filter.1 hr).2
    rw [State.strandOf, h] at hpos
    exact Nat.lt_irrefl 0 hpos
  unfold State.poolEvent
  dsimp only
  split
  · exact foldl_modStrand_other hnot s
  · split
    · exact foldl_modStrand_other hnot s
    · rfl

/-! What a save takes out (R406). -/

/-- Whether a parked strand is of another core. -/
def ofOther (core : Nat) (w : StrandRef × Nat) : Bool := decide (w.1.core ≠ core)

/-- A core at whose barriers no strand of the core given waits any more. -/
def Core.unbarred (c : Core) (core : Nat) : Core :=
  { c with bars := c.bars.map (fun b => (b.1, { b.2 with waiters := b.2.waiters.filter (ofOther core) })) }

/-- The waits of a core leave the homes, the barriers, the allocators, the queues and the pools. -/
def State.unlisted (s : State) (core : Nat) : State := { s with
  waiters := s.waiters.filter (fun w => decide (w.msg.core ≠ core)),
  cores := s.cores.map (fun (c : Nat × Core) => (c.1, c.2.unbarred core)),
  saggars := s.saggars.map (fun (g : Nat × Saggar) => (g.1, { g.2 with
    tagWait := g.2.tagWait.filter (fun t => !t.ofCore core),
    queues := g.2.queues.map (fun q => (q.1, { q.2 with waiters := q.2.waiters.filter (ofOther core) })),
    entries := g.2.entries.map (fun e => { e with waiters := e.waiters.filter (ofOther core) }) })) }

/-- The jobs, ranges and claims of a core leave its cluster. -/
def State.outOfCluster (s : State) (core : Nat) : State := s.modCluster (clusterOf core) (fun c => { c with
  jobs := c.jobs.filter (fun j => decide (j.core ≠ core)), ranges := c.ranges.filter (fun r => decide (r.core ≠ core)),
  claimants := c.claimants.filter (fun x => decide (x.who.core ≠ core)) })

theorem clusterAt_outOfCluster : (s.outOfCluster core).clusterAt (clusterOf core) = { s.clusterAt (clusterOf core) with
    jobs := (s.clusterAt (clusterOf core)).jobs.filter (fun j => decide (j.core ≠ core)), ranges := (s.clusterAt (clusterOf core)).ranges.filter (fun r => decide (r.core ≠ core)),
    claimants := (s.clusterAt (clusterOf core)).claimants.filter (fun x => decide (x.who.core ≠ core)) } := State.clusterAt_modCluster ..

/-- A strand without its groups. -/
def Strand.bare (m : Strand) : Strand := { m with g := 0, shrink := none }

/-- A core with its save; its strands hold no groups. -/
def Core.savedAs (c : Core) (v : CoreSave) : Core :=
  { c with saved := some v, halting := false, slots := c.slots.map (fun (e : Nat × Strand) => (e.1, e.2.bare)) }

theorem takeOut_eq (s : State) (core : Nat) (v : CoreSave) :
    s.takeOut core v = ((((s.unlisted core).outOfCluster core).modCore core (fun c => c.savedAs v)).poolEvent (clusterOf core)) := rfl

theorem coreAt_unlisted (c : Nat) : (s.unlisted core).coreAt c = (s.coreAt c).unbarred core := get_map_values (f := fun x => Core.unbarred x core) rfl s.cores c

theorem slots_unlisted (c : Nat) : ((s.unlisted core).coreAt c).slots = (s.coreAt c).slots := by rw [coreAt_unlisted]; rfl

theorem strandAt_unlisted (c k : Nat) : (s.unlisted core).strandAt c k = s.strandAt c k := by
  rw [State.strandAt, Core.slotAt, slots_unlisted, State.strandAt, Core.slotAt]

section takeOut

variable {x : CoreSave}

theorem strandAt_before (k : Nat) : (((s.unlisted core).outOfCluster core).modCore core (fun c => c.savedAs x)).strandAt core k = (s.strandAt core k).bare := by
  rw [State.strandAt, State.coreAt_modCore, ← strandAt_unlisted (core := core)]
  exact get_map_values (f := Strand.bare) (d := Strand.empty) rfl _ k

/-- The strands of the saved core keep everything but their groups (R406). -/
theorem strandAt_takeOut (k : Nat) : (s.takeOut core x).strandAt core k = (s.strandAt core k).bare := by
  have h0 : ((((s.unlisted core).outOfCluster core).modCore core (fun c => c.savedAs x)).strandAt core k).g = 0 := by
    rw [strandAt_before]
    rfl
  rw [takeOut_eq, strandAt_poolEvent_of_groupless h0, strandAt_before]

theorem coreAt_takeOut : ((s.takeOut core x).coreAt core).saved = some x ∧ ((s.takeOut core x).coreAt core).halting = false := by
  rw [takeOut_eq]
  exact ⟨(poolEvent_core (p := Core.saved) (fun _ _ => rfl) _ _).trans (congrArg Core.saved (State.coreAt_modCore ..)),
    (poolEvent_core (p := Core.halting) (fun _ _ => rfl) _ _).trans (congrArg Core.halting (State.coreAt_modCore ..))⟩

theorem clusterAt_takeOut : (s.takeOut core x).clusterAt (clusterOf core) = { s.clusterAt (clusterOf core) with
    jobs := (s.clusterAt (clusterOf core)).jobs.filter (fun j => decide (j.core ≠ core)), ranges := (s.clusterAt (clusterOf core)).ranges.filter (fun r => decide (r.core ≠ core)),
    claimants := (s.clusterAt (clusterOf core)).claimants.filter (fun x => decide (x.who.core ≠ core)) } := by
  rw [takeOut_eq, clusterAt_poolEvent]
  exact clusterAt_outOfCluster (s := s.unlisted core)

theorem mem_takeOut : (s.takeOut core x).mem = s.mem := by
  rw [takeOut_eq, mem_poolEvent]
  rfl

theorem waiters_takeOut : (s.takeOut core x).waiters = s.waiters.filter (fun w => decide (w.msg.core ≠ core)) := by
  rw [takeOut_eq, poolEvent_eq]
  rfl

end takeOut

/-! The save (R405, R406). -/

section save

variable {ws : List WithdrawRec} {jobs : List Job}

theorem preemptSave_refused (h : (s.coreAt core).stopped = true ∨ (s.coreAt core).saved.isSome = true ∨ s.relocking core = true) :
    exec (.preemptSave core ws) s = .next s := by
  have hany : ((s.coreAt core).stopped || (s.coreAt core).saved.isSome || s.relocking core) = true := by simpa only [Bool.or_eq_true, or_assoc] using h
  change execPreemptSave core ws s = _
  rw [execPreemptSave, hany, if_pos rfl]

/-- What a save does with a core that it halts. -/
def saveHalted (core : Nat) (ws : List WithdrawRec) (s : State) : Out :=
  if !s.strandsReady core || !s.jobsReady core then .next s
  else (State.withdrawAll (clusterOf core) ws ((s.clusterAt (clusterOf core)).jobs.filter (fun j => decide (j.core = core))) s).elim (.next s)
    (fun e => .next (e.2.takeOut core (e.2.saveOf core e.1)))

theorem preemptSave_eq (hstop : (s.coreAt core).stopped = false) (hsaved : (s.coreAt core).saved = none) (hlock : s.relocking core = false) :
    exec (.preemptSave core ws) s = saveHalted core ws (s.haltCore core) := by
  have hno : ¬ ((s.coreAt core).stopped || (s.coreAt core).saved.isSome || s.relocking core) = true := by rw [hstop, hsaved, hlock]; exact Bool.false_ne_true
  change execPreemptSave core ws s = _
  rw [execPreemptSave, if_neg hno]
  unfold saveHalted
  dsimp only
  obtain ⟨r, hr⟩ : ∃ r, State.withdrawAll (clusterOf core) ws
    (((s.haltCore core).clusterAt (clusterOf core)).jobs.filter (fun j => decide (j.core = core))) (s.haltCore core) = r := ⟨_, rfl⟩
  rw [hr]
  cases r <;> rfl

theorem saveHalted_waits (h : s.strandsReady core = false ∨ s.jobsReady core = false) : saveHalted core ws s = .next s := by
  have hnot : (!s.strandsReady core || !s.jobsReady core) = true := by
    rcases h with h | h
    · rw [h, Bool.not_false, Bool.true_or]
    · rw [h, Bool.not_false, Bool.or_true]
  rw [saveHalted, hnot, if_pos rfl]

theorem saveHalted_saves (hstrands : s.strandsReady core = true) (hjobs : s.jobsReady core = true)
    (hw : State.withdrawAll (clusterOf core) ws ((s.clusterAt (clusterOf core)).jobs.filter (fun j => decide (j.core = core))) s = some (jobs, t)) :
    saveHalted core ws s = .next (t.takeOut core (t.saveOf core jobs)) := by
  rw [saveHalted, hstrands, hjobs, Bool.not_true, Bool.or_self, if_neg Bool.false_ne_true, hw, Option.elim_some]

theorem mem_saved_bands {b : Nat} (hb : b < 8) (hown : bitsOf (t.clusterAt (clusterOf core)).bandMap (4 * b) 4 = 8 + core % 8) :
    (b, Tbl.get (t.clusterAt (clusterOf core)).bands b Band.clear) ∈ (t.saveOf core jobs).bands :=
  List.mem_map.2 ⟨b, List.mem_filter.2 ⟨List.mem_range.2 hb, decide_eq_true hown⟩, rfl⟩

theorem mem_saved_claims {k : Nat} (hk : k < 16) (hlive : (t.strandAt core k).live = true) (hg : 0 < (t.strandAt core k).g) :
    (k, (t.strandAt core k).uid, (t.strandAt core k).g) ∈ (t.saveOf core jobs).claims :=
  List.mem_map.2 ⟨k, List.mem_filter.2 ⟨List.mem_filter.2 ⟨List.mem_range.2 hk, hlive⟩, decide_eq_true hg⟩, rfl⟩

theorem halting_haltCore : ((s.haltCore core).coreAt core).halting = true := congrArg Core.halting (State.coreAt_modCore ..)

theorem withdraw_waiting {cl : Nat} {j : Job} (h : j.state ≠ .running ∨ j.desc.kind = .mmsw) : s.withdraw cl j ws = some ({ j with state := .withdrawn }, s) := by
  unfold State.withdraw
  exact if_pos (by rwa [Bool.or_eq_true, decide_eq_true_eq, decide_eq_true_eq])

end save

end Sys2Proof.Machine
end

/-! Pre-emption: the resume (O53). -/
section
namespace Sys2Proof.Machine

variable {s s0 t u v w : State} {core : Nat} {x y : CoreSave}

theorem bitsOf_withBits_same (a : Word) {lo n : Nat} (b : Nat) (h : lo + n ≤ 64) : bitsOf (withBits a lo n b) lo n = b % 2 ^ n := by
  have hlow : a.toNat % 2 ^ lo < 2 ^ lo := Nat.mod_lt _ (by positivity)
  have hmid : b % 2 ^ n < 2 ^ n := Nat.mod_lt _ (by positivity)
  have hsplit : a.toNat % 2 ^ lo + b % 2 ^ n * 2 ^ lo + a.toNat / 2 ^ (lo + n) * 2 ^ (lo + n) =
      a.toNat % 2 ^ lo + 2 ^ lo * (b % 2 ^ n + 2 ^ n * (a.toNat / 2 ^ (lo + n))) := by rw [Nat.pow_add]; ring
  rw [bitsOf, toNat_withBits a b h, hsplit, Nat.add_mul_div_left _ _ (by positivity), Nat.div_eq_of_lt hlow, Nat.zero_add, Nat.add_mul_mod_self_left,
    Nat.mod_eq_of_lt hmid]

/-! The steps of a resume (R369, R407). -/

theorem bringBack_of_saved (h : (s.coreAt core).saved = some x) : s.bringBack core = s := by
  unfold State.bringBack
  dsimp only
  split
  · exact if_pos (by rw [h]; rfl)
  · rfl

theorem bringBack_of_home (h : (s.coreAt core).away = []) : s.bringBack core = s := by
  have hnone : (s.coreAt core).tenant.bind (fun g => (Tbl.find (s.coreAt core).away g).map (fun a => (g, a))) = none := by
    rw [h]
    cases (s.coreAt core).tenant <;> rfl
  unfold State.bringBack
  dsimp only
  rw [hnone]

theorem preemptResume_idle (hs : (s.coreAt core).saved = none) (ha : (s.coreAt core).away = []) : exec (.preemptResume core) s = .next s := by
  change execPreemptResume core s = _
  rw [execPreemptResume, bringBack_of_home ha]
  dsimp only
  rw [hs]

/-- A resume that must wait keeps its save, with the claims cs that are still to be granted. -/
def State.resumeLater (s : State) (core : Nat) (x : CoreSave) (cs : List (Nat × Nat × Nat)) : State :=
  s.modCore core (fun c => { c with saved := some { x with claims := cs }, halting := true })

/-- A resume whose bands, jobs and claims are back ends with the strands and their waits. -/
def State.resumed (s : State) (core : Nat) (x : CoreSave) : State :=
  (((s.modCore core (fun c => { c with saved := none, halting := false })).waitAgain core x).poolEvent (clusterOf core)).wakeUnit core

theorem preemptResume_eq {t1 t2 t3 : State} {v w x : CoreSave} {cs : List (Nat × Nat × Nat)} (hs : (s.coreAt core).saved = some v) (hb : s.bandsBack core v = (w, t1))
    (hj : (if w.bands.isEmpty then State.jobsBack core w.jobs.length w t1 else (w, t1)) = (x, t2))
    (hc : (if x.bands.isEmpty && x.jobs.isEmpty then State.claimsBack core x.claims t2 else (x.claims, t2)) = (cs, t3)) :
    exec (.preemptResume core) s = if !x.bands.isEmpty || !x.jobs.isEmpty || !cs.isEmpty then .next (t3.resumeLater core x cs) else .next (t3.resumed core x) := by
  change execPreemptResume core s = _
  rw [execPreemptResume, bringBack_of_saved hs]
  dsimp only
  rw [hs]
  dsimp only
  rw [hb]
  dsimp only
  rw [hj]
  dsimp only
  rw [hc]
  rfl

/-! Bands (R359, R369). -/

theorem bandsBack_refused (h : ∃ b ∈ x.bands, s.bandBack core b.1 = false) : s.bandsBack core x = (x, s) := by
  obtain ⟨b, hb, hno⟩ := h
  refine if_neg (fun hall => ?_)
  rw [List.all_eq_true.1 hall b hb] at hno
  cases hno

theorem bandsBack_empty (h : x.bands = []) : ∃ t, s.bandsBack core x = (x, t) ∧ t = s.modCluster (clusterOf core) (fun c => c) := by
  refine ⟨_, ?_, rfl⟩
  have hx : ({ x with bands := [] } : CoreSave) = x := by rw [← h]
  unfold State.bandsBack
  rw [h, hx]
  rfl

/-- What the bands that have come back leave. -/
theorem bandsBack_done (h : s.bandsBack core x = (y, t)) (hy : y.bands = []) : y = { x with bands := [] } ∧
    t = s.modCluster (clusterOf core) (fun c => { c with
      bands := x.bands.foldl (fun t b => Tbl.set t b.1 b.2 Band.clear) c.bands, bandMap := x.bands.foldl (fun w b => withBits w (4 * b.1) 4 (8 + core % 8)) c.bandMap }) := by
  unfold State.bandsBack at h
  split at h
  · obtain ⟨rfl, rfl⟩ := Prod.mk.inj h
    exact ⟨rfl, rfl⟩
  · next hno =>
    obtain ⟨rfl, rfl⟩ := Prod.mk.inj h
    exact absurd (by rw [hy]; rfl) hno

/-! Jobs (R356, R369). -/

/-- The jobs js of a save have been placed again. -/
structure Rejoined (core : Nat) (js : List Job) (x y : CoreSave) (s t : State) : Prop where
  save : y = { x with jobs := [], ranges := y.ranges }
  mem : t.mem = s.mem
  strands : ∀ c k, t.strandAt c k = s.strandAt c k
  jobs : (t.clusterAt (clusterOf core)).jobs = (s.clusterAt (clusterOf core)).jobs ++ js.map (fun j => { j with state := .waiting })
  ranges : ∀ r, r ∈ (t.clusterAt (clusterOf core)).ranges ↔ r ∈ (s.clusterAt (clusterOf core)).ranges ∨ (r ∈ x.ranges ∧ ∃ j ∈ js, j.id = r.job)
  bands : (t.clusterAt (clusterOf core)).bands = (s.clusterAt (clusterOf core)).bands
  bandMap : (t.clusterAt (clusterOf core)).bandMap = (s.clusterAt (clusterOf core)).bandMap

/-- The state in which job j of a save stands in the queue again. -/
def State.rejoin (s : State) (core : Nat) (x : CoreSave) (j : Job) : State :=
  (s.modCore core (fun c => { c with saved := some x, halting := true })).modCluster (clusterOf core) (fun c => { c with
    jobs := c.jobs ++ [{ j with state := .waiting }], ranges := c.ranges ++ x.ranges.filter (fun r => decide (r.job = j.id)), lastGrant := core % 8 })

theorem clusterAt_rejoin (j : Job) : (s.rejoin core x j).clusterAt (clusterOf core) = { s.clusterAt (clusterOf core) with
    jobs := (s.clusterAt (clusterOf core)).jobs ++ [{ j with state := .waiting }],
    ranges := (s.clusterAt (clusterOf core)).ranges ++ x.ranges.filter (fun r => decide (r.job = j.id)), lastGrant := core % 8 } := State.clusterAt_modCluster ..

theorem strandAt_rejoin (j : Job) (c k : Nat) : (s.rejoin core x j).strandAt c k = s.strandAt c k :=
  strandAt_modCore (s := s) (f := fun c => { c with saved := some x, halting := true }) (fun _ => rfl) c k

theorem jobsBack_step {j : Job} {js : List Job} {n : Nat} (hx : x.jobs = j :: js) (h : State.jobsBack core (n + 1) x s = (y, t)) (hy : y.jobs = []) :
    State.jobsBack core n { x with jobs := js, ranges := x.ranges.filter (fun r => decide (r.job ≠ j.id)) } (s.rejoin core x j) = (y, t) := by
  rw [State.jobsBack, hx] at h
  dsimp only at h
  split at h
  · exact h
  · obtain ⟨rfl, rfl⟩ := Prod.mk.inj h
    rw [hx] at hy
    cases hy

theorem jobsBack_done (js : List Job) : ∀ {x : CoreSave} {s : State}, x.jobs = js → State.jobsBack core js.length x s = (y, t) → y.jobs = [] →
    Rejoined core js x y s t := by
  induction js with
  | nil =>
    intro x s hx h hy
    obtain ⟨rfl, rfl⟩ := Prod.mk.inj h
    exact ⟨by rw [← hx], rfl, fun _ _ => rfl, (List.append_nil _).symm, fun r => ⟨.inl, fun h => h.elim id (fun ⟨_, j, hj, _⟩ => absurd hj List.not_mem_nil)⟩, rfl, rfl⟩
  | cons j js ih =>
    intro x s hx h hy
    obtain ⟨hsave, hmem, hstrands, hjobs, hranges, hbands, hmap⟩ := ih rfl (jobsBack_step hx h hy) hy
    have hcl := clusterAt_rejoin (s := s) (core := core) (x := x) j
    rw [hcl] at hjobs hbands hmap
    simp only [hcl] at hranges
    refine ⟨hsave, hmem, fun c k => (hstrands c k).trans (strandAt_rejoin j c k), ?_, fun r => ?_, hbands, hmap⟩
    · rw [hjobs, List.map_cons, List.append_assoc]
      rfl
    · rw [hranges, List.mem_append, List.mem_filter, List.mem_filter, decide_eq_true_eq, decide_eq_true_eq]
      constructor
      · rintro ((hin | ⟨hin, hid⟩) | ⟨⟨hin, hne⟩, j', hj', hid⟩)
        · exact .inl hin
        · exact .inr ⟨hin, j, List.mem_cons_self, hid.symm⟩
        · exact .inr ⟨hin, j', List.mem_cons_of_mem _ hj', hid⟩
      · rintro (hin | ⟨hin, j', hj', hid⟩)
        · exact .inl (.inl hin)
        · by_cases hr : r.job = j.id
          · exact .inl (.inr ⟨hin, hr⟩)
          · rcases List.mem_cons.1 hj' with rfl | hj'
            · exact absurd hid.symm hr
            · exact .inr ⟨⟨hin, hr⟩, j', hj', hid⟩

/-- A full queue takes no job back. -/
theorem jobsBack_full {j : Job} {js : List Job} {n : Nat} (hx : x.jobs = j :: js) (hfull : 16 ≤ (s.clusterAt (clusterOf core)).jobs.length) :
    State.jobsBack core (n + 1) x s = (x, s.modCore core (fun c => { c with saved := some x, halting := true })) := by
  have hno : decide (((s.modCore core (fun c => { c with saved := some x, halting := true })).clusterAt (clusterOf core)).jobs.length < Config.jobQueueDepth) = false :=
    decide_eq_false (Nat.not_lt.2 hfull)
  rw [State.jobsBack, hx]
  dsimp only
  rw [hno, Bool.and_false, if_neg Bool.false_ne_true]

/-! Claims (R351, R407). -/

/-- Claims that have been granted have changed the groups of strands alone. -/
theorem claimsBack_leaves : ∀ (cs : List (Nat × Nat × Nat)) {ds : List (Nat × Nat × Nat)} {s t : State}, State.claimsBack core cs s = (ds, t) →
    t = { s with cores := t.cores } ∧ ∀ c k, ∃ n, t.strandAt c k = { s.strandAt c k with g := n }
  | [], _, s, _, h => by
    obtain ⟨rfl, rfl⟩ := Prod.mk.inj h
    exact ⟨rfl, fun c k => ⟨_, rfl⟩⟩
  | (k, i, g) :: cs, _, s, t, h => by
    rw [State.claimsBack] at h
    split at h
    · exact claimsBack_leaves cs h
    · split at h
      · obtain ⟨rfl, rfl⟩ := Prod.mk.inj h
        exact ⟨rfl, fun c k => ⟨_, rfl⟩⟩
      · obtain ⟨heq, hstrands⟩ := claimsBack_leaves cs h
        refine ⟨heq.trans rfl, fun c k' => ?_⟩
        obtain ⟨n, hn⟩ := hstrands c k'
        rw [hn]
        by_cases hck : c = core ∧ k' = k
        · obtain ⟨rfl, rfl⟩ := hck
          rw [State.strandAt_modStrand]
          exact ⟨n, rfl⟩
        · rw [strandAt_modStrand_of_ne _ hck]
          exact ⟨n, rfl⟩

theorem claimsBack_single {k i g : Nat} (h : State.claimsBack core [(k, i, g)] s = ([], t)) (ha : s.alive core k i = true) : t = s.modStrand core k (fun m => { m with g := g }) := by
  rw [State.claimsBack, ha, Bool.not_true, if_neg Bool.false_ne_true] at h
  split at h
  · cases (Prod.mk.inj h).1
  · exact (Prod.mk.inj h).2.symm

theorem claimsBack_short {k i g : Nat} (ha : s.alive core k i = true) (hg : s.freeGroups (clusterOf core) < g) : State.claimsBack core [(k, i, g)] s = ([(k, i, g)], s) := by
  rw [State.claimsBack, ha, Bool.not_true, if_neg Bool.false_ne_true, if_pos hg]

end Sys2Proof.Machine
end

/-! Pre-emption: the waits made anew, and the obligation (O53). -/
section
namespace Sys2Proof.Machine

variable {s s0 t u v w : State} {core : Nat} {x y : CoreSave}

/-! The waits of a save (R208). -/

/-- The waits of a save, list by list. -/
def CoreSave.lists (x : CoreSave) := (x.waits, x.bars, x.tags, x.rings, x.twaits, x.lanes)

theorem lists_eq {ws bs ts rs tw ls} (h1 : x.waits = ws) (h2 : x.bars = bs) (h3 : x.tags = ts) (h4 : x.rings = rs) (h5 : x.twaits = tw) (h6 : x.lanes = ls) :
    x.lists = (ws, bs, ts, rs, tw, ls) := by rw [CoreSave.lists, h1, h2, h3, h4, h5, h6]

theorem waitAgain_none (h : x.lists = ([], [], [], [], [], [])) : s.waitAgain core x = s := by
  simp only [CoreSave.lists, Prod.mk.injEq] at h
  obtain ⟨hwaits, hbars, htags, hrings, htwaits, hlanes⟩ := h
  simp only [State.waitAgain, hwaits, hbars, htags, hrings, htwaits, hlanes, List.foldl_nil]

section single

variable {k n p q : Nat} {r : StrandRef}

theorem waitAgain_wait {w : Waiter} (h : x.lists = ([w], [], [], [], [], [])) (ha : s.alive w.msg.core w.msg.slot w.msg.uid = true) :
    s.waitAgain core x = if s.stalled w.msg then { s with waiters := s.waiters ++ [⟨w.msg, true⟩] } else s.waiterArrives w.msg := by
  simp only [CoreSave.lists, Prod.mk.injEq] at h
  obtain ⟨hwaits, hbars, htags, hrings, htwaits, hlanes⟩ := h
  simp only [State.waitAgain, hwaits, hbars, htags, hrings, htwaits, hlanes, List.foldl_nil, List.foldl_cons, ha, Bool.not_true, Bool.false_eq_true, if_false]

theorem waiterArrives_swait {m : Msg} {b : Word} (hawake : ∀ h ∈ m.homes, s.awakeAt h = true) (hclean : ∀ i, i < 8 → Tbl.find s.errs (poisonWord (m.loc + i)) = none)
    (hb : m.body = .swait b) : s.waiterArrives m = s.swaitArrive m b := by
  rw [State.waiterArrives, wakeHomes_of_awake hawake, meet_of_clean hclean, hb]

/-- What a barrier wait that is made anew finds: an answer, or none yet. -/
def foundAt (r : StrandRef) : Option Word × State → State
  | (some a, s) => s.foundReply r a
  | (none, s) => s

theorem waitAgain_bar {c : Nat} (h : x.lists = ([], [(k, c, n, p)], [], [], [], [])) (hp : s.stillParked ⟨core, k⟩ .barrier = true) :
    s.waitAgain core x = foundAt ⟨core, k⟩ (s.barApply c n (.wait p) ⟨core, k⟩ (s.strandAt core k).uid) := by
  simp only [CoreSave.lists, Prod.mk.injEq] at h
  obtain ⟨hwaits, hbars, htags, hrings, htwaits, hlanes⟩ := h
  simp only [State.waitAgain, hwaits, hbars, htags, hrings, htwaits, hlanes, List.foldl_nil, List.foldl_cons, hp, Bool.not_true, Bool.false_eq_true, if_false]
  rfl

/-- A barrier wait of the phase in progress is listed, and one of another phase is over (R198). -/
theorem barApply_wait {c uid : Nat} (h1 : ((s.coreAt c).bar n).st = 1) : s.barApply c n (.wait p) r uid = if ((s.coreAt c).bar n).ph ≠ p then (some 0, s)
    else (none, s.modCore c (fun x => x.setBar n { (s.coreAt c).bar n with waiters := ((s.coreAt c).bar n).waiters ++ [(r, uid)] })) := if_neg (not_not.2 h1)

theorem waitAgain_tag {uid pa ph ix : Nat} (h : x.lists = ([], [], [.strand r uid pa ph ix], [], [], [])) (hp : s.stillParked r .ctalloc = true) :
    s.waitAgain core x = s.modSag (s.strandOf r).sag (fun g => { g with tagWait := g.tagWait ++ [.strand r uid pa ph ix] }) := by
  simp only [CoreSave.lists, Prod.mk.injEq] at h
  obtain ⟨hwaits, hbars, htags, hrings, htwaits, hlanes⟩ := h
  simp only [State.waitAgain, hwaits, hbars, htags, hrings, htwaits, hlanes, List.foldl_nil, List.foldl_cons, hp, if_true]

theorem waitAgain_ring (h : x.lists = ([], [], [], [(k, q)], [], [])) (hp : s.stillParked ⟨core, k⟩ (.ring q) = true) :
    s.waitAgain core x = State.serveRing 1 (s.modQueue (s.strandOf ⟨core, k⟩).sag q (fun x => { x with waiters := x.waiters ++ [(⟨core, k⟩, (s.strandAt core k).uid)] }))
      (s.strandOf ⟨core, k⟩).sag q := by
  simp only [CoreSave.lists, Prod.mk.injEq] at h
  obtain ⟨hwaits, hbars, htags, hrings, htwaits, hlanes⟩ := h
  simp only [State.waitAgain, hwaits, hbars, htags, hrings, htwaits, hlanes, List.foldl_nil, List.foldl_cons, hp, if_true]

/-- A queue whose ring is empty serves nobody (R381). -/
theorem serveRing_of_empty {sag : Nat} {z : TaskQueue} (h : s.queueAt sag q = some z) (hr : z.ring = []) : State.serveRing 1 s sag q = s := by
  rw [State.queueAt] at h
  rw [State.serveRing, h]
  dsimp only
  rw [hr]
  cases z.waiters <;> rfl

theorem waitAgain_lane {c : Claimant} (h : x.lists = ([], [], [], [], [], [c])) (hp : s.stillParked c.who .lane = true) :
    s.waitAgain core x = s.modCluster (clusterOf core) (fun x => { x with claimants := Claimant.join { c with cycle := s.poolCycle } x.claimants }) := by
  simp only [CoreSave.lists, Prod.mk.injEq] at h
  obtain ⟨hwaits, hbars, htags, hrings, htwaits, hlanes⟩ := h
  simp only [State.waitAgain, hwaits, hbars, htags, hrings, htwaits, hlanes, List.foldl_nil, List.foldl_cons, hp, if_true]

end single

/-! A resume that ends (R407). -/

theorem wakeUnit_eq (c : Nat) : s.wakeUnit c = { s with cores := (s.wakeUnit c).cores, dies := (s.wakeUnit c).dies } := by
  have hdie (t : State) (d : Nat) : t.wakeDie d = { t with dies := (t.wakeDie d).dies } := by
    unfold State.wakeDie
    split <;> rfl
  unfold State.wakeUnit
  rw [hdie]
  split <;> rfl

/-- The end of a resume of a save without waits leaves memory, the cluster and the strands, but for shrinks. -/
theorem resumed_leaves (h : x.lists = ([], [], [], [], [], [])) : (s.resumed core x).mem = s.mem ∧ ((s.resumed core x).coreAt core).saved = none ∧
    ((s.resumed core x).coreAt core).halting = false ∧ (s.resumed core x).clusterAt (clusterOf core) = s.clusterAt (clusterOf core) ∧
    ∀ k, ∃ n, (s.resumed core x).strandAt core k = { s.strandAt core k with shrink := n } := by
  have he : s.resumed core x = ((s.modCore core (fun c => { c with saved := none, halting := false })).poolEvent (clusterOf core)).wakeUnit core := by
    rw [State.resumed, waitAgain_none h]
  rw [he]
  refine ⟨?_, ?_, ?_, ?_, fun k => ?_⟩
  · rw [wakeUnit_eq]
    exact mem_poolEvent ..
  · exact (core_wakeUnit (p := Core.saved) (fun _ => rfl) _ _).trans ((poolEvent_core (p := Core.saved) (fun _ _ => rfl) _ _).trans
      (congrArg Core.saved (State.coreAt_modCore ..)))
  · exact (core_wakeUnit (p := Core.halting) (fun _ => rfl) _ _).trans ((poolEvent_core (p := Core.halting) (fun _ _ => rfl) _ _).trans
      (congrArg Core.halting (State.coreAt_modCore ..)))
  · rw [wakeUnit_eq]
    exact clusterAt_poolEvent ..
  · rw [strandAt_wakeUnit]
    obtain ⟨n, hn⟩ := strandAt_poolEvent (s.modCore core (fun c => { c with saved := none, halting := false })) (clusterOf core) core k
    exact ⟨n, hn.trans (by rw [strandAt_modCore (by intro x; rfl)])⟩

section steps

variable {t1 t2 t3 : State} {a b c : CoreSave}

/-- A resume in which bands, jobs and claims come back. -/
theorem preemptResume_ends (hs : (s.coreAt core).saved = some a) (hb : s.bandsBack core a = (b, t1)) (hb0 : b.bands = [])
    (hj : State.jobsBack core b.jobs.length b t1 = (c, t2)) (hj0 : c.jobs = []) (hc : State.claimsBack core c.claims t2 = ([], t3)) :
    exec (.preemptResume core) s = .next (t3.resumed core c) ∧ Rejoined core b.jobs b c t1 t2 := by
  have hre := jobsBack_done b.jobs rfl hj hj0
  have hc0 : c.bands = [] := by
    rw [hre.save]
    exact hb0
  have hjobs : (if b.bands.isEmpty then State.jobsBack core b.jobs.length b t1 else (b, t1)) = (c, t2) := (if_pos (by rw [hb0]; rfl)).trans hj
  have hclaims : (if c.bands.isEmpty && c.jobs.isEmpty then State.claimsBack core c.claims t2 else (c.claims, t2)) = ([], t3) :=
    (if_pos (by rw [hc0, hj0]; rfl)).trans hc
  have hexec := preemptResume_eq hs hb hjobs hclaims
  rw [hc0, hj0] at hexec
  exact ⟨hexec, hre⟩

end steps

/-- Settles O53: a save is what `takeOut` leaves, a resume takes bands, jobs, claims and waits back in turn. -/
theorem preemptionSavesAndResumes : Obligations.PreemptionSavesAndResumes := by
  unfold Obligations.PreemptionSavesAndResumes
  refine ⟨fun core ws s h => preemptSave_refused h, fun core ws s hstop hsaved hlock => ?save, fun cl j ws s h => withdraw_waiting h,
    fun core s hs ha => preemptResume_idle hs ha, fun core s v hs => ⟨fun hno => ?bands, fun k i n hb hj hc ha hg => ?claims, fun j js hb hj hfull => ?jobs,
      fun w x t1 t2 t3 hb hb0 hj hj0 hc hwaits hbars htags hrings htwaits hlanes => ?ends, fun w x t1 t2 t3 hb hb0 hj hj0 hc => ?general⟩,
    fun core k uid s v r hr huid => ⟨fun w hw h1 h2 h3 h4 h5 ha => ?wait, fun c n p hb h1 h2 h3 h4 h5 hp hst => ?bar, fun u pa ph ix ht h1 h2 h3 h4 h5 hp => ?tag,
      fun q g x hq h1 h2 h3 h4 h5 hp hg hx hempty => ?ring, fun c hc h1 h2 h3 h4 h5 hwho hp => ?lane⟩⟩
  case save =>
    intro h
    have hexec := preemptSave_eq (ws := ws) hstop hsaved hlock
    refine ⟨halting_haltCore, fun hno => hexec.trans (saveHalted_waits hno), fun jobs t hstrands hjobs hw => ?_⟩
    refine ⟨_, t.saveOf core jobs, hexec.trans (saveHalted_saves hstrands hjobs hw), mem_takeOut, coreAt_takeOut.1, coreAt_takeOut.2, rfl,
      congrArg Cluster.jobs clusterAt_takeOut, fun r hr => ?_, fun w hw => ?_, rfl, rfl, fun b hb hown => mem_saved_bands hb hown,
      fun k hk hlive hg => mem_saved_claims hk hlive hg, fun k => ?_⟩
    · rw [clusterAt_takeOut] at hr
      exact of_decide_eq_true (List.mem_filter.1 hr).2
    · rw [waiters_takeOut] at hw
      exact of_decide_eq_true (List.mem_filter.1 hw).2
    · rw [strandAt_takeOut]
      exact ⟨rfl, rfl, rfl⟩
  case bands =>
    have hne : v.bands.isEmpty = false := by
      obtain ⟨b, hb, -⟩ := hno
      exact List.isEmpty_eq_false_iff.2 (List.ne_nil_of_mem hb)
    have hexec := preemptResume_eq hs (bandsBack_refused hno) (if_neg (by rw [hne]; exact Bool.false_ne_true)) (if_neg (by rw [hne]; exact Bool.false_ne_true))
    rw [hne] at hexec
    exact hexec
  case claims =>
    obtain ⟨t, hbb, rfl⟩ := bandsBack_empty (s := s) (core := core) hb
    have hclaims := claimsBack_short (s := s.modCluster (clusterOf core) (fun c => c)) ha hg
    rw [← hc] at hclaims
    have hexec := preemptResume_eq hs hbb ((if_pos (by rw [hb]; rfl)).trans (by rw [hj]; rfl)) ((if_pos (by rw [hb, hj]; rfl)).trans hclaims)
    rw [show (!v.bands.isEmpty || !v.jobs.isEmpty || !v.claims.isEmpty) = true by rw [hc]; exact Bool.or_true _] at hexec
    exact ⟨_, hexec, congrArg Core.saved (State.coreAt_modCore ..), congrArg Core.halting (State.coreAt_modCore ..), rfl⟩
  case jobs =>
    obtain ⟨t, hbb, rfl⟩ := bandsBack_empty (s := s) (core := core) hb
    have hcl : (s.modCluster (clusterOf core) (fun c => c)).clusterAt (clusterOf core) = s.clusterAt (clusterOf core) := State.clusterAt_modCluster ..
    have hback := jobsBack_full (s := s.modCluster (clusterOf core) (fun c => c)) (n := js.length) hj (by rw [hcl]; exact hfull)
    rw [← List.length_cons (a := j), ← hj] at hback
    have hnot : ¬ (v.bands.isEmpty && v.jobs.isEmpty) = true := by rw [hj, List.isEmpty_cons, Bool.and_false]; exact Bool.false_ne_true
    have hexec := preemptResume_eq hs hbb ((if_pos (by rw [hb]; rfl)).trans hback) (if_neg hnot)
    rw [show (!v.bands.isEmpty || !v.jobs.isEmpty || !v.claims.isEmpty) = true by rw [hj, List.isEmpty_cons, Bool.not_false, Bool.or_true, Bool.true_or]] at hexec
    exact ⟨_, hexec, congrArg Core.saved (State.coreAt_modCore ..), congrArg Core.halting (State.coreAt_modCore ..), congrArg Cluster.jobs hcl, rfl⟩
  case ends =>
    obtain ⟨rfl, rfl⟩ := bandsBack_done hb hb0
    obtain ⟨hexec, hre⟩ := preemptResume_ends hs hb hb0 hj hj0 hc
    have hlists : x.lists = ([], [], [], [], [], []) := by
      rw [hre.save]
      exact lists_eq hwaits hbars htags hrings htwaits hlanes
    obtain ⟨heq, hgroups⟩ := claimsBack_leaves _ hc
    obtain ⟨hmem, hsaved, hhalting, hcl, hstrands⟩ := resumed_leaves (s := t3) hlists
    have hmem3 : t3.mem = t2.mem := by rw [heq]
    have hcl3 : t3.clusterAt (clusterOf core) = t2.clusterAt (clusterOf core) := by
      rw [heq]
      rfl
    have hcl1 := State.clusterAt_modCluster (s := s) (clusterOf core) (fun c => { c with
      bands := v.bands.foldl (fun t b => Tbl.set t b.1 b.2 Band.clear) c.bands, bandMap := v.bands.foldl (fun w b => withBits w (4 * b.1) 4 (8 + core % 8)) c.bandMap })
    have hstrand (k : Nat) : t2.strandAt core k = s.strandAt core k := hre.strands core k
    refine ⟨_, hexec, hmem.trans (hmem3.trans hre.mem), hsaved, hhalting, ?_, fun r => ?_, fun k i n hv halive => ?_, fun b z hv hb8 hsorted => ⟨?_, ?_⟩, fun k => ?_⟩
    · rw [hcl, hcl3, hre.jobs, hcl1]
    · rw [hcl, hcl3, hre.ranges, hcl1]
    · have hclaims : x.claims = [(k, i, n)] := by rw [hre.save]; exact hv
      have halive2 : t2.alive core k i = true := by
        rw [State.alive, hstrand]
        exact halive
      have ht3 := claimsBack_single (hclaims ▸ hc) halive2
      obtain ⟨y, hy⟩ := hstrands k
      rw [hy, ht3, State.strandAt_modStrand]
    · rw [hcl, hcl3, hre.bandMap, hcl1, hv]
      exact (bitsOf_withBits_same _ _ (by omega)).trans (Nat.mod_eq_of_lt (by omega))
    · rw [hcl, hcl3, hre.bands, hcl1, hv]
      exact Tbl.get_set_same _ _ _ _ hsorted
    · obtain ⟨y, hy⟩ := hstrands k
      obtain ⟨n, hn⟩ := hgroups core k
      rw [hy, hn, hstrand]
  case general =>
    obtain ⟨rfl, rfl⟩ := bandsBack_done hb hb0
    obtain ⟨hexec, hre⟩ := preemptResume_ends hs hb hb0 hj hj0 hc
    refine ⟨hexec, ?_⟩
    rw [hre.save]
  case wait =>
    have hgo := waitAgain_wait (core := core) (lists_eq hw h1 h2 h3 h4 h5) ha
    refine ⟨fun hst => hgo.trans (if_pos hst), fun b hst hawake hclean hb hd => ?_⟩
    have harrive := hgo.trans ((if_neg (ne_true_of_eq_false hst)).trans (waiterArrives_swait hawake hclean hb))
    exact ⟨fun hle => harrive.trans (swaitArrive_met hd hle), fun hlt => harrive.trans (swaitArrive_unmet hd hlt)⟩
  case bar =>
    subst hr huid
    have hgo := waitAgain_bar (lists_eq h1 hb h2 h3 h4 h5) hp
    rw [barApply_wait hst] at hgo
    refine ⟨fun hph => ?_, fun hph => ?_⟩
    · rw [if_neg (not_not.2 hph)] at hgo
      exact hgo.trans (modCore_congr rfl)
    · rw [if_pos hph] at hgo
      exact hgo
  case tag => exact waitAgain_tag (lists_eq h1 h2 ht h3 h4 h5) hp
  case ring =>
    subst hr huid
    have hqueue := queueAt_modQueue (fun x => { x with waiters := x.waiters ++ [(⟨core, k⟩, (s.strandAt core k).uid)] }) (queueAt_eq_some.2 ⟨g, hg, hx⟩)
    exact (waitAgain_ring (lists_eq h1 h2 h3 hq h4 h5) hp).trans (serveRing_of_empty hqueue hempty)
  case lane =>
    subst hr
    exact waitAgain_lane (lists_eq h1 h2 h3 h4 h5 hc) (by rw [hwho]; exact hp)

end Sys2Proof.Machine
end
